-- ==== Sys2Proof/Word.lean ====
section
/-!
DEFINITION. Word.lean: the word types of the SX3216 model and nothing else. Fields the manual numbers
as bits are bit vectors; counts are `Nat`, positions along the web are `Int`.
-/

namespace Sys2Proof

/-- One byte of a stream, an entry, a record or a memory. -/
abbrev Byte := BitVec 8

/-- A 32-bit register or record word. -/
abbrev W32 := BitVec 32

/-- A 64-bit register or time value. -/
abbrev W64 := BitVec 64

end Sys2Proof
end

