-- ==== Sys2Proof/Syntax.lean ====
section
/-!
DEFINITION. Syntax.lean: the commands the block takes, `Sys2Proof.Instr`, one constructor per row of the
spec's opcode table, and the data types of their operands. An operand is what reaches the block from
outside with the happening: levels of pins, contents of received blocks and packets, host memory read by
DMA, and the analog results (measurements, error injection by nature) that no state of the block decides.
-/

namespace Sys2Proof

/-- The two halyard ports (R234). -/
inductive Side where
  | e
  | w
deriving DecidableEq, Repr

/-- One element of a buffer list as the DMA finds it (R293): its length, whether its reserved bytes are 0,
and whether its transfer ends with Unsupported Request, Completer Abort or poisoned data. -/
structure HostElem where
  len : Nat
  reservedZero : Bool
  dmaError : Bool
deriving DecidableEq, Repr

/-- A buffer list and the bytes its buffers hold, joined in list order (R293). For an output list
`data` is empty: the block writes those buffers. -/
structure HostList where
  elems : List HostElem
  data : List Byte
deriving DecidableEq, Repr

/-- The three registers that place a ring in host memory (R287, R292). -/
inductive RingReg where
  | baseLo
  | baseHi
  | size
deriving DecidableEq, Repr

/-- What cold-boot SDRAM training finds (R353, R364): whether both channels are alike and every device
answers, whether each data rate trains with margin, the density code of DMC_CFG, the ranks, the trained
values, and the codes the impedance step chooses for the elements of group 2 (R419). -/
structure Training where
  alike : Bool
  ok5600 : Bool
  ok4800 : Bool
  density : Fin 4
  ranks2 : Bool
  values : List Byte
  codes : List Nat
deriving DecidableEq, Repr

/-- A fault a pennant reports itself (R104): uncorrectable local memory (0x0502), or a residue or
register parity hit (0x0504). -/
inductive PennantFault where
  | memory
  | residue
deriving DecidableEq, Repr

/-- Where the line store met an error, as R118 distinguishes. -/
inductive LineStorePlace where
  /-- A word of the table region, and the stripe-hoists whose row selection has read it. -/
  | table (readers : List (Int × Nat))
  | band (hoist : Int) (stripe : Nat)
  | drainingOrDelay (row : Fin 64) (line : Int) (word : Nat)
deriving DecidableEq, Repr

/-- A line-store ECC error: single-bit (corrected) or double-bit (uncorrectable), R116. -/
structure LineStoreError where
  place : LineStorePlace
  double : Bool
deriving DecidableEq, Repr

/-- A 64-bit word, of the row-line read out for a row, that fails its check uncorrectably (R118). -/
structure BadWord where
  row : Fin 64
  word : Nat
deriving DecidableEq, Repr

/-- Causes of a failed head link that arrive from outside (R184). -/
inductive HeadLinkCause where
  | signal
  | lock
  | presence
deriving DecidableEq, Repr

/-- Causes of a failed halyard link (R236). -/
inductive HalyardCause where
  /-- Loss of signal, and whether it is that of the receive clock lane (R236, R237). -/
  | signal (clock : Bool)
  | lock
  | headers
  | crc
deriving DecidableEq, Repr

/-- How the steps of a two-copy flash write read back (R426): the first write, its repetition, and the
write of the other copy. -/
structure FlashResult where
  first : Bool
  second : Bool
  other : Bool
deriving DecidableEq, Repr

/-- How the next commit of the event recorder goes (R406): whether the flash write holds (in one of its
two tries) in each area the record is bound for, and whether the spill copy is readable. -/
structure CommitResult where
  service : Bool
  episode : Bool
  spill : Bool
deriving DecidableEq, Repr

/-- The kinds of SDRAM read error (DMC_LASTERR.KIND, R367). -/
inductive SdramErrorKind where
  | corrected
  | uncorrectable
  | address
deriving DecidableEq, Repr

/-- An error met by an SDRAM read, with the physical address of the burst (R368). -/
structure SdramError where
  addr : Nat
  kind : SdramErrorKind
deriving DecidableEq, Repr

/-- A unit that returns to service through shadow (R391), head ports and links having rows of their own. -/
inductive ReturnUnit where
  | pennant (p : Fin 16)
  | decompressor (u : Fin 4)
  | lane (l : Fin 32)
  | headPort (p : Fin 32)
deriving DecidableEq, Repr

/-- Blocks that a reaction or RESET_UNIT resets (R380). -/
inductive ResetBlock where
  | pennant (p : Nat)
  | decompressor (u : Nat)
  | lane (l : Nat)
  | headPort (p : Nat)
  | halyard (sd : Side)
  | axis (a : Nat)
deriving DecidableEq, Repr

/-- A block reports that its reset is complete: which block, and when (R380). -/
structure ResetReport where
  block : ResetBlock
  t : Nat
deriving DecidableEq, Repr

/-- What a received packet carries in PKT_START and in its delivery header (R242 to R244): the port it
came in on, source and destination bytes, hop count, the role-traffic and shadow flags, whether its CRC
holds, and the incarnation and sequence numbers (for an unacknowledged class `sq` is the 16-bit count). A guest is named by its
identity, at the start of the payload (R244). -/
structure PktHdr where
  port : Side
  src : Nat
  dst : Nat
  hops : Nat
  role : Bool
  shadow : Bool
  crcOk : Bool
  incarnation : Nat
  sq : Nat
  guest : Nat := 0
deriving DecidableEq, Repr

/-- The payload of BEACON (R244). -/
structure BeaconMsg where
  epoch : Nat
  manager : Nat
  standby : Option Nat
  generation : Nat
  count : Nat
  taiSeconds : Nat
deriving DecidableEq, Repr

/-- The payload of NODE (R244): unique identity, the node number if admitted, role, colour, lead
setting, eligibility, whether it reports a warm reset, whether it reports itself as printing or in
standby (R435), and whether it reports every node reached both ways round. -/
structure NodeMsg where
  identity : Nat
  node : Option Nat
  role : Nat
  colour : Nat
  lead : Nat
  eligible : Bool
  warmReset : Bool
  standby : Bool
  bothWays : Bool
deriving DecidableEq, Repr

/-- The messages of class CONTROL that the chapters name (R244, R250, R251, R253, R254, R267 to R269, R272). What a member tells the
manager of itself: its colour and web offset, the web-line offset it has measured, its wish for a new edge, the sync groups of its open jobs
with their gaps, and its mark 'calibration awaiting check' cleared (DEDUCED, log 75). The manager tells of a calendar step that an error in
TIME does not show, in ns (DEDUCED, log 79). -/
inductive ControlMsg where
  | admitted (identity node : Nat) (checkCalibration : Bool)
  | expelled (identity : Nat)
  | standbyAppointed (node : Nat)
  | offsetEdge (edgeTime : Nat) (webLine : Int) (stalled : Bool)
  | profileAccepted (mgrSeq : Nat)
  | profileStatus (mgrSeq status detail : Nat)
  | roleSet (colour : Nat) (webOffset : Int)
  | offsetMeasured (offset : Int)
  | offsetWanted
  | memberOf (groups : List (Nat × Nat))
  | calChecked
  | timeStepped (delta : Int)
deriving DecidableEq, Repr

/-- One entry of the ring roster (R251), with what the manager keeps of the node. -/
structure RosterEntry where
  identity : Nat
  node : Nat
  colour : Nat
  webOffset : Int
  eligible : Bool
  calCheck : Bool
  /-- The chip is admitted now; without it the entry is what the stored roster says. -/
  admitted : Bool
deriving DecidableEq, Repr

/-- A page of a sync group on the manager (R269). -/
structure SyncPage where
  group : Nat
  page : Nat
  reports : List (Nat × Nat)
  since : Nat
  placed : Option Int := none
  reprint : Bool := false
deriving DecidableEq, Repr

/-- The body of an acknowledged packet other than MIRROR (R244). -/
inductive Payload where
  | control (m : ControlMsg)
  | speed (limit cause : Nat)
  | syncReady (group page lines : Nat)
  | syncPlace (group page : Nat) (w : Int)
  | syncReprint (group page : Nat)
  | profile (mgrSeq : Nat) (data : List Byte)
  | handover
deriving DecidableEq, Repr

/-- A packet the manager will send once its MIRROR is acknowledged (R257). -/
structure HeldPacket where
  dst : Nat
  sq : Nat
  body : Payload
deriving DecidableEq, Repr

/-- The payload of MIRROR (R257): the packet to 0xFD that the transaction answers, the roster, the
limits of the nodes with their causes, v_press, the hold time, the state of page sync with the members' web-line offsets and groups, and
the packets the transaction will send. `full` marks the end of the transfer of the whole manager state to a newly appointed standby
(R250); it brings how far the packets of each source to 0xFD are processed (source, incarnation, sequence). -/
structure MirrorMsg where
  coversSrc : Nat
  coversSq : Nat
  roster : List RosterEntry
  limits : List (Nat × Nat × Nat)
  packets : List HeldPacket
  vPress : Nat
  holdMs : Nat
  syncEnd : List (Nat × Int)
  syncPages : List SyncPage
  full : Bool
  offsets : List (Nat × Int) := []
  groups : List (Nat × Nat × Nat) := []
  delivered : List (Nat × Nat × Nat) := []
deriving DecidableEq, Repr

/-- The commands of the block: one constructor per row of `spec/opcode_table.json`, in the table's order.
An operand `t` is the moment of the happening on the device time count, in ns (R143). -/
inductive Instr where
  /-- RAIL_FALL (R434): A rail falls below 85 % of nominal for 1 µs, so power-on reset is asserted at once and every pin returns to high impedance. -/
  | railFall (rail : Fin 8)
  /-- POWER_ON_RESET (R434): Power-on reset ends 10 ms after every rail is good and SYSCLK is present, and the cold boot begins. -/
  | powerOnReset (mode1 mode0 mgrEn : Bool) (bist : BitVec 32) (xres : Nat) (codes : List Nat)
  /-- SUPPLY_OUT_OF_RANGE (R434): A rail leaves its recommended range while staying above 85 % of nominal, which raises fault 0x0C03. -/
  | supplyOutOfRange (rail : Fin 8) (mv t : Nat)
  /-- SDRAM_TRAINING_DONE (R364): Cold-boot SDRAM training completes, falling back to 4800 MT/s or raising a C3 fault if margins fail. -/
  | sdramTrainingDone (tr : Training) (t : Nat)
  /-- MAILBOX_READY (R446): After training, device firmware reads the calibration set, writes the boot record and sets MBX_STATUS.READY. -/
  | mailboxReady (t : Nat)
  /-- START_UP_EPISODE_CLOSE (R446): Ring-up and head bring-up finish, the start-up episode closes and READY is driven high. -/
  | startUpEpisodeClose (t : Nat)
  /-- CONFIG_REQUEST (R274): A PCI Express configuration request is answered with Request Retry Status until the fuse identity is loaded, and with that identity afterwards. -/
  | configRequest
  /-- PERST_N_ASSERT (R276): Assertion of PERST_N causes a warm reset of the whole device. -/
  | perstNAssert (t : Nat)
  /-- PERST_N_DEASSERT (R4): Deassertion of PERST_N samples the MODE straps and MGR_EN. -/
  | perstNDeassert (mode1 mode0 mgrEn : Bool) (t : Nat)
  /-- SDRAM_WARM_RETUNE (R365): After a warm reset the SDRAM leaves self-refresh and re-tunes, or falls back to full training with its contents lost. -/
  | sdramWarmRetune (ok : Bool) (tr : Training) (t : Nat)
  /-- JOURNAL_RECOVERY (R392): Recovery firmware restores the settings and resolves every accepted or running journal entry after a warm reset. -/
  | journalRecovery (t : Nat)
  /-- SENTINEL_WATCHDOG_EXPIRE (R448): The sentinel watchdog expires, which raises 0x0F01 and starts a warm reset at once. -/
  | sentinelWatchdogExpire (t : Nat)
  /-- SYSCLK_LOSS (R438): No SYSCLK edge is seen for 1 µs, which raises fault 0x0C01. -/
  | sysclkLoss (t : Nat)
  /-- PLL_LOCK_LOSS (R441): A PLL loses lock, which raises 0x0C01, or a host interface reset for the host PLL. -/
  | pllLockLoss (pll : Fin 10) (t : Nat)
  /-- SENTINEL_OSC_CHECK (R441): Every 1 ms the sentinel oscillator is measured against SYSCLK, which raises 0x0F02 if it is outside ±10 %. -/
  | sentinelOscCheck (freq t : Nat)
  /-- DEVICE_TIME_COMPARE (R159): Every 1 ms the two device time count copies are compared, and no further fire instant is committed if they differ. -/
  | deviceTimeCompare (positionCopy headCopy t : Nat)
  /-- DIE_TEMP_ALARM (R482): A die sensor reads 105 °C or more, which raises fault 0x0C04. -/
  | dieTempAlarm (sensor : Fin 8) (raw : BitVec 16) (t : Nat)
  /-- REFCLK_PCIE_LOSS (R439): Loss of REFCLK_PCIE takes the link down and causes a host interface reset. -/
  | refclkPcieLoss (t : Nat)
  /-- LINK_DOWN (R275): The link leaves DL_Active for a cause other than PERST_N, which causes a host interface reset. -/
  | linkDown (t : Nat)
  /-- FUNCTION_LEVEL_RESET (R275): A function-level reset causes a host interface reset. -/
  | functionLevelReset (t : Nat)
  /-- BUS_MASTER_ENABLE_CLEAR (R278): Bus Master Enable is cleared, which stops DMA, completions and interrupts. -/
  | busMasterEnableClear (t : Nat)
  /-- BUS_MASTER_ENABLE_SET (R278): Bus Master Enable is set again, and DMA resumes. -/
  | busMasterEnableSet (t : Nat)
  /-- BUS_MASTER_WAIT_TIMEOUT (R278): A command that has waited 100 ms for Bus Master Enable completes CANCELLED with detail bit 31. -/
  | busMasterWaitTimeout (seq t : Nat)
  /-- D3HOT_ENTRY (R277): The function enters D3hot, which stops DMA, completions and interrupts while printing continues. -/
  | d3hotEntry
  /-- D0_RETURN (R277): The function returns to D0 with the mailbox block keeping its values. -/
  | d0Return (t : Nat)
  /-- CQ_DOORBELL (R283): The host writes a new tail to MBX_CQn_TAIL. -/
  | cqDoorbell (q : Fin 8) (tail : BitVec 12)
  /-- COMMAND_ACCEPT (R284): A waiting entry is fetched, given a journal sequence and journaled, the sequence is written back and HEAD advances, with immediate refusals failing here. -/
  | commandAccept (entry : Option (List Byte)) (t : Nat)
  /-- JOURNAL_CARRY_FREED (R298): Space frees in the carry area, JNLWAIT clears and acceptance resumes. -/
  | journalCarryFreed (t : Nat)
  /-- CQ_ENABLE (R287): CQEN[n] is set, and the queue is served. -/
  | cqEnable (q : Fin 8)
  /-- CQ_DISABLE (R287): CQEN[n] is cleared, and CQIDLE is set once any entry in progress is accepted. -/
  | cqDisable (q : Fin 8)
  /-- CC_ENABLE (R292): CCEN[n] is set, which resets TAIL, HEAD and the phase and posts the present speed limits routed to the queue. -/
  | ccEnable (q : Fin 8)
  /-- CC_DISABLE (R290): CCEN[n] is cleared, and completions for the queue are no longer posted. -/
  | ccDisable (q : Fin 8)
  /-- QUEUE_RING_CONFIG_WRITE (R287): BASE or SIZE of an idle queue is written, which sets its HEAD and TAIL to 0. -/
  | queueRingConfigWrite (completion : Bool) (q : Fin 8) (reg : RingReg) (v : BitVec 32)
  /-- CC_HEAD_WRITE (R290): The host advances MBX_CCn_HEAD, freeing room for completions. -/
  | ccHeadWrite (q : Fin 8) (head : BitVec 14)
  /-- COALESCE_TIMEOUT (R295): The oldest uninterrupted completion has waited MBX_CCn_COAL.TIME µs, so the queue interrupt is sent. -/
  | coalesceTimeout (q : Fin 8) (t : Nat)
  /-- DBG_REQ (R301): REQ is set, and the device writes a challenge and sets STATE to 1. -/
  | dbgReq (scope : BitVec 2) (random : List Byte) (t : Nat)
  /-- DBG_SUBMIT (R301): SUBMIT is set, the response signature is verified, and the scope opens or TRIES rises. -/
  | dbgSubmit (t : Nat)
  /-- DBG_LOCK (R301): LOCK is set, which closes every open scope. -/
  | dbgLock (t : Nat)
  /-- DEBUG_CHALLENGE_LAPSE (R301): A challenge lapses 10 minutes after it was issued. -/
  | debugChallengeLapse (t : Nat)
  /-- REGISTER_WRITE (R280): A write to a register that has no behaviour of its own stores its value, or is discarded where writes are not allowed. -/
  | registerWrite (off : Nat) (wide : Bool) (v : BitVec 64)
  /-- IDENTIFY (R314): The command writes the 64-byte identity block. -/
  | identify (seq : Nat) (out : HostList) (t : Nat)
  /-- GET_STATUS (R315): The command writes the header and the selected status sections that fit. -/
  | getStatus (seq : Nat) (out : HostList) (t : Nat)
  /-- SET_TIME (R262): On the manager, the command steps, slews or trims calendar time. -/
  | setTime (seq t : Nat)
  /-- RESET_UNIT (R316): The command warm-resets the device, or fences, resets and returns one unit. -/
  | resetUnit (seq t : Nat)
  /-- SHUTDOWN_PREPARE (R317): The command disarms, writes the head entries and the calibration set, commits events and makes the device ready for power removal. -/
  | shutdownPrepare (seq t : Nat)
  /-- FENCE (R311): The command waits until the earlier commands of the named queues have completed or are running, or until its timeout. -/
  | fence (seq t : Nat)
  /-- FW_UPDATE_BEGIN (R318): The command opens a firmware update into the inactive image slot. -/
  | fwUpdateBegin (seq t : Nat)
  /-- FW_UPDATE_CHUNK (R318): The command writes a chunk of the image at its offset. -/
  | fwUpdateChunk (seq : Nat) (inp : HostList) (t : Nat)
  /-- FW_UPDATE_COMMIT (R318): The command checks the signature, activates the slot and optionally warm-resets. -/
  | fwUpdateCommit (seq t : Nat)
  /-- JOB_OPEN (R319): The command opens a job with its verification, reprint timing, horizon, gap and sync group. -/
  | jobOpen (seq t : Nat)
  /-- PAGE_SUBMIT (R32): The command allocates page-store blocks and starts the DMA of one PSF page. -/
  | pageSubmit (seq : Nat) (inp : HostList) (t : Nat)
  /-- PAGE_CANCEL (R40): The command records a cancel of a page and acts according to the page's state. -/
  | pageCancel (seq t : Nat)
  /-- PAGE_QUERY (R321): The command returns a page's state, first line, unfired lines and reprints. -/
  | pageQuery (seq t : Nat)
  /-- JOB_CLOSE (R320): The command closes a job, optionally cancelling every page, and completes when every page is released. -/
  | jobClose (seq t : Nat)
  /-- SET_BAR_GEOMETRY (R120): The command loads the head positions and distances of the bar. -/
  | setBarGeometry (seq : Nat) (inp : HostList) (t : Nat)
  /-- SET_ROW_DELAY (R125): The command loads the per-row trims with an apply point. -/
  | setRowDelay (seq : Nat) (inp : HostList) (t : Nat)
  /-- SET_REGISTRATION (R125): The command sets the bar registration offset with an apply point. -/
  | setRegistration (seq t : Nat)
  /-- SET_INPUT_FORMAT (R91): The command sets the input kind, width, c0, upscaling, output depth and level map. -/
  | setInputFormat (seq t : Nat)
  /-- LOAD_TONE_CURVES (R92): The command loads tone curves into the bank not in force. -/
  | loadToneCurves (seq : Nat) (inp : HostList) (t : Nat)
  /-- SET_COLUMN_TONE (R93): The command sets the column tone records of a column range. -/
  | setColumnTone (seq : Nat) (inp : HostList) (t : Nat)
  /-- LOAD_THRESHOLD_ARRAY (R95): The command loads a threshold array into the bank not in force. -/
  | loadThresholdArray (seq : Nat) (inp : HostList) (t : Nat)
  /-- LOAD_ROW_MASK (R135): The command loads or removes a head mask or a level mask. -/
  | loadRowMask (seq : Nat) (inp : HostList) (t : Nat)
  /-- SET_STITCH (R140): The command sets a stitch zone to generated or loaded mode. -/
  | setStitch (seq : Nat) (inp : HostList) (t : Nat)
  /-- SET_COMPENSATION (R96): The command sets the compensation factor k. -/
  | setCompensation (seq t : Nat)
  /-- SET_ENGINE_POLICY (R72): The command sets the active count, the stripe split, the lead and the audit. -/
  | setEnginePolicy (seq t : Nat)
  /-- SET_ENCODER (R142): The command configures a position channel, and for POS0 resets c_org. -/
  | setEncoder (seq t : Nat)
  /-- SET_LINE_PITCH (R148): The command sets 600 or 1200 lpi, resets c_org and recomputes the row delays. -/
  | setLinePitch (seq t : Nat)
  /-- SET_COMPARE (R162): The command sets a compare unit, subject to a committed firing and to the missed rules. -/
  | setCompare (seq t : Nat)
  /-- SET_PRINT_WINDOW (R171): The command sets the line and column window of printing. -/
  | setPrintWindow (seq t : Nat)
  /-- ARM_PRINT (R172): The command makes the arming checks, sets the arm hoist and fixes the delay-line allocations. -/
  | armPrint (seq t : Nat)
  /-- DISARM_PRINT (R173): The command disarms printing at end of page or immediately. -/
  | disarmPrint (seq t : Nat)
  /-- HEAD_BRINGUP (R189): The command brings a port up into service, through shadow while printing is armed. -/
  | headBringup (seq t : Nat)
  /-- HEAD_RETIRE (R206): The command takes a port out of service in the drain or the immediate form. -/
  | headRetire (seq t : Nat)
  /-- READ_HEAD_RECORD (R323): The command returns a head record from the held copy, in-band or over the two-wire bus. -/
  | readHeadRecord (seq : Nat) (out : HostList) (fresh : Option (List Byte)) (t : Nat)
  /-- LOAD_WAVEFORM (R194): The command stores a waveform set and loads it into the heads that match it. -/
  | loadWaveform (seq : Nat) (inp : HostList) (t : Nat)
  /-- SET_THERMAL_LIMITS (R198): The command sets the soft and hard limits, the hysteresis and the gain, and sends LIMITS to the head. -/
  | setThermalLimits (seq t : Nat)
  /-- NOZZLE_TEST (R209): The command starts a nozzle test on a port. -/
  | nozzleTest (seq : Nat) (out : HostList) (t : Nat)
  /-- INSPECT_PROFILE (R217): The command checks and queues an inspection profile, or forwards it on the manager. -/
  | inspectProfile (seq : Nat) (inp : HostList) (t : Nat)
  /-- SET_LOOP_POLICY (R231): The command sets the nozzle health loop policy. -/
  | setLoopPolicy (seq t : Nat)
  /-- NOZZLE_OVERRIDE (R324): The command overrides nozzle state bytes, or resets the column corrections of a column range. -/
  | nozzleOverride (seq : Nat) (inp : HostList) (t : Nat)
  /-- RING_STATUS (R325): The command writes the roster as this chip knows it. -/
  | ringStatus (seq : Nat) (out : HostList) (t : Nat)
  /-- RING_ADMIT (R251): On the manager, the command admits a guest and gives it a node number. -/
  | ringAdmit (seq t : Nat)
  /-- RING_EXPEL (R254): On the manager, the command removes a node from the roster. -/
  | ringExpel (seq t : Nat)
  /-- SET_ROLE (R260): The command sets colour and web offset, or hands the manager role over. -/
  | setRole (seq t : Nat)
  /-- SPEED_POLICY (R326): The command applies the masked speed-limit routes, horizons, press speed, reprint timing and thermal release. -/
  | speedPolicy (seq t : Nat)
  /-- AXIS_CONFIG (R333): The command configures an axis at rest and enables its drive. -/
  | axisConfig (seq t : Nat)
  /-- AXIS_MOVE (R340): The command plans a move to a target. -/
  | axisMove (seq t : Nat)
  /-- AXIS_JOG (R344): The command jogs an axis toward its soft limit. -/
  | axisJog (seq t : Nat)
  /-- AXIS_STOP (R346): The command makes a ramp stop on the named axes. -/
  | axisStop (seq t : Nat)
  /-- AXIS_HOME (R349): The command searches for HOMEn and sets the home offset. -/
  | axisHome (seq t : Nat)
  /-- AXIS_SET_LIMITS (R345): The command sets the axis speeds, accelerations and soft limits, or stages them while speed changes. -/
  | axisSetLimits (seq t : Nat)
  /-- COMPRESS_JOB (R69): The command compresses host raster into a PSF stream. -/
  | compressJob (seq : Nat) (inp out : HostList) (t : Nat)
  /-- DECOMPRESS_JOB (R64): The command decodes a PSF stream into a host buffer. -/
  | decompressJob (seq : Nat) (inp out : HostList) (t : Nat)
  /-- CAL_RUN (R422): The command runs a calibration pass over the groups in its mask. -/
  | calRun (seq xres t : Nat)
  /-- CAL_READ (R330): The command writes the data named by its selector. -/
  | calRead (seq : Nat) (out : HostList) (t : Nat)
  /-- CAL_COMMIT (R427): The command writes the calibration set with the present head serials. -/
  | calCommit (seq t : Nat)
  /-- EVT_MARK (R411): The command writes a host mark record. -/
  | evtMark (seq t : Nat)
  /-- EPISODE_BEGIN (R404): The command opens a host episode. -/
  | episodeBegin (seq t : Nat)
  /-- EPISODE_END (R404): The command ends the host's part of an episode. -/
  | episodeEnd (seq t : Nat)
  /-- FAULT_INJECT (R383): The command feeds injected shots to a checker. -/
  | faultInject (seq t : Nat)
  /-- FAULT_CLASS_SET (R371): The command changes the class of a fault code. -/
  | faultClassSet (seq t : Nat)
  /-- LOOPBACK_SET (R240): The command puts a port into a loopback mode or ends one. -/
  | loopbackSet (seq t : Nat)
  /-- LANE_EYE_SCAN (R241): The command scans the eye of a receive lane with a second sampler. -/
  | laneEyeScan (seq : Nat) (out : HostList) (t : Nat)
  /-- SELFTEST (R329): The command runs the selected self-tests inside an episode. -/
  | selftest (seq t : Nat)
  /-- PAGE_TRANSFER_DONE (R35): A page's DMA ends, its first header has passed the checks and the page enters the stored state or verification. -/
  | pageTransferDone (seq : Nat) (stream : List Byte) (dmaErr : Option Nat) (t : Nat)
  /-- PAGE_VERIFY_DONE (R41): Verification decoding of a page ends, and the page is stored or failed. -/
  | pageVerifyDone (seq t : Nat)
  /-- PAGE_RELEASE (R38): The replay horizon count of a fired page reaches its limit, the page is released and the PAGE_SUBMIT completes. -/
  | pageRelease (seq t : Nat)
  /-- PAGE_CANCEL_RELEASE (R40): The last hoist rendered from a cancelled printing page has drained, so the page is released CANCELLED. -/
  | pageCancelRelease (seq t : Nat)
  /-- REPRINT_PLACE (R388): A page held for reprint is placed by follow once its cause no longer persists. -/
  | reprintPlace (seq t : Nat)
  /-- DECOMPRESS_FRAME_START (R57): A decompression unit takes the next frame by priority, abandoning a lower-priority frame if needed. -/
  | decompressFrameStart (t : Nat)
  /-- DECOMPRESS_FRAME_DONE (R59): A frame is decoded, its trailer and end checks are made, and its rows are handed on or the page fails. -/
  | decompressFrameDone (u : Fin 4) (badBurst : Option (Nat × SdramError)) (t : Nat)
  /-- COMPRESS_FRAME_DONE (R71): A compression lane finishes a frame, and the next frame is assigned by user priority. -/
  | compressFrameDone (lane : Fin 32) (t : Nat)
  /-- RENDER_WINDOW_OPEN (R21): The render window of a hoist opens, with a new table version, and the pennants begin its stripes. -/
  | renderWindowOpen (t : Nat)
  /-- STRIPE_DELIVERY (R103): A pennant delivers a stripe-hoist, and the row selector verifies its check word. -/
  | stripeDelivery (p : Fin 16) (wrong flips : List Nat) (t : Nat)
  /-- PENNANT_FAULT (R104): A pennant reports an uncorrectable memory error or a residue or parity hit, and is fenced with a replay. -/
  | pennantFault (p : Fin 16) (kind : PennantFault) (t : Nat)
  /-- PENNANT_DELIVERY_TIMEOUT (R102): A pennant has not delivered within twice its bound, and is treated as faulted. -/
  | pennantDeliveryTimeout (p : Fin 16) (t : Nat)
  /-- LINE_STORE_SCRUB (R117): The background scrubber reads words of the table region. -/
  | lineStoreScrub (err : Option LineStoreError) (t : Nat)
  /-- ENCODER_EDGE (R144): An accepted edge on a position channel updates the count, the extreme, the timestamps and the speed. -/
  | encoderEdge (ch : Fin 6) (a b : Bool) (t : Nat)
  /-- ILLEGAL_TRANSITION (R145): A and B change in the same sample, so the transition is counted and may raise a C2 fault on POS0. -/
  | illegalTransition (ch : Fin 6) (a b : Bool) (t : Nat)
  /-- SPEED_STALL (R150): The stall time passes without an advancing edge, and the speed becomes invalid. -/
  | speedStall (ch : Fin 6) (t : Nat)
  /-- LINE_STEP (R129): H first reaches a line, and each row writes its delay line and reads out the row-line due next. -/
  | lineStep (bad : List BadWord) (t : Nat)
  /-- HOIST_TICK (R17): H first reaches 64k lines, so hoist k begins to drain and the tick's periodic work runs. -/
  | hoistTick (t : Nat)
  /-- DERATE_END (R199): After 64 consecutive ticks below soft minus hysteresis, derating ends. -/
  | derateEnd (p : Fin 32) (t : Nat)
  /-- GOVERNOR_PERIOD (R201): While no tick occurs, the speed governor runs every 1 ms of timebase. -/
  | governorPeriod (t : Nat)
  /-- SLIP_CHECK (R153): At each 16th tick, POS1 travel is compared with POS0 travel against the slip limits. -/
  | slipCheck (t : Nat)
  /-- TIMEBASE_TICK (R28): While no hoist tick occurs for 213.3 µs, a timebase TICK, a predictor step and a calibration switch moment occur. -/
  | timebaseTick (t : Nat)
  /-- FIRE_PREDICT (R156): A pending fire position comes within two line steps of p(t), so its fire instant is predicted. -/
  | firePredict (t : Nat)
  /-- FIRE_COMMIT (R156): The commit moment of a fire instant arrives, and it is committed if every condition holds. -/
  | fireCommit (row : Fin 64) (line : Int) (t : Nat)
  /-- FIRE_INSTANT (R157): A committed fire instant is reached and carried out by its port. -/
  | fireInstant (row : Fin 64) (line : Int) (t : Nat)
  /-- ROW_LINE_LATE (R160): Data has not reached the port 160 ns before its instant, so level 0 fires and the page is reprinted. -/
  | rowLineLate (row : Fin 64) (line : Int) (t : Nat)
  /-- COMPARE_FIRE (R163): A compare unit reaches its target and raises its interrupt, completion and pulse. -/
  | compareFire (u : Fin 16) (t : Nat)
  /-- COMPARE_PULSE_END (R166): A compare pulse's width elapses, and the pin returns to its inactive level if no pulse remains. -/
  | comparePulseEnd (pin : Fin 4) (t : Nat)
  /-- STOP_N_LOW (R175): STOP_N is accepted low, which inhibits commits, disarms immediately and ramp-stops the axes. -/
  | stopNLow (t : Nat)
  /-- STOP_N_HIGH (R453): STOP_N is accepted high after 1 ms. -/
  | stopNHigh (t : Nat)
  /-- PRINT_INHIBIT_LOW (R174): PRINT_INHIBIT_N is accepted low, so no fire instant is committed. -/
  | printInhibitLow (t : Nat)
  /-- PRINT_INHIBIT_HIGH (R454): PRINT_INHIBIT_N is accepted high, and firing resumes above H. -/
  | printInhibitHigh (t : Nat)
  /-- HEAD_PRESENCE_CHANGE (R187): HPn_PRES_N changes level, which starts debounce or a presence-loss timing. -/
  | headPresenceChange (p : Fin 32) (present : Bool) (t : Nat)
  /-- PRESENCE_DEBOUNCE_DONE (R187): Presence has been low for 10 ms, so the port starts its forwarded clock. -/
  | presenceDebounceDone (p : Fin 32) (t : Nat)
  /-- HEAD_ABSENT (R207): Presence has been high for 10 ms, so the port enters the absent state. -/
  | headAbsent (p : Fin 32) (t : Nat)
  /-- HEAD_TS1 (R187): A head's TS1 reply is received, and the TS2 pings begin. -/
  | headTs1 (p : Fin 32) (turnaround : BitVec 16) (rate6 : Bool) (t : Nat)
  /-- HEAD_TS2 (R187): A TS2 echo is received for the delay measurement or the rate change. -/
  | headTs2 (p : Fin 32) (roundTrip t : Nat)
  /-- HEAD_RATE_SWITCH (R187): After 1,024 blocks both sides switch to 6.25 Gb/s and train again. -/
  | headRateSwitch (p : Fin 32) (ok : Bool) (t : Nat)
  /-- HEAD_BRINGUP_STEP_TIMEOUT (R187): A bring-up step exceeds its time limit, and the attempt fails. -/
  | headBringupStepTimeout (p : Fin 32) (t : Nat)
  /-- HEAD_BRINGUP_RETRY (R187): 1 ms after a failed attempt, steps 2 to 5 are tried again, or the port fails. -/
  | headBringupRetry (p : Fin 32) (t : Nat)
  /-- HEAD_RECORD (R192): A RECORD return block delivers head record data, and the complete record is validated. -/
  | headRecord (p : Fin 32) (data : List Byte) (t : Nat)
  /-- TWO_WIRE_READ_DONE (R190): A record read over the two-wire bus completes. -/
  | twoWireReadDone (p : Fin 32) (data : List Byte) (t : Nat)
  /-- HEAD_STATUS (R186): A STATUS block reports temperatures and drive status, which may derate, fence or trip the hard limit. -/
  | headStatus (p : Fin 32) (head ink : BitVec 16) (drive tag : BitVec 8) (t : Nat)
  /-- HEAD_ALERT (R200): An ALERT reports a limit crossing, and the hard limit fences the port with a thermal stop. -/
  | headAlert (p : Fin 32) (head : BitVec 16) (flags : BitVec 8) (t : Nat)
  /-- HEAD_ECHO (R208): An ECHO block is compared with the port's own CRC and marker count. -/
  | headEcho (p : Fin 32) (crc : BitVec 32) (fires tag : BitVec 8) (t : Nat)
  /-- HEAD_NAK (R183): A NAK causes one resend of the row-line, or the row-line is lost and the page reprinted. -/
  | headNak (p : Fin 32) (rowB : Bool) (tag : BitVec 16) (t : Nat)
  /-- HEAD_ACK (R195): An ACK confirms a waveform load, a bank switch, a register write or a SYNC. -/
  | headAck (p : Fin 32) (kind : BitVec 8) (value : BitVec 32) (t : Nat)
  /-- HEAD_NCHK (R209): NCHK blocks deliver nozzle test results to the buffer and the loop. -/
  | headNchk (p : Fin 32) (first : BitVec 16) (results : List (BitVec 2)) (t : Nat)
  /-- HEAD_LINK_FAIL (R184): A port's link fails, so it carries out no further instant and is fenced. -/
  | headLinkFail (p : Fin 32) (cause : HeadLinkCause) (t : Nat)
  /-- WAVEFORM_ACK_TIMEOUT (R195): No ACK arrives within 5 ms, so the load is retried once and the port is then fenced. -/
  | waveformAckTimeout (p : Fin 32) (t : Nat)
  /-- HEAD_SHADOW_END (R208): After two clean hoists in shadow, the head's nozzles return to service. -/
  | headShadowEnd (p : Fin 32) (t : Nat)
  /-- LEGACY_TEMP_READ (R211): Every 16 predictor steps, a legacy head's temperature is read over the two-wire bus. -/
  | legacyTempRead (p : Fin 32) (raw : BitVec 16) (t : Nat)
  /-- PROFILE_PROCESS (R219): The next accepted profile is processed into marks, flags, probes and corrections. -/
  | profileProcess (t : Nat)
  /-- PROBE_TIMEOUT (R227): The probe timeout passes in hoist ticks, and the probe ends. -/
  | probeTimeout (col : Nat) (t : Nat)
  /-- HEAD_ENTRY_WRITE (R232): A head entry is written to flash 10 s after a state change or every 10 minutes. -/
  | headEntryWrite (slot : Fin 64) (fl : FlashResult) (t : Nat)
  /-- HALYARD_LINK_FAIL (R236): A halyard link fails, so the port stops sending and restarts training. -/
  | halyardLinkFail (sd : Side) (cause : HalyardCause) (t : Nat)
  /-- HALYARD_TS1 (R237): TS1 is received from the far end during training. -/
  | halyardTs1 (sd : Side) (turnaround : BitVec 16) (t : Nat)
  /-- HALYARD_DLY_REQ (R238): A DLY_REQ is received and answered with DLY_RSP. -/
  | halyardDlyReq (sd : Side) (sq : BitVec 8) (t : Nat)
  /-- HALYARD_DLY_RSP (R237): A DLY_RSP gives a round trip for the link delay. -/
  | halyardDlyRsp (sd : Side) (sq : BitVec 8) (roundTrip t : Nat)
  /-- DLY_REQ_PERIOD (R238): Every 1 ms an in-service link sends a DLY_REQ. -/
  | dlyReqPeriod (sd : Side) (t : Nat)
  /-- HALYARD_CONFIRM (R239): CONFIRM is received, moving the link to shadow or to ring service. -/
  | halyardConfirm (sd : Side) (ready : Bool) (t : Nat)
  /-- HALYARD_TRAINING_TIMEOUT (R237): A training attempt that has not confirmed within 10 ms fails. -/
  | halyardTrainingTimeout (sd : Side) (t : Nat)
  /-- HALYARD_TRAINING_RETRY (R237): A new training attempt starts after 1 ms, or every 100 ms once the port has failed. -/
  | halyardTrainingRetry (sd : Side) (t : Nat)
  /-- HALYARD_SHADOW_END (R239): After two clean ticks in shadow, the link sends the far-end confirmation. -/
  | halyardShadowEnd (sd : Side) (t : Nat)
  /-- HALYARD_LOOP (R240): A LOOP block starts or ends far-end retransmission. -/
  | halyardLoop (sd : Side) (b1 : BitVec 8) (t : Nat)
  /-- TIME_BLOCK (R261): A received TIME block steers the timebase from the port with fewer hops. -/
  | timeBlock (sd : Side) (calNs : BitVec 40) (hops : BitVec 4) (valid : Bool) (t : Nat)
  /-- TIME_SEND_PERIOD (R261): Every 1 ms a TIME block is sent on both ports. -/
  | timeSendPeriod (t : Nat)
  /-- TIME_LOSS (R264): No TIME block arrives for 2 ms, so the node holds its last rate. -/
  | timeLoss (t : Nat)
  /-- BEACON (R255): A BEACON packet is received and forwarded. -/
  | beacon (h : PktHdr) (b : BeaconMsg) (t : Nat)
  /-- BEACON_SEND_PERIOD (R255): Every 100 µs the manager sends a BEACON. -/
  | beaconSendPeriod (t : Nat)
  /-- NODE (R246): A NODE packet is received, updating the ring state and admissions. -/
  | node (h : PktHdr) (n : NodeMsg) (t : Nat)
  /-- NODE_SEND_PERIOD (R244): Every 1 ms a chip sends a NODE packet. -/
  | nodeSendPeriod (t : Nat)
  /-- CLAIM (R249): A CLAIM is received during election. -/
  | claim (h : PktHdr) (identity epoch t : Nat)
  /-- JOIN (R250): A JOIN is received by the manager, which may let the chip in or appoint it standby. -/
  | join (h : PktHdr) (identity : Nat) (eligible : Bool) (t : Nat)
  /-- PROBE (R256): A PROBE is received and answered with a PROBE reply. -/
  | probe (h : PktHdr) (t : Nat)
  /-- PROBE_REPLY (R256): A PROBE reply is counted toward a majority. -/
  | probeReply (h : PktHdr) (t : Nat)
  /-- HALYARD_ACK (R247): An ACK packet releases the acknowledged packets from resending. -/
  | halyardAck (h : PktHdr) (acked t : Nat)
  /-- CONTROL (R251): A CONTROL packet carries admission, expulsion, roles, offset measurement or profile status. -/
  | control (h : PktHdr) (m : ControlMsg) (t : Nat)
  /-- SPEED_PACKET (R265): The manager receives a published limit, recomputes V and drives SPEED_OK. -/
  | speedPacket (h : PktHdr) (limit cause t : Nat)
  /-- SYNC_READY (R269): The manager records a member's stored page and places it once all members have reported. -/
  | syncReady (h : PktHdr) (group page lines t : Nat)
  /-- SYNC_PLACE (R270): A member receives a page placement and fixes the page's first line. -/
  | syncPlace (h : PktHdr) (group page : Nat) (w : Int) (t : Nat)
  /-- SYNC_REPRINT (R271): A reprint request is passed to every member, which holds its copy for reprint. -/
  | syncReprint (h : PktHdr) (group page t : Nat)
  /-- MIRROR (R257): The standby receives and records manager state. -/
  | mirror (h : PktHdr) (m : MirrorMsg) (t : Nat)
  /-- PROFILE_PACKET (R272): A worker receives a forwarded profile and journals it as queue 8. -/
  | profilePacket (h : PktHdr) (mgrSeq : Nat) (data : List Byte) (t : Nat)
  /-- HANDOVER (R260): The standby receives HANDOVER and takes over without a silence period. -/
  | handover (h : PktHdr) (t : Nat)
  /-- PACKET_RESEND (R247): Every 200 µs unacknowledged packets are resent on both ports. -/
  | packetResend (t : Nat)
  /-- PACKET_ACK_TIMEOUT (R247): After 50 ms without acknowledgement, resending stops and the failure is reported. -/
  | packetAckTimeout (dst sq t : Nat)
  /-- MANAGER_SILENCE (R255): No BEACON of the current epoch arrives for 1 ms, and the manager is declared silent. -/
  | managerSilence (t : Nat)
  /-- PROBE_WINDOW_END (R256): 300 µs after PROBE the standby counts the replies and takes over if it has a majority. -/
  | probeWindowEnd (t : Nat)
  /-- PROBE_REPEAT (R256): Without a majority, the standby probes again every 1 ms. -/
  | probeRepeat (t : Nat)
  /-- NO_MANAGER_TIMEOUT (R256): After 20 ms with no manager, an eligible chip with a majority claims. -/
  | noManagerTimeout (t : Nat)
  /-- RING_UP (R249): Each halyard port is in service or has failed its first attempt, and election begins. -/
  | ringUp (t : Nat)
  /-- ELECTION_LISTEN_END (R249): After 1 ms of listening, the chip sends JOIN or CLAIM. -/
  | electionListenEnd (t : Nat)
  /-- CLAIM_WAIT_END (R249): After 1 ms without a lower claim or a beacon, the chip becomes manager, or it withdraws. -/
  | claimWaitEnd (t : Nat)
  /-- SPEED_HOLD_EXPIRE (R265): An unreached node's limit counts as 0 once the hold time passes. -/
  | speedHoldExpire (n : Fin 16) (t : Nat)
  /-- SYNC_HOLD_EXPIRE (R269): The hold time passes, so the manager places a page without every report. -/
  | syncHoldExpire (group page t : Nat)
  /-- PROFILE_STATUS_TIMEOUT (R272): No worker status arrives 1 s after acceptance, so the profile completes UNIT_FENCED. -/
  | profileStatusTimeout (seq t : Nat)
  /-- OFFSET_RETRY (R268): A member that found no matching edge retries the offset measurement after 1 ms. -/
  | offsetRetry (t : Nat)
  /-- PORT_CYCLE (R335): An axis port cycle begins, and a downstream slot is sent to each axis. -/
  | portCycle (t : Nat)
  /-- DRIVE_REPLY (R337): A drive reply is received and checked, and a bad one is counted. -/
  | driveReply (ax : Fin 4) (bytes : List Byte) (t : Nat)
  /-- LIMIT_INPUT (R347): A limit input is accepted active or inactive, causing a hard or ramp stop. -/
  | limitInput (ax : Fin 4) (positive : Bool) (level : Bool) (t : Nat)
  /-- HOME_INPUT (R349): HOMEn is accepted active, and a homing search sets the home offset. -/
  | homeInput (ax : Fin 4) (level : Bool) (t : Nat)
  /-- JOG_END (R344): A jog's duration ends, and the axis makes a ramp stop. -/
  | jogEnd (ax : Fin 4) (t : Nat)
  /-- REFRESH_DUE (R361): A same-bank refresh falls due, and group 2 elements may switch in its slot. -/
  | refreshDue (ch : Fin 2) (bank : Fin 16) (t : Nat)
  /-- MR4_READ (R361): Every 32 ms MR4 is read and the refresh rate is set. -/
  | mr4Read (hot : Bool) (t : Nat)
  /-- ZQ_CALIBRATION (R366): Every 128 ms ZQ calibration starts on each rank. -/
  | zqCalibration (rank : Fin 4) (t : Nat)
  /-- DQS_OSCILLATOR_READ (R366): Every 1 ms the DQS oscillators are read and drifting read timing is moved. -/
  | dqsOscillatorRead (drift : List Int) (t : Nat)
  /-- BANK_IDLE_TIMEOUT (R359): A bank's idle timer reaches the page idle limit, and its row is closed. -/
  | bankIdleTimeout (rank : Fin 4) (bank : Fin 16) (t : Nat)
  /-- POWER_DOWN_ENTRY (R362): A rank idle for the power-down delay enters precharge power-down. -/
  | powerDownEntry (rank : Fin 4) (t : Nat)
  /-- PATROL_SCRUB (R368): The patrol scrubber reads SDRAM words. -/
  | patrolScrub (err : Option SdramError) (t : Nat)
  /-- CAL_PASS_START (R421): A periodic calibration pass starts after 10 minutes or a 10 °C change. -/
  | calPassStart (xres t : Nat)
  /-- CAL_MEASURE_DONE (R417): An element's replica measurement ends and the target code is chosen. -/
  | calMeasureDone (devs : List Int) (t : Nat)
  /-- CAL_SET_WRITE (R427): The calibration set is written in two-copy form after a change. -/
  | calSetWrite (fl : FlashResult) (t : Nat)
  /-- FAULT_DETECT (R373): A detection reaches the fault collector, which classes it, records it, latches it and starts its reaction. -/
  | faultDetect (code : BitVec 16) (u : BitVec 8) (p0 p1 : BitVec 32) (p2 : BitVec 16) (t : Nat)
  /-- FAULT_RESET_EXPIRE (R375): 2 ms after entry, once the axes are at rest and HOLD is 0, the collector lets the watchdog expire. -/
  | faultResetExpire (t : Nat)
  /-- FAULT_STATE_SPEED_ZERO (R376): After 50 ms in the fault state, the published limit becomes 0 with cause 6. -/
  | faultStateSpeedZero (t : Nat)
  /-- FAULT_N_PULSE_END (R381): The FAULT_N pulse count ends, and the pin follows FLT_PIN.LEVEL. -/
  | faultNPulseEnd (t : Nat)
  /-- RECORD_RATE_RESUME (R373): After 1 s without a suppressed detection, recording resumes for that code and unit. -/
  | recordRateResume (code : BitVec 16) (u : BitVec 8) (t : Nat)
  /-- BLOCK_RESET_DONE (R380): A block reset completes, and its reaction window closes. -/
  | blockResetDone (r : ResetReport)
  /-- FLT_LATCH_CLEAR (R379): Writing 1 to FLT_LATCH clears bits that are not live. -/
  | fltLatchClear (v : BitVec 32)
  /-- CLRFIRST (R379): The first-fault capture is cleared. -/
  | clrfirst
  /-- CLRCNT (R379): FLT_COUNT and FLT_SHADOW are cleared. -/
  | clrcnt
  /-- HOLD_SET (R375): HOLD is set, which suppresses the automatic warm reset. -/
  | holdSet
  /-- HOLD_CLEAR (R375): HOLD is cleared, and the warm reset follows 2 ms later. -/
  | holdClear (t : Nat)
  /-- FLT_INJECT_ARM (R383): ARM feeds one injected shot to the selected checker. -/
  | fltInjectArm (t : Nat)
  /-- FLT_PIN_LEVEL_WRITE (R381): LEVEL sets the FAULT_N level after any pulse. -/
  | fltPinLevelWrite (level : Bool)
  /-- UNIT_AUTO_RETURN (R391): A fenced unit is reset and starts shadow for an automatic return. -/
  | unitAutoReturn (u : ReturnUnit) (t : Nat)
  /-- UNIT_SHADOW_END (R391): After two clean hoists, a pennant, decompression unit or compression lane returns to service. -/
  | unitShadowEnd (u : ReturnUnit) (agreed : Bool) (t : Nat)
  /-- EVENT_COMMIT (R406): Buffered records are committed to flash in sequence order. -/
  | eventCommit (fl : CommitResult) (t : Nat)
  /-- OVERFLOW_SAVE (R407): The overflow count is saved within 10 s of a change. -/
  | overflowSave (fl : FlashResult) (t : Nat)
  /-- FREEZE_WRITE (R410): FREEZE stops or resumes flash commits. -/
  | freezeWrite (on : Bool) (t : Nat)
  /-- FREEZE_LAPSE (R410): A freeze lapses 10 s after the last cursor write. -/
  | freezeLapse (t : Nat)
  /-- EVT_CURSOR_WRITE (R410): EVT_CURSOR selects the window and restarts the freeze lapse time. -/
  | evtCursorWrite (v : BitVec 64) (t : Nat)
  /-- EPUNLOCK (R405): The episode area lock is released. -/
  | epunlock
  /-- ERASEARM (R409): The service-area erase is armed for 1 s. -/
  | erasearm (t : Nat)
  /-- ERASE (R409): An armed erase of the service area starts. -/
  | erase (t : Nat)
  /-- ERASE_DONE (R403): The service-area erase ends, the overflow count is cleared and 0x8E04 is recorded. -/
  | eraseDone (t : Nat)
  /-- HB_ENABLE_SET (R500): ENABLE is set, and printing is armed once the arming checks pass. -/
  | hbEnableSet (t : Nat)
  /-- HB_ENABLE_CLEAR (R500): ENABLE is cleared, which disarms immediately and discards held lines. -/
  | hbEnableClear (t : Nat)
  /-- SRST (R489): SRST discards every line held and clears HB_ERR. -/
  | srst (t : Nat)
  /-- HB_DMA_MODE_WRITE (R492): The DMA bit selects the ring or the data port, and restarts a halted ring. -/
  | hbDmaModeWrite (on : Bool)
  /-- HB_FIFO_WRITE (R491): Raster bytes are appended and whole lines are accepted, or discarded on overrun. -/
  | hbFifoWrite (bytes : List Byte) (t : Nat)
  /-- HB_DMA_DOORBELL (R492): HB_DMA_TAIL is written, starting ring reads. -/
  | hbDmaDoorbell (tail : BitVec 10)
  /-- HB_DMA_ENTRY_DONE (R492): The lines of a ring entry are accepted, and HB_DMA_HEAD passes it. -/
  | hbDmaEntryDone (lines : Nat) (bytes : List Byte) (dmaErr : Bool) (t : Nat)
  /-- HB_ERR_READ (R490): A read of HB_ERR returns and clears the bits set since the last read. -/
  | hbErrRead
  /-- HB_DELAY_WRITE (R498): A head delay write recomputes its row delays, or sets CFG. -/
  | hbDelayWrite (n : Fin 8) (v : BitVec 12) (t : Nat)
  /-- HB_ENCODER_WRITE (R496): HB_ENCCFG or HB_ENCDIV is applied to POS0 as a SET_ENCODER while ENABLE is 0. -/
  | hbEncoderWrite (divider : Bool) (v : BitVec 16) (t : Nat)
  /-- HB_PITCH_WRITE (R496): PITCH is applied as a SET_LINE_PITCH while ENABLE is 0. -/
  | hbPitchWrite (p1200 : Bool) (t : Nat)
  /-- LEGACY_PAGE_CLOSE (R494): A legacy page closes at its hoist deadline, or when it holds 128 lines. -/
  | legacyPageClose (t : Nat)
  /-- FENCE_TIMEOUT (R311): The timeout of a waiting FENCE passes, and it completes with BUSY. -/
  | fenceTimeout (seq t : Nat)
  /-- CARRY_READABLE_LAPSE (R298): 10 s after a final entry leaves the carry area, its final state stops being readable. -/
  | carryReadableLapse (seq t : Nat)
  /-- AXIS_REPLY_WINDOW_END (R337): A reply window ends with no 0 start bit, so the reply is bad and counted toward an axis fault. -/
  | axisReplyWindowEnd (ax : Fin 4) (t : Nat)
  /-- SELFTEST_DONE (R329): The self-tests started by SELFTEST end; the command completes, and its episode part closes. -/
  | selftestDone (passed failed : Nat) (fencedUnit : Bool) (t : Nat)
  /-- LANE_EYE_SCAN_DONE (R241): An eye scan ends within 200 ms; its results are written, adaptation resumes and the command completes. -/
  | laneEyeScanDone (counts : List Nat) (t : Nat)
  /-- LEGACY_TRAINING_DONE (R211): After 1 ms of K28.5, legacy training ends and the record read over the two-wire bus starts. -/
  | legacyTrainingDone (p : Fin 32) (t : Nat)
  /-- NODE_UNREACHABLE (R246): NODE packets from an admitted node stop arriving, so it counts as not reached and the ring state and speed hold change. -/
  | nodeUnreachable (n : Fin 16) (t : Nat)
  /-- SUPPLY_BACK_IN_RANGE (R434): A rail returns within its recommended range, clearing PWR_STATUS.RANGE and the live supply condition. -/
  | supplyBackInRange (rail : Fin 8) (mv t : Nat)
  /-- DIE_TEMP_RETURN (R482): The die sensors fall below 105 °C, and the live temperature condition clears. -/
  | dieTempReturn (sensor : Fin 8) (raw : BitVec 16) (t : Nat)
  /-- RETURN_LANE_SIGNAL_RESTORED (R184): The head return lane regains signal and lock, so the LOS and LOL present conditions clear. -/
  | returnLaneSignalRestored (p : Fin 32)
  /-- HALYARD_SIGNAL_RESTORED (R236): A halyard receive lane regains signal and lock, so its LOS and LOL present conditions clear. -/
  | halyardSignalRestored (sd : Side)
  /-- BAR2_APERTURE_READ (R302): A BAR2 aperture read returns corrected data, or poisoned data with event 0x8B04 for an uncorrectable word. -/
  | bar2ApertureRead (off len : Nat) (bad : Option Nat) (t : Nat)
  /-- EVT_COUNT_READ (R406): A read of EVT_COUNT re-arms vector 9 for the next overflow. -/
  | evtCountRead
  /-- LOW_HALF_READ (R280): A read of the low half of a 64-bit register latches its high half for the next read. -/
  | lowHalfRead (off : Nat)
deriving DecidableEq, Repr

end Sys2Proof
end

