-- ==== Sys2Proof/Decode.lean ====
section
/-!
DEFINITION. Decode.lean: the command that a table word spells. The block has no instruction words: no row
of the table gives bits, so every word is refused.
-/

namespace Sys2Proof

/-- The command that `w`, of `nbits` bits, spells: none, since no row of the table has bits. -/
def decodeTableWord (_nbits _w : Nat) : Option Instr := none

end Sys2Proof
end

