-- ==== Sys2Proof/Config.lean ====
section
/-!
DEFINITION. Config.lean: what the manual fixes for every part but names only by a standard (digest and
signature checks), and the free values: constants without a body, of which nothing can be proved but that
they exist. A free value is applied to `State.free`, which the step that reads it advances.
-/

namespace Sys2Proof.Config

/-- The SHA-384 digest of a byte string, as a number (R301, R445). Left uninterpreted. -/
opaque sha384 : List Byte → Nat

/-- ECDSA P-384 verification of a 96-byte signature over a digest, by a public key (R445). -/
opaque ecdsaVerify : (key signature : List Byte) → (digest : Nat) → Bool

/-- Verification of a debug response by the key whose SHA-384 digest is in fuses (R301). -/
opaque debugVerify : (keyDigest : Nat) → (response : List (BitVec 32)) → (digest : Nat) → Bool

/-- The code lengths that the compression unit derives from a frame's symbol counts (R67, R68): any table valid under R49 that
has a code for every symbol counted is the unit's own choice. -/
opaque codeLengths : (counts : List Nat) → List Nat

/-- Free bits: the manual leaves the outcome open. -/
opaque freeBit : Nat → Bool

/-- Free bytes. -/
opaque freeByte : Nat → Byte

/-- Free numbers. -/
opaque freeNat : Nat → Nat

/-- How many block times pass at a port before each thing it is given to send: timing, which the model leaves free (R178, R243). -/
opaque blockTimes : (port i : Nat) → Nat

/-- Which block of the page store holds block `i` of a page, whose allocation the manual does not give (R39, R354). -/
opaque pageBlock : (seq i : Nat) → Nat

/-- The SECDED code over 64 data bits, whose matrix the manual does not give (R367). -/
opaque secded : BitVec 64 → BitVec 8

/-- Where in its sentinel cycle the device time count starts, which nothing gives (R373). -/
opaque sentinelPhase : Nat

/-- The bytes of the bodies of ring packets, whose layout the manual does not give (R244). -/
opaque bodyBytes : Payload ⊕ MirrorMsg → List Byte
opaque beaconBytes : BeaconMsg → List Byte
opaque nodeBytes : NodeMsg → List Byte
opaque electBytes : (kind identity epoch : Nat) → List Byte

end Sys2Proof.Config
end

