-- ==== Sys2Proof/Machine/State.lean ====
section
/-!
DEFINITION. Machine/State.lean: everything the manual gives the SX3216 to remember, as plain data, and
`State.reset`. Every field's default IS its value in `State.reset`; a default that the manual does not
state is named in notes/assumptions (2 to 6). Collections of like things are lists read through
`Tbl.get` (an entry not listed is at its reset value); large sparse tables are canonical key lists.
-/

namespace Sys2Proof.Machine

/-! ## Power, clocks, mode, fuses, flash (chapters 00, 15, 16, 17) -/

/-- The operating modes of R3. -/
inductive Mode where
  | native
  | hb8
  | factory
deriving DecidableEq, Repr

/-- Where the device stands between resets (R434, R446, R447, R450): power-on reset held; cold boot
under way; SDRAM trained; running; warm reset with the blocks held; SDRAM re-tuned and recovery due;
boot halted for want of an image or of SDRAM. -/
inductive BootPhase where
  | powerOnReset
  | booting
  | trained
  | running
  | warmReset
  | retuned
  | halted
deriving DecidableEq, Repr

/-- Values held in one-time fuses (R1, R119, R301, R416, R418, R445). No command writes them. -/
structure Fuses where
  /-- 1 for the SX3216-L-FB (R1, ID_MODE.FUSEID). -/
  hb8 : Bool := false
  /-- The 128-bit unique identity. -/
  identity : Nat := 0
  /-- The PCI vendor identities assigned to Nalrik and to Uazar (R274, R485). -/
  vendorNalrik : BitVec 16 := 0
  vendorUazar : BitVec 16 := 0
  /-- SHA-384 digests of the firmware key and of the debug key (R301, R445). -/
  firmwareKey : Nat := 0
  debugKey : Nat := 0
  /-- Fuse default code of each trimmed element, 512 where not listed (R418). -/
  codes : List Nat := []
  /-- Spare map of each trimmed element (R416). -/
  spareMaps : List Nat := []
  /-- Spare rows and column groups used per 256 KB line-store array (R119). -/
  lineStoreSpares : List Nat := []
deriving DecidableEq, Repr

/-- The boot record (R444). -/
structure BootRecord where
  generation : Nat
  slot : Nat
  epoch : Nat
deriving DecidableEq, Repr

/-- A calibration set copy (R424). Serials and identities are numbers, 0 for none. -/
structure CalSet where
  generation : Nat
  writer : Nat
  overflow : Nat
  barHeads : List Nat
  roster : List RosterEntry
  selections : List Nat
  training : List Byte
  directory : List Nat
deriving DecidableEq, Repr

/-- A head entry (R232): nozzle state bytes, drop counters, gains and offsets by position in the head. -/
structure HeadEntry where
  serial : Nat
  saveCount : Nat
  states : List Host.Cell
  drops : List (Nat × Nat)
  kappa : List (Nat × Nat)
  offset : List (Nat × Int)
deriving DecidableEq, Repr

/-- A copy of an item in the configuration flash: the item, its header fields where its layout has them, and its check (R424, R425, R444). -/
structure Stored (α : Type) where
  item : α
  magic : Nat
  version : Nat
  length : Nat
  check : BitVec 32
deriving DecidableEq, Repr

/-- The two copies of a head entry slot; `none` is an erased sector (R425, R428). -/
structure HeadSlot where
  /-- The serial that has taken the slot and is not yet written in it; 0 for none (R429). -/
  claim : Nat := 0
  copyA : Option (Stored HeadEntry) := none
  copyB : Option (Stored HeadEntry) := none
  /-- A change not yet written: the moment of the first one (R232). -/
  dirtyAt : Option Nat := none
  /-- Whether that change touched a condition or an out bit (10 s) or only counters and columns (10 min). -/
  urgent : Bool := false
deriving DecidableEq, Repr

/-- The configuration flash but for the event log (R423, R443). A copy that is `none` is an erased sector. -/
structure Flash where
  bootA : Option (Stored BootRecord) := none
  bootB : Option (Stored BootRecord) := none
  image0 : List Byte := []
  image1 : List Byte := []
  board : List Byte := []
  calA : Option (Stored CalSet) := none
  calB : Option (Stored CalSet) := none
  heads : List HeadSlot := []
deriving DecidableEq, Repr

/-- Supplies, clocks, straps, boot and resets (chapter 16; PWR_ and CLK_ registers). -/
structure Power where
  phase : BootPhase := .powerOnReset
  mode : Mode := .native
  /-- MODE1, MODE0 and MGR_EN as sampled last (R4, R456). -/
  mode1 : Bool := false
  mode0 : Bool := false
  mgrEn : Bool := false
  /-- The mode in force before the present PERST_N reset (R452). -/
  previousMode : Mode := .native
  railGood : BitVec 8 := 0xFF
  railMv : List Nat := []
  railMin : List Nat := []
  rangeOut : BitVec 8 := 0
  brownout : Bool := false
  railFell : Bool := false
  sysclk : Bool := false
  refclk : Bool := false
  pllLock : BitVec 10 := 0
  sentFreq : BitVec 16 := 0
  dieTemp : List (BitVec 16) := []
  dieMax : List (BitVec 16) := []
  standby : Bool := false
  /-- ID_FWVER, set when firmware starts (R445). -/
  fwVersion : BitVec 32 := 0
  slot : Nat := 0
  fallback : Bool := false
  /-- The boot digest: SHA-384 of the image copy in the firmware region (R446). -/
  digest : Nat := 0
  /-- Moment and cause (RESETKIND code) of the warm reset in progress (R450). -/
  resetAt : Nat := 0
  resetCause : Nat := 0
  /-- The last fault code that led to a warm reset by the sentinel, for R387. -/
  resetFault : Nat := 0
  /-- H when the warm reset in progress started (R392). -/
  resetH : Int := 0
  /-- Printing was armed and no host command has disarmed it: firmware arms again after the reset (R393, R505). -/
  rearm : Bool := false
  /-- The FW_UPDATE_COMMIT that asked for the warm reset, and the version it installed (R392). -/
  commitSeq : Option (Nat × BitVec 32) := none
deriving DecidableEq, Repr

/-! ## Host interface and journal (chapter 09, 10) -/

/-- A command queue CQn (R282 to R287). -/
structure CmdQueue where
  baseLo : BitVec 32 := 0
  baseHi : BitVec 32 := 0
  size : BitVec 13 := 16
  tail : BitVec 12 := 0
  head : BitVec 12 := 0
  enabled : Bool := false
  halted : Bool := false
deriving DecidableEq, Repr

/-- A completion before its phase bit is known (R288). `source` tells the kinds of unsolicited
completion apart (R290): 0 for a command, 1 for the bar route, 2 for the press route. -/
structure Completion where
  tag : BitVec 32
  seq : Nat
  queue : Nat
  status : Nat
  detail : BitVec 32
  noInterrupt : Bool
  source : Nat
deriving DecidableEq, Repr

/-- A completion queue CCn (R288 to R295). -/
structure CompQueue where
  baseLo : BitVec 32 := 0
  baseHi : BitVec 32 := 0
  size : BitVec 15 := 16
  tail : BitVec 14 := 0
  phase : Bool := true
  head : BitVec 14 := 0
  coalCount : BitVec 8 := 0
  coalTime : BitVec 10 := 0
  enabled : Bool := false
  held : List Completion := []
  /-- Completions posted since the last interrupt, flag bit 3 clear, and the moment of the oldest (R295). -/
  since : Nat := 0
  oldest : Option Nat := none
deriving DecidableEq, Repr

/-- One MSI-X table entry (R294). -/
structure MsixEntry where
  addrLo : BitVec 32 := 0
  addrHi : BitVec 32 := 0
  data : BitVec 32 := 0
  masked : Bool := true
deriving DecidableEq, Repr

/-- Configuration space, link, mailboxes, MSI-X and debug unlock (chapter 09). -/
structure HostPort where
  /-- The fuse identity is loaded, so configuration requests are answered (R274). -/
  identityLoaded : Bool := false
  linkUp : Bool := true
  perstLow : Bool := false
  busMaster : Bool := false
  d3hot : Bool := false
  cq : List CmdQueue := []
  cc : List CompQueue := []
  /-- The queue of CQ1 to CQ7 served last (R285). -/
  lastServed : Nat := 7
  jnlWait : Bool := false
  ready : Bool := false
  resetKind : Nat := 0
  msix : List MsixEntry := []
  pending : BitVec 32 := 0
  /-- The latched high halves of 64-bit registers: the offset each is read at, and its value (R280). -/
  latch : List (Nat × BitVec 32) := []
  dbgScope : BitVec 2 := 0
  dbgState : Nat := 0
  dbgTries : Nat := 0
  dbgChallenge : List Byte := []
  dbgResponse : List (BitVec 32) := []
  dbgWindow : BitVec 9 := 0
  dbgAt : Nat := 0
  bar2Open : Bool := false
  jtagOpen : Bool := false
deriving DecidableEq, Repr

/-- The states of a journal entry (R297). -/
inductive JState where
  | accepted
  | running
  | done
  | failed
  | replayed
deriving DecidableEq, Repr

/-- A journal entry (R297), with the parameters P0 to P47 that the staff core holds for the command. -/
structure JEntry where
  seq : Nat
  tag : BitVec 32
  opcode : Nat
  flags : BitVec 16
  queue : Nat
  state : JState
  status : Nat
  detail : BitVec 32
  acceptTime : BitVec 64
  stateTime : BitVec 64
  timesValid : Bool
  r0 : BitVec 32
  r1 : BitVec 32
  r2 : BitVec 32
  r3 : BitVec 32
  params : List Byte
  /-- The moment since which the command waits for Bus Master Enable (R278). -/
  waitsSince : Option Nat
  /-- Set when a final entry leaves the carry area: its state is readable until this moment (R298). -/
  readableUntil : Option Nat
  /-- The command has started under R286. -/
  started : Bool := false
  /-- The blocks of the page store that were free when a PAGE_SUBMIT was accepted (R39). -/
  free : Nat := 0
  /-- Its check word fails, as the free value of this number has it (R368). -/
  torn : Option Nat := none
deriving DecidableEq, Repr

/-- A FENCE under way (R311): what it still waits for, its mode, its deadline, and its two result words. -/
structure FenceWait where
  seq : Nat
  running : Bool
  waits : List Nat
  deadline : Option Nat
  count : Nat
  highest : Nat
deriving DecidableEq, Repr

/-- The command journal (R296 to R299) and what the staff core keeps of waiting FENCEs and updates. -/
structure Journal where
  epoch : Nat := 0
  /-- The count the next accepted command takes (R296). -/
  next : Nat := 1
  entries : List JEntry := []
  cursor : BitVec 64 := 0
  recovering : Bool := false
  fences : List FenceWait := []
  /-- FW_UPDATE: the image length, and the bytes written by offset (R318). -/
  fwLength : Option Nat := none
  fwBytes : List (Nat × Nat) := []
  /-- SHUTDOWN_PREPARE has completed: commands are limited until the next reset (R317). -/
  shutDown : Bool := false
  /-- A SHUTDOWN_PREPARE that waits for its disarm and its event commits: sequence and form. -/
  shutdownSeq : Option Nat := none
  /-- Rewrites of entries in the SDRAM: address and moment, newest first (R297, R360). -/
  writes : List (Nat × Nat) := []
deriving DecidableEq, Repr

/-! ## Jobs, pages and the page store (chapters 02, 05, 13) -/

/-- An open job (R319). `reprint` is its own timing field, 0 to 2. -/
structure Job where
  id : Nat
  verify : Bool
  reprint : Nat
  horizon : Nat
  gap : Nat
  group : Nat
  closing : Bool := false
  /-- The JOB_CLOSEs that wait for its pages. -/
  closeSeqs : List Nat := []
  completedOk : Nat := 0
  replayed : Nat := 0
  late : Nat := 0
  failed : Nat := 0
  /-- The last line of the page placed last in this arming (R167). -/
  followEnd : Option Int := none
deriving DecidableEq, Repr

/-- The page states of R35; `verifying` is the stored stream being decoded under R41, which PAGE_QUERY
reports as transferring. -/
inductive PageState where
  | transferring
  | verifying
  | stored
  | printing
  | fired
  | held
  | released
deriving DecidableEq, Repr

/-- Page placements of R167. -/
inductive Placement where
  | follow
  | atLine (line : Int)
  | atCompare (u : Nat)
deriving DecidableEq, Repr

/-- What keeps lines from being fired for as long as it stands (R25, R26, R145, R153, R159, R174, R175, R200, R204, R206), or, for
the loss that one happening causes at once, `event` with the moment that marks the happening. -/
inductive LossCause where
  | event (at_ : Nat)
  | stopInput
  | inhibit
  | stopped
  | copies
  | slow
  | overspeed
  | retire (port : Nat)
  | fence (port : Nat)
  | headRate (port : Nat)
deriving DecidableEq, Repr

/-- Lines of a page that were not fired as rendered: row (64 for every row), first and last reference line,
column range and cause block (R387), the cause, and whether a record has told of them. -/
structure Loss where
  row : Nat
  lo : Int
  hi : Int
  colLo : Nat
  colHi : Nat
  block : Nat
  cause : LossCause := .event 0
  told : Bool := true
  /-- The first line of the placement that it lies in, where that is one left to a reprint. -/
  old : Option Int := none
deriving DecidableEq, Repr

/-- How the record of a loss is written: one for each event, or one for all the lines that a continuing cause takes, once it has
ended (R387). -/
inductive Telling where
  | each
  | gathered
deriving DecidableEq, Repr

/-- A frame of a page met by inflow (R58): its offset in the stream, its first row, its rows and its end. -/
structure FrameNote where
  offset : Nat
  row : Nat
  rows : Nat
  /-- The offset of what follows the frame. -/
  next : Nat
  /-- The frame has its LAST flag set. -/
  last : Bool := false
deriving DecidableEq, Repr

/-- A page before it is released (R32 to R41, R167 to R170, R387 to R390). -/
structure Page where
  seq : Nat
  job : Nat
  pageId : Nat
  rows : Nat
  placement : Placement
  state : PageState
  stream : List Byte := []
  streamBytes : Nat := 0
  blocks : Nat := 0
  /-- The first reference line, once the placement is fixed (R167). -/
  first : Option Int := none
  /-- No line is rendered at that placement: a late start, or a placement that an arming or a disarm has left behind (R168, R390). -/
  blind : Bool := false
  /-- The first line of the placement that was spoiled, while its last lines are still to be fired beside a reprint. -/
  old : Option Int := none
  /-- Held for a cause that still stood when the manager placed its synchronised page again: it is asked for anew (R271, R389). -/
  askAgain : Bool := false
  /-- Rows decoded by inflow, and the frames they came in. -/
  raster : List Byte := []
  frames : List FrameNote := []
  /-- The first row that failed at inflow, rendered as level 0 from there on (R63). -/
  failedRow : Option Nat := none
  /-- Reason code, frame index and byte offset of a decode failure, or of the output limit (R60, R61). -/
  failure : Option (Nat × Nat × Nat) := none
  outputLimit : Bool := false
  /-- A decompression unit has failed in the frame that inflow needs next, and no other has decoded it yet (R24, R57). -/
  unitFailed : Bool := false
  verified : Bool := false
  cancelled : Bool := false
  /-- Cancelled by a JOB_CLOSE in form 1 (R320). -/
  closed : Bool := false
  /-- Hoists rendered with lines of the page: the last one (R40). -/
  lastRendered : Option Int := none
  losses : List Loss := []
  /-- Page data came too late, or the page had a late start (R24, R168). -/
  late : Bool := false
  /-- Shift in lines under catch-up 1 (R168). -/
  shift : Nat := 0
  reprints : Nat := 0
  /-- Ports whose fence spoiled the page (R389). -/
  waitPorts : List Nat := []
  /-- The replay horizon count, started once every line has fired (R38). -/
  horizon : Option Nat := none
  /-- The unit the page waits on was missed with catch-up 0, or off (R168, R169). -/
  unplaced : Bool := false
  /-- The page was placed by the manager: the web line w (R270). -/
  synced : Option Int := none
  /-- A legacy page of HB-8 mode, not journaled (R493). -/
  legacy : Bool := false
deriving DecidableEq, Repr

/-- What PAGE_QUERY tells of a page released in the last 10 s (R321). -/
structure Released where
  seq : Nat
  at_ : Nat
  first : Int
  unfired : Nat
  reprints : Nat
deriving DecidableEq, Repr

/-- Jobs, pages and page store (chapter 02). -/
structure PageStore where
  /-- The 16 job slots (R319). -/
  jobs : List (Option Job) := []
  pages : List Page := []
  recent : List Released := []
  /-- 65,536-byte page blocks fitted (R39, R354). -/
  totalBlocks : Nat := 0
  /-- Reprint timing of SPEED_POLICY bit 5: true is at job end (R326, R388). -/
  reprintAtEnd : Bool := false
  /-- Legacy pages take sequences from here; they name no journal entry (R493). -/
  nextLegacy : Nat := 0
deriving DecidableEq, Repr

/-! ## Compression engine (chapter 02) -/

/-- Who a decompression unit works for, in the priority order of R57. -/
inductive DecodeUser where
  | replay (page : Nat) (hoist : Int) (stripe : Nat)
  | inflow (page : Nat)
  | verify (page : Nat)
  | job (seq : Nat)
deriving DecidableEq, Repr

/-- One frame to decode: its user, index and stream offset, and the output the stream has produced (R57). -/
structure DecodeWork where
  user : DecodeUser
  frame : Nat
  offset : Nat
  produced : Nat
deriving DecidableEq, Repr

/-- Service states shared by decompression units and compression lanes (R391). -/
inductive UnitState where
  | inService
  | fenced
  | shadow
deriving DecidableEq, Repr

/-- A decompression unit or compression lane: its service state, the automatic returns made (moments,
R391), clean hoists in shadow, and, for a decompression unit, its frame. -/
structure Decompressor where
  state : UnitState := .inService
  work : Option DecodeWork := none
  returns : List Nat := []
  clean : Nat := 0
  resetDue : Bool := false
  fencedCode : Nat := 0
  resetCmd : Option (Nat × Nat) := none
  /-- Its shadow has ended without a mismatch: it joins at the next hoist boundary (R391). -/
  joins : Bool := false
deriving DecidableEq, Repr

/-- Users of the compression unit in the order of R71. -/
inductive CompressUser where
  | legacy (page : Nat)
  | exporting (seq : Nat)
  | job (seq : Nat)
deriving DecidableEq, Repr

/-- One frame to compress: user, frame index, and its raw bytes (R69 to R71). -/
structure CompressWork where
  user : CompressUser
  frame : Nat
  last : Bool
  width : Nat
  bpp : Nat
  depth : Nat
  raw : List Byte
deriving DecidableEq, Repr

/-- A compression lane (R65 to R71, R391). -/
structure Lane where
  state : UnitState := .inService
  work : Option CompressWork := none
  returns : List Nat := []
  clean : Nat := 0
  resetDue : Bool := false
  fencedCode : Nat := 0
  /-- Its shadow has ended without a mismatch: it joins at the next hoist boundary (R391). -/
  joins : Bool := false
deriving DecidableEq, Repr

/-- A compression, decompression or export under way: its kind, its input, its output limit, its frames done, by index,
the offset of the frame to decode next, and the output so far. -/
structure StreamJob where
  seq : Nat
  decode : Bool
  input : List Byte
  limit : Nat
  frames : List (Nat × List Byte) := []
  total : Nat := 0
  next : Nat := 0
  output : List Byte := []
  /-- Result words 0 and 1 of an export (R215). -/
  words : BitVec 32 × BitVec 32 × BitVec 32 := (0, 0, 0)
deriving DecidableEq, Repr

/-- The compression engine (R57 to R71). -/
structure Codec where
  units : List Decompressor := []
  waiting : List DecodeWork := []
  lanes : List Lane := []
  lanesWaiting : List CompressWork := []
  jobs : List StreamJob := []
deriving DecidableEq, Repr

/-! ## Rendering tables and pennants (chapters 03, 04) -/

/-- The input format of SET_INPUT_FORMAT (R91). -/
structure InputFormat where
  kind : Nat
  wIn : Nat
  c0 : Nat
  upscale : Nat
  depth : Nat
deriving DecidableEq, Repr

/-- A threshold array (R87, R88, R95): per cell its three or fifteen thresholds. -/
structure Threshold where
  depth : Nat
  w : Nat
  h : Nat
  xOff : Nat
  yOff : Nat
  cells : List (List Nat)
deriving DecidableEq, Repr

/-- A column tone record as set by SET_COLUMN_TONE (R93). -/
structure ColumnTone where
  gain : Nat := 0x8000
  offset : Int := 0
  curve : Nat := 0
deriving DecidableEq, Repr

/-- A bit tile: width, height and packed rows (R135). -/
structure Tile where
  w : Nat
  h : Nat
  bytes : List Byte
deriving DecidableEq, Repr

/-- The masks of one head: head mask, level masks 1 to 3, origin, wear step, period, threshold (R135, R136). -/
structure HeadMask where
  tile : Tile := ⟨2, 2, [0x40, 0x80]⟩
  level1 : Option Tile := none
  level2 : Option Tile := none
  level3 : Option Tile := none
  ox : Nat := 0
  oy : Nat := 0
  dx : Nat := 0
  dy : Nat := 0
  period : Nat := 0
  balance : Nat := 0
deriving DecidableEq, Repr

/-- The effective origin and polarity of a head's mask (R136, R137). -/
structure MaskOrigin where
  ox : Nat := 0
  oy : Nat := 0
  polarity : Bool := false
deriving DecidableEq, Repr

/-- A stitch zone's mode (R140). -/
structure StitchZone where
  loaded : Bool := false
  oy : Nat := 0
  tile : Tile := ⟨0, 256, []⟩
deriving DecidableEq, Repr

/-- The print window (R171). -/
structure PrintWindow where
  lineStart : Int := -9223372036854775808
  lineEnd : Int := 9223372036854775807
  colLo : Nat := 0
  colHi : Nat := 65535
deriving DecidableEq, Repr

/-- One head of the bar geometry (R120). -/
structure HeadGeometry where
  present : Bool := false
  trail : Bool := false
  col0 : Nat := 0
deriving DecidableEq, Repr

/-- The bar geometry (R120 to R122); `set` is false until a SET_BAR_GEOMETRY completes with OK. -/
structure Geometry where
  set : Bool := false
  leadNm : Nat := 0
  trailNm : Nat := 0
  margin : Nat := 64
  heads : List HeadGeometry := []
deriving DecidableEq, Repr

/-- A table set (R15): everything a hoist is rendered, row-selected and stitched with, and the bank
versions it holds (R100, R115). -/
structure TableSet where
  version : Nat := 0
  geometry : Geometry := {}
  widths : List Nat := []
  format : Option InputFormat := none
  levelMap : List Nat := [0, 5, 10, 15]
  /-- Tone curve entries by 256 × curve + index, where they differ from reset (R92, R97). -/
  curves : List (Nat × Nat) := []
  curveVersion : Nat := 0
  columns : List (Nat × ColumnTone) := []
  kappa : List (Nat × Nat) := []
  offsets : List (Nat × Int) := []
  curveBase : List Nat := []
  k : Nat := 0x40
  threshold : Option Threshold := none
  thresholdVersion : Nat := 0
  masks : List HeadMask := []
  maskVersion : Nat := 0
  origins : List MaskOrigin := []
  zones : List StitchZone := []
  zoneVersion : Nat := 0
  /-- Nozzle state bytes by index, as written (R133). -/
  nozzles : List Host.Cell := []
  /-- Heads whose port is not in service: their nozzles count as out (R133). -/
  outHeads : List Nat := []
  /-- In HB-8 mode, heads with HEADEN clear: level 0, never missing (R499). -/
  disabledHeads : List Nat := []
  window : PrintWindow := {}
deriving DecidableEq, Repr

/-- Pennant states (R76, GET_STATUS section 1). -/
inductive PennantState where
  | active
  | spare
  | fenced
  | shadow
deriving DecidableEq, Repr

/-- Why a pennant computes a stripe-hoist. -/
inductive PennantTask where
  | render
  | replay
  | audit
  | third
  | shadow
deriving DecidableEq, Repr

/-- One stripe-hoist a pennant is to deliver: the moment its bound counts from, whether the slice must be decoded again, and the
pennant whose reserve copy it is taken from otherwise; without either it is the pennant's own primary copy (R101, R106, R108). -/
structure PennantWork where
  task : PennantTask
  hoist : Int
  stripe : Nat
  since : Nat
  decodeAgain : Bool := false
  reserve : Option Nat := none
deriving DecidableEq, Repr

/-- A pennant engine (R72 to R111). `extra` are the orphaned stripes it renders after its own (R109). -/
structure Pennant where
  state : PennantState := .spare
  stripe : Option Nat := none
  extra : List Nat := []
  work : List PennantWork := []
  returns : List Nat := []
  clean : Nat := 0
  resetDue : Bool := false
  fencedCode : Nat := 0
  /-- The RESET_UNIT that waits for its return, and the moment it started (R316). -/
  resetCmd : Option (Nat × Nat) := none
  /-- In shadow: its check words that wait for the owners', by hoist and stripe, and the hoists compared so far (R111). -/
  shadowWords : List (Int × Nat × BitVec 32) := []
  matched : Nat := 0
  /-- Its shadow has ended without a mismatch: it joins as a spare at the next hoist boundary (R111, R391). -/
  joins : Bool := false
deriving DecidableEq, Repr

/-- An audit under way (R110): check words gathered so far by pennant, and the levels of the last recomputation. -/
structure Audit where
  hoist : Int
  stripe : Nat
  spare : Nat
  third : Option Nat := none
  words : List (Nat × BitVec 32) := []
  result : List Byte := []
deriving DecidableEq, Repr

/-- The slice of a stripe for a hoist in the pennants' local memory (R77 to R80): the pages it holds raster of, and the pennants that
hold its primary and its reserve copy. -/
structure SliceCopy where
  hoist : Int
  stripe : Nat
  pages : List (Nat × Int) := []
  primary : Option Nat := none
  reserve : Option Nat := none
deriving DecidableEq, Repr

/-- A committed stripe-hoist in its band slot (R113, R132): its levels, packed as R103 packs them. -/
structure Stripe where
  index : Nat
  owner : Nat
  word : BitVec 32
  levels : List Byte
deriving DecidableEq, Repr

/-- What is left of a released page that hoists were rendered from: its first line, its rows, those before the failing frame, and
their raster (R40, R63); a page that failed at inflow is rendered on, up to its failing frame (`rest`). -/
structure Remains where
  seq : Nat
  first : Int
  rows : Nat
  good : Nat
  raster : List Byte
  rest : Bool
deriving DecidableEq, Repr

/-- A hoist from the opening of its render window until it has drained (R15 to R24). -/
structure Hoist where
  k : Int
  openedAt : Nat
  tables : TableSet
  stripes : List Stripe := []
  /-- Orphaned stripes that an active pennant is to render after its own (R105); the flag is set where the pennant
  goes on with the stripe until the re-split (R109). -/
  orphans : List (Nat × Bool) := []
  /-- It needed lines of a page that was not in the page store when its window opened (R34). -/
  late : Bool := false
  draining : Bool := false
  /-- Its band slot, the lower of two where it takes two (R113, R114). -/
  slot : Nat := 0
  /-- Stripes blank because they were not committed when the hoist was due (R24). -/
  blanked : List Nat := []
  /-- Pages it was rendered from, by sequence and first line at the window (R35). -/
  pages : List (Nat × Int) := []
deriving DecidableEq, Repr

/-- Settings of the rendering commands, next banks included, and the pennants (chapter 03). -/
structure Render where
  active : Nat := 14
  /-- Explicit widths in units, or none for the automatic split (R73). -/
  explicit : Option (List Nat) := none
  lead : Nat := 6
  audit : Bool := true
  format : Option InputFormat := none
  levelMap : List Nat := [0, 5, 10, 15]
  curves : List (Nat × Nat) := []
  curveVersion : Nat := 0
  curvesNext : Option (List (Nat × Nat)) := none
  columns : List (Nat × ColumnTone) := []
  k : Nat := 0x40
  threshold : Option Threshold := none
  thresholdVersion : Nat := 0
  thresholdNext : Option Threshold := none
  masks : List HeadMask := []
  maskVersion : Nat := 0
  masksNext : Option (List HeadMask) := none
  origins : List MaskOrigin := []
  zones : List StitchZone := []
  zoneVersion : Nat := 0
  zonesNext : Option (List StitchZone) := none
  window : PrintWindow := {}
  /-- Pennants 0 to 13 own stripes 0 to 13, and 14 and 15 are spare (R72, R97). -/
  pennants : List Pennant := (List.range 16).map fun i =>
    if i < 14 then { state := .active, stripe := some i } else {}
  /-- Rows of pages that failed at inflow and are released already: they still print (R63). -/
  remains : List Remains := []
  /-- Render windows opened so far, and the table set of the latest (R94, R99). -/
  version : Nat := 0
  latest : Option TableSet := none
  hoists : List Hoist := []
  /-- The hoist whose render window opened last in this arming. -/
  lastOpened : Option Int := none
  /-- After a rise of L: the last hoist whose window would already have opened under it (R20). -/
  catchUpTo : Option Int := none
  /-- The print windows of the table sets of this arming, newest first, each with the first hoist that holds it (R171). -/
  windows : List (Int × PrintWindow) := []
  /-- The nozzles out of service by the table sets of this arming, newest first, each with the first hoist that holds it: heads, and
  the nozzle states (R133, R213). -/
  outSets : List (Int × List Nat × List Host.Cell) := []
  /-- The stripe widths that hoists were rendered with, by hoist, newest first (R15, R118). -/
  widthSets : List (Int × List Nat) := []
  /-- The audit of the window, and those that wait for the owner's stripe-hoist (R110). -/
  audits : List Audit := []
  /-- Slices written to local memory (R78, R79). -/
  slices : List SliceCopy := []
  /-- The first hoist of an automatic re-split after a fence without a spare (R109). -/
  resplitAt : Option Int := none
deriving DecidableEq, Repr

/-! ## Line store: geometry, row delays, delay lines, nozzles (chapter 04) -/

/-- A row-line as it leaves row selection: its line and its bytes (R180); `none` bytes is a row-line for
which nothing is sent (R129, R172). -/
structure RowLine where
  line : Int
  bytes : Option (List Byte)
deriving DecidableEq, Repr

/-- A delay change in progress (R128, R130): the command (0 for none), its apply line, `none` while the page it names
has no place, the page while its line is not reached, the trims or the offset it sets, the rows it sets outright (R128,
R498), the q_r that hold from its line on, and the completion's detail bit 0. -/
structure DelayChange where
  seq : Nat
  line : Option Int
  page : Option Nat := none
  trims : Option (List Int) := none
  registration : Option Int := none
  rows : List (Nat × Int) := []
  q : List Int := []
  late : Bool := false
deriving DecidableEq, Repr

/-- Geometry, delays and delay lines (R112 to R131, R138). -/
structure LineStore where
  geometry : Geometry := {}
  trims : List Int := []
  registration : Int := 0
  /-- Row delays in 1/256 line in force, per row (R124). -/
  q : List Int := []
  /-- Allocations fixed at ARM_PRINT, in lines (R126, R127). -/
  alloc : List Nat := []
  /-- Delay changes in progress, by apply line. -/
  changes : List DelayChange := []
  /-- Per row, the row-lines in its circular buffer by slot (R129). -/
  delay : List (List (Nat × RowLine)) := []
  /-- Nozzle state bytes that are not 0, by index (R133). -/
  nozzles : List Host.Cell := []
  /-- Lifetime drop counters that are not 0, by index (R138). -/
  drops : List (Nat × Nat) := []
  /-- Columns of the delay lines' words blanked by 0x0603 (R118). -/
  blanked : List (Nat × Int × Nat) := []
deriving DecidableEq, Repr

/-! ## Web position, firing, compare units (chapter 05) -/

/-- The settings of SET_ENCODER (R142). -/
structure EncoderSet where
  mode : Nat := 2
  invert : Bool := false
  filter : Nat := 2
  hysteresis : Nat := 2
  pitchNum : Nat := 4000
  pitchDen : Nat := 1
  stallMs : Nat := 50
  slipWarn : Nat := 0
  slipStop : Nat := 0
deriving DecidableEq, Repr

/-- A position channel (R142 to R150). `stamps` are the timestamps of its advancing edges, newest first,
at most five; `counted` counts them since the last loss of validity. -/
structure Channel where
  set : EncoderSet := {}
  a : Bool := false
  b : Bool := false
  count : Int := 0
  backward : Bool := false
  extreme : Int := 0
  stamps : List Nat := []
  counted : Nat := 0
  stalled : Bool := true
  illegal : Nat := 0
  dirChanges : Nat := 0
  slip : BitVec 2 := 0
  /-- Moment of the last advancing edge, for the stall time. -/
  since : Nat := 0
  /-- The last accepted edge advanced (R151). -/
  advanced : Bool := false
  /-- Moment and count of the last 64 advancing edges, newest first, kept for the web-line offset (R268). -/
  edges : List (Nat × Int) := []
deriving DecidableEq, Repr

/-- A row-line at its head port whose fire position H has not reached (R154 to R156): the fire position
in 1/65,536 line and the latest predicted instant in ns. -/
structure Pending where
  row : Nat
  line : Int
  position : Int
  instant : Option Rat
deriving DecidableEq, Repr

/-- A committed fire instant, in fire-grid units of 20 ps (R156 to R158). -/
structure Committed where
  row : Nat
  line : Int
  position : Int
  f : Int
  derated : Bool
deriving DecidableEq, Repr

/-- The settings of SET_COMPARE (R162); the target is in 1/256 line. -/
structure CompareSet where
  mode : Nat := 0
  target : Int := 0
  period : Nat := 1
  catchUp : Nat := 0
  actions : BitVec 3 := 0
  pin : Nat := 0
  low : Bool := false
  width : Nat := 1
  seq : Nat := 0
deriving DecidableEq, Repr

/-- A compare unit (R162 to R165): its setting, whether it still waits to fire, a committed firing's
instant in grid units, the settings that wait for that firing, and whether the setting in force was missed, with catch-up 0
or with catch-up 1 (`caught`). -/
structure Compare where
  set : CompareSet := {}
  live : Bool := false
  instant : Option Rat := none
  committed : Option Int := none
  next : List CompareSet := []
  missed : Bool := false
  caught : Bool := false
  /-- The command whose completion on fire is outstanding. -/
  openSeq : Option Nat := none
deriving DecidableEq, Repr

/-- A compare pin (R166): its inactive level, and the ends, in ns, of the pulses driven to it. -/
structure ComparePin where
  inactiveHigh : Bool := false
  activeHigh : Bool := true
  pulses : List Nat := []
deriving DecidableEq, Repr

/-- The form of a disarm (R173). -/
inductive DisarmForm where
  | endOfPage
  | immediate
deriving DecidableEq, Repr

/-- A DISARM_PRINT of the immediate form with its result words, and the last fire instant that it waits for (R173, R322). -/
structure LateDisarm where
  seq : Nat
  held : Nat
  stored : Nat
  until_ : Int
deriving DecidableEq, Repr

/-- Position channels, firing and compare units (chapter 05). -/
structure Position where
  channels : List Channel := []
  lpi : Nat := 1200
  cOrg : Int := 0
  /-- The high-water mark H in 1/65,536 line (R152). -/
  h : Int := 0
  /-- The k of the last hoist tick (R17). -/
  tick : Int := 0
  /-- The moment of the last hoist tick or timebase TICK (R28, R186). -/
  tickAt : Nat := 0
  /-- The moment of the last hoist tick (R201). -/
  hoistTickAt : Nat := 0
  /-- The reference has restarted, and the work of tick 0 is still to be done in the same row (R148). -/
  zeroDue : Bool := false
  /-- The last line whose line step has been made (R129). -/
  line : Int := 0
  /-- H at the illegal transitions of POS0 counted toward R145. -/
  illegalAt : List Int := []
  /-- No fire instant is committed until printing is armed again (R145, R153, R159). -/
  stopped : Bool := false
  /-- Block code of what set `stopped`. -/
  stoppedBlock : Nat := 0
  /-- Fault 0x0701 was raised since printing was armed last. -/
  illegalRaised : Bool := false
  /-- The speed is above the limit of R25, or below 2,400 lines/s (R26), as last judged. -/
  overLimit : Bool := false
  /-- The last 16th tick measured and POS1's count then (R153). -/
  slipTick : Int := 0
  slipCount : Int := 0
  pending : List Pending := []
  committed : List Committed := []
  units : List Compare := []
  pins : List ComparePin := []
  armed : Bool := false
  armHoist : Int := 0
  /-- A disarm in progress and the commands that asked for it (R173). -/
  disarming : Option DisarmForm := none
  /-- The first hoist whose window had not opened when a disarm at end of page began (R173). -/
  disarmFrom : Int := 0
  disarmSeqs : List Nat := []
  /-- Pages held for reprint and returned to the stored state by the disarm in progress (R322). -/
  disarmHeld : Nat := 0
  disarmStored : Nat := 0
  /-- Immediate disarms whose last fire instant is still to be carried out while printing is armed again (R173). -/
  lateDisarms : List LateDisarm := []
  stopN : Bool := false
  inhibitN : Bool := false
  /-- The two copies of the device time count have been found to differ (R159). -/
  copiesDiffer : Bool := false
deriving DecidableEq, Repr

/-! ## Head ports (chapter 06) -/

/-- Port states, with the codes of HDP_PORTn_STATUS.STATE (R188). -/
inductive PortState where
  | absent
  | present
  | training
  | record
  | waiting
  | shadow
  | inService
  | fenced
  | retired
  | failed
deriving DecidableEq, Repr

/-- A waveform load in progress on a port (R195). -/
structure WaveLoad where
  set : Nat
  bank : Nat
  sentAt : Nat
  retried : Bool
  acked : Bool := false
  switchTick : Option Int := none
  seq : Option Nat := none
  /-- Heads that the LOAD_WAVEFORM loads. -/
  heads : Nat := 0
deriving DecidableEq, Repr

/-- A nozzle test in progress (R209). -/
structure NozzleTest where
  seq : Nat
  first : Nat
  count : Nat
  results : List (Nat × BitVec 2) := []
deriving DecidableEq, Repr

/-- A retirement in progress (R206): the commands that wait for it and, of those in the immediate form, the lines reported; the first
hoist rendered without the head, with the line at which H ends the drain, or none in the immediate form. -/
structure Retiring where
  seqs : List (Nat × Nat)
  drain : Option (Int × Int)
deriving DecidableEq, Repr

/-- A row-line the port has sent (R180, R183): whether it was resent, or lost. -/
structure SentLine where
  row : Nat
  line : Int
  bytes : List Byte
  nakked : Bool := false
  resent : Bool := false
  lost : Bool := false
deriving DecidableEq, Repr

/-- A head port and what the device holds of its head (chapter 06). -/
structure HeadPort where
  state : PortState := .absent
  presLow : Bool := false
  /-- HPn_PRES_N has been at its level since. -/
  presSince : Nat := 0
  rate6 : Bool := false
  legacy : Bool := false
  derated : Bool := false
  thermalFence : Bool := false
  los : Bool := false
  lol : Bool := false
  recordTwoWire : Bool := false
  waveSet : Option Nat := none
  waveBank : Nat := 0
  load : Option WaveLoad := none
  /-- Bring-up: step of R187, moment the step began, attempts made, rate limit, command, rate change made. -/
  step : Nat := 0
  stepAt : Nat := 0
  /-- Device firmware or a command brings the port through step 8; otherwise it stops in state 3 or 4 (R189). -/
  through : Bool := false
  attempts : Nat := 0
  limitRate : Bool := false
  bringupSeq : Option Nat := none
  headRate6 : Bool := false
  pings : List Nat := []
  turnaround : Nat := 0
  delta : Nat := 0
  /-- The interval count of the SYNC sent last, low 32 bits, until it is acknowledged (R185, R187). -/
  syncCount : Option (BitVec 32) := none
  inBandFailed : Bool := false
  /-- In service through a warm reset, until the head acknowledges the SYNC of the recovery (R450). -/
  resuming : Bool := false
  /-- The link has failed during a warm reset (R450). -/
  linkLost : Bool := false
  /-- The held head record (R191), as read. -/
  record : Option (List Byte) := none
  serial : Nat := 0
  /-- The period in which a head with a new serial was brought up: it and those before give the head no evidence (R233). -/
  sincePeriod : Option Int := none
  /-- SET_THERMAL_LIMITS (R198): s12.4 limits, hysteresis in 1/16 °C, g in 1/256. -/
  soft : Int := 0
  hard : Int := 0
  hysteresis : Nat := 32
  gain : Nat := 32
  measured : BitVec 16 := 0x8000
  ink : BitVec 16 := 0x8000
  /-- The predictor t in °C (binary64), none before the first measurement; steps since bring-up (R197). -/
  predicted : Option Rat := none
  predSteps : Nat := 0
  /-- A predictor step not yet made, for want of the STATUS of its tick: µs and energy of the period (R197). -/
  stepDue : Option (Rat × Rat) := none
  /-- That step is one of a hoist tick, for which the forecast is made (R199): its number. -/
  stepHoist : Option Int := none
  statusNow : Bool := false
  missedStatus : Nat := 0
  coolTicks : Nat := 0
  /-- Energy of each period, 0.01 nJ, and period number (R196). -/
  energy : List (Int × Rat) := []
  nak : Nat := 0
  resent : Nat := 0
  lost : Nat := 0
  lateMarker : Nat := 0
  /-- H at the row-lines lost under R183 (R184). -/
  lostAt : List Int := []
  sent : List SentLine := []
  /-- The CRC-32C register over the row-line bytes, and the count of FIRE blocks, since the last TICK, for ECHO (R208). -/
  echoCrc : BitVec 32 := 0xFFFFFFFF
  echoFires : Nat := 0
  echoExpect : Option (BitVec 32 × Nat) := none
  /-- Ticks whose ECHO matched in shadow, and the last of them (R208). -/
  clean : Nat := 0
  echoTick : Option Int := none
  overRate : Bool := false
  /-- Commits stop for this port (fence, hard limit, immediate retirement). -/
  noCommit : Bool := false
  fencedCode : Nat := 0
  fencedAt : Nat := 0
  /-- The line of H at which it was fenced or retired (R200). -/
  outLine : Option Int := none
  /-- Lines below this one were sent as shadow data and fire nothing (R208). -/
  dryTo : Option Int := none
  /-- In the waiting state for its row delays, and not to go on without a HEAD_BRINGUP (R128). -/
  delayWait : Bool := false
  returns : List Nat := []
  retiring : Option Retiring := none
  test : Option NozzleTest := none
  tempSteps : Nat := 0
  loopback : Nat := 0
  lpErrors : Nat := 0
  /-- The first hoist rendered with the head after a shadow (R208). -/
  joinHoist : Option Int := none
  resetDue : Bool := false
  resetCmd : Option (Nat × Nat) := none
deriving DecidableEq, Repr

/-- A waveform set (R194). Model and keys; 0xFF matches any grade. -/
structure Waveform where
  model : List Byte
  volumeKey : Nat
  speedKey : Nat
  curveBase : Nat
  data : List Byte
deriving DecidableEq, Repr

/-- An unsolicited completion's route (R202, R265, R326). -/
structure Route where
  cc : Nat
  tag : BitVec 32
  seq : Nat
deriving DecidableEq, Repr

/-- The speed governor (R201 to R203, R326, R376, R389). -/
structure Governor where
  tauMs : Nat := 200
  barRoute : Option Route := none
  published : Option (Nat × Nat) := none
  /-- Job, stream bytes and lines of the last 8 pages stored, newest first (rho). -/
  recent : List (Nat × Nat × Nat) := []
  /-- The moment of the last computation made while no tick occurred. -/
  ranAt : Nat := 0
  /-- Page-data DMA: moment and bytes of the transfers of the last 16 ms (r). -/
  dma : List (Nat × Nat) := []
  /-- Ports that hold the thermal stop (R203). -/
  thermal : List Nat := []
deriving DecidableEq, Repr

/-- Head ports, waveforms, governor (chapter 06). -/
structure Heads where
  ports : List HeadPort := []
  waveforms : List (Option Waveform) := []
  governor : Governor := {}
deriving DecidableEq, Repr

/-! ## Nozzle health loop (chapter 07) -/

/-- The loop policy (R231). -/
structure LoopPolicy where
  actions : BitVec 4 := 0xF
  m : Nat := 3
  n : Nat := 5
  thetaW : Nat := 154
  thetaD : Nat := 768
  thetaM : Nat := 512
  sMin : Nat := 256
  sProbe : Nat := 992
  dMin : Nat := 64
  probeLimit : Nat := 64
  probeTimeout : Nat := 2048
  lambda : Nat := 128
  epsilon : Nat := 8
  kappaMin : Nat := 8192
  kappaMax : Nat := 32768
deriving DecidableEq, Repr

/-- Marks of R222. -/
inductive Mark where
  | pass
  | weak
  | dead
  | misdirected
deriving DecidableEq, Repr

/-- A probe on a column (R227): candidates still to test, the candidate in its phase, its start tick. -/
structure Probe where
  column : Nat
  toTest : List Nat
  phase : Option Nat
  startTick : Int
  /-- The number of the profile that started it. -/
  startProfile : Nat
  /-- Candidates that the probe holds out. -/
  held : List Nat := []
deriving DecidableEq, Repr

/-- One accepted inspection profile (R216 to R219). -/
structure Profile where
  seq : Nat
  id : Nat
  vRef : Nat
  pitch : Nat
  cFirst : Nat
  lineStart : Int
  length : Nat
  samples : List Int
  /-- The manager's sequence of a profile forwarded on the ring (R218, R272). -/
  mgrSeq : Option Nat := none
deriving DecidableEq, Repr

/-- A fire-history period record with its descriptor (R212 to R214): entries by nozzle that are not 0. -/
structure Period where
  k : Int
  entries : List (Nat × Nat)
  delays : List Nat
  time : BitVec 64
  timeValid : Bool
  speed : BitVec 32
  depth4 : Bool
  /-- The record cannot be read, or could not be written: every entry reads as 0xFFE (R213, R368). -/
  unreadable : Bool := false
deriving DecidableEq, Repr

/-- The nozzle health loop (chapter 07). -/
structure Loop where
  policy : LoopPolicy := {}
  history : List Period := []
  staging : List (Int × List (Nat × Nat)) := []
  waiting : List Profile := []
  recentIds : List Nat := []
  /-- Profiles processed with evidence or not, which numbers them. -/
  processed : Nat := 0
  /-- Per nozzle, its window of marks with the number of the profile that gave each, newest first, and its
  exonerations left (R222, R223). -/
  windows : List (Nat × List (Mark × Nat)) := []
  exonerated : List (Nat × Nat) := []
  /-- Per head, profiles with evidence since its bring-up (R224). -/
  seen : List (Nat × Nat) := []
  probes : List Probe := []
  kappa : List (Nat × Nat) := []
  offsets : List (Nat × Int) := []
  gainWindow : List (Nat × List Int) := []
  offsetWindow : List (Nat × List Int) := []
  /-- Nozzles that NOZZLE_OVERRIDE has changed since the last render window opened (R226). -/
  overridden : List Nat := []
deriving DecidableEq, Repr

/-! ## Halyard ring (chapter 08) -/

/-- Halyard port states, HLYx_STATUS.STATE. -/
inductive HalyardState where
  | down
  | training
  | shadow
  | inService
  | loopback
  | failed
deriving DecidableEq, Repr

/-- A receive data lane of a halyard port (R235): the CTLE setting chosen in training, and the six taps of the DFE as they adapt. -/
structure HalyardLane where
  ctle : Nat := 0
  taps : List Nat := [0, 0, 0, 0, 0, 0]
deriving DecidableEq, Repr

/-- A halyard port (R234 to R241). -/
structure Halyard where
  state : HalyardState := .down
  /-- Receive data lanes 0 and 1 (R235). -/
  lanes : List HalyardLane := [{}, {}]
  los : Bool := false
  /-- Loss of signal on the receive clock lane (R237). -/
  clockLos : Bool := false
  lol : Bool := false
  lock : Bool := false
  loop : Nat := 0
  delay : Nat := 0
  trips : List Nat := []
  turnaround : Nat := 0
  attemptAt : Nat := 0
  attempts : Nat := 0
  everTried : Bool := false
  confirmSent : Bool := false
  confirmGot : Bool := false
  clean : Nat := 0
  shadowBad : Bool := false
  joinNext : Bool := false
  /-- Training is done at both ends, and shadow begins at the next tick; a far-end confirmation that came before it (R239). -/
  shadowNext : Bool := false
  farReady : Bool := false
  crcErr : Nat := 0
  blkErr : Nat := 0
  downs : Nat := 0
  lpErr : Nat := 0
  crcTimes : List Nat := []
  dlySeq : BitVec 8 := 0
  dlyAt : Nat := 0
  /-- Hops from the manager that the port's TIME block carried last (R261). -/
  hops : Option Nat := none
  resetCmd : Option (Nat × Nat) := none
deriving DecidableEq, Repr

/-- Roles, HLY_RING.ROLE. -/
inductive Role where
  | guest
  | worker
  | standby
  | manager
deriving DecidableEq, Repr

/-- Ring states, HLY_RING.RSTATE (R246). -/
inductive RingState where
  | closed
  | line
  | split
  | forming
deriving DecidableEq, Repr

/-- A packet of an acknowledged class not yet acknowledged (R247): a payload, or a MIRROR. -/
structure Unacked where
  /-- The source byte: the own address, or 0xFD for the manager role. -/
  src : Nat
  dst : Nat
  sq : Nat
  sentAt : Nat
  /-- The moment it was put on the ports last. -/
  resentAt : Nat
  body : Payload ⊕ MirrorMsg
deriving DecidableEq, Repr

/-- What this chip knows of a node from its NODE packets (R246, R251). -/
structure Heard where
  identity : Nat
  node : Option Nat
  role : Nat
  colour : Nat
  lead : Nat
  eligible : Bool
  standby : Bool
  /-- The moments it was heard last on ports E and W. -/
  heardE : Option Nat
  heardW : Option Nat
deriving DecidableEq, Repr

/-- Delivery state of one source (R245, R247). -/
structure Delivery where
  src : Nat
  /-- The address it was sent to: the own one, or 0xFD for the manager role. -/
  dst : Nat
  incarnation : Nat
  delivered : Nat
  held : List (Nat × (Payload ⊕ MirrorMsg)) := []
deriving DecidableEq, Repr

/-- Where an election stands (R249, R256). -/
inductive Election where
  | idle
  | listening (since : Nat)
  | claimed (since epoch : Nat)
  | probing (since : Nat) (replies : List Nat)
deriving DecidableEq, Repr

/-- A transaction of the manager that waits for its MIRROR to be acknowledged (R257). -/
structure Transaction where
  mirrorSq : Nat
  coversSrc : Nat
  coversSq : Nat
  packets : List HeldPacket
  /-- The host command that completes with it, and its result words 0 and 1. -/
  command : Option (Nat × BitVec 32 × BitVec 32)
deriving DecidableEq, Repr

/-- A forwarded inspection profile on the manager (R218, R272). -/
structure Forwarded where
  seq : Nat
  accepted : Option Nat := none
  /-- Its worker's node, and the moment it was sent (R272). -/
  node : Nat := 0
  sentAt : Nat := 0
deriving DecidableEq, Repr

/-- What a member tells the manager of itself: colour, web offset, web-line offset, the sync groups of its open jobs, and whether it is
marked 'calibration awaiting check' (R251, R253, R267, R268). A group comes with the gap of its job. -/
structure SelfReport where
  colour : Nat
  webOffset : Int
  offset : Option Int
  groups : List (Nat × Nat)
  calCheck : Bool
deriving DecidableEq, Repr

/-- The ring, its roles, calendar time, speed limits and page sync (chapter 08). -/
structure Ring where
  east : Halyard := {}
  west : Halyard := {}
  role : Role := .guest
  rstate : RingState := .forming
  node : Option Nat := none
  epoch : Nat := 0
  manager : Option Nat := none
  standby : Option Nat := none
  count : Nat := 0
  generation : Nat := 0
  colour : Nat := 0
  /-- Web offset u_i in 1/65,536 line, and the µm it came from (R267). -/
  webOffset : Int := 0
  webOffsetUm : Nat := 0
  /-- Web-line offset o_i, valid once measured (R268). -/
  offset : Option Int := none
  offsetEdge : Option (Nat × Int × Bool) := none
  offsetTriedAt : Nat := 0
  /-- The web-line offset is to be measured anew (R268). -/
  offsetWanted : Bool := false
  syncStopped : Bool := false
  /-- Placements received while a change of the offset stops them: group, page, w (R270). -/
  placements : List (Nat × Nat × Int) := []
  residual : Int := 0
  calCheck : Bool := false
  roster : List RosterEntry := []
  heard : List Heard := []
  incarnation : Nat := 0
  /-- Next sequence number by source + 256 × destination; a guest's destination is 256 + its identity (R244, R247). -/
  nextSqs : List (Nat × Nat) := []
  /-- Own count of the unacknowledged classes, and the last counts delivered by class, source and identity (R245). -/
  sendCount : Nat := 0
  counts : List (Nat × List Nat) := []
  unacked : List Unacked := []
  deliveries : List Delivery := []
  election : Election := .idle
  upAt : Option Nat := none
  electedAt : Nat := 0
  beaconAt : Nat := 0
  beaconSent : Nat := 0
  lowerClaim : Bool := false
  /-- Appointment of a standby in progress: its node, the MIRROR that ends the transfer (R250). -/
  appointing : Option (Nat × Nat) := none
  /-- What the standby keeps: the MIRRORs received, and the packets from 0xFD known to be acknowledged, by addressee (R257). -/
  mirrored : List MirrorMsg := []
  ackedBy : List (Nat × Nat) := []
  transactions : List Transaction := []
  handoverSeq : Option Nat := none
  /-- Calendar time: offset from the device time count, ns; residual slew, ns; rate trim, 0.001 ppm. -/
  calValid : Bool := false
  calOffset : Int := 0
  slew : Int := 0
  rate : Int := 0
  timeHops : Nat := 15
  timeAt : Nat := 0
  timeLost : Bool := false
  /-- When the port followed last brought a TIME block, and when this chip sent TIME and NODE last. -/
  timeSeen : Nat := 0
  timeSentAt : Nat := 0
  nodeSentAt : Nat := 0
  /-- TAI seconds of the BEACON heard last (R244). -/
  tai : Option Nat := none
  /-- Speed limits by node: limit in lines/s, cause, and the moment the node was found unreached (R265). -/
  limits : List (Nat × Nat × Nat) := []
  unreached : List (Nat × Nat) := []
  vPress : Nat := 300000
  holdMs : Nat := 100
  pressRoute : Option Route := none
  postedV : Option (Nat × Nat × Nat) := none
  postedAt : Nat := 0
  syncPages : List SyncPage := []
  /-- Per group, w_prev + len_prev + gap of the last page placed, 1/65,536 line (R269). -/
  syncEnd : List (Nat × Int) := []
  /-- What the members have told the manager: web-line offsets by node, and groups with their members and the gaps of
  their jobs (R267 to R269). -/
  offsets : List (Nat × Int) := []
  groups : List (Nat × Nat × Nat) := []
  /-- What this chip has told the manager of itself. -/
  told : Option SelfReport := none
  /-- The admitted nodes that a manager which no MIRROR has told found (R256). -/
  adopted : List Nat := []
  /-- Profiles still arriving from the manager, by its sequence (R272). -/
  profileIn : List (Nat × List Byte) := []
  forwarded : List Forwarded := []
  scanSeq : Option (Nat × Nat × Nat) := none
deriving DecidableEq, Repr

/-! ## Motion axes (chapter 11) -/

/-- Axis states, AXS_n_STATUS.STATE. -/
inductive AxisState where
  | unconfigured
  | rest
  | rising
  | constant
  | falling
  | rampStop
  | faultStop
deriving DecidableEq, Repr

/-- The settings of AXIS_SET_LIMITS (R327). -/
structure AxisLimits where
  start : Nat
  stop : Nat
  brk : Nat
  cruise : Nat
  a1 : Nat
  a2 : Nat
  d2 : Nat
  d1 : Nat
  softMin : Int
  softMax : Int
deriving DecidableEq, Repr

/-- A piece of a profile (R338): its length in s, start position and speed (counts, counts/s, signed)
and acceleration (counts/s², signed). -/
structure Segment where
  span : Rat
  pos : Rat
  speed : Rat
  accel : Rat
  /-- It has no end: the plan holds a peak speed of 0 short of its target (R340). -/
  forever : Bool := false
deriving DecidableEq, Repr

/-- What a motion in force is for. -/
inductive MotionKind where
  | move
  | jog
  | homeOff
  | homeSearch
  | stop
deriving DecidableEq, Repr

/-- The motion in force on an axis (R338 to R349). -/
structure Motion where
  kind : MotionKind
  seq : Option Nat
  target : Rat
  cruise : Nat
  segments : List Segment
  startTick : Nat
  /-- The speed with which it began; none from rest. -/
  began : Option Rat := none
  /-- Status, detail bits the command gets at rest; a stop in progress carries its cause's rank (R348). -/
  endStatus : Nat := 0
  endDetail : BitVec 32 := 0
  rank : Nat := 9
  /-- AXIS_JOG and AXIS_HOME: jog or search direction negative; AXIS_HOME: assigned position. -/
  homeNegative : Bool := false
  homeAt : Int := 0
  /-- A jog's end on the device time count, if it has a duration. -/
  endsAt : Option Nat := none
deriving DecidableEq, Repr

/-- A motion axis (chapter 11). -/
structure Axis where
  state : AxisState := .unconfigured
  configured : Bool := false
  m : Nat := 1
  rampP : Bool := false
  rampN : Bool := false
  limitHigh : Bool := false
  homeHigh : Bool := false
  printPos : Int := 0
  tolerance : Nat := 0
  followLimit : Nat := 0
  limits : Option AxisLimits := none
  staged : Option AxisLimits := none
  homeOffset : Int := 0
  homed : Bool := false
  setCount : Int := 0
  setFrac : Nat := 0
  speed : Rat := 0
  negative : Bool := false
  motion : Option Motion := none
  stops : List Nat := []
  /-- The accepted levels of LIMn_P, LIMn_N and HOMEn, which pull down (R458, R467). -/
  limpLevel : Bool := false
  limnLevel : Bool := false
  homeLevel : Bool := false
  faultStop : Bool := false
  drvEnabled : Bool := false
  drvFault : Bool := false
  drvWarning : Bool := false
  folErr : Bool := false
  badReply : Nat := 0
  folMax : Nat := 0
  badRun : Nat := 0
  servo : Nat := 0
  /-- Port cycles since AXIS_CONFIG (R336), and the type and servo count of the last slot sent. -/
  cycles : Nat := 0
  lastType : Nat := 2
  lastServo : Nat := 0
  replied : Bool := true
  resetCmd : Option (Nat × Nat) := none
deriving DecidableEq, Repr

/-! ## SDRAM controller (chapter 12) -/

/-- One bank's open row and the moment of its last access, on a subchannel of a rank (R355, R359). -/
structure Bank where
  rank : Nat
  sub : Nat
  bank : Nat
  row : Nat
  since : Nat
deriving DecidableEq, Repr

/-- A request to the SDRAM: its class of R360, its address, and the moment it was issued. -/
structure SdramRequest where
  cls : Nat
  addr : Nat
  since : Nat
deriving DecidableEq, Repr

/-- The SDRAM controller (chapter 12; DMC_ registers). -/
structure Dmc where
  trained : Bool := false
  warmKeep : Bool := false
  fullRetrain : Bool := false
  cfgDefault : Bool := false
  rate4800 : Bool := false
  selfRefresh : Bool := false
  powerDown : BitVec 4 := 0
  doubleRefresh : Bool := false
  density : Nat := 0
  ranks2 : Bool := false
  gigabytes : Nat := 0
  setPage : Nat := 0
  setHist : Nat := 0
  setBulk : Nat := 0
  idle : Nat := 0
  powerDownDelay : Nat := 0
  limit4800 : Bool := false
  sets : List (List Nat) := []
  corrA : Nat := 0
  corrB : Nat := 0
  uncorrA : Nat := 0
  uncorrB : Nat := 0
  addrA : Nat := 0
  addrB : Nat := 0
  lastAddr : Nat := 0
  lastKind : Nat := 0
  training : List Byte := []
  banks : List Bank := []
  /-- Requests that wait, oldest first, and, by bank, the row hits that have passed an older miss in a row (R360). -/
  requests : List SdramRequest := []
  /-- The image copy in the firmware region (R446, R450). -/
  image : List Byte := []
  passed : List (Nat × Nat) := []
  rankSince : List Nat := []
  /-- Read timing of each byte lane, in 1/64 UI moved since training (R366). -/
  timing : List Int := []
  zqAt : List Nat := []
  mr4At : Nat := 0
  oscAt : Nat := 0
  /-- VDD_DQ has left its range in the warm reset in progress: the contents are lost (R363). -/
  lost : Bool := false
  /-- How many of the journal's and the event recorder's writes the channels have been given (R360). -/
  journalSeen : Nat := 0
  spillSeen : Nat := 0
deriving DecidableEq, Repr

/-! ## Faults (chapter 13) -/

/-- A request for injected shots (R383): `seq` is none for FLT_INJECT. -/
structure Injection where
  checker : Nat
  double : Bool
  unit : Nat
  left : Nat
  fed : Nat := 0
  seq : Option Nat := none
  firstCode : Nat := 0
  /-- A row-line has gone out with an inverted CRC, and what the head makes of it is still to come (checker 0x0D). -/
  out : Bool := false
deriving DecidableEq, Repr

/-- Recording of one code and unit (R373): moments of its records within 1 s, the last detection, and
the detections left unrecorded. -/
structure Throttle where
  code : Nat
  unit : Nat
  records : List Nat
  last : Nat
  suppressed : Bool
  unrecorded : Nat
  /-- The class that the last detection was taken with (R377, R400). -/
  cls : Nat := 0
deriving DecidableEq, Repr

/-- A reaction window (R380): the block that is reset, when its reset was issued, and the fault that it follows with that fault's
class; `parent` 0 for RESET_UNIT. -/
structure Window where
  block : ResetBlock
  since : Nat
  parent : Nat
  cls : Nat
deriving DecidableEq, Repr

/-- The capture of a first fault (R378), with the moment of its detection in device time. -/
structure Capture where
  code : Nat := 0
  unit : Nat := 0
  cls : Nat := 0
  injected : Bool := false
  timeValid : Bool := false
  time : BitVec 64 := 0
  since : Nat := 0
  cause0 : BitVec 32 := 0
  cause1 : BitVec 32 := 0
  cause2 : BitVec 32 := 0
  cause3 : BitVec 32 := 0
deriving DecidableEq, Repr

/-- The fault collector (chapter 13; FLT_ registers). -/
structure Flt where
  faultState : Bool := false
  staffHalt : Bool := false
  resets : Nat := 0
  live : BitVec 16 := 0
  latchBlock : BitVec 16 := 0
  latchClass : BitVec 4 := 0
  first : Option Capture := none
  /-- What the last sentinel cycle with a fault would have captured: a CLRFIRST of the same cycle leaves it (R379). -/
  recent : Option Capture := none
  count0 : Nat := 0
  count1 : Nat := 0
  count2 : Nat := 0
  count3 : Nat := 0
  injChecker : BitVec 9 := 0
  injUnit : BitVec 8 := 0
  pinLevel : Bool := true
  pulseEnd : Option Nat := none
  shadowParent : Nat := 0
  shadowHits : Nat := 0
  /-- The reaction windows whose blocks have not reported, the last one opened first. -/
  windows : List Window := []
  hold : Bool := false
  enteredAt : Nat := 0
  expireAt : Option Nat := none
  armedAtFault : Bool := false
  /-- Class map entries changed from the defaults of R372. -/
  classMap : List (Nat × Nat) := []
  injections : List Injection := []
  throttles : List Throttle := []
  speedZero : Bool := false
  /-- The model's own: FAULT_DETECTs next in the queue that were taken with an earlier one of their sentinel cycle (R373). -/
  taken : Nat := 0
deriving DecidableEq, Repr

/-! ## Event recorder (chapter 14) -/

/-- An event record (R396) without its check word, which is computed from it. -/
structure Record where
  seq : Nat
  code : Nat
  unit : Nat
  severity : Nat
  timeValid : Bool
  shadowed : Bool
  episode : Bool
  clockStep : Bool
  wrap : Bool
  time : BitVec 64
  p0 : BitVec 32
  p1 : BitVec 32
  p2 : BitVec 32
deriving DecidableEq, Repr

/-- A record in the on-die buffer, with its destinations (R402), the episode it was made in (by its first record's sequence, 0 for none)
and whether the spill holds it (R401). -/
structure Buffered where
  record : Record
  toService : Bool
  toEpisode : Bool
  episode : Nat
  spilled : Bool
deriving DecidableEq, Repr

/-- The event recorder (chapter 14; EVT_ registers). The episode area holds its first 32,768 records and
a ring of later ones, oldest first. -/
structure Evt where
  newest : Nat := 0
  wrap : Bool := false
  buffer : List Buffered := []
  spill : List Record := []
  service : List Record := []
  episodeFirst : List Record := []
  episodeRing : List Record := []
  /-- Records of the present episode committed to the episode area (R405). -/
  episodeCount : Nat := 0
  /-- Openers of the episode that is open, by kind of 0x8201 (R404, R411). -/
  openers : List Nat := []
  /-- The open episode commits to the episode area. -/
  usesArea : Bool := false
  /-- The episode that the area holds, by the sequence of its first record; 0 where it was committed before power-on reset. -/
  areaOf : Nat := 0
  /-- The host value of EPISODE_BEGIN. -/
  hostValue : BitVec 32 := 0
  locked : Bool := false
  recoveryPart : Bool := false
  /-- First record sequence of the open episode. -/
  episodeFrom : Nat := 0
  freeze : Bool := false
  cursorAt : Nat := 0
  irqEn : Bool := false
  irqSev : Nat := 0
  eraseArmAt : Option Nat := none
  eraseAt : Option Nat := none
  lapsed : Bool := false
  svcFull : Bool := false
  cursor : BitVec 64 := 0
  overflow : Nat := 0
  /-- The next overflow raises vector 9 (R406). -/
  overflowArmed : Bool := true
  overflowDirty : Option Nat := none
  /-- Copies to the spill: address and moment, newest first (R360, R401). -/
  writes : List (Nat × Nat) := []
deriving DecidableEq, Repr

/-! ## Calibration (chapter 15) -/

/-- A trimmed element (R415 to R417): its code, the code it moves toward, its last deviation in 0.1 %. -/
structure Element where
  code : Nat
  target : Nat
  deviation : Int
  outRange : Bool
deriving DecidableEq, Repr

/-- A calibration pass (R421, R422): groups, elements left, kind (0 periodic, 1 CAL_RUN), its command,
steps made and elements reselected. -/
structure Pass where
  groups : BitVec 4
  left : List Nat
  command : Option Nat
  steps : Nat
  reselected : Nat
  startedAt : Nat
deriving DecidableEq, Repr

/-- The calibration block (chapter 15; CAL_ registers). -/
structure Cal where
  elements : List (Option Element) := []
  pass : Option Pass := none
  powerUpDone : Bool := false
  xresBad : Bool := false
  fuseDef : Bool := false
  /-- Items whose last write failed and reached one copy only: the item (64 the calibration set, 0 to 63 a head
  entry slot), and whether copy A and copy B have been written with success since (R426). -/
  oneCopy : List (Nat × Bool × Bool) := []
  /-- A calibration set write asked for by CAL_COMMIT or SHUTDOWN_PREPARE is in progress. -/
  writing : Bool := false
  commitSeq : Option Nat := none
  /-- The heads that were present at the CAL_COMMIT whose write is in progress. -/
  commitHeads : List Nat := []
  lastPass : BitVec 64 := 0
  xres : Nat := 0
  lastStart : Nat := 0
  tempAtStart : List (BitVec 16) := []
  /-- A change not yet written: the moment of the first one (R427). -/
  setDirty : Option Nat := none
  barHeads : List Nat := []
  /-- Head directory: boot epoch of the last bring-up per slot (R424). -/
  directory : List Nat := []
deriving DecidableEq, Repr

/-! ## HB-8 mode (chapter 19) -/

/-- A legacy line held: the reference line it is placed at, once placed, and its packed bytes until then. -/
structure LegacyLine where
  place : Option Int
  bytes : List Byte
deriving DecidableEq, Repr

/-- The BAR4 register window and the raster intake (chapter 19). `…Held` fields are what a held field reads;
the field without the suffix is the value in force. -/
structure Hb where
  openBar : Bool := false
  enable : Bool := false
  depthHeld : Bool := false
  depth : Bool := false
  pitchHeld : Bool := false
  pitch : Bool := false
  dma : Bool := false
  oneLevel : BitVec 2 := 3
  headEn : BitVec 8 := 0
  err : BitVec 16 := 0
  ier : BitVec 3 := 0
  thresh : BitVec 11 := 0x100
  startHeld : BitVec 24 := 0
  start : BitVec 24 := 0
  encCfgHeld : BitVec 10 := 0x20
  encDivHeld : BitVec 16 := 0x80
  encCfg : BitVec 10 := 0x20
  encDiv : BitVec 16 := 0x80
  portCfg : BitVec 8 := 0
  tLimit : BitVec 12 := 0x3C0
  dmaBaseLo : BitVec 32 := 0
  dmaBaseHi : BitVec 32 := 0
  dmaSize : BitVec 11 := 16
  dmaTail : BitVec 10 := 0
  dmaHead : BitVec 10 := 0
  dmaHalted : Bool := false
  /-- Lines of the ring entry at HEAD that have been accepted (R492). -/
  dmaTaken : Nat := 0
  /-- HB_DELAYn as last written, and the delay of each head in force (R11, R498). -/
  delays : List (BitVec 12) := []
  delaysSet : List (BitVec 12) := []
  temps : List (Option (BitVec 12)) := []
  partialLine : List Byte := []
  lines : List LegacyLine := []
  /-- The reference line the next accepted line takes, once a start line is known (R494, R500). -/
  nextLine : Option Int := none
  /-- Lines of the open legacy page (R493). -/
  openPage : List (Int × List Byte) := []
  /-- Lines below this one fire level 0: their deadlines passed in a warm reset (R505). -/
  blankTo : Option Int := none
  heldWrites : List Byte := []
  irqPending : Bool := false
  waitArm : Bool := false
deriving DecidableEq, Repr

/-! ## Outputs -/

/-- Levels of an output pin; `floating` is high impedance or released. -/
inductive PinLevel where
  | low
  | high
  | floating
deriving DecidableEq, Repr

/-- A BAR as configuration space shows it (R279): its number, its size in bytes, and whether it is prefetchable. Each is a 64-bit memory
BAR; one of size 0 is not offered. -/
structure Bar where
  index : Nat
  size : Nat
  prefetchable : Bool
deriving DecidableEq, Repr

/-- What a configuration read of the identity and the BARs shows (R1, R274, R279, R485). -/
structure ConfigSpace where
  vendor : BitVec 16
  device : BitVec 16
  revision : BitVec 8
  classCode : BitVec 24
  /-- Subsystem vendor and subsystem IDs, where the spec gives them (R485). -/
  subsystem : Option (BitVec 16 × BitVec 16)
  bars : List Bar
deriving DecidableEq, Repr

/-- What the block puts on its links, buses and into host memory. -/
inductive Out where
  /-- A configuration request answered with Request Retry Status, or with what configuration space holds. -/
  | configRetry
  | configIdentity (c : ConfigSpace)
  /-- The 64-bit sequence written into a host entry (R284). -/
  | sequence (queue : Nat) (index : Nat) (seq : Nat)
  /-- The 16 bytes of a completion entry, written at an index of a completion queue (R288, R289). -/
  | completion (queue : Nat) (index : Nat) (entry : List Byte)
  /-- An MSI-X message on a vector; an MSI message of HB-8 mode. -/
  | msix (vector : Nat)
  | legacyIrq
  /-- Bytes written to a named host buffer at an offset. -/
  | buffer (seq : Nat) (offset : Nat) (bytes : List Byte)
  /-- A control block sent by a head port: its payload bytes 0 to 7 (R179). -/
  | headBlock (port : Nat) (payload : List Byte)
  /-- Data blocks sent by a head port (R180, R195). -/
  | headData (port : Nat) (bytes : List Byte)
  /-- A legacy fire marker: launch of K28.7 in grid units (R210). -/
  | legacyFire (port : Nat) (rowB : Bool) (launch : Int)
  /-- A halyard control block: its payload bytes 0 to 7 (R242). -/
  | halyardBlock (sd : Side) (payload : List Byte)
  /-- Data blocks of the PRBS31 sequence begin or end on a halyard port (R240). -/
  | prbs31 (sd : Side) (on : Bool)
  /-- A packet on a halyard port: class, source, destination, hop count, incarnation, sequence, shadow flag, body, and the identity of the
  guest that it is from or to. -/
  | packet (sd : Side) (cls src dst hops incarnation sq : Nat) (shadow : Bool) (body : Payload) (guest : Nat)
  /-- ACK, of an unacknowledged class: source, destination, hop count, 16-bit count, the highest sequence delivered, shadow flag, guest. -/
  | ack (sd : Side) (src dst hops count acked : Nat) (shadow : Bool) (guest : Nat)
  | mirror (sd : Side) (dst hops incarnation sq : Nat) (shadow : Bool) (m : MirrorMsg)
  /-- A packet of an unacknowledged class: source, hop count, 16-bit count, shadow flag. -/
  | beacon (sd : Side) (src hops count : Nat) (shadow : Bool) (b : BeaconMsg)
  | node (sd : Side) (src hops count : Nat) (shadow : Bool) (n : NodeMsg)
  /-- ELECT: 0 CLAIM, 1 JOIN, 2 PROBE, 3 PROBE reply. -/
  | elect (sd : Side) (src dst hops count : Nat) (shadow : Bool) (kind identity epoch : Nat)
  /-- An axis port slot: the 8 bytes of R336. -/
  | axisSlot (axis : Nat) (bytes : List Byte)
  /-- A compare pin driven to a level (R166). -/
  | comparePin (pin : Nat) (high : Bool)
  /-- A two-wire record or temperature read started (R190, R211). -/
  | twoWire (bus : Nat) (address : Nat) (register : Nat)
  /-- The data returned by a BAR2 aperture read, and whether it is poisoned (R302). -/
  | aperture (bytes : List Byte) (poisoned : Bool)
  /-- The value returned by a register read. -/
  | readData (off : Nat) (v : BitVec 64)
deriving DecidableEq, Repr

/-! ## The whole state -/

/-- The state of the block. -/
structure State where
  /-- The device time count in ns, from power-on reset (R143). -/
  now : Nat := 0
  fuses : Fuses := {}
  flash : Flash := {}
  power : Power := {}
  host : HostPort := {}
  journal : Journal := {}
  store : PageStore := {}
  codec : Codec := {}
  render : Render := {}
  lines : LineStore := {}
  pos : Position := {}
  heads : Heads := {}
  loop : Loop := {}
  ring : Ring := {}
  axes : List Axis := []
  /-- The port cycle that the axis port begins next, in 31.25 µs of device time (R335). -/
  axisCycle : Nat := 0
  dmc : Dmc := {}
  flt : Flt := {}
  evt : Evt := {}
  cal : Cal := {}
  hb : Hb := {}
  /-- What the block has sent, newest first (the model's own record of its outputs). -/
  out : List Out := []
  /-- The model's own counter behind free values; no statement rests on it. -/
  free : Nat := 0
  /-- Commands waiting, first in, first out. -/
  pending : List Instr := []
deriving DecidableEq, Repr

/-- The machine right after reset: power-on reset is held, every register at its reset value. -/
def State.reset : State := {}

/-- Reasons to stop with a fault. No meaning of this model raises one: every row of the table has an
effect, or none, in every state. -/
inductive Fault where
  /-- Raised by no meaning (safe): kept so that the type is not empty. -/
  | none
deriving DecidableEq, Repr

/-- Reasons to refuse a command. -/
inductive Refusal where
  /-- The row has no meaning in this model yet (safe: the machine stops where the device goes on). -/
  | notModelled (mnemonic : String)
deriving DecidableEq, Repr

end Sys2Proof.Machine
end

