-- ==== Sys2Proof/Machine/Tables.lean ====
section
/-!
DEFINITION. Machine/Tables.lean: the containers of the state. `Tbl` reads and writes a list as a table of
like things (what is not listed reads as the default); `SMap` is a sparse table held as a key list in
strictly rising key order; `Memory` is the byte memory of the nozzle state tables (chapter 04).
-/

namespace Sys2Proof.Machine

/-! ## Tables of like things -/

/-- Entry `i` of a table whose unlisted entries read as `d`. -/
def Tbl.get {α : Type} (d : α) (t : List α) (i : Nat) : α := t.getD i d

/-- The table with entry `i` written; the entries between are filled with the default. -/
def Tbl.put {α : Type} (d : α) : List α → Nat → α → List α
  | [], 0, x => [x]
  | [], i + 1, x => d :: Tbl.put d [] i x
  | _ :: t, 0, x => x :: t
  | y :: t, i + 1, x => y :: Tbl.put d t i x

/-- The table with entry `i` changed by `f`. -/
def Tbl.upd {α : Type} (d : α) (t : List α) (i : Nat) (f : α → α) : List α :=
  Tbl.put d t i (f (Tbl.get d t i))

/-- The first `n` entries, unlisted ones filled with the default. -/
def Tbl.take {α : Type} (d : α) (t : List α) (n : Nat) : List α := (List.range n).map (Tbl.get d t)

/-- Every one of the first `n` entries changed by `f`, which is told its number. -/
def Tbl.mapAll {α : Type} (d : α) (t : List α) (n : Nat) (f : Nat → α → α) : List α :=
  (List.range n).map fun i => f i (Tbl.get d t i)

/-! ## Sparse tables -/

/-- The value at a key of a sparse table. -/
def SMap.find? {α : Type} (k : Nat) : List (Nat × α) → Option α
  | [] => none
  | (j, v) :: t => if j = k then some v else SMap.find? k t

/-- The value at a key, or the default. -/
def SMap.get {α : Type} (d : α) (m : List (Nat × α)) (k : Nat) : α := (SMap.find? k m).getD d

/-- The table without a key. -/
def SMap.erase {α : Type} (k : Nat) (m : List (Nat × α)) : List (Nat × α) := m.filter fun e => e.1 != k

/-- The table with an entry put at its place in key order; the key must not be listed. -/
def SMap.insert {α : Type} (k : Nat) (v : α) : List (Nat × α) → List (Nat × α)
  | [] => [(k, v)]
  | (j, w) :: t => if k < j then (k, v) :: (j, w) :: t else (j, w) :: SMap.insert k v t

/-- The table with a key set; setting the default removes it. -/
def SMap.set {α : Type} [DecidableEq α] (d : α) (m : List (Nat × α)) (k : Nat) (v : α) : List (Nat × α) :=
  if v = d then SMap.erase k m else SMap.insert k v (SMap.erase k m)

/-- Canonical form: keys strictly rising, no entry equal to the default. -/
def SMap.wf {α : Type} [DecidableEq α] (d : α) : List (Nat × α) → Bool
  | [] => true
  | [(_, v)] => decide (v ≠ d)
  | (j, v) :: (k, w) :: t => decide (v ≠ d) && decide (j < k) && SMap.wf d ((k, w) :: t)

/-! ## Byte memories (the nozzle state table, R133) -/

/-- What a byte that nothing has written reads as: nozzle state 0, in service (R133, R233). -/
def Memory.empty : Byte := 0

/-- The byte at an address. -/
def Memory.read (m : List Host.Cell) (a : Nat) : Byte := SMap.get Memory.empty m a

/-- The memory with a byte written, in canonical form. -/
def Memory.write (m : List Host.Cell) (a : Nat) (v : Byte) : List Host.Cell := SMap.set Memory.empty m a v

/-- Canonical form: addresses strictly rising, no byte equal to what an unlisted address reads as. -/
def Memory.wf (m : List Host.Cell) : Bool := SMap.wf Memory.empty m

/-- Writes applied in order; the last for an address wins. -/
def Memory.writeAll (m : List Host.Cell) (l : List Host.Cell) : List Host.Cell :=
  l.foldl (fun m c => Memory.write m c.1 c.2) m

/-! ## Lists -/

/-- Whether a number is listed. -/
def has (n : Nat) (l : List Nat) : Bool := l.any (· == n)

/-- A list of numbers with one added, if it is not there. -/
def addNew (n : Nat) (l : List Nat) : List Nat := if has n l then l else l ++ [n]

/-- A list of numbers without one. -/
def without (n : Nat) (l : List Nat) : List Nat := l.filter (· != n)

/-- The numbers of a list, each once. -/
def dedupe (l : List Nat) : List Nat := l.foldl (fun r n => addNew n r) []

/-- Sorting by insertion, on a rank. -/
def insertBy {α : Type} (rank : α → Int) (x : α) : List α → List α
  | [] => [x]
  | y :: t => if rank x < rank y then x :: y :: t else y :: insertBy rank x t

/-- A list in rising order of a rank; equals keep their order. -/
def sortBy {α : Type} (rank : α → Int) (l : List α) : List α := l.foldl (fun r x => insertBy rank x r) []

/-- The entry with the lowest rank. -/
def leastBy {α : Type} (rank : α → Int) (l : List α) : Option α := (sortBy rank l).head?

end Sys2Proof.Machine
end

