-- ==== Sys2Proof/Machine/Bytes.lean ====
section
/-!
DEFINITION. Machine/Bytes.lean: byte order, bit fields, sign extension, clamping and rounding (R9, R10,
R508), the CRC-32C check word (R56) and binary64 rounding.
-/

namespace Sys2Proof.Machine

/-! ## Byte order and fields -/

/-- A number as `n` bytes, least significant first. -/
def leBytes : Nat → Nat → List Byte
  | 0, _ => []
  | n + 1, v => BitVec.ofNat 8 v :: leBytes n (v / 256)

/-- The number that bytes spell, least significant first. -/
def ofLe : List Byte → Nat
  | [] => 0
  | b :: t => b.toNat + 256 * ofLe t

/-- The number that bytes spell, most significant first. -/
def ofBe (l : List Byte) : Nat := ofLe l.reverse

/-- `n` bytes from an offset; bytes beyond the end are 0. -/
def bytesAt (l : List Byte) (off n : Nat) : List Byte := (List.range n).map fun i => l.getD (off + i) 0

/-- The little-endian number of `n` bytes at an offset. -/
def leAt (l : List Byte) (off n : Nat) : Nat := ofLe (bytesAt l off n)

/-- `n` bits of a number from bit `lo` up. -/
def bits (v lo n : Nat) : Nat := v / 2 ^ lo % 2 ^ n

/-- One bit of a number. -/
def bitOf (v i : Nat) : Bool := v / 2 ^ i % 2 == 1

/-- A Boolean as a bit. -/
def b2n (b : Bool) : Nat := if b then 1 else 0

/-- The signed reading of an `n`-bit number (two's complement, R304). -/
def signed (n v : Nat) : Int := if v % 2 ^ n < 2 ^ (n - 1) then (v % 2 ^ n : Nat) else ((v % 2 ^ n : Nat) : Int) - 2 ^ n

/-- A signed number as `n` bits, two's complement. -/
def unsign (n : Nat) (v : Int) : Nat := (v % 2 ^ n).toNat

/-- A signed little-endian field of `n` bytes at an offset. -/
def sleAt (l : List Byte) (off n : Nat) : Int := signed (8 * n) (leAt l off n)

/-- The low 32 bits of a number. -/
def w32 (v : Nat) : BitVec 32 := BitVec.ofNat 32 v

/-- The low 32 bits of a signed number. -/
def w32i (v : Int) : BitVec 32 := BitVec.ofInt 32 v

/-! ## Rounding and clamping (R10, R508) -/

/-- Clamp(x, lo, hi). -/
def clamp (x lo hi : Int) : Int := if x < lo then lo else if hi < x then hi else x

/-- A rational rounded half up to an integer. -/
def roundHalfUp (x : Rat) : Int := (x + 1 / 2).floor

/-- A quotient of integers rounded half up. -/
def divHalfUp (a b : Int) : Int := (2 * a + b).fdiv (2 * b)

/-- Ceiling of a quotient of naturals. -/
def ceilDiv (a b : Nat) : Nat := (a + b - 1) / b

/-- A quantity rounded half up and clamped to a field's range. -/
def report (x : Rat) (lo hi : Int) : Int := clamp (roundHalfUp x) lo hi

/-- The absolute value of a rational. -/
def absRat (x : Rat) : Rat := if x < 0 then -x else x

/-- The largest integer whose square is at most `n`, by bisection on `fuel` bits. -/
def isqrtAux : Nat → Nat → Nat → Nat
  | 0, _, r => r
  | f + 1, n, r => isqrtAux f n (if (r + 2 ^ f) * (r + 2 ^ f) ≤ n then r + 2 ^ f else r)

/-- Integer square root. -/
def isqrt (n : Nat) : Nat := isqrtAux (n.log2 / 2 + 1) n 0

/-! ## binary64 (R197, R338) -/

/-- The exponent of the last of 53 significant bits of a positive rational. -/
def ulpExp (x : Rat) : Int :=
  let e := (x.num.toNat.log2 : Int) - (x.den.log2 : Int)
  -- `2 ^ e ≤ x < 2 ^ (e + 2)` up to one either way: settle it
  let p : Rat := if 0 ≤ e then ((2 ^ e.toNat : Nat) : Rat) else 1 / ((2 ^ (-e).toNat : Nat) : Rat)
  if x < p then e - 1 - 52 else e - 52

/-- A power of two. -/
def pow2 (e : Int) : Rat := if 0 ≤ e then ((2 ^ e.toNat : Nat) : Rat) else 1 / ((2 ^ (-e).toNat : Nat) : Rat)

/-- Round to the nearest integer, ties to even. -/
def roundEven (x : Rat) : Int :=
  let f := x.floor
  let r := x - (f : Rat)
  if r < 1 / 2 then f else if 1 / 2 < r then f + 1 else if f % 2 = 0 then f else f + 1

/-- A rational rounded to binary64, nearest even, in the normal range. -/
def rnd64 (x : Rat) : Rat :=
  if x = 0 then 0
  else
    let a := absRat x
    let u := pow2 (ulpExp a)
    let m : Rat := (roundEven (a / u) : Rat) * u
    if x < 0 then -m else m

/-- The square root rounded down to 2^-64, for a non-negative rational. -/
def sqrtRat (x : Rat) : Rat :=
  if x ≤ 0 then 0 else ((isqrt (x * ((2 ^ 128 : Nat) : Rat)).floor.toNat : Nat) : Rat) / ((2 ^ 64 : Nat) : Rat)

/-- The operations of binary64: the exact result rounded (log 52). -/
def fAdd (a b : Rat) : Rat := rnd64 (a + b)
def fSub (a b : Rat) : Rat := rnd64 (a - b)
def fMul (a b : Rat) : Rat := rnd64 (a * b)
def fDiv (a b : Rat) : Rat := rnd64 (a / b)
def fSqrt (a : Rat) : Rat := rnd64 (sqrtRat a)

/-! ## CRC-32C (R56) -/

/-- Eight steps of the reflected CRC-32C register. -/
def crcShift : Nat → BitVec 32 → BitVec 32
  | 0, c => c
  | n + 1, c => crcShift n (if c.getLsbD 0 then (c >>> 1) ^^^ 0x82F63B78#32 else c >>> 1)

/-- The register after a byte. -/
def crcByte (c : BitVec 32) (b : Byte) : BitVec 32 := crcShift 8 (c ^^^ b.zeroExtend 32)

/-- The CRC-32C register run over bytes from a start value. -/
def crcRun (c : BitVec 32) (l : List Byte) : BitVec 32 := l.foldl crcByte c

/-- CRC-32C of bytes: register set to all ones, result inverted (R56). -/
def crc32c (l : List Byte) : BitVec 32 := ~~~ (crcRun 0xFFFFFFFF#32 l)

/-- Bits packed into bytes, most significant first, the last byte filled with zeros. -/
def packBits : List Bool → List Byte
  | b7 :: b6 :: b5 :: b4 :: b3 :: b2 :: b1 :: b0 :: t =>
    BitVec.ofNat 8 (128 * b2n b7 + 64 * b2n b6 + 32 * b2n b5 + 16 * b2n b4 + 8 * b2n b3 + 4 * b2n b2
      + 2 * b2n b1 + b2n b0) :: packBits t
  | [] => []
  | t => [BitVec.ofNat 8 ((List.range 8).foldl (fun v i => 2 * v + b2n (t.getD i false)) 0)]

/-- Two-bit values packed four to a byte, the first in the most significant bits. -/
def packPairs : List Nat → List Byte
  | a :: b :: c :: d :: t => BitVec.ofNat 8 (64 * (a % 4) + 16 * (b % 4) + 4 * (c % 4) + d % 4) :: packPairs t
  | [] => []
  | t => [BitVec.ofNat 8 ((List.range 4).foldl (fun v i => 4 * v + t.getD i 0 % 4) 0)]

/-- The two-bit value at an index of a packed row. -/
def pairAt (l : List Byte) (i : Nat) : Nat := bits (l.getD (i / 4) 0).toNat (6 - 2 * (i % 4)) 2

/-- The bit at an index of a packed row, most significant first. -/
def packedBit (l : List Byte) (i : Nat) : Bool := bitOf (l.getD (i / 8) 0).toNat (7 - i % 8)

/-- CRC-8 of R179. -/
def crc8Byte (c : BitVec 8) (b : Byte) : BitVec 8 :=
  (List.range 8).foldl (fun c _ => if c.getLsbD 7 then (c <<< 1) ^^^ 0x07#8 else c <<< 1) (c ^^^ b)

/-- The CRC-8 of bytes. -/
def crc8 (l : List Byte) : BitVec 8 := l.foldl crc8Byte 0

end Sys2Proof.Machine
end

