-- ==== Sys2Proof/Machine/Ops.lean ====
section
/-!
DEFINITION. Machine/Ops.lean: the operations every command shares: device and calendar time, free values,
interrupts, event records and episodes, completions and journal entries. A block has no exception entry;
what stands in its place is the making of a record, the sending of an interrupt and the completion of a
command.
-/

namespace Sys2Proof.Machine

/-! ## Time (R143, R261, R264, R397) -/

/-- The device time count moved to the moment of a happening; it never runs back. -/
def State.tick (s : State) (t : Nat) : State := { s with now := max s.now t }

/-- The part of a residual slew removed in `dt` ns: 50 ppm on the manager (R262), 10 ppm elsewhere (R264). -/
def Ring.slewed (r : Ring) (dt : Nat) : Int :=
  let most : Int := (dt * (if r.role = .manager then 50 else 10) / 1000000 : Nat)
  clamp r.slew (-most) most

/-- Calendar time in ns at a moment of the device time count. `rate` is in 0.001 ppm. -/
def Ring.calAt (r : Ring) (now : Nat) : Int :=
  now + r.calOffset + r.slewed (now - r.timeAt) + (r.rate * ((now - r.timeAt : Nat) : Int)).fdiv 1000000000

/-- The ring with its calendar settled at a moment, so that the rate or the slew may change there. -/
def Ring.settle (r : Ring) (now : Nat) : Ring :=
  { r with calOffset := r.calAt now - now, slew := r.slew - r.slewed (now - r.timeAt), timeAt := now }

/-- A TAI time in ns in the format of R397: seconds in bits 63:30, nanoseconds in bits 29:0. -/
def timeField (ns : Int) : BitVec 64 := BitVec.ofInt 64 (ns.fdiv 1000000000 * 2 ^ 30 + ns.fmod 1000000000)

/-- The ns that a time field in the format of R397 stands for. -/
def ofTimeField (v : Nat) : Int := ((v / 2 ^ 30 * 1000000000 + v % 2 ^ 30 : Nat) : Int)

/-- The time field of now and its time-valid flag (R397). -/
def State.stamp (s : State) : Bool × BitVec 64 :=
  if s.ring.calValid then (true, timeField (s.ring.calAt s.now)) else (false, BitVec.ofNat 64 s.now)

/-! ## Free values -/

/-- A free bit, and the state that has used it. -/
def State.freeBit (s : State) : Bool × State := (Config.freeBit s.free, { s with free := s.free + 1 })

/-- A free byte, and the state that has used it. -/
def State.freeByte (s : State) : Byte × State := (Config.freeByte s.free, { s with free := s.free + 1 })

/-- Free bytes, and the state that has used them. -/
def State.freeBytes : Nat → State → List Byte × State
  | 0, s => ([], s)
  | n + 1, s => let r := State.freeBytes n { s with free := s.free + 1 }; (Config.freeByte s.free :: r.1, r.2)

/-- A free number, and the state that has used it. -/
def State.freeNat (s : State) : Nat × State := (Config.freeNat s.free, { s with free := s.free + 1 })

/-! ## Outputs and interrupts -/

/-- Something put on a link, a bus or a pin. -/
def State.emit (s : State) (o : Out) : State := { s with out := o :: s.out }

/-- Whether the host interface may issue DMA, completions and interrupts (R276 to R278). -/
def State.canSend (s : State) : Bool :=
  s.host.linkUp && !s.host.perstLow && s.host.busMaster && !s.host.d3hot

/-- Send an MSI-X vector (R294). A masked vector, or one raised while nothing can be sent, becomes
pending. MSI-X is not used in HB-8 mode (R486). -/
def State.interrupt (s : State) (v : Nat) : State :=
  if s.power.mode = .hb8 then s
  else if (Tbl.get {} s.host.msix v).masked || !s.canSend then
    { s with host := { s.host with pending := s.host.pending ||| BitVec.ofNat 32 (2 ^ v) } }
  else s.emit (.msix v)

/-- The vectors of R294 that are pending and can be sent now are sent, lowest first. -/
def State.sendPending (s : State) : State :=
  (List.range 13).foldl (fun s v =>
    if s.host.pending.getLsbD v && !(Tbl.get {} s.host.msix v).masked && s.canSend then
      { s with host := { s.host with pending := s.host.pending &&& ~~~ BitVec.ofNat 32 (2 ^ v) } }.emit (.msix v)
    else s) s

/-! ## Event records (R396 to R402, R406) -/

/-- What a record says before it is numbered and stamped. -/
structure Note where
  code : Nat
  unit : Nat := 0
  severity : Nat := 0
  shadowed : Bool := false
  clockStep : Bool := false
  p0 : BitVec 32 := 0
  p1 : BitVec 32 := 0
  p2 : BitVec 32 := 0
deriving DecidableEq, Repr

/-- A record counted as overflow (R406). -/
def State.overflowed (s : State) : State :=
  let first := s.evt.overflowArmed
  let s := { s with evt := { s.evt with
    overflow := min (s.evt.overflow + 1) 0xFFFFFFFF
    overflowArmed := false
    overflowDirty := some (s.evt.overflowDirty.getD s.now) } }
  if first then s.interrupt 9 else s

/-- The spill with a record copied into its slot, sequence mod 524,288 (R401). -/
def spillPut (l : List Record) (r : Record) : List Record :=
  (r :: l.filter (fun x => x.seq % 524288 != r.seq % 524288)).take 524288

/-- The buffer without its newest record of severity 0 that has not reached the spill, if there is one (R406). -/
def displace (l : List Buffered) : Option (List Buffered) :=
  match l.reverse.findIdx? (fun b => b.record.severity == 0 && !b.spilled) with
  | some i => some (l.eraseIdx (l.length - 1 - i))
  | none => none

/-- The record that a note becomes: numbered, stamped and flagged (R396 to R398). -/
def State.recordOf (s : State) (n : Note) (stamp : Bool × BitVec 64) : Record :=
  { seq := if s.evt.newest = 0xFFFFFFFF then 1 else s.evt.newest + 1
    code := n.code, unit := n.unit, severity := n.severity
    timeValid := stamp.1, shadowed := n.shadowed, episode := !s.evt.openers.isEmpty
    clockStep := n.clockStep
    wrap := if s.evt.newest = 0xFFFFFFFF then !s.evt.wrap else s.evt.wrap
    time := stamp.2, p0 := n.p0, p1 := n.p1, p2 := n.p2 }

/-- Where R402 sends a record made now. -/
def State.destinations (s : State) (severity : Nat) : Bool × Bool :=
  if s.evt.openers.isEmpty then (true, false)
  else if s.evt.usesArea then (decide (2 ≤ severity), true)
  else (true, false)

/-- A record put into the on-die buffer and, once the SDRAM is trained, copied to the spill. -/
def State.bufferRecord (s : State) (r : Record) : State :=
  let d := s.destinations r.severity
  let b : Buffered := { record := r, toService := d.1, toEpisode := d.2, episode := if s.evt.openers.isEmpty then 0 else s.evt.episodeFrom, spilled := s.dmc.trained }
  let s := { s with evt := { s.evt with
    buffer := s.evt.buffer ++ [b]
    spill := if s.dmc.trained then spillPut s.evt.spill r else s.evt.spill
    writes := if s.dmc.trained then (0x8000000 + r.seq % 524288 * 32, s.now) :: s.evt.writes else s.evt.writes } }
  if s.evt.buffer.length = 1536 then s.interrupt 9 else s

/-- Make a record with a given time field (R396, R401, R406). -/
def State.noteAt (s : State) (n : Note) (stamp : Bool × BitVec 64) : State :=
  let r := s.recordOf n stamp
  let s1 := { s with evt := { s.evt with newest := r.seq, wrap := r.wrap } }
  let s2 :=
    if s1.evt.buffer.length < 2048 then s1.bufferRecord r
    else if 3 ≤ r.severity then
      match displace s1.evt.buffer with
      | some b => ({ s1 with evt := { s1.evt with buffer := b } }.bufferRecord r).overflowed
      | none => s1.overflowed
    else s1.overflowed
  if s2.evt.irqEn && decide (s2.evt.irqSev ≤ r.severity) then s2.interrupt 9 else s2

/-- Make a record now. -/
def State.note (s : State) (n : Note) : State := s.noteAt n s.stamp

/-- An informational event (R411), severity 0. -/
def State.info (s : State) (code : Nat) (unit : Nat := 0) (p0 p1 p2 : BitVec 32 := 0) : State :=
  s.note { code := code, unit := unit, p0 := p0, p1 := p1, p2 := p2 }

/-- An opener joins or opens an episode (R404): kinds 0 start-up, 1 self-test, 2 calibration, 3 recovery,
4 host. The area is used unless it is locked when the episode opens. -/
def State.episodeOpen (s : State) (kind : Nat) (value : BitVec 32 := 0) : State :=
  let fresh := s.evt.openers.isEmpty
  let s1 := { s with evt := { s.evt with
    openers := s.evt.openers ++ [kind]
    usesArea := if fresh then !s.evt.locked else s.evt.usesArea
    recoveryPart := (if fresh then false else s.evt.recoveryPart) || kind == 3
    episodeFrom := if fresh then (if s.evt.newest = 0xFFFFFFFF then 1 else s.evt.newest + 1)
      else s.evt.episodeFrom } }
  s1.info 0x8201 0 (w32 kind) value

/-- An opener ends its part; the last one writes 0x8202 and closes the episode, which locks the area if a
recovery took part in it and it used the area (R404, R405). -/
def State.episodeClose (s : State) (kind : Nat) (value : BitVec 32 := 0) : State :=
  if !has kind s.evt.openers then s
  else
    let rest := s.evt.openers.eraseIdx (s.evt.openers.findIdx (· == kind))
    if !rest.isEmpty then { s with evt := { s.evt with openers := rest } }
    else
      let s1 := s.info 0x8202 0 (w32 kind) value
      { s1 with evt := { s1.evt with
        openers := []
        locked := s1.evt.locked || (s1.evt.recoveryPart && s1.evt.usesArea) } }

/-! ## Completions (R288 to R295) -/

/-- Whether a completion queue has no free entry. -/
def CompQueue.full (q : CompQueue) : Bool := (q.tail.toNat + 1) % q.size.toNat == q.head.toNat

/-- The queue after an entry has been written at TAIL: TAIL advances and the phase inverts at a wrap (R289). -/
def CompQueue.advance (q : CompQueue) : CompQueue :=
  let t := (q.tail.toNat + 1) % q.size.toNat
  { q with tail := BitVec.ofNat 14 t, phase := if t = 0 then !q.phase else q.phase }

/-- The 16 bytes of a completion entry with its phase bit (R288). -/
def Completion.bytes (c : Completion) (phase : Bool) : List Byte :=
  leBytes 4 c.tag.toNat ++ leBytes 5 c.seq ++ leBytes 1 (c.queue % 8 + (if c.source = 0 then 0 else 8) + (if phase then 128 else 0))
  ++ leBytes 2 c.status ++ leBytes 4 c.detail.toNat

/-- A completion written to queue `n`, and the queue's interrupt if R295 asks for it at once. -/
def State.writeCompletion (s : State) (n : Nat) (c : Completion) : State :=
  let q := Tbl.get {} s.host.cc n
  let s1 := s.emit (.completion n q.tail.toNat (c.bytes q.phase))
  let q1 := q.advance
  if c.noInterrupt then { s1 with host := { s1.host with cc := Tbl.put {} s1.host.cc n q1 } }
  else if q.coalCount.toNat ≤ q.since + 1 then
    let q2 := { q1 with since := 0, oldest := none }
    { s1 with host := { s1.host with cc := Tbl.put {} s1.host.cc n q2 } }.interrupt n
  else
    let q2 := { q1 with since := q.since + 1, oldest := some (q.oldest.getD s.now) }
    { s1 with host := { s1.host with cc := Tbl.put {} s1.host.cc n q2 } }

/-- A completion held for queue `n`; of held unsolicited ones only the newest of a source stays (R290). -/
def State.holdCompletion (s : State) (n : Nat) (c : Completion) : State :=
  let q := Tbl.get {} s.host.cc n
  let kept := if c.source = 0 then q.held else q.held.filter fun x => x.source != c.source
  { s with host := { s.host with cc := Tbl.put {} s.host.cc n { q with held := kept ++ [c] } } }

/-- Post a completion to queue `n` (R289, R290): not at all if the queue is disabled; held while the ring
is full, while earlier ones are held, and while nothing can be sent (R277, R278). -/
def State.post (s : State) (n : Nat) (c : Completion) : State :=
  let q := Tbl.get {} s.host.cc n
  if !q.enabled then s
  else if q.full || !q.held.isEmpty || !s.canSend then s.holdCompletion n c
  else s.writeCompletion n c

/-- Post the held completions of queue `n` in order, as far as there is room (`fuel` of them at most). -/
def State.postHeld : Nat → State → Nat → State
  | 0, s, _ => s
  | f + 1, s, n =>
    let q := Tbl.get {} s.host.cc n
    match q.held with
    | [] => s
    | c :: rest =>
      if q.full || !s.canSend || !q.enabled then s
      else State.postHeld f ({ s with host := { s.host with cc := Tbl.put {} s.host.cc n { q with held := rest } } }.writeCompletion n c) n

/-- Held completions of every queue posted, as far as there is room (R277, R278, R290). -/
def State.postAllHeld (s : State) : State :=
  (List.range 8).foldl (fun s n => State.postHeld (Tbl.get {} s.host.cc n).held.length s n) s

/-- Completions held in all (R290). -/
def State.heldCount (s : State) : Nat := (s.host.cc.map (·.held.length)).sum

/-! ## The journal (R284, R296 to R298, R308 to R311) -/

/-- The statuses of R310. -/
inductive Status where
  | ok | badOpcode | badParam | notInMode | busy | noResource | latePage | cancelled
  | decodeError | outputLimit | outputFull | unitFenced | denied | replayed
deriving DecidableEq, Repr

/-- The code of a status (R310). -/
def Status.code : Status → Nat
  | .ok => 0x0 | .badOpcode => 0x1 | .badParam => 0x2 | .notInMode => 0x3 | .busy => 0x4
  | .noResource => 0x5 | .latePage => 0x6 | .cancelled => 0x7 | .decodeError => 0x8
  | .outputLimit => 0x9 | .outputFull => 0xA | .unitFenced => 0xB | .denied => 0xC | .replayed => 0xD

/-- The journal state a status leads to (R310). -/
def Status.journal : Status → JState
  | .ok => .done
  | .latePage | .replayed => .replayed
  | _ => .failed

/-- Whether an entry is done, failed or replayed. -/
def JState.final : JState → Bool
  | .accepted | .running => false
  | .done | .failed | .replayed => true

/-- The journal entry of a sequence. -/
def State.entry? (s : State) (seq : Nat) : Option JEntry := s.journal.entries.find? (fun e => e.seq == seq)

/-- The journal with the entry of a sequence rewritten in place (R297). -/
def State.mapEntry (s : State) (seq : Nat) (f : JEntry → JEntry) : State :=
  { s with journal := { s.journal with
    entries := s.journal.entries.map fun e => if e.seq == seq then f e else e } }

/-- The sequence of a count in the present boot epoch (R296). -/
def State.seqOf (s : State) (count : Nat) : Nat := s.journal.epoch * 2 ^ 40 + count

/-- The newest sequence accepted, 0 while there is none. -/
def State.newestSeq (s : State) : Nat := if s.journal.next ≤ 1 then 0 else s.seqOf (s.journal.next - 1)

/-- Whether an entry is among the newest 65,536 (R298). -/
def State.inRing (s : State) (e : JEntry) : Bool := decide (s.seqOf s.journal.next ≤ e.seq + 65536)

/-- Entries in the carry area: out of the ring and not final (R298). -/
def State.carry (s : State) : List JEntry :=
  s.journal.entries.filter fun e => !s.inRing e && !e.state.final

/-- The accept time of an entry at a state change: once calendar time is valid, a device time count kept before is converted to it, as both
times of an entry are of one kind (R297). -/
def State.acceptStamp (s : State) (e : JEntry) : BitVec 64 :=
  if s.ring.calValid && !e.timesValid then timeField (s.ring.calAt s.now - ((s.now : Int) - e.acceptTime.toNat)) else e.acceptTime

/-- Where an entry lies in the SDRAM: its slot of the ring, or one of the carry area behind it, whose slots the manual does not lay out: a free
value (R298, R354). -/
def State.entryAddress (s : State) (e : JEntry) : Nat :=
  if s.inRing e then 0x4000000 + e.seq % 65536 * 64 else 0x4400000 + Config.freeNat e.seq % 393216 * 64

/-- The SX3216 rewrites an entry in place: a write to the SDRAM (R297, R360). -/
def State.writeEntry (s : State) (seq : Nat) : State :=
  match s.entry? seq with
  | none => s
  | some e => { s with journal := { s.journal with writes := (s.entryAddress e, s.now) :: s.journal.writes } }

/-- A state change of an entry, stamped (R297, R308). An entry that becomes final outside the ring stays
readable for 10 s (R298). -/
def State.setJState (s0 : State) (seq : Nat) (st : JState) : State :=
  let s := s0.writeEntry seq
  s.mapEntry seq fun e => { e with
    state := st, timesValid := s.stamp.1, stateTime := s.stamp.2, acceptTime := s.acceptStamp e
    readableUntil := if st.final && !s.inRing e then some (s.now + 10000000000) else e.readableUntil }

/-- The completion that a final entry posts (R288). -/
def JEntry.completion (e : JEntry) (status : Nat) (detail : BitVec 32) : Completion :=
  { tag := e.tag, seq := e.seq, queue := e.queue, status := status, detail := detail
    noInterrupt := e.flags.getLsbD 3, source := 0 }

/-- An entry made final: its status, detail and result words, and its completion, which goes to the queue
named in bits 2:0 of the command's flags unless bit 4 is set; commands received over the ring or issued by
device firmware have none (R290, R297, R310). -/
def State.settleEntry (s : State) (seq : Nat) (st : Status) (detail : BitVec 32) (r0 r1 r2 r3 : BitVec 32) : State :=
  match s.entry? seq with
  | none => s
  | some e =>
    let s1 := (s.setJState seq st.journal).mapEntry seq fun e => { e with
      status := st.code, detail := detail, r0 := r0, r1 := r1, r2 := r2, r3 := r3
      waitsSince := none, started := true }
    if e.queue < 8 && !e.flags.getLsbD 4 then
      s1.post (e.flags.toNat % 8) (e.completion st.code detail)
    else s1

/-- Whether a FENCE has nothing left to wait for (R311). -/
def State.fenceDone (s : State) (f : FenceWait) : Bool :=
  f.waits.all fun q => match s.entry? q with
    | none => true
    | some e => e.state.final || (f.running && e.state == .running)

/-- FENCEs whose wait is over complete with OK; completing one may end the wait of another. -/
def State.settleFences : Nat → State → State
  | 0, s => s
  | f + 1, s =>
    match s.journal.fences.find? s.fenceDone with
    | none => s
    | some w =>
      State.settleFences f (State.settleEntry
        { s with journal := { s.journal with fences := s.journal.fences.filter fun x => x.seq != w.seq } }
        w.seq .ok 0 (w32 w.count) (w32 w.highest) 0 0)

/-- Every FENCE whose wait is over completes. -/
def State.fences (s : State) : State := State.settleFences s.journal.fences.length s

/-- A command completes (R308, R310), and the FENCEs that waited for it with it. An entry that is final already
stays as it is. -/
def State.finish (s : State) (seq : Nat) (st : Status) (detail : BitVec 32 := 0)
    (r0 r1 r2 r3 : BitVec 32 := 0) : State :=
  match s.entry? seq with
  | none => s
  | some e => if e.state.final then s else (s.settleEntry seq st detail r0 r1 r2 r3).fences

/-- A command enters the running state (R309). -/
def State.setRunning (s : State) (seq : Nat) : State := (s.setJState seq .running).fences

/-- A command starts: it leaves the wait of R286. `running` is false for the commands that R309 lets enter
the running state later. -/
def State.start (s : State) (seq : Nat) (running : Bool) : State :=
  let s1 := s.mapEntry seq fun e => { e with started := true, waitsSince := none }
  if running then s1.setRunning seq else s1

/-- The detail bits of R275, R293 and R392. -/
def bit31 : BitVec 32 := 0x80000000#32
def bit30 : BitVec 32 := 0x40000000#32
def bit29 : BitVec 32 := 0x20000000#32

end Sys2Proof.Machine
end

