-- ==== Sys2Proof/Machine/Dram.lean ====
section
/-!
DEFINITION. Machine/Dram.lean: addresses of the SDRAM (R354, R355), the open rows of its banks (R359, R362), and the requests of a channel
with the order in which they are served (R360).
-/

namespace Sys2Proof.Machine

/-! ## Regions and coordinates (R354, R355) -/

/-- The first address beyond the SDRAM fitted. -/
def Dmc.top (d : Dmc) : Nat := d.gigabytes * 2 ^ 30

/-- The region of an address, in the order of R354. -/
def Dmc.region (d : Dmc) (a : Nat) : Nat :=
  if a < 0x4000000 then 0 else if a < 0x8000000 then 1 else if a < 0x9000000 then 2 else if a < 0x29000000 then 3
  else if a + 0x4000000 < d.top then 4 else 5

/-- Bits of the bank field. -/
def Dmc.bankBits (d : Dmc) : Nat := if d.density = 0 then 3 else 4

/-- The mapping set of an address; none for the fixed mapping. -/
def Dmc.setOf (d : Dmc) (a : Nat) : Option Nat :=
  match d.region a with
  | 3 => some d.setHist
  | 4 => some d.setPage
  | 5 => some d.setBulk
  | _ => none

/-- The exclusive-or of the address bits that a mask selects. -/
def maskParity (m a : Nat) : Bool :=
  (List.range 30).foldl (fun p i => if bitOf m i then p != bitOf a (6 + i) else p) false

/-- A bank-field bit of an address. -/
def Dmc.bankBit (d : Dmc) (a j : Nat) : Bool :=
  match d.setOf a with
  | none => bitOf a (14 + j)
  | some s => maskParity ((d.sets.getD s []).getD j 0) (a % max 1 d.top)

/-- The bank of an address. -/
def Dmc.bankOf (d : Dmc) (a : Nat) : Nat := ((List.range d.bankBits).map fun j => b2n (d.bankBit a j) * 2 ^ j).sum

/-- Rank size, and the rank of an address with its channel: 0 A0, 1 A1, 2 B0, 3 B1. -/
def Dmc.rankSize (d : Dmc) : Nat := max 1 (if d.ranks2 then d.top / 2 else d.top)
def Dmc.rankOf (d : Dmc) (a : Nat) : Nat := 2 * b2n (bitOf a 7) + (a / d.rankSize) % 2

/-- The subchannel, the column of the burst and the byte within it (R355). -/
def subchannelOf (a : Nat) : Nat := a / 64 % 2
def columnOf (a : Nat) : Nat := 16 * (a / 256 % 64)
def byteOf (a : Nat) : Nat := a % 64

/-- The check bits beside 64 data bits at an address: the SECDED code, and the CRC-8 of address bits 35:6 exclusive-ored with it (R367).
DESIGN CHOICE (log 101): the CRC-8 takes those bits as four bytes, little-endian. -/
def checkBits (a : Nat) (d : BitVec 64) : BitVec 8 × BitVec 8 :=
  (Config.secded d, crc8 (leBytes 4 (a / 64 % 2 ^ 30)) ^^^ Config.secded d)

/-- What is read at an address passes its address check; where it does not, the read is an address error (R367). -/
def addressHolds (a : Nat) (code check : BitVec 8) : Bool := (check ^^^ code) == crc8 (leBytes 4 (a / 64 % 2 ^ 30))

/-- The row of an address. -/
def Dmc.rowOf (d : Dmc) (a : Nat) : Nat := a % d.rankSize / 2 ^ (14 + d.bankBits)

/-- An access opens its row, restarts the bank's idle timer, and wakes the rank (R359, R362); a limit of 0 closes the row again. -/
def Dmc.access (d : Dmc) (a now : Nat) : Dmc :=
  let r := d.rankOf a
  let b := d.bankOf a
  let rest := d.banks.filter fun x => !(x.rank == r && x.sub == subchannelOf a && x.bank == b)
  { d with
    banks := if d.idle = 0 then rest else rest ++ [{ rank := r, sub := subchannelOf a, bank := b, row := d.rowOf a, since := now }]
    rankSince := Tbl.put 0 d.rankSince r now, powerDown := d.powerDown &&& ~~~ BitVec.ofNat 4 (2 ^ r) }

/-! ## Requests (R360) -/

/-- Whether the SDRAM is in service and not in self-refresh. -/
def State.sdramOn (s : State) : Bool := s.dmc.trained && !s.dmc.selfRefresh

/-- A bank of a subchannel of a rank, as one number. -/
def Dmc.bankKey (d : Dmc) (a : Nat) : Nat := 16 * (2 * d.rankOf a + subchannelOf a) + d.bankOf a

/-- Whether the row of an address is open. -/
def Dmc.hit (d : Dmc) (a : Nat) : Bool := d.banks.any fun x => x.rank == d.rankOf a && x.sub == subchannelOf a && x.bank == d.bankOf a && x.row == d.rowOf a

/-- The class of a request at a moment: one that has waited 4 µs is in class 2. DEDUCED (log 81): a replay read stays in class 1. -/
def SdramRequest.classAt (r : SdramRequest) (now : Nat) : Nat := if r.since + 4000 ≤ now then min r.cls 2 else r.cls

/-- The requests of a channel, oldest first. -/
def Dmc.waiting (d : Dmc) (ch : Nat) : List SdramRequest := d.requests.filter fun r => b2n (bitOf r.addr 7) == ch

/-- The request that a channel serves next: the oldest of the lowest class, which row hits to its bank may pass, 32 in a row at most. DESIGN
CHOICE (log 81): a hit that may pass does. -/
def Dmc.pick (d : Dmc) (ch now : Nat) : Option SdramRequest :=
  let mine := d.waiting ch
  let c := (mine.map fun r => r.classAt now).foldl min 5
  match mine.filter fun r => r.classAt now == c with
  | [] => none
  | first :: rest =>
    if d.hit first.addr || decide (32 ≤ SMap.get 0 d.passed (d.bankKey first.addr)) then some first
    else some ((rest.find? fun r => d.bankKey r.addr == d.bankKey first.addr && d.hit r.addr).getD first)

/-- A request is served: its row is open, and the hits in a row that have passed an older miss to the bank are counted. -/
def Dmc.serve (d : Dmc) (r : SdramRequest) (now : Nat) : Dmc :=
  let key := d.bankKey r.addr
  let older := (d.requests.takeWhile (· != r)).any fun x => d.bankKey x.addr == key && !d.hit x.addr
  let d1 := d.access r.addr now
  { d1 with
    requests := d.requests.erase r
    passed := SMap.set 0 d.passed key (if older then SMap.get 0 d.passed key + 1 else 0) }

/-- A channel serves what waits, `fuel` requests at most. -/
def Dmc.serveChannel (ch now : Nat) : Nat → Dmc → Dmc
  | 0, d => d
  | f + 1, d =>
    match d.pick ch now with
    | none => d
    | some r => Dmc.serveChannel ch now f (d.serve r now)

/-- Both channels serve what waits. -/
def Dmc.serveAll (d : Dmc) (now : Nat) : Dmc :=
  Dmc.serveChannel 1 now d.requests.length (Dmc.serveChannel 0 now d.requests.length d)

/-- The journal's rewrites and the copies to the spill that the channels have not been given yet, by their moment (R360). -/
def State.owedRequests (s : State) : List SdramRequest :=
  let owed := fun (cls : Nat) (l : List (Nat × Nat)) (seen : Nat) =>
    ((l.take (l.length - seen)).reverse.map fun x => { cls := cls, addr := x.1, since := x.2 : SdramRequest })
  sortBy (fun r => (r.since : Int)) (owed 2 s.journal.writes s.dmc.journalSeen ++ owed 3 s.evt.writes s.dmc.spillSeen)

/-- A request is issued at its moment, and served at once; while the SDRAM is not in service it waits. -/
def Dmc.issue (on : Bool) (d : Dmc) (r : SdramRequest) : Dmc :=
  let d1 : Dmc := { d with requests := d.requests ++ [r] }
  if on then d1.serveAll r.since else d1

/-- The controller with what it has been given up to now. -/
def State.dmcNow (s : State) : Dmc :=
  let d := s.owedRequests.foldl (Dmc.issue s.sdramOn) s.dmc
  { d with journalSeen := s.journal.writes.length, spillSeen := s.evt.writes.length }

/-- Requests of classes of R360 are issued, in the order given; they are served at once, and while the SDRAM is not in service they wait.
DESIGN CHOICE (log 81): how long a request takes is not given; requests of one command wait together. -/
def State.sdramRequests (s : State) (l : List (Nat × Nat)) : State :=
  let d0 := s.dmcNow
  let d : Dmc := { d0 with requests := d0.requests ++ l.map fun x => { cls := x.1, addr := x.2, since := s.now } }
  { s with dmc := if s.sdramOn then d.serveAll s.now else d }

/-! ## Where pages and the bulk area lie (R39, R354) -/

/-- The address of a block of a page: a free value among the page blocks. -/
def State.blockAddress (s : State) (seq i : Nat) : Nat := 0x29000000 + 65536 * (Config.pageBlock seq i % max 1 s.store.totalBlocks)

/-- Requests for the bytes of a page's stream from one offset up to another, burst by burst. -/
def State.pageTraffic (s : State) (cls seq from_ to_ : Nat) : State :=
  let n := ceilDiv to_ 64 - from_ / 64
  s.sdramRequests ((List.range n).map fun i =>
    let o := 64 * (from_ / 64 + i)
    (cls, s.blockAddress seq (o / 65536) + o % 65536))

/-- Requests for a number of bytes in the bulk area, in class 4; where in it they lie is a free value. -/
def State.bulkTraffic (s : State) (bytes : Nat) : State :=
  let base := s.dmc.top - 0x4000000
  let first := Config.freeNat s.free
  ({ s with free := s.free + 1 }).sdramRequests ((List.range (ceilDiv bytes 64)).map fun i => (4, base + 64 * ((first + i) % 1048576)))

end Sys2Proof.Machine
end

