-- ==== Sys2Proof/Machine/Reference.lean ====
section
/-!
DEFINITION. Machine/Reference.lean: the position channels as they are read: counts, speed, the reference position and the high-water
mark (R144, R146, R148 to R152); position and status of an axis (R332, R351).
-/

namespace Sys2Proof.Machine

/-! ## Axes as they are read -/

/-- An axis. -/
def State.axis (s : State) (n : Nat) : Axis := Tbl.get {} s.axes n

/-- The axis position: its feedback count plus the home offset (R332). -/
def State.axisPosition (s : State) (n : Nat) : Int := (Tbl.get {} s.pos.channels (n + 2)).count + (s.axis n).homeOffset

/-- Whether an axis is at rest. -/
def Axis.atRest (a : Axis) : Bool := a.motion.isNone

/-- AXS_n_STATUS.ATPRINT: configured, at rest, not stopped by a fault, within the print tolerance (R351). -/
def State.atPrint (s : State) (n : Nat) : Bool :=
  let a := s.axis n
  a.configured && a.atRest && !a.faultStop && decide ((s.axisPosition n - a.printPos).natAbs ≤ a.tolerance)

/-- The status word of an axis (AXS_n_STATUS). -/
def State.axisStatus (s : State) (n : Nat) : BitVec 32 :=
  let a := s.axis n
  let st := match a.state with
    | .unconfigured => 0 | .rest => 1 | .rising => 2 | .constant => 3 | .falling => 4 | .rampStop => 5 | .faultStop => 6
  w32 (st + 16 * b2n a.negative + 32 * b2n a.staged.isSome + 64 * b2n a.homed + 128 * b2n (s.atPrint n)
    + 256 * b2n (a.limpLevel == a.limitHigh) + 512 * b2n (a.limnLevel == a.limitHigh)
    + 1024 * b2n (a.homeLevel == a.homeHigh) + 2048 * b2n a.faultStop + 4096 * b2n a.drvEnabled
    + 8192 * b2n a.drvFault + 16384 * b2n a.drvWarning + 32768 * b2n a.folErr)

/-! ## Channels -/

/-- A position channel. -/
def State.chan (s : State) (n : Nat) : Channel := Tbl.get {} s.pos.channels n

/-- The state with a channel changed. -/
def State.updChan (s : State) (n : Nat) (f : Channel → Channel) : State :=
  { s with pos := { s.pos with channels := Tbl.upd {} s.pos.channels n f } }

/-- What a change of levels from (a, b) to (a', b') counts in a mode, with invert 0 (R144). -/
def countStep (mode : Nat) (a b a' b' : Bool) : Int :=
  let aEdge := a != a'
  let bEdge := b != b'
  match mode with
  | 0 => if aEdge && !b' then (if a' then 1 else -1) else 0
  | 1 => if aEdge then (if a' != b' then 1 else -1) else 0
  | 2 => if aEdge && !bEdge then (if a' != b' then 1 else -1)
      else if bEdge && !aEdge then (if a' == b' then 1 else -1) else 0
  | 3 => if aEdge && a' then (if b' then -1 else 1) else 0
  | _ => (if aEdge && a' then 1 else 0) - (if bEdge && b' then 1 else 0)

/-- Whether both levels changing at once is an illegal transition in a mode (R145). -/
def illegalMode (mode : Nat) : Bool := mode != 3

/-- The speed is valid: four advancing edges since the last loss of validity (R150). -/
def Channel.valid (c : Channel) : Bool := decide (4 ≤ c.counted)

/-- Validity is lost, and the interval history is cleared. -/
def Channel.lose (c : Channel) : Channel := { c with stamps := [], counted := 0 }

/-- Counts per ns of a channel at a moment (R149), without sign: 0 while invalid. -/
def Channel.rate (c : Channel) (now : Nat) : Rat :=
  if !c.valid then 0
  else
    match c.stamps with
    | [] => 0
    | t0 :: _ =>
      let n := c.stamps.length - 1
      let tn := c.stamps.getLast?.getD t0
      let e := now - t0
      let span := t0 - tn
      if n = 0 ∨ span = 0 then 0
      else if span < e * n then 1 / (e : Rat) else (n : Rat) / (span : Rat)

/-- The count rate with its sign: negative while the declared direction is backward. -/
def Channel.signedRate (c : Channel) (now : Nat) : Rat := if c.backward then -(c.rate now) else c.rate now

/-- Lines per count, as a fraction (R148). -/
def Channel.linesPerCount (c : Channel) (lpi : Nat) : Rat :=
  ((c.set.pitchNum * lpi : Nat) : Rat) / ((c.set.pitchDen * 25400000 : Nat) : Rat)

/-- Reference travel of a count difference in 1/65,536 line (R148). -/
def Channel.travel (c : Channel) (lpi : Nat) (counts : Int) : Int :=
  (counts * (c.set.pitchNum * lpi * 65536 : Nat)).fdiv (c.set.pitchDen * 25400000 : Nat)

/-- The speed of POS0 in lines/s (R149), signed. -/
def State.speed (s : State) : Rat :=
  let c := s.chan 0
  c.signedRate s.now * c.linesPerCount s.pos.lpi * 1000000000

/-- p_of(count) for POS0. -/
def State.pOf (s : State) (count : Int) : Int := (s.chan 0).travel s.pos.lpi (count - s.pos.cOrg)

/-- The interpolated reference position now, in 1/65,536 line (R151). DESIGN CHOICE (log 87): v * (t - t_a) is floored to whole 1/65,536
line. -/
def State.position (s : State) : Int :=
  let c := s.chan 0
  if !c.valid || !c.advanced then s.pOf c.count
  else
    let at_ := s.pOf c.extreme
    let moved := (c.signedRate s.now * c.linesPerCount s.pos.lpi * ((s.now - c.stamps.headD s.now : Nat) : Rat) * 65536).floor
    if c.backward then max (at_ + moved) (s.pOf (c.extreme - 1) + 1)
    else min (at_ + moved) (s.pOf (c.extreme + 1) - 1)

/-- The high-water mark moved up to the present position (R152). -/
def State.advance (s : State) : State := { s with pos := { s.pos with h := max s.pos.h s.position } }

/-- H now: the highest position reached so far; the field holds it as it was brought up to date last (R152). -/
def State.highWater (s : State) : Int := max s.pos.h s.position

end Sys2Proof.Machine
end

