-- ==== Sys2Proof/Machine/Psf.lean ====
section
/-!
DEFINITION. Machine/Psf.lean: the Pyulatin Stream Format version 2 (R43 to R56) as pure functions: the
checks of a frame header, the decoder of one frame with the failures of R61 in the order of R62, and the
frame that a compression lane writes (R66, R67).
-/

namespace Sys2Proof.Machine

/-! ## Frame headers -/

/-- Bytes of a raster row (R44 rule 1). -/
def rowBytes (width bpp : Nat) : Nat := ceilDiv (width * bpp) 8

/-- What decides whether a header is acceptable: the width and bpp of the first frame and of the
configured input, and whether the stream is a page's (rule 6 of R44). -/
structure PsfContext where
  first : Option (Nat × Nat) := none
  configured : Option (Nat × Nat) := none
  page : Bool := false
deriving DecidableEq, Repr

/-- A frame header (R43). -/
structure PsfHeader where
  last : Bool
  stored : Bool
  width : Nat
  declared : Nat
  bpp : Nat
deriving DecidableEq, Repr

/-- The header at an offset. -/
def psfHeaderAt (l : List Byte) (off : Nat) : PsfHeader :=
  { last := bitOf (leAt l (off + 5) 1) 0, stored := bitOf (leAt l (off + 5) 1) 1
    width := leAt l (off + 6) 2 + 1, declared := leAt l (off + 8) 4, bpp := leAt l (off + 12) 1 }

/-- A condition of R61: its reason code and byte offset. -/
abbrev PsfCond := Bool × Nat × Nat

/-- The first condition that fails. -/
def firstPsf : List PsfCond → Option (Nat × Nat)
  | [] => none
  | (ok, r) :: t => if ok then firstPsf t else some r

/-- An optional value agrees with another where it is there. -/
def agrees (o : Option Nat) (v : Nat) : Bool := o.all (· == v)

/-- The header checks in the order of R62: reason and offset of the first that fails (R61). A field the
stream ends in fails with reason 0x09 at the stream length: DEDUCED (log 62), at arrival too, where R33 names the fields' own checks. -/
def headerError (c : PsfContext) (l : List Byte) (off : Nat) : Option (Nat × Nat) :=
  let h := psfHeaderAt l off
  let n := l.length
  let rb := rowBytes h.width h.bpp
  firstPsf
    [ (decide (off + 4 ≤ n), 0x09, n),
      (bytesAt l off 4 == [0x50, 0x59, 0x53, 0x46], 0x01, off),
      (decide (off + 5 ≤ n), 0x09, n),
      (leAt l (off + 4) 1 == 2, 0x02, off + 4),
      (decide (off + 6 ≤ n), 0x09, n),
      (leAt l (off + 5) 1 / 4 == 0, 0x03, off + 5),
      (decide (off + 8 ≤ n), 0x09, n),
      (agrees (c.first.map (·.1)) h.width && agrees (c.configured.map (·.1)) h.width, 0x04, off + 6),
      (decide (off + 12 ≤ n), 0x09, n),
      (decide (1 ≤ h.declared ∧ h.declared ≤ 1048576) && (!c.page || decide (h.declared ≤ 262144)), 0x05, off + 8),
      (decide (off + 13 ≤ n), 0x09, n),
      (has h.bpp [1, 2, 4, 8] && agrees (c.first.map (·.2)) h.bpp && agrees (c.configured.map (·.2)) h.bpp,
        0x04, off + 12),
      (h.declared % rb == 0 && (h.last || decide (max 16384 rb ≤ h.declared)), 0x05, off + 8),
      (decide (off + 16 ≤ n), 0x09, n),
      (leAt l (off + 13) 3 == 0, 0x03, off + 13) ]

/-! ## Codes (R48 to R50) -/

/-- Field `i` of the code-length table at a byte offset. -/
def lengthField (l : List Byte) (off i : Nat) : Nat := bits (leAt l (off + i / 2) 1) (4 * (i % 2)) 4

/-- Σ 2^(15 − length) over the used symbols; 2^15 stands for 1. -/
def kraft (lens : List Nat) : Nat := (lens.map fun n => if n = 0 then 0 else 2 ^ (15 - n)).sum

/-- Exactly one symbol is used and its length is 1. -/
def single (lens : List Nat) : Bool := lens.filter (· != 0) == [1]

/-- The code-length table is valid (R49). -/
def lengthsValid (lit dist : List Nat) : Bool :=
  lit.getD 256 0 != 0 && lit.getD 317 0 == 0 && lit.getD 318 0 == 0 && lit.getD 319 0 == 0
  && (kraft lit == 2 ^ 15 || single lit)
  && (dist.all (· == 0) || single dist || kraft dist == 2 ^ 15)

/-- The symbols of a length get the codes from `code` on, in symbol order: (length, code, symbol). -/
def codesOf (lens : List Nat) (len code : Nat) : List (Nat × Nat × Nat) :=
  let syms := (List.range lens.length).filter fun s => lens.getD s 0 == len
  (List.range syms.length).map fun i => (len, code + i, syms.getD i 0)

/-- The canonical assignment of R50 from length `15 - n` on. -/
def canonical (lens : List Nat) : Nat → Nat → List (Nat × Nat × Nat)
  | 0, _ => []
  | n + 1, code =>
    let here := codesOf lens (15 - n) code
    here ++ canonical lens n ((code + here.length) * 2)

/-- The codes of an alphabet (R50). -/
def assignCodes (lens : List Nat) : List (Nat × Nat × Nat) := canonical lens 15 0

/-! ## Reading tokens -/

/-- How decoding stops short: a failure with its reason and offset, or the output limit at an offset. -/
inductive PsfStop where
  | bad (reason off : Nat)
  | limit (off : Nat)
deriving DecidableEq, Repr

/-- Bit `i` of a byte string, counted from bit 0 of its first byte (R46). -/
def streamBit (l : List Byte) (i : Nat) : Nat := b2n (bitOf (l.getD (i / 8) 0).toNat (i % 8))

/-- `n` bits from bit `i`, least significant first (R46). -/
def streamBits (l : List Byte) (i n : Nat) : Nat :=
  ((List.range n).map fun j => streamBit l (i + j) * 2 ^ j).sum

/-- Some code begins with the `len` bits `acc`. -/
def prefixOf (codes : List (Nat × Nat × Nat)) (len acc : Nat) : Bool :=
  codes.any fun c => decide (len ≤ c.1) && c.2.1 / 2 ^ (c.1 - len) == acc

/-- The symbol coded from bit `i` on, most significant bit first: `fuel` bits at most. It ends at the first bit with which no code
begins (R49, R62), or, with none, where the bytes end. -/
def readCode (l : List Byte) (bound : Nat) (codes : List (Nat × Nat × Nat)) :
    Nat → Nat → Nat → Nat → Option (Option (Nat × Nat))
  | 0, _, _, _ => some none
  | f + 1, i, len, acc =>
    if bound * 8 ≤ i then none
    else
      let acc := 2 * acc + streamBit l i
      match codes.find? (fun c => c.1 == len + 1 && c.2.1 == acc) with
      | some c => some (some (c.2.2, i + 1))
      | none => if prefixOf codes (len + 1) acc then readCode l bound codes f (i + 1) (len + 1) acc else some none

/-- Extra bits and base of a match length symbol (R51). -/
def lengthCode (s : Nat) : Nat × Nat :=
  if s ≤ 264 then (0, s - 254)
  else let k := (s - 261) / 4; (k, 3 + 4 * 2 ^ k + 2 ^ k * ((s - 265) % 4))

/-- Extra bits and base of a row-copy code, and of distance codes up to 23 (R52, R53). -/
def stepCode (c : Nat) : Nat × Nat :=
  if c ≤ 3 then (0, c + 1) else let k := (c - 2) / 2; (k, 2 ^ (k + 1) + 1 + c % 2 * 2 ^ k)

/-- Extra bits and base of a distance code (R53). -/
def distanceCode (c : Nat) : Nat × Nat := if c ≤ 23 then stepCode c else (c - 12, 2 ^ (c - 12) + 1)

/-- `n` bytes copied one at a time from distance `d`; the output is held newest first (R55). -/
def copyBack (d : Nat) : Nat → List Byte → List Byte
  | 0, out => out
  | n + 1, out => copyBack d n (out.getD (d - 1) 0 :: out)

/-- What the tokens of a frame come to: the output, newest first, the bit after the end-of-frame code and
the bit it began at. -/
structure TokenEnd where
  out : List Byte
  next : Nat
  began : Nat
deriving DecidableEq, Repr

/-- The setting in which the tokens of a frame are read. -/
structure TokenSetting where
  bytes : List Byte
  bound : Nat
  lit : List (Nat × Nat × Nat)
  dist : List (Nat × Nat × Nat)
  rowBytes : Nat
  limit : Nat

/-- The tokens from bit `i` on (R54, R55), `fuel` of them at most; `p` bytes are produced already. DESIGN CHOICE (log 85): a token whose extra
bits are cut off by the end of the stream fails with 0x09, whatever it would have reached. -/
def readTokens (c : TokenSetting) : Nat → Nat → Nat → List Byte → Except PsfStop TokenEnd
  | 0, i, _, _ => .error (.limit (i / 8))
  | f + 1, i, p, out =>
    let early : PsfStop := .bad 0x09 c.bound
    match readCode c.bytes c.bound c.lit 15 i 0 0 with
    | none => .error early
    | some none => .error (.bad 0x07 (i / 8))
    | some (some (s, j)) =>
      if s < 256 then
        if c.limit < p + 1 then .error (.limit (i / 8)) else readTokens c f j (p + 1) (BitVec.ofNat 8 s :: out)
      else if s = 256 then .ok { out := out, next := j, began := i }
      else if s < 285 then
        -- with the distance lengths all 0 a match symbol is itself invalid (R49)
        if c.dist.isEmpty then .error (.bad 0x07 (i / 8))
        else
        let x := lengthCode s
        let j1 := j + x.1
        if c.bound * 8 < j1 then .error early
        else
          let n := x.2 + streamBits c.bytes j x.1
          match readCode c.bytes c.bound c.dist 15 j1 0 0 with
          | none => .error early
          | some none => .error (.bad 0x07 (i / 8))
          | some (some (ds, j2)) =>
            let y := distanceCode ds
            let j3 := j2 + y.1
            if c.bound * 8 < j3 then .error early
            else
              let d := y.2 + streamBits c.bytes j2 y.1
              if p < d then .error (.bad 0x08 (i / 8))
              else if c.limit < p + n then .error (.limit (i / 8))
              else readTokens c f j3 (p + n) (copyBack d n out)
      else if s < 317 then
        let x := stepCode (s - 285)
        let j1 := j + x.1
        if c.bound * 8 < j1 then .error early
        else
          let n := x.2 + streamBits c.bytes j x.1
          if p < c.rowBytes then .error (.bad 0x08 (i / 8))
          else if c.limit < p + n then .error (.limit (i / 8))
          else readTokens c f j1 (p + n) (copyBack c.rowBytes n out)
      else .error (.bad 0x07 (i / 8))

/-! ## Decoding a frame -/

/-- A frame decoded and checked: its header, its bytes, the offset of its trailer and of what follows it. -/
structure PsfFrame where
  header : PsfHeader
  bytes : List Byte
  trailer : Nat
  next : Nat
deriving DecidableEq, Repr

/-- The trailer check at byte `t`: within the stream and the length rule 5 allows, and equal to the
CRC-32C of the decoded bytes. -/
def checkTrailer (l : List Byte) (bound t : Nat) (h : PsfHeader) (bytes : List Byte) : Except PsfStop PsfFrame :=
  if bound < t + 4 then .error (.bad 0x09 bound)
  else if leAt l t 4 = (crc32c bytes).toNat then .ok { header := h, bytes := bytes, trailer := t, next := t + 4 }
  else .error (.bad 0x0B t)

/-- The body and trailer of a STORED frame (R47). -/
def decodeStored (l : List Byte) (off remaining : Nat) (h : PsfHeader) : Except PsfStop PsfFrame :=
  let bound := min l.length (off + h.declared + 256)
  if remaining < h.declared ∧ off + 16 + remaining < bound then .error (.limit (off + 16 + remaining))
  else if bound < off + 16 + h.declared then .error (.bad 0x09 bound)
  else checkTrailer l bound (off + 16 + h.declared) h (bytesAt l (off + 16) h.declared)

/-- The body and trailer of a coded frame (R46, R48 to R56); the end checks in the order of R62. -/
def decodeCoded (l : List Byte) (off remaining : Nat) (h : PsfHeader) : Except PsfStop PsfFrame :=
  let bound := min l.length (off + h.declared + 256)
  let lit := (List.range 320).map (lengthField l (off + 16))
  let dist := (List.range 32).map fun i => lengthField l (off + 16) (320 + i)
  if bound < off + 192 then .error (.bad 0x09 bound)
  else if !lengthsValid lit dist then .error (.bad 0x06 (off + 16))
  else
    match readTokens { bytes := l, bound := bound, lit := assignCodes lit, dist := assignCodes dist
                       rowBytes := rowBytes h.width h.bpp, limit := min h.declared remaining }
        (h.declared + 1) (8 * (off + 192)) 0 [] with
    | .error e => .error e
    | .ok r =>
      let t := ceilDiv r.next 8
      if streamBits l r.next (8 * t - r.next) ≠ 0 then .error (.bad 0x0C (r.next / 8))
      else if r.out.length < h.declared then .error (.bad 0x0A (r.began / 8))
      else checkTrailer l bound t h r.out.reverse

/-- Decode the frame at an offset, with `remaining` bytes left of the output limit (R60) and, for a page,
`pageLeft` bytes left of the page size; the checks that follow the LAST frame are made too (R62). -/
def decodeFrame (c : PsfContext) (l : List Byte) (off remaining : Nat) (pageLeft : Option Nat) :
    Except PsfStop PsfFrame :=
  match headerError c l off with
  | some (r, o) => .error (.bad r o)
  | none =>
    let h := psfHeaderAt l off
    match (if h.stored then decodeStored l off remaining h else decodeCoded l off remaining h) with
    | .error e => .error e
    | .ok f =>
      if !h.last then .ok f
      else if pageLeft.any (fun n => decide (h.declared < n)) then .error (.bad 0x0A f.trailer)
      else if f.next < l.length then .error (.bad 0x09 f.next)
      else .ok f

/-! ## Compressing a frame (R66, R67) -/

/-- How many bytes from `p` on equal those at distance `d`, at most `most`. -/
def runLength (l : List Byte) (p d : Nat) : Nat → Nat
  | 0 => 0
  | most + 1 => if p < l.length ∧ l.getD p 0 = l.getD (p - d) 0 then 1 + runLength l (p + 1) d most else 0

/-- The distances of earlier positions with the same 3-byte prefix as `p`, nearest first, `depth` of them at most,
up to 65,536 back. DESIGN CHOICE (log 61): the manual does not give the hash; two prefixes have the same hash here only where they are
equal, so that none but true matches count against the depth. -/
def chainAt (l : List Byte) (p depth : Nat) : List Nat :=
  if l.length < p + 3 then []
  else (((List.range (min p 65536)).map (· + 1)).filter fun d => bytesAt l (p - d) 3 == bytesAt l p 3).take depth

/-- A token of the compressor. -/
inductive PsfToken where
  | literal (b : Byte)
  | copy (length distance : Nat)
  | row (length : Nat)
deriving DecidableEq, Repr

/-- The longer match; on equal length the one listed first, so the nearer. -/
def bestMatch (l : List Byte) (p : Nat) : List Nat → Nat × Nat
  | [] => (0, 0)
  | d :: t =>
    let b := bestMatch l p t
    let n := runLength l p d 258
    if b.1 ≤ n then (n, d) else b

/-- The token at a position (R66): the longest candidate of 3 bytes or more, a row-copy before a match and a nearer match
before a farther one, and otherwise a literal. -/
def tokenAt (l : List Byte) (rowLen depth p : Nat) : PsfToken :=
  let r := if rowLen ≤ p ∧ 0 < rowLen then runLength l p rowLen 65536 else 0
  let m := bestMatch l p (chainAt l p depth)
  if 3 ≤ r ∧ m.1 ≤ r then .row r
  else if 3 ≤ m.1 then .copy m.1 m.2
  else .literal (l.getD p 0)

/-- Bytes a token stands for. -/
def PsfToken.size : PsfToken → Nat
  | .literal _ => 1
  | .copy n _ => n
  | .row n => n

/-- The tokens of a frame from position `p` on. -/
def tokensFrom (l : List Byte) (rowLen depth : Nat) : Nat → Nat → List PsfToken
  | 0, _ => []
  | f + 1, p =>
    if l.length ≤ p then []
    else let k := tokenAt l rowLen depth p; k :: tokensFrom l rowLen depth f (p + k.size)

/-- The match length symbol and its extra bits (R51). -/
def lengthSymbol (n : Nat) : Nat × Nat × Nat :=
  match ((List.range 28).map (· + 257)).reverse.find? (fun s => decide ((lengthCode s).2 ≤ n)) with
  | some s => (s, (lengthCode s).1, n - (lengthCode s).2)
  | none => (257, 0, 0)

/-- The row-copy code and its extra bits (R52). -/
def rowSymbol (n : Nat) : Nat × Nat × Nat :=
  match (List.range 32).reverse.find? (fun c => decide ((stepCode c).2 ≤ n)) with
  | some c => (285 + c, (stepCode c).1, n - (stepCode c).2)
  | none => (285, 0, 0)

/-- The distance code and its extra bits (R53). -/
def distanceSymbol (d : Nat) : Nat × Nat × Nat :=
  match (List.range 32).reverse.find? (fun c => decide ((distanceCode c).2 ≤ d)) with
  | some c => (c, (distanceCode c).1, d - (distanceCode c).2)
  | none => (0, 0, 0)

/-- The values a token writes: its symbols in the joint numbering of R48 (a distance code as 320 + code),
each with its extra bits. -/
def PsfToken.fields : PsfToken → List (Nat × Nat × Nat)
  | .literal b => [(b.toNat, 0, 0)]
  | .copy n d => let x := distanceSymbol d; [lengthSymbol n, (320 + x.1, x.2)]
  | .row n => [rowSymbol n]

/-- A code written most significant bit first. -/
def codeBits (len code : Nat) : List Bool := (List.range len).map fun i => bitOf code (len - 1 - i)

/-- A value written least significant bit first. -/
def valueBits (n v : Nat) : List Bool := (List.range n).map (bitOf v)

/-- Bits packed from bit 0 of each byte, padded with 0 (R46). -/
def packLow : Nat → List Bool → List Byte
  | 0, _ => []
  | n + 1, l =>
    BitVec.ofNat 8 ((List.range 8).map fun i => b2n (l.getD i false) * 2 ^ i).sum :: packLow n (l.drop 8)

/-- The 16 bytes of a frame header (R43). -/
def headerBytes (h : PsfHeader) : List Byte :=
  [0x50, 0x59, 0x53, 0x46, 0x02, BitVec.ofNat 8 (b2n h.last + 2 * b2n h.stored)] ++ leBytes 2 (h.width - 1)
  ++ leBytes 4 h.declared ++ [BitVec.ofNat 8 h.bpp, 0, 0, 0]

/-- A STORED frame. -/
def storedFrame (last : Bool) (width bpp : Nat) (raw : List Byte) : List Byte :=
  headerBytes { last := last, stored := true, width := width, declared := raw.length, bpp := bpp }
  ++ raw ++ leBytes 4 (crc32c raw).toNat

/-- The coded form of a frame under code lengths that serve it. -/
def codedFrame (last : Bool) (width bpp : Nat) (raw : List Byte) (fields : List (Nat × Nat × Nat)) (lens : List Nat) : List Byte :=
  let codes := assignCodes (lens.take 320) ++ (assignCodes (lens.drop 320)).map fun c => (c.1, c.2.1, 320 + c.2.2)
  let body := (fields.map fun x => match codes.find? (fun c => c.2.2 == x.1) with
    | some c => codeBits c.1 c.2.1 ++ valueBits x.2.1 x.2.2
    | none => []).flatten
  headerBytes { last := last, stored := false, width := width, declared := raw.length, bpp := bpp }
    ++ (List.range 176).map (fun i => BitVec.ofNat 8 (lens.getD (2 * i) 0 + 16 * lens.getD (2 * i + 1) 0))
    ++ packLow (ceilDiv body.length 8) body ++ leBytes 4 (crc32c raw).toNat

/-- How often each of the 352 symbols occurs (R67). -/
def symbolCounts (fields : List (Nat × Nat × Nat)) : List Nat := (List.range 352).map fun i => (fields.filter fun x => x.1 == i).length

/-- Code lengths serve symbol counts: of at most 15 bits, valid under R49, and with a code for every symbol that occurs (R67). -/
def lengthsServe (counts lens : List Nat) : Bool :=
  lens.length == 352 && lens.all (· ≤ 15) && lengthsValid (lens.take 320) (lens.drop 320) &&
  (List.range 352).all fun i => counts.getD i 0 == 0 || lens.getD i 0 != 0

/-- The lengths of a complete code whose lengths differ by one bit at most, for the symbols that occur: one for a single symbol. -/
def flatLengths (counts : List Nat) : List Nat :=
  let n := (counts.filter (· != 0)).length
  let k := if n ≤ 1 then 1 else Nat.log2 (n - 1) + 1
  let short := if n ≤ 1 then n else 2 ^ k - n
  (List.range counts.length).map fun i =>
    if counts.getD i 0 = 0 then 0
    else if ((counts.take i).filter (· != 0)).length < short ∧ 1 < n then k - 1 else k

/-- The code lengths that a lane derives from the symbol counts (R67): the unit's own choice among those that serve them, a free value
(log 38); one that does not serve them is replaced by a code of flat lengths. -/
def laneLengths (counts : List Nat) : List Nat :=
  let l := Config.codeLengths counts
  if lengthsServe counts l then l else flatLengths (counts.take 320) ++ flatLengths (counts.drop 320)

/-- The frame a lane writes for raw rows (R66, R67): coded with the lane's own code lengths, or STORED where that would be
longer than the declared size + 20 bytes. -/
def compressFrame (last : Bool) (width bpp depth : Nat) (raw : List Byte) : List Byte :=
  let fields := ((tokensFrom raw (rowBytes width bpp) depth raw.length 0).map PsfToken.fields).flatten ++ [(256, 0, 0)]
  let f := codedFrame last width bpp raw fields (laneLengths (symbolCounts fields))
  if raw.length + 20 < f.length then storedFrame last width bpp raw else f

end Sys2Proof.Machine
end

