-- ==== Sys2Proof/Machine/Rendering.lean ====
section
/-!
DEFINITION. Machine/Rendering.lean: what a table set and page raster make of a hoist, as pure functions
(R14): the bar and its stitch zones (R121, R139), row positions and delays (R123 to R128), the stripe split
(R72 to R74), missing columns (R85), the contone and pre-screened paths (R81 to R90), the check word (R103)
and the choice of a nozzle for each dot (R133 to R140).
-/

namespace Sys2Proof.Machine

/-! ## The bar -/

/-- Head `n` of a geometry. -/
def Geometry.head (g : Geometry) (n : Nat) : HeadGeometry := Tbl.get {} g.heads n

/-- The present heads in order of col0 (R121). -/
def Geometry.present (g : Geometry) : List Nat :=
  sortBy (fun n => ((g.head n).col0 : Int)) ((List.range 32).filter fun n => (g.head n).present)

/-- The bar width C (R121). -/
def Geometry.width (g : Geometry) : Nat :=
  match g.present.getLast? with
  | some n => (g.head n).col0 + 2048
  | none => 0

/-- The bar width in column units of 64. -/
def Geometry.units (g : Geometry) : Nat := ceilDiv g.width 64

/-- The heads that cover a bar column, left head first. -/
def Geometry.covering (g : Geometry) (c : Nat) : List Nat :=
  g.present.filter fun n => decide ((g.head n).col0 ≤ c ∧ c < (g.head n).col0 + 2048)

/-- Consecutive heads with their overlap. -/
def overlaps (g : Geometry) : List Nat → List (Nat × Nat × Nat)
  | a :: b :: t =>
    let o := (g.head a).col0 + 2048 - (g.head b).col0
    if o = 0 then overlaps g (b :: t) else (a, b, o) :: overlaps g (b :: t)
  | _ => []

/-- The stitch zones, numbered by their place: left head, right head, overlap (R139). -/
def Geometry.zones (g : Geometry) : List (Nat × Nat × Nat) := overlaps g g.present

/-- Consecutive present heads are 1,920 to 2,048 columns apart (R121). -/
def spacedOk (g : Geometry) : List Nat → Bool
  | a :: b :: t =>
    decide ((g.head a).col0 + 1920 ≤ (g.head b).col0 ∧ (g.head b).col0 ≤ (g.head a).col0 + 2048) && spacedOk g (b :: t)
  | _ => true

/-! ## Row delays (R123 to R128) -/

/-- The along-web distance of a row in nm: `spacing` is its head's row spacing (R123). -/
def rowDistance (g : Geometry) (trims : List Int) (registration : Int) (spacing : Nat → Int) (r : Nat) : Int :=
  g.leadNm + (if (g.head (r / 2)).trail then (g.trailNm : Int) else 0)
  + (if r % 2 = 1 then spacing (r / 2) else 0) + Tbl.get 0 trims r + registration

/-- The row delay in 1/256 line (R124). -/
def rowDelay (lpi : Nat) (dist : Int) : Int := (dist * 512 * lpi + 25400000).fdiv 50800000

/-- The rows of present heads, in ascending order. -/
def Geometry.rows (g : Geometry) : List Nat := (List.range 64).filter fun r => (g.head (r / 2)).present

/-- The allocation A_r for a delay q in 1/256 line (R126). -/
def allocation (margin : Nat) (q : Int) : Nat := min ((q.fdiv 256).toNat + margin) 8191

/-- Where a set of delays fails R126 while disarmed: the lowest row whose dist_r or d_r fails, or
0xFFFF_FFFF for the sum of allocations; `none` if acceptable. -/
def delayFault (g : Geometry) (depth : Nat) (dist q : Nat → Int) : Option Nat :=
  match g.rows.find? (fun r => decide (dist r < 0 ∨ 8191 < (q r).fdiv 256)) with
  | some r => some r
  | none =>
    if (g.rows.map fun r => allocation g.margin (q r) * (depth / 2)).sum ≤ 180224 then none else some 0xFFFFFFFF

/-- Where new delays fail R128 while armed, against the fixed allocations. -/
def delayFaultArmed (g : Geometry) (alloc : Nat → Nat) (dist q : Nat → Int) : Option Nat :=
  g.rows.find? fun r => decide (dist r < 0 ∨ q r < 0 ∨ (alloc r : Int) < (q r).fdiv 256)

/-! ## The stripe split (R72 to R74) -/

/-- The automatic split of U units over N stripes. -/
def autoSplit (u n : Nat) : List Nat :=
  (List.range n).map fun i => if i + u % n < n then u / n else u / n + 1

/-- The first column of stripe `i`. -/
def stripeStart (widths : List Nat) (i : Nat) : Nat := 64 * (widths.take i).sum

/-- The columns of stripe `i`, from the lowest. -/
def stripeColumns (widths : List Nat) (i : Nat) : List Nat :=
  (List.range (64 * widths.getD i 0)).map (stripeStart widths i + ·)

/-- The stripe that holds a column. -/
def stripeOf (widths : List Nat) (c : Nat) : Nat :=
  ((List.range widths.length).filter fun i => decide (stripeStart widths i ≤ c)).getLast?.getD 0

/-! ## Nozzles and missing columns (R85, R133) -/

/-- The index of a nozzle: head, row (0 for A, 1 for B), head column. -/
def nozzleIndex (n row i : Nat) : Nat := n * 4096 + row * 2048 + i

/-- The bar columns of a head as seen from a column. -/
def headColumn (g : Geometry) (n c : Nat) : Nat := c - (g.head n).col0

/-- Whether a nozzle is out: marked out, or its head's port is not in service (R133). -/
def TableSet.out (ts : TableSet) (n row i : Nat) : Bool :=
  has n ts.outHeads || bitOf (Memory.read ts.nozzles (nozzleIndex n row i)).toNat 3

/-- Both rows of a head are out at a column. -/
def TableSet.bothOut (ts : TableSet) (n c : Nat) : Bool :=
  ts.out n 0 (headColumn ts.geometry n c) && ts.out n 1 (headColumn ts.geometry n c)

/-- Whether a column belongs to a head that HB-8 mode has turned off (R499). -/
def TableSet.disabled (ts : TableSet) (c : Nat) : Bool :=
  (ts.geometry.covering c).any fun n => has n ts.disabledHeads

/-- Whether no in-service nozzle can print a column (R85). -/
def TableSet.missing (ts : TableSet) (c : Nat) : Bool :=
  let hs := ts.geometry.covering c
  !hs.isEmpty && !ts.disabled c && hs.all fun n => ts.bothOut n c

/-! ## Column tone (R84, R92 to R94, R193, R230) -/

/-- Entry of a tone curve; where nothing was loaded, 4e + (e div 64) (R97). -/
def curveEntry (curves : List (Nat × Nat)) (s e : Nat) : Nat := SMap.get (4 * e + e / 64) curves (256 * s + e)

/-- The composed column tone record: gain, offset, curve, missing flag (R230). -/
structure Composed where
  gain : Nat
  offset : Int
  curve : Nat
  missing : Bool
deriving DecidableEq, Repr

/-- The record in force for a column. -/
def TableSet.composed (ts : TableSet) (c : Nat) : Composed :=
  let r := SMap.get {} ts.columns c
  let b := match ts.geometry.covering c with
    | n :: _ => Tbl.get 0 ts.curveBase n
    | [] => 0
  { gain := min 0xFFFF ((r.gain * SMap.get 16384 ts.kappa c + 8192) / 16384)
    offset := clamp (r.offset + SMap.get 0 ts.offsets c) (-128) 127
    curve := (r.curve + b) % 16
    missing := ts.missing c }

/-! ## Pages as rendering sees them -/

/-- A page's raster as it was inflowed: the first reference line, the rows that may be rendered, and the
rows in all. -/
structure PageView where
  seq : Nat
  first : Int
  rows : Nat
  good : Nat
  raster : List Byte
deriving DecidableEq, Repr

/-- Lines that a page of so many input rows occupies (R82). -/
def pageLines (kind lpi rows : Nat) : Nat := if kind = 0 ∧ lpi = 1200 then 2 * rows else rows

/-- Bits per pixel of an input kind (R91). -/
def kindBpp (kind : Nat) : Nat := if kind = 0 then 8 else 2

/-- Columns that the raster covers (W_out). -/
def InputFormat.outWidth (f : InputFormat) : Nat := if f.kind = 0 then 2 * f.wIn else f.wIn

/-- What a stripe-hoist is computed from: the table set, the line pitch and the pages; `slice` is the hoist and the stripe whose slice
the raster is read from, without one the raster is whole. -/
structure Scene where
  ts : TableSet
  format : InputFormat
  lpi : Nat
  pages : List PageView
  slice : Option (Int × Nat) := none
  /-- Legacy lines below it fire level 0 (R505). -/
  blankTo : Option Int := none

/-- The page that holds a line, and the page line. -/
def Scene.pageAt (sc : Scene) (l : Int) : Option (PageView × Nat) :=
  match sc.pages.find? (fun p => sc.blankTo.all (fun b => decide (b ≤ l)) && decide (p.first ≤ l ∧ l < p.first + pageLines sc.format.kind sc.lpi p.rows)) with
  | some p => some (p, (l - p.first).toNat)
  | none => none

/-- Whether a column is inside the raster and the bar. -/
def Scene.inRaster (sc : Scene) (c : Nat) : Bool :=
  decide (sc.format.c0 ≤ c ∧ c < sc.format.c0 + sc.format.outWidth ∧ c < sc.ts.geometry.width)

/-- Whether a column is inside the print window. -/
def TableSet.colInWindow (ts : TableSet) (c : Nat) : Bool := decide (ts.window.colLo ≤ c ∧ c ≤ ts.window.colHi)

/-- Whether a line is inside the print window (R171). -/
def TableSet.lineInWindow (ts : TableSet) (l : Int) : Bool := decide (ts.window.lineStart ≤ l ∧ l < ts.window.lineEnd)

/-- Whether missing-column handling reaches a column: inside the raster and the window (R86, R89). -/
def Scene.usable (sc : Scene) (c : Nat) : Bool := sc.inRaster c && sc.ts.colInWindow c

/-- The nearest column to the left of `m` that is not missing, within 4 columns, if it is usable. -/
def Scene.leftOf (sc : Scene) (m : Nat) : Option Nat :=
  match [1, 2, 3, 4].find? (fun d => decide (d ≤ m) && !sc.ts.missing (m - d)) with
  | some d => if sc.usable (m - d) && !sc.ts.disabled (m - d) then some (m - d) else none
  | none => none

/-- The nearest column to the right of `m` that is not missing, within 4 columns, if it is usable. -/
def Scene.rightOf (sc : Scene) (m : Nat) : Option Nat :=
  match [1, 2, 3, 4].find? (fun d => !sc.ts.missing (m + d)) with
  | some d => if sc.usable (m + d) && !sc.ts.disabled (m + d) then some (m + d) else none
  | none => none

/-- The missing columns within 4 columns of `c` that missing-column handling takes in. -/
def Scene.missingNear (sc : Scene) (c : Nat) : List Nat :=
  ((List.range 9).map fun d => c + d - 4).eraseDups.filter fun m =>
    decide (m ≠ c) && sc.ts.missing m && sc.usable m

/-! ## The contone path (R83 to R88) -/

/-- S(i, j): the source pixel, with indexes clamped to the page's raster. DESIGN CHOICE (log 64): of a page that failed at inflow the
lowest row is the last one decoded. -/
def PageView.source (p : PageView) (wIn : Nat) (i j : Int) : Nat :=
  let i' := (clamp i 0 (wIn - 1)).toNat
  let j' := (clamp j 0 (p.good - 1)).toNat
  (p.raster.getD (j' * wIn + i') 0).toNat

/-- The raster columns that the slice of a stripe holds, its halo included (R77): source columns of contone input, 5 on each side, or
bar columns of pre-screened input, 8 on each side. -/
def Scene.sliceColumns (sc : Scene) (stripe : Nat) : Int × Int :=
  let a : Int := (stripeStart sc.ts.widths stripe : Int) - sc.format.c0
  let b : Int := (stripeStart sc.ts.widths (stripe + 1) : Int) - 1 - sc.format.c0
  if sc.format.kind = 0 then (a.fdiv 2 - 5, b.fdiv 2 + 5) else (a - 8, b + 8)

/-- The raster rows of a page that the slices of hoist k hold: those of its lines, at 1200 lpi contone with one above and one below
(R77). -/
def Scene.sliceRows (sc : Scene) (p : PageView) (k : Int) : Int × Int :=
  let lo := 64 * k - p.first
  let hi := lo + 63
  if sc.format.kind = 0 ∧ sc.lpi = 1200 then (lo.fdiv 2 - 1, hi.fdiv 2 + 1) else (lo, hi)

/-- Whether the slice holds a raster pixel of a page. -/
def Scene.inSlice (sc : Scene) (p : PageView) (i j : Int) : Bool :=
  match sc.slice with
  | none => true
  | some (k, st) =>
    let c := sc.sliceColumns st
    let r := sc.sliceRows p k
    decide (c.1 ≤ i ∧ i ≤ c.2 ∧ r.1 ≤ j ∧ j ≤ r.2)

/-- S(i, j) as the slice holds it. -/
def Scene.source (sc : Scene) (p : PageView) (i j : Int) : Nat :=
  if sc.inSlice p i j then p.source sc.format.wIn i j else 0

/-- The upscaled value v (R83). -/
def Scene.upscaled (sc : Scene) (p : PageView) (c y : Nat) : Nat :=
  let x := c - sc.format.c0
  let i : Int := (x / 2 : Nat)
  let j : Int := if sc.lpi = 1200 then (y / 2 : Nat) else (y : Nat)
  let dx : Int := if x % 2 = 0 then -1 else 1
  let dy : Int := if y % 2 = 0 then -1 else 1
  let n := sc.source p i j
  let h := sc.source p (i + dx) j
  if sc.format.upscale = 0 then n
  else if sc.lpi = 1200 then
    (12 * n + h + sc.source p i (j + dy) + 2 * sc.source p (i + dx) (j + dy) + 8) / 16
  else (3 * n + h + 2) / 4

/-- The tone t (R84). -/
def Scene.tone (sc : Scene) (p : PageView) (c y : Nat) : Nat :=
  let r := sc.ts.composed c
  let v := sc.upscaled p c y
  curveEntry sc.ts.curves r.curve (clamp ((r.gain * v + 16384) / 32768 + r.offset) 0 255).toNat

/-- The contribution Δ_m of a missing column (R86). -/
def Scene.delta (sc : Scene) (p : PageView) (m y : Nat) : Nat := (sc.ts.k * sc.tone p m y + 128) / 256

/-- The tone t' after compensation (R86). -/
def Scene.compensated (sc : Scene) (p : PageView) (c y : Nat) : Nat :=
  let from_ := (sc.missingNear c).filter fun m => sc.leftOf m == some c || sc.rightOf m == some c
  min 1023 (sc.tone p c y + (from_.map fun m => sc.delta p m y).sum)

/-- The drop level that the threshold array gives a tone (R87, R88). -/
def Threshold.level (t : Threshold) (c y tone : Nat) : Nat :=
  let cell := (y + t.yOff) % t.h * t.w + (c + t.xOff) % t.w
  ((t.cells.getD cell []).filter (· ≤ tone)).length

/-! ## The pre-screened path (R89, R90) -/

/-- The raster level of a column on a page line. -/
def Scene.original (sc : Scene) (p : PageView) (c y : Nat) : Nat :=
  if sc.inSlice p ((c : Int) - sc.format.c0) (y : Int) then pairAt (p.raster.drop (y * rowBytes sc.format.wIn 2)) (c - sc.format.c0) else 0

/-- Where a missing column's drop goes: the nearer empty candidate, the left one on a tie (R89). -/
def Scene.moveTo (sc : Scene) (p : PageView) (m y : Nat) : Option Nat :=
  let cands := match sc.leftOf m, sc.rightOf m with
    | some a, some b => if m - a ≤ b - m then [a, b] else [b, a]
    | some a, none => [a]
    | none, some b => [b]
    | none, none => []
  cands.find? fun c => sc.original p c y == 0

/-- The level of a column that is not missing, after drop moving. -/
def Scene.moved (sc : Scene) (p : PageView) (c y : Nat) : Nat :=
  let own := sc.original p c y
  if own ≠ 0 then own
  else
    let from_ := (sc.missingNear c).filter fun m =>
      decide (0 < sc.original p m y) && sc.moveTo p m y == some c
    (from_.map fun m => sc.original p m y).foldl max 0

/-! ## Pixels, stripes and check words -/

/-- The drop level of a bar column on a line (R81). DESIGN CHOICE (log 65): after a SET_INPUT_FORMAT while printing is armed the array in
force screens on, whatever its depth, and without one the level is 0. -/
def Scene.level (sc : Scene) (l : Int) (c : Nat) : Nat :=
  match sc.pageAt l with
  | none => 0
  | some (p, y) =>
    let row := if sc.format.kind = 0 ∧ sc.lpi = 1200 then y / 2 else y
    if p.good ≤ row ∨ !sc.ts.lineInWindow l ∨ !sc.ts.colInWindow c ∨ !sc.inRaster c
        ∨ sc.ts.missing c ∨ sc.ts.disabled c then 0
    else if sc.format.kind = 0 then
      match sc.ts.threshold with
      | some t => t.level c y (sc.compensated p c y)
      | none => 0
    else
      let v := sc.moved p c y
      if sc.format.depth = 4 then Tbl.get 0 sc.ts.levelMap v else v

/-- Four-bit values packed two to a byte, the first in the most significant bits. -/
def packNibbles : List Nat → List Byte
  | a :: b :: t => BitVec.ofNat 8 (16 * (a % 16) + b % 16) :: packNibbles t
  | [a] => [BitVec.ofNat 8 (16 * (a % 16))]
  | [] => []

/-- Levels packed from the most significant bits of each byte (R103). -/
def packLevels (depth : Nat) (l : List Nat) : List Byte := if depth = 4 then packNibbles l else packPairs l

/-- The levels of a stripe-hoist, computed from its slice, line by line from the lowest column (R77, R103). -/
def Scene.stripeLevels (sc : Scene) (k : Int) (stripe : Nat) : List Nat :=
  let own : Scene := { sc with slice := some (k, stripe) }
  ((List.range 64).map fun (n : Nat) => (stripeColumns sc.ts.widths stripe).map (own.level (64 * k + (n : Int)))).flatten

/-- The packed levels of a stripe-hoist. -/
def Scene.stripeBytes (sc : Scene) (k : Int) (stripe : Nat) : List Byte :=
  packLevels sc.format.depth (sc.stripeLevels k stripe)

/-- The levels that packed bytes hold. -/
def unpackLevels (depth : Nat) (l : List Byte) : List Nat :=
  if depth = 4 then l.flatMap fun b => [b.toNat / 16, b.toNat % 16]
  else l.flatMap fun b => [b.toNat / 64, b.toNat / 16 % 4, b.toNat / 4 % 4, b.toNat % 4]

/-- Bits of packed levels inverted, by bit number: an error on the way to the row selector (R103). -/
def flipBits (l : List Byte) (flips : List Nat) : List Byte :=
  flips.foldl (fun l b => l.set (b / 8) (l.getD (b / 8) 0 ^^^ BitVec.ofNat 8 (2 ^ (7 - b % 8)))) l

/-! ## Row selection (R134 to R140) -/

/-- Bit (x, y) of a tile (R135). -/
def Tile.bit (t : Tile) (x y : Nat) : Bool := packedBit (t.bytes.drop (y * ceilDiv t.w 8)) x

/-- The stitch mask bit at zone column j of zone z, line ℓ (R140). -/
def StitchZone.bit (s : StitchZone) (overlap j : Nat) (l : Int) : Bool :=
  if s.loaded then s.tile.bit j ((l + s.oy) % s.tile.h).toNat
  else
    let y := ((l + s.oy) % 256).toNat
    decide ((167 * y + 73 * j) % 256 < (2 * j + 1) * 128 / overlap)

/-- The row mask bit for a head column and line, for a dot of a level (R136). -/
def HeadMask.bit (m : HeadMask) (o : MaskOrigin) (level i : Nat) (l : Int) : Bool :=
  let t := (match level with
    | 1 => m.level1
    | 2 => m.level2
    | 3 => m.level3
    | _ => none).getD m.tile
  (t.bit ((i + o.ox) % t.w) ((l + o.oy) % t.h).toNat) != o.polarity

/-- The head that prints a column on a line (R134 step 1). -/
def TableSet.headFor (ts : TableSet) (c : Nat) (l : Int) : Option Nat :=
  match ts.geometry.covering c with
  | [] => none
  | [n] => some n
  | a :: b :: _ =>
    let z := ts.geometry.zones.findIdx (fun z => z.1 == a && z.2.1 == b)
    let o := (ts.geometry.head a).col0 + 2048 - (ts.geometry.head b).col0
    let right := (Tbl.get {} ts.zones z).bit o (headColumn ts.geometry b c) l
    let n := if right then b else a
    let other := if right then a else b
    some (if ts.bothOut n c then other else n)

/-- The row of a head that prints a dot of a level, or none if both are out (R134 step 2). -/
def TableSet.rowFor (ts : TableSet) (n c : Nat) (l : Int) (level : Nat) : Option Nat :=
  let i := headColumn ts.geometry n c
  let force := bits (Memory.read ts.nozzles (nozzleIndex n 0 i)).toNat 4 2
  match ts.out n 0 i, ts.out n 1 i with
  | true, true => none
  | true, false => some 1
  | false, true => some 0
  | false, false =>
    if force = 1 then some 0 else if force = 2 then some 1
    else some (b2n ((Tbl.get {} ts.masks n).bit (Tbl.get {} ts.origins n) level i l))

/-- The nozzle that prints a dot: head, row and head column. -/
def TableSet.nozzleFor (ts : TableSet) (c : Nat) (l : Int) (level : Nat) : Option (Nat × Nat × Nat) :=
  match ts.headFor c l with
  | none => none
  | some n => (ts.rowFor n c l level).map fun r => (n, r, headColumn ts.geometry n c)

/-- The levels of a line of a hoist in a stripe's columns, from its committed stripe; a stripe that is not there
gives level 0 (R24, R103, R132). A line fills whole bytes, as a stripe's width is a multiple of 64 columns. -/
def stripeLine (depth : Nat) (ts : TableSet) (stripes : List Stripe) (n i : Nat) : List Nat :=
  let w := 64 * ts.widths.getD i 0
  let per := w * depth / 8
  match stripes.find? (fun s => s.index == i) with
  | some s =>
    let l := unpackLevels depth ((s.levels.drop (n * per)).take per)
    l ++ List.replicate (w - l.length) 0
  | none => List.replicate w 0

/-- The levels of `len` columns from column `c0` on line `n` of a hoist. -/
def hoistLevels (depth : Nat) (ts : TableSet) (stripes : List Stripe) (n c0 len : Nat) : List Nat :=
  let near := (List.range ts.widths.length).filter fun i =>
    decide (stripeStart ts.widths i < c0 + len ∧ c0 < stripeStart ts.widths (i + 1))
  match near with
  | [] => List.replicate len 0
  | i :: _ =>
    let l := ((near.flatMap (stripeLine depth ts stripes n)).drop (c0 - stripeStart ts.widths i)).take len
    l ++ List.replicate (len - l.length) 0

/-- The levels of a row's 2,048 nozzles on line ℓ of the hoist (R113, R134). -/
def rowLevels (depth : Nat) (ts : TableSet) (stripes : List Stripe) (l : Int) (r : Nat) : List Nat :=
  let c0 := (ts.geometry.head (r / 2)).col0
  (hoistLevels depth ts stripes (l % 64).toNat c0 2048).zipIdx.map fun x =>
    if x.1 ≠ 0 ∧ ts.nozzleFor (c0 + x.2) l x.1 = some (r / 2, r % 2, x.2) then x.1 else 0

/-! ## Owners of stripes (R72, R76) -/

/-- Pennant `q` takes a stripe. -/
def ownStripe (l : List Pennant) (q st : Nat) : List Pennant :=
  Tbl.upd {} l q fun p => { p with state := .active, stripe := some st }

/-- A stripe passes to the lowest-numbered idle spare, if there is one. -/
def giveStripe (l : List Pennant) (st : Nat) : List Pennant :=
  match (List.range 16).find? (fun q => (Tbl.get {} l q).state == .spare && (Tbl.get {} l q).work.isEmpty) with
  | some q => ownStripe l q st
  | none => l

/-- Stripes 0 to n − 1 to pennants 0 to n − 1, the others spare; the stripe of one that is out of service passes to a spare. -/
def assignStripes (n : Nat) (l : List Pennant) : List Pennant :=
  let base := (List.range 16).map fun i =>
    let p : Pennant := Tbl.get {} l i
    if p.state == .active || p.state == .spare then
      (if i < n then { p with state := .active, stripe := some i, extra := [] }
       else { p with state := .spare, stripe := none, extra := [] })
    else { p with stripe := none, extra := [] }
  ((List.range n).filter fun i => (Tbl.get ({} : Pennant) base i).state != .active).foldl giveStripe base

/-- A split that leaves a stripe without an owner is to be made again with the next arming (R109). -/
def unownedSplit (n : Nat) (l : List Pennant) : Option Int :=
  if (List.range n).all fun i => l.any fun p => p.state == .active && p.stripe == some i then none else some 0

/-! ## Wear levelling (R137) -/

/-- The sum of a row's drop counters over the in-service nozzles of a head. -/
def dropSum (ts : TableSet) (drops : List (Nat × Nat)) (n row : Nat) : Nat :=
  ((drops.filter fun d => decide (nozzleIndex n row 0 ≤ d.1 ∧ d.1 < nozzleIndex n row 2048)
    && !ts.out n row (d.1 - nozzleIndex n row 0)).map (·.2)).sum

/-- Ones in a tile. -/
def Tile.ones (t : Tile) : Nat :=
  ((List.range (t.w * t.h)).filter fun i => t.bit (i % t.w) (i / t.w)).length

/-- The effective origin and polarity after a wear step (R137). -/
def wearStep (ts : TableSet) (drops : List (Nat × Nat)) (n : Nat) (m : HeadMask) (o : MaskOrigin) : MaskOrigin :=
  let sa := dropSum ts drops n 0
  let sb := dropSum ts drops n 1
  let diff := max sa sb - min sa sb
  let ones := m.tile.ones
  let zeros := m.tile.w * m.tile.h - ones
  -- the smaller number of bits is to select the row with the larger sum; a bit of 1 selects row B
  let p := if diff * 1024 ≤ m.balance * (sa + sb) ∨ ones = zeros then o.polarity
    else if sb < sa then decide (ones < zeros) else decide (zeros < ones)
  { ox := (o.ox + m.dx) % m.tile.w, oy := (o.oy + m.dy) % m.tile.h, polarity := p }

end Sys2Proof.Machine
end

