-- ==== Sys2Proof/Machine/Operands.lean ====
section
/-!
DEFINITION. Machine/Operands.lean: the operand forms of the host commands (chapter 10): parameters P0 to
P47, buffer lists, the checks of R305 with the locations of R509, the order of R286, and `command`, the one
operation through which every host command of the tables of chapter 10 is started, refused or run.
-/

namespace Sys2Proof.Machine

/-! ## Parameters (R304) -/

/-- Parameter byte at an offset. -/
def JEntry.p8 (e : JEntry) (i : Nat) : Nat := (e.params.getD i 0).toNat
/-- Parameter of 2, 4 or 8 bytes at an offset, unsigned. -/
def JEntry.p16 (e : JEntry) (i : Nat) : Nat := leAt e.params i 2
def JEntry.p32 (e : JEntry) (i : Nat) : Nat := leAt e.params i 4
def JEntry.p64 (e : JEntry) (i : Nat) : Nat := leAt e.params i 8
/-- The same, signed. -/
def JEntry.s16 (e : JEntry) (i : Nat) : Int := sleAt e.params i 2
def JEntry.s32 (e : JEntry) (i : Nat) : Int := sleAt e.params i 4
def JEntry.s64 (e : JEntry) (i : Nat) : Int := sleAt e.params i 8

/-! ## Where a condition fails (R509) -/

/-- Detail bits (17:0, and bit 30 for a DMA error) and result word 0 of a BAD_PARAM. -/
structure Loc where
  detail : Nat
  word : Nat := 0
deriving DecidableEq, Repr

/-- A parameter field, or the lowest field of a relation. -/
def Loc.field (off : Nat) : Loc := ⟨off, 0⟩
/-- Element `i` of the buffer list whose reference lies at `off`. -/
def Loc.elem (off i : Nat) (dma : Bool) : Loc := ⟨0x10000 + off + (if dma then 0x40000000 else 0), i⟩
/-- The total length of the buffer named. -/
def Loc.length (total : Nat) : Loc := ⟨0xFFFF, total⟩
/-- Byte `i` of the joined buffer of the list whose reference lies at `off`. -/
def Loc.data (off i : Nat) : Loc := ⟨0x20000 + off, i⟩
/-- Row delays not acceptable: the lowest failing row, or 0xFFFF_FFFF for the sum. -/
def Loc.delay (row : Nat) : Loc := ⟨0xFFFE, row⟩
/-- A geometry that the input format, or the split, cannot follow. -/
def Loc.format : Loc := ⟨0xFFFE, 0xFFFFFFFE⟩
def Loc.split : Loc := ⟨0xFFFE, 0xFFFFFFFD⟩

/-- A condition and where it lies. -/
abbrev Cond := Bool × Loc

/-- Conditions on single fields. -/
def fieldOk (off : Nat) (ok : Bool) : Cond := (ok, .field off)

/-! ## Buffer lists (R293, R304) -/

/-- The checks on a list reference at P`off`: 16-byte aligned address, 1 to 65,536 elements. -/
def listRefOk (e : JEntry) (off : Nat) : List Cond :=
  [fieldOk off (e.p64 off % 16 == 0), fieldOk (off + 8) (decide (1 ≤ e.p32 (off + 8) ∧ e.p32 (off + 8) ≤ 65536))]

/-- The total length of a buffer list. -/
def HostListTotal (l : HostList) : Nat := (l.elems.map (·.len)).sum

/-- Conditions on the elements of a list, from element `i` on. -/
def elemsOk (off : Nat) : Nat → List HostElem → List Cond
  | _, [] => []
  | i, x :: t => (decide (x.len ≠ 0) && x.reservedZero && !x.dmaError, .elem off i x.dmaError) :: elemsOk off (i + 1) t

/-- The checks on a buffer list: its elements, then its total length. -/
def listOk (off : Nat) (l : HostList) (lengthOk : Nat → Bool) : List Cond :=
  elemsOk off 0 l.elems ++ [(lengthOk (HostListTotal l), .length (HostListTotal l))]

/-- Each value of a buffer's data satisfies its condition: offset and condition pairs. -/
def dataOk (off : Nat) (l : List (Nat × Bool)) : List Cond := l.map fun x => (x.2, .data off x.1)

/-! ## The checks of R305 -/

/-- The conditions of a command, in the order of R305 and, within BAD_PARAM, of R509. -/
structure Checks where
  notInMode : Bool := false
  denied : Bool := false
  params : List Cond := []
  busy : Bool := false
  noResource : Bool := false

/-- Where a condition comes in the order of R509: parameter fields by offset, the buffer lists as they stand, buffer data by offset, and
what involves settings in force. -/
def Loc.place (l : Loc) : Int :=
  if l.detail = 0xFFFE then 2 ^ 40
  else if l.detail < 0xFFFE then l.detail
  else if 0x20000 ≤ l.detail % 0x40000000 then 1000000 + l.word
  else 100000

/-- The first condition that fails, in the order of R509. -/
def firstBad (l : List Cond) : Option Loc := leastBy Loc.place ((l.filter fun c => !c.1).map (·.2))

/-- The status of the first check that fails, and where (R305, R509); `none` if every check passes. -/
def Checks.verdict (c : Checks) : Option (Status × Loc) :=
  if c.notInMode then some (.notInMode, ⟨0, 0⟩)
  else if c.denied then some (.denied, ⟨0, 0⟩)
  else match firstBad c.params with
    | some l => some (.badParam, l)
    | none => if c.busy then some (.busy, ⟨0, 0⟩) else if c.noResource then some (.noResource, ⟨0, 0⟩) else none

/-- The opcodes that chapter 10 assigns. -/
def opcodes : List Nat :=
  [0x0101, 0x0102, 0x0103, 0x0104, 0x0105, 0x0106, 0x0107, 0x0108, 0x0109,
   0x0201, 0x0202, 0x0203, 0x0204, 0x0205, 0x0301, 0x0302, 0x0303,
   0x0401, 0x0402, 0x0403, 0x0404, 0x0405, 0x0406, 0x0407, 0x0408,
   0x0501, 0x0502, 0x0503, 0x0504, 0x0505, 0x0506,
   0x0601, 0x0602, 0x0603, 0x0604, 0x0605, 0x0606, 0x0701, 0x0702, 0x0703,
   0x0801, 0x0802, 0x0803, 0x0804, 0x0805,
   0x0901, 0x0902, 0x0903, 0x0904, 0x0905, 0x0906, 0x0A01, 0x0A02,
   0x0B01, 0x0B02, 0x0B03, 0x0C01, 0x0C02, 0x0C03, 0x0D01, 0x0D02, 0x0E01, 0x0E02, 0x0E03]

/-- The mode rule of R306. In factory test mode ARM_PRINT alone is refused (R7). -/
def modeForbids (m : Mode) (op : Nat) : Bool :=
  match m with
  | .native => false
  | .factory => op == 0x0505
  | .hb8 => decide (2 ≤ op / 256 ∧ op / 256 ≤ 5) || op == 0x0601 || op == 0x0602 || op == 0x0A01

/-- The commands that the fault state lets through (R307). -/
def faultAllows (op scope : Nat) : Bool :=
  has op [0x0101, 0x0102, 0x0105, 0x0106, 0x0801, 0x0B02, 0x0C01, 0x0C02, 0x0C03] || (op == 0x0104 && scope == 0)

/-- The commands accepted after SHUTDOWN_PREPARE (R317). -/
def shutdownAllows (op scope : Nat) : Bool := op == 0x0101 || op == 0x0102 || (op == 0x0104 && scope == 0)

/-- The checks that hold for every command: R306, R307 and R317. -/
def generalChecks (s : State) (op scope : Nat) (c : Checks) : Checks :=
  { c with
    notInMode := modeForbids s.power.mode op || c.notInMode
    denied := (s.flt.faultState && !faultAllows op scope) || c.denied
    busy := (s.journal.shutDown && !shutdownAllows op scope) || c.busy }

/-! ## Order (R286, R309) -/

/-- Whether an entry is a long-running command (the rows marked (L), R309). -/
def State.longRunning (s : State) (e : JEntry) : Bool :=
  has e.opcode [0x0202, 0x0205, 0x0302, 0x0303, 0x0506, 0x0601, 0x0602, 0x0604, 0x0606, 0x0902, 0x0903, 0x0904,
    0x0905, 0x0A01, 0x0A02, 0x0B01, 0x0D01, 0x0E02, 0x0E03]
  || (e.opcode == 0x0503 && bitOf (e.p8 3) 1)
  || (e.opcode == 0x0701 && s.ring.role == .manager)

/-- Whether an entry keeps the next command of its queue from starting (R286). -/
def State.blocks (s : State) (e : JEntry) : Bool :=
  !(e.state.final || (s.longRunning e && e.state == .running))

/-- The setting that a command changes, as a number and the unit of it that the command names; none for a command that changes no setting.
The four commands that fix row delays share one. -/
def JEntry.setting? (e : JEntry) : Option (Nat × Nat) :=
  if has e.opcode [0x0301, 0x0302, 0x0303, 0x0502] then some (0x0301, 0)
  else if has e.opcode [0x0501, 0x0503, 0x0901, 0x0906] then some (e.opcode, e.p8 0)
  else if e.opcode = 0x0604 then some (e.opcode, e.p8 12)
  else if e.opcode = 0x0D02 then some (e.opcode, e.p16 0)
  else if e.opcode = 0x0E01 then some (e.opcode, e.p16 0)
  else if has e.opcode [0x0103, 0x0401, 0x0402, 0x0403, 0x0404, 0x0405, 0x0406, 0x0407, 0x0408, 0x0504, 0x0605, 0x0702, 0x0703, 0x0804, 0x0805] then
    some (e.opcode, 0)
  else none

/-- Whether a command waits for an earlier one: of its own queue always, of another where both change the same setting, so that the higher
sequence takes effect last (R286). -/
def JEntry.follows (e x : JEntry) : Bool :=
  decide (x.seq < e.seq) && (x.queue == e.queue || (e.setting?.isSome && e.setting? == x.setting?))

/-- Whether a command may start: every earlier one that it follows has completed, or is long-running and runs. -/
def State.mayStart (s : State) (e : JEntry) : Bool := s.journal.entries.all fun x => !(e.follows x && s.blocks x)

/-- Device firmware runs and serves commands. -/
def State.firmwareRuns (s : State) : Bool := s.power.phase == .running && !s.flt.staffHalt

/-- The accepted command of a sequence and opcode that may start now. -/
def State.startable (s : State) (seq op : Nat) : Option JEntry :=
  match s.entry? seq with
  | some e =>
    if e.opcode == op && e.state == .accepted && !e.started && s.firmwareRuns && s.mayStart e then some e else none
  | none => none

/-! ## Running a command -/

/-- The axis a command names. -/
def JEntry.axis (e : JEntry) : Nat := min 3 (e.p8 0)

/-- Result words 0 and 1 of a refused command: those of R509 for a BAD_PARAM, and AXS_n_POS and AXS_n_STATUS for an axis command (R327). -/
def State.refusalWords (s : State) (seq : Nat) (st : Status) (l : Loc) : BitVec 32 × BitVec 32 :=
  match s.entry? seq with
  | some e => if st != .badParam && e.opcode / 256 == 9 then (w32i (s.axisPosition e.axis), s.axisStatus e.axis) else (w32 l.word, 0)
  | none => (w32 l.word, 0)

/-- A command refused under R305: it changes nothing but its entry and its completion. A DMA error of its buffers is recorded besides as
0x8102 (R293). -/
def State.refuse (s : State) (seq : Nat) (st : Status) (l : Loc) : State :=
  let s1 := if bitOf l.detail 30 then s.info 0x8102 0 (w32 seq) else s
  let w := s1.refusalWords seq st l
  s1.finish seq st (w32 l.detail) w.1 w.2

/-- A host command at moment `t`. If the journal holds it, accepted and free to start, its checks are made
in the order of R305; the first that fails completes it, and otherwise it has its effect. A command that
needs host memory waits while DMA is stopped (R277, R278). Where nothing may start, nothing happens. -/
def State.command (s0 : State) (t seq op : Nat) (dma running : Bool)
    (checks : State → JEntry → Checks) (effect : State → JEntry → State) : State :=
  let s := s0.tick t
  match s.startable seq op with
  | none => s
  | some e =>
    if dma && !s.canSend then
      s.mapEntry seq fun e => { e with waitsSince := some (e.waitsSince.getD s.now) }
    else
      match (generalChecks s op (e.p8 0) (checks s e)).verdict with
      | some (st, l) => s.refuse seq st l
      | none => effect (s.start seq running) e

/-- A command that completes with OK as soon as it has had its effect. -/
def State.commandOk (s0 : State) (t seq op : Nat) (dma : Bool)
    (checks : State → JEntry → Checks) (effect : State → JEntry → State)
    (detail : State → JEntry → BitVec 32 := fun _ _ => 0)
    (words : State → JEntry → BitVec 32 × BitVec 32 × BitVec 32 × BitVec 32 := fun _ _ => (0, 0, 0, 0)) : State :=
  s0.command t seq op dma true checks fun s e =>
    let s1 := effect s e
    let w := words s1 e
    s1.finish seq .ok (detail s1 e) w.1 w.2.1 w.2.2.1 w.2.2.2

end Sys2Proof.Machine
end

