-- ==== Sys2Proof/Machine/RingOps.lean ====
section
/-!
DEFINITION. Machine/RingOps.lean: sending on the halyard ring (R239, R243 to R247), the manager's
transactions (R257), and the speed limits with their posts and SPEED_OK (R202, R265, R266, R291).
-/

namespace Sys2Proof.Machine

/-! ## Ports and sending -/

/-- A halyard port. -/
def Ring.port (r : Ring) : Side → Halyard
  | .e => r.east
  | .w => r.west

/-- The ring with a port changed. -/
def Ring.updPort (r : Ring) (sd : Side) (f : Halyard → Halyard) : Ring :=
  match sd with
  | .e => { r with east := f r.east }
  | .w => { r with west := f r.west }

/-- The state with a halyard port changed. -/
def State.updHalyard (s : State) (sd : Side) (f : Halyard → Halyard) : State :=
  { s with ring := s.ring.updPort sd f }

/-- The other port. -/
def otherSide : Side → Side
  | .e => .w
  | .w => .e

/-- Whether a port carries ring traffic. -/
def State.linkUp (s : State) (sd : Side) : Bool := (s.ring.port sd).state == .inService

/-- The own source byte: the node number, or 0xFE for a guest (R244). -/
def State.ownAddress (s : State) : Nat := s.ring.node.getD 0xFE

/-- Something sent on a port that is in service; a port in shadow gets a copy marked as shadow (R239). -/
def State.sendOn (s : State) (sd : Side) (f : Bool → Out) : State :=
  match (s.ring.port sd).state with
  | .inService => s.emit (f false)
  | .shadow => if s.linkUp (otherSide sd) then s.emit (f true) else s
  | _ => s

/-- Something sent on both ports (R245). -/
def State.sendBoth (s : State) (f : Side → Bool → Out) : State :=
  (s.sendOn .e (f .e)).sendOn .w (f .w)

/-- The class of an acknowledged packet (R244). -/
def payloadClass : Payload → Nat
  | .control _ | .handover => 0x5
  | .speed .. => 0x6
  | .syncReady .. | .syncPlace .. | .syncReprint .. => 0x7
  | .profile .. => 0x9

/-- A packet of an acknowledged class as a port sends it, with the identity of the guest that it is from or to. -/
def packetOut (body : Payload ⊕ MirrorMsg) (src dst hops incarnation sq guest : Nat) (sd : Side) (shadow : Bool) : Out :=
  match body with
  | .inl b => .packet sd (payloadClass b) src dst hops incarnation sq shadow b guest
  | .inr m => .mirror sd dst hops incarnation sq shadow m

/-- The address of a guest, as the sender of a packet keeps it: no source or destination byte has it (R244). -/
def guestAddress (identity : Nat) : Nat := 256 + identity

/-- The destination byte of an address. -/
def addressByte (a : Nat) : Nat := if a < 256 then a else 0xFE

/-- The guest that a packet between two addresses names at the start of its payload: its addressee, or this chip as its source; 0 where
neither is a guest (R244). -/
def State.guestOf (s : State) (src dst : Nat) : Nat :=
  if 256 ≤ dst then dst - 256 else if src = 0xFE then s.fuses.identity else 0

/-- A packet of an acknowledged class put on both ports. -/
def State.emitPacket (s : State) (u : Unacked) : State :=
  s.sendBoth (packetOut u.body u.src (addressByte u.dst) 0 s.ring.incarnation u.sq (s.guestOf u.src u.dst))

/-- A packet of an unacknowledged class on both ports, with the chip's 16-bit count (R244). -/
def State.sendCounted (s : State) (f : Nat → Side → Bool → Out) : State :=
  let n := (s.ring.sendCount + 1) % 65536
  ({ s with ring := { s.ring with sendCount := n } }).sendBoth (f n)

/-- Packets in the order of priority at a port: PROFILE after all others (R243). -/
def byPriority (l : List Unacked) : List Unacked :=
  let last := fun (u : Unacked) => match u.body with
    | .inl (.profile ..) => true
    | _ => false
  l.filter (fun u => !last u) ++ l.filter last

/-- The next sequence number for a source and destination (R247). -/
def State.takeSq (s : State) (src dst : Nat) : Nat × State :=
  let n := SMap.get 1 s.ring.nextSqs (src + 256 * dst)
  (n, { s with ring := { s.ring with nextSqs := SMap.set 1 s.ring.nextSqs (src + 256 * dst) (n + 1) } })

/-- Send a packet with a sequence number taken already, and keep it until it is acknowledged (R247). -/
def State.sendNumbered (s : State) (src dst sq : Nat) (b : Payload ⊕ MirrorMsg) : State :=
  let u : Unacked := { src := src, dst := dst, sq := sq, sentAt := s.now, resentAt := s.now, body := b }
  { s with ring := { s.ring with unacked := s.ring.unacked ++ [u] } }.emitPacket u

/-- Send a packet from the own address. -/
def State.ringSend (s : State) (dst : Nat) (b : Payload) : State :=
  let r := s.takeSq s.ownAddress dst
  r.2.sendNumbered s.ownAddress dst r.1 (.inl b)

/-- A node tells the manager something of itself; a guest and the manager tell nobody. -/
def State.tellManager (s : State) (m : ControlMsg) : State :=
  if s.ring.role = .manager ∨ s.ring.node.isNone then s else s.ringSend 0xFD (.control m)

/-- Acknowledge the packets of a source, at the address they were sent to (R247). -/
def State.acknowledge (s : State) (src dst sq : Nat) : State :=
  s.sendCounted fun n sd sh => .ack sd dst (addressByte src) 0 n sq sh (s.guestOf dst src)

/-! ## Manager transactions (R257) -/

/-- The entries of the nodes that are admitted now. -/
def Ring.members (r : Ring) : List RosterEntry := r.roster.filter (·.admitted)

/-- The nodes that a manager's packet to every member goes to: every admitted node but itself. -/
def Ring.others (r : Ring) : List Nat := (r.members.map (·.node)).filter fun n => some n != r.node

/-- The manager state as MIRROR carries it. -/
def State.mirrorOf (s : State) (coversSrc coversSq : Nat) (packets : List HeldPacket) (full : Bool) : MirrorMsg :=
  let r := s.ring
  { coversSrc := coversSrc, coversSq := coversSq, roster := r.roster, limits := r.limits, packets := packets
    vPress := r.vPress, holdMs := r.holdMs, syncEnd := r.syncEnd, syncPages := r.syncPages, full := full
    offsets := r.offsets, groups := r.groups
    delivered := if full then (r.deliveries.filter fun d => d.dst == 0xFD).map fun d => (d.src, d.incarnation, d.delivered) else [] }

/-- Number the packets a transaction will send from 0xFD. -/
def numberPackets : State → List (Nat × Payload) → List HeldPacket × State
  | s, [] => ([], s)
  | s, (d, b) :: t =>
    let r := s.takeSq 0xFD d
    let n := numberPackets r.2 t
    ({ dst := d, sq := r.1, body := b } :: n.1, n.2)

/-- The end of a transaction: its packets are sent, and its source is acknowledged or its host command completes. -/
def State.runTransaction (s : State) (t : Transaction) : State :=
  let s1 := t.packets.foldl (fun s h => s.sendNumbered 0xFD h.dst h.sq (.inl h.body)) s
  let s2 := if t.coversSq = 0 then s1 else s1.acknowledge t.coversSrc 0xFD t.coversSq
  match t.command with
  | some (q, w) => s2.finish q .ok 0 w.1 w.2
  | none => s2

/-- A MIRROR sent to a node, and its sequence number. -/
def State.sendMirror (s : State) (n coversSrc coversSq : Nat) (packets : List HeldPacket) (full : Bool) : Nat × State :=
  let r := s.takeSq 0xFD n
  (r.1, r.2.sendNumbered 0xFD n r.1 (.inr (r.2.mirrorOf coversSrc coversSq packets full)))

/-- A transaction of the manager whose new state stands already: it waits for its MIRROR to be acknowledged. Without a standby it
ends at once; one in appointment gets the MIRROR too (R250, R257). -/
def State.transact (s : State) (coversSrc coversSq : Nat) (out : List (Nat × Payload)) (command : Option (Nat × BitVec 32 × BitVec 32)) : State :=
  let n := numberPackets s out
  let t : Transaction := { mirrorSq := 0, coversSrc := coversSrc, coversSq := coversSq, packets := n.1, command := command }
  match n.2.ring.standby, n.2.ring.appointing with
  | some sb, _ =>
    let m := n.2.sendMirror sb coversSrc coversSq n.1 false
    let l := m.2.ring.transactions ++ [{ t with mirrorSq := m.1 }]
    { m.2 with ring := { m.2.ring with transactions := l } }
  | none, some a => (n.2.sendMirror a.1 coversSrc coversSq n.1 false).2.runTransaction t
  | none, none => n.2.runTransaction t

/-! ## Limits (R202, R265, R266, R291) -/

/-- Post a speed value on a route (R291): `source` 1 is the bar route and 2 the press route. -/
def State.postRoute (s : State) (r : Option Route) (source : Nat) (detail : BitVec 32) : State :=
  match r with
  | none => s
  | some r => s.post r.cc { tag := r.tag, seq := r.seq, queue := 0, status := 0, detail := detail
                            noInterrupt := false, source := source }

/-- The detail field of a speed post. -/
def speedDetail (v cause colour : Nat) : BitVec 32 := w32 (v / 100 % 65536 + cause * 65536 + colour % 16 * 2 ^ 20)

/-- The roster entry of a node. -/
def Ring.entryOf (r : Ring) (n : Nat) : Option RosterEntry := r.roster.find? (fun e => e.node == n)

/-- Whether a node reports itself in standby (R435). -/
def Ring.standingBy (r : Ring) (n : Nat) : Bool := r.heard.any fun h => h.node == some n && h.standby

/-- The limit of an admitted node as the manager counts it: 0 with cause 5 once it has been unreached for
the hold time (R265). -/
def State.countedLimit (s : State) (n : Nat) : Option (Nat × Nat) :=
  match s.ring.unreached.find? (fun u => u.1 == n) with
  | some u => if u.2 + s.ring.holdMs * 1000000 ≤ s.now then some (0, 5)
      else (SMap.find? n s.ring.limits)
  | none => SMap.find? n s.ring.limits

/-- V, its cause and its node: the lowest limit of the admitted nodes that print (R265, R435); 300,000
while no limit is known. -/
def State.pressLimit (s : State) : Nat × Nat × Nat :=
  s.ring.members.foldl (fun v e =>
    if s.ring.standingBy e.node || (s.power.standby && s.ring.node == some e.node) then v
    else match s.countedLimit e.node with
      | some l => if l.1 < v.1 then (l.1, l.2, e.node) else v
      | none => v) (300000, 0, 0)

/-- Whether a limit has moved by 1 % or more, or reached or left 0. -/
def movedEnough (last v : Nat) : Bool :=
  decide (last ≤ 100 * (max last v - min last v) ∧ last ≠ v) || (last == 0) != (v == 0)

/-- The manager posts V when R265 asks for it, at most once per 213.3 µs. -/
def State.postV (s : State) : State :=
  if s.ring.role ≠ .manager then s
  else
    let v := s.pressLimit
    let due := match s.ring.postedV with
      | none => true
      | some p => movedEnough p.1 v.1 || p.2.2 != v.2.2
    if due && (s.ring.postedV.isNone || decide (s.ring.postedAt + 213333 ≤ s.now)) then
      let colour := ((s.ring.entryOf v.2.2).map (·.colour)).getD 0
      { s with ring := { s.ring with postedV := some v, postedAt := s.now } }.postRoute s.ring.pressRoute 2
        (speedDetail v.1 v.2.1 colour)
    else s

/-- SPEED_OK as this chip drives it: low on the manager and the standby while their V is below v_press,
released otherwise, in standby, until the start-up is over, through a reset, and once device firmware halts (R266, R455, R468). -/
def State.speedOkPin (s : State) : PinLevel :=
  if !s.firmwareRuns || s.power.standby || has 0 s.evt.openers then .floating
  else if (s.ring.role = .manager ∨ s.ring.role = .standby) ∧ s.pressLimit.1 < s.ring.vPress then .low
  else .floating

/-- The manager records the limit a node has published. -/
def State.recordLimit (s : State) (n v cause : Nat) : State :=
  { s with ring := { s.ring with
    limits := SMap.insert n (v, cause) (SMap.erase n s.ring.limits) } }.postV

/-- A worker publishes its limit: to its own host on the bar route, and to the manager (R202). The manager
counts its own bar at once, and mirrors it (R266); a guest's limit is not aggregated (R252). -/
def State.publish (s : State) (v cause : Nat) : State :=
  let g := { s.heads.governor with published := some (v, cause) }
  let s1 := { s with heads := { s.heads with governor := g } }.postRoute g.barRoute 1 (speedDetail v cause 0)
  match s.ring.role, s.ring.node with
  | .manager, some n => (s1.recordLimit n v cause).transact 0 0 [] none
  | .guest, _ => s1
  | _, some _ => s1.ringSend 0xFD (.speed v cause)
  | _, none => s1

end Sys2Proof.Machine
end

