-- ==== Sys2Proof/Machine/Pages.lean ====
section
/-!
DEFINITION. Machine/Pages.lean: pages and jobs (R32 to R41, R167 to R170, R387 to R390): looking them up,
releasing a page, spoiling it and holding it for reprint, placing it, page sync on the ring (R267 to R271),
and both forms of a disarm (R173).
-/

namespace Sys2Proof.Machine

/-! ## Looking up -/

/-- The page of a PAGE_SUBMIT. -/
def State.page? (s : State) (seq : Nat) : Option Page := s.store.pages.find? (fun p => p.seq == seq)

/-- The state with a page changed. -/
def State.mapPage (s : State) (seq : Nat) (f : Page → Page) : State :=
  { s with store := { s.store with pages := s.store.pages.map fun p => if p.seq == seq then f p else p } }

/-- The open job of an id. -/
def State.job? (s : State) (id : Nat) : Option Job := (s.store.jobs.filterMap fun j => j).find? (fun j => j.id == id)

/-- The state with a job changed. -/
def State.mapJob (s : State) (id : Nat) (f : Job → Job) : State :=
  { s with store := { s.store with
    jobs := s.store.jobs.map fun j => j.map fun j => if j.id == id then f j else j } }

/-- Blocks of the page store that are free (R39). -/
def State.freeBlocks (s : State) : Nat := s.store.totalBlocks - (s.store.pages.map (·.blocks)).sum

/-- The output depth in force (R95, R97). -/
def State.depth (s : State) : Nat := (s.render.format.map (·.depth)).getD 2

/-- The lines a page occupies (R82). -/
def State.linesOf (s : State) (p : Page) : Nat :=
  pageLines ((s.render.format.map (·.kind)).getD 0) s.pos.lpi p.rows

/-- The lead in force: at depth 4 with more than 16 heads present, 5 where the setting needs more than the
14 band slots (R114). -/
def State.leadInForce (s : State) : Nat :=
  if s.depth = 4 ∧ 16 < s.lines.geometry.present.length ∧ 14 < (s.render.lead + 2) * 2 then 5 else s.render.lead

/-- The hoist that holds a line. -/
def hoistOf (l : Int) : Int := l.fdiv 64

/-- The row delays of the rows in use, in 1/256 line, those of changes in progress included. -/
def State.delaysHeld (s : State) : List Int :=
  (s.lines.q :: s.lines.changes.map (·.q)).flatMap fun q => s.lines.geometry.rows.map (Tbl.get 0 q)

/-- The largest and the smallest of them. -/
def State.maxDelay (s : State) : Int := s.delaysHeld.foldl max 0
def State.minDelay (s : State) : Int :=
  match s.delaysHeld with
  | [] => 0
  | q :: t => t.foldl min q

/-- H has passed a line on every row in use. -/
def State.linePassed (s : State) (l : Int) : Bool := decide (l * 65536 + s.maxDelay * 256 ≤ s.highWater)

/-- H has reached a line on some row in use. -/
def State.lineReached (s : State) (l : Int) : Bool := decide (l * 65536 + s.minDelay * 256 ≤ s.highWater)

/-- The print windows in force by hoist, newest first: the setting for hoists whose window has not opened, then those of the table
sets (R171). -/
def State.windowList (s : State) : List (Int × PrintWindow) :=
  match s.render.lastOpened with
  | some k => (k + 1, s.render.window) :: s.render.windows
  | none => if s.render.windows.isEmpty then [(0, s.render.window)] else s.render.windows

/-- The print window that a line is judged by: that of its hoist's table set (R171). -/
def State.windowAt (s : State) (l : Int) : PrintWindow :=
  match s.windowList.find? (fun x => decide (x.1 ≤ hoistOf l)) with
  | some x => x.2
  | none => s.render.window

/-- Whether a line lies inside its print window. -/
def State.inWindow (s : State) (l : Int) : Bool :=
  let w := s.windowAt l
  decide (w.lineStart ≤ l ∧ l < w.lineEnd)

/-- The bar columns of the raster inside a print window and the bar. -/
def State.rasterColumns (s : State) (w : PrintWindow) : Nat × Nat :=
  let f := s.render.format.getD ⟨0, 1, 0, 0, 2⟩
  (max f.c0 w.colLo, min (f.c0 + f.outWidth - 1) (min w.colHi (s.lines.geometry.width - 1)))

/-- The lines from `a` to `b` that lie inside their print windows, window by window (R171). -/
def linesInWindows (a : Int) : Int → List (Int × PrintWindow) → List (PrintWindow × Int × Int)
  | _, [] => []
  | b, (k, w) :: t =>
    let lo := max (if t.isEmpty then a else max a (64 * k)) w.lineStart
    let hi := min b (w.lineEnd - 1)
    (if lo ≤ hi then [(w, lo, hi)] else []) ++ linesInWindows a (min b (64 * k - 1)) t

/-- What of the lines from `a` to `b` lies inside the print window in the raster's columns, of the columns from `c` to `d`, as one range
of lines and one of columns (R171). -/
def State.shownPart (s : State) (a b : Int) (c : Nat := 0) (d : Nat := 65535) : Option (Int × Int × Nat × Nat) :=
  let parts := (linesInWindows a b s.windowList).filterMap fun x =>
    let r := s.rasterColumns x.1
    if max c r.1 ≤ min d r.2 then some (x.2.1, x.2.2, max c r.1, min d r.2) else none
  match parts with
  | [] => none
  | x :: t => some (t.foldl (fun x y => (min x.1 y.1, max x.2.1 y.2.1, min x.2.2.1 y.2.2.1, max x.2.2.2 y.2.2.2)) x)

/-- The loss of every line from `a` to `b`, for a cause block: what lies inside the print window, or, where nothing does, the
lines themselves. -/
def State.lossOf (s : State) (a b : Int) (block : Nat) : Loss :=
  let c := s.rasterColumns (s.windowAt a)
  let x := (s.shownPart a b).getD (a, b, c.1, c.2)
  { row := 64, lo := x.1, hi := x.2.1, colLo := x.2.2.1, colHi := x.2.2.2, block := block, cause := .event s.now }

/-! ## Release and job close (R37, R38, R319, R320) -/

/-- The lines that `PAGE_QUERY` counts as not yet fired: those ahead of the firing and those lost. -/
def State.unfiredCount (s : State) (p : Page) : Nat :=
  match p.first with
  | none => s.linesOf p
  | some f =>
    ((List.range (s.linesOf p)).filter fun (i : Nat) =>
      !s.linePassed (f + i) || p.losses.any fun l => l.old.isNone && decide (l.lo ≤ f + i ∧ f + i ≤ l.hi)).length

/-- The status a page completes with when it is released (R37). -/
def Page.status (p : Page) : Status :=
  if p.cancelled then .cancelled
  else if p.failure.isSome then (if p.outputLimit then .outputLimit else .decodeError)
  else if p.late then .latePage
  else if 0 < p.reprints then .replayed
  else .ok

/-- A PAGE_SUBMIT of a job that has been accepted and has not started (R35, R286). -/
def State.submitWaits (s : State) (job : Nat) (e : JEntry) : Bool :=
  e.opcode == 0x0202 && e.state == .accepted && !e.started && e.p32 16 == job

/-- A JOB_CLOSE completes when every page of its job is released; the slot and the id are freed (R320). -/
def State.settleJob (s : State) (id : Nat) : State :=
  match s.job? id with
  | none => s
  | some j =>
    if j.closing && (s.store.pages.all fun p => p.job != id || p.legacy)
        && s.journal.entries.all (fun e => !(s.submitWaits id e && j.closeSeqs.all (e.seq < ·))) then
      let s1 := { s with
        store := { s.store with jobs := s.store.jobs.map fun x => if x.any (fun y => y.id == id) then none else x }
        ring := { s.ring with placements := s.ring.placements.filter (·.1 != j.group) } }
      j.closeSeqs.foldl (fun s q => s.finish q .ok 0 (w32 j.completedOk) (w32 j.replayed) (w32 j.late) (w32 j.failed)) s1
    else s

/-- A page that hoists are rendered from at its placement: printing, or held for reprint with the rest of its lines to come. -/
def Page.beingPrinted (p : Page) : Bool := p.state == .printing || (p.state == .held && !p.blind)

/-- The placements of a page whose lines are still to be fired, with their first lines: its own, and one left to a reprint (true). -/
def Page.placements (p : Page) : List (Bool × Int) :=
  (if p.blind then [] else p.first.toList.map fun f => (false, f)) ++ p.old.toList.map fun f => (true, f)

/-- Those of them that hoists are rendered from. -/
def Page.printed (p : Page) : List (Bool × Int) := p.placements.filter fun x => x.1 || p.beingPrinted

/-- The first lines at which lines of a page are rendered: its placement, and one left to a reprint. -/
def Page.places (p : Page) : List Int :=
  (if (p.state == .stored || p.beingPrinted) && !p.cancelled && !p.blind then p.first.toList else []) ++
  (if p.cancelled then [] else p.old.toList)

/-- The event record of a decode failure, with the frame index and the byte offset (R61). The manual gives it no code: a free value
(log 40); P0 is the frame index and P1 the offset. -/
def State.noteFailure (s : State) (frame off : Nat) : State :=
  ({ s with free := s.free + 1 }).info (0x8000 + Config.freeNat s.free % 4096) 0 (w32 frame) (w32 off)

/-- A page is released with a status: its blocks are free, its PAGE_SUBMIT completes (R37, R319), and its job
counts it. A legacy page names no journal entry (R493). -/
def State.releaseAs (s : State) (seq : Nat) (st : Status) (detail : BitVec 32) : State :=
  match s.page? seq with
  | none => s
  | some p =>
    let gone : Released := { seq := seq, at_ := s.now, first := p.first.getD 0, unfired := s.unfiredCount p, reprints := p.reprints }
    let kept := s.store.recent.filter fun (x : Released) => decide (s.now < x.at_ + 10000000000)
    let rows := p.failedRow.getD p.rows
    let used := s.render.hoists.flatMap fun (h : Hoist) => (h.pages.filter fun x => x.1 == seq).map (·.2)
    let failed := p.failedRow.isSome
    let left := (used ++ (if failed then p.places else [])).eraseDups.map fun (f : Int) =>
      ({ seq := seq, first := f, rows := p.rows, good := rows, raster := p.raster, rest := failed && p.places.contains f } : Remains)
    let s1 : State := { s with
      store := { s.store with pages := s.store.pages.filter fun x => x.seq != seq, recent := gone :: kept }
      render := { s.render with remains := s.render.remains ++ left } }
    let s2 := s1.mapJob p.job fun j => match st with
      | .ok => { j with completedOk := j.completedOk + 1 }
      | .replayed => { j with replayed := j.replayed + 1 }
      | .latePage => { j with late := j.late + 1 }
      | _ => { j with failed := j.failed + 1 }
    let w := match st, p.failure with
      | .decodeError, some (_, frame, off) | .outputLimit, some (_, frame, off) => (w32 frame, w32 off)
      | _, _ => (w32i (p.first.getD 0), w32 p.reprints)
    let s3 := if p.legacy then s2 else s2.finish seq st detail (w32 p.blocks) (w32 p.streamBytes) w.1 w.2
    s3.settleJob p.job

/-- A page is released with the status its course gives (R37): a decode failure carries its reason, a late
start under catch-up its shift (R168). -/
def State.release (s : State) (seq : Nat) : State :=
  match s.page? seq with
  | none => s
  | some p =>
    s.releaseAs seq p.status (match p.status, p.failure with
      | .decodeError, some (reason, _, _) => w32 reason
      | .latePage, _ => w32 p.shift
      | _, _ => 0)

/-! ## Sync groups on the ring (R267 to R271) -/

/-- Whether a page belongs to a sync group, and its group. -/
def State.groupOf (s : State) (p : Page) : Nat := ((s.job? p.job).map (·.group)).getD 0

/-- The page of a sync group with a page id. -/
def State.syncPage? (s : State) (group page : Nat) : Option Page :=
  s.store.pages.find? fun p => p.pageId == page && !p.legacy && s.groupOf p == group

/-! ## Spoiled pages (R387) -/

/-- Whether a page can be spoiled: its data is in the store, and it has neither failed nor been cancelled;
legacy pages are not reprinted (R504). -/
def Page.spoilable (p : Page) : Bool :=
  !p.cancelled && p.failure.isNone && !p.legacy &&
  (p.state == .stored || p.state == .printing || (p.state == .held && !p.blind))

/-- The columns that a loss names in the record. -/
def lossColumns (l : Loss) : BitVec 32 := w32 (l.colLo % 65536 + l.colHi % 65536 * 65536)

/-- A page is held for reprint, without a record: a loss is noted, with the ports whose fence caused it (R389). -/
def State.hold (s : State) (seq : Nat) (l : Loss) (ports : List Nat) : State :=
  s.mapPage seq fun p => { p with
    state := .held, losses := p.losses ++ [l], waitPorts := ports.foldl (fun w n => addNew n w) p.waitPorts, horizon := none }

/-- The manager notes that a page is to be reprinted, with the requests to every other member (R271, R390). -/
def State.markReprint (s : State) (group page : Nat) : State × List (Nat × Payload) :=
  let mark := fun (x : SyncPage) => if x.group == group && x.page == page then { x with placed := none, reprint := true, since := s.now } else x
  ({ s with ring := { s.ring with syncPages := s.ring.syncPages.map mark } }, s.ring.others.map fun n => (n, .syncReprint group page))

/-- A member that holds a synchronised page for reprint tells the manager (R271, R390); on the manager the
request goes to every other member. -/
def State.sendReprint (s : State) (group page : Nat) : State :=
  if s.ring.role = .manager then
    let r := s.markReprint group page
    r.1.transact 0 0 r.2 none
  else if s.ring.role = .guest then s
  else s.ringSend 0xFD (.syncReprint group page)

/-- The record of a loss of a page: its sequence, the first spoiled page line with the cause, and the columns (R387); a
legacy page is named by its first reference line (R504). -/
def State.tellLoss (s : State) (p : Page) (l : Loss) : State :=
  let line := (max 0 (l.lo - (l.old.or p.first).getD l.lo)).toNat
  s.info 0x8301 0 (if p.legacy then w32i (p.first.getD 0) else w32 p.seq) (w32 (line % 2 ^ 24 + l.block * 2 ^ 24)) (lossColumns l)

/-- A record has told of a loss already: of the same lines, rows and columns for the same block, or of the same happening. -/
def Loss.toldBy (l x : Loss) : Bool :=
  x.told && x.block == l.block && decide (x.colLo ≤ l.colLo ∧ l.colHi ≤ x.colHi) &&
  (((x.row == 64 || x.row == l.row) && decide (x.lo ≤ l.lo ∧ l.hi ≤ x.hi)) || (x.row == 64 && l.row == 64 && x.cause == l.cause))

/-- A page whose stream is still on its way, or being verified: it can be reported for lines left blank, but is not held (R24, R34). -/
def Page.onItsWay (p : Page) : Bool :=
  !p.cancelled && p.failure.isNone && !p.legacy && (p.state == .transferring || p.state == .verifying)

/-- A page is spoiled by an event (R387): record 0x8301, and the page is held for reprint. The lines that a continuing
cause takes are gathered into one record. Lines that a record has told of already are not told again. DEDUCED (log 96): lines of a placement
left to a reprint are told, and the reprint stays as it is placed. -/
def State.spoil (s : State) (seq : Nat) (l : Loss) (tell : Telling) (ports : List Nat := []) : State :=
  match s.page? seq with
  | none => s
  | some p =>
    let before := p.losses.any l.toldBy
    let s1 := if tell == .each && !before then s.tellLoss p l else s
    let l1 := { l with told := tell == .each || before }
    if l.old.isSome || p.legacy || p.onItsWay then
      -- legacy lines are not reprinted (R504); a page not stored yet is placed anew once it is
      s1.mapPage seq fun p => { p with losses := p.losses ++ [l1] }
    else if !p.spoilable then s
    else
      let s2 := s1.hold seq l1 ports
      if p.state != .held && s.groupOf p ≠ 0 then s2.sendReprint (s.groupOf p) p.pageId else s2

/-- The losses of one cause block as one: the first line to the last, the lowest column to the highest. -/
def joinLosses : List Loss → Option Loss
  | [] => none
  | l :: t => some (t.foldl (fun a x => { a with
      lo := min a.lo x.lo, hi := max a.hi x.hi, colLo := min a.colLo x.colLo, colHi := max a.colHi x.colHi }) l)

/-- What is told in one record: the losses of one placement to one cause, of one block. -/
def Loss.kind (l : Loss) : LossCause × Nat × Option Int := (l.cause, l.block, l.old)

/-- The losses to a cause that no record has told of are told in one record for each block. -/
def State.tellGathered (s : State) (p : Page) (x : LossCause × Nat × Option Int) : State :=
  match joinLosses (p.losses.filter fun y => y.kind == x && !y.told) with
  | none => s
  | some l => (s.tellLoss p l).mapPage p.seq fun p => { p with
      losses := p.losses.map fun y => if y.kind == x then { y with told := true } else y }

/-- Every loss of a page that is not told of yet is told: losses to a continuing cause are gathered until it ends (DEDUCED, log 60). -/
def State.tellPage (s : State) (p : Page) : State :=
  ((p.losses.filter fun x => !x.told).map (·.kind)).eraseDups.foldl (fun s b =>
    match s.page? p.seq with
    | some p => s.tellGathered p b
    | none => s) s

/-- What of a loss lies in a placement of a page, inside the print window of the hoist that holds each line, and in the raster's columns
there (R171). -/
def State.lossAt (s : State) (p : Page) (x : Bool × Int) (l : Loss) : Option Loss :=
  (s.shownPart (max l.lo x.2) (min l.hi (x.2 + s.linesOf p - 1)) l.colLo l.colHi).map fun (lo, hi, c, d) =>
    { l with lo := lo, hi := hi, colLo := c, colHi := d, old := if x.1 then some x.2 else none }

/-- A page is spoiled with what of a loss lies in the placements given (R171, R387). -/
def State.spoilAt (s : State) (p : Page) (places : List (Bool × Int)) (l : Loss) (tell : Telling) (ports : List Nat := []) : State :=
  (places.filterMap fun x => s.lossAt p x l).foldl (fun s l => s.spoil p.seq l tell ports) s

/-- The lowest line that had not passed the row with the delay `d`, in 1/256 line, when H was `h`. -/
def lineAfter (h d : Int) : Int := (h - d * 256).fdiv 65536 + 1

/-- The loss of every line of a page that had not passed every row when H was `h`, for a cause block (R173). -/
def State.restLoss (s : State) (p : Page) (block : Nat) (h : Int) : Loss :=
  { row := 64, lo := lineAfter h s.maxDelay, hi := p.placements.foldl (fun v x => max v (x.2 + s.linesOf p - 1)) (lineAfter h s.maxDelay - 1)
    colLo := 0, colHi := 65535, block := block, cause := .event s.now }

/-- Whether a page has lines of a placement inside the print window that have not passed every row. -/
def State.hasUnfired (s : State) (p : Page) : Bool := p.placements.any fun x => (s.lossAt p x (s.restLoss p 0 s.highWater)).isSome

/-- Spoil a page with every line of it that is still unfired, for a cause block. -/
def State.spoilRest (s : State) (p : Page) (block : Nat) (h : Int := s.highWater) : State :=
  s.spoilAt p p.printed (s.restLoss p block h) .each

/-- Every page being printed that has unfired lines is spoiled, for a cause block. -/
def State.spoilPrinting (s : State) (block : Nat) (h : Int := s.highWater) : State :=
  s.store.pages.foldl (fun s p => s.spoilRest p block h) s

/-- Spoil the pages that hold a line of a row, given its columns, for a cause (R26, R118, R131, R160, R174, R183). -/
def State.spoilLine (s : State) (row : Nat) (line : Int) (colLo colHi block : Nat) (tell : Telling)
    (cause : LossCause := .event s.now) (ports : List Nat := []) : State :=
  s.store.pages.foldl (fun s p => s.spoilAt p p.placements
    { row := row, lo := line, hi := line, colLo := colLo, colHi := colHi, block := block, cause := cause } tell ports) s

/-- The bar columns of a row's head. -/
def State.headColumns (s : State) (row : Nat) : Nat × Nat :=
  let h := s.lines.geometry.head (row / 2)
  (h.col0, h.col0 + 2047)

/-! ## Placement (R167 to R170) -/

/-- Whether the render window of a line's hoist has opened, or lies below the arm hoist, in this arming. -/
def State.windowOpened (s : State) (l : Int) : Bool :=
  s.pos.armed && (decide (hoistOf l < s.pos.armHoist) || s.render.lastOpened.any fun k => decide (hoistOf l ≤ k))

/-- No line of a page is rendered at its placement. -/
def State.notThere (s : State) (seq : Nat) : State := s.mapPage seq fun p => { p with blind := true }

/-- The first line of a placement that is still being printed when the page is placed again. -/
def Page.stillAt (p : Page) : Option Int := if p.state == .held && !p.blind then p.first else p.old

/-- A page with a late start: it is not printed at its place, it is held for reprint and will complete with
LATE_PAGE (R168). -/
def State.lateStart (s : State) (seq : Nat) (first : Int) : State :=
  let s1 := (s.mapPage seq fun p => { p with first := some first, late := true }).info 0x8302 0 (w32 seq)
  match s1.page? seq with
  | none => s1
  | some p => (s1.spoil seq (s1.lossOf first (first + s1.linesOf p - 1) 3) .each).notThere seq

/-- The lines of a page placed last in its job in this arming (R167). -/
def State.notePlace (s : State) (seq : Nat) (first : Int) : State :=
  match s.page? seq with
  | some p => if s.pos.armed then s.mapJob p.job fun j => { j with followEnd := some (first + s.linesOf p - 1) } else s
  | none => s

/-- Fix a page's placement (R167), with the late start of R168. A page with a late start waits to be reprinted and occupies no lines, but
for one placed by follow, which keeps its place in the follow chain. -/
def State.fix (s : State) (seq : Nat) (first : Int) (follow : Bool) : State :=
  if s.windowOpened first then (if follow then s.notePlace seq first else s).lateStart seq first
  else (s.notePlace seq first).mapPage seq fun p => { p with first := some first }

/-- Place a page by follow: after the last page placed in its job in this arming, or at the arm hoist. -/
def State.placeFollow (s : State) (seq : Nat) : State :=
  match s.page? seq with
  | none => s
  | some p =>
    match s.job? p.job with
    | none => s
    | some j =>
      let first := match j.followEnd with
        | some e => e + 1 + j.gap
        | none => 64 * s.pos.armHoist
      s.fix seq first true

/-- The first whole line at or above a target in 1/256 line. -/
def targetLine (target : Int) : Int := -((-target).fdiv 256)

/-- The hoist whose render window opens next while printing is armed. -/
def State.nextWindow (s : State) : Int := match s.render.lastOpened with
  | some j => j + 1
  | none => s.pos.armHoist

/-- Place a page tied to a compare unit from the unit's setting in force (R168, R169); while the unit is off the
page stays unplaced. Missed with catch-up 0 it has a late start, and a periodic unit stays missed until its next SET_COMPARE (DESIGN CHOICE,
log 89); with catch-up 1 its first line moves to the first hoist
whose window opens next, which is known while printing is armed. -/
def State.placeCompare (s : State) (seq u : Nat) : State :=
  let c := (Tbl.get {} s.pos.units u)
  let l := targetLine c.set.target
  if c.set.mode = 0 then s.mapPage seq fun p => { p with unplaced := true }
  else if c.missed then s.lateStart seq l
  else if c.caught then
    if s.pos.armed && s.pos.disarming.isNone then
      ((s.notePlace seq (64 * s.nextWindow)).mapPage seq fun p => { p with
        unplaced := false, first := some (64 * s.nextWindow), late := true, shift := (64 * s.nextWindow - l).toNat }).info 0x8302 0 (w32 seq)
    else s.mapPage seq fun p => { p with unplaced := true }
  else (s.mapPage seq fun p => { p with unplaced := false }).fix seq l false

/-! ### Causes that stop firing (R26, R389) -/

/-- The speed lies below the limit of R26, or is not valid. -/
def State.slow (s : State) : Bool := !(s.chan 0).valid || decide (s.speed < 2400)

/-- Whether a cause that stops the firing of the whole bar stands, by the block that losses to it name (R26, R147, R159, R174,
R175, R387). -/
def State.stopStands (s : State) (block : Nat) : Bool :=
  (block == 7 && (!s.pos.stopN || !s.pos.inhibitN || s.slow || s.pos.overLimit)) ||
  (s.pos.stopped && s.pos.stoppedBlock == block) || (block == 0x0C && s.pos.copiesDiffer)

/-- Whether what spoiled a page persists: a cause of the whole bar stands, or a port whose fence spoiled it is neither in
service nor retired (R389). -/
def State.causePersists (s : State) (p : Page) : Bool :=
  (p.losses.any fun l => s.stopStands l.block) || p.waitPorts.any fun n =>
    let st := (Tbl.get ({} : HeadPort) s.heads.ports n).state
    !(st == .inService || st == .retired)

/-! ### Placement by the manager (R268 to R270) -/

/-- The released page of a sync group with a page id: the newest PAGE_SUBMIT that has completed as one and whose job is still open. -/
def State.releasedPage (s : State) (group page : Nat) : Option JEntry :=
  s.journal.entries.reverse.find? fun e => e.opcode == 0x0202 && e.state.final && has e.status [0x0, 0x6, 0x7, 0x8, 0x9, 0xD] &&
    e.p32 20 == page && (s.job? (e.p32 16)).any fun j => j.group == group

/-- The web line at the press datum line now, in 1/65,536 line: H − o (R268). -/
def State.webLine (s : State) : Int := s.highWater - s.ring.offset.getD 0

/-- The integers, numbered: a free number gives a free integer. -/
def anyInt (n : Nat) : Int := if n % 2 = 0 then (n / 2 : Nat) else -((n / 2 + 1 : Nat) : Int)

/-- The offset o_i, web offset u_i and lead of a member as it has told the manager; an o_i not told yet is a free value. -/
def State.memberTerms (s : State) (e : RosterEntry) : Int × Int × Nat :=
  let lead := match s.ring.heard.find? (fun h => h.node == some e.node) with
    | some h => h.lead
    | none => 6
  if s.ring.node = some e.node then (s.ring.offset.getD 0, s.ring.webOffset, s.leadInForce)
  else ((SMap.find? e.node s.ring.offsets).getD (anyInt (Config.freeNat (s.free + e.node))), e.webOffset, lead)

/-- The earliest web line that a member's rendering allows (R269), rounded up to a whole line. -/
def earliest (w o u : Int) (lead : Nat) : Int :=
  -((o + u - 64 * 65536 * ((w + o).fdiv (64 * 65536) + lead + 3)).fdiv 65536)

/-- Whether a node is a member of a sync group, with a job open in it: as it has told the manager, or reported a page; the own jobs say so
of the own bar (R267). -/
def State.inGroup (s : State) (group n : Nat) : Bool :=
  s.ring.groups.any (fun g => g.1 == group && g.2.1 == n) ||
  s.ring.syncPages.any (fun x => x.group == group && x.reports.any fun r => r.1 == n) ||
  (s.ring.node == some n && s.store.jobs.any fun j => j.any fun j => j.group == group)

/-- The admitted bars that are members of a sync group. -/
def State.membersOf (s : State) (group : Nat) : List RosterEntry := s.ring.members.filter fun e => s.inGroup group e.node

/-- The gap of a group's jobs: as the own job gives it, else as a member has told; where none has, a free value (R269). -/
def State.groupGap (s : State) (group : Nat) : Nat :=
  match (s.store.jobs.filterMap fun j => j).find? (fun j => j.group == group), s.ring.groups.find? (fun g => g.1 == group) with
  | some j, _ => j.gap
  | none, some g => g.2.2
  | none, none => Config.freeNat (s.free + 16)

/-- The longest length that the members have reported of a page (R269). -/
def State.syncLength (s : State) (group page : Nat) : Nat :=
  match s.ring.syncPages.find? (fun x => x.group == group && x.page == page) with
  | some x => (x.reports.map (·.2)).foldl max 0
  | none => 0

/-- The first web line at or above one that the rendering of every member of a group allows (R269). -/
def State.allowedLine (s : State) (group : Nat) (w : Int) : Int :=
  (s.membersOf group).foldl (fun v e =>
    let m := s.memberTerms e
    max v (earliest s.webLine m.1 m.2.1 m.2.2)) w

/-- w_s of R269, in lines. -/
def State.syncLine (s : State) (group : Nat) : Int :=
  s.allowedLine group (match SMap.find? group s.ring.syncEnd with
    | some e => e + s.groupGap group
    | none => 0)

/-- The placement of a page is kept: while a change of the offset stops the member until the next ARM_PRINT, or until the page is stored
(R270). -/
def State.keepPlacement (s : State) (group page : Nat) (w : Int) : State :=
  let kept := s.ring.placements.filter fun x => !(x.1 == group && x.2.1 == page)
  { s with ring := { s.ring with placements := kept ++ [(group, page, w)] } }

/-- A member places a page on receipt of SYNC PLACE: first line floor(w + o + u), fixed (R270). The placement is kept while a later
change of its offset stops it, where its pages stay stored, and for a page that is still on its way. A page held for reprint whose cause
persists cannot be placed: the member asks again for it once the cause has ended (R389; DEDUCED, log 98). -/
def State.syncPlaceLocal (s : State) (group page : Nat) (w : Int) : State :=
  match s.syncPage? group page with
  | none => if (s.releasedPage group page).isSome then s else s.keepPlacement group page w
  | some p =>
    if s.ring.syncStopped || p.onItsWay then s.keepPlacement group page w
    else if !(p.state == .stored || p.state == .held) then s
    else if p.state == .held && s.causePersists p then s.mapPage p.seq fun p => { p with askAgain := true }
    else
      let first := (w * 65536 + s.ring.offset.getD 0 + s.ring.webOffset + 128).fdiv 65536
      let s1 := s.mapPage p.seq fun p => { p with
        synced := some w, blind := false, old := p.stillAt
        reprints := if p.state == .held then p.reprints + 1 else p.reprints
        state := .stored, losses := if p.state == .held then [] else p.losses, waitPorts := [] }
      if s1.pos.armed && s1.windowOpened first then
        -- the bar cannot keep the placement (R390)
        ((s1.mapPage p.seq fun p => { p with first := some first }).spoil p.seq
          (s1.lossOf first (first + s1.linesOf p - 1) 3) .each).notThere p.seq
      else s1.mapPage p.seq fun p => { p with first := some first }

/-- A page just stored takes the placement kept for it (R270). -/
def State.placeKept (s : State) (group page : Nat) : State :=
  match s.ring.placements.find? fun x => x.1 == group && x.2.1 == page with
  | none => s
  | some x =>
    ({ s with ring := { s.ring with placements := s.ring.placements.filter fun x => !(x.1 == group && x.2.1 == page) } }).syncPlaceLocal group page x.2.2

/-- The manager places a page (R269): its own bar takes the placement, and the others are to get SYNC PLACE. -/
def State.managerPlace (s : State) (group page : Nat) : State × List (Nat × Payload) :=
  match s.ring.syncPages.find? (fun x => x.group == group && x.page == page) with
  | none => (s, [])
  | some x =>
    let len := s.syncLength group page
    let w := s.syncLine group
    let s0 := { s with free := s.free + 17 }
    let s1 := if x.reports.any (·.2 != len) then s0.info 0x8904 0 (w32 group) else s0
    let mark := fun (y : SyncPage) => if y.group == group && y.page == page then { y with placed := some w } else y
    let s2 : State := { s1 with ring := { s1.ring with
      syncEnd := SMap.insert group (w + len) (SMap.erase group s1.ring.syncEnd)
      syncPages := s1.ring.syncPages.map mark } }
    (s2.syncPlaceLocal group page w, s2.ring.others.map fun d => (d, .syncPlace group page w))

/-- The reachable members of its group have all reported a page (R269). -/
def State.allReported (s : State) (x : SyncPage) : Bool :=
  (s.membersOf x.group).all fun e =>
    x.reports.any (fun r => r.1 == e.node) || s.ring.unreached.any (fun u => u.1 == e.node)

/-- The manager records a member's report and places the page once all members have reported (R269). -/
def State.managerReady (s : State) (node group page lines : Nat) : State × List (Nat × Payload) :=
  let known := s.ring.syncPages.any fun x => x.group == group && x.page == page
  let report := fun (x : SyncPage) =>
    if x.group == group && x.page == page then { x with reports := SMap.insert node lines (SMap.erase node x.reports) } else x
  let pages := if known then s.ring.syncPages.map report
    else s.ring.syncPages ++ [{ group := group, page := page, reports := [(node, lines)], since := s.now }]
  let s1 := { s with ring := { s.ring with syncPages := pages } }
  match s1.ring.syncPages.find? (fun x => x.group == group && x.page == page) with
  | some x => if x.placed.isNone && !x.reprint && s1.allReported x then s1.managerPlace group page else (s1, [])
  | none => (s1, [])

/-- Pages of a group that wait for their first placement. -/
def State.groupWaits (s : State) (group : Nat) : Bool :=
  s.ring.syncPages.any fun x => x.group == group && x.placed.isNone && !x.reprint

/-- Reprints of a group that the manager has no copy of: with reprints at job end they follow the last page of the group, and else they
are placed at once (R271, R388). -/
def State.placeForeign (s : State) (group : Nat) : State × List (Nat × Payload) :=
  if s.store.reprintAtEnd && s.groupWaits group then (s, [])
  else
    let l := s.ring.syncPages.filter fun x => x.group == group && x.reprint && x.placed.isNone && (s.syncPage? group x.page).isNone
    l.foldl (fun r x =>
      let p := r.1.managerPlace group x.page
      (p.1, r.2 ++ p.2)) (s, [])

/-- A member reports a stored page of a sync group (R269). -/
def State.memberReady (s : State) (p : Page) : State :=
  let g := s.groupOf p
  match s.ring.role, s.ring.node with
  | .manager, some n =>
    let r := s.managerReady n g p.pageId (s.linesOf p)
    let f := r.1.placeForeign g
    f.1.transact 0 0 (r.2 ++ f.2) none
  | .guest, _ => s
  | _, _ => s.ringSend 0xFD (.syncReady g p.pageId (s.linesOf p))

/-! ### Storing a page -/

/-- A page enters the stored state: its entry runs (R309) and its placement is fixed as R167 gives. -/
def State.storePage (s : State) (seq : Nat) : State :=
  let s1 := (s.mapPage seq fun p => { p with state := .stored }).setRunning seq
  match s1.page? seq with
  | none => s1
  | some p =>
    if s1.groupOf p ≠ 0 then (s1.memberReady p).placeKept (s1.groupOf p) p.pageId
    else match p.placement with
      | .follow => if s1.pos.armed && s1.pos.disarming.isNone then s1.placeFollow seq else s1
      | .atLine l =>
        if p.blind then s1.lateStart seq l
        else if p.losses.isEmpty then s1
        -- lines of it were left blank while it was on its way: the rest prints, and it is held for reprint (R24, R34)
        else s1.mapPage seq fun p => { p with state := .held, horizon := none }
      | .atCompare u => s1.placeCompare seq u

/-! ## Reprints (R388, R389) -/

/-- Whether a job reprints at its end (R388). -/
def State.atJobEnd (s : State) (j : Job) : Bool := j.reprint == 2 || (j.reprint == 0 && s.store.reprintAtEnd)

/-- Place a page held for reprint (R388): the next follow position of its job is the line after the last page placed and the
gap, or the first line of the first hoist whose window has not opened where that lies above it. The lines left at its old placement
are printed as they stand; rows already decoded serve both while a hoist holds the page. -/
def State.placeReprint (s : State) (seq : Nat) : State :=
  let s0 := match s.page? seq with
    | some p => s.tellPage p
    | none => s
  let inUse := s0.render.hoists.any fun h => h.pages.any fun x => x.1 == seq
  let s1 := s0.mapPage seq fun p =>
    let q : Page := { p with
      state := .stored, reprints := p.reprints + 1, losses := [], waitPorts := [], first := none, lastRendered := none
      blind := false, old := p.stillAt }
    if inUse then q else { q with raster := [], frames := [] }
  match s1.page? seq with
  | none => s1
  | some p =>
    match s1.job? p.job with
    | none => s1
    | some j =>
      let next := 64 * s1.nextWindow
      let first := match j.followEnd with
        | some e => max (e + 1 + j.gap) next
        | none => next
      (s1.mapJob p.job fun j => { j with followEnd := some (first + s1.linesOf p - 1) }).mapPage seq
        fun p => { p with first := some first }

/-- Whether every line of a page placed at line `f` has been fired, with no row-line of it still to come (R35). -/
def State.placeDone (s : State) (p : Page) (f : Int) : Bool :=
  let last := f + s.linesOf p - 1
  s.linePassed last &&
  s.pos.pending.all (fun x => decide (x.line < f ∨ last < x.line)) &&
  s.pos.committed.all (fun x => decide (x.line < f ∨ last < x.line))

/-- Whether a printing page has been fired to its end. -/
def State.fullyFired (s : State) (p : Page) : Bool := p.state == .printing && !p.cancelled && p.first.any (s.placeDone p)

/-- Printing pages that have been fired to their end enter the fired state, their horizon count at 0 (R35, R38). -/
def State.settleFired (s : State) : State :=
  let pages := s.store.pages.map fun (p : Page) =>
    let q : Page := if p.old.any (s.placeDone p) then { p with old := none } else p
    if s.fullyFired p then { q with state := .fired, horizon := some 0 } else q
  { s with store := { s.store with pages := pages } }

/-! ## Disarming (R173) -/

/-- Every delay change takes effect at once, in the order of their lines. -/
def LineStore.takeChanges (l : LineStore) : LineStore :=
  l.changes.foldl (fun l c => { l with
    trims := c.trims.getD l.trims, registration := c.registration.getD l.registration, q := c.q }) { l with changes := [] }

/-- Nothing more is printed at the placement of a page held for reprint, nor at an old one. -/
def Page.leave (p : Page) : Page := { p with blind := p.blind || p.state == .held, old := none }

/-- The print path is emptied: hoists, delay lines and waiting row-lines go. No more can be lost to a continuing cause, so its losses
are told. DESIGN CHOICE (log 67): delay changes still in progress apply at once, and their commands complete with OK. -/
def State.clearPrinting (s0 : State) : State :=
  let s : State := s0.store.pages.foldl State.tellPage s0
  let s1 := { s with
    pos := { s.pos with armed := false, pending := [] }
    render := { s.render with
      hoists := [], lastOpened := none, audits := [], slices := [], remains := [], catchUpTo := none, windows := [], outSets := [], widthSets := []
      pennants := s.render.pennants.map fun p => { p with work := [], extra := [] } }
    lines := { s.lines.takeChanges with delay := [], alloc := [], blanked := [] }
    store := { s.store with
      jobs := s.store.jobs.map fun j => j.map fun j => { j with followEnd := none }
      pages := s.store.pages.map Page.leave } }
  s.lines.changes.foldl (fun s c => s.finish c.seq .ok (w32 (b2n c.late))) s1

/-- A page that has not printed goes back to the stored state, to be placed again at the next ARM_PRINT. -/
def Page.unplace (p : Page) : Page :=
  { p with
    state := .stored, lastRendered := none
    raster := if p.old.isSome then p.raster else []
    frames := if p.old.isSome then p.frames else []
    first := match p.placement, p.synced with
      | _, some _ => p.first
      | .atLine l, none => if p.reprints = 0 then some l else none
      | _, none => none }

/-- The lines still unfired of a placement left to a reprint are told, for a cause block. -/
def State.spoilOld (s : State) (p : Page) (block : Nat) : State :=
  s.spoilAt p (p.placements.filter (·.1)) (s.restLoss p block s.highWater) .each

/-- Printing pages at an immediate disarm: those with a fired line are spoiled, the others go back to the
stored state; stored pages lose a placement by follow or compare. A cancelled page stays as it is, to be released (R40). -/
def State.disarmPages (s : State) (block : Nat) : State :=
  s.store.pages.foldl (fun s p =>
    match p.state with
    | .printing =>
      if p.cancelled then s
      else if p.first.any s.lineReached then s.spoilRest p block
      else (s.spoilOld p block).mapPage p.seq Page.unplace
    | .held => s.spoilRest p block
    | .stored => (s.spoilOld p block).mapPage p.seq Page.unplace
    | _ => s) s

/-- The immediate form of a disarm, for a cause block (R173, R175, R374): no further fire instant is
committed; committed ones are carried out. -/
def State.disarmNow (s : State) (block : Nat) : State :=
  if !s.pos.armed then s
  else
    let s1 := (s.disarmPages block).clearPrinting
    { s1 with pos := { s1.pos with disarming := if s1.pos.committed.isEmpty && s1.pos.disarmSeqs.isEmpty then none else some .immediate } }

/-- The end-of-page form: pages whose first line lies in an opened window fire to their end, and the others
go back to the stored state (R173). -/
def State.disarmAtEnd (s : State) : State :=
  if !s.pos.armed then s
  else
    let s1 := { s with pos := { s.pos with disarming := some .endOfPage, disarmFrom := s.nextWindow } }
    let pages := s1.store.pages.map fun p =>
      if p.cancelled || p.first.any s.windowOpened then p
      else if p.state == .stored || p.state == .printing then p.unplace
      else if p.state == .held then { p with blind := true }
      else p
    { s1 with store := { s1.store with pages := pages } }

/-- During a disarm at end of page: whether a page whose first line is `f` still prints, its first line lying in a hoist whose window
had opened when the disarm began (R173). -/
def State.printsYet (s : State) (f : Int) : Bool :=
  s.pos.disarming != some .endOfPage || decide (hoistOf f < s.pos.disarmFrom)

/-- Whether the disarm in progress has come to its end. -/
def State.disarmDone (s : State) : Bool :=
  match s.pos.disarming with
  | none => false
  | some .immediate => s.pos.committed.isEmpty
  | some .endOfPage =>
    s.pos.committed.isEmpty &&
    s.store.pages.all fun p => !(p.state == .printing) && !(p.state == .stored && p.first.any s.printsYet) &&
      p.stillAt.all (s.placeDone p)

/-- A disarm whose last fire instant has been carried out ends: the delay lines are released, and the
DISARM_PRINTs complete (R173, R322). -/
def State.endDisarm (s : State) : State :=
  if !s.disarmDone then s
  else
    let s1 := if s.pos.armed then s.clearPrinting else s
    let s2 := { s1 with pos := { s1.pos with disarming := none, disarmSeqs := [], disarmHeld := 0, disarmStored := 0 } }
    s.pos.disarmSeqs.foldl (fun s q => s.finish q .ok 0 (w32 s1.pos.disarmHeld) (w32 s1.pos.disarmStored)) s2

/-- A DISARM_PRINT that printing was armed after completes once the last instant committed before its disarm has been carried out
(R173). -/
def State.settleLateDisarms (s : State) : State :=
  let ends := fun (d : LateDisarm) => s.pos.committed.all fun c => decide (d.until_ < c.f)
  (s.pos.lateDisarms.filter ends).foldl (fun s d => s.finish d.seq .ok 0 (w32 d.held) (w32 d.stored))
    { s with pos := { s.pos with lateDisarms := s.pos.lateDisarms.filter fun d => !ends d } }

/-- Disarms that have come to their end complete. -/
def State.settleDisarm (s : State) : State := s.settleLateDisarms.endDisarm

end Sys2Proof.Machine
end

