-- ==== Sys2Proof/Machine/Profile.lean ====
section
/-!
DEFINITION. Machine/Profile.lean: the planned profile of a motion axis (R338 to R346) and the stops shared by
every cause (R346 to R348, R350). The plan is computed in binary64, and set-points are rounded to 1/65,536 count (R338).
-/

namespace Sys2Proof.Machine

/-- The values of a plan (R339): start, stop and break speeds bounded by the cruise speed, and the rates. -/
structure PlanValues where
  start : Rat
  stop : Rat
  brk : Rat
  cruise : Rat
  a1 : Rat
  a2 : Rat
  d2 : Rat
  d1 : Rat

/-- The values of R339 for a commanded cruise speed; 0, or above the limit, gives the limit. -/
def AxisLimits.values (l : AxisLimits) (cruise : Nat) : PlanValues :=
  let c := if cruise = 0 ∨ l.cruise < cruise then l.cruise else cruise
  { start := (min l.start c : Nat), stop := (min l.stop c : Nat), brk := (min l.brk c : Nat), cruise := (c : Nat)
    a1 := (l.a1 : Nat), a2 := (l.a2 : Nat), d2 := (l.d2 : Nat), d1 := (l.d1 : Nat) }

/-- A ramp piece: rate (signed), speed at its start and at its end. -/
structure Ramp where
  rate : Rat
  v0 : Rat
  v1 : Rat

/-- Rising from u to w: on a1 below the break speed, on a2 above it. -/
def PlanValues.rise (p : PlanValues) (u w : Rat) : List Ramp :=
  (if u < p.brk ∧ u < w then [⟨p.a1, u, min w p.brk⟩] else [])
  ++ (if p.brk < w ∧ u < w then [⟨p.a2, max u p.brk, w⟩] else [])

/-- Falling from w to u: on d2 above the break speed, on d1 at or below it. -/
def PlanValues.fall (p : PlanValues) (w u : Rat) : List Ramp :=
  (if p.brk < w ∧ u < w then [⟨-p.d2, w, max u p.brk⟩] else [])
  ++ (if u < p.brk ∧ u < w then [⟨-p.d1, min w p.brk, u⟩] else [])

/-- (v² − u²) / 2a: the distance of a change of speed from u to v at a rate a. -/
def changeDistance (u v a : Rat) : Rat := fDiv (fSub (fMul v v) (fMul u u)) (fMul 2 a)

/-- The distance of a ramp piece. -/
def Ramp.distance (r : Ramp) : Rat := if r.rate = 0 then 0 else changeDistance r.v0 r.v1 r.rate

/-- The time of a ramp piece. -/
def Ramp.time (r : Ramp) : Rat := if r.rate = 0 then 0 else fDiv (fSub r.v1 r.v0) r.rate

/-- The distance of ramps in a row: s_acc and s_dec of R339. -/
def rampDistance (l : List Ramp) : Rat := (l.map Ramp.distance).foldl fAdd 0

/-- Ramp pieces laid out as segments from a position, in a direction. -/
def layRamps (sign : Rat) : Rat → List Ramp → List Segment
  | _, [] => []
  | x, r :: t => { span := r.time, pos := x, speed := sign * r.v0, accel := sign * r.rate } :: layRamps sign (fAdd x (sign * r.distance)) t

/-- The position a time after the start of a segment. -/
def Segment.posAt (g : Segment) (t : Rat) : Rat := fAdd (fAdd g.pos (fMul g.speed t)) (fDiv (fMul (fMul g.accel t) t) 2)

/-- The position after segments. -/
def endOf (x : Rat) : List Segment → Rat
  | [] => x
  | g :: t => endOf (g.posAt g.span) t

/-- The peak speed at which rising from u and falling to e covers D (R340). -/
def PlanValues.peak (p : PlanValues) (u e d : Rat) : Rat :=
  let share := fun (a b : Rat) => fAdd (fDiv 1 (fMul 2 a)) (fDiv 1 (fMul 2 b))
  if u ≤ p.brk ∧ d ≤ fAdd (rampDistance (p.rise u p.brk)) (rampDistance (p.fall p.brk e)) then
    fSqrt (fDiv (fAdd d (fAdd (changeDistance 0 u p.a1) (changeDistance 0 e p.d1))) (share p.a1 p.d1))
  else
    let up := if u ≤ p.brk then rampDistance (p.rise u p.brk) else -changeDistance p.brk u p.a2
    fSqrt (fAdd (fMul p.brk p.brk) (fDiv (fSub (fSub d up) (rampDistance (p.fall p.brk e))) (share p.a2 p.d2)))

/-- A plan ahead (R340 to R342): from speed u over a distance D in the direction of `sign`; u is v_s' for a move from
rest. -/
def PlanValues.ahead (p : PlanValues) (sign x u d : Rat) : List Segment :=
  let excess := if p.cruise < u then p.fall u p.cruise else []
  let u1 := if p.cruise < u then p.cruise else u
  let x1 := fAdd x (sign * rampDistance excess)
  let d1 := fSub d (rampDistance excess)
  layRamps sign x excess ++
  (if p.stop < u1 ∧ d1 < rampDistance (p.fall u1 p.stop) then
    let vx := fSqrt (fAdd (fMul p.stop p.stop) (fMul (fMul 2 p.d1) d1))
    layRamps sign x1 [⟨-p.d1, vx, p.stop⟩]
  else if u1 < p.stop ∧ d1 < rampDistance (p.rise u1 p.stop) then
    layRamps sign x1 (p.rise u1 (fSqrt (fAdd (fMul u1 u1) (fMul (fMul 2 p.a1) d1))))
  else
    let full := fAdd (rampDistance (p.rise u1 p.cruise)) (rampDistance (p.fall p.cruise p.stop))
    let vp := if full ≤ d1 then p.cruise else p.peak u1 p.stop d1
    let up := p.rise u1 vp
    let down := p.fall vp p.stop
    let hold : List Segment :=
      if d1 < full then []
      else if vp = 0 then (if 0 < d1 then [{ span := 0, pos := x1, speed := 0, accel := 0, forever := true }] else [])
      else [{ span := fDiv (fSub d1 full) vp, pos := fAdd x1 (sign * rampDistance up), speed := sign * vp, accel := 0 }]
    layRamps sign x1 up ++ hold ++ layRamps sign (fSub (fAdd x (sign * d)) (sign * rampDistance down)) down)

/-- The direction from one position to another. -/
def direction (x target : Rat) : Rat := if target < x then -1 else 1

/-- A plan from a set-point and a signed speed to a target (R340 to R343). Without a speed the axis is at rest, and steps to v_s'; a motion in
force is taken over at its speed, be it 0 in the middle of a reversal, without a step. -/
def PlanValues.plan (p : PlanValues) (x : Rat) (speed : Option Rat) (target : Rat) : List Segment :=
  let d := absRat (fSub target x)
  let dir := direction x target
  match speed with
  | none => if d = 0 then [] else p.ahead dir x p.start d
  | some v =>
    let vdir : Rat := if v < 0 then -1 else 1
    let u := absRat v
    if dir = vdir ∧ rampDistance (p.fall u p.stop) ≤ d then p.ahead dir x u d
    else
      let down := layRamps vdir x (p.fall u 0)
      let x1 := endOf x down
      let d1 := absRat (fSub target x1)
      if d1 = 0 then down else down ++ p.ahead (direction x1 target) x1 0 d1

/-- A ramp stop from a set-point and a signed speed (R346). -/
def PlanValues.rampStop (p : PlanValues) (x v : Rat) : List Segment :=
  let vdir : Rat := if v < 0 then -1 else 1
  layRamps vdir x (p.fall (absRat v) p.stop)

/-- Position, signed speed and acceleration at time t of a plan; after its end, the target at rest. -/
def profileAt (target : Rat) : List Segment → Rat → Rat × Rat × Rat
  | [], _ => (target, 0, 0)
  | g :: rest, t =>
    if g.forever || t < g.span then (g.posAt t, fAdd g.speed (fMul g.accel t), g.accel)
    else profileAt target rest (fSub t g.span)

/-- The length of a plan in seconds. -/
def planSpan (l : List Segment) : Rat := (l.map (·.span)).foldl fAdd 0

/-- A plan is over a time after its start; one that holds a speed of 0 never is (R340). -/
def planOver (l : List Segment) (t : Rat) : Bool := l.all (fun g => !g.forever) && decide (planSpan l ≤ t)

/-! ## Axes -/

/-- The state with an axis changed. -/
def State.updAxis (s : State) (n : Nat) (f : Axis → Axis) : State := { s with axes := Tbl.upd {} s.axes n f }

/-- The servo period in seconds: m × 31.25 µs. -/
def Axis.period (a : Axis) : Rat := fDiv (a.m : Rat) 32000

/-- The set-point as a rational. -/
def Axis.setPoint (a : Axis) : Rat := a.setCount + (a.setFrac : Rat) / 65536

/-- Where a motion has the axis at a servo tick. -/
def Axis.at (a : Axis) (tick : Nat) : Rat × Rat × Rat :=
  match a.motion with
  | none => (a.setPoint, 0, 0)
  | some m => profileAt m.target m.segments (fMul ((tick - m.startTick : Nat) : Rat) a.period)

/-- The speed at the next servo tick of a motion in force: none at rest, which is also where a motion ends, and where one that began from
rest still is while none of its set-points has been sent (R342, R343). -/
def Axis.moving (a : Axis) : Option Rat :=
  match a.motion with
  | none => none
  | some m =>
    if m.startTick = a.servo + 1 then m.began
    else if planOver m.segments (fMul ((a.servo + 1 - m.startTick : Nat) : Rat) a.period) then none
    else some (a.at (a.servo + 1)).2.1

/-- An axis command completes with its result words: AXS_n_POS and AXS_n_STATUS (R327). -/
def State.finishAxis (s : State) (n seq : Nat) (st : Status) (detail : BitVec 32 := 0) : State :=
  s.finish seq st detail (w32i (s.axisPosition n)) (s.axisStatus n)

/-- The state an axis shows at rest. -/
def Axis.restState (a : Axis) : AxisState := if a.faultStop then .faultStop else .rest

/-- AXIS_STOPs of an axis complete when every axis they name is at rest (R346): entries wait as (seq × 16 + mask). -/
def State.settleStops (s : State) (n : Nat) : State :=
  let a := s.axis n
  if !a.atRest then s
  else
    let s1 := s.updAxis n fun a => { a with stops := [] }
    a.stops.foldl (fun s q =>
      if (List.range 4).all fun i => !has q (s.axis i).stops then s.finishAxis n q .ok else s) s1

/-- The motion in force ends with the axis at rest, and its command completes. -/
def State.endMotion (s : State) (n : Nat) (st : Status) (detail : BitVec 32) : State :=
  let a := s.axis n
  match a.motion with
  | none => s
  | some m =>
    let s1 := s.updAxis n fun a => { a with motion := none, speed := 0, state := a.restState }
    let s2 := match m.seq with
      | some q => s1.finishAxis n q st detail
      | none => s1
    s2.settleStops n

/-- What a motion's end status says besides the statuses of R310: a home search follows, or the axis is homed. -/
def searchNext : Nat := 0x100
def homedNext : Nat := 0x101

/-- The status of a code that an axis motion ends with. -/
def motionStatus : Nat → Status
  | 0 => .ok
  | 0xB => .unitFenced
  | _ => .cancelled

/-- A ramp stop (R346) for a cause of a rank of R348: the motion's command completes at rest with the given status and
detail. A ramp stop in progress is never reshaped; within one servo period the higher cause gives the detail, any cause ends a home
search that was to follow, and an axis fault has the command end with CANCELLED and detail bit 4 besides (R350). -/
def State.rampStop (s : State) (n rank : Nat) (status : Nat) (detail : BitVec 32) : State :=
  let a := s.axis n
  match a.motion, a.limits with
  | some m, some l =>
    if m.kind = .stop then
      if m.endStatus = searchNext ∨ (m.startTick = a.servo + 1 ∧ rank < m.rank) then
        s.updAxis n fun a => { a with motion := some { m with rank := rank, endStatus := status, endDetail := detail } }
      else if rank = 2 then
        s.updAxis n fun a => { a with motion := some { m with rank := 2, endStatus := status, endDetail := m.endDetail ||| detail } }
      else s
    else
      let p := a.at (a.servo + 1)
      let segs := (l.values m.cruise).rampStop p.1 (a.moving.getD 0)
      let m1 : Motion := { kind := .stop, seq := m.seq, target := endOf p.1 segs, cruise := m.cruise, segments := segs, began := a.moving
                           startTick := a.servo + 1, endStatus := status, endDetail := detail, rank := rank }
      s.updAxis n fun a => { a with motion := some m1, state := .rampStop }
  | _, _ => s

/-- A hard stop: the axis is at rest at the last set-point sent (R347). -/
def State.hardStop (s : State) (n : Nat) (status : Nat) (detail : BitVec 32) : State :=
  s.endMotion n (motionStatus status) detail

/-- Every moving axis makes a ramp stop (R175, R374). -/
def State.stopAxes (s : State) (rank status : Nat) (detail : BitVec 32) : State :=
  (List.range 4).foldl (fun s n => s.rampStop n rank status detail) s

/-- Every axis is at rest. -/
def State.axesAtRest (s : State) : Bool := (List.range 4).all fun n => (s.axis n).atRest

end Sys2Proof.Machine
end

