-- ==== Sys2Proof/Machine/Collector.lean ====
section
/-!
DEFINITION. Machine/Collector.lean: the fault collector (R369 to R384): the class map, what a detection does
(record, counts, latches, first capture, FAULT_N, vector 8), reaction windows, injections, and entry to the
fault state.
-/

namespace Sys2Proof.Machine

/-! ## Classes (R370 to R372) -/

/-- The codes of the detector inventory with their default classes. -/
def classTable : List (Nat × Nat) :=
  [(0x0101, 0), (0x0102, 1), (0x0201, 0), (0x0202, 3), (0x0203, 3), (0x0301, 1), (0x0401, 1), (0x0402, 1),
   (0x0403, 1), (0x0404, 1), (0x0501, 0), (0x0502, 1), (0x0503, 1), (0x0504, 1), (0x0505, 1), (0x0506, 1)]
  ++ [(0x0507, 2), (0x0508, 3), (0x0509, 1), (0x0601, 0), (0x0602, 1), (0x0603, 2), (0x0604, 1), (0x0605, 2),
   (0x0701, 2), (0x0702, 2), (0x0703, 2), (0x0704, 3), (0x0801, 2), (0x0802, 2), (0x0803, 2), (0x0804, 2)]
  ++ [(0x0805, 2), (0x0806, 0), (0x0807, 2), (0x0808, 1), (0x0901, 1), (0x0902, 2), (0x0A01, 2), (0x0A02, 2),
   (0x0A03, 2), (0x0A04, 2), (0x0B01, 0), (0x0B02, 1), (0x0B03, 2), (0x0B04, 3), (0x0C01, 3), (0x0C02, 2)]
  ++ [(0x0C03, 3), (0x0C04, 3), (0x0D01, 1), (0x0E01, 1), (0x0F01, 3), (0x0F02, 3), (0x0F03, 3)]

/-- The codes that may be lowered from C2 to C1 (R371, R372). -/
def adjustable : List Nat := [0x0703, 0x0902, 0x0A01, 0x0A02, 0x0A03]

/-- The default class of a code; `none` for a code that is not assigned. -/
def defaultClass (code : Nat) : Option Nat := SMap.find? code classTable

/-- The class of a code in the class map. -/
def State.classOf (s : State) (code : Nat) : Nat :=
  (SMap.find? code s.flt.classMap).getD ((defaultClass code).getD 0)

/-! ## Reaction windows (R380) -/

/-- The unit index of a block. -/
def blockIndex : ResetBlock → Nat
  | .pennant p => p
  | .decompressor u => u
  | .lane l => l
  | .headPort p => p
  | .halyard sd => (match sd with | .e => 0 | .w => 1)
  | .axis a => a

/-- The shadow set of a block reset. -/
def shadows (b : ResetBlock) (code unit : Nat) : Bool :=
  unit == blockIndex b && match b with
  | .pennant _ => code / 256 == 0x05 || code == 0x0604
  | .decompressor _ => code == 0x0401 || code == 0x0403 || code == 0x0604
  | .lane _ => code == 0x0402 || code == 0x0404
  | .headPort _ => code / 256 == 0x08 || code == 0x0605
  | .halyard _ => code == 0x0901
  | .axis _ => code == 0x0A01 || code == 0x0A02 || code == 0x0A03

/-- Whether a reaction window is open: until its block reports, and 2 µs at most. -/
def Window.isOpen (w : Window) (now : Nat) : Bool := decide (now ≤ w.since + 2000)

/-- Whether any reaction window is open. -/
def State.windowOpen (s : State) : Bool := s.flt.windows.any fun w => w.isOpen s.now

/-- The recording state of a code and unit. -/
def State.throttle (s : State) (code unit : Nat) : Throttle :=
  (s.flt.throttles.find? fun t => t.code == code && t.unit == unit).getD
    { code := code, unit := unit, records := [], last := 0, suppressed := false, unrecorded := 0 }

/-- A block reset is issued: its reaction window opens, with the parent fault's code (0 for RESET_UNIT) and the class it was taken with. -/
def State.openWindow (s : State) (b : ResetBlock) (parent : Nat) : State :=
  let w : Window := { block := b, since := s.now, parent := parent, cls := (s.throttle parent (blockIndex b)).cls }
  { s with flt := { s.flt with
    windows := w :: s.flt.windows.filter (fun x => x.isOpen s.now && x.block != b), shadowParent := parent, shadowHits := 0 } }

/-! ## Injections (R382 to R384) -/

/-- The code a shot raises; `none` where the checker only counts or is not listed (R383). -/
def injectedCode (checker unit : Nat) (double : Bool) : Option Nat :=
  match checker with
  | 0x01 => some (if double then 0x0202 else 0x0201)
  | 0x02 => some 0x0203
  | 0x03 => some (if double then 0x0102 else 0x0101)
  | 0x04 => some 0x0301
  | 0x05 => some 0x0401
  | 0x06 => some 0x0402
  | 0x07 => some (if double then 0x0502 else 0x0501)
  | 0x08 => some 0x0503
  | 0x09 => some 0x0504
  | 0x0A => some (if !double then 0x0601 else if unit = 2 then 0x0603 else 0x0602)
  | 0x0B => some (if unit = 0 then 0x0604 else 0x0605)
  | 0x0C => some 0x0704
  | 0x0D => some (if double then 0x0805 else 0x0806)
  | 0x10 => some (if !double then 0x0B01 else if unit = 4 then 0x0B03 else 0x0B02)
  | 0x11 => some (if unit = 4 then 0x0B03 else 0x0B02)
  | 0x12 => some 0x0E01
  | 0x13 => some 0x0F03
  | 0x14 => some 0x0C02
  | _ => none

/-- How many units a checker has; 0 for a checker that is not listed (R383). -/
def checkerUnits (checker : Nat) : Nat :=
  match checker with
  | 0x01 | 0x02 | 0x03 | 0x04 | 0x0C | 0x12 | 0x13 | 0x14 => 1
  | 0x05 => 4
  | 0x06 => 32
  | 0x07 | 0x08 | 0x09 => 16
  | 0x0A => 3
  | 0x0B | 0x0E => 2
  | 0x0D => 32
  | 0x0F => 4
  | 0x10 | 0x11 => 6
  | _ => 0

/-- Whether a checker's unit index is the one its fault codes carry. -/
def unitNamed (checker : Nat) : Bool := has checker [0x05, 0x06, 0x07, 0x08, 0x09, 0x0A, 0x0D, 0x10, 0x11]

/-- Whether a detection is the one that the shot at the front of the requests brings about. A row-line with an inverted CRC is fired from its
resend, or lost where there is no time for one (R183). -/
def Injection.raises (i : Injection) (code unit : Nat) : Bool :=
  if i.checker = 0x0D then i.out && i.unit == unit && (code == 0x0805 || code == 0x0806)
  else injectedCode i.checker i.unit i.double == some code && (!unitNamed i.checker || i.unit == unit)

/-- A FAULT_INJECT ends: OK with the shots fed and the first code raised (R329, R384). With the staff core halted no firmware
completes it (R374). -/
def State.endInjection (s : State) (i : Injection) : State :=
  match i.seq with
  | some q => if s.flt.staffHalt then s else s.finish q .ok 0 (w32 i.fed) (w32 i.firstCode)
  | none => s

/-- A shot of the front request has been fed, raising a code (0 where the checker only counts). -/
def State.shotFed (s : State) (code : Nat) : State :=
  match s.flt.injections with
  | [] => s
  | i :: rest =>
    let j := { i with left := i.left - 1, fed := i.fed + 1, firstCode := if i.fed = 0 then code else i.firstCode, out := false }
    if j.left = 0 then { s with flt := { s.flt with injections := rest } }.endInjection j
    else { s with flt := { s.flt with injections := j :: rest } }

/-- An error of a checker that only counts: the front request's shot, if it is for that checker and unit, has been fed (R383). -/
def State.countShot (s : State) (checker unit : Nat) : State :=
  match s.flt.injections with
  | [] => s
  | i :: _ => if i.checker == checker && i.unit == unit then s.shotFed 0 else s

/-- A reset of a checker's unit drops its shots (R384). -/
def State.dropInjections (s : State) (p : Injection → Bool) : State :=
  let gone := s.flt.injections.filter p
  let kept := s.flt.injections.filter fun i => !p i
  gone.foldl State.endInjection { s with flt := { s.flt with injections := kept } }

/-! ## Recording and capture (R373, R378, R400) -/

/-- What a detector reports. A parameter that the manual does not lay out (`none`) is a free value: R400 calls it specific to the
detector. `fatal` raises a fence's own code as C3 (R377). -/
structure Detection where
  code : Nat
  unit : Nat := 0
  p0 : Option (BitVec 32) := none
  p1 : Option (BitVec 32) := none
  p2 : Option (BitVec 16) := none
  fatal : Bool := false
deriving DecidableEq, Repr

/-- The three parameters of a detection, the open ones free (R400); of the third, bits 15:0. -/
def State.faultParams (s : State) (d : Detection) : (BitVec 32 × BitVec 32 × Nat) × State :=
  ((d.p0.getD (w32 (Config.freeNat s.free)), d.p1.getD (w32 (Config.freeNat (s.free + 1))), (d.p2.map (·.toNat)).getD (Config.freeNat (s.free + 2) % 65536)),
    { s with free := s.free + 3 })

/-- The state with the recording state of a code and unit set. -/
def State.setThrottle (s : State) (t : Throttle) : State :=
  { s with flt := { s.flt with
    throttles := t :: s.flt.throttles.filter fun x => !(x.code == t.code && x.unit == t.unit) } }

/-- The record of a detection, unless 16 records of its code and unit within 1 s hold it back (R373); bits
30:16 of parameter 2 carry the detections left unrecorded, bit 31 the injected mark (R400). The flag tells
whether a record was made, and the word is its parameter 2. -/
def State.recordFault (s : State) (d : Detection) (q : BitVec 32 × BitVec 32 × Nat) (cls : Nat) (injected : Bool) :
    State × Bool × BitVec 32 :=
  let t := s.throttle d.code d.unit
  let recent := t.records.filter fun m => decide (s.now < m + 1000000000)
  if t.suppressed || decide (16 ≤ recent.length) then
    (s.setThrottle { t with records := recent, last := s.now, suppressed := true, unrecorded := t.unrecorded + 1, cls := cls }, false,
      w32 (q.2.2 + (if injected then 2 ^ 31 else 0)))
  else
    let p2 := w32 (q.2.2 + min t.unrecorded 32767 * 65536 + (if injected then 2 ^ 31 else 0))
    let s1 := s.setThrottle { t with records := s.now :: recent, last := s.now, unrecorded := 0, cls := cls }
    (s1.note { code := d.code, unit := d.unit, severity := cls + 1, p0 := q.1, p1 := q.2.1, p2 := p2 }, true, p2)

/-- A class count raised by 1, stopping at 255. -/
def Flt.count (f : Flt) (cls : Nat) : Flt :=
  match cls with
  | 0 => { f with count0 := min (f.count0 + 1) 255 }
  | 1 => { f with count1 := min (f.count1 + 1) 255 }
  | 2 => { f with count2 := min (f.count2 + 1) 255 }
  | _ => { f with count3 := min (f.count3 + 1) 255 }

/-- The sentinel cycle of a moment, 20 ns long (R373; DESIGN CHOICE, log 103: the nominal period, from a moment left free). -/
def sentinelCycle (t : Nat) : Nat := (t + Config.sentinelPhase) / 20

/-- Whether a capture was made in the sentinel cycle of a moment. -/
def Capture.inCycle (c : Capture) (now : Nat) : Bool := sentinelCycle c.since == sentinelCycle now

/-- The capture that a further fault leaves: it replaces one of a lower class (R378). -/
def Capture.after (c : Capture) (held : Option Capture) : Option Capture :=
  match held with
  | some x => if c.cls ≤ x.cls then some x else some c
  | none => some c

/-- The counts, the latches and the first capture of a fault (R370, R378). -/
def State.latch (s : State) (d : Detection) (q : BitVec 32 × BitVec 32 × Nat) (cls : Nat) (injected made : Bool) (p2 : BitVec 32) :
    State :=
  let f := s.flt.count cls
  let f1 := { f with latchClass := f.latchClass ||| BitVec.ofNat 4 (2 ^ cls) }
  if cls = 0 then { s with flt := f1 }
  else
    let c : Capture :=
      { code := d.code, unit := d.unit, cls := cls, injected := injected, timeValid := s.stamp.1, time := s.stamp.2, since := s.now
        cause0 := if made then w32 s.evt.newest else 0, cause1 := q.1, cause2 := q.2.1, cause3 := p2 }
    { s with flt := { f1 with
      latchBlock := f1.latchBlock ||| BitVec.ofNat 16 (2 ^ (d.code / 256))
      first := c.after f1.first
      recent := c.after (f1.recent.filter fun x => x.inCycle s.now) } }

/-! ## The fault state (R374, R375) -/

/-- A fault of the staff core halts it (R372, R374). -/
def State.haltStaff (s : State) (code : Nat) : State :=
  { s with flt := { s.flt with staffHalt := s.flt.staffHalt || code == 0x0202 || code == 0x0203 } }

/-- Entry to the fault state: printing disarms in the immediate form, and every moving axis makes a ramp stop. READY goes low with the
state (`readyPin`). -/
def State.enterFaultState (s : State) (code : Nat) : State :=
  let s1 := { s with
    flt := { s.flt with
      faultState := true, enteredAt := s.now, armedAtFault := s.pos.armed, speedZero := false, expireAt := none }
    power := { s.power with resetFault := code / 256 } }
  (s1.disarmNow (code / 256)).stopAxes 2 7 0

/-- The effects of a fault's class on the pin, the vector and the fault state (R370, R375, R381). -/
def State.classEffects (s : State) (d : Detection) (cls : Nat) : State :=
  if cls < 2 then s
  else
    let s1 := { s with flt := { s.flt with pulseEnd := some (s.now + 20000) } }.interrupt 8
    if cls < 3 then s1
    else if s1.flt.faultState then s1.haltStaff d.code
    else (s1.enterFaultState d.code).haltStaff d.code

/-- Whether the detectors are held off: during a power-on reset, and during a warm reset those of the blocks that it resets, which are not
the position domain, the event buffer, the clocks and supplies and the sentinel, nor the endpoint but at PERST_N (R380, R392, R449,
R450; DEDUCED, log 104). -/
def State.heldOff (s : State) (code : Nat) : Bool :=
  match s.power.phase with
  | .powerOnReset => true
  | .warmReset => !(has (code / 256) [0x07, 0x0C, 0x0E, 0x0F] || (code / 256 == 0x01 && s.power.resetCause != 1))
  | _ => false

/-- The open reaction window that shadows a detection, the last one opened first (R380). -/
def State.shadowWindow (s : State) (code unit : Nat) : Option Window :=
  s.flt.windows.find? fun w => w.isOpen s.now && shadows w.block code unit

/-- Whether a detection is shadowed by an open reaction window (R380). -/
def State.shadowed (s : State) (code unit : Nat) : Bool := (s.shadowWindow code unit).isSome

/-- A shadowed hit: recorded with its parent's code and class, and counted in FLT_SHADOW.HITS only (R380, R400). The parent of a
RESET_UNIT is no fault: code 0 and severity 0 (DESIGN CHOICE, log 105). -/
def State.shadowHit (s : State) (w : Window) (d : Detection) (injected : Bool) : State :=
  let s1 := s.note { code := w.parent, unit := d.unit, severity := if w.parent = 0 then 0 else w.cls + 1
                     shadowed := true, p0 := w32 (d.code + d.unit * 65536), p2 := w32 (if injected then 2 ^ 31 else 0) }
  { s1 with flt := { s1.flt with shadowHits := min (s1.flt.shadowHits + 1) 255 } }

/-- A detection that no window shadows is classed, recorded, counted and latched, and has the effects of its class (R370, R373). -/
def State.newFault (s : State) (d : Detection) (injected : Bool) : State :=
  let cls := if d.fatal then 3 else s.classOf d.code
  let q := s.faultParams d
  let r := q.2.recordFault d q.1 cls injected
  (r.1.latch d q.1 cls injected r.2.1 r.2.2).classEffects d cls

/-- A detection reaches the fault collector (R373): one whose detectors are held off is none, and a shadowed hit is no new fault. While a
shot is pending, the checker's next checked transfer carries it: what that checker detects is the shot's (R382). -/
def State.detect (s : State) (d : Detection) : State :=
  if s.heldOff d.code then s
  else
    let injected := s.flt.injections.head?.any fun i => i.raises d.code d.unit
    let s1 := match s.shadowWindow d.code d.unit with
      | some w => s.shadowHit w d injected
      | none => s.newFault d injected
    if injected then s1.shotFed d.code else s1

/-- A happening that only a fault of a code and unit brings about: none while its detectors are held off, and in a reaction window that
shadows them the hit alone (R380). -/
def State.unlessShadowed (s : State) (d : Detection) (f : State → State) : State :=
  if s.heldOff d.code || s.shadowed d.code d.unit then s.detect d else f s

/-- A detection that carries its code and unit alone. -/
def State.fault (s : State) (code : Nat) (unit : Nat := 0) : State := s.detect { code := code, unit := unit }

/-! ## Shots at their checkers (R382, R383) -/

/-- The shot that a checked transfer of a checker and unit carries: the front request's. -/
def State.shot? (s : State) (checker unit : Nat) : Option Injection :=
  s.flt.injections.head?.filter fun i => i.checker == checker && i.unit == unit

/-- The code that the shot of a checked transfer raises. -/
def State.shotCode (s : State) (checker unit : Nat) : Option Nat :=
  (s.shot? checker unit).bind fun i => injectedCode i.checker i.unit i.double

/-- Whether a checked transfer carries a shot. -/
def State.shotAt (s : State) (checker unit : Nat) : Bool := (s.shot? checker unit).isSome

/-- Whether the CRC of a row-line of a port goes out inverted (checker 0x0D): the first sending of a shot, and the resend of a double one. -/
def State.inverts (s : State) (n : Nat) (again : Bool) : Bool := (s.shot? 0x0D n).any fun i => i.out == again && (!again || i.double)

/-- The shot at the front of the requests is out. -/
def State.shotOut (s : State) : State :=
  { s with flt := { s.flt with injections := match s.flt.injections with
    | i :: rest => { i with out := true } :: rest
    | [] => [] } }

/-- The checkers that check something in every cycle: staff SRAM, staff lockstep, and the registers of the position domain and of the
fault collector. -/
def continuous (checker : Nat) : Bool := has checker [0x01, 0x02, 0x0C, 0x13]

/-- Shots of checkers that check in every cycle are fed at once, one after another (R383; DEDUCED, log 106). -/
def State.feedUpTo : Nat → State → State
  | 0, s => s
  | n + 1, s =>
    match s.flt.injections.head?.filter fun i => continuous i.checker with
    | none => s
    | some i => match injectedCode i.checker i.unit i.double with
      | some c => feedUpTo n (s.fault c)
      | none => s

/-- The shots that can be fed at once. -/
def State.feedShots (s : State) : State := State.feedUpTo ((s.flt.injections.map (·.left)).sum) s

/-- A bit of FLT_LIVE set or cleared: a condition of a block is present now. -/
def State.live (s : State) (block : Nat) (on : Bool) : State :=
  let b := BitVec.ofNat 16 (2 ^ block)
  { s with flt := { s.flt with live := if on then s.flt.live ||| b else s.flt.live &&& ~~~ b } }

/-- Stops every commit until printing is armed again, for a block (R145, R153, R159); pages with unfired lines
are spoiled. -/
def State.stopFiring (s : State) (block : Nat) : State :=
  ({ s with pos := { s.pos with stopped := true, stoppedBlock := block, pending := [] } }).spoilPrinting block

end Sys2Proof.Machine
end

