-- ==== Sys2Proof/Machine/Stored.lean ====
section
/-!
DEFINITION. Machine/Stored.lean: the items that the configuration flash keeps in the two-copy form, byte by byte: the boot record, the
calibration set and the head entries, when a copy of each is valid, and which copy is in force (R232, R423 to R425, R443, R444).
-/

namespace Sys2Proof.Machine

/-! ## Copies (R425) -/

/-- A copy as it is written: the item with its header, and the CRC-32C of the bytes before the check. -/
def sealAs {α : Type} (body : Stored α → List Byte) (magic version length : Nat) (v : α) : Stored α :=
  { item := v, magic := magic, version := version, length := length
    check := crc32c (body { item := v, magic := magic, version := version, length := length, check := 0 }) }

/-- Whether a copy is valid: its check holds, and its header is correct. -/
def Stored.valid {α : Type} (body : Stored α → List Byte) (magic version length : Nat) (c : Stored α) : Bool :=
  c.check == crc32c (body c) && c.magic == magic && c.version == version && c.length == length

/-- The item of a valid copy. -/
def readCopy {α : Type} (body : Stored α → List Byte) (magic version length : Nat) (o : Option (Stored α)) : Option α :=
  (o.filter (Stored.valid body magic version length)).map (·.item)

/-- The later of two generations by distance mod 2^32 (R425). -/
def laterGen (a b : Nat) : Bool := decide (1 ≤ (a + 2 ^ 32 - b) % 2 ^ 32 ∧ (a + 2 ^ 32 - b) % 2 ^ 32 < 2 ^ 31)

/-- Whether copy B is the copy in force (R425); `none` if neither copy is valid. -/
def inForceB {α : Type} (gen : α → Nat) (a b : Option α) : Option Bool :=
  match a, b with
  | none, none => none
  | some _, none => some false
  | none, some _ => some true
  | some x, some y => some (laterGen (gen y) (gen x))

/-- The copy in force. -/
def inForce {α : Type} (gen : α → Nat) (a b : Option α) : Option α :=
  match inForceB gen a b with
  | none => none
  | some true => b
  | some false => a

/-! ## The boot record (R444) -/

/-- Bytes 0 to 59 of a boot record. -/
def bootBody (c : Stored BootRecord) : List Byte :=
  leBytes 4 c.magic ++ leBytes 1 c.version ++ leBytes 1 c.item.slot ++ leBytes 2 0 ++ leBytes 4 c.item.generation ++ leBytes 3 c.item.epoch
  ++ leBytes 45 0

/-- The magic of a boot record: 0x42, 0x54, 0x52, 0x43. -/
def bootMagic : Nat := 0x43525442

/-- A boot record as written, and as read. -/
def sealBoot (r : BootRecord) : Stored BootRecord := sealAs bootBody bootMagic 1 0 r
def readBoot (o : Option (Stored BootRecord)) : Option BootRecord := readCopy bootBody bootMagic 1 0 o

/-! ## The calibration set (R424) -/

/-- A 32-byte entry of RING_STATUS (R325). -/
def statusEntry (identity node colour role flags : Nat) (offset : Int) (limit cause : Nat) : List Byte :=
  leBytes 16 identity ++ leBytes 1 node ++ leBytes 1 colour ++ leBytes 1 role ++ leBytes 1 flags
  ++ leBytes 8 (BitVec.ofInt 64 offset).toNat ++ leBytes 2 (min 65535 (limit / 100)) ++ leBytes 1 cause ++ leBytes 1 0

/-- The flags of an entry: eligible, reached, calibration awaiting check. -/
def entryFlags (eligible reached check : Bool) : Nat := b2n eligible + 2 * b2n reached + 4 * b2n check

/-- The stored roster: 16 entries in the layout of RING_STATUS, by node. What that layout shows of the moment (the role, whether the node is
reached, its limit) is 0 in it (DESIGN CHOICE, log 110). -/
def rosterBytes (l : List RosterEntry) : List Byte :=
  (List.range 16).flatMap fun n => match l.find? fun e => e.node == n with
    | some e => statusEntry e.identity n e.colour 0 (entryFlags e.eligible false e.calCheck) e.webOffset 0 0
    | none => leBytes 32 0

/-- Bytes 0 to 16,379 of a calibration set copy. -/
def calBody (c : Stored CalSet) : List Byte :=
  let v := c.item
  leBytes 4 c.magic ++ leBytes 1 c.version ++ leBytes 3 0 ++ leBytes 4 v.generation ++ leBytes 4 c.length ++ leBytes 16 v.writer
  ++ leBytes 4 v.overflow ++ leBytes 4 0 ++ ((List.range 32).flatMap fun n => leBytes 16 (Tbl.get 0 v.barHeads n)) ++ rosterBytes v.roster
  ++ ((List.range 512).flatMap fun n => leBytes 2 (Tbl.get 0 v.selections n)) ++ ((List.range 8192).map fun n => Tbl.get 0 v.training n)
  ++ ((List.range 64).flatMap fun n => leBytes 4 (Tbl.get 0 v.directory n) ++ leBytes 4 0) ++ leBytes 5588 0

/-- The magic of a calibration set: 0x43, 0x41, 0x4C, 0x53. -/
def calMagic : Nat := 0x534C4143

/-- A calibration set copy as written, and as read. -/
def sealCal (v : CalSet) : Stored CalSet := sealAs calBody calMagic 1 16384 v
def readCal (o : Option (Stored CalSet)) : Option CalSet := readCopy calBody calMagic 1 16384 o

/-! ## Head entries (R232) -/

/-- A sparse table laid out from index `i` for `n` entries; what is not listed takes a default. -/
def spread {α : Type} (d : α) : Nat → Nat → List (Nat × α) → List α
  | 0, _, _ => []
  | n + 1, i, [] => d :: spread d n (i + 1) []
  | n + 1, i, (j, v) :: m => if j = i then v :: spread d n (i + 1) m else d :: spread d n (i + 1) ((j, v) :: m)

/-- Bytes 0 to 26,655 of a head entry. -/
def HeadEntry.body (h : HeadEntry) : List Byte :=
  leBytes 16 h.serial ++ leBytes 4 h.saveCount ++ List.replicate 12 0 ++ spread 0 4096 0 h.states
  ++ ((spread 0 4096 0 h.drops).flatMap (leBytes 4)) ++ ((spread 16384 2048 0 h.kappa).flatMap (leBytes 2))
  ++ ((spread 0 2048 0 h.offset).map (BitVec.ofInt 8))

/-- A head entry copy as written, and as read; an entry has no header. -/
def sealHead (v : HeadEntry) : Stored HeadEntry := sealAs (fun c => c.item.body) 0 0 0 v
def readHead (o : Option (Stored HeadEntry)) : Option HeadEntry := readCopy (fun c => c.item.body) 0 0 0 o

/-- The head entry in force in a slot; the save count is its generation (R425). -/
def HeadSlot.entry (h : HeadSlot) : Option HeadEntry := inForce (·.saveCount) (readHead h.copyA) (readHead h.copyB)

/-! ## The layout of the flash (R423, R443) -/

/-- The sector size, the base of the calibration area, and its length: 130 sectors. -/
def sectorSize : Nat := 0x10000
def calBase : Nat := 0x2100000
def calLength : Nat := 130 * sectorSize

/-- Where a copy of an item of the calibration area lies in it: item 64 is the calibration set, 0 to 63 a head entry slot. -/
def calOffset (item : Nat) (copyB : Bool) : Nat := (if item = 64 then 0 else 0x20000 + 0x20000 * item) + sectorSize * b2n copyB

/-- The bytes written at the start of a sector of the calibration area; the rest of the sector is erased. -/
def Flash.calSector (f : Flash) (i : Nat) : List Byte :=
  let copy := fun {α : Type} (body : Stored α → List Byte) (o : Option (Stored α)) =>
    (o.map fun c => body c ++ leBytes 4 c.check.toNat).getD []
  if i = 0 then copy calBody f.calA
  else if i = 1 then copy calBody f.calB
  else
    let h := Tbl.get {} f.heads (i / 2 - 1)
    copy (fun c => c.item.body) (if i % 2 = 0 then h.copyA else h.copyB)

end Sys2Proof.Machine
end

