-- ==== Sys2Proof/Machine/Flags.lean ====
section
/-!
DEFINITION. Machine/Flags.lean: the status words and register views of the host interface, the journal, the
fault collector, the event recorder, the SDRAM controller, the calibration block and the power block: what a
read of each register shows of the state (chapters 09, 12 to 16), and READY, FAULT_N and the records behind
the windows.
-/

namespace Sys2Proof.Machine

/-! ## Packing -/

/-- A bit in place `i` of a word. -/
def flag (i : Nat) (b : Bool) : Nat := if b then 2 ^ i else 0

/-- A value of `n` bits in place `lo`. -/
def field (lo n v : Nat) : Nat := v % 2 ^ n * 2 ^ lo

/-- A word built of disjoint fields. -/
def word (l : List Nat) : BitVec 32 := BitVec.ofNat 32 l.sum

/-- One of the two halves of a 64-bit value. -/
def half (v : BitVec 64) (high : Bool) : BitVec 32 := if high then w32 (v.toNat / 2 ^ 32) else w32 v.toNat

/-- A 32-bit word of a byte string. -/
def wordAt (l : List Byte) (off : Nat) : BitVec 32 := w32 (leAt l off 4)

/-! ## Pins (R381, R455) -/

/-- MODE as ID_MODE reports it (R3). -/
def Mode.code : Mode → Nat
  | .native => 1
  | .hb8 => 2
  | .factory => 3

/-- A warm reset is in progress, until device firmware restarts (R450). -/
def State.resetting (s : State) : Bool := s.power.phase == .warmReset || s.power.phase == .retuned

/-- The configuration flash is left alone but for event commits, which a warm reset holds too (R468). -/
def State.flashQuiet (s : State) : Bool := s.resetting || s.flt.faultState

/-- READY: driven high while firmware serves the mailboxes, no start-up or recovery episode is open, and the
device is neither in the fault state nor in standby; floating through power-on reset (R433, R455). -/
def State.readyPin (s : State) : PinLevel :=
  if s.power.phase = .powerOnReset then .floating
  else if s.host.ready && s.power.phase == .running && !has 0 s.evt.openers && !has 3 s.evt.openers
      && !s.flt.faultState && !s.power.standby then .high
  else .low

/-- FL_RESET_N: low for 10 µs from the end of power-on reset, with which the device time count starts, and high from then on (R479). -/
def State.flResetPin (s : State) : PinLevel :=
  if s.power.phase = .powerOnReset then .floating else if s.now < 10000 then .low else .high

/-- FAULT_N: low through a pulse, then as FLT_PIN.LEVEL says; released means floating (R381). -/
def State.faultPin (s : State) : PinLevel :=
  if s.power.phase = .powerOnReset then .floating
  else if s.flt.pulseEnd.isSome || !s.flt.pinLevel then .low else .floating

/-! ## Identity and mailboxes (chapter 09) -/

/-- ID_MODE. -/
def State.idMode (s : State) : BitVec 32 :=
  word [s.power.mode.code, flag 2 s.power.mgrEn, flag 3 s.fuses.hb8, flag 4 s.host.bar2Open, flag 5 s.host.jtagOpen]

/-- ID_CONFIG. -/
def State.idConfig (s : State) : BitVec 32 :=
  word [field 0 7 s.dmc.gigabytes, flag 8 s.dmc.ranks2, flag 9 s.dmc.ranks2]

/-- Whether a command queue is disabled with no entry in progress; the acceptance of an entry is one step. -/
def State.cqIdle (s : State) (n : Nat) : Bool := !(Tbl.get {} s.host.cq n).enabled

/-- MBX_CTRL. -/
def State.mbxCtrl (s : State) : BitVec 32 :=
  word ((List.range 8).map (fun n => flag n (Tbl.get {} s.host.cq n).enabled)
    ++ (List.range 8).map fun n => flag (8 + n) (Tbl.get {} s.host.cc n).enabled)

/-- MBX_STATUS. -/
def State.mbxStatus (s : State) : BitVec 32 :=
  word ((List.range 8).map (fun n => flag n (s.cqIdle n))
    ++ (List.range 8).map (fun n => flag (8 + n) (!(Tbl.get {} s.host.cc n).held.isEmpty))
    ++ [flag 16 s.host.jnlWait, flag 17 (s.host.ready && !s.flt.staffHalt), flag 18 s.flt.faultState, flag 19 s.pos.armed, field 20 4 s.host.resetKind]
    ++ (List.range 8).map fun n => flag (24 + n) (Tbl.get {} s.host.cq n).halted)

/-- MBX_DBG_CTRL; the set bits read 0. -/
def State.dbgCtrl (s : State) : BitVec 32 :=
  word [s.host.dbgScope.toNat, field 8 2 s.host.dbgState, field 10 2 s.host.dbgTries]

/-- The identity block, the MSI-X table and the mailbox block: offsets 0x0000 to 0x13FF. -/
def State.hostReg (s : State) (off : Nat) : BitVec 32 :=
  if off = 0 then 0x3216
  else if off = 4 then 0xA1
  else if off = 8 then s.idMode
  else if off = 0xC then s.power.fwVersion
  else if 0x10 ≤ off ∧ off < 0x20 then w32 (s.fuses.identity / 2 ^ (8 * (off - 0x10)))
  else if off = 0x20 then s.idConfig
  else if 0x1000 ≤ off ∧ off < 0x1100 then
    let q := Tbl.get {} s.host.cq ((off - 0x1000) / 0x20)
    match off % 0x20 with
    | 0 => q.baseLo | 4 => q.baseHi | 8 => q.size.zeroExtend 32 | 0xC => q.tail.zeroExtend 32
    | 0x10 => q.head.zeroExtend 32 | _ => 0
  else if 0x1100 ≤ off ∧ off < 0x1200 then
    let q := Tbl.get {} s.host.cc ((off - 0x1100) / 0x20)
    match off % 0x20 with
    | 0 => q.baseLo | 4 => q.baseHi | 8 => q.size.zeroExtend 32
    | 0xC => word [q.tail.toNat, flag 16 q.phase]
    | 0x10 => q.head.zeroExtend 32
    | 0x14 => word [q.coalCount.toNat, field 16 10 q.coalTime.toNat]
    | _ => 0
  else if off = 0x1200 then s.mbxCtrl
  else if off = 0x1204 then s.mbxStatus
  else if off = 0x1300 then s.dbgCtrl
  else if 0x1310 ≤ off ∧ off < 0x1340 then wordAt s.host.dbgChallenge (off - 0x1310)
  else if off = 0x13A0 then s.host.dbgWindow.zeroExtend 32
  else if 0x2000 ≤ off ∧ off < 0x2200 then
    let m := Tbl.get {} s.host.msix ((off - 0x2000) / 16)
    match off % 16 with
    | 0 => m.addrLo | 4 => m.addrHi | 8 => m.data | 0xC => word [flag 0 m.masked] | _ => 0
  else if off = 0x3000 then s.host.pending
  else 0

/-! ## The journal (R297 to R299) -/

/-- The code of a journal state. -/
def JState.code : JState → Nat
  | .accepted => 0 | .running => 1 | .done => 2 | .failed => 3 | .replayed => 4

/-- A journal entry as 64 bytes (R297). -/
def JEntry.bytes (e : JEntry) : List Byte :=
  let l := leBytes 8 e.seq ++ leBytes 4 e.tag.toNat ++ leBytes 2 e.opcode ++ leBytes 2 e.flags.toNat
    ++ leBytes 1 e.queue ++ leBytes 1 (e.state.code + flag 7 e.timesValid)
    ++ leBytes 2 e.status ++ leBytes 4 e.detail.toNat ++ leBytes 8 e.acceptTime.toNat ++ leBytes 8 e.stateTime.toNat
    ++ leBytes 4 0 ++ leBytes 4 e.r0.toNat ++ leBytes 4 e.r1.toNat ++ leBytes 4 e.r2.toNat ++ leBytes 4 e.r3.toNat
  let c := (crc32c l).toNat
  l ++ leBytes 4 (match e.torn with
    | none => c
    | some n => (c + 1 + Config.freeNat n % (2 ^ 32 - 1)) % 2 ^ 32)

/-- Whether an entry can still be read: it is in the ring, in the carry area, or final for less than 10 s
since it left the carry area (R298). -/
def State.readable (s : State) (e : JEntry) : Bool :=
  s.inRing e || !e.state.final || e.readableUntil.any (s.now ≤ ·)

/-- A position of JNL_WINDOW (R299). -/
def State.journalSlot (s : State) (i : Nat) : List Byte :=
  let pos := s.journal.cursor.toNat % 2 ^ 63 + i
  let e := if s.journal.cursor.getLsbD 63 then (sortBy (fun e => (e.seq : Int)) s.carry)[pos]?
    else (s.journal.entries.filter s.readable).find? fun e => e.seq == pos
  match e with
  | some e => e.bytes
  | none => List.replicate 64 0

/-- JNL_OLDEST. -/
def State.oldestSeq (s : State) : Nat :=
  if s.journal.next ≤ 1 then 0 else s.seqOf (max 1 (s.journal.next - 65536))

/-- JNL_STATUS. -/
def State.jnlStatus (s : State) : BitVec 32 := word [field 0 19 s.carry.length, flag 19 s.journal.recovering]

/-- The journal block: offsets from 0x000B_0000. -/
def State.jnlReg (s : State) (off : Nat) : BitVec 32 :=
  if off < 8 then half s.journal.cursor (off == 4)
  else if off < 0x10 then half (BitVec.ofNat 64 s.oldestSeq) (off == 0xC)
  else if off < 0x18 then half (BitVec.ofNat 64 s.newestSeq) (off == 0x14)
  else if off = 0x18 then s.jnlStatus
  else if 0x100 ≤ off ∧ off < 0x200 then wordAt (s.journalSlot ((off - 0x100) / 64)) (off % 64)
  else 0

/-! ## Faults (chapter 13) -/

/-- FLT_LIVE (R379): the conditions present now: loss of signal or lock, or a thermal fence, on a head port; loss of signal or lock on a
halyard port; a limit input active on a configured axis; speed above the limit; and the clock, supply and temperature conditions that
the rails, clocks and sensors set as they change. -/
def State.liveNow (s : State) : BitVec 16 :=
  s.flt.live ||| BitVec.ofNat 16 (flag 7 s.pos.overLimit
    + flag 8 (s.heads.ports.any fun p => p.los || p.lol || p.thermalFence)
    + flag 9 (s.ring.east.los || s.ring.east.lol || s.ring.west.los || s.ring.west.lol)
    + flag 10 (s.axes.any fun a => a.configured && (a.limpLevel == a.limitHigh || a.limnLevel == a.limitHigh)))

/-- The fault collector block: offsets from 0x0001_0000. -/
def State.fltReg (s : State) (off : Nat) : BitVec 32 :=
  let f := s.flt
  let c := f.first.getD {}
  match off with
  | 0x00 => word [flag 0 f.faultState, flag 1 (f.faultState && f.hold), flag 2 f.staffHalt, field 8 8 f.resets]
  | 0x04 => s.liveNow.zeroExtend 32
  | 0x08 => word [f.latchBlock.toNat, field 16 4 f.latchClass.toNat]
  | 0x0C => word [field 0 16 c.code, field 16 8 c.unit, field 24 2 c.cls, flag 26 c.timeValid, flag 27 c.injected, flag 31 f.first.isSome]
  | 0x10 => half c.time false
  | 0x14 => half c.time true
  | 0x18 => word [field 0 8 f.count0, field 8 8 f.count1, field 16 8 f.count2, field 24 8 f.count3]
  | 0x20 => c.cause0
  | 0x24 => c.cause1
  | 0x28 => c.cause2
  | 0x2C => c.cause3
  | 0x30 => word [f.injChecker.toNat, field 16 8 f.injUnit.toNat, flag 25 (!f.injections.isEmpty)]
  | 0x34 => word [flag 0 f.pinLevel, flag 1 f.pulseEnd.isSome, flag 2 (s.power.phase != .powerOnReset && s.faultPin == .floating)]
  | 0x38 => word [field 0 16 f.shadowParent, field 16 8 f.shadowHits, flag 24 s.windowOpen]
  | 0x3C => word [flag 2 f.hold]
  | _ => 0

/-! ## Events (chapter 14) -/

/-- A record as 32 bytes (R396). -/
def Record.bytes (r : Record) : List Byte :=
  let l := leBytes 4 r.seq ++ leBytes 2 r.code ++ leBytes 1 r.unit
    ++ leBytes 1 (field 0 3 r.severity + flag 3 r.timeValid + flag 4 r.shadowed + flag 5 r.episode
        + flag 6 r.clockStep + flag 7 r.wrap)
    ++ leBytes 8 r.time.toNat ++ leBytes 4 r.p0.toNat ++ leBytes 4 r.p1.toNat ++ leBytes 4 r.p2.toNat
  l ++ leBytes 4 (crc32c l).toNat

/-- The record of the episode area in a slot (R405). -/
def State.episodeSlot (s : State) (slot : Nat) : Option Record :=
  if slot < 32768 then s.evt.episodeFirst[slot]?
  else
    let later := s.evt.episodeCount - 32768
    (List.range s.evt.episodeRing.length).findSome? fun i =>
      if (later - s.evt.episodeRing.length + i) % 32768 = slot - 32768 then s.evt.episodeRing[i]? else none

/-- A record searched by sequence in the buffer, the spill, the episode area and the service area (R409). -/
def State.recordBySeq (s : State) (seq : Nat) : Option Record :=
  ((s.evt.buffer.map Buffered.record) ++ s.evt.spill ++ s.evt.episodeFirst ++ s.evt.episodeRing ++ s.evt.service).find?
    fun r => r.seq == seq

/-- A position of EVT_WINDOW (R409); in mode 0 sequence 1 follows 0xFFFF_FFFF (R398). -/
def State.eventSlot (s : State) (i : Nat) : List Byte :=
  let pos := s.evt.cursor.toNat % 2 ^ 32 + i
  let r := match s.evt.cursor.toNat / 2 ^ 32 % 4 with
    | 0 => s.recordBySeq (if 2 ^ 32 ≤ pos then pos - 0xFFFFFFFF else pos)
    | 1 => s.evt.service[pos]?
    | 2 => s.episodeSlot pos
    | _ => (s.evt.buffer.map Buffered.record)[pos]?
  match r with
  | some r => r.bytes
  | none => List.replicate 32 0

/-- EVT_OLDEST_SEQ: the oldest sequence readable in any place, by distance from the newest. -/
def State.oldestRecord (s : State) : Nat :=
  let all := (s.evt.buffer.map Buffered.record) ++ s.evt.spill ++ s.evt.episodeFirst ++ s.evt.episodeRing ++ s.evt.service
  match leastBy (fun r => -(((s.evt.newest + 2 ^ 32 - r.seq) % 2 ^ 32 : Nat) : Int)) all with
  | some r => r.seq
  | none => 0

/-- The event recorder block: offsets from 0x0002_0000. -/
def State.evtReg (s : State) (off : Nat) : BitVec 32 :=
  let e := s.evt
  if off = 0 then word [flag 0 e.freeze, flag 4 e.irqEn, field 5 3 e.irqSev]
  else if off = 4 then word [field 0 17 (e.episodeFirst.length + e.episodeRing.length), flag 17 e.svcFull,
    flag 18 (!e.openers.isEmpty), flag 19 e.locked, flag 20 e.eraseAt.isSome, flag 21 e.lapsed,
    field 24 8 (min 128 ((e.buffer.length + 8) / 16))]
  else if off = 8 then half e.cursor false
  else if off = 0xC then half e.cursor true
  else if off = 0x10 then w32 e.overflow
  else if off = 0x14 then word [field 0 18 e.service.length]
  else if off = 0x18 then w32 s.oldestRecord
  else if off = 0x1C then w32 e.newest
  else if 0x100 ≤ off ∧ off < 0x200 then wordAt (s.eventSlot ((off - 0x100) / 32)) (off % 32)
  else 0

/-! ## SDRAM (chapter 12) -/

/-- The SDRAM controller block: offsets from 0x0007_0000. -/
def State.dmcReg (s : State) (off : Nat) : BitVec 32 :=
  let d := s.dmcNow
  match off with
  | 0x00 => word [flag 0 d.trained, flag 1 d.warmKeep, flag 2 d.fullRetrain, flag 3 d.cfgDefault, flag 4 d.rate4800,
      flag 5 d.selfRefresh, flag 6 d.selfRefresh, field 8 4 d.powerDown.toNat, flag 12 d.doubleRefresh]
  | 0x04 => word [field 0 2 d.density, flag 2 d.ranks2, field 4 2 d.setPage, field 6 2 d.setHist, field 8 2 d.setBulk,
      field 16 10 d.idle]
  | 0x10 => word [field 0 16 d.corrA, field 16 8 d.uncorrA, field 24 8 d.addrA]
  | 0x14 => word [field 0 16 d.corrB, field 16 8 d.uncorrB, field 24 8 d.addrB]
  | 0x18 => w32 d.lastAddr
  | 0x1C => word [field 0 4 (d.lastAddr / 2 ^ 32), field 4 4 d.lastKind]
  | _ => 0

/-! ## Calibration (chapter 15) -/

/-- The fuse default code of an element (R418). -/
def State.fuseCode (s : State) (n : Nat) : Nat := Tbl.get 512 s.fuses.codes n % 1024

/-- The selection word of an element (R416). -/
def State.selection (s : State) (n : Nat) : Nat :=
  match Tbl.get none s.cal.elements n with
  | none => 0
  | some e => field 0 10 e.code + field 10 4 (Tbl.get 0 s.fuses.spareMaps n) + flag 14 (e.code == s.fuseCode n) + flag 15 true

/-- The calibration set in force. -/
def State.calSet (s : State) : Option CalSet := inForce (·.generation) (readCal s.flash.calA) (readCal s.flash.calB)

/-- Elements whose last step found no code in range. -/
def State.calFailed (s : State) : Nat := (s.cal.elements.filter fun e => e.any (·.outRange)).length

/-- The calibration block: offsets from 0x0009_0000. -/
def State.calReg (s : State) (off : Nat) : BitVec 32 :=
  let c := s.cal
  if off = 0 then word [flag 0 c.pass.isSome, flag 1 c.powerUpDone, flag 2 c.xresBad, flag 3 c.fuseDef,
    flag 4 (readCal s.flash.calA).isSome, flag 5 (readCal s.flash.calB).isSome, flag 6 (!c.oneCopy.isEmpty), flag 7 c.writing,
    field 8 4 ((c.pass.map (·.groups.toNat)).getD 0), field 16 8 (min 255 s.calFailed)]
  else if off = 4 then w32 ((s.calSet.map (·.generation)).getD 0)
  else if off = 8 then half c.lastPass false
  else if off = 0xC then half c.lastPass true
  else if off = 0x10 then word [field 0 16 c.xres]
  else if 0x100 ≤ off ∧ off < 0x900 then
    let n := (off - 0x100) / 4
    match Tbl.get none c.elements n with
    | none => 0
    | some e => word [s.selection n, field 16 8 (unsign 8 e.deviation), flag 24 e.outRange]
  else 0

/-! ## Power and clocks (chapter 16) -/

/-- The power block: offsets from 0x000A_0000. -/
def State.pwrReg (s : State) (off : Nat) : BitVec 32 :=
  let p := s.power
  if off = 0 then word [p.railGood.toNat, flag 8 p.standby, flag 9 (p.rangeOut != 0), flag 10 p.brownout]
  else if off = 4 then word [flag 0 (p.slot == 1), flag 1 p.fallback, field 8 24 s.journal.epoch]
  else if 0x10 ≤ off ∧ off < 0x30 then
    let n := (off - 0x10) / 4
    word [field 0 16 (Tbl.get 0 p.railMv n), field 16 16 (Tbl.get 0 p.railMin n)]
  else if 0x40 ≤ off ∧ off < 0x60 then
    let n := (off - 0x40) / 4
    word [(Tbl.get 0x8000 p.dieTemp n).toNat, field 16 16 (Tbl.get 0 p.dieMax n).toNat]
  else if off = 0x100 then word [p.pllLock.toNat, flag 12 p.sysclk, flag 13 p.refclk, field 16 16 p.sentFreq.toNat]
  else 0

end Sys2Proof.Machine
end

