-- ==== Sys2Proof/Machine/Calibration.lean ====
section
/-!
DEFINITION. Machine/Calibration.lean: trimmed elements, calibration passes, the two-copy form and the writes
of the calibration set (R414 to R430), and the calibration commands CAL_RUN, CAL_COMMIT and CAL_SET_WRITE.
-/

namespace Sys2Proof.Machine

/-! ## Two copies (R425, R426) -/

/-- A write in the two-copy form: the new copies A and B, whether the write reached one copy only, and whether
copy B was written. The target is the invalid copy, or the one not in force; after two failures the other is
written. A copy whose write failed is invalid. -/
def twoCopyWrite {α : Type} (gen : α → Nat) (a b : Option α) (v : α) (fl : FlashResult) :
    Option α × Option α × Bool × Bool :=
  let toB := match a, b with
    | none, _ => false
    | some _, none => true
    | some _, some _ => inForceB gen a b == some false
  let held := fl.first || fl.second
  let target := if held then some v else none
  let rest := fun (o : Option α) => if held then o else if fl.other then some v else none
  if toB then (rest a, target, !held, true) else (target, rest b, !held, false)

/-- ONECOPY's list after a write of an item: a write that reached one copy enters the item; it leaves when a write
has succeeded on both copies in turn (R426). -/
def oneCopyAfter (l : List (Nat × Bool × Bool)) (item : Nat) (failed toB : Bool) : List (Nat × Bool × Bool) :=
  if failed then (item, false, false) :: l.filter fun x => x.1 != item
  else l.filterMap fun x =>
    if x.1 != item then some x
    else
      let a := x.2.1 || !toB
      let b := x.2.2 || toB
      if a && b then none else some (item, a, b)

/-! ## Elements (R415, R417) -/

/-- The group of an element (R415). -/
def elementGroup (n : Nat) : Nat :=
  if n < 8 then 0 else if n < 164 then 1 else if n < 208 then 2 else 3

/-- The SDRAM channel of an element of group 2. -/
def elementChannel (n : Nat) : Nat := if n < 204 then (n - 164) / 2 / 10 else (n - 204) / 2

/-- The accuracy after trim of an element, in 0.01 %. -/
def elementAccuracy (n : Nat) : Nat :=
  match elementGroup n with
  | 0 => 100
  | 1 => 200
  | _ => 300

/-- The elements of groups in a mask, in element order. -/
def groupElements (mask : BitVec 4) : List Nat := (List.range 304).filter fun n => mask.getLsbD (elementGroup n)

/-- An element of the state. -/
def State.element (s : State) (n : Nat) : Element :=
  (Tbl.get none s.cal.elements n).getD ⟨512, 512, 0, false⟩

/-- The state with an element changed. -/
def State.updElement (s : State) (n : Nat) (f : Element → Element) : State :=
  { s with cal := { s.cal with elements := Tbl.put none s.cal.elements n (some (f (s.element n))) } }

/-- Every element at its fuse default (R414, R418). -/
def State.fuseDefaults (s : State) : State :=
  { s with cal := { s.cal with
    elements := (List.range 304).map fun n => some { code := s.fuseCode n, target := s.fuseCode n
                                                     deviation := (s.element n).deviation, outRange := (s.element n).outRange } } }

/-! ## Passes (R414, R417, R420 to R422) -/

/-- The end of a pass: CAL_LASTPASS, the CAL_RUN's completion and its episode part. -/
def State.endPass (s : State) (p : Pass) : State :=
  let s1 := { s with cal := { s.cal with pass := none, lastPass := s.stamp.2 } }
  match p.command with
  | some q => (s1.episodeClose 2).finish q .ok 0 (w32 p.steps) (w32 p.reselected)
  | none => s1

/-- The step on the first element left is over. -/
def State.advancePass (s : State) : State :=
  match s.cal.pass with
  | none => s
  | some p =>
    let p1 := { p with left := p.left.tail, steps := p.steps + 1 }
    if p1.left.isEmpty then s.endPass p1 else { s with cal := { s.cal with pass := some p1 } }

/-- A pass starts (R414, R421, R422): the external resistor is measured, and outside 0.800 to 1.200 every element
takes its fuse default, fault 0x0D01 is raised once, and the pass makes no step. An element that an abandoned pass left on its way
stays at its present code, until its step in this or a later pass (R422). -/
def State.startPass (s : State) (groups : BitVec 4) (command : Option Nat) (xres : Nat) : State :=
  let bad := decide (xres * 10 < 8 * 32768 ∨ 12 * 32768 < xres * 10)
  let els := if bad then [] else groupElements groups
  let p : Pass := { groups := groups, left := els, command := command, steps := 0, reselected := 0, startedAt := s.now }
  let still := fun (e : Element) => { e with target := e.code }
  let s1 := { s with cal := { s.cal with
    elements := s.cal.elements.map (Option.map still), xres := min xres 65535, xresBad := bad, lastStart := s.now, tempAtStart := s.power.dieTemp, pass := some p } }
  let s2 := if bad then (s1.fuseDefaults).detect { code := 0x0D01, p0 := some 0xFFFFFFFF } else s1
  if els.isEmpty then s2.endPass p else s2

/-- The index of the deviation closest to the target, the lower code on a tie; codes outside 0 to 1,023 are
skipped (R417). -/
def closestCode (code : Nat) (devs : List Int) : Option (Nat × Int) :=
  (List.range 9).foldl (fun best i =>
    if code + i < 4 ∨ 1023 + 4 < code + i then best
    else
      let d := devs.getD i 0
      match best with
      | some (_, e) => if d.natAbs < e.natAbs then some (code + i - 4, d) else best
      | none => some (code + i - 4, d)) none

/-- A replica measurement of element `n` with its nine deviations in 0.01 % (R417): the chosen code becomes the
target, or, with none in range, the code stays and fault 0x0D01 is raised. -/
def State.measure (s : State) (n : Nat) (devs : List Int) : State :=
  let e := s.element n
  let own := clamp (divHalfUp (devs.getD 4 0) 10) (-128) 127
  match closestCode e.code devs with
  | none => s
  | some (c, d) =>
    if d.natAbs ≤ elementAccuracy n then
      s.updElement n fun e => { e with target := c, deviation := own, outRange := false }
    else
      (s.updElement n fun e => { e with target := e.code, deviation := own, outRange := true }).detect
        { code := 0x0D01, p0 := w32 n, p1 := w32i d }

/-- One code of the way at a switch moment (R417, R420): the first element left, if it is one of those that may
switch now, moves by 1; when it has reached its code its step is over. -/
def State.switchMoment (s : State) (may : Nat → Bool) : State :=
  match s.cal.pass.bind (·.left.head?) with
  | none => s
  | some n =>
    let e := s.element n
    if !may n || e.code = e.target then s
    else
      let c := if e.code < e.target then e.code + 1 else e.code - 1
      let s1 := s.updElement n fun e => { e with code := c }
      if c = e.target then s1.advancePass else s1

/-- The switch moment of groups 0, 1 and 3. -/
def State.switchSerial (s : State) : State := s.switchMoment fun n => elementGroup n != 2

/-- The switch moment of group 2 on a channel. -/
def State.switchSdram (s : State) (ch : Nat) : State := s.switchMoment fun n => elementGroup n == 2 && elementChannel n == ch

/-- CAL_PASS_START: a periodic pass over all groups, 10 minutes after the previous pass started or once a die
sensor has moved by 10 °C; one that falls due while a pass runs is skipped (R421). -/
def execCalPassStart (xres t : Nat) (s0 : State) : Host.Outcome State Fault Refusal :=
  let s := s0.tick t
  let moved := (List.range 8).any fun n =>
    let a := Tbl.get 0x8000 s.power.dieTemp n
    let b := Tbl.get 0x8000 s.cal.tempAtStart n
    a != 0x8000 && b != 0x8000 && decide (160 ≤ (a.toInt - b.toInt).natAbs)
  .next (if s.cal.powerUpDone && s.cal.pass.isNone && s.power.phase == .running &&
      (moved || decide (s.cal.lastStart + 600000000000 ≤ s.now)) then s.startPass 0xF none xres else s)

/-- CAL_MEASURE_DONE: the measurement of the element in turn ends, and its code is chosen (R417). -/
def execCalMeasureDone (devs : List Int) (t : Nat) (s0 : State) : Host.Outcome State Fault Refusal :=
  let s := s0.tick t
  match s.cal.pass with
  | none => .next s
  | some p =>
    match p.left with
    | [] => .next s
    | n :: _ =>
      if (s.element n).code ≠ (s.element n).target then .next s
      else
        let s1 := s.measure n devs
        let e := s1.element n
        if e.code = e.target then .next s1.advancePass
        else .next { s1 with cal := { s1.cal with
          pass := s1.cal.pass.map fun p => { p with reselected := p.reselected + 1 } } }

/-- CAL_RUN: a pass over the groups of its mask, at once, in place of a periodic pass in progress; BUSY while
another CAL_RUN or power-up calibration runs (R329, R422). -/
def execCalRun (seq xres t : Nat) (s : State) : Host.Outcome State Fault Refusal :=
  .next (s.command t seq 0x0B01 false true
    (fun s _ => { busy := !s.cal.powerUpDone || (s.cal.pass.bind (·.command)).isSome })
    fun s e => (s.episodeOpen 2).startPass (BitVec.ofNat 4 (e.p8 0)) (some seq) xres)

/-! ## The calibration set (R424, R427) -/

/-- The serial of the head present on a port, 0 for none. -/
def State.headSerial (s : State) (n : Nat) : Nat :=
  let p := Tbl.get {} s.heads.ports n
  if p.record.isSome then p.serial else 0

/-- The content of a calibration set written now. -/
def State.calContent (s : State) : CalSet :=
  { generation := ((s.calSet.map (·.generation)).getD 0 + 1) % 2 ^ 32
    writer := s.fuses.identity, overflow := s.evt.overflow, barHeads := if s.cal.commitSeq.isSome then s.cal.commitHeads else s.cal.barHeads
    roster := if s.power.mgrEn then s.ring.roster.map (fun e => { e with admitted := false }) else []
    selections := (List.range 304).map s.selection
    training := s.dmc.training, directory := s.cal.directory }

/-- A change to be in the calibration set within 10 s (R427). -/
def State.calDirty (s : State) : State :=
  { s with cal := { s.cal with setDirty := some (s.cal.setDirty.getD s.now) } }

/-- A failing status that the manual does not name, and the state that has used the free value. -/
def State.freeFailure (s : State) : Status × State :=
  let n := Config.freeNat s.free
  (match n % 4 with | 0 => .busy | 1 => .noResource | 2 => .unitFenced | _ => .denied, { s with free := s.free + 1 })

/-- CAL_COMMIT: a write of the set begins, whose bar heads field takes the heads present now; it completes
with CAL_SET_WRITE. BUSY while the set is being written (R329, R427). -/
def execCalCommit (seq t : Nat) (s : State) : Host.Outcome State Fault Refusal :=
  .next (s.command t seq 0x0B03 false true (fun s _ => { busy := s.cal.writing })
    fun s _ => { s with cal := { s.cal with
      writing := true, commitSeq := some seq, commitHeads := (List.range 32).map s.headSerial } })

/-- Whether a calibration set write is due. -/
def State.calWriteDue (s : State) : Bool := s.cal.writing || s.cal.setDirty.isSome

/-- Copies A and B after a write of the set, and what CAL_STATUS shows of it. -/
def State.writeCalSet (s : State) (fl : FlashResult) : State :=
  let v := s.calContent
  let w := twoCopyWrite (·.generation) (readCal s.flash.calA) (readCal s.flash.calB) v fl
  { s with
    flash := { s.flash with calA := w.1.map sealCal, calB := w.2.1.map sealCal }
    cal := { s.cal with
      barHeads := if fl.first || fl.second || fl.other then v.barHeads else s.cal.barHeads, commitHeads := []
      oneCopy := oneCopyAfter s.cal.oneCopy 64 w.2.2.1 w.2.2.2
      writing := false, commitSeq := none, setDirty := none } }

/-- Whether the bar's calibration set passes its check (R430). -/
def State.calChecks (s : State) : Bool :=
  match s.calSet with
  | none => false
  | some c => (List.range 32).all fun n => Tbl.get 0 c.barHeads n == s.headSerial n

/-- The mark 'calibration awaiting check' goes when CAL_COMMIT completes on the bar (R253). -/
def State.clearCalMark (s : State) : State := { s with ring := { s.ring with calCheck := false } }

end Sys2Proof.Machine
end

