-- ==== Sys2Proof/Machine/HeadOps.lean ====
section
/-!
DEFINITION. Machine/HeadOps.lean: head ports (R176 to R211): the head record and its fields, blocks sent,
line rates, taking a port out of service, bring-up steps, waveform choice and loads, the restoring of nozzle
states (R233), and the head entries of the flash (R232, R429).
-/

namespace Sys2Proof.Machine

/-! ## Ports and records -/

/-- A head port. -/
def State.port (s : State) (n : Nat) : HeadPort := Tbl.get {} s.heads.ports n

/-- The state with a head port changed. -/
def State.updPort (s : State) (n : Nat) (f : HeadPort → HeadPort) : State :=
  { s with heads := { s.heads with ports := Tbl.upd {} s.heads.ports n f } }

/-- A field of the held record (R191). -/
def HeadPort.recAt (p : HeadPort) (off n : Nat) : Nat := leAt (p.record.getD []) off n

/-- Flag bit `i` of the record. -/
def HeadPort.recFlag (p : HeadPort) (i : Nat) : Bool := bitOf (p.recAt 5 1) i

/-- The head declares 4-bit greyscale. -/
def HeadPort.grey4 (p : HeadPort) : Bool := p.record.isSome && p.recFlag 1

/-- The fire latency lat_h; 0 without a record (R501). -/
def HeadPort.latency (p : HeadPort) : Nat := if p.record.isSome then p.recAt 48 2 else 0

/-- The row spacing in nm; 508,000 without a record (R191, R501). -/
def HeadPort.spacing (p : HeadPort) : Int := if p.record.isSome then (100 * p.recAt 42 2 : Nat) else 508000

/-- The spacing of the head on a port. -/
def State.spacing (s : State) (n : Nat) : Int := (s.port n).spacing

/-- The maximum line rate of a port's head (R191, R211). -/
def HeadPort.maxRate (p : HeadPort) : Nat :=
  if p.legacy then (if p.rate6 then 200000 else 100000) else if p.record.isSome then 100 * p.recAt 46 2 else 300000

/-- The bad list of a record. -/
def HeadPort.badList (p : HeadPort) : List Nat :=
  match p.record with
  | none => []
  | some l => (List.range (leAt l 92 2)).map fun i => leAt l (128 + 2 * i) 2

/-- A list strictly ascending. -/
def ascending : List Nat → Bool
  | a :: b :: t => decide (a < b) && ascending (b :: t)
  | _ => true

/-- ASCII text padded with 0x00. -/
def asciiField (l : List Byte) : Bool :=
  let text := l.takeWhile (· != 0)
  text.all (fun b => decide (b.toNat < 128)) && (l.drop text.length).all (· == 0)

/-- Whether a head record is valid (R192). -/
def recordValid (l : List Byte) : Bool :=
  let len := leAt l 6 2
  let nb := leAt l 92 2
  let flags := leAt l 5 1
  let bad := (List.range nb).map fun i => leAt l (128 + 2 * i) 2
  bytesAt l 0 4 == [0x48, 0x52, 0x45, 0x43] && leAt l 4 1 == 1 && decide (flags < 16)
    && decide (nb ≤ 512) && len == 132 + 2 * nb + (if bitOf flags 0 then 4096 else 0) && decide (len ≤ l.length)
    && leAt l (len - 4) 4 == (crc32c (l.take (len - 4))).toNat
    && leAt l 41 1 == 0 && decide (1000 ≤ leAt l 42 2 ∧ leAt l 42 2 ≤ 60000) && leAt l 44 2 == 2048
    && decide (24 ≤ leAt l 46 2 ∧ leAt l 46 2 ≤ 3000) && decide (leAt l 48 2 ≤ 50000)
    && leAt l 52 4 != 0 && leAt l 56 4 != 0 && (bytesAt l 94 34).all (· == 0)
    && asciiField (bytesAt l 8 16) && asciiField (bytesAt l 24 16) && bad.all (· < 4096) && ascending bad

/-- The depth code of LINE_START (R179). -/
def depthCode (depth : Nat) : Nat := if depth = 4 then 2 else 1

/-! ## Blocks (R179) -/

/-- A control block: type and the fields of bytes 1 to 6, with its CRC-8. -/
def controlBlock (kind : Nat) (fields : List Byte) : List Byte :=
  let b := BitVec.ofNat 8 kind :: bytesAt fields 0 6
  b ++ [crc8 b]

/-- A head port sends something; in factory test mode and in standby no head port is driven (R7, R435). -/
def State.drive (s : State) (o : Out) : State := if s.power.mode = .factory ∨ s.power.standby then s else s.emit o

/-- A control block sent by a head port. -/
def State.sendHead (s : State) (n kind : Nat) (fields : List Byte) : State :=
  s.drive (.headBlock n (controlBlock kind fields))

/-- The count of forwarded-clock intervals at a moment: 320 ps each (R176, R182). -/
def intervalAt (ns : Nat) : Nat := ns * 1000 / 320

/-- SYNC with the present interval count (R182). -/
def State.sendSync (s : State) (n : Nat) : State :=
  (s.sendHead n 0x38 (leBytes 6 (intervalAt s.now))).updPort n fun p => { p with syncCount := some (w32 (intervalAt s.now)) }

/-- LIMITS with the limits in force (R198). -/
def State.sendLimits (s : State) (n : Nat) : State :=
  let p := s.port n
  s.sendHead n 0x60 (leBytes 2 (unsign 16 p.soft) ++ leBytes 2 (unsign 16 p.hard))

/-! ## Line rates (R201, R204) -/

/-- Whether a port fires or shadows. -/
def HeadPort.runs (p : HeadPort) : Bool := p.state == .inService || p.state == .shadow

/-- A trained head that is not in service yet: its record is read, or its waveform loaded, or it waits (R188). -/
def HeadPort.trained (p : HeadPort) : Bool := (p.state == .record || p.state == .waiting) && !p.legacy

/-- Whether blocks pass on the return lane of a trained head: it runs, it is still to come into service, or it is fenced for another
cause than its link (R186). -/
def HeadPort.linkLive (p : HeadPort) : Bool :=
  p.runs || p.trained || (p.state == .fenced && has p.fencedCode [0x0802, 0x0803, 0x0804, 0x0808] && p.presLow)

/-- The ports that are in service or in shadow. -/
def State.runningPorts (s : State) : List Nat := (List.range 32).filter fun n => (s.port n).runs

/-- head_cap (R201). -/
def State.headCap (s : State) : Nat :=
  s.runningPorts.foldl (fun v n =>
    let p := s.port n
    min v (if p.grey4 then min p.maxRate 150000 else p.maxRate)) 300000

/-- Some port is in service. -/
def State.anyInService (s : State) : Bool := (List.range 32).any fun n => (s.port n).state == .inService && !(s.port n).resuming

/-! ## HB-8 error bits (R489, R504) -/

/-- Bits set in HB_ERR; the legacy interrupt message is sent when the interrupt becomes pending (R486). -/
def State.hbErr (s : State) (mask : Nat) : State :=
  if s.power.mode ≠ .hb8 then s
  else
    let s1 := { s with hb := { s.hb with err := s.hb.err ||| BitVec.ofNat 16 mask } }
    if s1.hb.err ≠ 0 ∧ s1.hb.ier.getLsbD 1 ∧ !s1.hb.irqPending then
      { s1 with hb := { s1.hb with irqPending := true } }.emit .legacyIrq
    else s1

/-! ## Out of service (R200, R205, R206) -/

/-- The delay in 1/256 line that a line of a row fires with (R130). -/
def State.qOf (s : State) (r : Nat) (m : Int) : Int :=
  match s.lines.changes.reverse.find? (fun c => c.line.any fun l => decide (l ≤ m)) with
  | some c => Tbl.get 0 c.q r
  | none => Tbl.get 0 s.lines.q r

/-- The fire position of a line of a row, in 1/65,536 line (R154). -/
def State.firePosition (s : State) (r : Nat) (m : Int) : Int := m * 65536 + s.qOf r m * 256

/-- The first line that a row has not fired: what is committed is carried out, but not (`carry` unset) where the link has failed (R184,
R200). -/
def State.rowLine (s : State) (r : Nat) (carry : Bool) : Int :=
  let ds := (s.lines.q :: s.lines.changes.map (·.q)).map fun q => Tbl.get 0 q r
  let lo := lineAfter s.highWater (ds.foldl max (ds.headD 0))
  let hi := lineAfter s.highWater (ds.foldl min (ds.headD 0))
  let first := (((List.range (hi - lo).toNat).map fun (i : Nat) => lo + i).find? fun m => decide (s.highWater < s.firePosition r m)).getD hi
  let mine := (s.pos.committed.filter fun x => x.row == r).map (·.line)
  if carry then mine.foldl (fun v m => max v (m + 1)) first else mine.foldl min first

/-- The first line that a head will not fire on both of its rows. -/
def State.headLine (s : State) (n : Nat) (carry : Bool) : Int := min (s.rowLine (2 * n) carry) (s.rowLine (2 * n + 1) carry)

/-- The lines that a head no longer fires, by page: from the first that it does not fire to the last line of the last hoist rendered
with the head (R200). -/
def State.headLosses (s : State) (n block : Nat) (carry : Bool) : List (Nat × Loss) :=
  match s.render.lastOpened with
  | none => []
  | some k =>
    let c := s.headColumns (2 * n)
    let l : Loss := { row := 64, lo := s.headLine n carry, hi := 64 * k + 63, colLo := c.1, colHi := c.2, block := block, cause := .event s.now }
    if !s.pos.armed || !(s.lines.geometry.head n).present then []
    else s.store.pages.flatMap fun p => (p.placements.filterMap fun x => s.lossAt p x l).map fun l => (p.seq, l)

/-- Losses are reported, and their pages are held. -/
def State.spoilLosses (s : State) (l : List (Nat × Loss)) (ports : List Nat) : State :=
  l.foldl (fun s x => s.spoil x.1 x.2 .each ports) s

/-- Row-lines of a head that wait to be fired are dropped; with `carry` unset the committed ones too (R184). -/
def State.dropHead (s : State) (n : Nat) (carry : Bool) : State :=
  { s with pos := { s.pos with
    pending := s.pos.pending.filter fun x => x.row / 2 != n
    committed := if carry then s.pos.committed else s.pos.committed.filter fun x => x.row / 2 != n } }

/-- Commands on a port that end when it leaves service: its bring-up and its test with UNIT_FENCED, a
waveform load with UNIT_FENCED, a retirement with OK (R189, R195, R200, R209). The words give the state that the port goes to, the heads
switched so far, and the nozzles tested so far (R323). -/
def State.failPortCommands (s : State) (n final : Nat) : State :=
  let p := s.port n
  let s1 := match p.bringupSeq with
    | some q => s.finish q .unitFenced 0 (w32 final) (wordAt (p.record.getD []) 8) (w32 (b2n p.rate6))
    | none => s
  let s2 := match p.test with
    | some x =>
      let passed := (x.results.filter fun r => r.2 == 0).length
      s1.finish x.seq .unitFenced 0 (w32 passed) (w32 (x.results.length - passed))
    | none => s1
  let s3 := match p.load.bind (·.seq) with
    | some q =>
      let left := ((List.range 32).filter fun i => (s.port i).load.bind (·.seq) == some q).length
      s2.finish q .unitFenced 0 (w32 ((p.load.map (·.heads)).getD 0 - left))
    | none => s2
  match p.retiring with
  | some r => r.seqs.foldl (fun s q => s.finish q.1 .ok 0 (w32 q.2)) s3
  | none => s3

/-- A nozzle test whose results have all arrived ends: its buffer is written and its command completes; while DMA is stopped it waits (R209,
R278, R324). -/
def State.endTest (s : State) (n : Nat) : State :=
  match (s.port n).test with
  | none => s
  | some w =>
    if w.results.length < w.count then s
    else if !s.canSend then s.mapEntry w.seq fun e => { e with waitsSince := some (e.waitsSince.getD s.now) }
    else
      let sorted := sortBy (fun x => (x.1 : Int)) w.results
      let passed := (w.results.filter fun x => x.2 == 0).length
      let s1 := s.updPort n fun x => { x with test := none }
      (s1.emit (.buffer w.seq 0 (packPairs (sorted.map fun x => x.2.toNat)))).finish w.seq .ok 0 (w32 passed) (w32 (w.count - passed))

/-- DMA may go on: the nozzle tests that waited for it end (R277, R278). -/
def State.endTests (s : State) : State := (List.range 32).foldl State.endTest s

/-- A fence of a port with its fault (R200, R205): no further instant is committed for it, the lines that its head
will not fire are reported, and the port is fenced. `thermal` sets the thermal stop; `carry` is unset for a failed
link, whose committed instants are not carried out. -/
def State.fencePortAs (s : State) (det : Detection) (thermal carry : Bool) : State :=
  let n := det.unit
  let code := det.code
  let p := s.port n
  if !p.runs && !(p.state == .training || p.state == .record || p.state == .waiting) then s
  else s.unlessShadowed det fun s =>
    let fired := p.state == .inService || p.joinHoist.isSome
    let s1 := s.failPortCommands n 7
    let s2 := s1.updPort n fun p => { p with
      state := .fenced, noCommit := true, fencedCode := code, fencedAt := s.now, outLine := some s.pos.line, thermalFence := thermal
      derated := false, load := none, test := none, retiring := none, bringupSeq := none, joinHoist := none
      sent := [], predicted := none, predSteps := 0, step := 0 }
    let s3 := (s2.dropHead n carry).detect det
    let s4 := if fired then s3.spoilLosses (s2.headLosses n (code / 256) carry) [n] else s3
    let g := s4.heads.governor
    let s5 := if thermal then { s4 with heads := { s4.heads with governor := { g with thermal := addNew n g.thermal } } } else s4
    s5.hbErr ((if thermal then 128 else 0) + 2 ^ (8 + n % 8))

/-- The fence of a port with a fault that carries its code and port alone. -/
def State.fencePort (s : State) (n code : Nat) (thermal carry : Bool) : State := s.fencePortAs { code := code, unit := n } thermal carry

/-- Whether an automatic return of a port is pending: a link failure with the head present, within 3 in an hour, or such a return under
way (R391). -/
def State.returnPending (s : State) (n : Nat) : Bool :=
  let p := s.port n
  p.fencedCode == 0x0801 &&
    ((p.state == .fenced && p.presLow && decide ((p.returns.filter fun m => decide (s.now < m + 3600000000000)).length < 3)) ||
     ((p.state == .training || p.state == .record || p.state == .shadow) && p.bringupSeq.isNone && p.resetCmd.isNone))

/-- A port that holds the bar's limit at 0 with cause 6: fenced, with no automatic return pending, and with a page
waiting for it (R389). -/
def State.unitFencedPort (s : State) : Bool :=
  s.store.pages.any fun pg => pg.waitPorts.any fun n =>
    let p := s.port n
    !(p.state == .inService || p.state == .retired) && !s.returnPending n

/-- The thermal stop of a port goes (R203). -/
def State.releaseThermal (s : State) (n : Nat) : State :=
  let g := s.heads.governor
  { s with heads := { s.heads with governor := { g with thermal := without n g.thermal } } }

/-! ## Retirement (R206) -/

/-- The retired state: what waited for the port ends, a HEAD_RETIRE with OK. -/
def State.retirePort (s : State) (n : Nat) : State :=
  ((s.failPortCommands n 8).updPort n fun p => { p with
    state := .retired, outLine := some s.pos.line, noCommit := true, retiring := none, load := none, test := none, bringupSeq := none, joinHoist := none
    step := 0, derated := false, thermalFence := false, sent := [], predicted := none, predSteps := 0 })

/-- The largest d_r of a head's rows, in lines, rounded down as d_r is (R126). -/
def State.headDelay (s : State) (n : Nat) : Int :=
  max ((Tbl.get 0 s.lines.q (2 * n)).fdiv 256) ((Tbl.get 0 s.lines.q (2 * n + 1)).fdiv 256)

/-- Immediate retirements whose last committed instant has been carried out, and drains whose H has been reached, end; once
printing is disarmed a drain ends too. -/
def State.settleRetire (s : State) : State :=
  (List.range 32).foldl (fun s n =>
    match (s.port n).retiring with
    | none => s
    | some r =>
      let done := match r.drain with
        | none => !(s.pos.committed.any fun x => x.row / 2 == n)
        | some d => !s.pos.armed || decide (d.2 * 65536 ≤ s.highWater)
      if done then
        -- row-lines of hoists rendered without the head are dropped with it; HEAD_RETIRE releases the thermal stop (R203, R206)
        let s1 := (s.dropHead n true).retirePort n
        if r.seqs.isEmpty then s1 else s1.releaseThermal n
      else s) s

/-! ## Waveforms (R193 to R195) -/

/-- Whether a waveform set matches a record, and its count of wildcard keys. -/
def Waveform.wildcards (w : Waveform) (l : List Byte) : Option Nat :=
  let vol := bits (leAt l 40 1) 0 4
  let spd := bits (leAt l 40 1) 4 4
  if w.model == bytesAt l 24 16 && (w.volumeKey == 0xFF || w.volumeKey == vol) && (w.speedKey == 0xFF || w.speedKey == spd) then
    some (b2n (w.volumeKey == 0xFF) + b2n (w.speedKey == 0xFF))
  else none

/-- The set a head takes: fewest wildcard keys, then the lowest number. -/
def State.matchingSet (s : State) (n : Nat) : Option Nat :=
  match (s.port n).record with
  | none => none
  | some l =>
    leastBy (fun i => ((((Tbl.get none s.heads.waveforms i).bind (·.wildcards l)).getD 9 : Nat) : Int))
      ((List.range 16).filter fun i => ((Tbl.get none s.heads.waveforms i).bind (·.wildcards l)).isSome)

/-- The curve base of a head: that of the set in force for it. -/
def State.curveBase (s : State) (n : Nat) : Nat :=
  match (s.port n).waveSet with
  | some i => ((Tbl.get none s.heads.waveforms i).map (·.curveBase)).getD 0
  | none => 0

/-- Bytes in groups of eight. -/
def State.sendData (s : State) (n : Nat) (bytes : List Byte) : State := s.drive (.headData n bytes)

/-- A load of a set into the bank of the head not in use: WAVE_START, the data, WAVE_END (R195). -/
def State.loadWave (s : State) (n set : Nat) (seq : Option Nat) (heads : Nat) : State :=
  let p := s.port n
  let bank := 1 - p.waveBank
  match Tbl.get none s.heads.waveforms set with
  | none => s
  | some w =>
    let s1 := s.sendHead n 0x40 (leBytes 1 bank ++ leBytes 4 w.data.length)
    let s2 := (s1.sendData n w.data).sendHead n 0x42 (leBytes 4 (crc32c w.data).toNat)
    s2.updPort n fun p => { p with load := some { set := set, bank := bank, sentAt := s.now, retried := false, seq := seq, heads := heads } }

/-! ## Nozzles and probe holds (R133, R226, R227) -/

/-- The state byte of a nozzle (R133). -/
def State.nozzle (s : State) (i : Nat) : Byte := Memory.read s.lines.nozzles i

/-- The state with a state byte written. -/
def State.setNozzle (s : State) (i : Nat) (v : Byte) : State :=
  { s with lines := { s.lines with nozzles := Memory.write s.lines.nozzles i v } }

/-- Whether the loop may change a nozzle: its condition is neither 4 nor 5, no force is set, and NOZZLE_OVERRIDE has not changed
it for the same render window (R226). -/
def State.loopMay (s : State) (i : Nat) : Bool :=
  let v := (s.nozzle i).toNat
  bits v 0 3 != 4 && bits v 0 3 != 5 && bits v 4 2 == 0 && !has i s.loop.overridden

/-- The out bit of a nozzle set or cleared. -/
def State.setOut (s : State) (i : Nat) (on : Bool) : State :=
  s.setNozzle i (if on then s.nozzle i ||| 8#8 else s.nozzle i &&& 0xF7#8)

/-- The probe on a column. -/
def State.probe? (s : State) (c : Nat) : Option Probe := s.loop.probes.find? fun p => p.column == c

/-- The state with the probe on a column taken away, its holds released where the loop may change the nozzle (R226, R227). -/
def State.endProbe (s : State) (c : Nat) : State :=
  match s.probe? c with
  | none => s
  | some p =>
    let s1 := (p.held.filter s.loopMay).foldl (fun s i => s.setOut i false) s
    { s1 with loop := { s1.loop with probes := s1.loop.probes.filter fun x => x.column != c } }

/-! ## Nozzle states of a head (R192, R232, R233, R429) -/

/-- A serial as a number; 0 for an empty one. -/
def serialOf (l : List Byte) : Nat := leAt l 8 16

/-- The serial that a slot belongs to; 0 for an empty slot. -/
def HeadSlot.holder (h : HeadSlot) : Nat := if h.claim ≠ 0 then h.claim else (h.entry.map (·.serial)).getD 0

/-- The slot that belongs to a serial. -/
def State.slotOf (s : State) (serial : Nat) : Option Nat :=
  (List.range 64).find? fun i => (Tbl.get {} s.flash.heads i).holder == serial

/-- The valid entry of a serial. -/
def State.entryOf (s : State) (serial : Nat) : Option HeadEntry :=
  ((s.slotOf serial).bind fun i => (Tbl.get {} s.flash.heads i).entry).filter fun e => e.serial == serial

/-- The serials of the heads present. -/
def State.presentSerials (s : State) : List Nat := ((List.range 32).map s.headSerial).filter (· != 0)

/-- The slot a new head takes: an empty one, or that of the absent head with the oldest boot epoch (R429). -/
def State.freeSlot (s : State) : Option Nat :=
  match (List.range 64).find? fun i => (Tbl.get {} s.flash.heads i).holder == 0 with
  | some i => some i
  | none =>
    leastBy (fun i => ((Tbl.get 0 s.cal.directory i : Nat) : Int))
      ((List.range 64).filter fun i => !has (Tbl.get {} s.flash.heads i).holder s.presentSerials)

/-- The nozzle table without the nozzles of a head. -/
def clearHead {α : Type} (n size : Nat) (m : List (Nat × α)) : List (Nat × α) :=
  m.filter fun c => !(decide (n * size ≤ c.1) && decide (c.1 < (n + 1) * size))

/-- Entries by position in the head moved to their places on the bar. -/
def placeAt {α : Type} [DecidableEq α] (d : α) (base : Nat) (m : List (Nat × α)) (l : List (Nat × α)) : List (Nat × α) :=
  l.foldl (fun m c => SMap.set d m (base + c.1) c.2) m

/-- The bar columns whose corrections a head's entry gives: all of its own, but those that a head to its left
covers (R233). -/
def State.ownColumns (s : State) (n : Nat) : List Nat :=
  (List.range 2048).filter fun i =>
    ((s.lines.geometry.covering ((s.lines.geometry.head n).col0 + i)).head?) == some n

/-- Column values taken from a head's entry, or set to their default. -/
def State.columnsFrom {α : Type} [DecidableEq α] (s : State) (n : Nat) (d : α) (stored cur : List (Nat × α)) : List (Nat × α) :=
  let c0 := (s.lines.geometry.head n).col0
  (s.ownColumns n).foldl (fun m i => SMap.set d m (c0 + i) (SMap.get d stored i)) cur

/-- The corrections of a head's columns, from its entry (R233). -/
def State.restoreColumns (s : State) (n : Nat) : State :=
  let entry := s.entryOf (s.port n).serial
  { s with loop := { s.loop with
    kappa := s.columnsFrom n 16384 ((entry.map (·.kappa)).getD []) s.loop.kappa
    offsets := s.columnsFrom n 0 ((entry.map (·.offset)).getD []) s.loop.offsets } }

/-- Probes on columns that a head covers end: they are never stored (R233). -/
def State.endHeadProbes (s : State) (n : Nat) : State :=
  (s.loop.probes.filter fun p => has n (s.lines.geometry.covering p.column)).foldl (fun s p => s.endProbe p.column) s

/-- A head's states, counters and corrections at bring-up: from its entry or fresh, then the bad list of its record
with condition 4 and out (R192, R233). The health loop starts with no marks for a new serial, and probes on its columns end. -/
def State.restoreHead (s0 : State) (n : Nat) (fresh : Bool) : State :=
  let s := if fresh then s0.endHeadProbes n else s0
  let p := s.port n
  let entry := s.entryOf p.serial
  let base := n * 4096
  let states0 := if fresh then clearHead n 4096 s.lines.nozzles else s.lines.nozzles
  let states := if fresh then placeAt Memory.empty base states0 ((entry.map (·.states)).getD []) else states0
  let states := p.badList.foldl (fun m i => Memory.write m (base + i) (((Memory.read m (base + i)) &&& 0x30#8) ||| 0x0C#8)) states
  let drops := if fresh then placeAt 0 base (clearHead n 4096 s.lines.drops) ((entry.map (·.drops)).getD []) else s.lines.drops
  let s1 : State := { s with
    lines := { s.lines with nozzles := states, drops := drops }
    loop := { s.loop with seen := SMap.erase n s.loop.seen } }
  if !fresh then s1
  else
    let s2 : State := (({ s1 with loop := { s1.loop with
      windows := clearHead n 4096 s1.loop.windows, exonerated := clearHead n 4096 s1.loop.exonerated } }).restoreColumns n)
    s2.updPort n fun p => { p with sincePeriod := some s.pos.tick }

/-- The head directory at a bring-up: the epoch of the head's slot is updated once per boot epoch (R429). -/
def State.enterDirectory (s : State) (n : Nat) : State :=
  let serial := (s.port n).serial
  if serial = 0 then s
  else
    match (s.slotOf serial).or s.freeSlot with
    | none => s
    | some i =>
      let s1 := if (s.slotOf serial).isSome then s
        else
          let h := Tbl.get {} s.flash.heads i
          let h1 : HeadSlot := { h with claim := serial, dirtyAt := some s.now, urgent := true }
          { s with flash := { s.flash with heads := Tbl.put {} s.flash.heads i h1 } }
      if Tbl.get 0 s1.cal.directory i = s1.journal.epoch then s1
      else { s1 with cal := { s1.cal with directory := Tbl.put 0 s1.cal.directory i s1.journal.epoch } }.calDirty

/-- A change of a head's nozzles: its entry is to be written, soon if a condition or out bit changed (R232). -/
def State.headDirty (s : State) (n : Nat) (urgent : Bool) : State :=
  match s.slotOf (s.port n).serial with
  | none => s
  | some i =>
    if (s.port n).serial = 0 then s
    else
      let h := Tbl.get {} s.flash.heads i
      let h1 : HeadSlot := { h with dirtyAt := some (h.dirtyAt.getD s.now), urgent := h.urgent || urgent }
      { s with flash := { s.flash with heads := Tbl.put {} s.flash.heads i h1 } }

/-- Entries whose keys lie in a range, by their place in it. -/
def keysFrom {α : Type} (base size : Nat) (l : List (Nat × α)) : List (Nat × α) :=
  (l.filter fun c => decide (base ≤ c.1 ∧ c.1 < base + size)).map fun c => (c.1 - base, c.2)

/-- The content of a head's entry now: without probe holds and fence state (R232). While the bar geometry has no place for the head, its
column values are those of its entry. -/
def State.headContent (s : State) (n : Nat) (serial saveCount : Nat) : HeadEntry :=
  let held := s.loop.probes.flatMap (·.held)
  let c0 := (s.lines.geometry.head n).col0
  let placed := (s.lines.geometry.head n).present
  let old := s.entryOf serial
  let states := (s.lines.nozzles.map fun c => if has c.1 held then (c.1, c.2 &&& 0xF7#8) else c).filter fun c => c.2 != 0
  { serial := serial, saveCount := saveCount
    states := keysFrom (n * 4096) 4096 states, drops := keysFrom (n * 4096) 4096 s.lines.drops
    kappa := if placed then keysFrom c0 2048 s.loop.kappa else (old.map (·.kappa)).getD []
    offset := if placed then keysFrom c0 2048 s.loop.offsets else (old.map (·.offset)).getD [] }

/-- Every present head has a valid entry. -/
def State.entriesValid (s : State) : Bool := s.presentSerials.all fun q => (s.entryOf q).isSome

/-- Device firmware clears the mark when every present head has a valid entry and the calibration set passes its
check (R253). -/
def State.checkCalMark (s : State) : State :=
  if s.ring.calCheck && s.entriesValid && s.calChecks then s.clearCalMark else s

/-! ## Bring-up (R187, R189, R208, R210, R211) -/

/-- Step 2: TS1 and ALIGN on both lanes (R187). -/
def State.sendTraining (s : State) (n : Nat) : State :=
  ([0, 1] : List Nat).foldl (fun s lane =>
    (s.sendHead n 0x70 (leBytes 1 lane ++ leBytes 1 n ++ leBytes 1 (b2n (!(s.port n).limitRate)))).sendHead n 0x18 (leBytes 1 lane)) s

/-- Steps 2 to 8 start: TS1 and ALIGN on both lanes, or, under legacy framing, K28.5 (R187, R211). -/
def State.startBringup (s : State) (n : Nat) (legacy through : Bool) : State :=
  let s1 := s.updPort n fun p => { p with
    state := .training, step := 2, stepAt := s.now, pings := [], rate6 := if legacy then s.hb.portCfg.getLsbD n else false
    legacy := legacy, through := through, syncCount := none, inBandFailed := false, recordTwoWire := false
    predicted := none, predSteps := 0, stepDue := none, energy := [], thermalFence := false, derated := false, load := none, joinHoist := none
    dryTo := none, delayWait := false, loopback := 0, missedStatus := 0, statusNow := true, resuming := false, linkLost := false }
  if legacy then s1 else s1.sendTraining n

/-- Block resets of head ports retired for RESET_UNIT whose committed instants have been carried out: the reset is issued and the bring-up
starts (R316). -/
def State.startHeadResets (s : State) : State :=
  (List.range 32).foldl (fun s n =>
    let p := s.port n
    if p.resetDue && p.retiring.isNone then
      let s1 := (s.openWindow (.headPort n) 0).dropInjections fun i => i.checker == 0x0D && i.unit == n
      (s1.updPort n fun p => { p with resetDue := false, attempts := 1, limitRate := false }).startBringup n p.legacy true
    else s) s

/-- A bring-up that has failed: the failed state, and its command completes with UNIT_FENCED (R187, R189). -/
def State.bringupFailed (s : State) (n : Nat) : State :=
  let p := s.port n
  let s1 := s.updPort n fun p => { p with state := .failed, step := 0, bringupSeq := none, load := none }
  match p.bringupSeq with
  | some q => s1.finish q .unitFenced 0 (w32 9) (wordAt (p.record.getD []) 8) (w32 (b2n p.rate6))
  | none => s1

/-- The completion of a bring-up with OK: the error counts are cleared (HDP_PORTn_ERRCNT). -/
def State.bringupOk (s : State) (n : Nat) : State :=
  let p := s.port n
  match p.bringupSeq with
  | some q =>
    (s.updPort n fun p => { p with bringupSeq := none, nak := 0, resent := 0, lost := 0, lateMarker := 0 }).finish q .ok 0
      (w32 6) (wordAt (p.record.getD []) 8) (w32 (b2n p.rate6))
  | none => s

/-- A port enters service: the thermal stop it held goes, and its commits may go on. -/
def State.serve (s : State) (n : Nat) : State :=
  ((s.updPort n fun p => { p with
    state := .inService, noCommit := false, thermalFence := false, step := 0, joinHoist := none, overRate := false
    missedStatus := 0, statusNow := true, lostAt := [], fencedCode := 0 }).releaseThermal n).bringupOk n

/-- Step 8: in service, or, with printing armed, shadow from the next hoist tick; no shadow under legacy framing (R208, R211). -/
def State.enterService (s : State) (n : Nat) : State :=
  if s.pos.armed && !(s.port n).legacy then s.updPort n fun p => { p with step := 8, stepAt := s.now } else s.serve n

/-- A port that waits at step 8 enters shadow at a hoist tick, or service once printing is disarmed (R208). -/
def State.joinShadow (s : State) (n : Nat) (hoist : Bool) : State :=
  if (s.port n).state != .record || (s.port n).step != 8 then s
  else if !s.pos.armed then s.serve n
  else if hoist then s.updPort n fun p => { p with
    state := .shadow, clean := 0, echoTick := some s.pos.tick, joinHoist := none, noCommit := false
    echoCrc := 0xFFFFFFFF, echoFires := 0, echoExpect := none, missedStatus := 0, statusNow := true }
  else s

/-- Row distances and delays with the records and settings in force. -/
def State.distOf (s : State) (r : Nat) : Int :=
  rowDistance s.lines.geometry s.lines.trims s.lines.registration s.spacing r

/-- The recomputed delay of a row, in 1/256 line, with the residual of a synchronised arming (R124, R270). -/
def State.newQ (s : State) (r : Nat) : Int := rowDelay s.pos.lpi (s.distOf r) + (if s.pos.armed then s.ring.residual else 0)

/-- The delays of the rows of a head that its record now gives, with what is in force elsewhere. -/
def State.headQ (s : State) (n : Nat) : List Int :=
  (List.range 64).map fun r => if r / 2 = n then s.newQ r else Tbl.get 0 s.lines.q r

/-- Whether the new delays of a head's rows fit the fixed allocations (R128). -/
def State.headFits (s : State) (n : Nat) : Bool :=
  ([2 * n, 2 * n + 1] : List Nat).all fun r =>
    decide (0 ≤ s.distOf r ∧ 0 ≤ s.newQ r ∧ (s.newQ r).fdiv 256 ≤ (Tbl.get 0 s.lines.alloc r : Nat))

/-- Whether a head may go past step 7: its depth fits, and, with printing armed, its delays fit (R128, R192). -/
def State.headDepthFits (s : State) (n : Nat) : Bool := !(s.depth == 4) || (s.port n).grey4 || (s.port n).legacy

/-- The new delays of a head fit, or none are fixed. -/
def State.headDelaysFit (s : State) (n : Nat) : Bool := !s.pos.armed || !(s.lines.geometry.head n).present || s.headFits n

/-- With printing armed, the new delays of a head's rows apply at the next hoist (R128, R130); HB-8 mode gives its delays outright
(R498). -/
def State.applyHeadRows (s : State) (n : Nat) : State :=
  let last := (s.lines.changes.getLast?.map (·.q)).getD s.lines.q
  let rows := ([2 * n, 2 * n + 1] : List Nat).map fun r => (r, s.newQ r)
  if !s.pos.armed || s.power.mode == .hb8 || !(s.lines.geometry.head n).present || rows.all (fun x => Tbl.get 0 last x.1 == x.2) then s
  else
    let q := (List.range 64).map fun r => (SMap.find? r rows).getD (Tbl.get 0 last r)
    let c : DelayChange := { seq := 0, line := some (64 * (s.pos.tick + 1)), rows := rows, q := q }
    { s with lines := { s.lines with changes := s.lines.changes ++ [c] } }

/-- Step 7: LIMITS, then the waveform. Without a matching set, or with a depth or delays that do not fit, the port waits
(R128, R187, R188). A head inserted later goes no further than state 3 or 4 without HEAD_BRINGUP (R189). DESIGN CHOICE (log 91):
in steps 7 and 8 the state stays 3, record, until the port serves, waits or runs in shadow. -/
def State.stepSeven (s : State) (n : Nat) : State :=
  let s1 := (s.updPort n fun p => { p with step := 7, stepAt := s.now }).sendLimits n
  if !s1.headDepthFits n then s1.updPort n fun p => { p with state := .waiting }
  else if !s1.headDelaysFit n then
    let s2 := s1.updPort n fun p => { p with state := .waiting, bringupSeq := none, delayWait := true }
    match (s1.port n).bringupSeq with
    | some q => s2.finish q .busy 0 (w32 4) (wordAt ((s1.port n).record.getD []) 8) (w32 (b2n (s1.port n).rate6))
    | none => s2
  else match s1.matchingSet n with
    | none => (s1.applyHeadRows n).updPort n fun p => { p with state := .waiting }
    | some set =>
      let s2 := (s1.applyHeadRows n).updPort n fun p => { p with state := .record }
      if (s2.port n).through then s2.loadWave n set none 0 else s2

/-- Ports in state 4 move on as soon as what they waited for has gone (R192, R194). One that waits for its row delays has them recomputed
once printing is disarmed, and goes on with a HEAD_BRINGUP only (R127, R128). -/
def State.retryWaiting (s : State) : State :=
  (List.range 32).foldl (fun s n =>
    let p := s.port n
    if p.state != .waiting then s
    else if p.delayWait then
      (if s.pos.armed || s.power.mode == .hb8 || s.headQ n == s.lines.q then s else { s with lines := { s.lines with q := s.headQ n } })
    else if s.headDepthFits n && s.headDelaysFit n && (s.matchingSet n).isSome then s.stepSeven n else s) s

/-- A valid record is held: limits of bring-up, nozzle states and directory, the delays of its rows, then step 7,
or service at once under legacy framing (R191 to R193, R198, R501). -/
def State.takeRecord (s : State) (n : Nat) (l : List Byte) (twoWire : Bool) : State :=
  let serial := serialOf l
  let fresh := (s.port n).serial ≠ serial
  let hard := sleAt l 50 2
  let s1 := s.updPort n fun p => { p with
    record := some l, serial := serial, recordTwoWire := twoWire, hard := hard, soft := hard - 80
    legacy := p.legacy && bitOf (leAt l 5 1) 3 }
  let before := if fresh then ((s1.entryOf serial).map (·.states)).getD [] else keysFrom (n * 4096) 4096 s.lines.nozzles
  let listed := (s1.port n).badList.any fun i => Memory.read before i &&& 0x0F#8 != 0x0C#8
  let s1a := (s1.restoreHead n (decide fresh)).enterDirectory n
  let s2 := (if listed then s1a.headDirty n true else s1a).checkCalMark
  let s3 := if s2.pos.armed || s2.power.mode == .hb8 then s2
    else { s2 with lines := { s2.lines with q := s2.headQ n } }
  s3

/-- A head without a record (R501): HB_TLIMIT is the hard limit. -/
def State.withoutRecord (s : State) (n : Nat) : State :=
  let hard : Int := (s.hb.tLimit.toNat : Int)
  s.updPort n fun p => { p with record := none, serial := 0, hard := hard, soft := hard - 80 }

/-- A record read over the two-wire bus of the port starts, from its head's address (R190). -/
def State.readTwoWire (s : State) (n : Nat) : State :=
  (s.updPort n fun p => { p with state := .record, step := 6, stepAt := s.now, inBandFailed := true }).drive (.twoWire (n / 8) (0x50 + n % 8) 0)

end Sys2Proof.Machine
end

