-- ==== Sys2Proof/Machine/Web.lean ====
section
/-!
DEFINITION. Machine/Web.lean: position channels: counting (R144), direction (R146, R147), speed (R149, R150),
the interpolated position and the high-water mark (R148, R151, R152), prediction of fire instants and compare
firings (R156, R163), and arming (R170, R172).
-/

namespace Sys2Proof.Machine

/-! ## Edges -/

/-- The moment at which a change first seen in the sample at `t` is accepted: the end of the F whole cycles of 4 ns that follow
the cycle of that sample; with F = 0 the sample itself (R143). -/
def acceptedAt (f t : Nat) : Nat := if f = 0 then t else 4 * (t / 4 + f) + 3

/-- An accepted edge on a channel, first seen at `at_`, that changes its count by `d` (R143, R146, R147, R149, R150). -/
def State.acceptEdge (s : State) (n : Nat) (d : Int) (at_ : Nat) : State :=
  let c := s.chan n
  let count := c.count + d
  if (if c.backward then decide (count < c.extreme) else decide (c.extreme < count)) then
    s.updChan n fun c => { c with
      count := count, extreme := count, advanced := true, since := at_
      edges := ((at_, count) :: c.edges).take 64, stamps := (at_ :: c.stamps).take 5, counted := c.counted + 1, stalled := false }
  else
    let behind := if c.backward then count - c.extreme else c.extreme - count
    if (c.set.hysteresis : Int) < behind then
      (s.updChan n fun c => { c.lose with
        count := count, backward := !c.backward, dirChanges := c.dirChanges + 1, extreme := count, advanced := false }).interrupt 10
    else s.updChan n fun c => { c with count := count, advanced := false }

/-! ## Limits of speed (R25, R26, R204) -/

/-- The upper limit of the line rate (R25). -/
def State.upperRate (s : State) : Nat := if s.runningPorts.any fun n => (s.port n).grey4 then 150000 else 300000

/-- Fault 0x0702 once per excursion above the limit while armed, and firing stops for its length (R25). -/
def State.checkOverspeed (s : State) : State :=
  let above := decide ((s.upperRate : Rat) < s.speed)
  if above && s.pos.armed && !s.pos.overLimit then
    (({ s with pos := { s.pos with overLimit := true } }).fault 0x0702).hbErr 8
  else if !above && s.pos.overLimit then { s with pos := { s.pos with overLimit := false } }
  else s

/-- Fault 0x0807 once per excursion of a port above its head's maximum rate while armed (R204). -/
def State.checkHeadRate (s : State) : State :=
  (List.range 32).foldl (fun s n =>
    let p := s.port n
    let above := p.state == .inService && decide ((p.maxRate : Rat) < s.speed)
    if above && s.pos.armed && !p.overRate then
      ((s.updPort n fun p => { p with overRate := true }).detect { code := 0x0807, unit := n }).hbErr 8
    else if !above && p.overRate then s.updPort n fun p => { p with overRate := false }
    else s) s

/-- Whether fire instants may be committed at all now (R145, R153, R156, R159, R173 to R175). -/
def State.mayCommit (s : State) : Bool :=
  s.pos.armed && !s.pos.stopped && s.pos.stopN && s.pos.inhibitN && (s.chan 0).valid && !s.pos.overLimit &&
  decide (2400 ≤ s.speed) && decide (s.speed ≤ (s.upperRate : Nat)) && !s.pos.copiesDiffer
  && s.power.phase == .running && s.pos.disarming != some .immediate

/-- Whether a port's instants may be committed; one in shadow is not held back by its head's rate (R184, R200, R204, R206). -/
def State.portCommits (s : State) (n : Nat) : Bool :=
  let p := s.port n
  p.runs && !p.noCommit && !p.resuming && !(p.retiring.any fun r => r.drain.isNone) && (p.state != .inService || decide (s.speed ≤ (p.maxRate : Nat)))

/-! ## Prediction (R156, R163) -/

/-- λ of a port in ns (R156). -/
def State.lead (s : State) (n : Nat) : Rat :=
  let p := s.port n
  ((p.latency + p.delta : Nat) : Rat) * 20 / 1000

/-- T for a position in 1/65,536 line: from the last advancing edge, not clamped; none while the speed is invalid or not
forward. -/
def State.predict (s : State) (p : Int) : Option Rat :=
  let c := s.chan 0
  let v := c.signedRate s.now * c.linesPerCount s.pos.lpi
  if !c.valid || !(0 < v) then none
  else some (((c.stamps.headD 0 : Nat) : Rat) + ((p - s.pOf c.extreme : Int) : Rat) / 65536 / v)

/-- Compare firings whose commit moment has come, 512 ns before the latest instant predicted, with the speed valid and the target
above H, are committed, and their instant does not change any more (R156, R163). -/
def State.commitUnits (s : State) : State :=
  let take := fun (u : Compare) =>
    if u.live && u.committed.isNone && (s.chan 0).valid then
      match u.instant with
      | some t => if t ≤ (s.now : Rat) + 512 then { u with committed := some (roundHalfUp (t * 50)) } else u
      | none => u
    else u
  { s with pos := { s.pos with units := s.pos.units.map take } }

/-- With the speed lost, a firing not committed has no instant (R163). -/
def State.forgetUnits (s : State) : State :=
  if (s.chan 0).valid then s
  else { s with pos := { s.pos with units := s.pos.units.map fun u => if u.committed.isNone then { u with instant := none } else u } }

/-- Every pending fire position within two line steps gets its predicted instant; compare firings within two line
steps too, one whose instant is 512 ns ahead or less being committed, at 160 ns ahead at the soonest. -/
def State.predictAll (s : State) : State :=
  let near := s.position + 2 * 65536
  let pending := s.pos.pending.map fun x => if x.position ≤ near then
      { x with instant := (s.predict x.position).or x.instant } else x
  let units := s.pos.units.map fun u =>
    if u.live && u.committed.isNone && decide (u.set.target * 256 ≤ near) && decide (s.highWater < u.set.target * 256) then
      match s.predict (u.set.target * 256) with
      | some t =>
        if t ≤ (s.now : Rat) + 512 then
          let soonest : Rat := (s.now : Rat) + 160
          { u with instant := some t, committed := some (roundHalfUp ((if t < soonest then soonest else t) * 50)) }
        else { u with instant := some t }
      | none => u
    else u
  { s with pos := { s.pos with pending := pending, units := units } }

/-! ## Reprints (R388, R389) -/

/-- The web stands still: v is 0 (R28, R150). -/
def State.webStands (s : State) : Bool := !(s.chan 0).valid

/-- Whether the reprint timing of a page's job has come: at once, or with the job's last page (R388). -/
def State.reprintTime (s : State) (p : Page) : Bool :=
  match s.job? p.job with
    | none => false
    | some j => !s.atJobEnd j ||
        (j.closing && s.store.pages.all fun x => x.job != p.job || x.state == .held || x.state == .fired || x.state == .printing)

/-- Whether a page held for reprint may take the next follow position now (R388, R389). -/
def State.reprintReady (s : State) (p : Page) : Bool :=
  p.state == .held && !s.causePersists p && s.groupOf p == 0 && s.reprintTime p

/-! ## Arming (R137, R170, R172, R270, R390) -/

/-- The row delays that arming fixes: with the sync residual added; in HB-8 mode those of the head delays (R124, R270, R498). -/
def State.armQ (s : State) (residual : Int) : List Int :=
  if s.power.mode = .hb8 then s.lines.q
  else (List.range 64).map fun r => if (s.lines.geometry.head (r / 2)).present then s.newQ r + residual else 0

/-- ρ of R270, in 1/256 line. -/
def Ring.rho (r : Ring) : Int :=
  match r.offset with
  | none => 0
  | some o =>
    let f := ((o + r.webOffset).fmod 65536 + 128) / 256
    if f = 256 then 0 else f

/-- The distance that the acceptability of delays is judged by; HB-8 mode has none (R126, R498). -/
def State.armDist (s : State) (r : Nat) : Int := if s.power.mode = .hb8 then 0 else s.distOf r

/-- The order 9 check: where the delays are not acceptable (R127, R172). -/
def State.delayVerdict (s : State) : Option Loc :=
  (delayFault s.lines.geometry s.depth s.armDist (Tbl.get 0 (s.armQ s.ring.rho))).map Loc.delay

/-- AX0 is at its print position; in HB-8 mode an AX0 never configured counts as such (R172, R488). -/
def State.axisReady (s : State) : Bool :=
  s.atPrint 0 || (s.power.mode == .hb8 && !(s.axis 0).configured)

/-- Contone input without a threshold array of the output depth, in force or loaded for the next window (R98). -/
def State.wantsThreshold (s : State) : Bool :=
  (s.render.format.any fun f => f.kind == 0) && !((s.render.thresholdNext.or s.render.threshold).any fun t => t.depth == s.depth)

/-- The checks of ARM_PRINT in their order (R172). -/
def State.armVerdict (s : State) : Option (Status × Loc) :=
  if s.power.mode = .factory then some (.notInMode, ⟨0, 0⟩)
  else if s.pos.armed then some (.busy, ⟨0, 0⟩)
  else if s.flt.faultState || s.ring.role == .guest || s.ring.calCheck then some (.denied, ⟨0, 0⟩)
  else if !s.pos.stopN then some (.denied, ⟨0, 0⟩)
  else if !s.axisReady then some (.denied, ⟨0, 0⟩)
  else if !(s.chan 0).valid then some (.busy, ⟨0, 0⟩)
  else if !s.anyInService || !s.lines.geometry.set then some (.noResource, ⟨0, 0⟩)
  else if s.wantsThreshold then some (.noResource, ⟨0, 0⟩)
  else match s.delayVerdict with
    | some l => some (.badParam, l)
    | none => none

/-- k_a (R172). -/
def State.armHoistNow (s : State) : Int := (s.highWater.fdiv 65536).fdiv 64 + s.leadInForce + 2

/-- The allocation of a row at arming (R126, R498). -/
def State.armAlloc (s : State) (r : Nat) (q : Int) : Nat :=
  if !(s.lines.geometry.head (r / 2)).present then 0
  else if s.power.mode = .hb8 then (if s.hb.headEn.getLsbD (r / 2) then 8191 else 0)
  else allocation s.lines.geometry.margin q

/-- Pages at arming: reprints with immediate timing, then the stored ones in journal order (R168, R170, R388, R390); placements fixed already
take their place in the follow chain (R167). DESIGN CHOICE (log 88): an at-compare page fixed while disarmed below the arm hoist stays
stored, with no late start. -/
def State.placeAtArm (s0 : State) : State :=
  let order := sortBy (fun p => (p.seq : Int)) s0.store.pages
  -- a page still on its way whose line lies below the arm hoist has its late start when it is stored
  let below := fun (p : Page) => if p.onItsWay && p.first.any (fun f => decide (f < 64 * s0.pos.armHoist)) then { p with late := true, blind := true } else p
  let s : State := { s0 with store := { s0.store with pages := s0.store.pages.map below } }
  let s1 := order.foldl (fun s p =>
    if s.reprintReady p then s.placeReprint p.seq
    else if p.state == .stored && p.reprints != 0 && p.first.isNone && !p.legacy && s.groupOf p == 0 then s.placeFollow p.seq
    else s) s
  order.foldl (fun s p =>
    match s.page? p.seq with
    | none => s
    | some p =>
      if p.legacy then s
      else if p.state != .stored then (if p.onItsWay && !p.blind then (match p.first with | some l => s.notePlace p.seq l | none => s) else s)
      else if p.synced.isSome then
        match p.first with
        | some f => if f < 64 * s.pos.armHoist then
            (s.spoil p.seq (s.lossOf f (f + s.linesOf p - 1) 3) .each).notThere p.seq
          else s
        | none => s
      else if s.groupOf p ≠ 0 then s
      else match p.placement with
        | .follow => if p.first.isNone then s.placeFollow p.seq else s
        | .atLine l => if l < 64 * s.pos.armHoist && p.reprints = 0 then s.lateStart p.seq l
            else match p.first with
              | some l => s.notePlace p.seq l
              | none => s.placeFollow p.seq
        | .atCompare u => match p.first with
          | none => if p.reprints = 0 then s.placeCompare p.seq u else s.placeFollow p.seq
          | some f => if f < 64 * s.pos.armHoist then s else s.notePlace p.seq f) s1

/-- The commands of an immediate disarm in progress, with the last fire instant that they wait for (R173). -/
def Position.openDisarms (p : Position) : List LateDisarm :=
  p.disarmSeqs.map fun q =>
    { seq := q, held := p.disarmHeld, stored := p.disarmStored, until_ := (p.committed.map (·.f)).foldl max 0 }

/-- Printing is armed (R172); a re-split still to come applies from its first hoist (R109), and the placements kept back by a change of
the offset are made (R270). -/
def State.arm (s : State) : State :=
  let rho := s.ring.rho
  let q := s.armQ rho
  let s1 := { s with
    pos := { s.pos with
      armed := true, armHoist := s.armHoistNow, stopped := false, stoppedBlock := 0, illegalAt := [], illegalRaised := false
      copiesDiffer := false, overLimit := false, pending := [], disarming := none, disarmSeqs := [], disarmHeld := 0, disarmStored := 0
      lateDisarms := s.pos.lateDisarms ++ s.pos.openDisarms }
    lines := { s.lines with
      q := q, alloc := (List.range 64).map fun r => s.armAlloc r (Tbl.get 0 q r)
      delay := [], changes := [], blanked := [] }
    render := { s.render with
      hoists := [], lastOpened := none, audits := [], slices := [], remains := [], catchUpTo := none, windows := [], outSets := [], widthSets := []
      resplitAt := s.render.resplitAt.map fun _ => s.armHoistNow
      origins := (List.range 32).map fun n =>
        let m : HeadMask := Tbl.get ({} : HeadMask) (s.render.masksNext.getD s.render.masks) n
        { ox := m.ox, oy := m.oy, polarity := false } }
    heads := { s.heads with ports := s.heads.ports.map fun (p : HeadPort) => { p with dryTo := none } }
    ring := { s.ring with residual := rho, syncStopped := false, placements := [] }
    power := { s.power with rearm := false } }
  (s.ring.placements.foldl (fun s x => s.syncPlaceLocal x.1 x.2.1 x.2.2) s1).placeAtArm

/-- Firmware arms printing itself and journals that ARM_PRINT as queue 9 (R393, R500). -/
def State.armByFirmware (s : State) : State :=
  match s.armVerdict with
  | some _ => s
  | none =>
    let seq := s.seqOf s.journal.next
    let e : JEntry := { seq := seq, tag := 0, opcode := 0x0505, flags := 0x10, queue := 9, state := .done, status := 0, detail := 0
                        acceptTime := s.stamp.2, stateTime := s.stamp.2, timesValid := s.stamp.1
                        r0 := w32i s.armHoistNow, r1 := 0, r2 := 0, r3 := 0, params := [], waitsSince := none, readableUntil := none, started := true }
    { s with journal := { s.journal with next := s.journal.next + 1, entries := s.journal.entries ++ [e] } }.arm

end Sys2Proof.Machine
end

