-- ==== Sys2Proof/Machine/HostOps.lean ====
section
/-!
DEFINITION. Machine/HostOps.lean: the resets (R275, R449 to R452), the settings of the encoder and the line pitch
that commands and HB-8 registers share (R142, R148, R496), the HB-8 set-up (R493, R498, R499), and the end
of SHUTDOWN_PREPARE (R317, R435).
-/

namespace Sys2Proof.Machine

/-! ## Encoder and pitch (R146, R148, R150) -/

/-- c_org at POS0's present count: H is 0 and hoist numbering restarts, and the fire history is cleared (R148, R214); tick 0, which
occurs at once, is left to `State.zeroTick`. -/
def State.restartReference (s : State) : State :=
  { s with
  -- ticks of probes count on, and every period to come is fired after the bring-ups so far (R227, R233)
  loop := { s.loop with history := [], staging := [], probes := s.loop.probes.map fun p => { p with startTick := p.startTick - s.pos.tick } }
  heads := { s.heads with ports := s.heads.ports.map fun p => { p with sincePeriod := none } }
  -- on the manager the web line runs on without a break; a member measures its offset again (R268)
  ring := { s.ring with
    offset := if s.ring.role == .manager then s.ring.offset.map (· - s.pos.h) else none
    offsetWanted := s.ring.role != .manager, offsetEdge := none }
  pos := { s.pos with
    cOrg := (s.chan 0).count, h := 0, tick := 0, line := 0, illegalAt := [], zeroDue := true
    slipTick := 0, slipCount := (s.chan 1).count } }

/-- A channel with a new setting: forward, speed invalid, and its counts of the setting cleared (R146). -/
def Channel.configured (c : Channel) (e : EncoderSet) : Channel :=
  { c.lose with
  set := e, backward := false, extreme := c.count, edges := [], advanced := false, illegal := 0, dirChanges := 0, slip := 0 }

/-- A SET_ENCODER takes effect on a channel: forward, with the speed invalid; for POS0 the reference restarts. -/
def State.applyEncoder (s : State) (n : Nat) (e : EncoderSet) : State :=
  let s1 := s.advance.commitUnits.updChan n fun c => c.configured e
  if n = 0 then s1.restartReference.forgetUnits
  else if n < 2 then s1
  else
    -- the axis of the channel loses its home offset; set-point and feedback shift together (R332)
    s1.updAxis (n - 2) fun a => { a with setCount := a.setCount - a.homeOffset, homeOffset := 0, homed := false }

/-- Every row delay of a present head recomputed (R124). -/
def State.recomputeDelays (s : State) : State :=
  { s with lines := { s.lines with
    q := (List.range 64).map fun r => if (s.lines.geometry.head (r / 2)).present then s.newQ r else 0 } }

/-- The row delays of HB-8 mode from the delay of a head in force (R498). -/
def State.legacyQ (s : State) (lpi r : Nat) : Int :=
  let u : Int := if lpi = 1200 then 2 else 1
  let a := ((Tbl.get 0 s.hb.delaysSet (r / 2)).toNat : Int) * u * 256
  if r % 2 = 0 then a else a + rowDelay lpi (s.spacing (r / 2))

/-- A web offset u_i in 1/65,536 line (R267). -/
def webOffsetOf (um lpi : Nat) : Int := ((um * 1000 * lpi * 65536 + 12700000) / 25400000 : Nat)

/-- A change of the roster: a new generation and count, and the calibration set that stores it is to be written (R251). -/
def State.rosterChanged (s : State) : State :=
  ({ s with ring := { s.ring with generation := s.ring.generation + 1, count := s.ring.members.length } }).calDirty

/-- The own entry of a manager's roster follows what is set at the chip itself (R251, R267). -/
def State.ownEntry (s : State) (f : RosterEntry → RosterEntry) : State :=
  let l := s.ring.roster.map fun x => if some x.node = s.ring.node then f x else x
  if s.ring.role ≠ .manager ∨ l = s.ring.roster then s else ({ s with ring := { s.ring with roster := l } }).rosterChanged

/-- What a line pitch changes but for the reference and the delays (R150, R267): the speeds of POS0 and POS1 become invalid. -/
def State.takePitch (s0 : State) (lpi : Nat) : State :=
  let s := s0.advance.commitUnits
  let s1 : State := { s with
    pos := { s.pos with lpi := lpi }
    ring := { s.ring with webOffset := webOffsetOf s.ring.webOffsetUm lpi } }
  let s2 : State := ([0, 1] : List Nat).foldl (fun s n => s.updChan n fun c => { c.lose with advanced := false }) s1
  let s4 := s2.ownEntry fun x => { x with webOffset := s2.ring.webOffset }
  if s4.ring.roster = s2.ring.roster then s4 else s4.transact 0 0 [] none

/-- The delays of a line pitch (R124, R498). -/
def State.pitchDelays (s : State) (lpi : Nat) : State :=
  if s.power.mode = .hb8 then
    { s with lines := { s.lines with q := (List.range 64).map fun r => if r < 16 then s.legacyQ lpi r else 0 } }
  else s.recomputeDelays

/-- A line pitch takes effect (R148, R150): the reference restarts. -/
def State.applyPitch (s : State) (lpi : Nat) : State := (((s.takePitch lpi).restartReference).forgetUnits).pitchDelays lpi

/-! ## HB-8 registers and set-up -/

/-- HB_ENCCFG and HB_ENCDIV as a SET_ENCODER of POS0; none where a value is outside its range (R496). -/
def Hb.encoder (h : Hb) (lpi : Nat) : Option EncoderSet :=
  let mode := h.encCfg.toNat % 4
  let base : EncoderSet := { invert := h.encCfg.getLsbD 2, filter := bits h.encCfg.toNat 4 6 }
  if mode = 3 then some { base with mode := 3, pitchNum := if lpi = 1200 then 63500 else 127000, pitchDen := 3 }
  else if h.encDiv.toNat < 0x10 ∨ 0x5555 < h.encDiv.toNat then none
  else some { base with mode := 2 - mode, pitchNum := 2032000, pitchDen := 3 * h.encDiv.toNat }

/-- The encoder registers applied to POS0; CFG where they cannot be (R496). -/
def State.hbApplyEncoder (s : State) : State :=
  match s.hb.encoder s.pos.lpi with
  | some e => s.applyEncoder 0 e
  | none => s.hbErr 32

/-- The settings that HB-8 mode fixes: bar, format, masks, legacy job, encoder and pitch, which leave the reference where it is (R452, R493,
R496, R498, R499). -/
def State.hbSetup (s : State) : State :=
  let g : Geometry := { set := true, heads := (List.range 8).map fun n => { present := true, col0 := 2048 * n } }
  let tile : Tile := ⟨8, 2, [0x00, 0xFF]⟩
  let job : Job := { id := 0, verify := false, reprint := 0, horizon := 16, gap := 0, group := 0 }
  let s1 : State := { s with
    lines := { s.lines with geometry := g }
    render := { s.render with
      format := some { kind := 1, wIn := 16384, c0 := 0, upscale := 0, depth := 2 }
      masks := List.replicate 32 { tile := tile } }
    store := { s.store with jobs := [some job] } }
  let lpi := if s1.hb.pitch then 1200 else 600
  let s2 := ((s1.takePitch lpi).forgetUnits).pitchDelays lpi
  match s2.hb.encoder lpi with
  | some e => s2.updChan 0 fun c => c.configured e
  | none => s2.hbErr 32

/-- The held fields take effect, with ENABLE at 0 (R489, R496). -/
def State.hbTakeHeld (s : State) : State :=
  let newPitch := s.hb.pitchHeld != s.hb.pitch
  let newEnc := s.hb.encCfgHeld != s.hb.encCfg || s.hb.encDivHeld != s.hb.encDiv
  let h := s.hb
  let s1 : State := { s with hb := { h with
    depth := h.depthHeld, pitch := h.pitchHeld, start := h.startHeld, encCfg := h.encCfgHeld, encDiv := h.encDivHeld } }
  let s2 := if newPitch then s1.applyPitch (if s1.hb.pitch then 1200 else 600) else s1
  if newEnc || (newPitch && s2.hb.encCfg.toNat % 4 == 3) then s2.hbApplyEncoder else s2

/-- Whether compression work is for a legacy page. -/
def CompressWork.isLegacy (w : CompressWork) : Bool :=
  match w.user with
  | .legacy _ => true
  | _ => false

/-- A lane without work for a legacy page. -/
def Lane.dropLegacy (l : Lane) : Lane := if l.work.any CompressWork.isLegacy then { l with work := none } else l

/-! ## Compression lanes (R71) -/

/-- The place of a frame in the order of R71. -/
def CompressWork.rank (w : CompressWork) : Int :=
  match w.user with
  | .legacy _ => -2
  | .exporting _ => -1
  | .job seq => seq

/-- The waiting frame that a free lane takes: the lowest rank, then the lowest index. -/
def nextFrame (l : List CompressWork) : Option CompressWork := leastBy CompressWork.rank l

/-- Free lanes take waiting frames, lane by lane. -/
def State.assignLanes (s : State) : State :=
  (List.range 32).foldl (fun s n =>
    let l : Lane := Tbl.get {} s.codec.lanes n
    if l.state != .inService || l.work.isSome then s
    else match nextFrame s.codec.lanesWaiting with
      | none => s
      | some w => { s with codec := { s.codec with
          lanes := Tbl.put {} s.codec.lanes n { l with work := some w }
          lanesWaiting := s.codec.lanesWaiting.erase w } }) s

/-- Every legacy line held goes, with the legacy pages (R489, R500). -/
def State.hbDiscard (s : State) : State :=
  { s with
    hb := { s.hb with lines := [], partialLine := [], openPage := [], nextLine := none, blankTo := none }
    store := { s.store with pages := s.store.pages.filter fun p => !p.legacy }
    codec := { s.codec with
      jobs := s.codec.jobs.filter fun j => decide (j.seq < 2 ^ 64)
      lanesWaiting := s.codec.lanesWaiting.filter fun w => !w.isLegacy
      lanes := s.codec.lanes.map Lane.dropLegacy } }

/-- ENABLE is cleared: printing disarms immediately, every line held is discarded, and held fields take effect (R500). -/
def State.hbDisable (s : State) : State :=
  let s1 : State := { s with hb := { s.hb with enable := false, waitArm := false } }
  ((s1.disarmNow 0x02).hbDiscard).hbTakeHeld

/-- Every BAR4 register at its reset value, with the effects of clearing ENABLE (R487). The position and the fire history are kept (R449): the
pitch and the encoder settings are applied, which restarts the reference (R496), only where they differ from those in force (DEDUCED,
log 111). -/
def State.hbReset (s : State) : State :=
  if s.power.mode ≠ .hb8 then s
  else
    let s1 := (s.disarmNow 0x02).hbDiscard
    let s2 : State := { s1 with hb := { openBar := true, temps := s1.hb.temps } }
    let s3 := if s2.pos.lpi = 600 then s2 else s2.applyPitch 600
    if s3.hb.encoder 600 = some (s3.chan 0).set then s3 else s3.hbApplyEncoder

/-! ## Host interface reset (R275, R449) -/

/-- Debug unlock closes at any reset; TRIES and the bar of three failures stay until power-on reset (R301). -/
def HostPort.closeDebug (h : HostPort) : HostPort :=
  { h with dbgState := if 3 ≤ h.dbgTries then 3 else 0, dbgScope := 0, dbgChallenge := [], dbgResponse := []
           bar2Open := false, jtagOpen := false }

/-- A debug unlock that was open, or a challenge that was out, closes at a reset, and vector 12 tells it (R294, R301). -/
def State.closeDebug (s : State) : State :=
  let was := s.host.dbgState
  let s1 : State := { s with host := s.host.closeDebug }
  if was = 1 ∨ was = 2 then s1.info 0x8103 0 (w32 s1.host.dbgState) (s.host.dbgScope.zeroExtend 32) else s1

/-- The mailbox block and the MSI-X table at their reset values; RESETKIND takes the cause (R275, R449). -/
def State.resetMailboxes (s : State) (kind : Nat) : State :=
  let h := s.host
  { s with host := { h with
    cq := [], cc := [], lastServed := 7, jnlWait := false, resetKind := kind, msix := [], pending := 0, latch := []
    dbgScope := 0, dbgWindow := 0 } }

/-- Whether an entry's DMA is under way, so that a host interface reset stops it (R275). -/
def State.dmaRunning (s : State) (e : JEntry) : Bool :=
  e.waitsSince.isSome ||
  s.codec.jobs.any (fun j => j.seq == e.seq) ||
  s.store.pages.any (fun p => p.seq == e.seq && p.state == .transferring)

/-- Whether an entry's page is verified still, and so not yet stored (R41, R275). -/
def State.unstored (s : State) (e : JEntry) : Bool := s.store.pages.any fun p => p.seq == e.seq && p.state == .verifying

/-- The commands whose DMA has been stopped complete with CANCELLED and a detail bit: a page not yet stored is
gone, and a codec job with it (R275, R278). -/
def State.cancelDma (s : State) (e : JEntry) (detail : BitVec 32) : State :=
  if s.store.pages.any (fun p => p.seq == e.seq && (p.state == .transferring || p.state == .verifying)) then
    s.releaseAs e.seq .cancelled detail
  else
    let s1 : State := { s with
      heads := { s.heads with ports := s.heads.ports.map fun p => if p.test.any (fun x => x.seq == e.seq) then { p with test := none } else p }
      codec := { s.codec with
      jobs := s.codec.jobs.filter fun j => j.seq != e.seq
      waiting := s.codec.waiting.filter fun w => w.user != .job e.seq
      units := s.codec.units.map fun u => if u.work.any (fun w => w.user == .job e.seq) then { u with work := none } else u
      lanesWaiting := s.codec.lanesWaiting.filter fun w => w.user != .job e.seq && w.user != .exporting e.seq
      lanes := s.codec.lanes.map fun l =>
        if l.work.any (fun w => w.user == .job e.seq || w.user == .exporting e.seq) then { l with work := none } else l } }
    s1.finish e.seq .cancelled detail

/-- A host interface reset (R275) of a RESETKIND: configuration space, mailboxes and MSI-X are reset, debug unlock
closes, DMA stops, and the commands concerned complete with CANCELLED and detail bit 31. READY keeps
its value: device firmware goes on serving. -/
def State.hostInterfaceReset (s : State) (kind : Nat) : State :=
  let s1 := ((s.dropInjections fun i => i.checker == 0x03).closeDebug).resetMailboxes kind
  let s2 : State := { s1 with host := { s1.host with busMaster := false, d3hot := false } }
  let s3 := (s2.journal.entries.filter fun e => !e.state.final && (s2.dmaRunning e || s2.unstored e)).foldl (fun s e => s.cancelDma e bit31) s2
  (s3.hbReset).info 0x8101 0 (w32 kind)

/-! ## Warm reset (R363, R448 to R451) -/

/-- An axis at rest with its set-point at its present position (R451). -/
def Axis.warm (a : Axis) (pos : Int) : Axis :=
  { a with motion := none, speed := 0, setCount := pos, setFrac := 0, stops := [], resetCmd := none, state := if a.configured then a.restState else .unconfigured }

/-- A halyard port that trains again (R449). -/
def Halyard.retrain (h : Halyard) : Halyard :=
  { h with state := .down, lock := false, attempts := 0, everTried := false, confirmSent := false, confirmGot := false
           clean := 0, shadowBad := false, joinNext := false, shadowNext := false, farReady := false, loop := 0, trips := [], resetCmd := none }

/-- A head port through a warm reset: one in service stays so; an interrupted shadow or bring-up starts again (R391, R450). -/
def HeadPort.warm (p : HeadPort) : HeadPort :=
  { p with
    load := none, test := none, bringupSeq := none, retiring := none, sent := [], clean := 0, resetDue := false, resetCmd := none
    joinHoist := none, echoExpect := none, echoTick := none, missedStatus := 0, resuming := false, linkLost := false
    step := if p.state == .training || p.state == .record then 2 else p.step
    state := match p.state with
      | .training | .record => .present
      | .inService => if p.retiring.any fun r => r.drain.isNone then .retired else .inService
      | st => st }

/-- The ring through a warm reset: its links train again, the chip falls silent as a manager, keeps its admission, and takes a new
incarnation (R247, R249, R449). -/
def Ring.warm (r : Ring) : Ring :=
  { r with
    east := r.east.retrain, west := r.west.retrain, rstate := .forming, role := if r.node.isSome then .worker else .guest
    epoch := 0, manager := none, count := 0, standby := none, heard := [], incarnation := r.incarnation + 1
    nextSqs := r.nextSqs.filter fun x => x.1 % 256 == 0xFD
    unacked := [], election := .idle, upAt := none, lowerClaim := false, appointing := none, mirrored := [], ackedBy := [], transactions := [], counts := []
    handoverSeq := none, forwarded := [], syncPages := [], scanSeq := none, unreached := [], offsets := [], groups := [], adopted := []
    profileIn := [], told := none }

/-- Nozzles that a probe holds out are let go, where the loop may change them: a warm reset ends the probes (R226, R227). -/
def State.releaseHolds (s : State) : State :=
  let l := ((s.loop.probes.flatMap (·.held)).filter s.loopMay).foldl (fun m i => Memory.write m i (Memory.read m i &&& 0xF7#8)) s.lines.nozzles
  { s with lines := { s.lines with nozzles := l }, loop := { s.loop with probes := [] } }

/-- Printing ends at the start of a warm reset: no fire instant is committed, and the blocks on the print path
are held in reset. Pages keep their state until recovery (R392, R450). -/
def State.dropPrinting (s : State) : State :=
  { s with
    pos := { s.pos with armed := false, pending := [], disarming := none, disarmSeqs := [], lateDisarms := [] }
    render := { s.render with
      hoists := [], lastOpened := none, audits := [], slices := [], remains := [], catchUpTo := none, windows := s.windowList, outSets := [], widthSets := []
      pennants := s.render.pennants.map fun p =>
        { p with work := [], extra := [], clean := 0, matched := 0, shadowWords := [], joins := false, resetDue := false, resetCmd := none, state := if p.resetDue then .shadow else p.state } }
    lines := { s.lines with delay := [], alloc := [], changes := [], blanked := [] }
    store := { s.store with jobs := s.store.jobs.map fun j => j.map fun j => { j with followEnd := none } } }

/-- The codec held in reset: its work is lost, its units keep their service states. -/
def Codec.warm (c : Codec) : Codec :=
  { c with waiting := [], lanesWaiting := [], jobs := []
           units := c.units.map fun u => { u with work := none, clean := 0, joins := false, resetDue := false, resetCmd := none, state := if u.resetDue then .shadow else u.state }
           lanes := c.lanes.map fun l => { l with work := none, clean := 0, joins := false, resetDue := false, state := if l.resetDue then .shadow else l.state } }

/-- The episode open at a warm reset is closed: every opener ends its part, and the last writes 0x8202 (R404, R451). -/
def State.closeEpisodes (s : State) : State :=
  s.evt.openers.foldl (fun s k => s.episodeClose k (if k = 4 then s.evt.hostValue else 0)) s

/-- A warm reset starts (R450), of a RESETKIND: 1 PERST_N, 2 RESET_UNIT, 3 the sentinel watchdog. -/
def State.warmReset (s : State) (kind : Nat) : State :=
  let s1 := ((s.info 0x8C02 0 (w32 kind)).closeEpisodes).closeDebug.resetMailboxes kind
  let s2 := s1.dropPrinting.releaseHolds
  { s2 with
    host := { s2.host with ready := false, busMaster := s2.host.busMaster && kind != 1, d3hot := s2.host.d3hot && kind != 1 }
    power := { s2.power with
      phase := .warmReset, resetAt := s2.now, resetCause := kind, resetH := s2.highWater, standby := false
      resetFault := match kind with | 1 => 0x01 | 2 => 0x02 | _ => if s.flt.faultState then s.power.resetFault else 0x0F
      rearm := kind == 3 && s.flt.faultState && s.flt.armedAtFault, previousMode := s2.power.mode }
    axes := (List.range 4).map fun n => (s2.axis n).warm (s2.axisPosition n)
    dmc := { s2.dmc with
      selfRefresh := true, powerDown := 0, banks := [], requests := [], lost := s2.power.rangeOut.getLsbD 4
      journalSeen := s2.journal.writes.length, spillSeen := s2.evt.writes.length }
    ring := s2.ring.warm
    heads := { s2.heads with ports := s2.heads.ports.map HeadPort.warm }
    codec := s2.codec.warm
    flt := { s2.flt with faultState := false, staffHalt := false, injections := [], windows := [], expireAt := none, speedZero := false }
    journal := { s2.journal with fences := [], fwLength := none, fwBytes := [], shutDown := false, shutdownSeq := none }
    cal := { s2.cal with pass := none, writing := false, commitSeq := none, commitHeads := [] }
    loop := { s2.loop with waiting := [], probes := [] } }

/-! ## SHUTDOWN_PREPARE (R317, R363, R435) -/

/-- A port in standby: its lanes are at electrical idle, so its head is to be brought up again after the next reset (R187, R435; DEDUCED,
log 83). -/
def HeadPort.standby (p : HeadPort) : HeadPort :=
  match p.state with
  | .training | .record | .waiting | .shadow | .inService => { p.warm with state := .present, step := 2, clean := 0, missedStatus := 0 }
  | _ => p

/-- Standby: the pennants, the compression engine and the head ports stop, the SDRAM is in self-refresh, and READY is 0 until the next
reset (R317, R363, R435). -/
def State.enterStandby (s : State) : State :=
  { s with
    power := { s.power with standby := true }
    host := { s.host with ready := false }
    journal := { s.journal with shutDown := true }
    dmc := { s.dmc with selfRefresh := true, powerDown := 0, banks := [] }
    codec := s.codec.warm
    heads := { s.heads with ports := s.heads.ports.map HeadPort.standby }
    render := { s.render with
      hoists := [], audits := [], slices := [], pennants := s.render.pennants.map fun p => { p with work := [], shadowWords := [], joins := false } } }

/-- Whether everything SHUTDOWN_PREPARE has to write has been written and the disarm is over. -/
def State.shutdownDone (s : State) : Bool :=
  s.pos.disarming.isNone && !s.pos.armed && s.cal.setDirty.isNone && !s.cal.writing &&
  s.flash.heads.all (fun h => h.dirtyAt.isNone) && s.evt.buffer.isEmpty && s.evt.overflowDirty.isNone

/-- A SHUTDOWN_PREPARE whose work is done completes with OK, with the head entries written, and the chip enters standby. -/
def State.settleShutdown (s : State) : State :=
  match s.journal.shutdownSeq with
  | some q =>
    if s.shutdownDone then
      let n := (s.flash.heads.filter fun h => h.entry.isSome).length
      { (s.finish q .ok 0 (w32 n)) with journal := { (s.finish q .ok 0 (w32 n)).journal with shutdownSeq := none } }.enterStandby
    else s
  | none => s

end Sys2Proof.Machine
end

