-- ==== Sys2Proof/Machine/Halyard.lean ====
section
/-!
DEFINITION. Machine/Halyard.lean: the halyard links (R234 to R240): training, the link delay, shadow and the return to ring service,
link failures, and the far end's loopback.
-/

namespace Sys2Proof.Machine

/-! ## Control blocks and training (R237, R242) -/

/-- A halyard control block sent by a port. -/
def State.sendHalyard (s : State) (sd : Side) (kind : Nat) (fields : List Byte) : State :=
  s.emit (.halyardBlock sd (controlBlock kind fields))

/-- The index of a port: 0 for E and 1 for W (R313). -/
def sideIndex : Side → Nat
  | .e => 0
  | .w => 1

/-- An eye scan of a receive lane runs: the lane's adaptation is frozen (R235, R241). -/
def State.laneScanned (s : State) (sd : Side) (lane : Nat) : Bool :=
  s.journal.entries.any fun e => e.opcode == 0x0E02 && e.state == .running && e.p8 12 == sideIndex sd && e.p8 14 == lane

/-- The DFE taps of each receive lane adapt while the link trains, shadows or serves, but for a lane under an eye scan: free values
(R235). DESIGN CHOICE (log 76): the taps are taken anew when a lane locks and at every tick. -/
def State.adaptLanes (s : State) (sd : Side) : State :=
  let h := s.ring.port sd
  if h.state == .training || h.state == .shadow || h.state == .inService then
    let taps := fun (lane : Nat) => (List.range 6).map fun i => Config.freeNat (s.free + 6 * lane + i)
    let lanes := h.lanes.mapIdx fun i (l : HalyardLane) => if s.laneScanned sd i then l else { l with taps := taps i }
    { (s.updHalyard sd fun h => { h with lanes := lanes }) with free := s.free + 12 }
  else s

/-- The CTLE setting of each lane is chosen in training: free values (R235, R237). -/
def State.chooseCtle (s : State) (sd : Side) : State :=
  let lanes := (s.ring.port sd).lanes.mapIdx fun i (l : HalyardLane) => { l with ctle := Config.freeNat (s.free + i) }
  { (s.updHalyard sd fun h => { h with lanes := lanes }) with free := s.free + 2 }

/-- A block received while the port retransmits for the far chip goes back on the same port, in place of its own traffic (R240). -/
def State.retransmit (s : State) (sd : Side) (kind : Nat) (fields : List Byte) : State :=
  if (s.ring.port sd).loop = 4 then s.sendHalyard sd kind fields else s

/-- A training attempt begins: TS1 and ALIGN go out on both data lanes. The turnaround that a port declares is not given: a free value. -/
def State.beginTraining (s : State) (sd : Side) (attempts : Nat) : State :=
  let s1 := s.updHalyard sd fun h => { h with
    state := .training, lock := false, trips := [], attemptAt := s.now, attempts := attempts, confirmSent := false, confirmGot := false
    clean := 0, shadowBad := false, joinNext := false, shadowNext := false, farReady := false, loop := 0, hops := none, crcTimes := [] }
  let r := s1.freeBytes 2
  (((r.2.sendHalyard sd 0x70 (0 :: r.1)).sendHalyard sd 0x70 (1 :: r.1)).sendHalyard sd 0x18 [0]).sendHalyard sd 0x18 [1]

/-- The halyard block is out of reset: from the end of power-on reset on, but for the start of a warm reset (R450, R468). -/
def State.linksReleased (s : State) : Bool :=
  match s.power.phase with
  | .powerOnReset | .warmReset | .halted => false
  | _ => true

/-- Both links begin training, as after power-on reset and a warm reset (R449, R450). -/
def State.trainLinks (s : State) : State := (s.beginTraining .e 1).beginTraining .w 1

/-- A DLY_REQ goes out. -/
def State.askDelay (s : State) (sd : Side) : State :=
  let q := (s.ring.port sd).dlySeq
  (s.updHalyard sd fun h => { h with dlySeq := q + 1, dlyAt := s.now }).sendHalyard sd 0x98 [q]

/-- The link delay δ from 16 round trips and the far end's turnaround, in 1.25 ps, rounded half up (R237). -/
def linkDelay (trips : List Nat) (turnaround : Nat) : Nat :=
  (((trips.sum : Int) - (trips.length * turnaround : Nat) + trips.length) / (2 * trips.length : Nat)).toNat

/-- The RESET_UNIT of a unit ends: OK with the µs it took, or UNIT_FENCED (R313, R316). -/
def State.endReset (s : State) (cmd : Option (Nat × Nat)) (scope : Nat) (ok : Bool) : State :=
  match cmd with
  | none => s
  | some (q, since) =>
    if ok then s.finish q .ok 0 (w32 scope) (w32 ((s.now - since + 500) / 1000)) else s.finish q .unitFenced 0 (w32 scope)

/-- The RESET_UNIT of a port, if any, ends. -/
def State.endHalyardReset (s : State) (sd : Side) (ok : Bool) : State :=
  (s.updHalyard sd fun h => { h with resetCmd := none }).endReset (s.ring.port sd).resetCmd 3 ok

/-- A link whose two ends have both told the end of training enters shadow at the next tick (R237, R239). -/
def State.tryShadow (s : State) (sd : Side) : State :=
  let h := s.ring.port sd
  if h.state == .training && h.confirmSent && h.confirmGot then
    s.updHalyard sd fun h => { h with shadowNext := true }
  else s

/-- HALYARD_TS1: the lanes are locked and deskewed, the far end's turnaround is known, and 16 DLY_REQ go out (R237). -/
def execHalyardTs1 (sd : Side) (turnaround : BitVec 16) (t : Nat) (s0 : State) : Host.Outcome State Fault Refusal :=
  let s := s0.tick t
  let h := s.ring.port sd
  if h.state == .loopback then .next (s.retransmit sd 0x70 (0 :: leBytes 2 turnaround.toNat))
  else if h.state ≠ .training ∨ h.lock then .next s
  else
    let s1 := ((s.chooseCtle sd).adaptLanes sd).updHalyard sd fun h => { h with lock := true, turnaround := turnaround.toNat }
    .next ((List.range 16).foldl (fun s _ => s.askDelay sd) s1)

/-- The link is in training, shadow or service. -/
def Halyard.trained (h : Halyard) : Bool := h.state == .training || h.state == .shadow || h.state == .inService

/-- HALYARD_DLY_REQ: answered with DLY_RSP, whose turnaround is a free value (R237, R238). -/
def execHalyardDlyReq (sd : Side) (sq : BitVec 8) (t : Nat) (s0 : State) : Host.Outcome State Fault Refusal :=
  let s := s0.tick t
  if (s.ring.port sd).state == .loopback then .next (s.retransmit sd 0x98 [sq])
  else if !(s.ring.port sd).trained then .next s
  else
    let r := s.freeBytes 4
    .next (r.2.sendHalyard sd 0x9A (sq :: r.1))

/-- HALYARD_DLY_RSP: a round trip. In training the 16th gives δ and CONFIRM with byte 1 = 0; in service δ is the mean of the last
16 (R237, R238). -/
def execHalyardDlyRsp (sd : Side) (sq : BitVec 8) (roundTrip t : Nat) (s0 : State) : Host.Outcome State Fault Refusal :=
  let s := s0.tick t
  let h := s.ring.port sd
  let trips := (roundTrip :: h.trips).take 16
  let s1 := s.updHalyard sd fun h => { h with trips := trips, delay := if trips.length = 16 then linkDelay trips h.turnaround else h.delay }
  match h.state with
  | .training =>
    if !h.lock || h.confirmSent then .next s
    else if trips.length < 16 then .next s1
    else .next (((s1.updHalyard sd fun h => { h with confirmSent := true }).sendHalyard sd 0x74 [0]).tryShadow sd)
  | .inService => .next s1
  | .loopback =>
    let r := s.freeBytes 4
    .next (if h.loop = 4 then r.2.sendHalyard sd 0x9A (sq :: r.1) else s)
  | _ => .next s

/-- DLY_REQ_PERIOD: every 1 ms a link in service asks for its delay (R238). -/
def execDlyReqPeriod (sd : Side) (t : Nat) (s0 : State) : Host.Outcome State Fault Refusal :=
  let s := s0.tick t
  if !s.linkUp sd || decide (s.now < (s.ring.port sd).dlyAt + 1000000) then .next s else .next (s.askDelay sd)

/-- HALYARD_CONFIRM: training done at the far end, or its far-end confirmation: with both sent and received the link carries ring
traffic from the next tick (R237, R239). The far end may be in shadow, and ready, before this end's next tick. -/
def execHalyardConfirm (sd : Side) (ready : Bool) (t : Nat) (s0 : State) : Host.Outcome State Fault Refusal :=
  let s := s0.tick t
  match (s.ring.port sd).state, ready with
  | .training, false => .next ((s.updHalyard sd fun h => { h with confirmGot := true }).tryShadow sd)
  | .training, true => .next (s.updHalyard sd fun h => { h with farReady := h.shadowNext })
  | .loopback, _ => .next (s.retransmit sd 0x74 [if ready then 1 else 0])
  | .shadow, true => .next (s.updHalyard sd fun h => { h with confirmGot := true, joinNext := h.confirmSent })
  | _, _ => .next s

/-- HALYARD_TRAINING_TIMEOUT: an attempt that has not reached step 4, the CONFIRM of both ends, in 10 ms fails; the fourth leaves the port
failed (R237). -/
def execHalyardTrainingTimeout (sd : Side) (t : Nat) (s0 : State) : Host.Outcome State Fault Refusal :=
  let s := s0.tick t
  let h := s.ring.port sd
  if h.state ≠ .training ∨ h.shadowNext ∨ s.now < h.attemptAt + 10000000 then .next s
  else
    let s1 := s.updHalyard sd fun h => { h with state := if 4 ≤ h.attempts then .failed else .down, everTried := true, attemptAt := s.now, lock := false }
    .next (if 4 ≤ h.attempts then s1.endHalyardReset sd false else s1)

/-- HALYARD_TRAINING_RETRY: the next attempt after 1 ms; in the failed state every 100 ms while the clock lane has its signal (R237). -/
def execHalyardTrainingRetry (sd : Side) (t : Nat) (s0 : State) : Host.Outcome State Fault Refusal :=
  let s := s0.tick t
  let h := s.ring.port sd
  if !s.linksReleased then .next s
  else if h.state == .down && h.attempts != 0 && decide (h.attemptAt + 1000000 ≤ s.now) then .next (s.beginTraining sd (h.attempts + 1))
  else if h.state == .failed && !h.clockLos && decide (h.attemptAt + 100000000 ≤ s.now) then .next (s.beginTraining sd 4)
  else .next s

/-! ## Shadow (R239) -/

/-- A tick of a port's shadow: the first one begins it, a clean tick counts, and a link confirmed by both ends carries traffic. -/
def State.shadowStep (s : State) (sd : Side) : State :=
  let h := s.ring.port sd
  if h.state == .training && h.shadowNext then
    s.updHalyard sd fun h => { h with
      state := .shadow, shadowNext := false, confirmSent := false, confirmGot := h.farReady, farReady := false, clean := 1, shadowBad := false }
  else if h.state ≠ .shadow then s
  else if h.joinNext then
    (s.updHalyard sd fun h => { h with state := .inService, joinNext := false, attempts := 0, dlyAt := s.now }).endHalyardReset sd true
  else s.updHalyard sd fun h => { h with clean := if h.shadowBad then 1 else h.clean + 1, shadowBad := false }

/-- Blocks in error that a port in loopback has counted since the tick before: a free number (R240). -/
def State.countLoopback (s : State) (sd : Side) : State :=
  let h := s.ring.port sd
  if h.state == .loopback && h.loop != 4 then
    let r := s.freeNat
    r.2.updHalyard sd fun h => { h with lpErr := min 255 (h.lpErr + r.1) }
  else s

/-- The same of the head ports in loopback. -/
def State.countHeadLoopbacks (s : State) : State :=
  let ports := (List.range 32).map fun n =>
    let p := s.port n
    if p.loopback = 0 then p else { p with lpErrors := min 255 (p.lpErrors + Config.freeNat (s.free + n)) }
  if s.heads.ports.any (fun p => p.loopback != 0) then { s with free := s.free + 32, heads := { s.heads with ports := ports } } else s

/-- A tick of a port: its shadow, the adaptation of its lanes, its loopback. -/
def State.linkTick (s : State) (sd : Side) : State := ((s.shadowStep sd).adaptLanes sd).countLoopback sd

/-- What this chip has to tell the manager of itself. -/
def State.selfReport (s : State) : SelfReport :=
  { colour := s.ring.colour, webOffset := s.ring.webOffset, offset := s.ring.offset, calCheck := s.ring.calCheck
    groups := (((s.store.jobs.filterMap fun j => j).map fun j => (j.group, j.gap)).filter (·.1 != 0)).eraseDups }

/-- A member tells the manager what has changed of itself, at a tick (R251, R253, R267, R268; log 75). -/
def State.reportSelf (s : State) : State :=
  let now := s.selfReport
  if s.ring.role = .manager ∨ s.ring.node.isNone then
    if s.ring.told.isNone then s else { s with ring := { s.ring with told := none } }
  else if s.ring.told = some now then s
  else
    let was := s.ring.told
    let l : List ControlMsg :=
      (if was.any (fun w => w.colour == now.colour && w.webOffset == now.webOffset) then [] else [.roleSet now.colour now.webOffset])
      ++ (match now.offset with
        | some o => if was.any (fun w => w.offset == some o) then [] else [.offsetMeasured o]
        | none => [])
      ++ (if was.any (fun w => w.groups == now.groups) then [] else [.memberOf now.groups])
      ++ (if was.any (·.calCheck) && !now.calCheck then [.calChecked] else [])
    l.foldl State.tellManager { s with ring := { s.ring with told := some now } }

/-- The tick of both ports: a hoist tick, or a timebase period of a web that stands still; a post of V that had to wait is made
(R265), and a member tells the manager of itself. -/
def State.linksTick (s : State) : State := ((((s.linkTick .e).linkTick .w).postV).countHeadLoopbacks.reportSelf).feedShots

/-- HALYARD_SHADOW_END: after two clean ticks the far-end confirmation is sent (R239). -/
def execHalyardShadowEnd (sd : Side) (t : Nat) (s0 : State) : Host.Outcome State Fault Refusal :=
  let s := s0.tick t
  let h := s.ring.port sd
  if h.state ≠ .shadow ∨ h.confirmSent ∨ h.shadowBad ∨ h.clean < 3 then .next s
  else .next ((s.updHalyard sd fun h => { h with confirmSent := true, joinNext := h.confirmGot }).sendHalyard sd 0x74 [1])

/-! ## Failures and the far end's loopback (R236, R240) -/

/-- Packet CRC failures of the last 1 ms. -/
def State.recentCrc (s : State) (sd : Side) : List Nat :=
  (s.ring.port sd).crcTimes.filter fun x => decide (s.now < x + 1000000)

/-- Fault 0x0902 once the last link has left service (R372). -/
def State.bothOut (s : State) : State :=
  if s.linkUp .e || s.linkUp .w then s else s.detect { code := 0x0902 }

/-- A link can fail: in shadow or in service, trained at this end, or retransmitting for the far chip (R236, R240). -/
def Halyard.mayFail (h : Halyard) : Bool :=
  h.state == .shadow || h.state == .inService || (h.state == .training && h.confirmSent) || (h.state == .loopback && h.loop == 4)

/-- A link fails: its fault, and it trains again (R236). -/
def State.linkFailed (s : State) (sd : Side) (d : Detection) : State :=
  let h := s.ring.port sd
  s.unlessShadowed d fun s =>
    let s1 := ((s.updHalyard sd fun h => { h with downs := min 255 (h.downs + 1) }).detect d).beginTraining sd 1
    if h.state == .inService then s1.bothOut else s1

/-- HALYARD_LINK_FAIL: fault 0x0901, and the port trains again; more than 8 packet CRC failures in 1 ms are counted here (R236). -/
def execHalyardLinkFail (sd : Side) (cause : HalyardCause) (t : Nat) (s0 : State) : Host.Outcome State Fault Refusal :=
  let s := s0.tick t
  let h := s.ring.port sd
  if !s.linksReleased ∨ (cause = .crc ∧ (s.recentCrc sd).length ≤ 8) then .next s
  else
    let s1 := s.updHalyard sd fun h => { h with
      los := h.los || cause == .signal false || cause == .signal true, clockLos := h.clockLos || cause == .signal true, lol := h.lol || cause == .lock, blkErr := if cause = .headers then min 255 (h.blkErr + 16) else h.blkErr }
    if h.mayFail then .next (s1.linkFailed sd { code := 0x0901, unit := sideIndex sd })
    else .next s1

/-- HALYARD_SIGNAL_RESTORED: the present conditions clear (R236). -/
def execHalyardSignalRestored (sd : Side) (s : State) : Host.Outcome State Fault Refusal :=
  .next (s.updHalyard sd fun h => { h with los := false, clockLos := false, lol := false })

/-- HALYARD_LOOP: with byte 1 = 3 the port sends back what it receives, without traffic of its own; 0 ends that, and the link trains (R240). -/
def execHalyardLoop (sd : Side) (b1 : BitVec 8) (t : Nat) (s0 : State) : Host.Outcome State Fault Refusal :=
  let s := s0.tick t
  let h := s.ring.port sd
  if b1 = 3 ∧ h.trained then
    .next (s.updHalyard sd fun h => { h with state := .loopback, loop := 4, clean := 0, joinNext := false, hops := none })
  else if b1 = 0 ∧ h.state = .loopback ∧ h.loop = 4 then .next (s.beginTraining sd 1)
  else .next s

end Sys2Proof.Machine
end

