-- ==== Sys2Proof/Machine/Legacy.lean ====
section
/-!
DEFINITION. Machine/Legacy.lean: HB-8 mode (chapter 19): the raster intake (R491, R492), legacy pages and their
places (R493 to R495, R500), the legacy interrupt (R486, R490), the BAR4 register window (R489), and the HB_
commands. BAR4 offset o is register offset 0x0400_0000 + o of REGISTER_WRITE.
-/

namespace Sys2Proof.Machine

/-! ## Status (R486, R489) -/

/-- HB_FIFOLVL: lines accepted and not yet reached by H (R491). -/
def Hb.level (h : Hb) : Nat := h.lines.length

/-- HB_ISR. -/
def Hb.isr (h : Hb) : BitVec 3 :=
  BitVec.ofNat 3 (flag 0 (decide (h.level < h.thresh.toNat)) + flag 1 (h.err != 0) + flag 2 (h.dma && h.dmaHead == h.dmaTail))

/-- The legacy interrupt is judged again; becoming pending sends its message (R486). -/
def State.hbIrq (s : State) : State :=
  let on := (s.hb.isr &&& s.hb.ier) != 0 && s.power.mode == .hb8
  let s1 : State := { s with hb := { s.hb with irqPending := on } }
  if on && !s.hb.irqPending then s1.emit .legacyIrq else s1

/-- HB_CTRL. -/
def Hb.ctrl (h : Hb) : BitVec 32 :=
  word [flag 0 h.enable, flag 1 h.depthHeld, flag 2 h.pitchHeld, flag 3 h.dma, field 5 2 h.oneLevel.toNat, field 8 8 h.headEn.toNat]

/-- The BAR4 window by offset (R489); the read that clears HB_ERR is HB_ERR_READ. -/
def State.hbReg (s : State) (off : Nat) : BitVec 32 :=
  let h := s.hb
  if s.power.mode ≠ .hb8 then 0
  else if 0x100 ≤ off ∧ off < 0x120 then (Tbl.get 0 h.delays ((off - 0x100) / 4)).zeroExtend 32
  else if 0x140 ≤ off ∧ off < 0x160 then
    match Tbl.get none h.temps ((off - 0x140) / 4) with
    | some v => word [v.toNat, flag 15 true]
    | none => 0
  else match off with
    | 0x00 => 0x48420803
    | 0x04 => h.ctrl
    | 0x08 => word ([flag 0 h.enable, flag 1 s.pos.armed, flag 2 (s.chan 0).valid, flag 3 (s.chan 0).backward]
        ++ (List.range 8).map fun n => flag (8 + n) ((s.port n).state == .inService))
    | 0x0C => h.err.zeroExtend 32
    | 0x10 => h.isr.zeroExtend 32
    | 0x14 => h.ier.zeroExtend 32
    | 0x18 => w32 h.level
    | 0x1C => h.thresh.zeroExtend 32
    | 0x20 => h.startHeld.zeroExtend 32
    | 0x24 => w32 (unsign 24 (s.highWater.fdiv 65536))
    | 0x28 => w32i (s.chan 0).count
    | 0x2C => h.encCfgHeld.zeroExtend 32
    | 0x30 => h.encDivHeld.zeroExtend 32
    | 0x34 => w32 (report s.speed 0 0xFFFFF).toNat
    | 0x38 => h.portCfg.zeroExtend 32
    | 0x3C => h.tLimit.zeroExtend 32
    | 0x40 => h.dmaBaseLo
    | 0x44 => h.dmaBaseHi
    | 0x48 => h.dmaSize.zeroExtend 32
    | 0x4C => h.dmaTail.zeroExtend 32
    | 0x50 => h.dmaHead.zeroExtend 32
    | _ => 0

/-- A write to a BAR4 register with no behaviour of its own (R489); held fields are taken at once while ENABLE is 0. -/
def State.hbWrite (s : State) (off : Nat) (v : BitVec 32) : State :=
  let h := s.hb
  let n := v.toNat
  let h1 : Hb := match off with
    | 0x04 => { h with depthHeld := bitOf n 1, depth := if h.enable then h.depth else bitOf n 1
                       oneLevel := BitVec.ofNat 2 (n / 32), headEn := BitVec.ofNat 8 (n / 256) }
    | 0x14 => { h with ier := BitVec.ofNat 3 n }
    | 0x1C => { h with thresh := BitVec.ofNat 11 n }
    | 0x20 => { h with startHeld := BitVec.ofNat 24 n, start := if h.enable then h.start else BitVec.ofNat 24 n }
    | 0x38 => { h with portCfg := BitVec.ofNat 8 n }
    | 0x3C => { h with tLimit := BitVec.ofNat 12 n }
    | 0x40 => { h with dmaBaseLo := BitVec.ofNat 32 (n / 16 * 16) }
    | 0x44 => { h with dmaBaseHi := v }
    | 0x48 => { h with dmaSize := BitVec.ofNat 11 n }
    | _ => h
  ({ s with hb := h1 }).hbIrq

/-! ## Lines and pages (R491, R493 to R495, R500) -/

/-- Line bytes at the depth in force. -/
def Hb.lineBytes (h : Hb) : Nat := if h.depth then 4096 else 2048

/-- The deadline of a line, in lines (R494). -/
def deadline (l : Int) : Int := 64 * (l.fdiv 64 - 10)

/-- A raster line as 2-bit pixels: a 1-bit pixel of 1 takes ONELVL (R491). -/
def twoBit (deep : Bool) (one : Nat) (bytes : List Byte) : List Byte :=
  if deep then bytes
  else packPairs ((List.range (8 * bytes.length)).map fun i => if packedBit bytes i then one else 0)

/-- Page-store blocks of a legacy page not yet compressed. -/
def legacyBlocks (lines : Nat) : Nat := ceilDiv (lines * 4096) 65536

/-- Frames of 16 lines of a legacy page for the compression unit (R493). DESIGN CHOICE (log 63): the chain depth is 1. -/
def legacyWork (seq frame : Nat) : Nat → List (List Byte) → List CompressWork
  | 0, _ => []
  | _ + 1, [] => []
  | f + 1, l =>
    let rest := l.drop 16
    { user := .legacy seq, frame := frame, last := rest.isEmpty, width := 16384, bpp := 2, depth := 1
      raw := (l.take 16).flatten } :: legacyWork seq (frame + 1) f rest

/-- The open legacy page closes: it is handed to the compression unit in frames (R493). Without a free block it stays open (R495). -/
def State.closeLegacy (s : State) : State :=
  match s.hb.openPage with
  | [] => s
  | (l, _) :: _ =>
    let lines := s.hb.openPage.map (·.2)
    if s.freeBlocks < legacyBlocks lines.length then s
    else
      let seq := 2 ^ 64 + s.store.nextLegacy
      let p : Page := { seq := seq, job := 0, pageId := 0, rows := lines.length, placement := .atLine l, state := .transferring
                        blocks := legacyBlocks lines.length, first := some l, legacy := true }
      let work := legacyWork seq 0 lines.length lines
      let job : StreamJob := { seq := seq, decode := false, input := [], limit := 0, total := work.length }
      let s1 : State := { s with
        hb := { s.hb with openPage := [] }
        store := { s.store with pages := s.store.pages ++ [p], nextLegacy := s.store.nextLegacy + 1 }
        codec := { s.codec with lanesWaiting := s.codec.lanesWaiting ++ work, jobs := s.codec.jobs ++ [job] } }
      s1.assignLanes

/-- An accepted line takes its place: the next one, or, after its deadline, the first line of the first hoist whose
deadline has not passed, with UNDERRUN (R494). -/
def State.placeLegacy (s : State) (l : Int) (bytes : List Byte) : State × Int :=
  let late := decide (deadline l * 65536 ≤ s.highWater)
  let l1 := if late then 64 * ((s.highWater.fdiv (64 * 65536)) + 11) else l
  let s1 := if late then (s.hbErr 1).closeLegacy else s
  let s2 : State := { s1 with hb := { s1.hb with openPage := s1.hb.openPage ++ [(l1, bytes)], nextLine := some (l1 + 1) } }
  (if s2.hb.openPage.length = 128 then s2.closeLegacy else s2, l1)

/-- A page-store block is free for the open page with one more line (R495). -/
def State.legacyRoom (s : State) : Bool := decide (legacyBlocks (s.hb.openPage.length + 1) ≤ s.freeBlocks)

/-- The lines that wait in the bulk area, in order, while a start line is known and space is free (R494, R495). -/
def State.placeWaiting : Nat → State → State
  | 0, s => s
  | f + 1, s =>
    match s.hb.nextLine, s.hb.lines.findIdx? (·.place.isNone) with
    | some l, some i =>
      if !s.legacyRoom then s
      else
        let r := s.placeLegacy l ((s.hb.lines[i]?.map (·.bytes)).getD [])
        let s1 : State := { r.1 with hb := { r.1.hb with lines := r.1.hb.lines.set i { place := some r.2, bytes := [] } } }
        State.placeWaiting f s1
    | _, _ => s

/-- Every line that waits takes its place, as far as space goes (R495). -/
def State.placeLines (s : State) : State := State.placeWaiting s.hb.lines.length s

/-- A whole raster line arrives: it is accepted, or discarded with OVERRUN above a level of 1,024 (R491). It takes its place behind the lines
that wait, once a start line is known and space is free. -/
def State.acceptLine (s : State) (raw : List Byte) : State :=
  if 1024 ≤ s.hb.level then s.hbErr 2
  else
    let bytes := twoBit s.hb.depth s.hb.oneLevel.toNat raw
    let s1 : State := { s with hb := { s.hb with lines := s.hb.lines ++ [{ place := none, bytes := bytes }] } }
    s1.placeLines

/-- Raster bytes are appended, and each run of line bytes is taken as a line (R491). -/
def State.appendRaster : Nat → State → State
  | 0, s => s
  | f + 1, s =>
    let n := s.hb.lineBytes
    if s.hb.partialLine.length < n then s
    else
      let line := s.hb.partialLine.take n
      State.appendRaster f (({ s with hb := { s.hb with partialLine := s.hb.partialLine.drop n } }).acceptLine line)

/-- Bytes written to HB_FIFO. -/
def State.fifoWrite (s : State) (bytes : List Byte) : State :=
  let s1 : State := { s with hb := { s.hb with partialLine := s.hb.partialLine ++ bytes } }
  (State.appendRaster (s1.hb.partialLine.length / 2048 + 1) s1).hbIrq

/-- The start line of an arming, and the places of the lines held (R500). In an arming after a warm reset the lines go on where they
were (R505). -/
def State.startLegacy (s : State) : State :=
  let base := max (64 * s.pos.armHoist) (s.highWater.fdiv 65536 + 1)
  let first := base + ((s.hb.start.toNat : Int) - base) % 2 ^ 24
  let s1 : State := { s with hb := { s.hb with nextLine := some (s.hb.nextLine.getD first) } }
  s1.placeLines

/-- Firmware arms printing again, or for ENABLE, as soon as the checks of R172 pass (R393, R500). -/
def State.tryArm (s : State) : State :=
  if !(s.power.rearm || s.hb.waitArm) || !s.host.ready || s.power.phase != .running then s
  else match s.armVerdict with
    | some _ => s
    | none =>
      let s1 := s.armByFirmware
      if s1.hb.waitArm then ({ s1 with hb := { s1.hb with waitArm := false } }).startLegacy.hbIrq else s1

/-! ## The HB_ commands -/

/-- Whether the BAR4 window is open. -/
def State.hbOpen (s : State) : Bool := s.power.mode == .hb8 && s.hb.openBar && s.power.phase != .powerOnReset

/-- HB_ENABLE_SET: printing is armed as soon as the arming checks pass (R500). -/
def execHbEnableSet (t : Nat) (s0 : State) : Host.Outcome State Fault Refusal :=
  let s := s0.tick t
  if !s.hbOpen || s.hb.enable then .next s
  else .next ({ s with hb := { s.hb with enable := true, waitArm := true } }).tryArm

/-- SRST: every line held is discarded and HB_ERR is cleared (R489). -/
def execSrst (t : Nat) (s0 : State) : Host.Outcome State Fault Refusal :=
  let s := s0.tick t
  if !s.hbOpen then .next s
  else
    let next := s.hb.nextLine
    let s1 := s.hbDiscard
    .next ({ s1 with hb := { s1.hb with err := 0, nextLine := next } }).hbIrq

/-- HB_DMA_MODE_WRITE: the ring or the data port; writing 0 and then 1 restarts a halted ring (R492). -/
def execHbDmaModeWrite (on : Bool) (s : State) : Host.Outcome State Fault Refusal :=
  if !s.hbOpen then .next s
  else .next ({ s with hb := { s.hb with dma := on, dmaHalted := s.hb.dmaHalted && on } }).hbIrq

/-- HB_FIFO_WRITE: raster bytes at the data port (R491); discarded in DMA mode; during a warm reset held, up to 65,536
bytes (R505). -/
def execHbFifoWrite (bytes : List Byte) (t : Nat) (s0 : State) : Host.Outcome State Fault Refusal :=
  let s := s0.tick t
  if !s.hbOpen || s.hb.dma then .next s
  else if s.power.phase = .running then .next (s.fifoWrite bytes)
  else
    let all := s.hb.heldWrites ++ bytes
    let s1 : State := { s with hb := { s.hb with heldWrites := all.take 65536 } }
    .next (if 65536 < all.length then s1.hbErr 2 else s1)

/-- HB_DMA_DOORBELL: a new tail (R492). -/
def execHbDmaDoorbell (tail : BitVec 10) (s : State) : Host.Outcome State Fault Refusal :=
  if !s.hbOpen then .next s else .next ({ s with hb := { s.hb with dmaTail := tail } }).hbIrq

/-- HB_DMA_ENTRY_DONE: lines of the entry at HEAD are accepted while the level is below 1,024, and HEAD passes it
when all are; a DMA error halts the ring (R492). -/
def execHbDmaEntryDone (lines : Nat) (bytes : List Byte) (dmaErr : Bool) (t : Nat) (s0 : State) : Host.Outcome State Fault Refusal :=
  let s := s0.tick t
  let h := s.hb
  if !s.hbOpen || !h.dma || h.dmaHalted || h.dmaHead == h.dmaTail || s.power.phase != .running || !s.canSend then .next s
  else if dmaErr then .next ((({ s with hb := { h with dmaHalted := true } }).hbErr 64).hbIrq)
  else
    let n := h.lineBytes
    let room := min (lines - h.dmaTaken) (1024 - h.level)
    let s1 := (List.range room).foldl (fun s i => s.acceptLine (bytesAt bytes ((h.dmaTaken + i) * n) n)) s
    let taken := h.dmaTaken + room
    if lines ≤ taken then
      let head := (h.dmaHead.toNat + 1) % h.dmaSize.toNat
      .next ({ s1 with hb := { s1.hb with dmaHead := BitVec.ofNat 10 head, dmaTaken := 0 } }).hbIrq
    else .next ({ s1 with hb := { s1.hb with dmaTaken := taken } }).hbIrq

/-- HB_ERR_READ: the bits set since the last read are returned and cleared (R490). -/
def execHbErrRead (s : State) : Host.Outcome State Fault Refusal :=
  if !s.hbOpen then .next s
  else .next ((({ s with hb := { s.hb with err := 0 } }).emit (.readData 0x0400000C (s.hb.err.zeroExtend 64))).hbIrq)

/-- HB_DELAY_WRITE: a head's delay. The register holds what is written (R11); a delay that would make a row delay exceed 8,191 lines
sets CFG and leaves the delay in force; while armed it applies at the next hoist (R498). -/
def execHbDelayWrite (n : Fin 8) (v : BitVec 12) (t : Nat) (s0 : State) : Host.Outcome State Fault Refusal :=
  let s := s0.tick t
  if !s.hbOpen then .next s
  else
    let s0 : State := { s with hb := { s.hb with delays := Tbl.put 0 s.hb.delays n.val v } }
    let s1 : State := { s0 with hb := { s0.hb with delaysSet := Tbl.put 0 s0.hb.delaysSet n.val v } }
    let q := fun r => if r / 2 = n.val then s1.legacyQ s.pos.lpi r else Tbl.get 0 (((s.lines.changes.getLast?.map (·.q)).getD s.lines.q)) r
    if 8191 < (q (2 * n.val)).fdiv 256 ∨ 8191 < (q (2 * n.val + 1)).fdiv 256 then .next (s0.hbErr 32)
    else if s.pos.armed then
      let c : DelayChange := { seq := 0, line := some (64 * (s.pos.tick + 1)), q := (List.range 64).map q }
      .next { s1 with lines := { s1.lines with changes := s1.lines.changes ++ [c] } }
    else .next { s1 with lines := { s1.lines with q := (List.range 64).map q } }

/-- LEGACY_PAGE_CLOSE: the open page closes at the deadline of the hoist of its first line, or with 128 lines; lines that wait for space
take their places where it has come free (R494, R495). -/
def execLegacyPageClose (t : Nat) (s0 : State) : Host.Outcome State Fault Refusal :=
  let s := s0.tick t
  match s.hb.openPage with
  | [] => .next s.placeLines
  | (l, _) :: _ =>
    if deadline l * 65536 ≤ s.highWater ∨ 128 ≤ s.hb.openPage.length then .next s.closeLegacy.placeLines else .next s.placeLines

end Sys2Proof.Machine
end

