-- ==== Sys2Proof/Machine/Power.lean ====
section
/-!
DEFINITION. Machine/Power.lean: supplies, clocks, straps, boot and resets (chapters 12 and 16): the boot record
and images (R444, R445, R447), SDRAM training (R357, R358, R364, R365), recovery (R392, R393), mode changes
(R452), and the commands of the power, clock and reset rows.
-/

namespace Sys2Proof.Machine

/-! ## Images and the boot record (R444, R445) -/

/-- The image that a slot holds: its length field's bytes. -/
def slotImage (l : List Byte) : List Byte := l.take (leAt l 8 4)

/-- Whether an image is valid: its key's digest is the one in fuses, and its signature verifies (R445). -/
def imageValid (firmwareKey : Nat) (slot : List Byte) : Bool :=
  let img := slotImage slot
  decide (4096 ≤ img.length) && Config.sha384 (bytesAt img 112 97) == firmwareKey &&
  Config.ecdsaVerify (bytesAt img 112 97) (bytesAt img 16 96)
    (Config.sha384 (img.take 16 ++ List.replicate 96 0 ++ img.drop 112))

/-- ID_FWVER of an image. -/
def imageVersion (slot : List Byte) : BitVec 32 := w32 (leAt slot 4 3)

/-- An image slot. -/
def Flash.image (f : Flash) (slot : Nat) : List Byte := if slot = 0 then f.image0 else f.image1

/-- The boot record in force (R444). -/
def Flash.boot (f : Flash) : BootRecord := (inForce (·.generation) (readBoot f.bootA) (readBoot f.bootB)).getD ⟨0, 0, 0⟩

/-- The boot record written in two-copy form, its write taken to hold. -/
def Flash.writeBoot (f : Flash) (slot epoch : Nat) : Flash :=
  let r : BootRecord := { generation := (f.boot.generation + 1) % 2 ^ 32, slot := slot, epoch := epoch }
  let w := twoCopyWrite (·.generation) (readBoot f.bootA) (readBoot f.bootB) r ⟨true, true, true⟩
  { f with bootA := w.1.map sealBoot, bootB := w.2.1.map sealBoot }

/-- The boot ROM's choice of an image (R447): the active slot, or the other with FALLBACK, or none. -/
def State.bootImage (s : State) : State :=
  let active := s.flash.boot.slot
  if imageValid s.fuses.firmwareKey (s.flash.image active) then
    { s with power := { s.power with phase := .booting, slot := active, fallback := false, fwVersion := imageVersion (s.flash.image active) } }
  else if imageValid s.fuses.firmwareKey (s.flash.image (1 - active)) then
    { s with
      power := { s.power with phase := .booting, slot := 1 - active, fallback := true, fwVersion := imageVersion (s.flash.image (1 - active)) }
      flash := s.flash.writeBoot (1 - active) s.flash.boot.epoch }
  else { s with power := { s.power with phase := .halted, fwVersion := 0 } }

/-! ## The SDRAM configuration block (R357, R358) -/

/-- The default masks of a mapping set. -/
def defaultSet : List Nat := [0x00111100, 0x00222200, 0x00444400, 0x00888800]

/-- A mask of a mapping set is valid: it selects its own bank bit, no other bank bit, and not bits 31:30 (R356).
Mask bit i selects address bit 6 + i, so bank bit j is mask bit 8 + j. -/
def maskValid (m j : Nat) : Bool :=
  bitOf m (8 + j) && (List.range 4).all (fun k => k == j || !bitOf m (8 + k)) && decide (m < 2 ^ 30)

/-- A block of the board sector that passes every check; otherwise none. -/
def configBlock (l : List Byte) : Option (List Byte) :=
  let sets := (List.range 4).all fun s => (List.range 4).all fun j => maskValid (leAt l (12 + 16 * s + 4 * j) 4) j
  if bytesAt l 0 4 == [0x53, 0x44, 0x43, 0x46] && leAt l 4 1 == 1 && leAt l 76 4 == (crc32c (l.take 76)).toNat
      && decide (80 ≤ l.length) && decide (leAt l 6 2 ≤ 1023) && sets && leAt l 5 1 == 0 && leAt l 10 1 < 64 && leAt l 11 1 < 2 then some l
  else none

/-- The configuration block read before cold-boot training; the defaults set CFGDEF and are logged (R358). -/
def State.readConfigBlock (s : State) : State :=
  match configBlock s.flash.board with
  | some l => { s with dmc := { s.dmc with
      cfgDefault := false, idle := leAt l 6 2, powerDownDelay := leAt l 8 2, limit4800 := bitOf (leAt l 11 1) 0
      setPage := bits (leAt l 10 1) 0 2, setHist := bits (leAt l 10 1) 2 2, setBulk := bits (leAt l 10 1) 4 2
      sets := (List.range 4).map fun i => (List.range 4).map fun j => leAt l (12 + 16 * i + 4 * j) 4 } }
  | none => { s with dmc := { s.dmc with
      cfgDefault := true, idle := 256, powerDownDelay := 1400, limit4800 := false, setPage := 0, setHist := 1, setBulk := 2
      sets := List.replicate 4 defaultSet } }.info 0x8B01

/-! ## Power-on reset (R398, R418, R419, R428, R434, R446) -/

/-- The mode that the straps select (R3). -/
def strapMode (hb8 mode1 mode0 : Bool) : Mode :=
  match mode1, mode0 with
  | false, false => if hb8 then .hb8 else .native
  | false, true => .native
  | true, false => .hb8
  | true, true => .factory

/-- Whether a record of the log is later than another, counting wraps (R398): within one wrap the higher sequence; of records with different
wrap flags, which tell one wrap from the next only, the one that the shorter way round leads to (DEDUCED, log 108). -/
def Record.later (r x : Record) : Bool := if r.wrap == x.wrap then decide (x.seq < r.seq) else laterGen r.seq x.seq

/-- The latest record in the flash log (R398). -/
def Evt.lastFlash (e : Evt) : Option Record :=
  (e.service ++ e.episodeFirst ++ e.episodeRing).foldl (fun b r => match b with
    | none => some r
    | some x => if r.later x then some r else some x) none

/-- What a power-on reset leaves: fuses, flash and the event log; everything else takes its reset value. -/
def State.cold (s : State) : State :=
  let heads := s.flash.heads.map fun (h : HeadSlot) => ({ copyA := h.copyA, copyB := h.copyB } : HeadSlot)
  { fuses := s.fuses, flash := { s.flash with heads := heads }, out := s.out, free := s.free, pending := s.pending
    host := { linkUp := s.host.linkUp, perstLow := s.host.perstLow }
    evt := { service := s.evt.service, episodeFirst := s.evt.episodeFirst, episodeRing := s.evt.episodeRing
             episodeCount := s.evt.episodeCount, svcFull := decide (196608 ≤ s.evt.service.length) } }

/-- The event count after a power-on reset, and its first record (R398). -/
def State.resumeEvents (s : State) : State :=
  match s.evt.lastFlash with
  | none => s.info 0x8C01
  | some r =>
    let next := r.seq + 2049
    let n := if 2 ^ 32 ≤ next then next - 2 ^ 32 + 1 else next
    { s with evt := { s.evt with newest := n - 1, wrap := if 2 ^ 32 ≤ next then !r.wrap else r.wrap } }.info 0x8C01 0 (w32 r.seq)

/-- The state that the calibration set restores; without a valid copy, nothing, with event 0x8D01 (R407, R418, R428). -/
def State.restoreCal (s : State) : State :=
  match s.calSet with
  | none => { s with cal := { s.cal with fuseDef := true } }.fuseDefaults.info 0x8D01
  | some c =>
    let own := c.writer == s.fuses.identity
    let s1 := { s with
      evt := { s.evt with overflow := min c.overflow 0xFFFFFFFF }
      ring := { s.ring with roster := if s.power.mgrEn then c.roster else [] }
      cal := { s.cal with barHeads := c.barHeads, directory := c.directory, fuseDef := !own } }
    if own then
      let els : List (Option Element) := (List.range 304).map fun n =>
        let code := Tbl.get 0 c.selections n % 1024
        some { code := code, target := code, deviation := 0, outRange := false }
      { s1 with cal := { s1.cal with elements := els } }
    else s1.fuseDefaults

/-- Elements take codes in order. -/
def State.setCodes (s : State) (els codes : List Nat) : State :=
  (els.zip codes).foldl (fun s x => s.updElement x.1 fun e => { e with code := x.2 % 1024, target := x.2 % 1024 }) s

/-- Power-up calibration of groups 0, 1 and 3 inside the start-up episode (R414, R419). -/
def State.powerUpCal (s : State) (xres : Nat) (codes : List Nat) : State :=
  let bad := decide (xres * 10 < 8 * 32768 ∨ 12 * 32768 < xres * 10)
  let s1 : State := { s.episodeOpen 2 with cal := { (s.episodeOpen 2).cal with
    xres := min xres 65535, xresBad := bad, powerUpDone := true, lastPass := s.stamp.2, lastStart := s.now, tempAtStart := s.power.dieTemp } }
  let s2 := if bad then s1.fuseDefaults.detect { code := 0x0D01, p0 := some 0xFFFFFFFF } else s1.setCodes (groupElements 0xB) codes
  s2.episodeClose 2

/-- RAIL_FALL: power-on reset is asserted at once (R433, R434). -/
def execRailFall (rail : Fin 8) (s : State) : Host.Outcome State Fault Refusal :=
  .next { s.cold with power := { phase := .powerOnReset, railFell := true, railGood := s.power.railGood &&& ~~~ BitVec.ofNat 8 (2 ^ rail.val) } }

/-- POWER_ON_RESET: power-on reset ends and the cold boot begins: straps, event count, boot record and image, the
configuration block and power-up calibration; the halyard links begin training (R3, R4, R357, R398, R418, R419, R444, R446, R447,
R468). -/
def execPowerOnReset (mode1 mode0 mgrEn : Bool) (bist : BitVec 32) (xres : Nat) (codes : List Nat) (s0 : State) :
    Host.Outcome State Fault Refusal :=
  if s0.power.phase ≠ .powerOnReset then .next s0
  else
    let mode := strapMode s0.fuses.hb8 mode1 mode0
    let s1 : State := { s0.cold with
      host := { s0.cold.host with identityLoaded := true }
      power := { phase := .booting, mode := mode, previousMode := mode, mode1 := mode1, mode0 := mode0, mgrEn := mgrEn
                 brownout := s0.power.railFell, sysclk := true, refclk := true, pllLock := 0x3FF }
      journal := { epoch := (s0.flash.boot.epoch + 1) % 2 ^ 24 }
      hb := if mode == .hb8 then { openBar := true } else {} }
    let s2 := (s1.resumeEvents.episodeOpen 0).info 0x8F01 0 bist
    let s3 := (s2.restoreCal.powerUpCal xres codes).readConfigBlock
    let s4 := if mode == .hb8 then s3.hbSetup.restartReference else s3
    .next s4.bootImage.trainLinks

/-- VDD_DQ in the order of R431. -/
def dqRail : Nat := 4

/-- SUPPLY_OUT_OF_RANGE: a rail outside its recommended range raises 0x0C03 (R434). -/
def execSupplyOutOfRange (rail : Fin 8) (mv t : Nat) (s0 : State) : Host.Outcome State Fault Refusal :=
  let s := s0.tick t
  if s.power.phase = .powerOnReset then .next s
  else
    let low := Tbl.get 0 s.power.railMin rail.val
    let s1 : State := { s with
      power := { s.power with
        rangeOut := s.power.rangeOut ||| BitVec.ofNat 8 (2 ^ rail.val)
        railMv := Tbl.put 0 s.power.railMv rail.val mv
        railMin := Tbl.put 0 s.power.railMin rail.val (if low = 0 then mv else min low mv) }
      -- the contents survive a warm reset only with VDD_DQ in range throughout (R363)
      dmc := { s.dmc with lost := s.dmc.lost || (rail.val == dqRail && s.power.phase == .warmReset) } }
    .next ((s1.live 0xC true).detect { code := 0x0C03, unit := rail.val })

/-- Whether a condition of the clocks and power block is present now (R379). -/
def State.clocksBad (s : State) : Bool :=
  s.power.rangeOut != 0 || s.power.dieTemp.any (fun v => v != 0x8000 && decide (105 * 16 ≤ v.toInt)) || !s.power.sysclk
  || (s.power.pllLock &&& 0x3FE) != 0x3FE

/-- SUPPLY_BACK_IN_RANGE (R434). -/
def execSupplyBackInRange (rail : Fin 8) (mv t : Nat) (s0 : State) : Host.Outcome State Fault Refusal :=
  let s := s0.tick t
  if s.power.phase = .powerOnReset then .next s
  else
    let s1 : State := { s with power := { s.power with
      rangeOut := s.power.rangeOut &&& ~~~ BitVec.ofNat 8 (2 ^ rail.val), railMv := Tbl.put 0 s.power.railMv rail.val mv } }
    .next (s1.live 0xC s1.clocksBad)

/-- A reading of a die sensor. The first one after power-up calibration stands for the temperature at its start (R421; DEDUCED, log 109). -/
def State.sense (s : State) (sensor : Nat) (raw : BitVec 16) : State :=
  let old := Tbl.get 0x8000 s.power.dieMax sensor
  let base := if Tbl.get 0x8000 s.cal.tempAtStart sensor = 0x8000 then Tbl.put 0x8000 s.cal.tempAtStart sensor raw else s.cal.tempAtStart
  { s with
    power := { s.power with
      dieTemp := Tbl.put 0x8000 s.power.dieTemp sensor raw
      dieMax := Tbl.put 0x8000 s.power.dieMax sensor (if old = 0x8000 ∨ old.toInt < raw.toInt then raw else old) }
    cal := { s.cal with tempAtStart := base } }

/-- DIE_TEMP_ALARM: a reading of 105 °C or more raises 0x0C04 (R482). -/
def execDieTempAlarm (sensor : Fin 8) (raw : BitVec 16) (t : Nat) (s0 : State) : Host.Outcome State Fault Refusal :=
  let s := s0.tick t
  if s.power.phase = .powerOnReset then .next s
  else
    let s1 := s.sense sensor.val raw
    if raw.toInt < 105 * 16 then .next s1
    else .next ((s1.live 0xC true).detect { code := 0x0C04, unit := sensor.val })

/-- DIE_TEMP_RETURN: the reading of a sensor falls below 105 °C; the live condition ends with the last one (R379, R482). -/
def execDieTempReturn (sensor : Fin 8) (raw : BitVec 16) (t : Nat) (s0 : State) : Host.Outcome State Fault Refusal :=
  let s := s0.tick t
  if s.power.phase = .powerOnReset then .next s
  else
    let s1 := s.sense sensor.val raw
    .next (s1.live 0xC s1.clocksBad)

/-! ## Training (R353, R364, R365) -/

/-- Gigabytes fitted for a density code and ranks (R352). -/
def gigabytesOf (density : Nat) (ranks2 : Bool) : Nat := (density + 1) * 8 * (if ranks2 then 2 else 1)

/-- What full training finds: `none` where it fails at both rates or the channels differ. -/
def Training.rate4800? (tr : Training) (limit : Bool) : Option Bool :=
  if !tr.alike then none
  else if tr.ok5600 && !limit then some false
  else if tr.ok4800 then some true
  else none

/-- Trained values in force, with what they say of the SDRAM fitted (R353, R354). -/
def State.trainedWith (s : State) (tr : Training) (slow : Bool) : State :=
  let gb := gigabytesOf tr.density.val tr.ranks2
  let s1 : State := { s with
    dmc := { s.dmc with
      trained := true, rate4800 := slow, selfRefresh := false, density := tr.density.val, ranks2 := tr.ranks2, gigabytes := gb
      training := tr.values, timing := [], banks := [], mr4At := s.now, zqAt := [] }
    store := { s.store with totalBlocks := (gb * 1024 - 720) * 16 }
    evt := { s.evt with
      spill := s.evt.buffer.foldl (fun l b => spillPut l b.record) s.evt.spill
      writes := (s.evt.buffer.reverse.map fun b => (0x8000000 + b.record.seq % 524288 * 32, s.now)) ++ s.evt.writes
      buffer := s.evt.buffer.map fun b => { b with spilled := true } } }
  let s2 := if s1.cal.xresBad then s1 else s1.setCodes (groupElements 0x4) tr.codes
  if slow && !s.dmc.limit4800 then s2.info 0x8B02 else s2

/-- The image booted is copied to the firmware region, and the digest of the copy is kept in the always-on domain (R446). -/
def State.copyImage (s : State) : State :=
  let img := slotImage (s.flash.image s.power.slot)
  { s with dmc := { s.dmc with image := img }, power := { s.power with digest := Config.sha384 img } }

/-- What the boot ROM does after a warm reset: with the contents kept, the digest of the copy as it was kept, and the slot booted still the active
one, the copy runs on; otherwise the image is loaded from the configuration flash and checked (R318, R445, R447, R450). -/
def State.reloadImage (s : State) : State :=
  if !s.dmc.fullRetrain && Config.sha384 s.dmc.image == s.power.digest && s.flash.boot.slot == s.power.slot then s
  else
    let s1 := s.bootImage
    if s1.power.phase = .halted then s1
    else
      let s2 := s1.copyImage
      { s2 with power := { s2.power with phase := .retuned } }

/-- The set must be written when its training cache differs from the trained values or was not used (R427). -/
def State.cacheChanged (s : State) : State :=
  match s.calSet with
  | some c => if c.writer == s.fuses.identity && c.training == s.dmc.training then s else s.calDirty
  | none => s.calDirty

/-- The configuration flash may be accessed: FL_RESET_N has been high for 100 µs (R479). -/
def State.flashOpen (s : State) : Bool := decide (110000 ≤ s.now)

/-- SDRAM_TRAINING_DONE: not before the configuration block can have been read from the flash (R353, R357, R364, R479). -/
def execSdramTrainingDone (tr : Training) (t : Nat) (s0 : State) : Host.Outcome State Fault Refusal :=
  let s := s0.tick t
  if s.power.phase ≠ .booting ∨ !s.flashOpen then .next s
  else match Training.rate4800? tr s.dmc.limit4800 with
    | none => .next ({ s with power := { s.power with phase := .halted } }.fault 0x0B04)
    | some slow =>
      let s1 := (s.trainedWith tr slow).cacheChanged.copyImage
      .next { s1 with power := { s1.power with phase := .trained } }

/-- MAILBOX_READY: the boot record is written with the epoch raised, and the mailboxes are served (R444, R446). -/
def execMailboxReady (t : Nat) (s0 : State) : Host.Outcome State Fault Refusal :=
  let s := s0.tick t
  if s.power.phase ≠ .trained then .next s
  else
    let s1 : State := { s with
      power := { s.power with phase := .running }
      host := { s.host with ready := true }
      flash := s.flash.writeBoot s.power.slot s.journal.epoch
      -- a new incarnation at every reset: boot epoch, then one more at each warm reset (R247)
      ring := { s.ring with incarnation := 256 * s.journal.epoch } }
    .next s1

/-- START_UP_EPISODE_CLOSE: the start-up part of the episode ends, which lets READY go high (R404, R446, R455). -/
def execStartUpEpisodeClose (t : Nat) (s0 : State) : Host.Outcome State Fault Refusal :=
  let s := s0.tick t
  if s.power.phase = .running then .next (s.episodeClose 0) else .next s

/-! ## Settings at their defaults (R452; R365 when the copies are lost) -/

/-- Every setting and table set by commands at its power-on default; nozzle states and counters stay. -/
def State.defaultSettings (s : State) : State :=
  { s with
    render := {
      version := s.render.version, pennants := assignStripes 14 s.render.pennants
      resplitAt := unownedSplit 14 (assignStripes 14 s.render.pennants) }
    lines := { nozzles := s.lines.nozzles, drops := s.lines.drops }
    pos := { s.pos with
      channels := s.pos.channels.map fun c => { c.lose with set := {}, advanced := false }
      lpi := 1200, units := [], pins := [] }
    heads := { s.heads with waveforms := [], governor := { thermal := s.heads.governor.thermal } }
    loop := { s.loop with policy := {} }
    ring := { s.ring with colour := 0, webOffset := 0, webOffsetUm := 0, vPress := 300000, holdMs := 100, pressRoute := none }
    store := { s.store with reprintAtEnd := false } }

/-- Every job closed and every page released, its PAGE_SUBMIT failing with CANCELLED and detail bit 29 (R452). -/
def State.dropPages (s : State) : State :=
  let s1 := s.store.pages.foldl (fun s p => if p.legacy then s else s.finish p.seq .cancelled bit29) s
  { s1 with store := { s1.store with pages := [], jobs := [] } }

/-- A change of mode (R452). -/
def State.changeMode (s : State) (oldMode : BitVec 32) : State :=
  let s1 := s.dropPages.defaultSettings
  let s2 : State := { s1 with
    hb := if s1.power.mode == .hb8 then { openBar := true } else {}
    power := { s1.power with rearm := false, previousMode := s1.power.mode }
    heads := { s1.heads with ports := (List.range 32).map fun n =>
      let p := s1.port n
      if s1.power.mode = .hb8 ∧ 8 ≤ n then { presLow := p.presLow, presSince := p.presSince }
      else if p.state = .absent ∧ !(p.presLow ∧ 8 ≤ n) then p
      else if p.legacy ∨ s1.power.mode = .hb8 ∨ p.record.isNone then { p with state := .present, presSince := s1.now, step := 1 }
      else p } }
  (if s2.power.mode == .hb8 then s2.hbSetup else s2).info 0x8C03 0 oldMode s2.idMode

/-! ## PERST_N and recovery -/

/-- PERST_N_ASSERT: a warm reset of the whole device, and of the link, which also breaks off a boot (R276, R448, R487). A chip without a
valid image has waited for it: the boot ROM tries the images again, and the chip waits on while none is valid (R447). -/
def execPerstNAssert (t : Nat) (s0 : State) : Host.Outcome State Fault Refusal :=
  let s := s0.tick t
  let low : State := { s with host := { s.host with perstLow := true } }
  match s.power.phase with
  | .powerOnReset => .next low
  | phase =>
    let image := if phase = .halted then low.bootImage else low
    let s1 := (image.hbReset).warmReset 1
    if image.power.phase = .halted then .next { s1 with power := { s1.power with phase := .halted } }
    else .next { s1 with host := { s1.host with identityLoaded := false } }

/-- The host link is up, with its reference clock and its PLL. No row of the table says when a link that went down comes back;
a configuration request, or the end of PERST_N, shows that it has. -/
def State.linkBack (s : State) : State :=
  { s with host := { s.host with linkUp := true }, power := { s.power with refclk := true, pllLock := s.power.pllLock ||| 1 } }

/-- PERST_N_DEASSERT: MODE1, MODE0 and MGR_EN are sampled; a mode that differs from the one before changes it (R4, R452, R456). -/
def execPerstNDeassert (mode1 mode0 mgrEn : Bool) (t : Nat) (s0 : State) : Host.Outcome State Fault Refusal :=
  let s := s0.tick t
  if !s.host.perstLow || s.power.phase == .powerOnReset then .next { s with host := { s.host with perstLow := false } }
  else
    let mode := strapMode s.fuses.hb8 mode1 mode0
    let s1 : State := { s with
      host := { s.host with perstLow := false }
      power := { s.power with mode := mode, mode1 := mode1, mode0 := mode0, mgrEn := mgrEn } }.linkBack
    .next (if mode ≠ s.power.previousMode then s1.changeMode s.idMode else s1)

/-- SDRAM_WARM_RETUNE: the SDRAM leaves self-refresh re-tuned, with its contents; or it is trained in full and the contents
are lost, so the epoch rises and no journal is found (R365, R450). -/
def execSdramWarmRetune (ok : Bool) (tr : Training) (t : Nat) (s0 : State) : Host.Outcome State Fault Refusal :=
  let s := s0.tick t
  if s.power.phase ≠ .warmReset ∨ s.now < s.power.resetAt + 1000000 then .next s
  else
    let s0 : State := { s with host := { s.host with identityLoaded := true } }
    let s1 := s0.trainLinks
    -- a boot that a PERST_N broke off has not written its raised epoch yet (R444)
    let broken := s.flash.boot.epoch != s.journal.epoch
    -- contents that a supply has lost are treated as lost by a failed re-tune are (R363; DEDUCED, log 100)
    if ok && s.dmc.trained && !s.dmc.lost then
      .next { s1 with
        flash := if broken then s1.flash.writeBoot s1.flash.boot.slot s1.journal.epoch else s1.flash
        ring := if broken then { s1.ring with incarnation := 256 * s1.journal.epoch } else s1.ring
        power := { s1.power with phase := .retuned }
        dmc := { s1.dmc with selfRefresh := false, warmKeep := true, fullRetrain := false } }
    else match Training.rate4800? tr s.dmc.limit4800 with
      | none => .next ({ s1 with power := { s1.power with phase := .halted }, dmc := { s1.dmc with trained := false } }.fault 0x0B04)
      | some slow =>
        let epoch := (s1.journal.epoch + 1) % 2 ^ 24
        let s2 : State := { s1 with
          journal := { epoch := epoch, cursor := s1.journal.cursor }
          store := {}
          loop := { s1.loop with history := [], staging := [] }
          evt := { s1.evt with spill := [] }
          flash := s1.flash.writeBoot s1.flash.boot.slot epoch
          power := { s1.power with phase := .retuned } }
        -- compare units run in the position domain, and keep their settings (R451)
        let s2a := s2.defaultSettings
        let s3 := ({ s2a with pos := { s2a.pos with units := s2.pos.units, pins := s2.pos.pins } }).trainedWith tr slow
        let s4 : State := { s3 with
          dmc := { s3.dmc with warmKeep := false, fullRetrain := true, image := [], lost := false, journalSeen := 0 }
          hb := { s3.hb with lines := [], openPage := [] } }
        -- the raster lines held are gone with the bulk area and the page store (R495, R505)
        .next (if s3.hb.lines.isEmpty then s4 else s4.hbErr 16)

/-- An entry ends with CANCELLED; one of an axis command with its result words (R327). -/
def State.cancelEntry (s : State) (e : JEntry) (detail : BitVec 32) : State :=
  if e.opcode / 256 == 9 then s.finishAxis e.axis e.seq .cancelled detail else s.finish e.seq .cancelled detail

/-- What recovery makes of one entry that is accepted or running (R392). -/
def State.resolveEntry (s : State) (e : JEntry) : State :=
  match s.page? e.seq with
  | some p =>
    if p.state = .transferring ∨ p.state = .verifying then s.releaseAs e.seq .cancelled bit29 else s
  | none =>
    match s.power.commitSeq with
    | some (q, v) =>
      if q = e.seq ∧ s.power.fwVersion = v then
        { (s.finish q .ok 0 v) with power := { (s.finish q .ok 0 v).power with commitSeq := none } }
      else s.cancelEntry e bit29
    | none => s.cancelEntry e bit29

/-- Printing pages with unfired lines are spoiled, their lines judged by H at the start of the reset; the others keep their
state, the stored ones to be placed anew in the next arming (R167, R170, R392). -/
def State.recoverPages (s : State) : State :=
  let s1 := s.spoilPrinting s.power.resetFault s.power.resetH
  let pages := s1.store.pages.map fun p => if p.state == .stored then p.leave.unplace else p.leave
  { s1 with store := { s1.store with pages := pages } }

/-- Ports in service send SYNC, and are in service again once its ACK has been checked; those whose link has failed during the reset, and
those that were in bring-up, are brought up (R450). Under legacy framing there is no SYNC (R211). -/
def State.resumePorts (s : State) : State :=
  (List.range 32).foldl (fun s n =>
    let p := s.port n
    if p.state = .inService ∧ p.linkLost then
      let s1 := s.updPort n fun p => { p with attempts := 1, limitRate := false }
      if p.presLow then s1.startBringup n p.legacy true
      else s1.updPort n fun p => { p with state := .present, step := 1, noCommit := true, linkLost := false }
    else if p.state = .inService then
      if p.legacy then s else (s.updPort n fun p => { p with resuming := true }).sendSync n
    else if p.state = .present ∧ 2 ≤ p.step ∧ p.presLow then
      (s.updPort n fun p => { p with attempts := 1 }).startBringup n p.legacy p.through
    else s) s

/-- HB-8 mode after a reset: the lines held go on; those whose deadlines have passed fire level 0, and set DATA; the writes held are applied
(R494, R505). DEDUCED (log 82): the deadlines are judged at the recovery. -/
def State.hbRecover (s : State) : State :=
  if s.power.mode ≠ .hb8 then s
  else
    let passed := s.hb.lines.any fun x => x.place.any fun l => decide (deadline l * 65536 ≤ s.highWater)
    let s1 : State := { s with hb := { s.hb with
      lines := s.hb.lines.filter fun x => x.place.all fun l => decide (s.highWater < l * 65536)
      waitArm := s.hb.enable, heldWrites := []
      blankTo := if passed then some (64 * (s.highWater.fdiv (64 * 65536) + 11)) else s.hb.blankTo } }
    (if passed then s1.hbErr 16 else s1).fifoWrite s.hb.heldWrites

/-- JOURNAL_RECOVERY: recovery firmware opens its episode, resolves the journal, resumes the ports, and then serves the
mailboxes again; printing is armed again where R393 or R505 says so. -/
def execJournalRecovery (t : Nat) (s0 : State) : Host.Outcome State Fault Refusal :=
  let s00 := s0.tick t
  let s := s00.reloadImage
  if s00.power.phase ≠ .retuned ∨ s00.now < s00.power.resetAt + 10000000 ∨ s00.host.perstLow then .next s00
  else if s.power.phase = .halted then .next s
  else
    let s1 : State := { s with
      power := { s.power with phase := .running }
      journal := { s.journal with recovering := true } }
    let s2 := s1.episodeOpen 3
    let s3 := (sortBy (fun e => (e.seq : Int)) (s2.journal.entries.filter fun e => !e.state.final)).foldl State.resolveEntry s2
    let s4 := s3.recoverPages.resumePorts
    let s5 : State := { s4 with journal := { s4.journal with recovering := false } }
    let s6 := s5.episodeClose 3
    let s7 : State := { s6 with host := { s6.host with ready := true }, power := { s6.power with commitSeq := none } }
    .next s7.hbRecover.tryArm

/-! ## Watchdog and clocks -/

/-- SENTINEL_WATCHDOG_EXPIRE: where device firmware runs or is started, 0x0F01, and a warm reset at once (R448). -/
def execSentinelWatchdogExpire (t : Nat) (s0 : State) : Host.Outcome State Fault Refusal :=
  let s := s0.tick t
  match s.power.phase with
  | .powerOnReset | .warmReset | .halted => .next s
  | _ => .next ((s.fault 0x0F01).warmReset 3)

/-- SYSCLK_LOSS: 0x0C01 (R438). -/
def execSysclkLoss (t : Nat) (s0 : State) : Host.Outcome State Fault Refusal :=
  let s := s0.tick t
  if s.power.phase = .powerOnReset then .next s
  else .next ((({ s with power := { s.power with sysclk := false } }).live 0xC true).detect { code := 0x0C01, unit := 0 })

/-- The host link leaves DL_Active, where it is up, for a cause other than PERST_N (R275). -/
def State.linkLost (s : State) : State :=
  if s.host.perstLow || !s.host.linkUp then s else ({ s with host := { s.host with linkUp := false } }).hostInterfaceReset 5

/-- PLL_LOCK_LOSS: 0x0C01, or, for the host PLL, a host interface reset (R441). -/
def execPllLockLoss (pll : Fin 10) (t : Nat) (s0 : State) : Host.Outcome State Fault Refusal :=
  let s := s0.tick t
  if s.power.phase = .powerOnReset then .next s
  else
    let s1 : State := { s with power := { s.power with pllLock := s.power.pllLock &&& ~~~ BitVec.ofNat 10 (2 ^ pll.val) } }
    if pll.val = 0 then .next s1.linkLost
    else .next ((s1.live 0xC true).detect { code := 0x0C01, unit := pll.val })

/-- SENTINEL_OSC_CHECK: every 1 ms; outside ±10 % of 50 MHz raises 0x0F02 (R441). `freq` is in 10 kHz units. -/
def execSentinelOscCheck (freq t : Nat) (s0 : State) : Host.Outcome State Fault Refusal :=
  let s := s0.tick t
  if s.power.phase = .powerOnReset then .next s
  else
    let s1 : State := { s with power := { s.power with sentFreq := BitVec.ofNat 16 (min freq 65535) } }
    if freq < 4500 ∨ 5500 < freq then .next (s1.detect { code := 0x0F02 }) else .next s1

/-- DEVICE_TIME_COMPARE: the two copies are compared every 1 ms; a difference is fault 0x0C02, and no fire instant is
committed until printing is armed again (R159). -/
def execDeviceTimeCompare (positionCopy headCopy t : Nat) (s0 : State) : Host.Outcome State Fault Refusal :=
  let s := s0.tick t
  if s.power.phase = .powerOnReset ∨ (positionCopy = headCopy ∧ !s.shotAt 0x14 0) then .next s
  else
    let s1 := s.detect { code := 0x0C02 }
    let s2 : State := { s1 with pos := { s1.pos with copiesDiffer := true } }
    .next (if s2.pos.armed then s2.stopFiring 0xC else s2)

/-- REFCLK_PCIE_LOSS: the link goes down, with a host interface reset; it is no fault of the device (R439). -/
def execRefclkPcieLoss (t : Nat) (s0 : State) : Host.Outcome State Fault Refusal :=
  let s := s0.tick t
  if s.power.phase = .powerOnReset then .next s
  else
    let s1 : State := { s with power := { s.power with refclk := false, pllLock := s.power.pllLock &&& 0x3FE } }
    .next s1.linkLost

/-- LINK_DOWN: the link leaves DL_Active for a cause other than PERST_N (R275). -/
def execLinkDown (t : Nat) (s0 : State) : Host.Outcome State Fault Refusal :=
  let s := s0.tick t
  if s.power.phase = .powerOnReset ∨ s.host.perstLow ∨ !s.host.linkUp then .next s else .next s.linkLost

/-- FUNCTION_LEVEL_RESET (R275). -/
def execFunctionLevelReset (t : Nat) (s0 : State) : Host.Outcome State Fault Refusal :=
  let s := s0.tick t
  if s.power.phase = .powerOnReset ∨ s.host.perstLow ∨ !s.host.linkUp then .next s else .next (s.hostInterfaceReset 4)

/-- The BARs that configuration space shows (R279). -/
def State.bars (s : State) : List Bar :=
  [{ index := 0, size := 0x4000000, prefetchable := false }, { index := 2, size := 0x10000000, prefetchable := true },
   { index := 4, size := if s.power.mode = .hb8 then 0x10000 else 0, prefetchable := false }]

/-- Configuration space by the fuses (R1, R274, R485). -/
def State.configSpace (s : State) : ConfigSpace :=
  if s.fuses.hb8 then
    { vendor := s.fuses.vendorUazar, device := 0x0B08, revision := 0x03, classCode := 0x118000
      subsystem := some (s.fuses.vendorUazar, 0x0B08), bars := s.bars }
  else { vendor := s.fuses.vendorNalrik, device := 0x3216, revision := 0xA1, classCode := 0x118000, subsystem := none, bars := s.bars }

/-- CONFIG_REQUEST: Request Retry Status until the identity is loaded, the identity of the fuses afterwards (R1, R274, R485). -/
def execConfigRequest (s0 : State) : Host.Outcome State Fault Refusal :=
  let s := s0.linkBack
  if s0.power.phase = .powerOnReset ∨ s0.host.perstLow then .next s0
  else if !s.host.identityLoaded then .next (s.emit .configRetry)
  else .next (s.emit (.configIdentity s.configSpace))

end Sys2Proof.Machine
end

