-- ==== Sys2Proof/Machine/Thermal.lean ====
section
/-!
DEFINITION. Machine/Thermal.lean: row-line data on its way to the heads, the energy of a period (R196), the
thermal predictor and derating (R197, R199), what a measured temperature does (R199, R200), and the speed
governor (R201 to R203, R376, R389).
-/

namespace Sys2Proof.Machine

/-! ## Row-line data -/

/-- The output depth of a hoist. -/
def Hoist.depth (h : Hoist) : Nat := (h.tables.format.map (·.depth)).getD 2

/-- The row-line of a row on a line of a hoist (R113, R180). -/
def Hoist.rowBytes (h : Hoist) (r : Nat) (l : Int) : List Byte :=
  packLevels h.depth (rowLevels h.depth h.tables h.stripes l r)

/-- Every stripe of a hoist is committed. -/
def Hoist.complete (h : Hoist) : Bool :=
  (List.range h.tables.widths.length).all fun i => h.stripes.any fun x => x.index == i

/-- The hoist held for a line. -/
def State.hoistAt (s : State) (l : Int) : Option Hoist := s.render.hoists.find? fun h => h.k == hoistOf l

/-- The row-line of a row and line wherever it is held: at the port, in the delay line, or in its band slot. -/
def State.rowData (s : State) (r : Nat) (l : Int) : Option (List Byte) :=
  match (s.port (r / 2)).sent.find? (fun x => x.row == r % 2 && x.line == l) with
  | some x => some x.bytes
  | none =>
    match (Tbl.get [] s.lines.delay r).find? (fun x => x.2.line == l) with
    | some x => x.2.bytes
    | none => (s.hoistAt l).map fun h => h.rowBytes r l

/-- The levels of 2,048 nozzles that a row-line's bytes hold. -/
def levelsOf (depth : Nat) (bytes : List Byte) : List Nat :=
  let l := (unpackLevels depth bytes).take 2048
  l ++ List.replicate (2048 - l.length) 0

/-! ## Energy (R196) -/

/-- The energy of a row-line on a head in 0.01 nJ, by level from the record. -/
def HeadPort.lineEnergy (p : HeadPort) (depth : Nat) (bytes : List Byte) : Nat :=
  ((levelsOf depth bytes).map fun v => if v = 0 then 0 else p.recAt (58 + 2 * v) 2).sum

/-- The derate factor. -/
def HeadPort.derateFactor (p : HeadPort) : Rat := (p.recAt 90 2 : Nat) / 65536

/-- The first line of a row whose fire position lies in period k. -/
def State.periodLine (s : State) (r : Nat) (k : Int) : Int := -((s.qOf r (64 * k) - 64 * 256 * k).fdiv 256)

/-- The normal-waveform energy of a period of a head, from the row-lines held (R196, R199). -/
def State.normalEnergy (s : State) (n : Nat) (k : Int) : Nat :=
  (([2 * n, 2 * n + 1] : List Nat).flatMap fun r => (List.range 64).map fun (i : Nat) =>
    match s.rowData r (s.periodLine r k + i) with
    | some b => (s.port n).lineEnergy s.depth b
    | none => 0).sum

/-- The energy fired in a period. -/
def HeadPort.firedEnergy (p : HeadPort) (k : Int) : Rat := ((p.energy.filter fun x => x.1 == k).map (·.2)).foldl (· + ·) 0

/-! ## The predictor (R197) -/

/-- A temperature word in °C. -/
def celsius (v : BitVec 16) : Rat := (v.toInt : Rat) / 16

/-- The first predictor step, in binary64: energy in 0.01 nJ, time in µs, C in µJ/°C, τ in µs. -/
def predictorStep (tau c t ink dt e : Rat) : Rat :=
  let b := rnd64 (dt / tau)
  let x := rnd64 (t + rnd64 (rnd64 e / rnd64 (100000 * c)))
  rnd64 (x - rnd64 (b * rnd64 (t - ink)))

/-- The correction step, in binary64. -/
def correctStep (g t m : Rat) : Rat := rnd64 (t + rnd64 (g * rnd64 (m - t)))

/-- The predictor's value after the first step for a port (R197). DESIGN CHOICE (log 92): without a measured ink temperature t_ink is t itself,
so the cooling term is 0. -/
def HeadPort.step1 (p : HeadPort) (t dt e : Rat) : Rat :=
  let tau := p.recAt 56 4
  let c := p.recAt 52 4
  let ink := if p.ink = 0x8000 then t else celsius p.ink
  if tau = 0 ∨ c = 0 then t else predictorStep (tau : Nat) (c : Nat) t ink dt e

/-- The margin in °C. -/
def HeadPort.margin (p : HeadPort) : Rat := if 256 ≤ p.predSteps then 0 else 5 * ((256 - p.predSteps : Nat) : Rat) / 256

/-- The temperatures predicted through periods, running forward from t. -/
def runForward (p : HeadPort) (dt : Rat) : Rat → List Nat → List Rat
  | _, [] => []
  | t, e :: rest => let t' := p.step1 t dt (e : Nat); t' :: runForward p dt t' rest

/-- Derating starts, with its event (R199). -/
def State.derate (s : State) (n : Nat) (temp : Int) : State :=
  if (s.port n).derated then s
  else (s.updPort n fun p => { p with derated := true, coolTicks := 0 }).info 0x8804 n (w32i temp)

/-- The forecast at hoist tick k (R199): derating starts where a prediction plus margin reaches the soft limit; ticks
at which everything stayed below the soft limit minus the hysteresis are counted. -/
def State.forecast (s : State) (n : Nat) (k : Int) : State :=
  let p := s.port n
  match p.predicted with
  | none => s
  | some t =>
    let v := s.speed
    if !(0 < v) || p.legacy then s
    else
      let temps := (runForward p (64 / v * 1000000) t ((List.range (s.leadInForce + 1)).map fun (i : Nat) => s.normalEnergy n (k + i))).map (· + p.margin)
      let soft : Rat := (p.soft : Rat) / 16
      let low : Rat := ((p.soft - p.hysteresis : Int) : Rat) / 16
      let m := celsius p.measured
      match temps.find? (fun x => decide (soft ≤ x)) with
      | some x => (s.derate n (report (x * 16) (-32768) 32767)).updPort n fun p => { p with coolTicks := 0 }
      | none =>
        let cool := temps.all (fun x => decide (x < low)) && (p.measured == 0x8000 || decide (m < low))
        s.updPort n fun p => { p with coolTicks := if cool then p.coolTicks + 1 else 0 }

/-- The predictor step that waits is made, with the correction of a STATUS or without (R197); the forecast follows at
a hoist tick. -/
def State.settlePredictor (s : State) (n : Nat) (status tick : Bool) : State :=
  let p := s.port n
  let look := fun (s : State) => match p.stepHoist with
    | some k => if tick then s.forecast n k else s
    | none => s
  match p.stepDue, p.predicted with
  | some (dt, e), some t =>
    let t1 := p.step1 t dt e
    let t2 := if status then correctStep ((p.gain : Rat) / 256) t1 (celsius p.measured) else t1
    look (s.updPort n fun p => { p with predicted := some t2, predSteps := p.predSteps + 1, stepDue := none })
  | some _, none =>
    -- at bring-up t is the first measured temperature
    if status then look (s.updPort n fun p => { p with predicted := some (celsius p.measured), predSteps := 0, stepDue := none })
    else s.updPort n fun p => { p with stepDue := none }
  | none, _ => s

/-- A STATUS has not come within its 10 µs: the steps that wait for it are made without (R186, R197), and the forecast of their tick
follows (R199). -/
def State.settleMissing (s : State) : State :=
  if !s.firmwareRuns || decide (s.now < s.pos.tickAt + 10000) then s
  else (List.range 32).foldl (fun s n => s.settlePredictor n false true) s

/-- A tick: the step of the last tick is made if its STATUS is missing, and the step of this one waits for its STATUS.
`k` is the period just ended, none at a timebase TICK. -/
def State.tickPredictor (s : State) (n : Nat) (k : Option Int) : State :=
  if !(s.port n).runs then s
  else
    let s1 := s.settlePredictor n false true
    let dt : Rat := ((s1.now - s1.pos.tickAt : Nat) : Rat) / 1000
    let e : Rat := match k with
      | some k => (s1.port n).firedEnergy k
      | none => 0
    s1.updPort n fun p => { p with
      stepDue := some (dt, e), stepHoist := k.map (· + 1), statusNow := false
      energy := match k with
        | some k => p.energy.filter fun x => decide (k < x.1)
        | none => p.energy }

/-- Whether the hard limit acts on a port: it runs, or it holds its record and is still to come into service (R200). -/
def HeadPort.watched (p : HeadPort) : Bool := p.runs || (p.trained && p.record.isSome && decide (7 ≤ p.step))

/-- The port left service within the line step that H is in (R200). -/
def State.justOut (s : State) (n : Nat) : Bool :=
  let p := s.port n
  (p.state == .fenced || p.state == .retired) && !p.thermalFence && p.outLine == some s.pos.line

/-- The record of a fence takes the thermal cause (R200): the one record of it, while that is in the buffer, has the code and the class of
0x0803, and the fault has its effects; without one the fault is recorded. DESIGN CHOICE (log 72): a record committed before stays, and the
earlier fault stays counted and latched. -/
def State.thermalRecord (s : State) (n old : Nat) : State :=
  let d : Detection := { code := 0x0803, unit := n }
  let mine := fun (b : Buffered) => b.record.code == old && b.record.unit == n && !b.record.shadowed
  match s.evt.buffer.reverse.find? mine with
  | some b =>
    if old = 0 ∨ s.heldOff 0x0803 ∨ s.shadowed 0x0803 n then s.detect d
    else
      let cls := s.classOf 0x0803
      let recode := fun (r : Record) => if r.seq == b.record.seq then { r with code := 0x0803, severity := cls + 1 } else r
      let s1 : State := { s with evt := { s.evt with
        buffer := s.evt.buffer.map fun x => { x with record := recode x.record }, spill := s.evt.spill.map recode } }
      (s1.latch d (b.record.p0, b.record.p1, 0) cls false true b.record.p2).classEffects d cls
  | none => s.detect d

/-- The hard limit, on a port that another fence or a retirement took out of service within the line step: the fence has its thermal
cause, with the thermal stop (R200). -/
def State.fenceThermal (s : State) (n : Nat) : State :=
  let old := if (s.port n).state == .fenced then (s.port n).fencedCode else 0
  let s1 := (s.updPort n fun p => { p with
    state := .fenced, noCommit := true, fencedCode := 0x0803, fencedAt := s.now, thermalFence := true }).thermalRecord n old
  let g := s1.heads.governor
  ({ s1 with heads := { s1.heads with governor := { g with thermal := addNew n g.thermal } } }).hbErr 128

/-- A measured temperature against the limits (R199, R200): the hard limit fences the port with a thermal stop, the
soft limit derates it; under legacy framing nothing is derated (R502). -/
def State.judgeTemperature (s : State) (n : Nat) : State :=
  let p := s.port n
  if p.measured = 0x8000 ∨ !(p.watched || s.justOut n) then s
  else if p.hard ≤ p.measured.toInt then (if p.watched then s.fencePort n 0x0803 true true else s.fenceThermal n)
  else if !p.runs then s
  else if p.legacy then s
  else if p.soft ≤ p.measured.toInt then (s.derate n p.measured.toInt).updPort n fun p => { p with coolTicks := 0 }
  else if p.soft - p.hysteresis ≤ p.measured.toInt then s.updPort n fun p => { p with coolTicks := 0 }
  else s

/-! ## Registers of a port (HDP_) -/

/-- The code of a port state (R188). -/
def PortState.code : PortState → Nat
  | .absent => 0 | .present => 1 | .training => 2 | .record => 3 | .waiting => 4 | .shadow => 5
  | .inService => 6 | .fenced => 7 | .retired => 8 | .failed => 9

/-- HDP_PORTn_STATUS. -/
def HeadPort.statusReg (p : HeadPort) : BitVec 32 :=
  word [p.state.code, flag 4 p.presLow, flag 5 p.rate6, flag 6 p.legacy, flag 7 p.grey4, flag 8 p.derated,
    flag 9 (p.state == .fenced && p.thermalFence), flag 10 p.los, flag 11 p.lol, flag 12 p.recordTwoWire,
    field 16 8 (if p.record.isSome then p.recAt 40 1 else 0), field 24 4 (p.waveSet.getD 0)]

/-- HDP_PORTn_TEMP. -/
def HeadPort.tempReg (p : HeadPort) : BitVec 64 :=
  let pred := match p.predicted with
    | some t => unsign 16 (report (t * 16) (-32768) 32767)
    | none => 0x8000
  let margin := if p.predicted.isSome then (report (p.margin * 16) 0 65535).toNat else 0
  BitVec.ofNat 64 (p.measured.toNat + pred * 2 ^ 16 + p.ink.toNat * 2 ^ 32 + margin * 2 ^ 48)

/-- HDP_PORTn_ERRCNT. -/
def HeadPort.errReg (p : HeadPort) : BitVec 32 :=
  word [min 255 p.nak, field 8 8 (min 255 p.resent), field 16 8 (min 255 p.lost), field 24 8 (min 255 p.lateMarker)]

/-! ## The governor (R201 to R203) -/

/-- Q in lines: through the last line of the stored pages placed ahead, cut at a placed page that is not yet stored
(a reading of "blank" that keeps the exception for a closed job meaningful). -/
def State.queuedLines (s : State) : Int :=
  let here := s.highWater.fdiv 65536
  let ends := s.store.pages.filterMap fun p => match p.first, p.state with
    | some f, .transferring => if here < f then some (f, true) else none
    | some f, .verifying => if here < f then some (f, true) else none
    | some f, _ => some (f + s.linesOf p, false)
    | none, _ => none
  let last := (ends.filterMap fun e => if e.2 then none else some e.1).foldl max here
  let cut := (ends.filterMap fun e => if e.2 then some e.1 else none).foldl min last
  max 0 (cut - here)

/-- The job whose pages are to be stored. DESIGN CHOICE (log 97): with several open that of the first page still on its way, or, without
one, that of the page stored last. -/
def State.jobToStore (s : State) : Option Nat :=
  match s.store.pages.find? (fun p => !p.legacy && (p.state == .transferring || p.state == .verifying)) with
  | some p => some p.job
  | none => (s.heads.governor.recent.head?).map (·.1)

/-- rho in bytes per line over the last 8 stored pages of the job to be stored; before its first page is stored, that page's buffer length
and lines are used (R201). -/
def State.rho (s : State) : Option Rat :=
  let mean := fun (bytes lines : Nat) => if lines = 0 then none else some ((bytes : Rat) / (lines : Rat))
  s.jobToStore.bind fun j =>
    let mine := s.heads.governor.recent.filter (·.1 == j)
    match mine, s.store.pages.find? (fun p => !p.legacy && p.job == j) with
    | [], some p => mean p.streamBytes (s.linesOf p)
    | l, _ => mean (l.map (·.2.1)).sum (l.map (·.2.2)).sum

/-- r in bytes/s over the last 16 ms (R201). DESIGN CHOICE (log 93): a page counts with its whole stream at the moment its transfer ends. -/
def State.dmaRate (s : State) : Rat :=
  (((s.heads.governor.dma.filter fun x => decide (s.now ≤ x.1 + 16000000)).map (·.2)).sum : Nat) * 1000 / (16 : Rat)

/-- v_data, or none where it does not apply: every open job is closing with all its pages stored (R201). DESIGN CHOICE (log 95): nor does it
where no job is open. -/
def State.dataLimit (s : State) : Option Rat :=
  let open_ := (s.store.jobs.filterMap fun j => j).any fun j =>
    !j.closing || s.store.pages.any fun p => p.job == j.id && (p.state == .transferring || p.state == .verifying)
  if !open_ then none
  else
    let flow := match s.rho with
      | some x => if 0 < x then s.dmaRate / x else 0
      | none => 0
    some (flow + ((s.queuedLines - 256 : Int) : Rat) * 1000 / (s.heads.governor.tauMs : Nat))

/-- Whether a head in service or in shadow declares 4-bit greyscale. -/
def State.greyRuns (s : State) : Bool := s.runningPorts.any fun n => (s.port n).grey4

/-- The limit a worker computes, and its cause (R201 to R203, R376, R389). DESIGN CHOICE (log 94): the cause is 3, head rate, where nothing
binds below 300,000 lines/s. -/
def State.speedLimit (s : State) : Nat × Nat :=
  if !s.heads.governor.thermal.isEmpty then (0, 2)
  else if s.unitFencedPort || s.flt.speedZero then (0, 6)
  else
    let cap := min 300000 s.headCap
    let capCause := if s.greyRuns && cap = 150000 then 4 else 3
    match s.dataLimit with
    | none => (if cap < 2400 then 0 else cap / 100 * 100, capCause)
    | some d =>
      if d < (cap : Rat) then (if d < 2400 then 0 else d.floor.toNat / 100 * 100, 1)
      else (if cap < 2400 then 0 else cap / 100 * 100, capCause)

/-- Whether the published limit has reached or left a value. -/
def reaches (old new v : Nat) : Bool := (old == v) != (new == v)

/-- A governor computation: the limit is published where R202 asks for it. -/
def State.govern (s : State) : State :=
  let l := s.speedLimit
  match s.heads.governor.published with
  | none => s.publish l.1 l.2
  | some p =>
    if movedEnough p.1 l.1 || reaches p.1 l.1 (min 300000 s.headCap) then s.publish l.1 l.2 else s

end Sys2Proof.Machine
end

