-- ==== Sys2Proof/Machine/Rows.lean ====
section
/-!
DEFINITION. Machine/Rows.lean: row-lines on their way to the heads (R129, R138, R155, R180, R208, R210): the
read-out with its drop counts and fire-history staging (R212, R213), the sending, and shadow data.
-/

namespace Sys2Proof.Machine

/-! ## Staging of the fire history and drop counters (R138, R212, R213) -/

/-- A key list with the entries of listed keys, both in rising order, changed by `f`; keys not in it start at `v0`. -/
def bump (f : Nat → Nat) (v0 : Nat) : Nat → List (Nat × Nat) → List Nat → List (Nat × Nat)
  | 0, m, _ => m
  | _ + 1, m, [] => m
  | _ + 1, [], l => l.map fun i => (i, f v0)
  | n + 1, (j, v) :: m, i :: l =>
    if j < i then (j, v) :: bump f v0 n m (i :: l)
    else if i < j then (i, f v0) :: bump f v0 n ((j, v) :: m) l
    else (j, f v) :: bump f v0 n m l

/-- The same with fuel enough. -/
def bumpAll (f : Nat → Nat) (v0 : Nat) (m : List (Nat × Nat)) (l : List Nat) : List (Nat × Nat) :=
  bump f v0 (m.length + l.length + 1) m l

/-- A drop counted in a staged entry: a blanked one stays so, and one marked as out counts from 0. -/
def countEntry (v : Nat) : Nat := if v = 0xFFE then v else if v = 0xFFF then 1 else v + 1

/-- The staged record of a period changed. -/
def Loop.stage (l : Loop) (k : Int) (f : List (Nat × Nat) → List (Nat × Nat)) : Loop :=
  if l.staging.any (fun x => x.1 == k) then
    { l with staging := l.staging.map fun x => if x.1 == k then (x.1, f x.2) else x }
  else { l with staging := l.staging ++ [(k, f [])] }

/-- The nozzles of a row in a range of its head columns. -/
def rowNozzles (r lo hi : Nat) : List Nat := (List.range (hi + 1 - lo)).map fun i => nozzleIndex (r / 2) (r % 2) (lo + i)

/-- Row-lines blanked: the entries of a range of head columns of a row read 0xFFE for the period (R213). -/
def State.blankEntries (s : State) (r : Nat) (k : Int) (lo hi : Nat) : State :=
  { s with loop := s.loop.stage k fun m => bumpAll (fun _ => 0xFFE) 0 m (rowNozzles r lo hi) }

/-- The period in which a row-line is fired. -/
def State.firePeriod (s : State) (r : Nat) (line : Int) : Int := hoistOf (line + (s.qOf r line).fdiv 256)

/-- The drops of a row-line counted at its read-out, in the lifetime counters and in the staged period (R138, R212). -/
def State.countDrops (s : State) (r : Nat) (line : Int) (bytes : List Byte) : State :=
  let levels := levelsOf s.depth bytes
  let l := (levels.zipIdx.filter fun x => x.1 != 0).map fun x => nozzleIndex (r / 2) (r % 2) x.2
  { s with
    lines := { s.lines with drops := bumpAll (fun v => min (v + 1) 0xFFFFFFFF) 0 s.lines.drops l }
    loop := s.loop.stage (s.firePeriod r line) fun m => bumpAll countEntry 0 m l }

/-! ## Shadow data (R208) -/

/-- The register of the sequence x^31 + x^28 + 1 at the start of a row-line. -/
def shadowSeed (line : Int) : BitVec 31 := if BitVec.ofInt 31 line = 0 then 1 else BitVec.ofInt 31 line

/-- Output bits of the sequence. -/
def shadowBits : Nat → BitVec 31 → List Bool
  | 0, _ => []
  | n + 1, v =>
    let x := v.getLsbD 30 != v.getLsbD 27
    x :: shadowBits n ((v <<< 1) ||| (if x then 1#31 else 0#31))

/-- The shadow data of a row-line of `n` bytes. -/
def shadowBytes (line : Int) (n : Nat) : List Byte := packBits (shadowBits (8 * n) (shadowSeed line))

/-- A row-line of a port in shadow is dry until the first hoist rendered with the head; what was sent before it stays so once the port
serves. -/
def HeadPort.dry (p : HeadPort) (line : Int) : Bool :=
  (p.state == .shadow && !(p.joinHoist.any fun j => decide (64 * j ≤ line))) || p.dryTo.any fun l => decide (line < l)

/-! ## Sending (R155, R179, R180, R210) -/

/-- The line tag. -/
def lineTag (line : Int) : List Byte := leBytes 2 (unsign 16 line)

/-- A row-line of 2-bit levels as 1 bit per nozzle, under legacy framing at DEPTH 0. -/
def oneBit (bytes : List Byte) : List Byte := packBits ((levelsOf 2 bytes).map (· != 0))

/-- The blocks of a row-line: LINE_START, the data, LINE_END; `again` for a resend. A shot inverts the CRC (R382). -/
def State.sendBlocks (s : State) (n row : Nat) (line : Int) (data : List Byte) (again : Bool) : State :=
  let inverted := s.inverts n again
  let word := if inverted then ~~~ crc32c data else crc32c data
  let s1 := ((s.sendHead n 0x20 (BitVec.ofNat 8 (row + 2 * depthCode s.depth) :: lineTag line)).sendData n data).sendHead n 0x22
    (leBytes 4 word.toNat ++ lineTag line)
  if inverted then s1.shotOut else s1

/-- A row-line sent by a port, shadow data in its place while dry; under legacy framing between K27.7 and K29.7. -/
def State.sendLine (s : State) (r : Nat) (line : Int) (bytes : List Byte) : State :=
  let n := r / 2
  let p := s.port n
  let keep := fun (p : HeadPort) => { p with sent := p.sent ++ [{ row := r % 2, line := line, bytes := bytes }] }
  if p.legacy then
    let data := if s.hb.depth then bytes else oneBit bytes
    (s.sendData n ([0xFB#8, BitVec.ofNat 8 (r % 2)] ++ lineTag line ++ data ++ leBytes 4 (crc32c data).toNat ++ [0xFD#8])).updPort n keep
  else
    let data := if p.dry line then shadowBytes line bytes.length else bytes
    (s.sendBlocks n (r % 2) line data false).updPort n fun p => { keep p with echoCrc := crcRun p.echoCrc data }

/-- The port holds the data of a row-line. -/
def HeadPort.holds (p : HeadPort) (row : Nat) (line : Int) : Bool := p.sent.any fun x => x.row == row && x.line == line

/-- A row-line without the drops of words that failed their check (R118). -/
def blankWords (bytes : List Byte) (words : List Nat) : List Byte :=
  (List.range bytes.length).map fun i => if has (i / 8) words then 0 else bytes.getD i 0

/-- A row-line lost on the path to its port (0x0605): its nozzles fire level 0, and its pages are reprinted, unless it was dry (R160, R372). -/
def State.rowLineFault (s : State) (d : Detection) (r : Nat) (line : Int) : State :=
  let c := s.headColumns r
  if (s.port (r / 2)).dry line then s.detect d
  else (((s.blankEntries r (s.firePeriod r line) 0 2047).detect d).hbErr 16).spoilLine r line c.1 c.2 6 .each

/-- A shot of the fabric parity on the row-line path spoils a row-line as it is read out: level 0 goes to the port (R382). -/
def State.pathShot (s : State) (r : Nat) (line : Int) (bytes : List Byte) : State × List Byte :=
  if s.shotAt 0x0B 1 then (s.rowLineFault { code := 0x0605, unit := r / 2 } r line, List.replicate bytes.length 0) else (s, bytes)

/-- A row-line read out: its drops are counted, unless it is dry, and its port sends it (R129, R138, R155, R208). -/
def State.readOut (s0 : State) (r : Nat) (line : Int) (bytes0 : List Byte) : State :=
  let (s, bytes) := s0.pathShot r line bytes0
  let words := (s.lines.blanked.filter fun x => x.1 == r && x.2.1 == line).map (·.2.2)
  let b := if words.isEmpty then bytes else blankWords bytes words
  let s1 := if (s.port (r / 2)).dry line then s
    else if b.all (· == 0) then s.countDrops r line b
    else (s.countDrops r line b).headDirty (r / 2) false
  s1.sendLine r line b

/-- The part of a hoist that a row needs is committed, or the hoist drains (R155). -/
def State.rowReady (s : State) (h : Hoist) (r : Nat) : Bool :=
  let c := s.headColumns r
  h.draining || (List.range h.tables.widths.length).all fun i =>
    let a := stripeStart h.tables.widths i
    decide (a + 64 * h.tables.widths.getD i 0 ≤ c.1) || decide (c.2 < a) || h.stripes.any fun x => x.index == i

/-- Row-lines with no delay whose data was not ready at their line step are sent when it is committed, or at the tick of
their hoist, those with a committed instant too (R155). -/
def State.sendReady (s : State) : State :=
  (s.pos.pending.map (fun x => (x.row, x.line)) ++ s.pos.committed.map fun x => (x.row, x.line)).foldl (fun s x =>
    if (s.port (x.1 / 2)).holds (x.1 % 2) x.2 then s
    else match s.hoistAt x.2 with
      | some h => if s.rowReady h x.1 then s.readOut x.1 x.2 (h.rowBytes x.1 x.2) else s
      | none => s) s

end Sys2Proof.Machine
end

