-- ==== Sys2Proof/Machine/Engine.lean ====
section
/-!
DEFINITION. Machine/Engine.lean: the pennant engines (R15 to R27, R72 to R80, R98 to R111, R118): render windows and
table sets, deliveries and check words, replay, takeover, re-split and audit, and the return of units to service
(R316, R380, R391) for pennants, decompression units and compression lanes.
-/

namespace Sys2Proof.Machine

/-! ## Pennants and hoists -/

/-- A pennant. -/
def State.pennant (s : State) (p : Nat) : Pennant := Tbl.get {} s.render.pennants p

/-- The state with a pennant changed. -/
def State.updPennant (s : State) (p : Nat) (f : Pennant → Pennant) : State :=
  { s with render := { s.render with pennants := Tbl.upd {} s.render.pennants p f } }

/-- The hoist k, from the opening of its window until it has drained. -/
def State.hoist? (s : State) (k : Int) : Option Hoist := s.render.hoists.find? (fun h => h.k == k)

/-- The state with a hoist changed. -/
def State.updHoist (s : State) (k : Int) (f : Hoist → Hoist) : State :=
  { s with render := { s.render with hoists := s.render.hoists.map fun h => if h.k == k then f h else h } }

/-- Stripes of the split in force (R72). -/
def State.stripeCount (s : State) : Nat := s.render.active

/-- Widths of the split in force, in units (R73). -/
def State.stripeWidths (s : State) : List Nat :=
  match s.render.explicit with
  | some l => l
  | none => autoSplit s.lines.geometry.units s.render.active

/-- The pennant that owns a stripe. -/
def State.ownerOf (s : State) (st : Nat) : Option Nat :=
  (List.range 16).find? fun p => (s.pennant p).state == .active && (s.pennant p).stripe == some st

/-- The pennant that renders an orphaned stripe after its own (R109). -/
def State.extraOf (s : State) (st : Nat) : Option Nat :=
  (List.range 16).find? fun p => (s.pennant p).state == .active && has st (s.pennant p).extra

/-- A task that a stripe-hoist is due from. -/
def PennantTask.due : PennantTask → Bool
  | .render | .replay => true
  | .audit | .third | .shadow => false

/-- A task of an audit. -/
def PennantTask.audits : PennantTask → Bool
  | .audit | .third => true
  | .render | .replay | .shadow => false

/-! ## Slices (R77 to R80) -/

/-- Contone input at 1200 lpi, where each source row makes two lines (R82). -/
def State.halved (s : State) : Bool := s.render.format.any (fun f => f.kind == 0) && s.pos.lpi == 1200

/-- Rows of a page placed at line `f` that hoist k needs decoded, its halo row included (R77). -/
def State.rowsNeeded (s : State) (p : Page) (f k : Int) : Nat :=
  let last := min (64 * k + 63) (f + s.linesOf p - 1)
  if last < f ∨ f + s.linesOf p - 1 < 64 * k then 0
  else
    let y := (last - f).toNat
    min p.rows (if s.halved then y / 2 + 2 else y + 1)

/-- Bytes of an input row. -/
def State.inputRowBytes (s : State) : Nat :=
  match s.render.format with
  | some f => rowBytes f.wIn (kindBpp f.kind)
  | none => 1

/-- Rows of a page decoded by inflow. -/
def State.rowsDecoded (s : State) (p : Page) : Nat := p.raster.length / s.inputRowBytes

/-- The slices of hoist k hold all that a page gives it. -/
def State.pageReady (s : State) (p : Page) (f k : Int) : Bool :=
  p.failedRow.isSome || decide (s.rowsNeeded p f k ≤ s.rowsDecoded p)

/-- The slices of hoist k are complete. -/
def State.sliceReady (s : State) (h : Hoist) : Bool :=
  h.pages.all fun x => (s.page? x.1).all fun p => s.pageReady p x.2 h.k

/-- The slices of hoist k are not complete because decompression units have failed: a frame of a page they need was lost with its unit
and has not been decoded again, or no unit is left (R24). -/
def State.sliceFailed (s : State) (h : Hoist) : Bool :=
  !h.late && h.pages.any fun x => (s.page? x.1).any fun p => !s.pageReady p x.2 h.k &&
    (p.unitFailed || (List.range 4).all fun u => (Tbl.get ({} : Decompressor) s.codec.units u).state != .inService)

/-- Whether a page placed at line `f` has a line in hoist k. -/
def State.overlapsAt (s : State) (p : Page) (k f : Int) : Bool := decide (f < 64 * k + 64 ∧ 64 * k < f + s.linesOf p)

/-- Pages that hoist k is rendered from, with their first lines. -/
def State.pagesOf (s : State) (k : Int) : List (Nat × Int) :=
  s.store.pages.flatMap fun p =>
    (p.places.filter fun f => s.overlapsAt p k f && (p.old == some f || s.printsYet f)).map fun f => (p.seq, f)

/-- A page needed by hoist k whose transfer has not ended (R34). -/
def State.missingPage (s : State) (k : Int) : Bool :=
  s.store.pages.any fun p => (p.state == .transferring || p.state == .verifying) && !p.cancelled && !p.blind &&
    p.first.any fun f => s.printsYet f && s.overlapsAt p k f

/-- The copies of a slice in local memory. -/
def State.sliceCopy? (s : State) (k : Int) (st : Nat) : Option SliceCopy :=
  s.render.slices.find? fun c => c.hoist == k && c.stripe == st

/-- Whether a decode for a replay of a stripe-hoist is still to be made (R106). -/
def State.decodePending (s : State) (k : Int) (st : Nat) : Bool :=
  let mine := fun (w : DecodeWork) => match w.user with
    | .replay _ h x => h == k && x == st
    | _ => false
  s.codec.waiting.any mine || s.codec.units.any fun u => u.work.any mine

/-- A page as rendering sees it. -/
def Page.view (p : Page) (first : Int) : PageView :=
  { seq := p.seq, first := first, rows := p.rows, good := p.failedRow.getD p.rows, raster := p.raster }

/-- The scene of a hoist: its table set and the pages it holds. -/
def State.scene (s : State) (h : Hoist) : Scene :=
  { ts := h.tables, format := h.tables.format.getD ⟨0, 1, 0, 0, 2⟩, lpi := s.pos.lpi, blankTo := s.hb.blankTo
    pages := h.pages.filterMap fun x => match s.page? x.1 with
      | some p => some (p.view x.2)
      | none => (s.render.remains.find? fun r => r.seq == x.1 && r.first == x.2).map fun r =>
          { seq := r.seq, first := x.2, rows := r.rows, good := r.good, raster := r.raster } }

/-! ## Replays (R104 to R108) -/

/-- Where a pennant takes the slice of a stripe-hoist from (R106, R107): `none` and false is its own primary copy, or the one that is to
arrive; a pennant is the holder of the reserve copy; true is a decode of the frames again, where both copies are gone, or none was
written (R80). DEDUCED (log 69): local memory holds the slices of two hoists, so a hoist before those has no reserve copy any more. -/
def State.sliceSource (s : State) (q : Nat) (h : Hoist) (st : Nat) : Option Nat × Bool :=
  match s.sliceCopy? h.k st with
  | some c =>
    if c.primary == some q then (none, false)
    else match c.reserve with
      | some r => (some r, false)
      | none => (none, true)
  | none => (none, s.sliceReady h)

/-- The frames that a replay decodes again (R58). -/
def State.replayFrames (s : State) (h : Hoist) (st : Nat) : List DecodeWork :=
  h.pages.flatMap fun x => match s.page? x.1 with
    | none => []
    | some p =>
      let last := s.rowsNeeded p x.2 h.k
      let y := (64 * h.k - x.2).toNat
      let from_ := if s.halved then y / 2 - 1 else y
      (List.range p.frames.length).filterMap fun i =>
        let f := p.frames.getD i ⟨0, 0, 0, 0, false⟩
        if f.row < last ∧ from_ < f.row + f.rows then
          some { user := .replay p.seq h.k st, frame := i, offset := f.offset, produced := f.row * s.inputRowBytes }
        else none

/-- Frames are queued for a stripe-hoist that is decoded again (R58). -/
def State.queueFrames (s : State) (h : Hoist) (st : Nat) (again : Bool) : State :=
  if again then { s with codec := { s.codec with waiting := s.codec.waiting ++ s.replayFrames h st } } else s

/-- A pennant is given a stripe-hoist to compute that no slice of its own window is written to it for. -/
def State.giveWork (s : State) (q : Nat) (task : PennantTask) (h : Hoist) (st : Nat) : State :=
  let src := s.sliceSource q h st
  (s.updPennant q fun p => { p with
    work := p.work ++ [{ task := task, hoist := h.k, stripe := st, since := s.now, decodeAgain := src.2, reserve := src.1 }] }).queueFrames
    h st src.2

/-- Audits are abandoned, with the recomputations and decodes for them (R110). -/
def State.dropAudits (s : State) (gone : Audit → Bool) : State :=
  let out := fun (w : PennantWork) => w.task.audits && s.render.audits.any fun a => gone a && a.hoist == w.hoist && a.stripe == w.stripe
  let left := s.render.pennants.map fun p => { p with work := p.work.filter fun w => !out w }
  let stays := fun (w : DecodeWork) => match w.user with
    | .replay _ k st => left.any fun p => p.work.any fun x => x.decodeAgain && x.hoist == k && x.stripe == st
    | _ => true
  { s with
    render := { s.render with audits := s.render.audits.filter (fun a => !gone a), pennants := left }
    codec := { s.codec with waiting := s.codec.waiting.filter stays } }

/-- Audits that a pennant recomputes for are abandoned: a replay needs it, or it is out of service (R110). -/
def State.freePennant (s : State) (q : Nat) : State :=
  let l := (s.pennant q).work.filter (·.task.audits)
  if l.isEmpty then s else s.dropAudits fun a => l.any fun w => w.hoist == a.hoist && w.stripe == a.stripe

/-- A pennant begins to replay a stripe-hoist (R104 to R106); an audit yields to it (R110). -/
def State.giveReplay (s : State) (q : Nat) (h : Hoist) (st : Nat) : State := (s.freePennant q).giveWork q .replay h st

/-- A spare for a replay: an idle one, or else one that works for an audit (R76, R110). -/
def State.spareFor (s : State) : Option Nat :=
  match (List.range 16).find? (fun q => (s.pennant q).state == .spare && (s.pennant q).work.isEmpty) with
  | some q => some q
  | none => (List.range 16).find? fun q => (s.pennant q).state == .spare && !((s.pennant q).work.any (·.task.due))

/-- The first active pennant that has delivered its own stripe-hoist in the current render window and is idle, of those that may be
taken (R105, R110). -/
def State.firstFinisherOf (s : State) (mayBe : Nat → Bool) : Option Nat :=
  match s.render.lastOpened.bind s.hoist? with
  | none => none
  | some h => (h.stripes.map (·.owner)).find? fun q =>
      (s.pennant q).state == .active && !((s.pennant q).work.any (·.task.due)) && mayBe q

/-- The first finisher of them all. -/
def State.firstFinisher (s : State) : Option Nat := s.firstFinisherOf fun _ => true

/-- Orphaned stripe-hoists go to the first active pennants that have delivered their own (R105, R109). -/
def State.placeOrphans : Nat → State → State
  | 0, s => s
  | f + 1, s =>
    match s.render.hoists.find? (fun h => !h.orphans.isEmpty && !h.draining), s.firstFinisher with
    | some h, some q =>
      match h.orphans with
      | [] => s
      | (st, keeps) :: rest =>
        let s1 := s.updHoist h.k fun h => { h with orphans := rest }
        let s2 := if keeps then s1.updPennant q fun p => { p with extra := addNew st p.extra } else s1
        State.placeOrphans f (s2.giveReplay q h st)
    | _, _ => s

/-- Every orphan that can be placed is placed. -/
def State.orphans (s : State) : State := State.placeOrphans (s.render.hoists.map (·.orphans.length)).sum s

/-! ## Re-split and takeover (R76, R109) -/

/-- Pennants in service. -/
def State.inService (s : State) : List Nat :=
  (List.range 16).filter fun p => (s.pennant p).state == .active || (s.pennant p).state == .spare

/-- The bar is split anew over the pennants in service; a stripe above 79 units is a C3 fault (R109). -/
def State.resplit (s : State) : State :=
  let l := s.inService
  let widths := autoSplit s.lines.geometry.units l.length
  if l.isEmpty || widths.any (79 < ·) then
    ({ s with render := { s.render with resplitAt := none } }).fault 0x0508
  else
    let clear := (List.range 16).map fun p => { s.pennant p with stripe := none, extra := [] }
    { s with render := { s.render with
      active := l.length, explicit := none, resplitAt := none
      pennants := (List.range l.length).foldl (fun ps i => ownStripe ps (l.getD i 0) i) clear } }

/-- The stripe of a fenced pennant passes to a spare, or, without one, is orphaned and the bar is re-split: two hoists on,
or at once while disarmed (R76, R109). -/
def State.takeover (s : State) (st : Nat) : State :=
  match s.spareFor with
  | some q => (s.freePennant q).updPennant q fun p => { p with state := .active, stripe := some st }
  | none =>
    if !s.pos.armed then s.resplit
    else
      let at_ := match s.render.lastOpened with
        | some j => j + 2
        | none => s.pos.armHoist + 1
      { s with render := { s.render with resplitAt := some (s.render.resplitAt.getD at_) } }

/-- A stripe-hoist is replayed by the owner of its stripe, or waits as an orphan (R105). -/
def State.replay (s : State) (k : Int) (st : Nat) : State :=
  match s.hoist? k with
  | none => s
  | some h =>
    if h.draining then s
    else match s.ownerOf st with
      | some q => s.giveReplay q h st
      | none => (s.updHoist k fun h => { h with orphans := h.orphans ++ [(st, true)] }).orphans

/-- The copies of slices that a fenced pennant held are gone, and what was to be computed from its reserve copies is decoded again
(R106). -/
def State.loseCopies (s : State) (p : Nat) : State :=
  let still := fun (x : Option Nat) => if x == some p then none else x
  let again := fun (w : PennantWork) => if w.reserve == some p then { w with reserve := none, decodeAgain := true } else w
  let hit := s.render.pennants.flatMap fun x => (x.work.filter fun w => w.reserve == some p).map fun w => (w.hoist, w.stripe)
  let s1 : State := { s with render := { s.render with
    slices := s.render.slices.map fun c => { c with primary := still c.primary, reserve := still c.reserve }
    pennants := s.render.pennants.map fun x => { x with work := x.work.map again } } }
  hit.eraseDups.foldl (fun s x => match s.hoist? x.1 with
    | some h => s.queueFrames h x.2 true
    | none => s) s1

/-- A pennant is fenced (R76, R104): it owns nothing, its stripes pass on, and the stripe-hoists due from it are replayed. -/
def State.fencePennant (s : State) (p code : Nat) : State :=
  let pen := s.pennant p
  if pen.state == .fenced then s
  else
    let s1 := ((s.freePennant p).updPennant p fun x => { x with
      state := .fenced, stripe := none, extra := [], work := [], clean := 0, matched := 0, shadowWords := [], joins := false, fencedCode := code, resetCmd := none }).loseCopies p
    let s2 := (pen.stripe.toList ++ pen.extra).foldl State.takeover s1
    ((pen.work.filter (·.task.due)).foldl (fun s w => s.replay w.hoist w.stripe) s2).endReset pen.resetCmd 1 false

/-- Whether the bar could not be covered without a pennant (R109, R377). -/
def State.needsPennant (s : State) (p : Nat) : Bool :=
  let left := s.inService.filter (· != p)
  has p s.inService && (left.isEmpty || (autoSplit s.lines.geometry.units left.length).any (79 < ·))

/-- A pennant fault (R104): the fault, then the fence. One that works in shadow is fenced with 0x0509's effect only by its
comparison. -/
def State.pennantFailedAs (s : State) (d : Detection) : State :=
  s.unlessShadowed d fun s => (s.detect { d with fatal := s.needsPennant d.unit }).fencePennant d.unit d.code

/-- A pennant fault that carries its code and pennant alone. -/
def State.pennantFailed (s : State) (p code : Nat) : State := s.pennantFailedAs { code := code, unit := p }

/-! ## Writing slices (R78 to R80) -/

/-- Contone input at 600 lpi, whose slices have no reserve copy (R80). -/
def State.noReserve (s : State) : Bool := s.render.format.any (fun f => f.kind == 0) && s.pos.lpi == 600

/-- The pennants that the slices of hoist j go to, stripe by stripe: the owners, or those of the re-split that is to apply from it
(R78, R109). -/
def State.sliceHolders (s : State) (j : Int) : List (Option Nat) :=
  if s.render.resplitAt.any (fun k => decide (k ≤ j)) then s.inService.map some
  else (List.range s.stripeCount).map fun i => (s.ownerOf i).or (s.extraOf i)

/-- What was to be computed for hoist j before its slices had arrived takes them where they now are, or is decoded again where no copy
is written for it (R79, R80, R106). -/
def State.lateSources (s : State) (j : Int) : State :=
  match s.hoist? j with
  | none => s
  | some h =>
    let open_ := fun (w : PennantWork) => w.hoist == j && w.reserve.isNone && !w.decodeAgain
    let take := fun (q : Nat) (w : PennantWork) =>
      if open_ w then { w with reserve := (s.sliceSource q h w.stripe).1, decodeAgain := (s.sliceSource q h w.stripe).2 } else w
    let again := s.render.pennants.zipIdx.flatMap fun x =>
      (x.1.work.filter fun w => open_ w && (s.sliceSource x.2 h w.stripe).2).map (·.stripe)
    let s1 : State := { s with render := { s.render with
      pennants := s.render.pennants.zipIdx.map fun x => { x.1 with work := x.1.work.map (take x.2) } } }
    again.foldl (fun s st => s.queueFrames h st true) s1

/-- Inflow writes every slice of hoist j twice, once all that the pages give it has been checked: the primary copy to the owner of the
stripe, the reserve copy to the owner of the next one (R78, R79). -/
def State.writeSlices (s : State) (j : Int) : State :=
  let pages := match s.hoist? j with
    | some h => h.pages
    | none => s.pagesOf j
  let ready := !s.missingPage j && pages.all fun x => (s.page? x.1).all fun p => s.pageReady p x.2 j
  if !ready || s.render.slices.any (fun c => c.hoist == j && c.pages == pages) then s
  else
    let l := s.sliceHolders j
    let new := (List.range l.length).map fun i =>
      ({ hoist := j, stripe := i, pages := pages, primary := l.getD i none
         reserve := if s.noReserve then none else l.getD ((i + 1) % l.length) none } : SliceCopy)
    let s1 : State := { s with render := { s.render with slices := (s.render.slices.filter fun c => c.hoist != j) ++ new } }
    s1.lateSources j

/-- The slices of the hoists whose windows are open, and of the next one, are written as far as their data is there (R79). -/
def State.inflowSlices (s : State) : State :=
  if !s.pos.armed then s
  else ((s.render.hoists.filter (!·.draining)).foldl (fun s h => s.writeSlices h.k) s).writeSlices s.nextWindow

/-- The buffers of hoists before k are written anew; what a pennant still has to compute keeps its slice (R79). -/
def State.freeSlices (s : State) (k : Int) : State :=
  let inUse := fun (c : SliceCopy) => s.render.pennants.any fun p => p.work.any fun w => w.hoist == c.hoist && w.stripe == c.stripe
  { s with render := { s.render with slices := s.render.slices.filter fun c => decide (k ≤ c.hoist) || inUse c } }

/-! ## Audit (R110) -/

/-- An idle spare. -/
def State.idleSpare (s : State) : Option Nat :=
  (List.range 16).find? fun q => (s.pennant q).state == .spare && (s.pennant q).work.isEmpty

/-- The state with an audit changed. -/
def State.mapAudit (s : State) (a : Audit) (f : Audit → Audit) : State :=
  { s with render := { s.render with audits := s.render.audits.map fun x => if x.hoist == a.hoist && x.stripe == a.stripe then f x else x } }

/-- An audit is at its end. -/
def State.endAudit (s : State) (a : Audit) : State := s.dropAudits fun x => x.hoist == a.hoist && x.stripe == a.stripe

/-- The third pennant of an audit whose words differ, if there is one now: the next idle spare, or the first active pennant to finish
its own work; neither the auditing spare nor the owner (R110). -/
def State.auditThird (s : State) (a : Audit) (owner : Nat) : State :=
  let mayBe := fun (q : Nat) => q != a.spare && q != owner
  let idle := (List.range 16).find? fun q => (s.pennant q).state == .spare && (s.pennant q).work.isEmpty && mayBe q
  match idle.or (s.firstFinisherOf mayBe), s.hoist? a.hoist with
  | some q, some h => (s.mapAudit a fun a => { a with third := some q }).giveWork q .third h a.stripe
  | _, _ => s

/-- The result of an audit (R110): with equal words it ends; where they differ a third pennant decides. Until the owner's stripe-hoist is
committed it waits. -/
def State.judgeAudit (s : State) (a : Audit) : State :=
  match (s.hoist? a.hoist).bind (fun h => h.stripes.find? fun x => x.index == a.stripe), SMap.find? a.spare a.words with
  | some own, some w =>
    if own.word = w then s.endAudit a
    else match a.third with
      | none => s.auditThird a own.owner
      | some q =>
        match SMap.find? q a.words with
        | none => s
        | some v =>
          let s1 := s.endAudit a
          if v = own.word then s1.pennantFailed a.spare 0x0506
          else if v = w then
            -- the owner is in the minority: the majority result takes its place before the hoist is due
            (s1.updHoist a.hoist fun h => { h with stripes := h.stripes.map fun x =>
              if x.index == a.stripe then { x with word := v, levels := a.result } else x }).pennantFailed own.owner 0x0506
          else
            ((s1.updHoist a.hoist fun h => { h with stripes := h.stripes.filter fun x => x.index != a.stripe }).pennantFailed
              own.owner 0x0506).replay a.hoist a.stripe
  | _, _ => s

/-- Every audit that can be judged is judged. -/
def State.judgeAudits (s : State) : State :=
  s.render.audits.foldl (fun s x => match s.render.audits.find? (fun a => a.hoist == x.hoist && a.stripe == x.stripe) with
    | some a => s.judgeAudit a
    | none => s) s

/-- An audit starts with the window of hoist k: stripe k mod N on an idle spare (R110). DESIGN CHOICE (log 86): where no spare is idle as
the window opens, none starts later in that window. -/
def State.startAudit (s : State) (k : Int) : State :=
  if !s.render.audit then s
  else match s.idleSpare, s.hoist? k with
    | some q, some h =>
      let st := (k % (s.stripeCount : Int)).toNat
      let a : Audit := { hoist := k, stripe := st, spare := q }
      ({ s with render := { s.render with audits := s.render.audits ++ [a] } }).giveWork q .audit h st
    | _, _ => s

/-! ## Pennants in shadow (R111) -/

/-- A mismatch in shadow counts as an attempt: after an automatic return it is that return, after a command it is one more. -/
def afterMismatch (now : Nat) (byCommand : Bool) (l : List Nat) : List Nat := if byCommand then now :: l else l

/-- A pennant in shadow whose check word differs from the owner's is fenced again, with fault 0x0509; it counts as an attempt (R111,
R391): after an automatic return it is that return, after a command it is one more. -/
def State.pennantMismatchAs (s : State) (d : Detection) : State :=
  let x := s.pennant d.unit
  s.unlessShadowed d fun s => ((s.updPennant d.unit fun y => { y with
    state := .fenced, fencedCode := 0x0509, clean := 0, work := [], matched := 0, shadowWords := [], joins := false, resetCmd := none
    returns := afterMismatch s.now x.resetCmd.isSome y.returns }).detect d).endReset x.resetCmd 1 false

/-- A mismatch of a pennant in shadow that carries its code and pennant alone. -/
def State.pennantMismatch (s : State) (p : Nat) : State := s.pennantMismatchAs { code := 0x0509, unit := p }

/-- One check word of a pennant in shadow is compared with the owner's, once that is committed; a hoist that is gone leaves nothing to
compare. -/
def State.judgeWord (p : Nat) (s : State) (x : Int × Nat × BitVec 32) : State :=
  let drop := s.updPennant p fun y => { y with shadowWords := y.shadowWords.erase x }
  if !(s.pennant p).shadowWords.contains x then s
  else match s.hoist? x.1 with
    | none => drop
    | some h =>
      match h.stripes.find? (fun y => y.index == x.2.1) with
      | none => s
      | some own =>
        if own.word = x.2.2 then drop.updPennant p fun y => { y with matched := y.matched + 1 }
        else s.pennantMismatch p

/-- The check words of a pennant in shadow, each by itself. -/
def State.judgeShadow (s : State) (p : Nat) : State := (s.pennant p).shadowWords.foldl (State.judgeWord p) s

/-- Every check word of a pennant in shadow that can be compared. -/
def State.judgeShadows (s : State) : State := (List.range 16).foldl State.judgeShadow s

/-- With the window of hoist k every pennant in shadow is given a stripe to recompute beside its owner. DESIGN CHOICE (log 70): which one
device firmware chooses is a free value. -/
def State.startShadowWork (s : State) (k : Int) : State :=
  match s.hoist? k with
  | none => s
  | some h =>
    ((List.range 16).filter fun p => (s.pennant p).state == .shadow && (s.pennant p).work.isEmpty).foldl (fun s p =>
      ({ s with free := s.free + 1 }).giveWork p .shadow h (Config.freeNat s.free % h.tables.widths.length)) s

/-! ## Render windows (R15, R20, R21, R94, R99, R100) -/

/-- Band slots that hoists can take (R22, R114). -/
def State.bandHoists (s : State) : Nat :=
  if s.depth = 4 ∧ 16 < s.lines.geometry.present.length then 7 else 14

/-- The band slot that a hoist takes (R22, R113, R114). DESIGN CHOICE (log 73): the lowest that is free; one that takes two slots takes an
even one and the next. -/
def State.freeSlotBand (s : State) : Nat :=
  let wide := s.bandHoists = 7
  let used := fun (n : Nat) => s.render.hoists.any fun h => h.slot == n
  (((List.range 14).filter fun n => !wide || n % 2 == 0).find? fun n => !used n).getD 0

/-- The window of the next hoist may open now (R20, R21, R27): its tick has come, a slot is free, and, where it should have opened
already, after a rise of L or for want of a slot, the hoist before it is complete. DESIGN CHOICE (log 56): the hoist whose window opens at the
last tick before the web stops is rendered to its end, so that L + 1 hoists can be complete at rest. -/
def State.windowDue (s : State) : Bool :=
  let j := s.nextWindow
  let first := j - s.leadInForce - 1
  s.pos.armed && decide (first ≤ s.pos.tick) && decide (s.render.hoists.length < s.bandHoists) &&
  ((decide (first = s.pos.tick) && !(s.render.catchUpTo.any fun k => decide (j ≤ k))) || (s.hoist? (j - 1)).all fun h => h.complete || h.late || h.draining)

/-- Heads whose nozzles count as out in a window (R133, R208). -/
def State.outHeads (s : State) (k : Int) : List Nat :=
  s.lines.geometry.present.filter fun n =>
    let p := s.port n
    !((p.state == .inService && !(p.retiring.any fun r => r.drain.all fun d => decide (d.1 ≤ k))) || (p.state == .shadow && p.joinHoist.any fun j => decide (j ≤ k)))

/-- The table set that a window opening now takes (R15, R94, R99), with origins and polarities as they stand. -/
def State.tableSet (s : State) (k : Int) : TableSet :=
  let r := s.render
  { version := r.version + 1, geometry := s.lines.geometry, widths := s.stripeWidths, format := r.format, levelMap := r.levelMap
    curves := r.curvesNext.getD r.curves, curveVersion := r.curveVersion + b2n r.curvesNext.isSome
    columns := r.columns, kappa := s.loop.kappa, offsets := s.loop.offsets, curveBase := (List.range 32).map s.curveBase, k := r.k
    threshold := r.thresholdNext.or r.threshold, thresholdVersion := r.thresholdVersion + b2n r.thresholdNext.isSome
    masks := r.masksNext.getD r.masks, maskVersion := r.maskVersion + b2n r.masksNext.isSome
    origins := r.origins, zones := r.zonesNext.getD r.zones, zoneVersion := r.zoneVersion + b2n r.zonesNext.isSome
    nozzles := s.lines.nozzles, outHeads := s.outHeads k
    disabledHeads := if s.power.mode = .hb8 then (List.range 8).filter fun n => !s.hb.headEn.getLsbD n else []
    window := r.window }

/-- Effective origins after the wear step of hoist k (R137). -/
def wornOrigins (ts : TableSet) (drops : List (Nat × Nat)) (k : Int) : List MaskOrigin :=
  (List.range 32).map fun n =>
    let m : HeadMask := Tbl.get {} ts.masks n
    let o : MaskOrigin := Tbl.get {} ts.origins n
    if m.period ≠ 0 ∧ k % (m.period : Int) = 0 then wearStep ts drops n m o else o

/-- Loaded banks come into force with a window (R100, R115). -/
def Render.takeBanks (r : Render) (ts : TableSet) : Render :=
  { r with
    version := ts.version, latest := some ts
    curves := ts.curves, curveVersion := ts.curveVersion, curvesNext := none
    threshold := ts.threshold, thresholdVersion := ts.thresholdVersion, thresholdNext := none
    masks := ts.masks, maskVersion := ts.maskVersion, masksNext := none, origins := ts.origins
    zones := ts.zones, zoneVersion := ts.zoneVersion, zonesNext := none }

/-- Pages rendered while an automatic return of a fenced port is pending are spoiled in that head's columns (R389). -/
def State.spoilPending (s : State) (k : Int) : State :=
  ((List.range 32).filter fun n => (s.lines.geometry.head n).present && s.returnPending n).foldl (fun s n =>
    let c := s.headColumns (2 * n)
    s.store.pages.foldl (fun s p => s.spoilAt p p.printed
      { row := 64, lo := 64 * k, hi := 64 * k + 63, colLo := c.1, colHi := c.2, block := 8, cause := .event (s.port n).fencedAt } .each [n]) s) s

/-- The window of hoist k opens: its table set, its pages, and a stripe for every pennant (R15, R21, R35, R99, R101). -/
def State.openHoist (s0 : State) (k : Int) : State :=
  let s := (s0.writeSlices k).freeSlices k
  let ts0 := s.tableSet k
  let ts := { ts0 with origins := wornOrigins ts0 s.lines.drops k }
  let pages := s.pagesOf k
  let orphans := ((List.range s.stripeCount).filter fun i => (s.ownerOf i).isNone && (s.extraOf i).isNone).map fun i => (i, true)
  let late := s.missingPage k
  let h : Hoist := { k := k, openedAt := s.now, slot := s.freeSlotBand, tables := ts, orphans := if late then [] else orphans, late := late
                     pages := pages ++ (s.render.remains.filterMap fun r => if r.rest then some (r.seq, r.first) else none) }
  -- a stripe whose slice went to another pennant before a takeover is rendered from the reserve copy (R107)
  let give := fun (x : Pennant × Nat) =>
    if x.1.state == .active && !late then
      { x.1 with work := x.1.work ++ (x.1.stripe.toList ++ x.1.extra).map fun i =>
          let src := s.sliceSource x.2 h i
          { task := .render, hoist := k, stripe := i, since := s.now, decodeAgain := src.2, reserve := src.1 } }
    else x.1
  let pennants := s.render.pennants.zipIdx.map give
  let again := pennants.flatMap fun p => (p.work.filter fun w => w.hoist == k && w.decodeAgain).map (·.stripe)
  let r := s.render.takeBanks ts
  let windows := if r.windows.head?.any (fun x => x.2 == ts.window) then r.windows else (k, ts.window) :: r.windows
  let outs := if r.outSets.head?.any (fun x => x.2 == (ts.outHeads, ts.nozzles)) then r.outSets
    else (k, ts.outHeads, ts.nozzles) :: r.outSets
  let cuts := if r.widthSets.head?.any (fun x => x.2 == ts.widths) then r.widthSets else (k, ts.widths) :: r.widthSets
  let held := fun (x : Remains) => (h :: r.hoists).any fun (y : Hoist) => y.pages.contains (x.seq, x.first)
  let left := r.remains.filter fun (x : Remains) => held x || (x.rest && decide (64 * k + 64 < x.first + x.rows * 2))
  let shown := fun (p : Page) =>
    if p.first.any (fun f => pages.contains (p.seq, f)) then
      { p with state := if p.state == .stored then .printing else p.state, lastRendered := some k }
    else p
  ({ s with
    render := { r with hoists := r.hoists ++ [h], lastOpened := some k, windows := windows, outSets := outs, widthSets := cuts, pennants := pennants, remains := left }
    loop := { s.loop with overridden := [] }
    codec := { s.codec with waiting := s.codec.waiting ++ again.flatMap (s.replayFrames h) }
    store := { s.store with pages := s.store.pages.map shown } }).spoilPending k

/-- RENDER_WINDOW_OPEN: the window of the next hoist opens, after the re-split that may be due, and an audit starts
(R21, R99, R109, R110, R137). -/
def execRenderWindowOpen (t : Nat) (s0 : State) : Host.Outcome State Fault Refusal :=
  let s := s0.tick t
  if !s.windowDue || s.power.phase != .running then .next s
  else
    let k := s.nextWindow
    let s1 := if s.render.resplitAt.any (fun j => decide (j ≤ k)) then s.resplit else s
    if !s1.pos.armed then .next s1
    else
      let s2 := s1.openHoist k
      let s3 := if s2.render.hoists.any fun h => h.k == k && h.late then s2 else ((s2.orphans).startAudit k).startShadowWork k
      .next (s3.writeSlices (k + 1))

/-! ## Deliveries (R101 to R105, R132) -/

/-- A stripe-hoist is marked committed in its slot (R132). -/
def State.commitStripe (s : State) (k : Int) (x : Stripe) : State :=
  s.updHoist k fun h => { h with stripes := (h.stripes.filter fun y => y.index != x.index) ++ [x] }

/-- A pennant's work in turn is done; the bound of what it does next counts from here (R109). -/
def Pennant.popWork (p : Pennant) (now : Nat) : Pennant :=
  { p with work := match p.work.tail with
    | [] => []
    | w :: rest => { w with since := max w.since now } :: rest }

/-- PENNANT_FAULT: an uncorrectable error in local memory (0x0502), or a residue or parity hit (0x0504): the pennant is
fenced, and what is due from it is replayed (R104). -/
def execPennantFault (p : Fin 16) (kind : PennantFault) (t : Nat) (s0 : State) : Host.Outcome State Fault Refusal :=
  let s := s0.tick t
  let code := match kind with
    | .memory => 0x0502
    | .residue => 0x0504
  if s.power.phase = .powerOnReset ∨ s.power.phase = .warmReset then .next s
  else .next (s.pennantFailed p.val code)

/-- The bound of R101 for a stripe, in units of 0.625 ns (one pennant cycle). -/
def renderBound (widths : List Nat) (st : Nat) : Nat := 4096 + 16 * (64 * widths.getD st 0)

/-- PENNANT_DELIVERY_TIMEOUT: twice the bound of R101 has passed since the later of the window's opening and the slice's
arrival, where it is decoded again the end of that decode, and the pennant counts as faulted with 0x0505 (R102). -/
def execPennantDeliveryTimeout (p : Fin 16) (t : Nat) (s0 : State) : Host.Outcome State Fault Refusal :=
  let s := s0.tick t
  match (s.pennant p.val).work.find? (fun w => w.task == .render) with
  | none => .next s
  | some w =>
    match s.hoist? w.hoist with
    | none => .next s
    | some h =>
      if s.sliceReady h && !(w.decodeAgain && s.decodePending w.hoist w.stripe) && decide ((w.since * 8 + 2 * renderBound h.tables.widths w.stripe * 5) < s.now * 8) then
        .next (s.pennantFailed p.val 0x0505)
      else .next s

/-! ## Line store errors (R116 to R118) -/

/-- Nozzles in a 64-bit word of a row-line. -/
def wordNozzles (depth : Nat) : Nat := if depth = 4 then 16 else 32

/-- An uncorrectable word of a draining slot or of the delay region (R118): fault 0x0603, level 0 for its nozzles on that
row-line, and the pages that hold the line are spoiled in its columns. -/
def State.badWord (s : State) (row : Nat) (line : Int) (word : Nat) : State :=
  let n := wordNozzles s.depth
  let c := (s.lines.geometry.head (row / 2)).col0 + word * n
  let s1 := (({ s with lines := { s.lines with blanked := s.lines.blanked ++ [(row, line, word)] } }).fault 0x0603 2).hbErr 16
  (s1.blankEntries row (s.firePeriod row line) (word * n) (word * n + n - 1)).spoilLine row line c (c + n - 1) 6 .each

/-- A row-line read from the delay region carries a shot of its checker: a single error is corrected, a double one lies in its first word
(R382). -/
def State.delayShot (s : State) (row : Nat) (line : Int) : State :=
  match s.shot? 0x0A 2 with
  | some i => if i.double then s.badWord row line 0 else s.fault 0x0601 2
  | none => s

/-- A stripe-hoist of a hoist not yet draining is replayed with no pennant at fault: by a free spare that does not take the
stripe, or by the first active pennant to deliver its own (R118). -/
def State.replayBand (s : State) (k : Int) (st : Nat) : State :=
  match s.hoist? k with
  | none => s
  | some h =>
    let s1 := s.updHoist k fun h => { h with stripes := h.stripes.filter fun x => x.index != st }
    match s1.spareFor with
    | some q => s1.giveReplay q h st
    | none => (s1.updHoist k fun h => { h with orphans := h.orphans ++ [(st, false)] }).orphans

/-! ## Blank stripes (R24, R118) -/

/-- Stripes of hoist k that fire level 0: the pages that hold their lines are spoiled in their columns, as late pages or with the fault
of an unready stripe-hoist (R24). -/
def State.spoilBlank (s2 : State) (h : Hoist) (blank : List Nat) (late : Bool) : State :=
  let k := h.k
  let starts := blank.map fun i => stripeStart h.tables.widths i
  let ends := blank.map fun i => min (stripeStart h.tables.widths (i + 1)) s2.lines.geometry.width - 1
  let c := starts.foldl min (starts.headD 0)
  let hi := ends.foldl max 0
  let l : Loss := { row := 64, lo := 64 * k, hi := 64 * k + 63, colLo := c, colHi := hi, block := if late then 3 else 5, cause := .event s2.now }
  let shown := fun (p : Page) => if late && p.onItsWay then p.placements else p.printed
  let spoilStripes := fun (s : State) => s.store.pages.foldl (fun s p => s.spoilAt p (shown p) l .each) s
  if blank.isEmpty then s2
  else if late then
    -- page data that arrived too late: the pages complete with LATE_PAGE
    let s3 := spoilStripes s2
    let hit := s3.store.pages.filter fun p => !p.late && !p.cancelled && p.placements.any fun x =>
      s3.overlapsAt p k x.2 && (h.late || !s3.pageReady p x.2 k || p.state == .transferring)
    hit.foldl (fun s p => (s.mapPage p.seq fun p => { p with late := true }).info 0x8302 0 (w32 p.seq)) s3
  else
    let s3 := (blank.foldl (fun s i => s.detect { code := 0x0507, unit := (s.ownerOf i).getD 0, p0 := some (w32 i), p1 := some (w32i k) }) s2).hbErr 16
    spoilStripes s3

/-- The nozzles of row r, by head column, that print the columns of a stripe (R73, R121). -/
def State.stripeNozzles (s : State) (widths : List Nat) (i r : Nat) : Option (Nat × Nat) :=
  let a := stripeStart widths i
  let b := a + 64 * widths.getD i 0
  let c := s.headColumns r
  if c.2 < a ∨ b ≤ c.1 then none else some (max a c.1 - c.1, min (b - 1) c.2 - c.1)

/-- A row-line with nozzles lo to hi at level 0. -/
def blankNozzles (depth lo hi : Nat) (bytes : List Byte) : List Byte :=
  packLevels depth ((unpackLevels depth bytes).zipIdx.map fun x => if lo ≤ x.2 ∧ x.2 ≤ hi then 0 else x.1)

/-- The nozzles of a stripe in one row, blank for hoist k: their entries of the health collector, and what of the hoist's lines already
stands in the row's delay line (R24, R213). -/
def State.blankRow (widths : List Nat) (k : Int) (i : Nat) (s : State) (r : Nat) : State :=
  match s.stripeNozzles widths i r with
  | none => s
  | some (lo, hi) =>
    let first := s.firePeriod r (64 * k)
    let last := s.firePeriod r (64 * k + 63)
    let s1 := s.blankEntries r first lo hi
    let s2 := if last = first then s1 else s1.blankEntries r last lo hi
    let blank := fun (x : Nat × RowLine) =>
      if hoistOf x.2.line = k then (x.1, { x.2 with bytes := x.2.bytes.map (blankNozzles s.depth lo hi) }) else x
    { s2 with lines := { s2.lines with delay := Tbl.upd [] s2.lines.delay r (List.map blank) } }

/-- A stripe that hoist k goes without fires level 0 on the hoist's 64 lines in every row (R24, R213). -/
def State.blankStripe (widths : List Nat) (k : Int) (s : State) (i : Nat) : State :=
  s.lines.geometry.rows.foldl (State.blankRow widths k i) s

/-- A hoist that has drained, as far as R24 needs it: its number and its stripe widths. -/
def State.drained (s : State) (k : Int) : Option Hoist :=
  if !s.pos.armed then none
  else ((s.render.widthSets.find? fun x => decide (x.1 ≤ k)).filter fun _ => decide (k ≤ hoistOf s.pos.line)).map fun x =>
    { k := k, openedAt := 0, tables := { s.tableSet k with widths := x.2 }, draining := true }

/-- A stripe-hoist whose row selection read a word of the table region that failed: before its hoist is due it is row-selected again, from
the tables that device firmware has rewritten, and its slot holds what it should; otherwise, while it drains and while lines of it wait in
the delay region, it is handled as one that is not ready (R24, R118). -/
def State.selectAgain (s : State) (x : Int × Nat) : State :=
  match (s.hoist? x.1).or (s.drained x.1) with
  | none => s
  | some h =>
    if !h.draining || has x.2 h.blanked || decide (h.tables.widths.length ≤ x.2) then s
    else
      let s1 := s.updHoist x.1 fun h => { h with blanked := h.blanked ++ [x.2], stripes := h.stripes.filter fun y => y.index != x.2 }
      State.blankStripe h.tables.widths x.1 (s1.spoilBlank h [x.2] false) x.2

/-- A line-store ECC error (R116, R118). -/
def State.lineStoreError (s : State) (e : LineStoreError) : State :=
  match e.place, e.double with
  | .table _, false => s.fault 0x0601 0
  | .table l, true => l.foldl State.selectAgain (s.fault 0x0602 0)
  | .band k st, double =>
    match s.hoist? k with
    | none => s
    | some h =>
      if !double then s.fault 0x0601 1
      else if h.draining then s
      else if h.stripes.any fun x => x.index == st then (s.fault 0x0602 1).replayBand k st
      else s.fault 0x0602 1
  | .drainingOrDelay _ _ _, false => s.fault 0x0601 2
  | .drainingOrDelay row line word, true => s.badWord row.val line word

/-- A transfer of the line store carries a shot of its region's checker (R382): 0 the table region, 1 a band slot. -/
def State.storeShot (s : State) (unit : Nat) (place : LineStorePlace) : State :=
  match s.shot? 0x0A unit with
  | some i => s.lineStoreError { place := place, double := i.double }
  | none => s

/-- The shots that a stripe-hoist of a pennant can carry as it is delivered (R382): its local memory, its registers, and, for one that is
due, the check word. -/
def State.pennantShot (s : State) (p : Nat) (due : Bool) : Option Nat :=
  ((s.shotCode 0x07 p).or (s.shotCode 0x09 p)).or (if due then s.shotCode 0x08 p else none)

/-- A stripe-hoist is delivered; one whose check word matches is committed, and is read back from its slot (R82, R103, R110). -/
def State.deliver (s : State) (p : Nat) (w : PennantWork) (h : Hoist) (wrong flips : List Nat) : State :=
  let levels := flipBits ((s.scene h).stripeBytes w.hoist w.stripe) wrong
  let word := crc32c levels
  let arrived := flipBits levels flips
  if w.task == .shadow then
    (s.updPennant p fun x => { x.popWork s.now with shadowWords := x.shadowWords ++ [(w.hoist, w.stripe, word)] }).judgeShadow p
  else if !w.task.due then
    let s1 := s.updPennant p fun x => x.popWork s.now
    (s1.mapAudit { hoist := w.hoist, stripe := w.stripe, spare := p } fun a =>
      { a with words := SMap.insert p word (SMap.erase p a.words), result := levels }).judgeAudits
  else if crc32c arrived ≠ word then s.pennantFailed p 0x0503
  else
    let s0 := if s.shotAt 0x0B 0 then s.fault 0x0604 p else s
    let s1 := (s0.updPennant p fun x => x.popWork s.now).commitStripe w.hoist { index := w.stripe, owner := p, word := word, levels := arrived }
    let s2 := (s1.storeShot 0 (.table [(w.hoist, w.stripe)])).storeShot 1 (.band w.hoist w.stripe)
    (s2.orphans.judgeAudits).sendReady

/-- STRIPE_DELIVERY: pennant `p` delivers the stripe-hoist it has in turn. `wrong` are bits that its vector unit computed
wrong, and `flips` bits inverted on the way to the row selector (R103): a check word that differs is fault 0x0503 and a
replay; a match is committed. A recomputation for an audit gives its check word only (R110). A pending shot fails it (R382). -/
def execStripeDelivery (p : Fin 16) (wrong flips : List Nat) (t : Nat) (s0 : State) : Host.Outcome State Fault Refusal :=
  let s := s0.tick t
  match (s.pennant p.val).work with
  | [] => .next s
  | w :: _ =>
    match s.hoist? w.hoist with
    | none => .next (s.updPennant p.val fun x => x.popWork s.now)
    | some h =>
      if !s.sliceReady h || (w.decodeAgain && s.decodePending w.hoist w.stripe) then .next s
      else match s.pennantShot p.val w.task.due with
        | some 0x0501 => .next ((s.fault 0x0501 p.val).deliver p.val w h wrong flips)
        | some c => .next (s.pennantFailed p.val c)
        | none => .next (s.deliver p.val w h wrong flips)

/-- LINE_STORE_SCRUB: the scrubber, or an access, meets an error (R117, R118); without one it changes nothing, but for a shot of the table
region that its reads carry (R382). -/
def execLineStoreScrub (err : Option LineStoreError) (t : Nat) (s0 : State) : Host.Outcome State Fault Refusal :=
  let s := s0.tick t
  if s.power.phase = .powerOnReset ∨ s.power.phase = .warmReset then .next s
  else match err with
    | none => .next (s.storeShot 0 (.table []))
    | some e => .next (s.lineStoreError e)

/-! ## Return to service (R316, R380, R384, R391) -/

/-- Decompression units and lanes. -/
def State.unit (s : State) (u : Nat) : Decompressor := Tbl.get {} s.codec.units u
def State.updUnit (s : State) (u : Nat) (f : Decompressor → Decompressor) : State :=
  { s with codec := { s.codec with units := Tbl.upd {} s.codec.units u f } }
def State.lane (s : State) (l : Nat) : Lane := Tbl.get {} s.codec.lanes l
def State.updLane (s : State) (l : Nat) (f : Lane → Lane) : State :=
  { s with codec := { s.codec with lanes := Tbl.upd {} s.codec.lanes l f } }

/-! ## Fences of the compression engine (R57, R372, R377, R391) -/

/-- The priority of a user, 0 first. -/
def DecodeUser.rank : DecodeUser → Nat
  | .replay .. => 0
  | .inflow _ => 1
  | .verify _ => 2
  | .job _ => 3

/-- Whether no decompression unit would be left in service without a unit. -/
def State.lastUnit (s : State) (u : Nat) : Bool :=
  (s.unit u).state == .inService && (List.range 4).all fun n => n == u || (s.unit n).state != .inService

/-- Whether no compression lane would be left in service without a lane. -/
def State.lastLane (s : State) (l : Nat) : Bool :=
  (s.lane l).state == .inService && (List.range 32).all fun n => n == l || (s.lane n).state != .inService

/-- A decompression unit is fenced, and its frame is decoded again by another unit: a replay's frame goes back to the front of those
waiting, any other is chosen again from its page or job (R57). -/
def State.fenceUnit (s : State) (u code : Nat) : State :=
  let x := s.unit u
  if x.state == .fenced then s
  else
    let back := match x.work with
      | some w => if w.user.rank = 0 then [w] else []
      | none => []
    let s0 := match x.work.map (·.user) with
      | some (.inflow seq) => s.mapPage seq fun p => { p with unitFailed := true }
      | _ => s
    let s1 := s0.updUnit u fun y => { y with state := .fenced, work := none, clean := 0, joins := false, fencedCode := code, resetCmd := none }
    ({ s1 with codec := { s1.codec with waiting := back ++ s1.codec.waiting } }).endReset x.resetCmd 4 false

/-- A compression lane is fenced, and its frame is compressed again. -/
def State.fenceLane (s : State) (l code : Nat) : State :=
  let x := s.lane l
  if x.state == .fenced then s
  else
    let s1 := s.updLane l fun y => { y with state := .fenced, work := none, clean := 0, joins := false, fencedCode := code }
    ({ s1 with codec := { s1.codec with lanesWaiting := x.work.toList ++ s1.codec.lanesWaiting } }).assignLanes

/-- A fault of a decompression unit: it is fenced (R57, R372, R377). -/
def State.unitFailedAs (s : State) (d : Detection) : State :=
  s.unlessShadowed d fun s => (s.detect { d with fatal := s.lastUnit d.unit }).fenceUnit d.unit d.code

/-- A fault of a compression lane: it is fenced (R372, R377). -/
def State.laneFailedAs (s : State) (d : Detection) : State :=
  s.unlessShadowed d fun s => (s.detect { d with fatal := s.lastLane d.unit && s.power.mode == .hb8 }).fenceLane d.unit d.code

/-- Automatic returns made within a span of time. -/
def recentReturns (now span : Nat) (l : List Nat) : Nat := (l.filter fun m => decide (now < m + span)).length

/-- 24 hours and 1 hour in ns. -/
def day : Nat := 86400000000000
def hour : Nat := 3600000000000

/-- A block reset is issued: its reaction window opens, and shots for the unit are dropped (R380, R384). -/
def State.issueReset (s : State) (b : ResetBlock) (parent : Nat) (checkers : List Nat) (unit : Nat) : State :=
  (s.openWindow b parent).dropInjections fun i => has i.checker checkers && i.unit == unit

/-- A pennant's reset is issued. -/
def State.resetPennant (s : State) (p parent : Nat) : State :=
  (s.updPennant p fun x => { x with resetDue := true, clean := 0, work := [], matched := 0, shadowWords := [], joins := false }).issueReset (.pennant p) parent [0x07, 0x08, 0x09] p

/-- A decompression unit's reset is issued. -/
def State.resetDecompressor (s : State) (u parent : Nat) : State :=
  (s.updUnit u fun x => { x with resetDue := true, clean := 0, joins := false, work := none }).issueReset (.decompressor u) parent [0x05] u

/-- A compression lane's reset is issued. -/
def State.resetLane (s : State) (l parent : Nat) : State :=
  (s.updLane l fun x => { x with resetDue := true, clean := 0, joins := false, work := none }).issueReset (.lane l) parent [0x06] l

/-- A block reset is complete: the unit starts its shadow (R391). A RESET_UNIT of an axis ends here: an axis has no shadow, and returns with
AXIS_CONFIG. -/
def State.blockReset (s : State) (b : ResetBlock) : State :=
  match b with
  | .pennant p =>
    if !(s.pennant p).resetDue then s
    else s.updPennant p fun x => { x with resetDue := false, state := .shadow, clean := 0, work := [], matched := 0, shadowWords := [], joins := false }
  | .decompressor u =>
    if !(s.unit u).resetDue then s else s.updUnit u fun x => { x with resetDue := false, state := .shadow, clean := 0, joins := false }
  | .lane l =>
    if !(s.lane l).resetDue then s else s.updLane l fun x => { x with resetDue := false, state := .shadow, clean := 0, joins := false }
  | .axis n =>
    let c := (s.axis n).resetCmd
    if c.isNone then s else (s.updAxis n fun a => { a with resetCmd := none }).endReset c 5 true
  | .headPort _ | .halyard _ => s

/-- BLOCK_RESET_DONE: a block reports that its reset is complete: its reaction window closes, and the unit starts its shadow (R380, R391). -/
def execBlockResetDone (r : ResetReport) (s0 : State) : Host.Outcome State Fault Refusal :=
  let s := s0.tick r.t
  .next (({ s with flt := { s.flt with windows := s.flt.windows.filter fun w => w.block != r.block } }).blockReset r.block)

/-- UNIT_AUTO_RETURN: a fenced unit is reset and starts its return, within its limit (R391); with the limit used up it stays
fenced and event 0x8204 tells it. -/
def execUnitAutoReturn (u : ReturnUnit) (t : Nat) (s0 : State) : Host.Outcome State Fault Refusal :=
  let s := s0.tick t
  if s.power.phase ≠ .running then .next s
  else match u with
    | .pennant p =>
      let x := s.pennant p.val
      if x.state != .fenced || x.resetDue || x.fencedCode == 0 then .next s
      else if 2 ≤ recentReturns s.now day x.returns then
        .next ((s.updPennant p.val fun x => { x with fencedCode := 0 }).info 0x8204 p.val (w32 x.fencedCode))
      else .next ((s.updPennant p.val fun x => { x with returns := s.now :: x.returns }).resetPennant p.val x.fencedCode)
    | .decompressor d =>
      let x := s.unit d.val
      if x.state != .fenced || x.resetDue || x.fencedCode == 0 then .next s
      else if 2 ≤ recentReturns s.now day x.returns then
        .next ((s.updUnit d.val fun x => { x with fencedCode := 0 }).info 0x8204 d.val (w32 x.fencedCode))
      else .next ((s.updUnit d.val fun x => { x with returns := s.now :: x.returns }).resetDecompressor d.val x.fencedCode)
    | .lane l =>
      let x := s.lane l.val
      if x.state != .fenced || x.resetDue || x.fencedCode == 0 then .next s
      else if 2 ≤ recentReturns s.now day x.returns then
        .next ((s.updLane l.val fun x => { x with fencedCode := 0 }).info 0x8204 l.val (w32 x.fencedCode))
      else .next ((s.updLane l.val fun x => { x with returns := s.now :: x.returns }).resetLane l.val x.fencedCode)
    | .headPort n =>
      let p := s.port n.val
      if p.state != .fenced || p.fencedCode != 0x0801 || !p.presLow || decide (s.now < p.fencedAt + 10000000) then .next s
      else if 3 ≤ recentReturns s.now hour p.returns then
        .next ((s.updPort n.val fun p => { p with fencedCode := 0 }).info 0x8204 n.val (w32 0x0801))
      else
        .next (((s.updPort n.val fun p => { p with returns := s.now :: p.returns, attempts := 1, limitRate := false }).issueReset
          (.headPort n.val) 0x0801 [0x0D] n.val).startBringup n.val p.legacy true)

/-- A decompression unit in shadow whose results differ is fenced again, which counts as an attempt (R391). -/
def State.unitMismatchAs (s : State) (d : Detection) : State :=
  let x := s.unit d.unit
  s.unlessShadowed d fun s => ((s.updUnit d.unit fun y => { y with
    state := .fenced, fencedCode := 0x0403, clean := 0, joins := false, resetCmd := none
    returns := afterMismatch s.now x.resetCmd.isSome y.returns }).detect d).endReset x.resetCmd 4 false

/-- A compression lane in shadow whose output differs is fenced again (R391); it returns by itself alone, so its return is the attempt. -/
def State.laneMismatchAs (s : State) (d : Detection) : State :=
  s.unlessShadowed d fun s =>
    (s.updLane d.unit fun y => { y with state := .fenced, fencedCode := 0x0404, clean := 0, joins := false }).detect d

/-- UNIT_SHADOW_END: a mismatch (`agreed` false) fences the unit again with its shadow fault; otherwise, after two hoists in
shadow, it joins at the next hoist boundary, a pennant as a spare (R111, R391). While printing is armed the check words of two hoists of a pennant must
have been compared; DESIGN CHOICE (log 71): while disarmed there are none to compare, and two hoists must have passed. -/
def execUnitShadowEnd (u : ReturnUnit) (agreed : Bool) (t : Nat) (s0 : State) : Host.Outcome State Fault Refusal :=
  let s := s0.tick t
  match u with
  | .pennant p =>
    let x := s.pennant p.val
    if x.state != .shadow then .next s
    else if !agreed then .next (s.pennantMismatch p.val)
    else if x.clean < 3 || (s.pos.armed && decide (x.matched < 2)) then .next s
    else .next (s.updPennant p.val fun y => { y with joins := true })
  | .decompressor d =>
    let x := s.unit d.val
    if x.state != .shadow then .next s
    else if !agreed then
      .next (s.unitMismatchAs { code := 0x0403, unit := d.val })
    else if x.clean < 3 then .next s
    else .next (s.updUnit d.val fun y => { y with joins := true })
  | .lane l =>
    let x := s.lane l.val
    if x.state != .shadow then .next s
    else if !agreed then .next (s.laneMismatchAs { code := 0x0404, unit := l.val })
    else if x.clean < 3 then .next s
    else .next (s.updLane l.val fun y => { y with joins := true })
  | .headPort _ => .next s

/-- A pennant whose shadow has ended joins as a spare (R111, R391). -/
def State.joinPennant (s : State) (p : Nat) : State :=
  let x := s.pennant p
  if !x.joins then s
  else (s.updPennant p fun y => { y with
    state := .spare, fencedCode := 0, resetCmd := none, work := [], matched := 0, shadowWords := [], joins := false }).endReset x.resetCmd 1 true

/-- A decompression unit whose shadow has ended is back in service (R391). -/
def State.joinUnit (s : State) (u : Nat) : State :=
  let x := s.unit u
  if !x.joins then s
  else (s.updUnit u fun y => { y with state := .inService, fencedCode := 0, resetCmd := none, joins := false }).endReset x.resetCmd 4 true

/-- A compression lane whose shadow has ended is back in service (R391), and takes a frame that waits (R71). -/
def State.joinLane (s : State) (l : Nat) : State :=
  if !(s.lane l).joins then s
  else (s.updLane l fun y => { y with state := .inService, fencedCode := 0, joins := false }).assignLanes

/-- A hoist tick for the units in shadow: those whose shadow has ended join at this hoist boundary, the others count it (R391). -/
def State.shadowTick (s0 : State) : State :=
  let s := (List.range 32).foldl State.joinLane ((List.range 4).foldl State.joinUnit ((List.range 16).foldl State.joinPennant s0))
  { s with
    render := { s.render with pennants := s.render.pennants.map fun p =>
      if p.state == .shadow then { p with clean := p.clean + 1 } else p }
    codec := { s.codec with
      units := s.codec.units.map fun u => if u.state == .shadow then { u with clean := u.clean + 1 } else u
      lanes := s.codec.lanes.map fun l => if l.state == .shadow then { l with clean := l.clean + 1 } else l } }

/-! ## The due tick (R19, R24, R104, R386) -/

/-- A hoist falls due: what still works for it stops (R386); stripes that are not committed are blank, with the pages that
hold their lines spoiled, as late pages or with fault 0x0507 (R24). -/
def State.dueHoist (s : State) (k : Int) : State :=
  match s.hoist? k with
  | none => s
  | some h =>
    let blank := (List.range h.tables.widths.length).filter fun i => !(h.stripes.any fun x => x.index == i)
    let failed := s.sliceFailed h
    let late := (h.late || !s.sliceReady h) && !failed
    let s0 := s.dropAudits fun a => a.hoist == k
    let idle := fun (p : Pennant) => { p with work := p.work.filter fun w => w.hoist != k }
    let other := fun (w : DecodeWork) => match w.user with
      | .replay _ j _ => j != k
      | _ => true
    let s1 : State := { s0 with
      render := { s0.render with pennants := s0.render.pennants.map idle }
      codec := { s0.codec with waiting := s0.codec.waiting.filter other } }
    let s2 := s1.updHoist k fun h => { h with draining := true, orphans := [], blanked := blank }
    s2.spoilBlank h blank late

end Sys2Proof.Machine
end

