-- ==== Sys2Proof/Machine/Geometry.lean ====
section
/-!
DEFINITION. Machine/Geometry.lean: the bar geometry (R120 to R122, R141), row delays and their changes while printing
(R123 to R131), and the commands SET_BAR_GEOMETRY, SET_ROW_DELAY, SET_REGISTRATION and SET_LINE_PITCH.
-/

namespace Sys2Proof.Machine

/-! ## Delays -/

/-- Row distance and row delay with given trims and offset; a synchronised arming adds its residual (R123, R124, R270). -/
def State.distWith (s : State) (trims : List Int) (registration : Int) (r : Nat) : Int :=
  rowDistance s.lines.geometry trims registration s.spacing r
def State.delayWith (s : State) (trims : List Int) (registration : Int) (r : Nat) : Int :=
  rowDelay s.pos.lpi (s.distWith trims registration r) + (if s.pos.armed then s.ring.residual else 0)

/-- The rank of a change: its apply line; one whose page has no place yet comes last. -/
def DelayChange.rank (c : DelayChange) : Int := c.line.getD (2 ^ 63)

/-- A change tied to a page follows the page's first line until H has reached it (R130). DESIGN CHOICE (log 68): when the page is gone
it applies at the next hoist. -/
def State.followPage (s : State) (c : DelayChange) : DelayChange :=
  match c.page with
  | none => c
  | some q =>
    match s.page? q with
    | none => { c with line := some (64 * (s.pos.tick + 1)), page := none }
    | some p =>
      match p.first with
      | none => { c with line := none }
      | some f => if f * 65536 ≤ s.highWater then { c with line := some f, page := none } else { c with line := some f }

/-- The delays that hold after a change, from the settings before it. -/
def State.changeQ (s : State) (before : List Int × Int × List Int) (c : DelayChange) : List Int × Int × List Int :=
  let trims := c.trims.getD before.1
  let reg := c.registration.getD before.2.1
  let set := c.trims.isSome || c.registration.isSome
  let q := (List.range 64).map fun r =>
    match SMap.find? r c.rows with
    | some v => v
    | none => if set && (s.lines.geometry.head (r / 2)).present then s.delayWith trims reg r else Tbl.get 0 before.2.2 r
  (trims, reg, q)

/-- Changes in order of their lines, with the delays that each brings. -/
def State.chainChanges (s : State) : List Int × Int × List Int → List DelayChange → List DelayChange
  | _, [] => []
  | before, c :: t =>
    let now := s.changeQ before c
    { c with q := now.2.2 } :: s.chainChanges now t

/-- The changes in progress, with their lines and delays as they stand now; HB-8 mode gives its delays outright (R498). -/
def State.resolveDelays (s : State) : State :=
  if s.power.mode = .hb8 || s.lines.changes.isEmpty then s
  else
    let l := sortBy DelayChange.rank (s.lines.changes.map s.followPage)
    { s with lines := { s.lines with changes := s.chainChanges (s.lines.trims, s.lines.registration, s.lines.q) l } }

/-- Every row of a present head has changed over: H has reached the fire position of its first line with the new delay (R130). -/
def State.changedOver (s : State) (c : DelayChange) : Bool :=
  c.line.any fun l => s.lines.geometry.rows.all fun r => decide (l * 65536 + Tbl.get 0 c.q r * 256 ≤ s.highWater)

/-- No line step can still meet the delays before a change. -/
def State.changeOver (s : State) (c : DelayChange) : Bool :=
  c.line.any fun l => s.lines.geometry.rows.all fun r =>
    decide ((l + 2) * 65536 + max (Tbl.get 0 c.q r) (Tbl.get 0 s.lines.q r) * 256 ≤ s.highWater)

/-- Changes that are over come into the settings in force, in order. -/
def State.foldChanges : Nat → State → State
  | 0, s => s
  | f + 1, s =>
    match s.lines.changes with
    | [] => s
    | c :: rest =>
      if s.changeOver c then
        State.foldChanges f { s with lines := { s.lines with
          trims := c.trims.getD s.lines.trims, registration := c.registration.getD s.lines.registration, q := c.q, changes := rest } }
      else s

/-- SET_ROW_DELAY and SET_REGISTRATION complete with OK once every row has changed over (R130). -/
def State.settleDelays (s : State) : State :=
  let s1 := (s.lines.changes.filter s.changedOver).foldl (fun s c => s.finish c.seq .ok (w32 (b2n c.late))) s
  State.foldChanges s1.lines.changes.length s1

/-- The trims and the offset in force once every change has been made. -/
def State.lastSettings (s : State) : List Int × Int :=
  s.lines.changes.foldl (fun x c => (c.trims.getD x.1, c.registration.getD x.2)) (s.lines.trims, s.lines.registration)

/-- Where new trims and a new offset are not acceptable, disarmed or armed (R126 to R128). -/
def State.settingsFault (s : State) (trims : List Int) (reg : Int) : Option Nat :=
  if s.pos.armed then
    delayFaultArmed s.lines.geometry (Tbl.get 0 s.lines.alloc) (s.distWith trims reg) (s.delayWith trims reg)
  else delayFault s.lines.geometry s.depth (s.distWith trims reg) (s.delayWith trims reg)

/-- The condition of R509 for delays. -/
def delaysOk (f : Option Nat) : List Cond := [(f.isNone, .delay (f.getD 0))]

/-- A change of trims or offset takes effect: at once while disarmed, and at its apply line while armed (R127, R128, R130). -/
def State.changeDelays (s : State) (seq : Nat) (trims : Option (List Int)) (reg : Option Int) (page : Option Nat) : State :=
  if !s.pos.armed then
    let s1 : State := { s with lines := { s.lines with trims := trims.getD s.lines.trims, registration := reg.getD s.lines.registration } }
    s1.recomputeDelays.finish seq .ok
  else
    let next := 64 * (s.pos.tick + 1)
    let reached := (page.bind s.page?).any fun p => p.first.any fun f => decide (f * 65536 ≤ s.highWater)
    let c : DelayChange := { seq := seq, line := some next, trims := trims, registration := reg
                             page := if reached then none else page, late := reached }
    ({ s with lines := { s.lines with changes := s.lines.changes ++ [c] } }).resolveDelays

/-! ## SET_ROW_DELAY and SET_REGISTRATION -/

/-- The 64 trims of a buffer. -/
def trimsOf (data : List Byte) : List Int := (List.range 64).map fun r => sleAt data (4 * r) 4

/-- The apply point at an offset, and the page that it names. -/
def applyPoint (e : JEntry) (at_ page : Nat) : Option Nat := if e.p8 at_ = 1 then some (e.p64 page) else none

/-- The checks of an apply point (R322). -/
def applyOk (s : State) (e : JEntry) (at_ page : Nat) : List Cond :=
  [fieldOk at_ (decide (e.p8 at_ ≤ 1)), fieldOk page (e.p8 at_ != 1 || (s.page? (e.p64 page)).any fun p => !p.legacy)]

/-- The checks of SET_ROW_DELAY (R125 to R128, R322). -/
def rowDelayChecks (inp : HostList) (s : State) (e : JEntry) : Checks :=
  { params := listRefOk e 0 ++ applyOk s e 12 16 ++ listOk 0 inp (fun n => n == 256)
      ++ delaysOk (s.settingsFault (trimsOf inp.data) s.lastSettings.2) }

/-- SET_ROW_DELAY (R125, R130). -/
def execSetRowDelay (seq : Nat) (inp : HostList) (t : Nat) (s : State) : Host.Outcome State Fault Refusal :=
  .next (s.command t seq 0x0302 true true (rowDelayChecks inp) fun s e =>
    s.changeDelays seq (some (trimsOf inp.data)) none (applyPoint e 12 16))

/-- The checks of SET_REGISTRATION. -/
def registrationChecks (s : State) (e : JEntry) : Checks :=
  { params := applyOk s e 4 8 ++ delaysOk (s.settingsFault s.lastSettings.1 (e.s32 0)) }

/-- SET_REGISTRATION (R125, R130). -/
def execSetRegistration (seq t : Nat) (s : State) : Host.Outcome State Fault Refusal :=
  .next (s.command t seq 0x0303 false true registrationChecks fun s e => s.changeDelays seq none (some (e.s32 0)) (applyPoint e 4 8))

/-! ## SET_BAR_GEOMETRY (R120 to R122, R141) -/

/-- The geometry of a buffer. -/
def geometryOf (data : List Byte) : Geometry :=
  { set := true, leadNm := leAt data 0 4, trailNm := leAt data 4 4, margin := leAt data 8 2
    heads := (List.range 32).map fun n =>
      { present := bitOf (leAt data (16 + 8 * n) 1) 0, trail := bitOf (leAt data (16 + 8 * n) 1) 1, col0 := leAt data (18 + 8 * n) 2 } }

/-- The conditions on consecutive heads, at the lower of their two fields. -/
def spacingConds (g : Geometry) : List Nat → List (Nat × Bool)
  | a :: b :: t =>
    (18 + 8 * min a b, decide ((g.head a).col0 + 1920 ≤ (g.head b).col0 ∧ (g.head b).col0 ≤ (g.head a).col0 + 2048))
      :: spacingConds g (b :: t)
  | _ => []

/-- The conditions on the values of a geometry buffer (R120, R121), by ascending offset. -/
def geometryConds (g : Geometry) : List (Nat × Bool) :=
  let first := match g.present with
    | [] => [(16, false)]
    | n :: _ => [(18 + 8 * n, (g.head n).col0 == 0)]
  sortBy (fun x => (x.1 : Int))
    ([(0, decide (g.leadNm ≤ 50000000)), (4, decide (g.trailNm ≤ 150000000)), (8, decide (g.margin ≤ 1023))]
      ++ ((List.range 32).map fun n => (18 + 8 * n, decide ((g.head n).col0 ≤ 63488))) ++ first ++ spacingConds g g.present)

/-- The split in force can cover a bar (R73, R74, R122). -/
def State.splitCovers (s : State) (g : Geometry) : Bool :=
  match s.render.explicit with
  | some l => l.sum == g.units
  | none => (autoSplit g.units s.render.active).all (· ≤ 79)

/-- The checks of SET_BAR_GEOMETRY. -/
def geometryChecks (inp : HostList) (s : State) (e : JEntry) : Checks :=
  let g := geometryOf inp.data
  let s1 : State := { s with lines := { s.lines with geometry := g } }
  { params := listRefOk e 0 ++ listOk 0 inp (fun n => n == 272) ++ dataOk 0 (geometryConds g)
      ++ delaysOk (delayFault g s.depth (s1.distWith s.lines.trims s.lines.registration) (s1.delayWith s.lines.trims s.lines.registration))
      ++ [(s.render.format.all fun f => decide (f.c0 < g.width), .format), (s.splitCovers g, .split)]
    busy := s.pos.armed }

/-- Zones of a new geometry: a loaded tile whose width is no longer its zone's overlap is discarded (R141). DESIGN CHOICE (log 66): the
zone goes back to the generated mode with oy 0. -/
def keepZones (g : Geometry) (zones : List StitchZone) : List StitchZone :=
  (List.range zones.length).map fun z =>
    let x : StitchZone := Tbl.get {} zones z
    let o := ((g.zones[z]?).map fun y => y.2.2).getD 0
    if x.loaded && x.tile.w != o then {} else x

/-- The zones whose tile a new geometry discards. -/
def discardedZones (g : Geometry) (zones : List StitchZone) : List Nat :=
  (List.range zones.length).filter fun z =>
    let x : StitchZone := Tbl.get {} zones z
    x.loaded && !(Tbl.get ({} : StitchZone) (keepZones g zones) z).loaded

/-- SET_BAR_GEOMETRY. -/
def execSetBarGeometry (seq : Nat) (inp : HostList) (t : Nat) (s : State) : Host.Outcome State Fault Refusal :=
  .next (s.commandOk t seq 0x0301 true (geometryChecks inp) fun s _ =>
    let g := geometryOf inp.data
    let gone := discardedZones g (s.render.zonesNext.getD s.render.zones)
    let r := s.render
    let s1 : State := { s with
      lines := { s.lines with geometry := g }
      render := { r with zones := keepZones g r.zones, zonesNext := r.zonesNext.map (keepZones g) } }
    -- a head brought up before the geometry had a place for it takes the corrections of its entry now (R233)
    let placed := (List.range 32).filter fun n => (s1.port n).record.isSome && (g.head n).present && !(s.lines.geometry.head n).present
    gone.foldl (fun s z => s.info 0x8601 0 (w32 z)) (placed.foldl State.restoreColumns s1).recomputeDelays)

end Sys2Proof.Machine
end

