-- ==== Sys2Proof/Machine/Settings.lean ====
section
/-!
DEFINITION. Machine/Settings.lean: the rendering commands and SET_PRINT_WINDOW (R15, R72 to R75, R90 to R100, R115, R135,
R140, R171): what they check, and the banks and settings that they change.
-/

namespace Sys2Proof.Machine

/-- A bank that a load would write is still held by a hoist (R100, R115): nothing waits to come into force, and some hoist has a version
other than the one in force. -/
def State.bankHeld (s : State) (waits : Bool) (version : TableSet → Nat) (now : Nat) : Bool :=
  !waits && s.render.hoists.any fun h => version h.tables != now

/-! ## Input format, tone, thresholds -/

/-- The four entries of a level map (R322). -/
def levelMapOf (v : Nat) : List Nat := (List.range 4).map fun i => bits v (4 * i) 4

/-- The checks of SET_INPUT_FORMAT (R91, R122). -/
def inputFormatChecks (s : State) (e : JEntry) : Checks :=
  let kind := e.p8 0
  { notInMode := !s.lines.geometry.set
    -- edge-smooth is for kind 0 only, and the width range goes by the kind: relations, which lie at the kind (R509)
    params := [fieldOk 0 (decide (kind ≤ 1)), fieldOk 0 (!(kind == 1 && e.p8 1 == 1)), fieldOk 0 (!(kind == 0 && decide (32768 < e.p32 4 ∧ e.p32 4 ≤ 65536))),
      fieldOk 1 (decide (e.p8 1 ≤ 1)), fieldOk 2 (e.p8 2 == 2 || e.p8 2 == 4), fieldOk 4 (decide (1 ≤ e.p32 4 ∧ e.p32 4 ≤ 65536)), fieldOk 8 (decide (e.p32 8 < s.lines.geometry.width))]
    busy := s.store.pages.any fun p => !p.legacy }

/-- SET_INPUT_FORMAT (R90, R91). -/
def execSetInputFormat (seq t : Nat) (s : State) : Host.Outcome State Fault Refusal :=
  .next (s.commandOk t seq 0x0401 false inputFormatChecks fun s e =>
    let f : InputFormat := { kind := e.p8 0, wIn := e.p32 4, c0 := e.p32 8, upscale := e.p8 1, depth := e.p8 2 }
    let r : Render := { s.render with
      format := some f, levelMap := if bitOf (e.p8 3) 0 then levelMapOf (e.p16 12) else s.render.levelMap }
    ({ s with render := r }).retryWaiting)

/-- A tone curve entry set, in the sparse form of the settings: an entry at its power-on value is not listed (R97). -/
def setCurve (m : List (Nat × Nat)) (curve entry v : Nat) : List (Nat × Nat) :=
  let k := 256 * curve + entry
  if v = 4 * entry + entry / 64 then SMap.erase k m else SMap.insert k v (SMap.erase k m)

/-- Curves taken from a buffer. -/
def loadCurves (m : List (Nat × Nat)) (first n : Nat) (data : List Byte) : List (Nat × Nat) :=
  (List.range (256 * n)).foldl (fun m i => setCurve m (first + i / 256) (i % 256) (leAt data (2 * i) 2 % 1024)) m

/-- The checks of LOAD_TONE_CURVES (R92, R100). -/
def toneCurveChecks (inp : HostList) (s : State) (e : JEntry) : Checks :=
  let n := e.p8 13
  { params := listRefOk e 0 ++ [fieldOk 12 (decide (e.p8 12 ≤ 15)), fieldOk 13 (decide (1 ≤ n ∧ n ≤ 16)), fieldOk 12 (decide (e.p8 12 + n ≤ 16))]
      ++ listOk 0 inp (fun x => x == 512 * n)
    busy := s.bankHeld s.render.curvesNext.isSome (·.curveVersion) s.render.curveVersion }

/-- LOAD_TONE_CURVES. -/
def execLoadToneCurves (seq : Nat) (inp : HostList) (t : Nat) (s : State) : Host.Outcome State Fault Refusal :=
  .next (s.commandOk t seq 0x0402 true (toneCurveChecks inp) fun s e =>
    let r := s.render
    { s with render := { r with curvesNext := some (loadCurves (r.curvesNext.getD r.curves) (e.p8 12) (e.p8 13) inp.data) } })

/-- A column tone record of a buffer (R93). -/
def columnToneOf (data : List Byte) (i : Nat) : ColumnTone :=
  { gain := leAt data (4 * i) 2, offset := sleAt data (4 * i + 2) 1, curve := leAt data (4 * i + 3) 1 % 16 }

/-- The checks of SET_COLUMN_TONE (R93). -/
def columnToneChecks (inp : HostList) (_ : State) (e : JEntry) : Checks :=
  let n := e.p32 16
  { params := listRefOk e 0 ++ [fieldOk 12 (decide (e.p32 12 ≤ 65535)), fieldOk 16 (decide (1 ≤ n)), fieldOk 12 (decide (e.p32 12 + n ≤ 65536))]
      ++ listOk 0 inp (fun x => x == 4 * n) }

/-- SET_COLUMN_TONE. -/
def execSetColumnTone (seq : Nat) (inp : HostList) (t : Nat) (s : State) : Host.Outcome State Fault Refusal :=
  .next (s.commandOk t seq 0x0403 true (columnToneChecks inp) fun s e =>
    let cols := (List.range (e.p32 16)).foldl (fun m i => SMap.set {} m (e.p32 12 + i) (columnToneOf inp.data i)) s.render.columns
    { s with render := { s.render with columns := cols } })

/-- Bytes of a threshold cell, and its thresholds (R95). -/
def cellBytes (depth : Nat) : Nat := if depth = 4 then 20 else 4
def cellOf (depth : Nat) (data : List Byte) (i : Nat) : List Nat :=
  let v := leAt data (cellBytes depth * i) (cellBytes depth)
  (List.range (if depth = 4 then 15 else 3)).map fun k => bits v (10 * k) 10

/-- Where the thresholds of a cell decrease: the byte of the lower-placed one. -/
def cellConds (off : Nat) : Nat → List Nat → List (Nat × Bool)
  | k, a :: b :: t => (off + 10 * k / 8, decide (a ≤ b)) :: cellConds off (k + 1) (b :: t)
  | _, _ => []

/-- The checks of LOAD_THRESHOLD_ARRAY (R87, R88, R95, R100). -/
def thresholdChecks (inp : HostList) (s : State) (e : JEntry) : Checks :=
  let depth := e.p8 12
  let w := e.p16 14
  let h := e.p16 16
  let top := if depth = 4 then 256 else 512
  let size := cellBytes depth
  { params := listRefOk e 0
      ++ [fieldOk 12 (depth == s.depth), fieldOk 14 (decide (1 ≤ w ∧ w ≤ top)), fieldOk 14 (decide (e.p16 18 < w)),
          fieldOk 16 (decide (1 ≤ h ∧ h ≤ top)), fieldOk 16 (decide (e.p16 20 < h))]
      ++ listOk 0 inp (fun x => x == w * h * size)
      ++ dataOk 0 ((List.range (inp.data.length / size)).flatMap fun i => cellConds (size * i) 0 (cellOf depth inp.data i))
    busy := s.bankHeld s.render.thresholdNext.isSome (·.thresholdVersion) s.render.thresholdVersion }

/-- LOAD_THRESHOLD_ARRAY. -/
def execLoadThresholdArray (seq : Nat) (inp : HostList) (t : Nat) (s : State) : Host.Outcome State Fault Refusal :=
  .next (s.commandOk t seq 0x0404 true (thresholdChecks inp) fun s e =>
    let d := e.p8 12
    let a : Threshold := { depth := d, w := e.p16 14, h := e.p16 16, xOff := e.p16 18, yOff := e.p16 20
                           cells := (List.range (e.p16 14 * e.p16 16)).map (cellOf d inp.data) }
    { s with render := { s.render with thresholdNext := some a } })

/-! ## Row masks and stitching (R115, R122, R135, R140) -/

/-- The checks of LOAD_ROW_MASK; a removal of a level mask names no buffer. -/
def rowMaskChecks (inp : HostList) (s : State) (e : JEntry) : Checks :=
  let w := e.p16 14
  let h := e.p16 16
  let remove := w == 0
  let common := [fieldOk 12 (decide (e.p8 12 ≤ 31) || e.p8 12 == 0xFF), fieldOk 13 (decide (e.p8 13 ≤ 3) && (e.p8 13 == 0 || s.depth == 2))]
  { params :=
      if remove then
        [fieldOk 0 (e.p64 0 == 0), fieldOk 8 (e.p32 8 == 0)] ++ common ++ [fieldOk 13 (e.p8 13 != 0)]
      else
        listRefOk e 0 ++ common
        ++ [fieldOk 14 (w % 8 == 0 && decide (w ≤ 256)), fieldOk 14 (decide (e.p16 18 < w)),
            fieldOk 16 (decide (1 ≤ h ∧ h ≤ 256)), fieldOk 16 (decide (e.p16 20 < h))]
        ++ listOk 0 inp (fun x => x == h * (w / 8))
    busy := s.bankHeld s.render.masksNext.isSome (·.maskVersion) s.render.maskVersion }

/-- A head's mask changed by a LOAD_ROW_MASK: the head mask with its origin and wear settings, or a level mask's tile. -/
def HeadMask.load (m : HeadMask) (e : JEntry) (data : List Byte) : HeadMask :=
  let tile : Option Tile := if e.p16 14 = 0 then none else some ⟨e.p16 14, e.p16 16, data⟩
  match e.p8 13 with
  | 1 => { m with level1 := tile }
  | 2 => { m with level2 := tile }
  | 3 => { m with level3 := tile }
  | _ => { m with tile := tile.getD m.tile, ox := e.p16 18, oy := e.p16 20, dx := e.p8 22, dy := e.p8 23
                  period := e.p16 24, balance := e.p8 26 }

/-- The heads that a LOAD_ROW_MASK names: one, or every present head, or all 32 while the geometry is unset (R122). -/
def State.maskHeads (s : State) (n : Nat) : List Nat :=
  if n ≠ 0xFF then [n] else if s.lines.geometry.set then s.lines.geometry.present else List.range 32

/-- LOAD_ROW_MASK. -/
def execLoadRowMask (seq : Nat) (inp : HostList) (t : Nat) (s : State) : Host.Outcome State Fault Refusal :=
  .next (s.commandOk t seq 0x0405 (!inp.elems.isEmpty) (rowMaskChecks inp) fun s e =>
    let base := s.render.masksNext.getD s.render.masks
    let masks := (s.maskHeads (e.p8 12)).foldl (fun l n => Tbl.upd {} l n fun m => m.load e inp.data) base
    { s with render := { s.render with masksNext := some masks } })

/-- The overlap of a zone in columns, 0 where there is no such zone. -/
def Geometry.zoneWidth (g : Geometry) (z : Nat) : Nat := ((g.zones[z]?).map fun x => x.2.2).getD 0

/-- The checks of SET_STITCH. -/
def stitchChecks (inp : HostList) (s : State) (e : JEntry) : Checks :=
  let z := e.p8 12
  let o := s.lines.geometry.zoneWidth z
  let named := decide (0 < o)
  { params :=
      if e.p8 13 = 1 then
        listRefOk e 0 ++ [fieldOk 12 named, fieldOk 14 (decide (1 ≤ e.p16 14 ∧ e.p16 14 ≤ 256)), fieldOk 14 (decide (e.p16 16 < e.p16 14))]
        ++ listOk 0 inp (fun x => x == e.p16 14 * ceilDiv o 8)
      else
        [fieldOk 0 (e.p64 0 == 0), fieldOk 8 (e.p32 8 == 0), fieldOk 12 (named || z == 0xFF), fieldOk 13 (e.p8 13 == 0),
         fieldOk 16 (decide (e.p16 16 ≤ 255))]
    busy := s.bankHeld s.render.zonesNext.isSome (·.zoneVersion) s.render.zoneVersion }

/-- SET_STITCH. -/
def execSetStitch (seq : Nat) (inp : HostList) (t : Nat) (s : State) : Host.Outcome State Fault Refusal :=
  .next (s.commandOk t seq 0x0406 (!inp.elems.isEmpty) (stitchChecks inp) fun s e =>
    let z := e.p8 12
    let base := s.render.zonesNext.getD s.render.zones
    let x : StitchZone :=
      if e.p8 13 = 1 then { loaded := true, oy := e.p16 16, tile := ⟨s.lines.geometry.zoneWidth z, e.p16 14, inp.data⟩ }
      else { oy := e.p16 16 }
    { s with render := { s.render with
      zonesNext := some (if z = 0xFF then List.replicate 31 x else Tbl.put {} base z x) } })

/-! ## Compensation, engine policy, print window -/

/-- SET_COMPENSATION (R96). -/
def execSetCompensation (seq t : Nat) (s : State) : Host.Outcome State Fault Refusal :=
  .next (s.commandOk t seq 0x0407 false (fun _ e => { params := [fieldOk 0 (decide (e.p8 0 ≤ 128))] }) fun s e =>
    { s with render := { s.render with k := e.p8 0 } })

/-- The active count and the explicit widths after a SET_ENGINE_POLICY (R72, R73). -/
def policyCount (s : State) (e : JEntry) : Nat := if e.p8 0 = 0 then s.render.active else e.p8 0
def policyWidths (s : State) (e : JEntry) : Option (List Nat) :=
  match e.p8 3 with
  | 0 => none
  | 1 => some ((List.range (policyCount s e)).map fun i => e.p8 (4 + i))
  | _ => s.render.explicit

/-- The conditions on the split that a SET_ENGINE_POLICY asks for (R74). -/
def splitConds (s : State) (e : JEntry) : List Cond :=
  let n := policyCount s e
  let u := s.lines.geometry.units
  match policyWidths s e with
  | none => [fieldOk 0 ((autoSplit u n).all (· ≤ 79))]
  | some l =>
    if e.p8 3 = 1 then
      ((List.range l.length).map fun i => fieldOk (4 + i) (decide (1 ≤ l.getD i 0 ∧ l.getD i 0 ≤ 79))) ++ [fieldOk 4 (l.sum == u)]
    else [fieldOk 0 (l.length == n)]

/-- Whether a SET_ENGINE_POLICY leaves the count and the widths as they are. -/
def policyKeeps (s : State) (e : JEntry) : Bool := policyCount s e == s.render.active && policyWidths s e == s.render.explicit

/-- The checks of SET_ENGINE_POLICY (R20, R72 to R75, R122). -/
def policyChecks (s : State) (e : JEntry) : Checks :=
  { notInMode := e.p8 3 == 1 && !s.lines.geometry.set
    params := [fieldOk 0 (e.p8 0 == 0 || decide (12 ≤ e.p8 0 ∧ e.p8 0 ≤ 15)), fieldOk 1 (e.p8 1 == 0 || decide (2 ≤ e.p8 1 ∧ e.p8 1 ≤ 12)),
      fieldOk 2 (has (e.p8 2) [0, 1, 0xFF]), fieldOk 3 (has (e.p8 3) [0, 1, 0xFF])]
      ++ (if policyKeeps s e then [] else splitConds s e)
    busy := s.pos.armed && !policyKeeps s e }

/-- After a rise of L while printing is armed, the hoists whose windows would already have opened wait for the one before each (R20). -/
def State.raiseLead (s : State) (before : Nat) : State :=
  if s.pos.armed && decide (before < s.leadInForce) then
    { s with render := { s.render with catchUpTo := some (s.pos.tick + s.leadInForce + 1) } }
  else s

/-- SET_ENGINE_POLICY. -/
def execSetEnginePolicy (seq t : Nat) (s : State) : Host.Outcome State Fault Refusal :=
  .next (s.commandOk t seq 0x0408 false policyChecks fun s e =>
    let r := s.render
    let n := policyCount s e
    let sets := e.p8 0 != 0 || e.p8 3 != 0xFF
    let s1 : State := { s with render := { r with
      active := n, explicit := policyWidths s e, lead := if e.p8 1 = 0 then r.lead else e.p8 1
      audit := if e.p8 2 = 0xFF then r.audit else e.p8 2 == 1
      pennants := if sets && !s.pos.armed then assignStripes n r.pennants else r.pennants
      resplitAt := if sets && !s.pos.armed then unownedSplit n (assignStripes n r.pennants) else r.resplitAt } }
    s1.raiseLead s.leadInForce)

/-- SET_PRINT_WINDOW (R171). -/
def execSetPrintWindow (seq t : Nat) (s : State) : Host.Outcome State Fault Refusal :=
  .next (s.commandOk t seq 0x0504 false
    (fun _ e => { params := [fieldOk 0 (decide (e.s64 0 < e.s64 8)), fieldOk 16 (decide (e.p16 16 ≤ e.p16 18))] }) fun s e =>
    { s with render := { s.render with window :=
      { lineStart := e.s64 0, lineEnd := e.s64 8, colLo := e.p16 16, colHi := e.p16 18 } } })

end Sys2Proof.Machine
end

