-- ==== Sys2Proof/Machine/Firing.lean ====
section
/-!
DEFINITION. Machine/Firing.lean: line steps (R129 to R131, R155), hoist ticks (R17 to R24, R28, R186, R195, R214), and the
prediction, commitment and carrying out of fire instants (R156 to R160).
-/

namespace Sys2Proof.Machine

/-! ## Row-lines that are not fired (R26, R156, R174, R204) -/

/-- A row-line that was to be fired is forgotten. -/
def State.forget (s : State) (row : Nat) (line : Int) : State :=
  ({ s with pos := { s.pos with pending := s.pos.pending.filter fun x => !(x.row == row && x.line == line) } }).updPort (row / 2)
    fun p => { p with sent := p.sent.filter fun x => !(x.row == row % 2 && x.line == line) }

/-- Why a row-line of a port is not committed, and the block that it is reported with (R387). -/
def State.missCause (s : State) (n : Nat) : LossCause × Nat :=
  if !s.pos.stopN then (.stopInput, 7)
  else if !s.pos.inhibitN then (.inhibit, 7)
  else if s.pos.stopped then (.stopped, s.pos.stoppedBlock)
  else if s.pos.copiesDiffer then (.copies, 0x0C)
  else if s.slow then (.slow, 7)
  else if s.pos.overLimit || decide ((s.upperRate : Rat) < s.speed) then (.overspeed, 7)
  else if (s.port n).retiring.any (fun r => r.drain.isNone) then (.retire n, 2)
  else if (s.port n).noCommit then (.fence n, (s.port n).fencedCode / 256)
  else if decide (((s.port n).maxRate : Rat) < s.speed) then (.headRate n, 8)
  else (.event s.now, 7)

/-- Whether a cause for which row-lines go unfired still stands. -/
def State.missStands (s : State) : LossCause → Bool
  | .event _ => false
  | .stopInput => !s.pos.stopN
  | .inhibit => !s.pos.inhibitN
  | .stopped => s.pos.stopped
  | .copies => s.pos.copiesDiffer
  | .slow => s.slow
  | .overspeed => s.pos.overLimit || decide ((s.upperRate : Rat) < s.speed)
  | .retire n => (s.port n).retiring.any fun r => r.drain.isNone
  | .fence n => (s.port n).noCommit
  | .headRate n => (s.port n).runs && decide (((s.port n).maxRate : Rat) < s.speed)

/-- Event 0x8304 for pages whose lines start to go unfired below 2,400 lines/s (R26). DESIGN CHOICE (log 57): its P1, the first unfired
line, is the line of the page, counted from its first. -/
def State.slowEvents (s : State) (line : Int) (colLo colHi : Nat) : State :=
  s.store.pages.foldl (fun s p =>
    p.placements.foldl (fun s x =>
      let old := if x.1 then some x.2 else none
      if (x.1 || p.spoilable) && !(p.losses.any fun y => y.cause == .slow && y.old == old && !y.told)
          && (s.shownPart (max line x.2) (min line (x.2 + s.linesOf p - 1)) colLo colHi).isSome then
        s.info 0x8304 0 (w32 p.seq) (w32i (line - x.2))
      else s) s) s

/-- A row-line that is never fired: the pages that hold it are spoiled, unless it was dry (R26, R174, R204, R208). -/
def State.missRow (s : State) (x : Pending) : State :=
  let why := s.missCause (x.row / 2)
  let c := s.headColumns x.row
  let s1 := s.forget x.row x.line
  if (s.port (x.row / 2)).dry x.line then s1 else
  let s2 := if why.1 = .slow then s1.slowEvents x.line c.1 c.2 else s1
  s2.spoilLine x.row x.line c.1 c.2 why.2 .gathered why.1

/-- Row-lines whose fire position H has passed with no instant committed are never fired. -/
def State.missPassed (s : State) : State :=
  (s.pos.pending.filter fun x => decide (x.position ≤ s.pos.h)).foldl State.missRow s

/-- Losses to a cause that has ended, or of a page none of whose lines can still be lost, are told (R387). -/
def State.tellEnded (s : State) : State :=
  s.store.pages.foldl (fun s p =>
    if p.losses.all (·.told) then s
    else if !s.hasUnfired p then s.tellPage p
    else ((p.losses.filter fun x => !x.told && !s.missStands x.cause).map (·.kind)).eraseDups.foldl (fun s b =>
      match s.page? p.seq with
      | some p => s.tellGathered p b
      | none => s) s) s

/-! ## Line steps (R129 to R131) -/

/-- The integer delays of a row, those of changes in progress included. -/
def State.rowDelays (s : State) (r : Nat) : List Int :=
  (s.lines.q :: s.lines.changes.map (·.q)).foldl (fun l q =>
    let d := (Tbl.get 0 q r).fdiv 256
    if l.any (· == d) then l else l ++ [d]) []

/-- The lines of a row that fall due for reading at the step of line `l`, the newest first (R130, R131). -/
def State.dueLines (s : State) (r : Nat) (l : Int) : List Int :=
  sortBy (fun m => -m) (((s.rowDelays r).map fun d => l + 1 - d).filter fun m => (s.qOf r m).fdiv 256 == l + 1 - m)

/-- The slot of a line in a row's delay line. -/
def State.slotIn (s : State) (r : Nat) (m : Int) : Nat := (m % ((max 1 (Tbl.get 0 s.lines.alloc r) : Nat) : Int)).toNat

/-- Line `l` of a row is written from the draining band slot into its delay line. -/
def State.writeDelay (s : State) (r : Nat) (l : Int) : State :=
  if (s.rowDelays r).all (· ≤ 0) then s
  else
    let x : RowLine := { line := l, bytes := (s.hoistAt l).map fun h => h.rowBytes r l }
    let slot := s.slotIn r l
    let put := fun (m : List (Nat × RowLine)) => SMap.insert slot x (SMap.erase slot m)
    { s with lines := { s.lines with delay := Tbl.upd [] s.lines.delay r put } }

/-- The row-line of a line in the delay line, if the line was received in this arming and rendered. -/
def State.readDelay (s : State) (r : Nat) (m : Int) : Option (List Byte) :=
  match SMap.find? (s.slotIn r m) (Tbl.get [] s.lines.delay r) with
  | some x => if x.line = m then x.bytes else none
  | none => none

/-- The row-line of a line that falls due, from its delay slot, or from its band slot where the delay is 0. -/
def State.dueBytes (s : State) (r : Nat) (l m : Int) : Option (List Byte) :=
  if m = l + 1 then (s.hoistAt m).map fun h => h.rowBytes r m else s.readDelay r m

/-- An older line that a fall of the delay leaves unfired: reported if it holds a drop on the row (R131). -/
def State.skipLine (s : State) (r : Nat) (l m : Int) : State :=
  match s.dueBytes r l m with
  | none => s
  | some b =>
    if b.all (· == 0) then s
    else
      let c := s.headColumns r
      (s.blankEntries r (hoistOf (l + 1)) 0 2047).spoilLine r m c.1 c.2 6 .each

/-- The row-line that falls due waits for its fire position and goes to its port. -/
def State.queueRow (s : State) (r : Nat) (l m : Int) : State :=
  match s.dueBytes r l m with
  | none => s
  | some b =>
    let x : Pending := { row := r, line := m, position := s.firePosition r m, instant := none }
    let s1 : State := { s with pos := { s.pos with pending := s.pos.pending ++ [x] } }
    if m = l + 1 then
      (match s1.hoistAt m with
        | some h => if s1.rowReady h r then s1.readOut r m b else s1
        | none => s1)
    else s1.readOut r m b

/-- A row at the step of line `l`: the write, then the read. Uncorrectable words of the row-line read out are blanked (R118). -/
def State.stepRow (s : State) (bad : List BadWord) (l : Int) (r : Nat) : State :=
  let s1 := s.writeDelay r l
  if !(s.port (r / 2)).runs then s1
  else
    match s1.dueLines r l with
    | [] => s1
    | m :: older =>
      let mine := (bad.filter fun b => b.row.val == r).map (·.word)
      let s2 := if (s1.dueBytes r l m).isSome then mine.foldl (fun s w => s.badWord r m w) (s1.delayShot r m) else s1
      older.foldl (fun s o => s.skipLine r l o) (s2.queueRow r l m)

/-- Legacy lines that H has reached are no longer held (R491). -/
def State.passLegacy (s : State) : State :=
  if s.power.mode ≠ .hb8 then s
  else
    ({ s with hb := { s.hb with
      lines := s.hb.lines.filter fun x => x.place.all fun p => decide (s.pos.h < p * 65536) } }).hbIrq

/-- What may end once H has moved: page ends, drained retirements, delay changes, disarms, and a shutdown that waits; space that has come
free is for the legacy lines that wait (R495). -/
def State.settleWeb (s : State) : State :=
  (((((((s.tellEnded).settleFired).settleRetire).startHeadResets.settleDelays).settleDisarm).settleShutdown).retryWaiting).placeLines

/-- LINE_STEP: H first reaches the next line: each row writes its delay line and reads out the row-line due next (R129).
At the first line of a hoist a trimmed element may switch (R420). -/
def execLineStep (bad : List BadWord) (t : Nat) (s0 : State) : Host.Outcome State Fault Refusal :=
  let s := (s0.tick t).advance
  let l := s.pos.line + 1
  if decide (s.pos.h < l * 65536) || decide (s.pos.tick < hoistOf l) then .next s
  else
    let s1 : State := { s with pos := { s.pos with line := l } }
    if s.power.phase ≠ .running then .next s1
    else
      let s2 := s1.resolveDelays
      let s3 := if s2.pos.armed then s2.lines.geometry.rows.foldl (fun s r => s.stepRow bad l r) s2 else s2
      let s4 := if l % 64 = 0 then s3.switchSerial else s3
      .next ((s4.missPassed).passLegacy).settleWeb

/-! ## Fire instants (R154 to R160) -/

/-- Whether the conditions of R156 hold for a row-line at its commit. -/
def State.fireable (s : State) (x : Pending) : Bool :=
  s.mayCommit && s.portCommits (x.row / 2) && decide (s.pos.h < x.position)

/-- The fields of a FIRE block (R179, R181). -/
def fireFields (p : HeadPort) (row : Nat) (line f : Int) (derated : Bool) : List Byte :=
  let adj := f - (p.latency : Int) - (p.delta : Int)
  BitVec.ofNat 8 (row + 2 * b2n derated + 4 * b2n (p.dry line) + 16 * (adj % 16).toNat)
    :: (leBytes 3 (unsign 24 (adj.fdiv 16)) ++ lineTag line)

/-- The fire marker of a committed instant (R181, R210). -/
def State.sendFire (s : State) (r : Nat) (line f : Int) (derated : Bool) : State :=
  let n := r / 2
  let p := s.port n
  if p.legacy then
    let bit : Int := if p.rate6 then 20 else 40
    s.emit (.legacyFire n (r % 2 == 1) (bit * divHalfUp (f - (p.latency : Int)) bit))
  else
    (s.sendHead n 0x30 (fireFields p (r % 2) line f derated)).updPort n fun p => { p with echoFires := p.echoFires + 1 }

/-- A fire instant is committed (R156, R158). -/
def State.commit (s : State) (x : Pending) (at_ : Rat) : State :=
  let n := x.row / 2
  let soonest : Rat := (s.now : Rat) + 160 + s.lead n
  let f := roundHalfUp ((if at_ < soonest then soonest else at_) * 50)
  let derated := (s.port n).derated && !(s.port n).legacy
  let c : Committed := { row := x.row, line := x.line, position := x.position, f := f, derated := derated }
  ({ s with pos := { s.pos with
    pending := s.pos.pending.filter fun y => !(y.row == x.row && y.line == x.line)
    committed := s.pos.committed ++ [c] } }).sendFire x.row x.line f derated

/-- FIRE_PREDICT: fire positions within two line steps are predicted (R156). -/
def execFirePredict (t : Nat) (s0 : State) : Host.Outcome State Fault Refusal :=
  .next ((s0.tick t).advance).predictAll

/-- FIRE_COMMIT: at its commit moment, 512 ns + λ before the latest T predicted, a fire instant is committed if every
condition holds; otherwise the row-line is never fired (R156). -/
def execFireCommit (row : Fin 64) (line : Int) (t : Nat) (s0 : State) : Host.Outcome State Fault Refusal :=
  let s := (s0.tick t).advance.settleMissing
  match s.pos.pending.find? (fun x => x.row == row.val && x.line == line) with
  | none => .next s
  | some x =>
    match x.instant with
    | none => .next s
    | some at_ =>
      if (s.now : Rat) + 512 + s.lead (row.val / 2) < at_ then .next s
      else
        let s1 := (s.checkOverspeed).checkHeadRate
        if s1.fireable x then .next (s1.commit x at_) else .next (s1.missRow x)

/-- The energy of a row-line fired, added to its period (R196). -/
def HeadPort.addEnergy (p : HeadPort) (k : Int) (e : Rat) : HeadPort :=
  if p.energy.any (fun x => x.1 == k) then
    { p with energy := p.energy.map fun x => if x.1 == k then (k, x.2 + e) else x }
  else { p with energy := p.energy ++ [(k, e)] }

/-- A row-line fires: its energy counts, and a resent one is counted and told with 0x0806 (R183, R196). -/
def State.fireRow (s : State) (c : Committed) : State :=
  let n := c.row / 2
  let p := s.port n
  match p.sent.find? (fun x => x.row == c.row % 2 && x.line == c.line) with
  | none => s
  | some x =>
    let e : Rat := if p.dry c.line then 0
      else (p.lineEnergy s.depth x.bytes : Nat) * (if c.derated then p.derateFactor else 1)
    let s1 := s.updPort n fun p => { p.addEnergy (c.position.fdiv (64 * 65536)) e with
      resent := if x.resent then min 255 (p.resent + 1) else p.resent }
    let s2 := if x.resent then s1.fault 0x0806 n else s1
    s2.forget c.row c.line

/-- FIRE_INSTANT: a committed instant is reached and carried out by its port (R157); with it a page, a retirement or a
disarm may end. -/
def execFireInstant (row : Fin 64) (line : Int) (t : Nat) (s0 : State) : Host.Outcome State Fault Refusal :=
  let s := (s0.tick t).advance
  match s.pos.committed.find? (fun c => c.row == row.val && c.line == line) with
  | none => .next s
  | some c =>
    if (s.now : Int) * 50 < c.f then .next s
    else
      let s1 : State := { s with pos := { s.pos with
        committed := s.pos.committed.filter fun x => !(x.row == row.val && x.line == line) } }
      .next (s1.fireRow c).settleWeb

/-- ROW_LINE_LATE: the data of a committed row-line has not reached its port 160 ns before its instant: level 0 fires,
the page is reprinted, and fault 0x0605 is logged (R160). -/
def execRowLineLate (row : Fin 64) (line : Int) (t : Nat) (s0 : State) : Host.Outcome State Fault Refusal :=
  let s := (s0.tick t).advance
  let n := row.val / 2
  match s.pos.committed.find? (fun c => c.row == row.val && c.line == line) with
  | none => .next s
  | some c =>
    if (s.port n).holds (row.val % 2) line || decide (((s.now : Int) + 160) * 50 < c.f) then .next s
    else
      let zero : SentLine := { row := row.val % 2, line := line, bytes := List.replicate (256 * s.depth) 0, lost := true }
      let s1 := s.updPort n fun p => { p with sent := p.sent ++ [zero] }
      .next (s1.rowLineFault { code := 0x0605, unit := n } row.val line)

/-! ## Hoist ticks -/

/-- TICK to a port (R186): a port that has not answered four in a row has a failed link (R184). What ECHO is to tell is kept (R208).
A fenced port whose link has not failed gets it too. -/
def State.sendTick (s : State) (n : Nat) (timebase : Bool) : State :=
  let p := s.port n
  if !p.linkLive || p.legacy then s
  else
    let missed := if p.statusNow then 0 else p.missedStatus + 1
    if (p.runs || p.trained) && decide (4 ≤ missed) then s.fencePort n 0x0801 false false
    else
      (s.sendHead n 0x34 (leBytes 2 (unsign 16 s.pos.tick) ++ [BitVec.ofNat 8 (b2n timebase)])).updPort n fun p => { p with
        missedStatus := missed, statusNow := false, echoExpect := some (~~~ p.echoCrc, p.echoFires % 256)
        echoCrc := 0xFFFFFFFF, echoFires := 0 }

/-- The waveform bank that switches at a tick (R195): the loads of a LOAD_WAVEFORM complete it once every head has switched. -/
def State.switchWave (s : State) (n : Nat) : State :=
  match (s.port n).load with
  | none => s
  | some w =>
    if w.switchTick.any fun k => decide (k ≤ s.pos.tick) then
      let s1 := s.updPort n fun p => { p with waveSet := some w.set, waveBank := w.bank, load := none }
      match w.seq with
      | some q => if (List.range 32).any fun i => ((s1.port i).load.bind (·.seq)) == some q then s1 else s1.finish q .ok 0 (w32 w.heads)
      | none => s1
    else s

/-- Under legacy framing a temperature read starts every 16 predictor steps (R211). -/
def State.legacyTemp (s : State) (n : Nat) : State :=
  let p := s.port n
  if !p.runs || !p.legacy then s
  else if 15 ≤ p.tempSteps then (s.updPort n fun p => { p with tempSteps := 0 }).drive (.twoWire (n / 8) (0x50 + n % 8) 0x0100)
  else s.updPort n fun p => { p with tempSteps := p.tempSteps + 1 }

/-- RESET_UNITs of head ports whose return has come to its end (R316). -/
def State.settleHeadResets (s : State) : State :=
  (List.range 32).foldl (fun s n =>
    let p := s.port n
    if p.resetCmd.isNone || p.resetDue then s
    else
      let gone := fun (s : State) => s.updPort n fun p => { p with resetCmd := none }
      match p.state with
      | .inService => (gone s).endReset p.resetCmd 2 true
      | .fenced | .failed | .waiting | .absent | .retired => (gone s).endReset p.resetCmd 2 false
      | _ => s) s

/-- A port in shadow is in service when the first hoist rendered with its head is due; the lines before it stay dry (R208). -/
def State.joinPort (s : State) (n : Nat) : State :=
  let p := s.port n
  if p.state == .shadow && p.joinHoist.any (fun j => decide (j ≤ s.pos.tick)) then
    (s.updPort n fun p => { p with dryTo := p.joinHoist.map fun j => 64 * j }).serve n
  else s

/-- What a tick does at a port: the start of a shadow, TICK, the waveform switch, the end of a shadow, and, while device firmware
runs, the predictor. The ECHO of the TICK that starts a shadow tells of what came before it and is not compared. -/
def State.portTick (s : State) (n : Nat) (period : Option Int) : State :=
  let s0 := (s.joinShadow n period.isSome).sendTick n period.isNone
  let s1 := if (s.port n).state == .record then s0.updPort n fun p => { p with echoExpect := none } else s0
  let s2 := if period.isSome then (s1.switchWave n).joinPort n else s1
  if s2.firmwareRuns then (s2.tickPredictor n period).legacyTemp n else s2

/-- The heads and nozzle states that hoist k was rendered with; the present ones where none was (R133). -/
def State.outAt (s : State) (k : Int) : List Nat × List Host.Cell :=
  match s.render.outSets.find? fun x => decide (x.1 ≤ k) with
  | some x => x.2
  | none => (s.outHeads k, s.lines.nozzles)

/-- The nozzles of a row that are out of service in such a set; none stands for all of them. -/
def outOfRow (r : Nat) (x : List Nat × List Host.Cell) : Option (List Nat) :=
  if has (r / 2) x.1 then none else some ((x.2.filter fun c => c.1 / 2048 == r && c.2.getLsbD 3).map (·.1))

/-- Nozzles of present heads that are out of service for the whole of period k, in rising order: in every hoist that lines fired in it
belong to (R133, R213). -/
def State.outNozzles (s : State) (k : Int) : List Nat :=
  s.lines.geometry.rows.flatMap fun r =>
    match outOfRow r (s.outAt (hoistOf (s.periodLine r k))), outOfRow r (s.outAt (hoistOf (s.periodLine r k + 63))) with
    | none, none => (List.range 2048).map fun i => 2048 * r + i
    | some l, none => l
    | none, some l => l
    | some l, some m => l.filter fun i => has i m

/-- POS0's speed as POS_SPEED gives it. -/
def State.speedWord (s : State) : BitVec 32 := w32i (report (s.speed * 256) (-2147483648) 2147483647)

/-- The integer row delays in force; 0 for rows of absent heads (R214). -/
def State.periodDelays (s : State) : List Nat :=
  (List.range 64).map fun r => if (s.lines.geometry.head (r / 2)).present then ((Tbl.get 0 s.lines.q r).fdiv 256).toNat else 0

/-- The record of period `k` is written to the ring, in class 3 of R360 (R212 to R214, R354). -/
def State.closePeriod (s : State) (k : Int) (out : List Nat) : State :=
  let staged := match s.loop.staging.find? (fun x => x.1 == k) with
    | some x => x.2
    | none => []
  let keep := fun (x : Nat × Nat) => x.2 != 0 && (x.2 != 0xFFF || has x.1 out)
  let p : Period := { k := k, entries := staged.filter keep
                      delays := s.periodDelays
                      time := s.stamp.2, timeValid := s.stamp.1, speed := s.speedWord, depth4 := s.depth == 4 }
  ({ s with loop := { s.loop with
    history := (p :: s.loop.history).take 2728, staging := s.loop.staging.filter fun x => decide (k < x.1) } }).sdramRequests
    [(3, 0x9000000 + (k % 2728).toNat * 196608)]

/-- A period that cannot be written to the SDRAM reads as 0xFFE throughout (R213). -/
def State.losePeriod (s : State) (k : Int) : State :=
  let p : Period := { k := k, entries := [], delays := s.periodDelays, time := s.stamp.2, timeValid := s.stamp.1
                      speed := s.speedWord, depth4 := s.depth == 4, unreadable := true }
  { s with loop := { s.loop with
    history := (p :: s.loop.history).take 2728, staging := s.loop.staging.filter fun x => decide (k < x.1) } }

/-- The nozzles out of service as period `k` begins are marked so. -/
def State.openPeriod (s : State) (k : Int) (out : List Nat) : State :=
  { s with loop := s.loop.stage k fun m => bumpAll (fun v => if v = 0xFFFF then 0xFFF else v) 0xFFFF m out }

/-- Stripes that hoist `k` went without blank their nozzles' entries (R24, R213). -/
def State.blankHoist (s : State) (k : Int) : State :=
  match s.hoist? k with
  | none => s
  | some h => h.blanked.foldl (State.blankStripe h.tables.widths k) s

/-- The hoist that falls due now, in an arming: its window opens late if it has not opened; check words of pennants in shadow are
compared; it drains, and the one before it is free (R17 to R24, R111). -/
def State.tickHoists (s : State) (k : Int) : State :=
  if !s.pos.armed then s
  else
    let s1 := if s.nextWindow = k then s.openHoist k else s
    let s2 := (s1.judgeShadows.dueHoist k).blankHoist k
    ({ s2 with render := { s2.render with hoists := s2.render.hoists.filter fun h => decide (k ≤ h.k) } }).sendReady

/-- Fired pages count a hoist of their replay horizon (R38). -/
def PageStore.countHorizons (p : PageStore) : PageStore :=
  { p with pages := p.pages.map fun x => if x.state == .fired then { x with horizon := x.horizon.map (· + 1) } else x }

/-- The work of tick k: the hoist that falls due, the record of the period that ends, the heads, the governor, and what may end
(R17, R19, R24, R28, R38, R186, R195, R197, R201, R214). Outside operation the period that ends could not be written. -/
def State.tickWork (s : State) (k : Int) : State :=
  if s.power.phase ≠ .running then
    let s1 := if k = 0 then s else s.losePeriod (k - 1)
    { s1 with pos := { s1.pos with tick := k, tickAt := s1.now, hoistTickAt := s1.now } }
  else
    let s1 : State := { s with pos := { s.pos with tick := k }, store := s.store.countHorizons }
    let s2 := ((s1.resolveDelays).tickHoists k).shadowTick
    let s3 := if k = 0 then s2.openPeriod 0 (s2.outNozzles 0) else (s2.closePeriod (k - 1) (s2.outNozzles (k - 1))).openPeriod k (s2.outNozzles k)
    let s4 := (List.range 32).foldl (fun s n => s.portTick n (some (k - 1))) s3
    let s5 : State := { s4 with pos := { s4.pos with tickAt := s4.now, hoistTickAt := s4.now } }
    (if s5.firmwareRuns then s5.govern.settleWeb else s5.settleWeb).settleHeadResets.linksTick

/-- Tick 0, which occurs at once when the reference restarts (R148). -/
def State.zeroTick (s : State) : State :=
  if s.pos.zeroDue then ({ s with pos := { s.pos with zeroDue := false } }).tickWork 0 else s

/-- HOIST_TICK: H first reaches 64 k lines, with every line before it stepped: hoist k begins to drain, and the work of
the tick runs. -/
def execHoistTick (t : Nat) (s0 : State) : Host.Outcome State Fault Refusal :=
  let s := (s0.tick t).advance.zeroTick.settleMissing
  let k := s.pos.tick + 1
  if decide (s.pos.h < k * 64 * 65536) || decide (s.pos.line + 1 < 64 * k) then .next s else .next (s.tickWork k)

/-- TIMEBASE_TICK: for 213.3 µs no hoist tick has occurred: a timebase TICK goes to the heads, the predictor makes a step
with no energy, and, while the web stands, a trimmed element may switch (R28, R186, R197, R420). -/
def execTimebaseTick (t : Nat) (s0 : State) : Host.Outcome State Fault Refusal :=
  let s := (s0.tick t).advance.zeroTick.settleMissing
  if s.power.phase ≠ .running ∨ s.now < s.pos.tickAt + 213333 then .next s
  else
    let s1 := (List.range 32).foldl (fun s n => s.portTick n none) s
    let s2 : State := { s1 with pos := { s1.pos with tickAt := s1.now } }
    .next ((if s2.webStands then s2.switchSerial else s2).tryArm).settleHeadResets.linksTick

/-- GOVERNOR_PERIOD: while no tick occurs, the governor runs every 1 ms of timebase (R201). -/
def execGovernorPeriod (t : Nat) (s0 : State) : Host.Outcome State Fault Refusal :=
  let s := s0.tick t
  if !s.firmwareRuns || decide (s.now < max s.pos.hoistTickAt s.heads.governor.ranAt + 1000000) then .next s
  else
    let g := s.heads.governor
    .next ({ s with heads := { s.heads with governor := { g with ranAt := s.now } } }).govern

/-- DERATE_END: after 64 ticks in a row below soft minus hysteresis, derating ends (R199). -/
def execDerateEnd (p : Fin 32) (t : Nat) (s0 : State) : Host.Outcome State Fault Refusal :=
  let s := (s0.tick t).settleMissing
  let x := s.port p.val
  if !x.derated || decide (x.coolTicks < 64) then .next s
  else .next ((s.updPort p.val fun p => { p with derated := false }).info 0x8805 p.val (w32i (x.measured.toInt)))

/-- SLIP_CHECK: at a tick whose k is a multiple of 16, POS1's travel since the last such tick is compared with that of POS0 (R153).
DESIGN CHOICE (log 58): the exact difference is compared with the limits; only the report of 0x8702 rounds it to 1/16 line. -/
def execSlipCheck (t : Nat) (s0 : State) : Host.Outcome State Fault Refusal :=
  let s := (s0.tick t).advance
  if s.pos.tick % 16 ≠ 0 ∨ s.pos.tick = s.pos.slipTick then .next s
  else
    let c := s.chan 1
    let own := c.travel s.pos.lpi (c.count - s.pos.slipCount)
    let diff : Int := (own - (s.pos.tick - s.pos.slipTick) * 64 * 65536).natAbs
    let s1 : State := { s with pos := { s.pos with slipTick := s.pos.tick, slipCount := c.count } }
    if c.set.slipWarn = 0 ∨ c.set.slipStop = 0 ∨ s.power.phase ≠ .running then .next s1
    else
      let s2 := if (c.set.slipWarn : Int) * 4096 < diff then
          (s1.updChan 1 fun c => { c with slip := c.slip ||| 1 }).info 0x8702 0 (w32i (report ((diff : Rat) / 4096) 0 4294967295))
        else s1
      if (c.set.slipStop : Int) * 4096 < diff then
        .next (((s2.updChan 1 fun c => { c with slip := c.slip ||| 2 }).fault 0x0703).stopFiring 7)
      else .next s2

end Sys2Proof.Machine
end

