-- ==== Sys2Proof/Machine/Position.lean ====
section
/-!
DEFINITION. Machine/Position.lean: the events of the position channels (R143 to R150), compare units (R162 to R166), the stop
inputs (R174, R175), and the commands SET_ENCODER, SET_COMPARE, ARM_PRINT and DISARM_PRINT.
-/

namespace Sys2Proof.Machine

/-! ## Edges (R143 to R150) -/

/-- AX0 has left its print tolerance while printing is armed: fault 0x0A04 and an immediate disarm (R351). -/
def State.checkPrintPosition (s : State) : State :=
  if s.pos.armed && !s.axisReady then ((s.fault 0x0A04).disarmNow 0x0A).settleDisarm else s

/-- What follows an accepted edge on POS0: predictions and the limits of speed (R25, R156, R204), and an arming that waits
for a valid speed (R393, R500). -/
def State.afterEdge (s : State) : State := (((s.advance).predictAll).checkOverspeed).checkHeadRate.tellEnded.tryArm

/-- ENCODER_EDGE: a level of a channel has changed in the sample at `t` and has stood for the channel's filter: it is accepted then, the
count moves as its mode gives, and direction, extreme and speed follow from its timestamp `t` (R143, R144, R146 to R150; log 59). Both levels
changing at once in a mode that calls it illegal is ILLEGAL_TRANSITION's. -/
def execEncoderEdge (ch : Fin 6) (a b : Bool) (t : Nat) (s0 : State) : Host.Outcome State Fault Refusal :=
  let s := (s0.tick (acceptedAt (s0.chan ch.val).set.filter t)).advance.commitUnits
  let c := s.chan ch.val
  if c.a != a && c.b != b && illegalMode c.set.mode then .next s
  else
    let d := countStep c.set.mode c.a c.b a b
    let s1 := s.updChan ch.val fun c => { c with a := a, b := b }
    if d = 0 then .next s1
    else
      let s2 := s1.acceptEdge ch.val (if c.set.invert then -d else d) t
      let s2 := if ch.val = 0 then s2.forgetUnits else s2
      if s.power.phase ≠ .running then .next (if ch.val = 0 then s2.advance else s2)
      else if ch.val = 0 then .next s2.afterEdge
      else if ch.val = 2 then .next s2.checkPrintPosition
      else .next s2

/-- Illegal transitions of POS0 within 1,024 lines of reference travel (R145). DESIGN CHOICE (log 90): the travel is that of H. -/
def State.countIllegal (s : State) : State :=
  let near := (s.pos.h :: s.pos.illegalAt).filter fun x => decide (s.pos.h ≤ x + 1024 * 65536)
  let s1 : State := { s with pos := { s.pos with illegalAt := near } }
  if near.length < 4 ∨ s.pos.illegalRaised then s1
  else ((({ s1 with pos := { s1.pos with illegalRaised := true } }).fault 0x0701).hbErr 4).stopFiring 7

/-- ILLEGAL_TRANSITION: A and B change in one sample: the count stays, the transition is counted and told, and four on POS0
within 1,024 lines stop the firing (R145). -/
def execIllegalTransition (ch : Fin 6) (a b : Bool) (t : Nat) (s0 : State) : Host.Outcome State Fault Refusal :=
  let s := (s0.tick t).advance
  let c := s.chan ch.val
  if !(c.a != a && c.b != b && illegalMode c.set.mode) then .next s
  else
    let s1 := (s.updChan ch.val fun c => { c with a := a, b := b, illegal := min 255 (c.illegal + 1) }).info 0x8701 ch.val
    .next (if ch.val = 0 then s1.countIllegal else s1)

/-- SPEED_STALL: the stall time has passed without an advancing edge, and the speed is invalid (R150). -/
def execSpeedStall (ch : Fin 6) (t : Nat) (s0 : State) : Host.Outcome State Fault Refusal :=
  let s := (s0.tick t).advance
  let c := s.chan ch.val
  if c.stalled || decide (s.now < c.since + c.set.stallMs * 1000000) then .next s
  else .next ((s.commitUnits.updChan ch.val fun c => { c.lose with stalled := true }).forgetUnits)

/-! ## Compare units (R162 to R166) -/

/-- A compare unit. -/
def State.cmp (s : State) (u : Nat) : Compare := Tbl.get {} s.pos.units u

/-- The state with a compare unit changed. -/
def State.updCmp (s : State) (u : Nat) (f : Compare → Compare) : State :=
  { s with pos := { s.pos with units := Tbl.upd {} s.pos.units u f } }

/-- Whether a target, in 1/256 line, is at or below H. -/
def State.reached (s : State) (target : Int) : Bool := decide (target * 256 ≤ s.pos.h)

/-- A target moved by whole periods to the first that lies above H (R164). -/
def State.nextTarget (s : State) (target : Int) (period : Nat) : Int :=
  target + ((s.pos.h - target * 256).fdiv ((period * 65536 : Nat) : Int) + 1) * ((period * 256 : Nat) : Int)

/-- A pin's inactive level is set by a command that names it with action bit 2 (R166). -/
def State.setPin (s : State) (c : CompareSet) : State :=
  if !c.actions.getLsbD 2 then s
  else
    let p : ComparePin := Tbl.get {} s.pos.pins c.pin
    let p1 : ComparePin := { p with inactiveHigh := c.low }
    let s1 : State := { s with pos := { s.pos with pins := Tbl.put {} s.pos.pins c.pin p1 } }
    if p.pulses.isEmpty && p.inactiveHigh != c.low then s1.emit (.comparePin c.pin c.low) else s1

/-- Pages stored and tied to a unit whose placement is not fixed (R169). -/
def State.placeTied (s : State) (u : Nat) : State :=
  s.store.pages.foldl (fun s p =>
    if p.state == .stored && p.placement == .atCompare u && p.first.isNone && p.reprints == 0 && s.groupOf p == 0 then
      s.placeCompare p.seq u
    else s) s

/-- A setting takes effect (R164, R165): a completion still outstanding is CANCELLED, a target at or below H is missed, and
pages that wait on the unit are placed. -/
def State.takeSetting (s : State) (u : Nat) (c : CompareSet) : State :=
  let s1 := match (s.cmp u).openSeq with
    | some q => s.finish q .cancelled
    | none => s
  let late := c.mode != 0 && s1.reached c.target
  let missed := late && c.catchUp == 0
  let caught := late && c.catchUp == 1
  let set : CompareSet := if missed && c.mode == 2 then { c with target := s1.nextTarget c.target c.period } else c
  let fresh : Compare := {
    set := set, live := c.mode == 2 || (c.mode == 1 && !missed), instant := none
    committed := if caught then some ((s1.now : Int) * 50) else none
    next := (s1.cmp u).next, missed := missed, caught := caught
    openSeq := if c.actions.getLsbD 1 && c.mode != 0 && !missed then some c.seq else none }
  let s2 := (s1.updCmp u fun _ => fresh).setPin c
  let s3 := if missed then s2.interrupt 10 else s2
  let s4 := if fresh.openSeq.isSome then s3.setRunning c.seq
    else s3.finish c.seq .ok (w32 (if missed then 1 else if caught then 2 else 0))
  if c.mode = 0 ∨ caught then s4 else s4.placeTied u

/-- A firing of the unit is committed (R156, R163). -/
def State.firingCommitted (s : State) (u : Nat) : Bool := (s.cmp u).live && (s.cmp u).committed.isSome

/-- Settings that wait take effect in turn, as far as no firing is committed. -/
def State.takeNext : Nat → State → Nat → State
  | 0, s, _ => s
  | f + 1, s, u =>
    match (s.cmp u).next with
    | [] => s
    | c :: rest =>
      if s.firingCommitted u then s
      else State.takeNext f ((s.updCmp u fun x => { x with next := rest }).takeSetting u c) u

/-- The setting that a SET_COMPARE carries. -/
def compareOf (seq : Nat) (e : JEntry) : CompareSet :=
  { mode := e.p8 1, catchUp := e.p8 2, actions := BitVec.ofNat 3 (e.p8 3), pin := e.p8 4, low := e.p8 5 == 1
    width := e.p16 6, target := e.s64 8, period := e.p32 16, seq := seq }

/-- The checks of SET_COMPARE: every value in every mode (R162). -/
def compareChecks (_ : State) (e : JEntry) : Checks :=
  { params := [fieldOk 0 (decide (e.p8 0 ≤ 15)), fieldOk 1 (decide (e.p8 1 ≤ 2)), fieldOk 2 (decide (e.p8 2 ≤ 1)),
      fieldOk 4 (decide (e.p8 4 ≤ 3)), fieldOk 5 (decide (e.p8 5 ≤ 1)), fieldOk 6 (decide (1 ≤ e.p16 6)),
      fieldOk 8 (decide (-(2 ^ 55) ≤ e.s64 8 ∧ e.s64 8 < 2 ^ 55)), fieldOk 16 (decide (1 ≤ e.p32 16 ∧ e.p32 16 ≤ 16777215))] }

/-- SET_COMPARE: the setting takes effect at once, or after a firing that is committed already (R162, R165). -/
def execSetCompare (seq t : Nat) (s : State) : Host.Outcome State Fault Refusal :=
  .next (s.command t seq 0x0503 false false compareChecks fun s0 e =>
    let s := s0.advance.commitUnits
    let c := compareOf seq e
    let u := e.p8 0
    if s.firingCommitted u then
      let s1 := s.updCmp u fun x => { x with next := x.next ++ [c] }
      if c.actions.getLsbD 1 then s1 else s1.setRunning seq
    else s.takeSetting u c)

/-- The pulse of a firing (R166): with pulses of the other polarity on the pin its level is unpredictable. -/
def State.pulse (s : State) (c : CompareSet) : State :=
  if !c.actions.getLsbD 2 then s
  else
    let p : ComparePin := Tbl.get {} s.pos.pins c.pin
    let p1 : ComparePin := { p with pulses := p.pulses ++ [s.now + 100 * c.width], activeHigh := !c.low }
    let s1 : State := { s with pos := { s.pos with pins := Tbl.put {} s.pos.pins c.pin p1 } }
    if !p.pulses.isEmpty && p.activeHigh == c.low then
      let r := s1.freeBit
      r.2.emit (.comparePin c.pin r.1)
    else if p.pulses.isEmpty then s1.emit (.comparePin c.pin (!c.low))
    else s1

/-- A unit fires: interrupt, completion, with H in whole lines half up (R508), and pulse as set; a periodic unit takes its next target
(R163, R164). -/
def State.fireUnit (s : State) (u : Nat) : State :=
  let x := s.cmp u
  let c := x.set
  let s1 := if c.actions.getLsbD 0 then s.interrupt 10 else s
  let s2 := match x.openSeq with
    | some q => s1.finish q .ok (w32 (2 * b2n x.caught)) (w32 s.now) (w32i ((s.pos.h + 32768).fdiv 65536))
    | none => s1
  let s3 := s2.pulse c
  let target := if c.mode ≠ 2 then c.target else if x.caught then s.nextTarget c.target c.period
    else c.target + 256 * (c.period : Int)
  let s4 := s3.updCmp u fun x => { x with
    set := { x.set with target := target }, live := c.mode == 2, instant := none, committed := none, openSeq := none }
  let s5 := if x.caught then s4.placeTied u else s4
  let s6 := if c.mode = 2 then s5.updCmp u fun x => { x with caught := false } else s5
  State.takeNext x.next.length s6 u

/-- COMPARE_FIRE: the instant committed for a unit has come, or, with none committed, H reaches its target; a setting that waits for
the firing takes effect right after it (R163 to R165). -/
def execCompareFire (u : Fin 16) (t : Nat) (s0 : State) : Host.Outcome State Fault Refusal :=
  let s := (s0.tick t).advance.commitUnits
  let c := s.cmp u.val
  let due := match c.committed with
    | some f => decide (f ≤ (s.now : Int) * 50)
    | none => s.reached c.set.target
  if c.live && due then .next (s.fireUnit u.val) else .next s

/-- COMPARE_PULSE_END: pulses whose width has elapsed end; with none left the pin returns to its inactive level (R166). -/
def execComparePulseEnd (pin : Fin 4) (t : Nat) (s0 : State) : Host.Outcome State Fault Refusal :=
  let s := (s0.tick t).advance
  let p : ComparePin := Tbl.get {} s.pos.pins pin.val
  let left := p.pulses.filter fun e => decide (s.now < e)
  let s1 : State := { s with pos := { s.pos with pins := Tbl.put {} s.pos.pins pin.val { p with pulses := left } } }
  if p.pulses.isEmpty then .next s
  else if left.isEmpty then .next (s1.emit (.comparePin pin.val p.inactiveHigh)) else .next s1

/-! ## Stop inputs (R174, R175, R453, R454) -/

/-- STOP_N_LOW: no instant is committed, printing disarms at once, and every moving axis makes a ramp stop (R175). -/
def execStopNLow (t : Nat) (s0 : State) : Host.Outcome State Fault Refusal :=
  let s := (s0.tick t).advance
  let s1 : State := { s with pos := { s.pos with stopN := false } }
  if s.power.phase ≠ .running then .next s1
  else .next (((s1.disarmNow 7).stopAxes 3 7 8).settleDisarm).settleShutdown

/-- STOP_N_HIGH: STOP_N is accepted high; an arming that waits may be made (R453). -/
def execStopNHigh (t : Nat) (s0 : State) : Host.Outcome State Fault Refusal :=
  let s := (s0.tick t).advance
  .next ({ s with pos := { s.pos with stopN := true } }).tryArm

/-- PRINT_INHIBIT_LOW: no fire instant is committed (R174). -/
def execPrintInhibitLow (t : Nat) (s0 : State) : Host.Outcome State Fault Refusal :=
  let s := (s0.tick t).advance
  .next { s with pos := { s.pos with inhibitN := false } }

/-- PRINT_INHIBIT_HIGH: firing resumes with the first fire position above H (R174). -/
def execPrintInhibitHigh (t : Nat) (s0 : State) : Host.Outcome State Fault Refusal :=
  let s := (s0.tick t).advance
  .next ({ s with pos := { s.pos with inhibitN := true } }).missPassed.tellEnded

/-! ## SET_ENCODER (R142) -/

/-- The setting that a SET_ENCODER carries; slip limits are kept for POS1 only. -/
def encoderOf (e : JEntry) : EncoderSet :=
  { mode := e.p8 1, invert := e.p8 2 == 1, filter := e.p8 3, hysteresis := e.p8 4, pitchDen := e.p16 6, pitchNum := e.p32 8
    stallMs := e.p16 12, slipWarn := if e.p8 0 = 1 then e.p16 14 else 0, slipStop := if e.p8 0 = 1 then e.p16 16 else 0 }

/-- The checks of SET_ENCODER. -/
def encoderChecks (s : State) (e : JEntry) : Checks :=
  { params := [fieldOk 0 (decide (e.p8 0 ≤ 5)), fieldOk 1 (decide (e.p8 1 ≤ 4)), fieldOk 2 (decide (e.p8 2 ≤ 1)),
      fieldOk 3 (decide (e.p8 3 ≤ 63)), fieldOk 4 (decide (e.p8 4 ≤ 15)), fieldOk 6 (decide (1 ≤ e.p16 6)),
      fieldOk 8 (decide (1 ≤ e.p32 8)), fieldOk 12 (decide (1 ≤ e.p16 12 ∧ e.p16 12 ≤ 1000)),
      fieldOk 14 (decide (e.p16 14 ≤ 4095)), fieldOk 16 (decide (e.p16 16 ≤ 4095))]
    busy := if e.p8 0 < 2 then s.pos.armed else !(s.axis (e.p8 0 - 2)).atRest }

/-- SET_ENCODER. -/
def execSetEncoder (seq t : Nat) (s : State) : Host.Outcome State Fault Refusal :=
  .next (s.commandOk t seq 0x0501 false encoderChecks fun s e => ((s.applyEncoder (e.p8 0) (encoderOf e)).zeroTick).checkPrintPosition)

/-! ## SET_LINE_PITCH (R148) -/

/-- The checks of SET_LINE_PITCH. -/
def pitchChecks (s : State) (e : JEntry) : Checks :=
  let s1 : State := { s with pos := { s.pos with lpi := e.p16 0 } }
  { params := fieldOk 0 (e.p16 0 == 600 || e.p16 0 == 1200)
      :: delaysOk (delayFault s.lines.geometry s.depth (s1.distWith s.lines.trims s.lines.registration)
          (s1.delayWith s.lines.trims s.lines.registration))
    busy := s.pos.armed }

/-- SET_LINE_PITCH: the pitch, the reference restarted with tick 0, and every row delay recomputed. -/
def execSetLinePitch (seq t : Nat) (s : State) : Host.Outcome State Fault Refusal :=
  .next (s.commandOk t seq 0x0502 false pitchChecks fun s e => (s.applyPitch (e.p16 0)).zeroTick)

/-! ## ARM_PRINT and DISARM_PRINT (R172, R173) -/

/-- The verdict on ARM_PRINT: the mode rule, the limit after SHUTDOWN_PREPARE, then R172's own order (R305, R306, R317). -/
def State.armRefusal (s : State) : Option (Status × Loc) :=
  if s.power.mode = .hb8 then some (.notInMode, ⟨0, 0⟩)
  else if s.journal.shutDown then some (.busy, ⟨0, 0⟩)
  else s.armVerdict

/-- ARM_PRINT: result word 0 is the arm hoist (R172, R322). -/
def execArmPrint (seq t : Nat) (s0 : State) : Host.Outcome State Fault Refusal :=
  let s := (s0.tick t).advance
  match s.startable seq 0x0505 with
  | none => .next s
  | some _ =>
    match s.armRefusal with
    | some (st, l) => .next (s.refuse seq st l)
    | none =>
      let s1 := s.start seq true
      .next (s1.arm.settleLateDisarms.finish seq .ok 0 (w32i s1.armHoistNow))

/-- Pages held for reprint, and pages that lose their placement and are stored again (R173). -/
def countHeld (a b : List Page) : Nat × Nat :=
  let pairs := a.zip b
  ((pairs.filter fun x => x.1.state != .held && x.2.state == .held).length,
   (pairs.filter fun x => x.2.state == .stored && x.1.first.isSome && x.2.first.isNone).length)

/-- DISARM_PRINT: the end-of-page form or the immediate form; OK at once if printing is not armed (R173, R322). -/
def execDisarmPrint (seq t : Nat) (s : State) : Host.Outcome State Fault Refusal :=
  .next (s.command t seq 0x0506 false true (fun _ e => { params := [fieldOk 0 (decide (e.p8 0 ≤ 1))] }) fun s0 e =>
    let s : State := { s0.advance with power := { s0.power with rearm := false } }
    if !s.pos.armed then s.finish seq .ok
    else
      let s1 : State := { s with pos := { s.pos with disarmSeqs := s.pos.disarmSeqs ++ [seq] } }
      let s2 := if e.p8 0 = 1 then s1.disarmNow 2 else s1.disarmAtEnd
      let n := countHeld s.store.pages s2.store.pages
      let s3 : State := { s2 with pos := { s2.pos with disarmHeld := s.pos.disarmHeld + n.1, disarmStored := s.pos.disarmStored + n.2 } }
      (s3.settleDisarm).settleShutdown)

end Sys2Proof.Machine
end

