-- ==== Sys2Proof/Machine/Axes.lean ====
section
/-!
DEFINITION. Machine/Axes.lean: the motion axes (chapter 11): the port's slots and replies (R335 to R337), servo ticks, staged limits
(R345), limit and home inputs (R347, R349), axis faults (R350) and the axis commands (R327, R328).
-/

namespace Sys2Proof.Machine

/-! ## Motions -/

/-- The level of an input is its active one. -/
def Axis.limitActive (a : Axis) (positive : Bool) : Bool := (if positive then a.limpLevel else a.limnLevel) == a.limitHigh
def Axis.homeActive (a : Axis) : Bool := a.homeLevel == a.homeHigh

/-- The home search is under way, or what goes before it. -/
def Motion.homing (m : Motion) : Bool := m.kind == .homeOff || m.kind == .homeSearch || (m.kind == .stop && m.endStatus == searchNext)

/-- A jog or a home search is commanded in the negative direction; the way off an active HOMEn is the other way (R349). -/
def Motion.goesDown (m : Motion) : Bool := if m.kind == .homeOff then !m.homeNegative else m.homeNegative

/-- The direction an axis moves in at its next set-point, or will start in: positive; none where it does not move. -/
def Axis.goesUp (a : Axis) (m : Motion) : Option Bool :=
  let p := a.at (a.servo + 1)
  if p.2.1 ≠ 0 then some (decide (0 < p.2.1))
  else if p.1 ≠ m.target then some (decide (p.1 < m.target))
  else if p.1 ≠ a.setPoint then some (decide (a.setPoint < p.1))
  else none

/-- A motion takes effect from the present set-point and speed at the next servo tick; the one it replaces ends with CANCELLED
(R328, R338, R342). -/
def State.beginMotion (s : State) (n : Nat) (m : Motion) : State :=
  let a := s.axis n
  match a.limits with
  | none => s
  | some l =>
    let p := a.at (a.servo + 1)
    let m1 := { m with segments := (l.values m.cruise).plan p.1 a.moving m.target, startTick := a.servo + 1, began := a.moving }
    let s1 := s.updAxis n fun a => { a with motion := some m1 }
    match a.motion with
    | some old => match old.seq with
      | some q => s1.finishAxis n q .cancelled old.endDetail
      | none => s1
    | none => s1

/-- A jog's target: the soft limit in its direction, or the present set-point where that lies beyond it (R344). -/
def Axis.jogTarget (a : Axis) (negative : Bool) : Rat :=
  let x := (a.at (a.servo + 1)).1
  match a.limits with
  | none => x
  | some l => if negative then min x (l.softMin : Rat) else max x (l.softMax : Rat)

/-- Set-point, plan and feedback shift together by a change of the home offset (R349). -/
def Axis.shift (a : Axis) (d : Int) : Axis :=
  let move := fun (m : Motion) => { m with target := m.target + d, segments := m.segments.map fun g => { g with pos := g.pos + d } }
  { a with homeOffset := a.homeOffset + d, setCount := a.setCount + d, motion := a.motion.map move }

/-- A ramp stop of a home search, which goes on as its end status says (R349). -/
def State.homeStop (s : State) (n next : Nat) : State :=
  let a := s.axis n
  match a.motion, a.limits with
  | some m, some l =>
    let p := a.at (a.servo + 1)
    let segs := (l.values m.cruise).rampStop p.1 (a.moving.getD 0)
    let m1 := { m with kind := .stop, target := endOf p.1 segs, segments := segs, startTick := a.servo + 1, began := a.moving, endStatus := next, rank := 8 }
    s.updAxis n fun a => { a with motion := some m1, state := .rampStop }
  | _, _ => s

/-- The next set-point of a motion is a moment of rest: its speed is 0 to the rounding of binary64, in which a reversal need not meet 0
exactly (R345; DEDUCED, log 99). -/
def Axis.turns (a : Axis) (m : Motion) : Bool :=
  let p := a.at (a.servo + 1)
  decide (absRat p.2.1 * 2 ^ 50 ≤ absRat p.2.2 * (((a.servo + 1 - m.startTick : Nat) : Rat) * a.period))

/-- Whether a staged set may take effect at the next servo tick: at rest, or at the speed of the tick before (R345). -/
def Axis.steady (a : Axis) : Bool :=
  match a.motion with
  | none => true
  | some m => m.kind != .stop && (a.turns m || (a.at (a.servo + 1)).2.1 == a.speed)

/-- A staged set takes effect: the motion in force is planned again, and one whose target lies outside the new soft limits makes a ramp
stop (R345). -/
def State.takeStaged (s : State) (n : Nat) : State :=
  let a := s.axis n
  match a.staged with
  | none => s
  | some l =>
    if !a.steady then s
    else
      let p := a.at (a.servo + 1)
      let s1 := s.updAxis n fun a => { a with limits := some l, staged := none }
      match a.motion with
      | none => s1
      | some m =>
        let target := if m.kind == .move then m.target else (s1.axis n).jogTarget m.goesDown
        let speed := if a.turns m then a.moving.map fun _ => 0 else a.moving
        let m1 := { m with
          segments := (l.values m.cruise).plan p.1 speed target, startTick := a.servo + 1, began := speed, target := target }
        let s2 := s1.updAxis n fun a => { a with motion := some m1 }
        if target < (l.softMin : Rat) ∨ (l.softMax : Rat) < target then s2.rampStop n 7 7 2#32 else s2

/-- HOMEn is found in a search: the home offset makes the position at this sample the assigned one, and the axis makes a ramp stop (R349). -/
def State.foundHome (s : State) (n : Nat) (m : Motion) : State :=
  (s.updAxis n fun a => a.shift (m.homeAt - s.axisPosition n)).homeStop n homedNext

/-- The search of AXIS_HOME toward HOMEn, whose first sample may show it active already (R349). -/
def State.beginSearch (s : State) (n : Nat) (m : Motion) : State :=
  let s1 := s.beginMotion n { m with kind := .homeSearch, target := (s.axis n).jogTarget m.homeNegative, endStatus := 0, endDetail := 0, rank := 9 }
  if (s1.axis n).homeActive then s1.foundHome n m else s1

/-- A motion has come to its end at a servo tick: its command completes, or a home search goes on. -/
def State.motionDone (s : State) (n : Nat) (m : Motion) : State :=
  match m.kind with
  | .move | .jog => s.endMotion n .ok 0
  | .homeOff | .homeSearch => s.endMotion n .unitFenced 0
  | .stop =>
    if m.endStatus = searchNext then
      if !s.pos.stopN then s.endMotion n .cancelled 8#32
      else if (s.axis n).faultStop then s.endMotion n .cancelled 16#32
      else
        -- at rest: a staged set takes effect before the search is planned
        let s1 := (s.updAxis n fun a => { a with motion := none, speed := 0 }).takeStaged n
        s1.beginSearch n m
    else if m.endStatus = homedNext then (s.updAxis n fun a => { a with homed := true }).endMotion n .ok 0
    else s.endMotion n (motionStatus m.endStatus) m.endDetail

/-! ## Faults and limits (R347, R348, R350) -/

/-- An axis fault: a ramp stop, and no motion until RESET_UNIT; AX0 disarms printing (R350, R351). -/
def State.axisFaultAs (s : State) (d : Detection) : State :=
  let n := d.unit
  s.unlessShadowed d fun s =>
    let s1 := s.updAxis n fun a => { a with faultStop := true, folErr := d.code == 0x0A01, state := if a.atRest then .faultStop else a.state }
    let s2 := (s1.detect d).rampStop n 2 7 16#32
    if n = 0 then s2.checkPrintPosition else s2

/-- An axis fault that carries its code and axis alone. -/
def State.axisFault (s : State) (n code : Nat) : State := s.axisFaultAs { code := code, unit := n }

/-- A limit input stops a motion in its direction: at once, or by a ramp stop (R347). -/
def State.applyLimit (s : State) (n : Nat) : State :=
  let a := s.axis n
  match a.motion with
  | none => s
  | some m =>
    match a.goesUp m with
    | none => s
    | some up =>
      if !a.limitActive up then s
      else
        let status := if m.homing then 0xB else 7
        if (if up then a.rampP else a.rampN) then s.rampStop n 4 status 4#32 else s.hardStop n status 0x20#32

/-! ## Servo ticks (R336, R338, R345, R350) -/

/-- The following error at a servo tick (R350); FOLMAX reports it in counts, half up (R508). -/
def State.checkFollowing (s : State) (n : Nat) : State :=
  let a := s.axis n
  let e := absRat (a.setPoint - (s.axisPosition n : Rat))
  let s1 := s.updAxis n fun a => { a with folMax := max a.folMax (min 65535 (roundHalfUp e).toNat) }
  if a.followLimit ≠ 0 ∧ (a.followLimit : Rat) < e then s1.axisFault n 0x0A01 else s1

/-- The state that a set-point speed and its change show. -/
def Axis.stateOf (a : Axis) (v acc : Rat) : AxisState :=
  match a.motion with
  | none => a.restState
  | some m =>
    if m.kind = .stop then .rampStop
    else if 0 < v * acc ∨ (v = 0 ∧ acc ≠ 0) then .rising
    else if v * acc < 0 then .falling else .constant

/-- The set-point of the next servo period is worked out, rounded half up to 1/65,536 count (R338). -/
def State.nextSetPoint (s : State) (n : Nat) : State :=
  s.updAxis n fun a =>
    let p := a.at (a.servo + 1)
    let x := (fMul p.1 65536 + 1 / 2).floor
    { a with
      servo := a.servo + 1, setCount := x.fdiv 65536, setFrac := (x.fmod 65536).toNat, speed := p.2.1, state := a.stateOf p.2.1 p.2.2
      negative := if p.2.1 = 0 then a.negative else decide (p.2.1 < 0) }

/-- A servo tick of an axis: the plan's end, the following error, the limits, a staged set, and the next set-point. -/
def State.servoTick (s : State) (n : Nat) : State :=
  let a := s.axis n
  let s1 := match a.motion with
    | none => s
    | some m =>
      if m.startTick ≤ a.servo ∧ planOver m.segments (fMul ((a.servo - m.startTick : Nat) : Rat) a.period) then s.motionDone n m else s
  (((s1.checkFollowing n).applyLimit n).takeStaged n).nextSetPoint n

/-- The 8 bytes of a slot (R336). -/
def Axis.slot (a : Axis) (n type : Nat) : List Byte :=
  let b := leBytes 1 (n + 4 * type + 16 * (a.servo % 16)) ++ leBytes 4 (BitVec.ofInt 32 a.setCount).toNat ++ leBytes 2 a.setFrac
  b ++ [crc8 b]

/-- A slot goes out, and a reply is awaited. -/
def State.sendSlot (s : State) (n type : Nat) : State :=
  (s.updAxis n fun a => { a with lastType := type, lastServo := a.servo % 16, replied := false }).emit (.axisSlot n ((s.axis n).slot n type))

/-- The slot of an axis in a port cycle: set-point in every m-th cycle since its AXIS_CONFIG, hold in the others, disable while it is
unconfigured (R333, R336). -/
def State.cycleAxis (s : State) (n : Nat) : State :=
  let a := s.axis n
  if !a.configured then s.sendSlot n 2
  else
    let s1 := s.updAxis n fun a => { a with cycles := a.cycles + 1 }
    if a.cycles % max 1 a.m = 0 then (s1.servoTick n).sendSlot n 1 else s1.sendSlot n 0

/-- PORT_CYCLE: at each multiple of 31.25 µs of device time, outside the resets (R335, R337). -/
def execPortCycle (t : Nat) (s0 : State) : Host.Outcome State Fault Refusal :=
  let s := s0.tick t
  if s.power.phase = .powerOnReset ∨ s.power.phase = .warmReset ∨ s.power.phase = .retuned ∨ s.now / 31250 < s.axisCycle then .next s
  else
    let s1 : State := { s with axisCycle := s.now / 31250 + 1 }
    .next ((List.range 4).foldl State.cycleAxis s1)

/-! ## Replies (R337, R350) -/

/-- A bad reply: counted, and the third in a row is an axis fault. -/
def State.badAxisReply (s : State) (n : Nat) : State :=
  let s1 := s.updAxis n fun a => { a with badReply := min 65535 (a.badReply + 1), badRun := a.badRun + 1, replied := true }
  let s2 := s1.countShot 0x0F n
  if (s2.axis n).badRun = 3 then s2.axisFault n 0x0A03 else s2

/-- Whether a reply is good: its first byte, its CRC-8, and after a set-point slot the count echoed. -/
def Axis.replyOk (a : Axis) (n : Nat) (b : List Byte) : Bool :=
  b.length == 4 && leAt b 0 1 == 0x50 + n && b.getD 3 0 == crc8 (b.take 3) && (a.lastType != 1 || bits (leAt b 2 1) 0 4 == a.lastServo)

/-- DRIVE_REPLY. -/
def execDriveReply (ax : Fin 4) (bytes : List Byte) (t : Nat) (s0 : State) : Host.Outcome State Fault Refusal :=
  let s := s0.tick t
  let n := ax.val
  let a := s.axis n
  if a.replied then .next s
  else if !a.replyOk n bytes || s.shotAt 0x0F n then .next (s.badAxisReply n)
  else
    let f := leAt bytes 1 1
    let s1 := s.updAxis n fun a => { a with
      replied := true, badRun := 0, drvEnabled := bitOf f 0, drvFault := bitOf f 1, drvWarning := bitOf f 2 }
    .next (if bitOf f 1 then s1.axisFault n 0x0A02 else s1)

/-- AXIS_REPLY_WINDOW_END: no start bit came in the window (R337). -/
def execAxisReplyWindowEnd (ax : Fin 4) (t : Nat) (s0 : State) : Host.Outcome State Fault Refusal :=
  let s := s0.tick t
  if (s.axis ax.val).replied then .next s else .next (s.badAxisReply ax.val)

/-! ## Inputs and the end of a jog (R344, R347, R349) -/

/-- LIMIT_INPUT: an accepted level of a limit input. -/
def execLimitInput (ax : Fin 4) (positive level : Bool) (t : Nat) (s0 : State) : Host.Outcome State Fault Refusal :=
  let s := s0.tick t
  let s1 := s.updAxis ax.val fun a => if positive then { a with limpLevel := level } else { a with limnLevel := level }
  .next (s1.applyLimit ax.val)

/-- HOME_INPUT: an accepted level of HOMEn. -/
def execHomeInput (ax : Fin 4) (level : Bool) (t : Nat) (s0 : State) : Host.Outcome State Fault Refusal :=
  let s := s0.tick t
  let n := ax.val
  let s1 := s.updAxis n fun a => { a with homeLevel := level }
  let a := s1.axis n
  match a.motion with
  | none => .next s1
  | some m =>
    if m.kind == .homeOff && !a.homeActive then .next (s1.homeStop n searchNext)
    else if m.kind == .homeSearch && a.homeActive then
      .next (s1.foundHome n m)
    else .next s1

/-- JOG_END: the duration of a jog ends (R344). -/
def execJogEnd (ax : Fin 4) (t : Nat) (s0 : State) : Host.Outcome State Fault Refusal :=
  let s := s0.tick t
  match (s.axis ax.val).motion with
  | none => .next s
  | some m => if m.kind == .jog && m.endsAt.any (fun e => decide (e ≤ s.now)) then .next (s.rampStop ax.val 8 0 0) else .next s

/-! ## Commands (R327, R328, R333, R339 to R349) -/

/-- P0 names an axis. -/
def axisOk (e : JEntry) : Cond := fieldOk 0 (decide (e.p8 0 ≤ 3))

/-- The checks of AXIS_CONFIG. -/
def axisConfigChecks (s : State) (e : JEntry) : Checks :=
  { params := [axisOk e, fieldOk 1 (decide (1 ≤ e.p8 1 ∧ e.p8 1 ≤ 32))], busy := !(s.axis e.axis).atRest }

/-- AXIS_CONFIG: the axis is at rest with its set-point at its present position, and its drive is enabled (R333, R336). -/
def execAxisConfig (seq t : Nat) (s : State) : Host.Outcome State Fault Refusal :=
  .next (s.command t seq 0x0901 false true axisConfigChecks fun s e =>
    let n := e.axis
    let s1 := s.updAxis n fun a => { a with
      state := a.restState, configured := true, m := e.p8 1, rampP := bitOf (e.p8 2) 0, rampN := bitOf (e.p8 2) 1, limitHigh := bitOf (e.p8 2) 2
      homeHigh := bitOf (e.p8 2) 3, printPos := e.s32 4, tolerance := e.p32 8, followLimit := e.p32 12
      setCount := s.axisPosition n, setFrac := 0, speed := 0, badReply := 0, folMax := 0, badRun := 0, cycles := 0 }
    let s2 := s1.finishAxis n seq .ok
    if n = 0 then s2.checkPrintPosition else s2)

/-- A motion command is denied (R328, R348). -/
def State.motionDenied (s : State) (n : Nat) : Bool :=
  let a := s.axis n
  !s.pos.stopN || a.faultStop || (n == 0 && s.pos.armed) || a.motion.any fun m => m.kind == .stop && (m.rank == 2 || m.rank == 3)

/-- An axis is not ready for motion commands (R333). -/
def State.motionUnready (s : State) (n : Nat) : Bool := !(s.axis n).configured || (s.axis n).limits.isNone

/-- A motion leads anywhere at all. -/
def Axis.moves (a : Axis) (m : Motion) : Bool := (a.at (a.servo + 1)).1 != m.target

/-- A stop of this servo period, of a higher place in R348 than a motion command. -/
def Axis.stopFirst (a : Axis) : Option Motion := a.motion.filter fun m => m.kind == .stop && m.startTick == a.servo + 1 && decide (m.rank ≤ 5)

/-- A motion command starts, unless its direction leads into an active limit: then it ends at once (R347), as it does where a stop of the
same servo period stands above it (R348). -/
def State.startMotion (s : State) (n seq : Nat) (m : Motion) (up : Bool) : State :=
  if let some stop := (s.axis n).stopFirst then s.finishAxis n seq .cancelled stop.endDetail
  else if (s.axis n).limitActive up && (s.axis n).moves m then s.finishAxis n seq .cancelled 4#32
  else s.beginMotion n { m with seq := some seq }

/-- The target of an AXIS_MOVE: absolute, or from the present set-point. -/
def State.moveTarget (s : State) (e : JEntry) : Rat :=
  let d : Rat := (e.s32 4 : Rat) + (e.p16 8 : Rat) / 65536
  let a := s.axis e.axis
  if e.p8 1 = 1 then (a.at (a.servo + 1)).1 + d else d

/-- The checks of AXIS_MOVE. -/
def axisMoveChecks (s : State) (e : JEntry) : Checks :=
  let x := s.moveTarget e
  let inside := match (s.axis e.axis).limits with
    | none => true
    | some l => decide ((l.softMin : Rat) ≤ x ∧ x ≤ (l.softMax : Rat))
  { denied := s.motionDenied e.axis, params := [axisOk e, fieldOk 1 (decide (e.p8 1 ≤ 1)), fieldOk 4 inside], noResource := s.motionUnready e.axis }

/-- AXIS_MOVE (R340 to R343). -/
def execAxisMove (seq t : Nat) (s : State) : Host.Outcome State Fault Refusal :=
  .next (s.command t seq 0x0902 false true axisMoveChecks fun s e =>
    let x := s.moveTarget e
    let a := s.axis e.axis
    let m : Motion := { kind := .move, seq := none, target := x, cruise := e.p32 12, segments := [], startTick := 0 }
    s.startMotion e.axis seq m (decide ((a.at (a.servo + 1)).1 < x)))

/-- The checks of AXIS_JOG and AXIS_HOME. -/
def axisJogChecks (s : State) (e : JEntry) : Checks :=
  { denied := s.motionDenied e.axis, params := [axisOk e, fieldOk 1 (decide (e.p8 1 ≤ 1)), fieldOk 4 (e.p32 4 != 0)], noResource := s.motionUnready e.axis }

/-- AXIS_JOG (R344). -/
def execAxisJog (seq t : Nat) (s : State) : Host.Outcome State Fault Refusal :=
  .next (s.command t seq 0x0903 false true axisJogChecks fun s e =>
    let neg := e.p8 1 == 1
    let m : Motion := {
      kind := .jog, seq := none, target := (s.axis e.axis).jogTarget neg, cruise := e.p32 4, segments := [], startTick := 0
      homeNegative := neg, endsAt := if e.p32 8 = 0 then none else some (s.now + e.p32 8 * 1000000) }
    s.startMotion e.axis seq m (!neg))

/-- AXIS_HOME: away from an active HOMEn first, then the search (R349). -/
def execAxisHome (seq t : Nat) (s : State) : Host.Outcome State Fault Refusal :=
  .next (s.command t seq 0x0905 false true axisJogChecks fun s e =>
    let neg := e.p8 1 == 1
    let a := s.axis e.axis
    let off := a.homeActive
    let m : Motion := {
      kind := if off then .homeOff else .homeSearch, seq := none, target := a.jogTarget (neg != off), cruise := e.p32 4, segments := []
      startTick := 0, homeNegative := neg, homeAt := e.s32 8 }
    s.startMotion e.axis seq m (neg == off))

/-- AXIS_STOP on one axis: a ramp stop. Where R328 has every motion command of the axis complete with CANCELLED, R344 has a jog complete with
OK: DEDUCED (log 80), the rule of the jog itself holds for it. -/
def State.stopAxis (s : State) (n seq : Nat) : State :=
  let jog := (s.axis n).motion.any fun m => m.kind == .jog
  (s.updAxis n fun a => { a with stops := a.stops ++ [seq] }).rampStop n 5 (if jog then 0 else 7) 0

/-- AXIS_STOP. -/
def execAxisStop (seq t : Nat) (s : State) : Host.Outcome State Fault Refusal :=
  .next (s.command t seq 0x0904 false true (fun _ e => { params := [fieldOk 0 (decide (e.p8 0 ≤ 3) || e.p8 0 == 0xFF)] }) fun s e =>
    let l := if e.p8 0 = 0xFF then [0, 1, 2, 3] else [e.axis]
    l.foldl State.settleStops (l.foldl (fun s n => s.stopAxis n seq) s))

/-- The limits that the parameters give. -/
def JEntry.axisLimits (e : JEntry) : AxisLimits :=
  { start := e.p32 4, stop := e.p32 8, brk := e.p32 12, cruise := e.p32 16, a1 := e.p32 20, a2 := e.p32 24, d2 := e.p32 28, d1 := e.p32 32
    softMin := e.s32 36, softMax := e.s32 40 }

/-- The checks of AXIS_SET_LIMITS. -/
def axisLimitsChecks (_ : State) (e : JEntry) : Checks :=
  let l := e.axisLimits
  { params := [axisOk e, fieldOk 4 (decide (l.start ≤ l.brk)), fieldOk 8 (decide (l.stop ≤ l.brk)), fieldOk 12 (decide (l.brk ≤ l.cruise)),
      fieldOk 20 (decide (0 < l.a1)), fieldOk 24 (decide (0 < l.a2)), fieldOk 28 (decide (0 < l.d2)), fieldOk 32 (decide (0 < l.d1)),
      fieldOk 36 (decide (l.softMin < l.softMax))] }

/-- AXIS_SET_LIMITS: staged while the set-point speed changes (R345). -/
def execAxisSetLimits (seq t : Nat) (s : State) : Host.Outcome State Fault Refusal :=
  .next (s.command t seq 0x0906 false true axisLimitsChecks fun s e =>
    let n := e.axis
    let wait := !(s.axis n).steady
    let s1 := (s.updAxis n fun a => { a with staged := some e.axisLimits }).takeStaged n
    s1.finishAxis n seq .ok (w32 (b2n wait)))

end Sys2Proof.Machine
end

