-- ==== Sys2Proof/Machine/Sdram.lean ====
section
/-!
DEFINITION. Machine/Sdram.lean: the SDRAM controller while in service (R359, R361, R362, R366 to R368):
errors and their effects, and the commands of its periodic tasks.
-/

namespace Sys2Proof.Machine

/-! ## Errors (R367, R368) -/

/-- The controller's counts and last error (DMC_ECCA, DMC_ECCB, DMC_LASTERR). -/
def Dmc.count (d : Dmc) (e : SdramError) : Dmc :=
  let b := bitOf e.addr 7
  let d1 : Dmc := { d with lastAddr := e.addr % 2 ^ 36 / 64 * 64, lastKind := match e.kind with | .corrected => 1 | .uncorrectable => 2 | .address => 3 }
  match e.kind, b with
  | .corrected, false => { d1 with corrA := min (d.corrA + 1) 65535 }
  | .corrected, true => { d1 with corrB := min (d.corrB + 1) 65535 }
  | .uncorrectable, false => { d1 with uncorrA := min (d.uncorrA + 1) 255 }
  | .uncorrectable, true => { d1 with uncorrB := min (d.uncorrB + 1) 255 }
  | .address, false => { d1 with addrA := min (d.addrA + 1) 255 }
  | .address, true => { d1 with addrB := min (d.addrB + 1) 255 }

/-- The error that a shot brings to the burst at an address, for its region (R382, R383). -/
def State.sdramShot (s : State) (addr : Nat) : Option SdramError :=
  let region := s.dmc.region addr
  if s.shotAt 0x11 region then some { addr := addr, kind := .address }
  else (s.shot? 0x10 region).map fun i => { addr := addr, kind := if i.double then .uncorrectable else .corrected }

/-- An error met by a read of a class of R360: counted, and its fault, with the region as unit (R367, R372). -/
def State.sdramError (s : State) (cls : Nat) (e : SdramError) : State :=
  let region := s.dmc.region e.addr
  let s1 := ({ s with dmc := s.dmc.count e }).sdramRequests [(cls, e.addr)]
  match e.kind with
  | .corrected => s1.fault 0x0B01 region
  | _ => s1.fault (if region = 4 then 0x0B03 else 0x0B02) region

/-- An uncorrectable record in the spill is dropped. Before its commit it is counted as overflow, and leaves the buffer with that; one that
has reached the flash stays there (R368, R401, R406). -/
def State.dropSpill (s : State) (slot : Nat) : State :=
  match s.evt.spill.find? (fun r => r.seq % 524288 == slot) with
  | none => s
  | some r =>
    let held := s.evt.buffer.any (·.record.seq == r.seq)
    let s1 : State := { s with evt := { s.evt with
      spill := s.evt.spill.filter fun x => x.seq % 524288 != slot
      buffer := s.evt.buffer.filter (·.record.seq != r.seq) } }
    if held then s1.overflowed else s1

/-- An uncorrectable period record reads as 0xFFE throughout (R368). -/
def State.loseHistory (s : State) (slot : Nat) : State :=
  { s with loop := { s.loop with history := s.loop.history.map fun p =>
    if (p.k % 2728).toNat = slot then { p with unreadable := true } else p } }

/-- What lies in the bulk area: exports by their sequences, and the legacy raster, as the lines of the open page and those that wait for
space (R71, R495). -/
inductive BulkItem where
  | exporting (seq : Nat)
  | openPage
  | waiting
deriving DecidableEq, Repr

/-- The items of the bulk area now. -/
def State.bulkItems (s : State) : List BulkItem :=
  let exports := s.codec.jobs.filter fun j => s.codec.lanesWaiting.any (fun w => w.user == .exporting j.seq) ||
    s.codec.lanes.any fun l => l.work.any fun w => w.user == .exporting j.seq
  (exports.map fun j => .exporting j.seq) ++ (if s.hb.openPage.isEmpty then [] else [.openPage])
  ++ (if s.hb.lines.any (·.place.isNone) then [.waiting] else [])

/-- An item of the bulk area is dropped, and event 0x8B03 names an export by its sequence (R368). For the status that a dropped export
completes with the manual names none. Lines that wait keep their places, and print level 0. -/
def State.dropItem (s : State) (x : BulkItem) : State :=
  match x with
  | .exporting seq =>
    let s1 : State := { s with codec := { s.codec with
      jobs := s.codec.jobs.filter fun x => x.seq != seq
      lanesWaiting := s.codec.lanesWaiting.filter fun w => w.user != .exporting seq
      lanes := s.codec.lanes.map fun l => if l.work.any (fun w => w.user == .exporting seq) then { l with work := none } else l } }
    let r := (s1.info 0x8B03 0 (w32 seq)).freeFailure
    r.2.finish seq r.1
  | .openPage =>
    let lines := s.hb.openPage.map (·.1)
    let s1 : State := { s with hb := { s.hb with
      openPage := [], lines := s.hb.lines.filter fun x => x.place.all fun l => !lines.any (· == l) } }
    (s1.info 0x8B03 0 0).hbErr 16
  | .waiting =>
    let blank := fun (x : LegacyLine) => if x.place.isNone then { x with bytes := List.replicate x.bytes.length 0 } else x
    (({ s with hb := { s.hb with lines := s.hb.lines.map blank } }).info 0x8B03 0 0).hbErr 16

/-- An uncorrectable error in the bulk area: the item concerned is dropped; which one lies at an address is a free value (R368). -/
def State.dropBulk (s : State) : State :=
  let l := s.bulkItems
  match l[Config.freeNat s.free % max 1 l.length]? with
  | none => s
  | some x => ({ s with free := s.free + 1 }).dropItem x

/-- An uncorrectable error in a slot of the journal's ring: device firmware rewrites an accepted or running entry; a final one stays with a
failing check word (R297, R368). -/
def State.tearEntry (s : State) (slot : Nat) : State :=
  { s with
    free := s.free + 1
    journal := { s.journal with entries := s.journal.entries.map fun e =>
      if e.seq % 65536 = slot ∧ s.inRing e ∧ e.state.final then { e with torn := some s.free } else e } }

/-- PATROL_SCRUB: the scrubber reads words of the SDRAM, in an order that is not given: a free value; an uncorrectable one has the effect of its region (R368). In the firmware
region the word is rewritten; in the page blocks the page fails where inflow or verification meets it. -/
def execPatrolScrub (err : Option SdramError) (t : Nat) (s0 : State) : Host.Outcome State Fault Refusal :=
  let s := s0.tick t
  if !s.dmc.trained || s.dmc.selfRefresh then .next s
  else
    let a := Config.freeNat s.free * 64 % max 1 s.dmc.top
    match err.or (s.sdramShot a) with
    | none => .next (({ s with free := s.free + 1 }).sdramRequests [(5, a)])
    | some e =>
      let s1 := ({ s with free := s.free + 1 }).sdramError 5 e
      if e.kind = .corrected then .next s1
      else match s.dmc.region e.addr with
        | 1 => .next (if e.addr < 0x4000000 + 65536 * 64 then s1.tearEntry ((e.addr - 0x4000000) / 64) else s1)
        | 2 => .next (s1.dropSpill ((e.addr - 0x8000000) / 32))
        | 3 => .next (s1.loseHistory ((e.addr - 0x9000000) / 196608))
        | 5 => .next s1.dropBulk
        | _ => .next s1

/-! ## Periodic tasks (R359, R361, R362, R366) -/

/-- REFRESH_DUE: the bank's row is closed on the ranks of the channel, and an element of group 2 of that channel may switch in
the slot; what waits is served (R359 to R361, R420). -/
def execRefreshDue (ch : Fin 2) (bank : Fin 16) (t : Nat) (s0 : State) : Host.Outcome State Fault Refusal :=
  let s := s0.tick t
  if !s.sdramOn then .next s
  else
    let d := s.dmcNow
    let s1 : State := { s with dmc := { d with banks := d.banks.filter fun b => !(b.rank / 2 == ch.val && b.bank == bank.val) } }
    .next ((s1.switchSdram ch.val).sdramRequests [])

/-- MR4_READ: every 32 ms; a device above 85 °C doubles the refresh rate (R361). -/
def execMr4Read (hot : Bool) (t : Nat) (s0 : State) : Host.Outcome State Fault Refusal :=
  let s := s0.tick t
  if !s.sdramOn || decide (s.now < s.dmc.mr4At + 32000000) then .next s
  else .next { s with dmc := { s.dmc with doubleRefresh := hot, mr4At := s.now } }

/-- ZQ_CALIBRATION: started on a rank every 128 ms (R366). -/
def execZqCalibration (rank : Fin 4) (t : Nat) (s0 : State) : Host.Outcome State Fault Refusal :=
  let s := s0.tick t
  if !s.sdramOn || decide (s.now < Tbl.get 0 s.dmc.zqAt rank.val + 128000000) then .next s
  else .next { s with dmc := { s.dmc with zqAt := Tbl.put 0 s.dmc.zqAt rank.val s.now } }

/-- DQS_OSCILLATOR_READ: every 1 ms; the read timing of a lane that has drifted by 1/64 UI or more is moved with it (R366). `drift` is in
1/64 UI by lane. -/
def execDqsOscillatorRead (drift : List Int) (t : Nat) (s0 : State) : Host.Outcome State Fault Refusal :=
  let s := s0.tick t
  if !s.sdramOn || decide (s.now < s.dmc.oscAt + 1000000) then .next s
  else .next { s with dmc := { s.dmc with
    oscAt := s.now
    timing := (List.range (max drift.length s.dmc.timing.length)).map fun i => Tbl.get 0 s.dmc.timing i + Tbl.get 0 drift i } }

/-- BANK_IDLE_TIMEOUT: a row whose bank has been idle for the page idle limit is closed (R359). A controller cycle is 1/1.4 ns, and
1/1.2 ns at 4800 MT/s. -/
def execBankIdleTimeout (rank : Fin 4) (bank : Fin 16) (t : Nat) (s0 : State) : Host.Outcome State Fault Refusal :=
  let s := s0.tick t
  let mhz := if s.dmc.rate4800 then 1200 else 1400
  let d := s.dmcNow
  .next { s with dmc := { d with banks := d.banks.filter fun b =>
    !(b.rank == rank.val && b.bank == bank.val && decide (s.dmc.idle * 1000 ≤ (s.now - b.since) * mhz)) } }

/-- The pages of the store that a hoist within the lead needs (R362). -/
def State.pagesInLead (s : State) : List Page :=
  if !s.pos.armed then []
  else s.store.pages.filter fun p => p.places.any fun f =>
    decide (f < 64 * (s.pos.tick + s.leadInForce + 1)) && decide (64 * s.pos.tick ≤ f + s.linesOf p)

/-- Whether one of them has a block in a rank; a page lies in both channels, by bit 7 of the address (R355). -/
def State.rankNeeded (s : State) (rank : Nat) : Bool :=
  s.pagesInLead.any fun p => (List.range p.blocks).any fun i => s.dmc.rankOf (s.blockAddress p.seq i) % 2 == rank % 2

/-- POWER_DOWN_ENTRY: a rank idle for the power-down delay enters precharge power-down, its rows closed, unless it holds a page that a hoist
within the lead needs; a delay of 0 disables it (R359, R362). -/
def execPowerDownEntry (rank : Fin 4) (t : Nat) (s0 : State) : Host.Outcome State Fault Refusal :=
  let s := s0.tick t
  let d := s.dmcNow
  let mhz := if d.rate4800 then 1200 else 1400
  if !s.sdramOn || d.powerDownDelay == 0 || (rank.val % 2 == 1 && !d.ranks2)
      || decide ((s.now - Tbl.get 0 d.rankSince rank.val) * mhz < d.powerDownDelay * 64 * 1000) then .next s
  else if s.rankNeeded rank.val then .next s
  else .next { s with dmc := { d with
    powerDown := d.powerDown ||| BitVec.ofNat 4 (2 ^ rank.val), banks := d.banks.filter fun b => b.rank != rank.val } }

end Sys2Proof.Machine
end

