-- ==== Sys2Proof/Machine/Codec.lean ====
section
/-!
DEFINITION. Machine/Codec.lean: the compression engine at work (R57 to R64, R69 to R71): which frame a decompression unit
takes, what a decoded frame does for replay, inflow, verification and DECOMPRESS_JOB, frames of the compression lanes, and
the commands COMPRESS_JOB and DECOMPRESS_JOB.
-/

namespace Sys2Proof.Machine

/-! ## Choosing a frame (R57) -/

/-- A unit works for a user. -/
def State.decoding (s : State) (u : DecodeUser) : Bool := s.codec.units.any fun x => x.work.any fun w => w.user == u

/-- The offset of the frame of a page that comes next. -/
def Page.nextOffset (p : Page) : Nat := (p.frames.getLast?.map (·.next)).getD 0

/-- The next frame of a page, for inflow or verification. -/
def Page.nextWork (p : Page) (u : DecodeUser) : DecodeWork :=
  { user := u, frame := p.frames.length, offset := p.nextOffset, produced := p.raster.length }

/-- Whether a hoist takes from a page, placed at a line, what inflow has still to decode: rows of it, or, with its last row, what the stream
holds up to the LAST frame, which rules 5 and 7 of R44 and R62 have checked. -/
def State.inflowNeeds (s : State) (p : Page) (f k : Int) : Bool :=
  let n := s.rowsNeeded p f k
  decide (s.rowsDecoded p < n) || (decide (n = p.rows) && !(p.frames.getLast?.any (·.last)))

/-- Pages whose rows inflow needs now: for every hoist up to the one after the window opened last (R79), in line order. A hoist whose window
has opened is rendered whole, be a page of it cancelled (R40). -/
def State.inflowPages (s : State) : List Page :=
  if !s.pos.armed then []
  else
    let k := s.nextWindow
    sortBy (fun p => p.first.getD 0) (s.store.pages.filter fun p =>
      p.failedRow.isNone && !s.decoding (.inflow p.seq) &&
      (p.places.any (fun f => decide (f < 64 * k + 64) && s.inflowNeeds p f k) ||
        s.render.hoists.any fun h => !h.draining && h.pages.any fun x => x.1 == p.seq && s.inflowNeeds p x.2 h.k))

/-- Pages to verify (R41), in sequence order. -/
def State.verifyPages (s : State) : List Page :=
  sortBy (fun p => (p.seq : Int)) (s.store.pages.filter fun p =>
    p.state == .verifying && !p.verified && p.failure.isNone && !s.decoding (.verify p.seq))

/-- The frame of the highest priority that waits. -/
def State.nextDecode (s : State) : Option DecodeWork :=
  match s.codec.waiting, s.inflowPages, s.verifyPages with
  | w :: _, _, _ => some w
  | [], p :: _, _ => some (p.nextWork (.inflow p.seq))
  | [], [], p :: _ => some (p.nextWork (.verify p.seq))
  | [], [], [] =>
    (s.codec.jobs.find? fun j => j.decode && !s.decoding (.job j.seq)).map fun j =>
      { user := .job j.seq, frame := j.total, offset := j.next, produced := j.output.length }

/-- The unit that takes it: a free one, or the one with the lowest priority below it, whose frame is abandoned and decoded
again later. -/
def State.unitFor (s : State) (w : DecodeWork) : Option Nat :=
  let ready := (List.range 4).filter fun u => (s.unit u).state == .inService
  match ready.find? fun u => (s.unit u).work.isNone with
  | some u => some u
  | none =>
    leastBy (fun u => -((((s.unit u).work.map (·.user.rank)).getD 0 : Nat) : Int))
      (ready.filter fun u => (s.unit u).work.any fun x => decide (w.user.rank < x.user.rank))

/-- DECOMPRESS_FRAME_START: a decompression unit takes the next frame by priority (R57). -/
def execDecompressFrameStart (t : Nat) (s0 : State) : Host.Outcome State Fault Refusal :=
  let s := s0.tick t
  if s.power.phase ≠ .running then .next s
  else match s.nextDecode with
    | none => .next s
    | some w => match s.unitFor w with
      | none => .next s
      | some u =>
        let s1 := s.updUnit u fun x => { x with work := some w }
        .next { s1 with codec := { s1.codec with waiting := s1.codec.waiting.filter (· != w) } }

/-! ## A frame of a page (R59 to R63) -/

/-- What decides on the frames of a page: its first frame's width and depth are those of the configured input. -/
def State.pageContext (s : State) (w : DecodeWork) : PsfContext :=
  let own := s.render.format.map fun f => (f.wIn, kindBpp f.kind)
  { first := if w.frame = 0 then none else own, configured := own, page := true }

/-- The page size of rule 7 of R44. -/
def State.pageBytes (s : State) (p : Page) : Nat := p.rows * s.inputRowBytes

/-- A frame of a page is decoded; an uncorrectable SDRAM error in the burst at offset `bad` is reason 0x0D, where the frame reaches
it before any other failure (R61, R62). DESIGN CHOICE (log 84): where the burst begins at or inside the item that also fails, the item's own
reason is reported. -/
def State.pageFrame (s : State) (p : Page) (w : DecodeWork) (bad : Option Nat) : Except PsfStop PsfFrame :=
  let left := s.pageBytes p - w.produced
  let r := decodeFrame (s.pageContext w) p.stream w.offset left (some left)
  match bad with
  | none => r
  | some b =>
    let reached := match r with
      | .ok f => decide (b < f.next)
      | .error (.bad _ o) => decide (b < o)
      | .error (.limit o) => decide (b < o)
    if reached && decide (w.offset ≤ b + 63) then .error (.bad 0x0D b) else r

/-- The stream offset that a frame's decoding has read up to. -/
def readUpTo (r : Except PsfStop PsfFrame) : Nat :=
  match r with
  | .ok f => f.next
  | .error (.bad _ o) => o + 1
  | .error (.limit o) => o + 1

/-- The reads of a frame of a page go to the SDRAM in a class of R360; a burst in error among them is counted, and raises its fault
(R367). -/
def State.readFrame (s : State) (cls : Nat) (p : Page) (w : DecodeWork) (bad : Option (Nat × SdramError)) (r : Except PsfStop PsfFrame) : State :=
  let s1 := s.pageTraffic cls p.seq w.offset (readUpTo r)
  match bad with
  | some (b, e) => if decide (b < readUpTo r) && decide (w.offset ≤ b + 63) then s1.sdramError cls e else s1
  | none => s1

/-- The offset of a burst whose error cannot be corrected; a corrected one changes nothing of the frame (R367). -/
def spoilt (bad : Option (Nat × SdramError)) : Option Nat := (bad.filter fun x => x.2.kind != .corrected).map (·.1)

/-- A stop as a page's failure: reason, frame and offset, and whether it is the output limit. -/
def PsfStop.failure (e : PsfStop) (frame : Nat) : (Nat × Nat × Nat) × Bool :=
  match e with
  | .bad r o => ((r, frame, o), false)
  | .limit o => ((0, frame, o), true)

/-- The bound of a stripe-hoist whose slice has just arrived counts from now (R101). -/
def State.slicesArrived (before after : State) : State :=
  let arrived := fun (k : Int) => match before.hoist? k, after.hoist? k with
    | some a, some b => !before.sliceReady a && after.sliceReady b
    | _, _ => false
  let touch := fun (w : PennantWork) => if arrived w.hoist then { w with since := after.now } else w
  { after with render := { after.render with
    pennants := after.render.pennants.map fun p => { p with work := p.work.map touch } } }

/-- The bound of a stripe-hoist that is decoded again counts from now where its last frame has just been decoded (R101, R102). -/
def State.decodeArrived (s : State) (k : Int) (st : Nat) : State :=
  if s.decodePending k st then s
  else
    let touch := fun (w : PennantWork) => if w.decodeAgain && w.hoist == k && w.stripe == st then { w with since := s.now } else w
    { s with render := { s.render with pennants := s.render.pennants.map fun p => { p with work := p.work.map touch } } }

/-- Rows of a checked frame are handed on (R59, R78). -/
def State.takeRows (s : State) (p : Page) (w : DecodeWork) (f : PsfFrame) : State :=
  let n : FrameNote := {
    offset := w.offset, row := s.rowsDecoded p, rows := f.bytes.length / s.inputRowBytes, next := f.next, last := f.header.last }
  s.mapPage p.seq fun p => { p with raster := p.raster ++ f.bytes, frames := p.frames ++ [n], unitFailed := false }

/-- A page fails at inflow (R63): rows from the failing frame on are level 0, and the page is released at once. -/
def State.failInflow (s : State) (p : Page) (e : PsfStop) (frame : Nat) : State :=
  let good := s.rowsDecoded p
  let fail := e.failure frame
  let s1 := s.mapPage p.seq fun p => { p with failedRow := some good, failure := some fail.1, outputLimit := fail.2 }
  (if fail.2 then s1 else s1.noteFailure frame fail.1.2.2).release p.seq

/-- A replay that meets an uncorrectable error cannot complete: the stripe-hoist is left to R24 (R368). -/
def State.dropReplay (s : State) (k : Int) (st : Nat) : State :=
  let mine := fun (w : DecodeWork) => match w.user with
    | .replay _ h x => h == k && x == st
    | _ => false
  { s with
    codec := { s.codec with waiting := s.codec.waiting.filter fun w => !mine w }
    render := { s.render with
      pennants := s.render.pennants.map fun p => { p with work := p.work.filter fun w => !(w.decodeAgain && w.hoist == k && w.stripe == st) }
      audits := s.render.audits.filter fun a => !(a.hoist == k && a.stripe == st) } }

/-! ## A frame of DECOMPRESS_JOB (R64) -/

/-- The codec job of a sequence removed. -/
def State.endStream (s : State) (seq : Nat) : State :=
  { s with codec := { s.codec with jobs := s.codec.jobs.filter fun j => j.seq != seq } }

/-- The codec job of a sequence changed. -/
def State.mapStream (s : State) (seq : Nat) (f : StreamJob → StreamJob) : State :=
  { s with codec := { s.codec with jobs := s.codec.jobs.map fun j => if j.seq == seq then f j else j } }

/-- Width and depth of the first frame of a stream. -/
def firstFrame (l : List Byte) : Nat × Nat := let h := psfHeaderAt l 0; (h.width, h.bpp)

/-- A frame of a job: whole checked frames are written to the output buffer, in stream order; a failure completes the command, and no
byte of the failing frame is written (R60, R61, R64). -/
def State.jobFrame (s : State) (j : StreamJob) (w : DecodeWork) : State :=
  let ctx : PsfContext := { first := if w.frame = 0 then none else some (firstFrame j.input) }
  match decodeFrame ctx j.input w.offset (j.limit - j.output.length) none with
  | .ok f =>
    let s1 := s.emit (.buffer j.seq j.output.length f.bytes)
    let out := j.output ++ f.bytes
    if f.header.last then (s1.endStream j.seq).finish j.seq .ok 0 (w32 out.length) (w32 (j.total + 1))
    else s1.mapStream j.seq fun j => { j with output := out, next := f.next, total := j.total + 1 }
  | .error (.bad r o) => ((s.endStream j.seq).noteFailure w.frame o).finish j.seq .decodeError (w32 r) (w32 j.output.length) (w32 j.total) (w32 w.frame) (w32 o)
  | .error (.limit o) => (s.endStream j.seq).finish j.seq .outputLimit 0 (w32 j.output.length) (w32 j.total) (w32 w.frame) (w32 o)

/-- The error that a shot brings to the first burst of a frame of a page, with its offset in the stream (R382). -/
def State.frameShot (s : State) (w : DecodeWork) : Option (Nat × SdramError) :=
  let o := 64 * (w.offset / 64)
  match w.user with
  | .replay seq .. | .inflow seq | .verify seq => (s.sdramShot (s.blockAddress seq (o / 65536) + o % 65536)).map fun e => (o, e)
  | .job _ => none

/-- DECOMPRESS_FRAME_DONE: unit `u` ends its frame (R59). `badBurst` is an SDRAM error met in the burst at a stream offset. -/
def execDecompressFrameDone (u : Fin 4) (badBurst : Option (Nat × SdramError)) (t : Nat) (s0 : State) :
    Host.Outcome State Fault Refusal :=
  let s := s0.tick t
  match (s.unit u.val).work with
  | none => .next s
  | some w =>
    if s.shotAt 0x05 u.val then .next (s.unitFailedAs { code := 0x0401, unit := u.val }) else
    let free := s.updUnit u.val fun x => { x with work := none }
    let bad := badBurst.or (s.frameShot w)
    match w.user with
    | .job seq =>
      match s.codec.jobs.find? (fun j => j.seq == seq && j.decode) with
      | none => .next free
      | some j => if !s.canSend then .next s else .next (free.jobFrame j w)
    | .replay seq k st =>
      match s.page? seq with
      | none => .next free
      | some p =>
        let r := s.pageFrame p w (spoilt bad)
        let read := free.readFrame 1 p w bad r
        match r with
        | .error _ => .next (read.dropReplay k st)
        | .ok _ => .next (read.decodeArrived k st)
    | .inflow seq =>
      match s.page? seq with
      | none => .next free
      | some p =>
        let r := s.pageFrame p w (spoilt bad)
        let read := free.readFrame 2 p w bad r
        match r with
        | .ok f => .next (s.slicesArrived (read.takeRows p w f)).inflowSlices
        | .error x => .next (s.slicesArrived (read.failInflow p x w.frame)).inflowSlices
    | .verify seq =>
      match s.page? seq with
      | none => .next free
      | some p =>
        let r := s.pageFrame p w (spoilt bad)
        let read := free.readFrame 4 p w bad r
        match r with
        | .ok f => .next ((read.takeRows p w f).mapPage seq fun p => { p with verified := f.header.last })
        | .error x =>
          let fail := x.failure w.frame
          .next ((if fail.2 then read else read.noteFailure w.frame fail.1.2.2).mapPage seq fun p => { p with
            failure := some fail.1, outputLimit := fail.2 })

/-! ## Compression (R65 to R71) -/

/-- Rows cut into frames for a user. -/
def cutFrames (user : CompressUser) (width bpp depth size index : Nat) : Nat → List Byte → List CompressWork
  | 0, _ => []
  | f + 1, l =>
    if l.isEmpty then []
    else
      let rest := l.drop size
      { user := user, frame := index, last := rest.isEmpty, width := width, bpp := bpp, depth := depth, raw := l.take size }
        :: cutFrames user width bpp depth size (index + 1) f rest

/-- A compression job or export starts: its frames wait for the lanes. -/
def State.startCompress (s : State) (seq limit : Nat) (inputLen : Nat) (work : List CompressWork) (words : BitVec 32 × BitVec 32 × BitVec 32) : State :=
  let j : StreamJob := { seq := seq, decode := false, input := [], limit := limit, total := work.length, next := inputLen, words := words }
  ({ s with codec := { s.codec with jobs := s.codec.jobs ++ [j], lanesWaiting := s.codec.lanesWaiting ++ work } }).assignLanes

/-- Bytes of a row, and of a frame, of a COMPRESS_JOB. -/
def jobRowBytes (e : JEntry) : Nat := rowBytes (e.p32 24) (e.p8 28)
def jobFrameBytes (e : JEntry) : Nat := e.p16 30 * jobRowBytes e

/-- The checks of COMPRESS_JOB: frames that would not meet R44 are a BAD_PARAM (R69). -/
def compressParams (inp out : HostList) (e : JEntry) : List Cond :=
  let rb := jobRowBytes e
  let size := jobFrameBytes e
  listRefOk e 0 ++ listRefOk e 12
  ++ [fieldOk 24 (decide (1 ≤ e.p32 24 ∧ e.p32 24 ≤ 65536)), fieldOk 28 (has (e.p8 28) [1, 2, 4, 8]), fieldOk 30 (decide (1 ≤ e.p16 30)),
      fieldOk 24 (if inp.data.length ≤ size then decide (inp.data.length ≤ 1048576) else decide (max 16384 rb ≤ size ∧ size ≤ 1048576))]
  ++ listOk 0 inp (fun n => decide (0 < n) && decide (n % rb = 0)) ++ listOk 12 out (fun _ => true)

/-- COMPRESS_JOB: host raster is compressed into a PSF stream, frame by frame (R69, R329). -/
def execCompressJob (seq : Nat) (inp out : HostList) (t : Nat) (s : State) : Host.Outcome State Fault Refusal :=
  .next (s.command t seq 0x0A01 true true (fun _ e => { params := compressParams inp out e }) fun s e =>
    let work := cutFrames (.job seq) (e.p32 24) (e.p8 28) (e.p8 29 + 1) (jobFrameBytes e) 0 inp.data.length inp.data
    s.startCompress seq (HostListTotal out) inp.data.length work (0, 0, 0))

/-- DECOMPRESS_JOB: a stream is decoded into a host buffer (R64, R329). -/
def execDecompressJob (seq : Nat) (inp out : HostList) (t : Nat) (s : State) : Host.Outcome State Fault Refusal :=
  .next (s.command t seq 0x0A02 true true
    (fun _ e => { params := listRefOk e 0 ++ listRefOk e 12 ++ listOk 0 inp (fun _ => true) ++ listOk 12 out (fun _ => true) })
    fun s _ =>
      let j : StreamJob := { seq := seq, decode := true, input := inp.data, limit := HostListTotal out }
      { s with codec := { s.codec with jobs := s.codec.jobs ++ [j] } })

/-- The frames of a job in index order. -/
def StreamJob.joined (j : StreamJob) : List Byte := ((sortBy (fun x => (x.1 : Int)) j.frames).map (·.2)).flatten

/-- A whole stream of the compression unit: it is stored as a legacy page (R493), or written to host memory, where an output too small
fails it with OUTPUT_FULL and 0 in its first four bytes (R70). -/
def State.endCompress (s : State) (j : StreamJob) (user : CompressUser) : State :=
  let bytes := j.joined
  let s1 := match user with
    | .legacy seq => (s.endStream j.seq).pageTraffic 4 seq 0 bytes.length
    | .exporting _ => (s.endStream j.seq).bulkTraffic bytes.length
    | .job _ => s.endStream j.seq
  match user with
  | .legacy seq =>
    s1.mapPage seq fun p => { p with state := .stored, stream := bytes, streamBytes := bytes.length, blocks := ceilDiv bytes.length 65536 }
  | .exporting seq =>
    if j.limit < bytes.length then (s1.emit (.buffer seq 0 (List.replicate (min 4 j.limit) 0))).finish seq .outputFull
    else (s1.emit (.buffer seq 0 bytes)).finish seq .ok 0 (if j.words.2.2 = 0 then w32 bytes.length else j.words.1) j.words.2.1 j.words.2.2
  | .job seq =>
    if j.limit < bytes.length then
      (s1.emit (.buffer seq 0 (List.replicate (min 4 j.limit) 0))).finish seq .outputFull 0 0 (w32 j.total) (w32 j.next)
    else (s1.emit (.buffer seq 0 bytes)).finish seq .ok 0 (w32 bytes.length) (w32 j.total) (w32 j.next)

/-- The sequence that a lane's user works for. -/
def CompressUser.seq : CompressUser → Nat
  | .legacy seq | .exporting seq | .job seq => seq

/-- COMPRESS_FRAME_DONE: a lane ends its frame, and free lanes take the next by user (R71). -/
def execCompressFrameDone (lane : Fin 32) (t : Nat) (s0 : State) : Host.Outcome State Fault Refusal :=
  let s := s0.tick t
  match (s.lane lane.val).work with
  | none => .next s
  | some w =>
    match s.codec.jobs.find? (fun j => j.seq == w.user.seq && !j.decode) with
    | none => .next (s.updLane lane.val fun l => { l with work := none }).assignLanes
    | some j =>
      let last := decide (j.total ≤ j.frames.length + 1)
      if s.shotAt 0x06 lane.val then .next (s.laneFailedAs { code := 0x0402, unit := lane.val })
      else if last && !s.canSend && !w.isLegacy then .next s
      else
        let j1 := { j with frames := j.frames ++ [(w.frame, compressFrame w.last w.width w.bpp w.depth w.raw)] }
        let s1 := s.updLane lane.val fun l => { l with work := none }
        let s2 := if last then s1.endCompress j1 w.user else s1.mapStream j.seq fun _ => j1
        .next s2.assignLanes

end Sys2Proof.Machine
end

