-- ==== Sys2Proof/Machine/Registers.lean ====
section
/-!
DEFINITION. Machine/Registers.lean: the register views of the position, head port, halyard and axis blocks
(chapters 05, 06, 08, 11), the map of BAR0 (R280), which registers the host may write (R281), and
REGISTER_WRITE and LOW_HALF_READ.
-/

namespace Sys2Proof.Machine

/-- The position block: offsets from 0x0003_0000. -/
def State.posReg (s : State) (off : Nat) : BitVec 32 :=
  if off < 0xC0 then
    let n := off / 0x20
    let c := s.chan n
    match off % 0x20 with
    | 0 => half (BitVec.ofInt 64 c.count) false
    | 4 => half (BitVec.ofInt 64 c.count) true
    | 8 => word [flag 0 c.valid, flag 1 c.backward, flag 2 c.stalled, field 8 8 (min 255 c.illegal),
        field 16 8 (min 255 c.dirChanges), if n = 1 then field 24 2 c.slip.toNat else 0]
    | _ => 0
  else match off with
    | 0x100 => w32i (report (s.speed * 256) (-2147483648) 2147483647)
    | 0x108 => half (BitVec.ofInt 64 s.highWater) false
    | 0x10C => half (BitVec.ofInt 64 s.highWater) true
    | 0x110 => half (BitVec.ofInt 64 s.pos.tick) false
    | 0x114 => half (BitVec.ofInt 64 s.pos.tick) true
    | 0x120 => word ((List.range 16).map fun u =>
        let c := Tbl.get {} s.pos.units u
        flag u c.missed + flag (16 + u) (c.live && decide (s.highWater < c.set.target * 256)))
    | _ => 0

/-- The head port block: offsets from 0x0004_0000. -/
def State.hdpReg (s : State) (off : Nat) : BitVec 32 :=
  if 0x800 ≤ off then 0
  else
    let p := s.port (off / 0x40)
    match off % 0x40 with
    | 0 => p.statusReg
    | 8 => half p.tempReg false
    | 0xC => half p.tempReg true
    | 0x10 => p.errReg
    | _ => 0

/-- HLY_x_STATUS. -/
def Halyard.statusReg (h : Halyard) : BitVec 32 :=
  let st := match h.state with
    | .down => 0 | .training => 1 | .shadow => 2 | .inService => 3 | .loopback => 4 | .failed => 5
  word [st, flag 4 h.los, flag 5 h.lol, flag 6 h.lock, field 8 3 h.loop, field 16 16 (min 65535 h.delay)]

/-- HLY_x_ERRCNT. -/
def Halyard.errReg (h : Halyard) : BitVec 32 :=
  word [min 255 h.crcErr, field 8 8 (min 255 h.blkErr), field 16 8 (min 255 h.downs), field 24 8 (min 255 h.lpErr)]

/-- The code of a role. -/
def Role.code : Role → Nat
  | .guest => 0 | .worker => 1 | .standby => 2 | .manager => 3

/-- HLY_RING. -/
def Ring.ringReg (r : Ring) : BitVec 32 :=
  let st := match r.rstate with
    | .closed => 0 | .line => 1 | .split => 2 | .forming => 3
  word [r.role.code, field 4 2 st, field 8 4 (r.node.getD 0), field 12 5 r.count, field 20 4 (r.manager.getD 0),
    flag 24 r.calValid, flag 25 r.offset.isSome, flag 26 r.calCheck]

/-- The halyard block: offsets from 0x0005_0000. -/
def State.hlyReg (s : State) (off : Nat) : BitVec 32 :=
  match off with
  | 0x00 => s.ring.east.statusReg
  | 0x08 => s.ring.east.errReg
  | 0x40 => s.ring.west.statusReg
  | 0x48 => s.ring.west.errReg
  | 0x100 => s.ring.ringReg
  | 0x108 => w32 s.ring.epoch
  | _ => 0

/-- The axis block: offsets from 0x0006_0000. -/
def State.axsReg (s : State) (off : Nat) : BitVec 32 :=
  if 0x100 ≤ off then 0
  else
    let n := off / 0x40
    let a := s.axis n
    let sp : BitVec 64 := BitVec.ofInt 64 (a.setCount * 65536 + (a.setFrac : Nat))
    match off % 0x40 with
    | 0 => w32i (s.axisPosition n)
    | 4 => s.axisStatus n
    | 8 => half sp false
    | 0xC => half sp true
    | 0x10 => w32i (report a.speed (-2147483648) 2147483647)
    | 0x14 => word [min 65535 a.badReply, field 16 16 (min 65535 a.folMax)]
    | _ => 0

/-- The register word at a BAR0 offset; 0 where none is assigned (R280). The BAR4 window of HB-8 mode is met at
0x0400_0000, above the 64 MB of BAR0. -/
def State.readWord (s : State) (off : Nat) : BitVec 32 :=
  if off < 0x10000 then s.hostReg off
  else if off < 0x20000 then s.fltReg (off - 0x10000)
  else if off < 0x30000 then s.evtReg (off - 0x20000)
  else if off < 0x40000 then s.posReg (off - 0x30000)
  else if off < 0x50000 then s.hdpReg (off - 0x40000)
  else if off < 0x60000 then s.hlyReg (off - 0x50000)
  else if off < 0x70000 then s.axsReg (off - 0x60000)
  else if off < 0x80000 then s.dmcReg (off - 0x70000)
  else if 0x90000 ≤ off ∧ off < 0xA0000 then s.calReg (off - 0x90000)
  else if 0xA0000 ≤ off ∧ off < 0xB0000 then s.pwrReg (off - 0xA0000)
  else if 0xB0000 ≤ off ∧ off < 0xC0000 then s.jnlReg (off - 0xB0000)
  else if 0x4000000 ≤ off ∧ off < 0x4010000 then s.hbReg (off - 0x4000000)
  else 0

/-- Whether a 64-bit register starts at an offset. -/
def wideRegister (off : Nat) : Bool :=
  has off [0x10010, 0x20008, 0x20010, 0x30108, 0x30110, 0x70018, 0x90008, 0xB0000, 0xB0008, 0xB0010] ||
  (decide (0x30000 ≤ off ∧ off < 0x300C0) && off % 0x20 == 0) ||
  (decide (0x40000 ≤ off ∧ off < 0x40800) && off % 0x40 == 8) ||
  (decide (0x60000 ≤ off ∧ off < 0x60100) && off % 0x40 == 8)

/-- The host can reach BAR0 and configuration space. -/
def State.hostReaches (s : State) : Bool := s.power.phase != .powerOnReset && s.host.linkUp && !s.host.perstLow

/-- What a read of 32 bits returns: the half latched, where its offset is read, else the register (R280). -/
def State.readHalf (s : State) (off : Nat) : BitVec 32 := (SMap.find? off s.host.latch).getD (s.readWord off)

/-- LOW_HALF_READ: the low half of a 64-bit register is read, and its high half is latched for the reads of it (R280); a read of
HB_ERR clears it (R11, R490), and one of EVT_COUNT arms vector 9 (R406). -/
def execLowHalfRead (off : Nat) (s : State) : Host.Outcome State Fault Refusal :=
  let s1 := s.emit (.readData off ((s.readHalf off).zeroExtend 64))
  if !s.hostReaches then .next s
  else if off = 0x400000C && s.hbOpen then .next (({ s1 with hb := { s1.hb with err := 0 } }).hbIrq)
  else if wideRegister off then .next { s1 with
    evt := { s1.evt with overflowArmed := s1.evt.overflowArmed || off == 0x20010 }
    host := { s1.host with latch := SMap.insert (off + 4) (s.readWord (off + 4)) (SMap.erase (off + 4) s.host.latch) } }
  else .next s1

/-! ## Writes without behaviour of their own (R280, R281) -/

/-- A write of 32 bits to a register of the mailbox block or the MSI-X table that has no row of its own. -/
def State.writeHostWord (s : State) (off : Nat) (v : BitVec 32) : State :=
  if 0x1100 ≤ off ∧ off < 0x1200 ∧ off % 0x20 = 0x14 then
    let n := (off - 0x1100) / 0x20
    { s with host := { s.host with cc := Tbl.upd {} s.host.cc n fun q => { q with
      coalCount := BitVec.ofNat 8 v.toNat, coalTime := BitVec.ofNat 10 (v.toNat / 65536) } } }
  else if off = 0x1300 then { s with host := { s.host with dbgScope := BitVec.ofNat 2 v.toNat } }
  else if 0x1340 ≤ off ∧ off < 0x13A0 then
    { s with host := { s.host with dbgResponse := Tbl.put 0 s.host.dbgResponse ((off - 0x1340) / 4) v } }
  else if off = 0x13A0 then { s with host := { s.host with dbgWindow := BitVec.ofNat 9 v.toNat } }
  else if 0x2000 ≤ off ∧ off < 0x2200 then
    let n := (off - 0x2000) / 16
    let m : MsixEntry := Tbl.get {} s.host.msix n
    let m1 : MsixEntry := match off % 16 with
      | 0 => { m with addrLo := v }
      | 4 => { m with addrHi := v }
      | 8 => { m with data := v }
      | _ => { m with masked := v.getLsbD 0 }
    ({ s with host := { s.host with msix := Tbl.put {} s.host.msix n m1 } }).sendPending
  else s

/-- A half of a 64-bit value replaced. -/
def setHalf (old : BitVec 64) (high : Bool) (v : BitVec 32) : BitVec 64 :=
  if high then BitVec.ofNat 64 (old.toNat % 2 ^ 32 + v.toNat * 2 ^ 32) else BitVec.ofNat 64 (old.toNat / 2 ^ 32 * 2 ^ 32 + v.toNat)

/-- A write of 32 bits to a register whose write has no behaviour of its own; elsewhere it is discarded (R281). -/
def State.writeWord (s : State) (off : Nat) (v : BitVec 32) : State :=
  if off < 0x10000 then s.writeHostWord off v
  else if off = 0x10030 then
    { s with flt := { s.flt with injChecker := BitVec.ofNat 9 v.toNat, injUnit := BitVec.ofNat 8 (v.toNat / 65536) } }
  else if off = 0x20000 then
    { s with evt := { s.evt with irqEn := v.getLsbD 4, irqSev := bits v.toNat 5 3 } }
  else if off = 0xB0000 ∨ off = 0xB0004 then
    { s with journal := { s.journal with cursor := setHalf s.journal.cursor (off == 0xB0004) v } }
  else if 0x4000000 ≤ off ∧ off < 0x4010000 then (if s.hbOpen then s.hbWrite (off - 0x4000000) v else s)
  else s

/-- REGISTER_WRITE: 32 bits on a 4-byte boundary or 64 bits on an 8-byte boundary; the host interface takes none while the
device is in power-on reset or its link is down (R280, R281). -/
def execRegisterWrite (off : Nat) (wide : Bool) (v : BitVec 64) (s : State) : Host.Outcome State Fault Refusal :=
  if !s.hostReaches then .next s
  else if wide then
    if off % 8 = 0 then .next ((s.writeWord off (half v false)).writeWord (off + 4) (half v true)) else .next s
  else if off % 4 = 0 then .next (s.writeWord off (half v false)) else .next s

end Sys2Proof.Machine
end

