-- ==== Sys2Proof/Machine/CalRead.lean ====
section
/-!
DEFINITION. Machine/CalRead.lean: CAL_READ and the data of its selectors (R330): the CAL_ registers, composed column tone
records (R94), the nozzle state table, the fire history (R213 to R215), head entries (R232), line-store spares (R119), the
loop policy, and the journal (R297).
-/

namespace Sys2Proof.Machine

/-! ## The data of the selectors -/

/-- The table set of the latest render window, or, before the first, the settings in force (R94). -/
def State.shownTables (s : State) : TableSet := s.render.latest.getD (s.tableSet s.nextWindow)

/-- A composed column tone record as 4 bytes: gain, offset, curve with the missing flag (R84, R94). -/
def Composed.bytes (c : Composed) : List Byte :=
  leBytes 2 c.gain ++ [BitVec.ofInt 8 c.offset, BitVec.ofNat 8 (c.curve + 128 * b2n c.missing)]

/-- 12-bit entries packed two in three bytes (R213). -/
def packEntries : List Nat → List Byte
  | a :: b :: t => leBytes 3 (a % 4096 + b % 4096 * 4096) ++ packEntries t
  | [a] => leBytes 3 (a % 4096)
  | [] => []

/-- The entries of a period record. -/
def Period.values (p : Period) : List Nat := if p.unreadable then List.replicate 131072 0xFFE else spread 0 131072 0 p.entries

/-- The descriptor of a period (R214). -/
def Period.descriptor (p : Period) : List Byte :=
  let l := leBytes 8 (unsign 64 p.k) ++ leBytes 8 p.time.toNat ++ leBytes 4 p.speed.toNat
    ++ leBytes 2 (b2n (!p.unreadable) + 2 * b2n p.depth4) ++ leBytes 2 0
    ++ ((List.range 64).flatMap fun r => leBytes 2 (Tbl.get 0 p.delays r)) ++ List.replicate 36 0
  l ++ leBytes 4 (crc32c l).toNat

/-- The 49 raster rows of a period in an export (R215). -/
def Period.rows (p : Period) : List Byte := packEntries p.values ++ p.descriptor ++ List.replicate 3904 0

/-- A head entry as 26,660 bytes (R232). -/
def HeadEntry.bytes (h : HeadEntry) : List Byte := h.body ++ leBytes 4 (crc32c h.body).toNat

/-- The entry of a port's head: the one in the flash, or what would be written first. -/
def State.portEntry (s : State) (n : Nat) : HeadEntry :=
  let serial := (s.port n).serial
  (s.entryOf serial).getD (s.headContent n serial 0)

/-- The policy in the layout of SET_LOOP_POLICY. -/
def LoopPolicy.bytes (p : LoopPolicy) : List Byte :=
  [BitVec.ofNat 8 p.actions.toNat, BitVec.ofNat 8 p.m, BitVec.ofNat 8 p.n, 0]
  ++ leBytes 2 p.thetaW ++ leBytes 2 p.thetaD ++ leBytes 2 p.thetaM ++ leBytes 2 p.sMin ++ leBytes 2 p.sProbe ++ leBytes 2 p.dMin
  ++ leBytes 2 p.probeLimit ++ leBytes 2 p.probeTimeout ++ leBytes 2 p.lambda ++ [BitVec.ofNat 8 p.epsilon, 0]
  ++ leBytes 2 p.kappaMin ++ leBytes 2 p.kappaMax ++ List.replicate 20 0

/-- The bytes of a selector that is not an export. -/
def State.selectorBytes (s : State) (e : JEntry) : List Byte :=
  match e.p8 12 with
  | 0 => (List.range 1024).flatMap fun i => leBytes 4 (s.calReg (4 * i)).toNat
  | 1 => (List.range (e.p32 20)).flatMap fun i => (s.shownTables.composed (e.p32 16 + i)).bytes
  | 2 => spread Memory.empty 131072 0 s.shownTables.nozzles
  | 4 => (s.portEntry (e.p8 16)).bytes
  | 5 => (List.range 512).map fun i => BitVec.ofNat 8 (Tbl.get 0 s.fuses.lineStoreSpares i % 32)
  | _ => s.loop.policy.bytes

/-- The length that a selector writes. -/
def selectorLength (e : JEntry) : Nat :=
  match e.p8 12 with
  | 0 => 4096
  | 1 => 4 * e.p32 20
  | 2 => 131072
  | 4 => 26660
  | 5 => 512
  | 6 => 48
  | _ => 0

/-- The periods of a range that the ring holds, in order. -/
def State.periodsFrom (s : State) (first : Int) (count : Nat) : List Period :=
  sortBy Period.k (s.loop.history.filter fun p => decide (first ≤ p.k ∧ p.k < first + count))

/-- The journal entries of a range that can be read, in order. -/
def State.entriesFrom (s : State) (first count : Nat) : List JEntry :=
  sortBy (fun e => (e.seq : Int)) (s.journal.entries.filter fun e => s.readable e && decide (first ≤ e.seq ∧ e.seq < first + count))

/-- Bytes filled with 0 up to whole rows of 4,096. -/
def fillRow (l : List Byte) : List Byte := l ++ List.replicate ((4096 - l.length % 4096) % 4096) 0

/-! ## CAL_READ -/

/-- The conditions on the fields of a selector. -/
def selectorOk (e : JEntry) : List Cond :=
  match e.p8 12 with
  | 1 => [fieldOk 16 (decide (e.p32 16 ≤ 65535)), fieldOk 16 (decide (e.p32 16 + e.p32 20 ≤ 65536)), fieldOk 20 (decide (1 ≤ e.p32 20))]
  | 3 => [fieldOk 24 (decide (1 ≤ e.p32 24 ∧ e.p32 24 ≤ 2728))]
  | 4 => [fieldOk 16 (decide (e.p8 16 ≤ 31))]
  | 7 => [fieldOk 24 (decide (1 ≤ e.p32 24 ∧ e.p32 24 ≤ 65536))]
  | _ => []

/-- The checks of CAL_READ. -/
def calReadChecks (out : HostList) (s : State) (e : JEntry) : Checks :=
  { params := listRefOk e 0 ++ [fieldOk 12 (decide (e.p8 12 ≤ 7))] ++ selectorOk e ++ listOk 0 out (fun n => decide (selectorLength e ≤ n))
    noResource := e.p8 12 == 4 && (s.port (e.p8 16)).record.isNone }

/-- An export starts: its rows are compressed frame by frame (R71). With nothing to export it ends at once. DESIGN CHOICE (log 63): a
chain depth of 1, frames of `frame` bytes (16 rows of the journal, a whole period of the history), and a last row filled with 0. -/
def State.streamOut (s : State) (seq limit frame : Nat) (bytes : List Byte) (words : BitVec 32 × BitVec 32 × BitVec 32) : State :=
  if bytes.isEmpty then s.finish seq .ok 0 words.1 words.2.1 words.2.2
  else s.startCompress seq limit bytes.length (cutFrames (.exporting seq) 4096 8 1 frame 0 bytes.length bytes) words

/-- CAL_READ: the data of a selector, or an export as a PSF stream (R215, R330). -/
def execCalRead (seq : Nat) (out : HostList) (t : Nat) (s : State) : Host.Outcome State Fault Refusal :=
  .next (s.command t seq 0x0B02 true true (calReadChecks out) fun s e =>
    match e.p8 12 with
    | 3 =>
      let l := s.periodsFrom (e.s64 16) (e.p32 24)
      let first := (l.head?.map (·.k)).getD (e.s64 16)
      s.streamOut seq (HostListTotal out) 200704 (l.flatMap Period.rows) (w32i first, w32i (first.fdiv (2 ^ 32)), w32 l.length)
    | 7 =>
      let l := s.entriesFrom (e.p64 16) (e.p32 24)
      s.streamOut seq (HostListTotal out) 65536 (fillRow (l.flatMap JEntry.bytes)) (0, 0, 0)
    | _ =>
      let bytes := s.selectorBytes e
      (s.emit (.buffer seq 0 bytes)).finish seq .ok 0 (w32 bytes.length))

end Sys2Proof.Machine
end

