-- ==== Sys2Proof/Machine/Device.lean ====
section
/-!
DEFINITION. Machine/Device.lean: the device commands of R313 but for RESET_UNIT (UnitReset.lean): identity and status
(R314, R315), calendar time (R262, R408), SHUTDOWN_PREPARE (R317), FENCE (R311, R312) and firmware updates (R318, R445).
-/

namespace Sys2Proof.Machine

/-! ## IDENTIFY and GET_STATUS -/

/-- Bit n set where HPn has a head present. -/
def State.portsPresent (s : State) : BitVec 32 := word ((List.range 32).map fun n => flag n ((s.port n).state != .absent))

/-- The identity block of R314. -/
def State.identityBlock (s : State) : List Byte :=
  leBytes 16 s.fuses.identity
  ++ ([0, 4, 8, 0xC, 0x20] : List Nat).flatMap (fun o => leBytes 4 (s.hostReg o).toNat)
  ++ leBytes 4 s.journal.epoch ++ leBytes 4 s.portsPresent.toNat
  ++ leBytes 1 s.ring.colour ++ leBytes 1 s.ring.role.code ++ leBytes 1 (s.ring.node.getD 0) ++ leBytes 17 0

/-- IDENTIFY (R314). -/
def execIdentify (seq : Nat) (out : HostList) (t : Nat) (s : State) : Host.Outcome State Fault Refusal :=
  .next (s.commandOk t seq 0x0101 true
    (fun _ e => { params := listRefOk e 0 ++ listOk 0 out (fun n => decide (64 ≤ n)) })
    (fun s _ => s.emit (.buffer seq 0 s.identityBlock)) (fun _ _ => 0)
    fun s _ => (s.power.fwVersion, w32 s.journal.epoch, s.portsPresent, s.idConfig))

/-- Section 1: a pennant. -/
def State.pennantStatus (s : State) (i : Nat) : List Byte :=
  let p : Pennant := Tbl.get {} s.render.pennants i
  let widths := match s.render.explicit with
    | some l => l
    | none => autoSplit s.lines.geometry.units s.render.active
  let st := match p.state with
    | .active => 0 | .spare => 1 | .fenced => 2 | .shadow => 3
  leBytes 1 st ++ leBytes 1 (p.stripe.getD 0xFF) ++ leBytes 1 ((p.stripe.map fun i => widths.getD i 0).getD 0) ++ leBytes 1 0

/-- Section 3: a job slot. -/
def State.jobStatus (s : State) (i : Nat) : List Byte :=
  match Tbl.get none s.store.jobs i with
  | none => leBytes 16 0
  | some j =>
    let mine := s.store.pages.filter fun p => p.job == j.id && !p.legacy
    leBytes 4 j.id ++ leBytes 4 mine.length ++ leBytes 4 (mine.filter fun p => p.state == .held).length
    ++ leBytes 1 j.group ++ leBytes 1 (1 + 2 * b2n j.closing) ++ leBytes 2 0

/-- The sections of GET_STATUS (R315). -/
def State.statusSection (s : State) (i : Nat) : List Byte :=
  match i with
  | 0 =>
    let l := s.heads.governor.published.getD (0, 0)
    leBytes 4 s.mbxStatus.toNat ++ leBytes 1 s.render.lead ++ leBytes 1 s.leadInForce ++ leBytes 1 s.render.active
    ++ leBytes 1 (b2n s.render.audit)
    ++ ([0x108, 0x10C, 0x110, 0x114, 0x100] : List Nat).flatMap (fun o => leBytes 4 (s.posReg o).toNat)
    ++ leBytes 4 (speedDetail l.1 l.2 0).toNat
  | 1 => (List.range 16).flatMap s.pennantStatus
  | 2 => (List.range 32).flatMap fun n =>
      let p := s.port n
      leBytes 4 p.statusReg.toNat ++ leBytes 4 p.errReg.toNat ++ leBytes 8 p.tempReg.toNat
  | 3 => (List.range 16).flatMap s.jobStatus
  | _ =>
    leBytes 4 s.store.totalBlocks ++ leBytes 4 s.freeBlocks ++ leBytes 4 (s.store.pages.filter fun p => !p.legacy).length
    ++ leBytes 4 s.carry.length

/-- The sections of a mask that fit whole after a header of 16 bytes: their mask and their bytes. -/
def State.statusFits (s : State) (mask room : Nat) : Nat × List Byte :=
  (List.range 5).foldl (fun (r : Nat × List Byte) i =>
    let b := s.statusSection i
    if bitOf mask i && decide (16 + r.2.length + b.length ≤ room) then (r.1 + 2 ^ i, r.2 ++ b) else r) (0, [])

/-- GET_STATUS (R315). -/
def execGetStatus (seq : Nat) (out : HostList) (t : Nat) (s : State) : Host.Outcome State Fault Refusal :=
  .next (s.command t seq 0x0102 true true
    (fun _ e => { params := listRefOk e 0 ++ [fieldOk 12 (bits (e.p8 12) 0 5 != 0)] ++ listOk 0 out (fun n => decide (16 ≤ n)) })
    fun s e =>
      let r := s.statusFits (bits (e.p8 12) 0 5) (HostListTotal out)
      let n := 16 + r.2.length
      (s.emit (.buffer seq 0 (leBytes 4 r.1 ++ leBytes 4 n ++ leBytes 8 s.now ++ r.2))).finish seq .ok 0 (w32 r.1) (w32 n))

/-! ## Calendar time (R262, R264, R408) -/

/-- Calendar time takes a new value now, as a step: record 0x8E01 with the clock-step flag holds the old and the new time. -/
def State.stepCalendar (s : State) (cal : Int) (cause : Nat) : State :=
  let old := s.stamp
  let s1 : State := { s with ring := { s.ring with calOffset := cal - s.now, slew := 0, timeAt := s.now, calValid := true } }
  s1.note { code := 0x8E01, clockStep := true, p0 := w32 old.2.toNat, p1 := w32 (old.2.toNat / 2 ^ 32)
            p2 := word [cause, flag 8 (!old.1)] }

/-- The manager's calendar steps by SET_TIME: a step of 1 µs or less is told to every admitted node, which would otherwise slew it; a
larger one shows in its TIME blocks (R264; log 79). -/
def State.managerStep (s : State) (cal : Int) (cause : Nat) : State :=
  let d := cal - s.ring.calAt s.now
  let s1 := s.stepCalendar cal cause
  if !s.ring.calValid || 1000 < d.natAbs || d = 0 then s1
  else s1.transact 0 0 (s1.ring.others.map fun n => (n, .control (.timeStepped d))) none

/-- The cause of a step by SET_TIME: calendar time first becoming valid has a cause of its own (R408). -/
def State.timeCause (s : State) : Nat := if s.ring.calValid then 1 else 3

/-- The first SET_TIME makes calendar time valid, without a step of its own where it slews or trims (R262, R408). -/
def State.calendarValid (s : State) : State :=
  if s.ring.calValid then s else s.stepCalendar (s.ring.calAt s.now) 3

/-- An offset is removed by slewing up to 10 ms, and otherwise as a step (R262). -/
def State.offsetTime (s : State) (seq : Nat) (off : Int) : State :=
  if off.natAbs ≤ 10000000 then
    let s1 := s.calendarValid
    let r := s1.ring.settle s1.now
    ({ s1 with ring := { r with slew := off } }).finish seq .ok 0 1
  else
    let o : BitVec 64 := BitVec.ofInt 64 off
    (s.stepCalendar (s.ring.calAt s.now + off) s.timeCause).finish seq .ok 0 1 (half o false) (half o true)

/-- SET_TIME on the manager (R262). -/
def execSetTime (seq t : Nat) (s : State) : Host.Outcome State Fault Refusal :=
  .next (s.command t seq 0x0103 false true
    (fun s e => {
      denied := s.ring.role != .manager
      params := [fieldOk 0 (decide (e.p8 0 ≤ 2)), fieldOk 8 (e.p8 0 != 2 || decide (-100000 ≤ e.s32 8 ∧ e.s32 8 ≤ 100000))] })
    fun s e =>
      match e.p8 0 with
      | 0 =>
        let cal := ofTimeField (e.p64 16) + ((s.now : Int) - e.p64 8)
        let d : BitVec 64 := BitVec.ofInt 64 (cal - s.ring.calAt s.now)
        (s.managerStep cal s.timeCause).finish seq .ok 0 0 (half d false) (half d true)
      | 1 => s.offsetTime seq (e.s64 8)
      | _ =>
        let s1 := s.calendarValid
        let r := s1.ring.settle s1.now
        ({ s1 with ring := { r with rate := e.s32 8 } }).finish seq .ok 0 2)

/-! ## FENCE (R311, R312) -/

/-- What a FENCE waits for: earlier commands of the named queues but its own. -/
def State.fenceWaits (s : State) (e : JEntry) : List Nat :=
  let l := s.journal.entries.filter fun x =>
    decide (x.seq < e.seq) && decide (x.queue < 8) && x.queue != e.queue && bitOf (e.p8 0) x.queue &&
    !x.state.final && !(e.p8 1 == 1 && x.state == .running)
  l.map (·.seq)

/-- FENCE. -/
def execFence (seq t : Nat) (s : State) : Host.Outcome State Fault Refusal :=
  .next (s.command t seq 0x0106 false true (fun _ e => { params := [fieldOk 1 (decide (e.p8 1 ≤ 1))] }) fun s e =>
    let waits := s.fenceWaits e
    let ms := e.p32 4
    let f : FenceWait := { seq := seq, running := e.p8 1 == 1, waits := waits, deadline := if ms = 0 then none else some (s.now + ms * 1000000)
                           count := waits.length, highest := waits.foldl max 0 }
    ({ s with journal := { s.journal with fences := s.journal.fences ++ [f] } }).fences)

/-! ## SHUTDOWN_PREPARE (R317) -/

/-- Every head entry and the calibration set are to be written. -/
def State.markForShutdown (s : State) : State :=
  let heads := s.flash.heads.map fun (h : HeadSlot) =>
    if h.holder != 0 then { h with dirtyAt := some (h.dirtyAt.getD s.now), urgent := true } else h
  ({ s with flash := { s.flash with heads := heads } }).calDirty

/-- SHUTDOWN_PREPARE: the disarm, then the writes; it completes when all is done (`settleShutdown`). -/
def execShutdownPrepare (seq t : Nat) (s : State) : Host.Outcome State Fault Refusal :=
  .next (s.command t seq 0x0105 false true
    (fun s e => { params := [fieldOk 0 (decide (e.p8 0 ≤ 1))], busy := s.power.commitSeq.isSome || s.journal.shutdownSeq.isSome })
    fun s e =>
      let s1 := s.markForShutdown
      let s2 := if e.p8 0 = 1 then s1.disarmNow 0x02 else s1.disarmAtEnd
      (({ s2 with journal := { s2.journal with shutdownSeq := some seq } }).settleDisarm).settleShutdown)

/-! ## Firmware updates (R318, R443 to R445) -/

/-- Bytes written over a flash area from an offset; bytes never written read as erased. -/
def overlay (area : List Byte) (off : Nat) (bytes : List Byte) : List Byte :=
  bytesAtOr area off ++ bytes ++ area.drop (off + bytes.length)
where
  /-- The first `n` bytes of an area, erased beyond its end. -/
  bytesAtOr (l : List Byte) (n : Nat) : List Byte := (List.range n).map fun i => l.getD i 0xFF

/-- The inactive image slot (R444). -/
def Flash.inactive (f : Flash) : Nat := 1 - f.boot.slot

/-- An image slot written. -/
def Flash.setImage (f : Flash) (slot : Nat) (l : List Byte) : Flash := if slot = 0 then { f with image0 := l } else { f with image1 := l }

/-- An open update is abandoned. -/
def State.abandonUpdate (s : State) : State := { s with journal := { s.journal with fwLength := none, fwBytes := [] } }

/-- FW_UPDATE_BEGIN. While an update is open it completes with BUSY (R313), and that update is abandoned (R318). -/
def execFwUpdateBegin (seq t : Nat) (s : State) : Host.Outcome State Fault Refusal :=
  .next (s.command t seq 0x0107 false true
    (fun _ e => { params := [fieldOk 0 (decide (4096 ≤ e.p32 0 ∧ e.p32 0 ≤ 16777216))] }) fun s e =>
    if s.journal.fwLength.isSome then s.abandonUpdate.finish seq .busy
    else ({ s with journal := { s.journal with fwLength := some (e.p32 0), fwBytes := [] } }).finish seq .ok 0 (w32 (e.p32 0)))

/-- FW_UPDATE_CHUNK: a chunk of the image at its offset, in the inactive slot; a later chunk wins. -/
def execFwUpdateChunk (seq : Nat) (inp : HostList) (t : Nat) (s : State) : Host.Outcome State Fault Refusal :=
  .next (s.command t seq 0x0108 true true
    (fun s e => { params := listRefOk e 0
      ++ [fieldOk 12 (s.journal.fwLength.any fun n => decide (e.p32 12 + inp.data.length ≤ n))] ++ listOk 0 inp (fun _ => true) }) fun s e =>
    let off := e.p32 12
    let slot := s.flash.inactive
    let s1 : State := { s with
      journal := { s.journal with fwBytes := (off, inp.data.length) :: s.journal.fwBytes }
      flash := s.flash.setImage slot (overlay (s.flash.image slot) off inp.data) }
    s1.finish seq .ok 0 (w32 inp.data.length))

/-- Whether the chunks cover an image from byte `at_` on: each round extends the covered part (`fuel` chunks at most). -/
def covered (chunks : List (Nat × Nat)) : Nat → Nat → Nat
  | 0, at_ => at_
  | f + 1, at_ =>
    match chunks.find? (fun c => decide (c.1 ≤ at_ ∧ at_ < c.1 + c.2)) with
    | some c => covered chunks f (c.1 + c.2)
    | none => at_

/-- Every byte of the open update has been written. -/
def State.updateWhole (s : State) : Bool :=
  s.journal.fwLength.any fun n => decide (n ≤ covered s.journal.fwBytes s.journal.fwBytes.length 0)

/-- The slot made active, and the board section written to the board sector (R444, R445). -/
def State.activate (s : State) (slot : Nat) : State :=
  let img := s.flash.image slot
  let off := leAt img 12 4
  let f := s.flash.writeBoot slot s.journal.epoch
  { s with flash := if off = 0 then f else { f with board := overlay f.board 0 (bytesAt img off 80) } }

/-- FW_UPDATE_COMMIT: the signature decides; with bit 0 a warm reset follows, after which recovery completes the command
(R318, R392). -/
def execFwUpdateCommit (seq t : Nat) (s : State) : Host.Outcome State Fault Refusal :=
  .next (s.command t seq 0x0109 false true (fun s _ => { params := [fieldOk 0 s.updateWhole] }) fun s e =>
    let slot := s.flash.inactive
    let n := s.journal.fwLength.getD 0
    let img := (s.flash.image slot).take n
    let s0 := s.abandonUpdate
    if !imageValid s.fuses.firmwareKey img then s0.finish seq .denied
    else
      let s1 := s0.activate slot
      let v := imageVersion img
      if bitOf (e.p8 0) 0 then ({ s1 with power := { s1.power with commitSeq := some (seq, v) } }).warmReset 2
      else s1.finish seq .ok 0 v)

end Sys2Proof.Machine
end

