-- ==== Sys2Proof/Machine/Diag.lean ====
section
/-!
DEFINITION. Machine/Diag.lean: the diagnostic commands: LOOPBACK_SET, LANE_EYE_SCAN and SELFTEST (R240, R241, R329).
-/

namespace Sys2Proof.Machine

/-! ## LOOPBACK_SET (R240) -/

/-- The port of a halyard target. -/
def targetSide (target : Nat) : Side := if target = 0 then .e else .w

/-- The checks of LOOPBACK_SET: of a halyard link, DENIED in service on a ring that is not closed and BUSY in training or shadow; of a head
port, BUSY in states 5 and 6. -/
def loopbackChecks (s : State) (e : JEntry) : Checks :=
  let target := e.p8 0
  let h := s.ring.port (targetSide target)
  let p := s.port (e.p8 1)
  { denied := decide (target < 2) && h.state == .inService && s.ring.rstate != .closed
    params := [fieldOk 0 (decide (target ≤ 2)), fieldOk 1 (target != 2 || decide (e.p8 1 < 32)),
      fieldOk 2 (decide (e.p8 2 ≤ (if target = 2 then 2 else 3)))]
    busy := if target = 2 then p.state == .shadow || p.state == .inService else h.state == .training || h.state == .shadow }

/-- A halyard port enters a loopback: near-end serial, near-end parallel, or far-end with LOOP sent first; it sends data blocks of the
PRBS31 sequence, and counts the blocks in error from here on. -/
def State.enterLoopback (s : State) (sd : Side) (mode : Nat) : State :=
  ((if mode = 3 then s.sendHalyard sd 0x7A [3] else s).emit (.prbs31 sd true)).updHalyard sd fun h => { h with
    state := .loopback, loop := mode, clean := 0, joinNext := false, shadowNext := false, farReady := false, hops := none
    confirmSent := false, confirmGot := false }

/-- A loopback of a halyard port ends: the far end is told, and the link trains. -/
def State.leaveLoopback (s : State) (sd : Side) : State :=
  let h := s.ring.port sd
  if h.state != .loopback then s
  else
    let s0 := if h.loop = 4 then s else s.emit (.prbs31 sd false)
    let s1 := if h.loop = 3 then s0.sendHalyard sd 0x7A [0] else s0
    s1.beginTraining sd 1

/-- LOOPBACK_SET: result word 0 is the count of blocks in error so far, which completion clears. -/
def execLoopbackSet (seq t : Nat) (s : State) : Host.Outcome State Fault Refusal :=
  .next (s.command t seq 0x0E01 false true loopbackChecks fun s e =>
    let mode := e.p8 2
    if e.p8 0 = 2 then
      let n := e.p8 1
      let count := (s.port n).lpErrors
      (s.updPort n fun p => { p with loopback := mode, lpErrors := 0 }).finish seq .ok 0 (w32 count)
    else
      let sd := targetSide (e.p8 0)
      let count := (s.ring.port sd).lpErr
      let s1 := s.updHalyard sd fun h => { h with lpErr := 0 }
      (if mode = 0 then s1.leaveLoopback sd else s1.enterLoopback sd mode).finish seq .ok 0 (w32 count))

/-! ## LANE_EYE_SCAN (R241) -/

/-- The checks of LANE_EYE_SCAN. -/
def eyeScanChecks (out : HostList) (_ : State) (e : JEntry) : Checks :=
  let target := e.p8 12
  { params := listRefOk e 0 ++ [fieldOk 12 (decide (target ≤ 2)), fieldOk 13 (target != 2 || decide (e.p8 13 < 32)),
      fieldOk 14 (if target = 2 then e.p8 14 == 2 else decide (e.p8 14 ≤ 1)),
      fieldOk 16 (decide (1 ≤ e.p8 16 ∧ e.p8 16 ≤ 64)), fieldOk 17 (decide (1 ≤ e.p8 17 ∧ e.p8 17 ≤ 64))]
    ++ listOk 0 out fun n => decide (4 * e.p8 16 * e.p8 17 ≤ n) }

/-- LANE_EYE_SCAN: the scan of a receive lane starts; the link goes on as it was, and the lane's adaptation is frozen
while the command runs (`State.laneScanned`). -/
def execLaneEyeScan (seq : Nat) (out : HostList) (t : Nat) (s : State) : Host.Outcome State Fault Refusal :=
  .next (s.command t seq 0x0E02 true true (eyeScanChecks out) fun s _ => s)

/-- The longest run of zeros. -/
def openSpan : Nat → Nat → List Nat → Nat
  | best, run, [] => max best run
  | best, run, v :: l => if v = 0 then openSpan best (run + 1) l else openSpan (max best run) 0 l

/-- The command of an opcode that runs, the oldest first. -/
def State.runningCommand (s : State) (op : Nat) : Option JEntry :=
  s.journal.entries.find? fun e => e.opcode == op && e.state == .running

/-- LANE_EYE_SCAN_DONE: one count per point is written, voltage step major; the words are the widest span of phases and the tallest span of
voltages without an error. It waits for DMA. -/
def execLaneEyeScanDone (counts : List Nat) (t : Nat) (s0 : State) : Host.Outcome State Fault Refusal :=
  let s := s0.tick t
  match s.runningCommand 0x0E02 with
  | none => .next s
  | some e =>
    let w := e.p8 16
    let h := e.p8 17
    if counts.length ≠ w * h ∨ !s.firmwareRuns then .next s
    else if !s.canSend then .next (s.mapEntry e.seq fun e => { e with waitsSince := some (e.waitsSince.getD s.now) })
    else
      let rows := (List.range h).map fun v => (counts.drop (v * w)).take w
      let cols := (List.range w).map fun x => (List.range h).map fun v => counts.getD (v * w + x) 0
      let wide := (rows.map (openSpan 0 0)).foldl max 0
      let tall := (cols.map (openSpan 0 0)).foldl max 0
      .next ((s.emit (.buffer e.seq 0 (counts.flatMap fun c => leBytes 4 c))).finish e.seq .ok 0 (w32 wide) (w32 tall))

/-! ## SELFTEST (R329, R404) -/

/-- SELFTEST: the tests of the mask run inside an episode; the line store march is BUSY while armed. -/
def execSelftest (seq t : Nat) (s : State) : Host.Outcome State Fault Refusal :=
  .next (s.command t seq 0x0E03 false true (fun s e => { busy := bitOf (e.p8 0) 0 && s.pos.armed }) fun s _ => s.episodeOpen 1)

/-- SELFTEST_DONE: the command ends with the tests passed and failed, with UNIT_FENCED if they fenced a unit, and its part of the episode closes. -/
def execSelftestDone (passed failed : Nat) (fencedUnit : Bool) (t : Nat) (s0 : State) : Host.Outcome State Fault Refusal :=
  let s := s0.tick t
  match s.runningCommand 0x0E03 with
  | none => .next s
  | some e =>
    if !s.firmwareRuns then .next s
    else .next ((s.episodeClose 1).finish e.seq (if fencedUnit then .unitFenced else .ok) 0 (w32 passed) (w32 failed))

end Sys2Proof.Machine
end

