-- ==== Sys2Proof/Machine/Loop.lean ====
section
/-!
DEFINITION. Machine/Loop.lean: the nozzle health loop (chapter 07): profiles (R216 to R219), evidence and marks (R220 to R222),
flags (R223 to R226), probes (R227), column corrections (R229), the policy (R231), and NOZZLE_OVERRIDE (R226, R230, R324).
-/

namespace Sys2Proof.Machine

/-! ## Nozzles -/

/-- The bar column that a nozzle prints. -/
def State.columnOf (s : State) (i : Nat) : Nat := (s.lines.geometry.head (i / 4096)).col0 + i % 2048

/-- The candidates of a column: nozzle index and bar row (R220). -/
def candidatesOf (g : Geometry) (c : Nat) : List (Nat × Nat) :=
  (g.covering c).flatMap fun n => ([0, 1] : List Nat).map fun row => (nozzleIndex n row (headColumn g n c), 2 * n + row)

/-- Nozzles held out by probes. -/
def State.probeHeld (s : State) : List Nat := s.loop.probes.flatMap (·.held)

/-- Whether a nozzle is in service, a probe hold apart. -/
def State.serves (s : State) (i : Nat) : Bool :=
  (s.port (i / 4096)).state == .inService && (!(s.nozzle i).getLsbD 3 || has i s.probeHeld)

/-! ## Evidence (R216, R220, R221) -/

/-- The density deviation of a column in a profile, if it has data. -/
def Profile.sample (p : Profile) (c : Nat) : Option Int :=
  if 16 * c + 8 < p.cFirst then none
  else
    match p.samples[(16 * c + 8 - p.cFirst) / p.pitch]? with
    | some v => if v = -32768 then none else some (max v (-1024))
    | none => none

/-- The periods of a row that a strip uses, with the delay of each period's own descriptor. -/
def State.usedPeriods (s : State) (p : Profile) (r : Nat) : List Period :=
  s.loop.history.filter fun q =>
    let d : Int := ((q.delays.getD r 0 : Nat) : Int)
    decide (p.lineStart ≤ 64 * q.k - d ∧ 64 * q.k + 64 - d ≤ p.lineStart + p.length)

/-- The strip needs a period older than the ring holds (R217). -/
def State.tooOld (s : State) (p : Profile) : Bool :=
  match s.loop.history.getLast? with
  | none => true
  | some q => s.lines.geometry.rows.any fun r => decide (p.lineStart ≤ 64 * (q.k - 1) - ((q.delays.getD r 0 : Nat) : Int))

/-- A nozzle's entry in a period: 0xFFE where the record cannot be read (R213). -/
def Period.entry (q : Period) (i : Nat) : Nat := if q.unreadable then 0xFFE else SMap.get 0 q.entries i

/-- What the periods of a strip say of a candidate: drops, lines, an entry that spoils the evidence, an entry that is not 0xFFF. -/
structure Tally where
  nozzle : Nat
  drops : Nat
  lines : Nat
  spoiled : Bool
  counted : Bool

/-- The tally of a nozzle; periods fired before the bring-up of its head give no evidence (R233). -/
def tallyOf (since : Option Int) (l : List Period) (i : Nat) : Tally :=
  let es := l.map fun q => if since.any (fun k => decide (q.k ≤ k)) then 0xFFE else q.entry i
  { nozzle := i, drops := (es.map fun v => if v = 0xFFF ∨ v = 0xFFE then 0 else v).sum, lines := 64 * l.length
    spoiled := es.any (· == 0xFFE), counted := es.any (· != 0xFFF) }

/-- Drops per line, scaled. -/
def Tally.weight (t : Tally) : Nat := if t.lines = 0 then 0 else t.drops * 65536 / t.lines

/-- The shares of the candidates, in 1/1,024. -/
def shares (l : List Tally) : List (Nat × Nat) :=
  let sum := (l.map Tally.weight).sum
  l.map fun t => (t.nozzle, if sum = 0 then 0 else (t.weight * 1024 + sum / 2) / sum)

/-- The tallies of a column's candidates. -/
def State.tallies (s : State) (g : Geometry) (p : Profile) (c : Nat) : List Tally :=
  (candidatesOf g c).map fun x => tallyOf (s.port (x.2 / 2)).sincePeriod (s.usedPeriods p x.2) x.1

/-- The evidence of a column in a profile: the shares of its candidates (R221). -/
def State.evidence (s : State) (ts : TableSet) (p : Profile) (c : Nat) : Option (List (Nat × Nat)) :=
  if (p.sample c).isNone || ts.missing c then none
  else
    let l := s.tallies ts.geometry p c
    if l.any (fun t => t.spoiled || (t.counted && decide (t.lines < 64))) then none
    else if (l.map (·.drops)).sum < s.loop.policy.dMin then none
    else some (shares l)

/-! ## Marks (R222, R223) -/

/-- The normalised deviation of a candidate. -/
def normalised (delta : Int) (share : Nat) : Int := (delta * 1024).fdiv share

/-- Some column within 2 columns prints a surplus. -/
def Profile.surplus (p : Profile) (c bound : Nat) : Bool :=
  ((List.range 5).filter fun i => decide (i ≠ 2 ∧ 2 ≤ c + i)).any fun i => (p.sample (c + i - 2)).any fun v => decide ((bound : Int) ≤ v)

/-- The mark of a candidate in a qualifying profile. -/
def LoopPolicy.mark (q : LoopPolicy) (p : Profile) (c : Nat) (delta : Int) (share : Nat) : Mark :=
  let d := normalised delta share
  if d ≤ -(q.thetaW : Int) && p.surplus c (q.thetaM * delta.natAbs / 1024) then .misdirected
  else if d ≤ -(q.thetaD : Int) then .dead
  else if d ≤ -(q.thetaW : Int) then .weak
  else .pass

/-- A mark enters the window of a nozzle. -/
def Loop.enter (l : Loop) (i : Nat) (m : Mark) (number : Nat) : Loop :=
  { l with windows := SMap.set [] l.windows i (((m, number) :: SMap.get [] l.windows i).take l.policy.n) }

/-- A qualifying profile's mark for a nozzle; an exonerated one counts a pass, and one of its profiles is used up. -/
def Loop.give (l : Loop) (i : Nat) (m : Mark) (number : Nat) : Loop :=
  let left := SMap.get 0 l.exonerated i
  { l.enter i (if left = 0 then m else .pass) number with exonerated := SMap.set 0 l.exonerated i (left - 1) }

/-- The class that holds the most of a window's marks other than pass: dead first on a tie, then misdirected. -/
def windowClass (w : List (Mark × Nat)) : Mark :=
  let n := fun m => (w.filter fun x => x.1 == m).length
  if n .misdirected ≤ n .dead && n .weak ≤ n .dead then .dead else if n .weak ≤ n .misdirected then .misdirected else .weak

/-- The condition code of a mark (R133). -/
def Mark.condition : Mark → Nat
  | .pass => 0
  | .weak => 1
  | .dead => 2
  | .misdirected => 3

/-! ## Flags (R223 to R226) -/

/-- The loop may flag nozzles of a head and change its columns: N profiles with evidence since its bring-up (R224). -/
def State.headSeen (s : State) (n : Nat) : Bool := decide (s.loop.policy.n ≤ SMap.get 0 s.loop.seen n)

/-- Some other candidate of the nozzle's column is in service. -/
def State.hasPartner (s : State) (i : Nat) : Bool :=
  (candidatesOf s.lines.geometry (s.columnOf i)).any fun x => x.1 != i && s.serves x.1

/-- A nozzle is flagged, if it may be: its condition, and out as R225 gives; its window is cleared. -/
def State.flagNozzle (s : State) (i : Nat) (m : Mark) : State :=
  if !s.loop.policy.actions.getLsbD 0 || !s.headSeen (i / 4096) || !s.loopMay i then s
  else
    let held := has i s.probeHeld
    let wasOut := (s.nozzle i).getLsbD 3 && !held
    let out := wasOut || m != .weak || (s.hasPartner i && s.loop.policy.actions.getLsbD 3)
    let s1 := s.setNozzle i (BitVec.ofNat 8 (m.condition + 8 * b2n (out || held)))
    let keep := fun (p : Probe) => if out then { p with held := without i p.held } else p
    ({ s1 with loop := { s1.loop with
      windows := SMap.erase i s1.loop.windows, probes := s1.loop.probes.map keep } }).headDirty (i / 4096) true

/-- Flagged nozzles, for the result of a profile: a window with M marks other than pass flags its nozzle. -/
def State.judgeWindow (s : State) (i : Nat) : State :=
  let w := SMap.get [] s.loop.windows i
  let bad := w.filter fun x => x.1 != .pass
  if s.loop.policy.m ≤ bad.length then s.flagNozzle i (windowClass w) else s

/-- A NOZZLE_TEST result (R223): 2 and 3 flag the nozzle dead at once, 1 is a weak mark, 0 is nothing. -/
def State.testResult (s : State) (i : Nat) (r : BitVec 2) : State :=
  if r = 0 then s
  else if r = 1 then ({ s with loop := s.loop.enter i .weak s.loop.processed }).judgeWindow i
  else s.flagNozzle i .dead

/-! ## Probes (R227) -/

/-- The next phase of a probe: its candidate prints alone. With at most one candidate left to test, the probe ends. -/
def State.nextPhase (s : State) (p : Probe) : State :=
  let s1 := s.endProbe p.column
  let left := p.toTest.filter fun i => s1.serves i && SMap.get 0 s1.loop.exonerated i == 0
  match left with
  | i :: j :: rest =>
    let others := (candidatesOf s1.lines.geometry p.column).map (·.1)
    let held := others.filter fun x => x != i && s1.serves x && s1.loopMay x
    let s2 := held.foldl (fun s x => s.setOut x true) s1
    let q : Probe := { p with toTest := j :: rest, phase := some i, held := held }
    { s2 with loop := { s2.loop with probes := s2.loop.probes ++ [q] } }
  | _ => s1

/-- A phase ends (R227): on a pass the candidate is exonerated and the marks since the probe started go. -/
def State.endPhase (s : State) (p : Probe) (i : Nat) (m : Mark) : State :=
  let l := s.loop
  let l1 := if m = .pass then
      { l with exonerated := SMap.set 0 l.exonerated i l.policy.n
               windows := SMap.set [] l.windows i ((SMap.get [] l.windows i).filter fun x => decide (x.2 < p.startProfile)) }
    else l
  ({ s with loop := l1 }).nextPhase p

/-- The candidates of a column in the order in which a probe tests them: smallest deviation first. -/
def testOrder (delta : Int) (l : List (Nat × Nat)) : List Nat :=
  (sortBy (fun x => if x.2 = 0 then 2 ^ 40 + (x.1 : Int) else ((normalised delta x.2).natAbs : Int) * 2 ^ 17 + x.1) l).map (·.1)

/-- A probe starts, if it may; a probe hold changes columns, so every head that covers the column must have been seen long enough
(R224, R227). -/
def State.startProbe (s : State) (c : Nat) (delta : Int) (l : List (Nat × Nat)) (number : Nat) : State :=
  if !s.loop.policy.actions.getLsbD 1 || !(s.lines.geometry.covering c).all s.headSeen || (s.probe? c).isSome || decide (s.loop.policy.probeLimit ≤ s.loop.probes.length) then s
  else s.nextPhase { column := c, toTest := testOrder delta l, phase := none, startTick := s.pos.tick, startProfile := number }

/-! ## Column corrections (R229) -/

/-- The mean of a window, rounded half up. -/
def windowMean (l : List Int) : Int := divHalfUp (l.foldl (· + ·) 0) (max 1 l.length : Nat)

/-- The heads that cover a column have all been seen long enough, and corrections are on. -/
def State.mayCorrect (s : State) (c : Nat) : Bool :=
  s.loop.policy.actions.getLsbD 2 && (s.lines.geometry.covering c).all s.headSeen

/-- The heads that cover a column have entries to write. -/
def State.columnDirty (s : State) (c : Nat) : State := (s.lines.geometry.covering c).foldl (fun s n => s.headDirty n false) s

/-- A column's deviation enters its gain window. -/
def State.gainEntry (s : State) (c : Nat) (delta : Int) : State :=
  let q := s.loop.policy
  let w := delta :: SMap.get [] s.loop.gainWindow c
  if w.length < q.n then { s with loop := { s.loop with gainWindow := SMap.set [] s.loop.gainWindow c w } }
  else
    let s1 : State := { s with loop := { s.loop with gainWindow := SMap.erase c s.loop.gainWindow } }
    let mean := windowMean w
    if mean.natAbs < q.epsilon || !s.mayCorrect c then s1
    else
      let k : Int := ((SMap.get 16384 s.loop.kappa c : Nat) : Int)
      let v := clamp (k - ((q.lambda : Int) * mean * k + 131072).fdiv 262144) q.kappaMin q.kappaMax
      ({ s1 with loop := { s1.loop with kappa := SMap.set 16384 s1.loop.kappa c v.toNat } }).columnDirty c

/-- A column's deviation times v_ref enters its offset window. -/
def State.offsetEntry (s : State) (c : Nat) (product : Int) : State :=
  let q := s.loop.policy
  let w := product :: SMap.get [] s.loop.offsetWindow c
  if w.length < q.n then { s with loop := { s.loop with offsetWindow := SMap.set [] s.loop.offsetWindow c w } }
  else
    let s1 : State := { s with loop := { s.loop with offsetWindow := SMap.erase c s.loop.offsetWindow } }
    let mean := windowMean w
    if mean.natAbs < q.epsilon || !s.mayCorrect c then s1
    else
      let v := clamp (SMap.get 0 s.loop.offsets c - ((q.lambda : Int) * mean + 131072).fdiv 262144) (-64) 63
      ({ s1 with loop := { s1.loop with offsets := SMap.set 0 s1.loop.offsets c v } }).columnDirty c

/-! ## A profile (R217, R219) -/

/-- The result of a profile so far: columns with evidence, marks given, nozzles flagged, probes started, heads seen. -/
structure Findings where
  columns : Nat := 0
  marks : Nat := 0
  flagged : Nat := 0
  probes : Nat := 0
  heads : List Nat := []

/-- A column of a profile: its marks, the probe phase on it, its flags, a probe that starts, its corrections. -/
def State.judgeColumn (s : State) (p : Profile) (c : Nat) (f : Findings) (delta : Int) (l : List (Nat × Nat)) : State × Findings :=
  let q := s.loop.policy
  let number := s.loop.processed
  let marked := (l.filter fun x => decide (q.sMin ≤ x.2)).map fun x => (x.1, x.2, q.mark p c delta x.2)
  let given := marked.map fun x => (x.1, if SMap.get 0 s.loop.exonerated x.1 = 0 then x.2.2 else Mark.pass)
  let s1 : State := { s with loop := marked.foldl (fun l x => l.give x.1 x.2.2 number) s.loop }
  let s2 := match s1.probe? c with
    | some pr =>
      (match pr.phase.bind (fun i => marked.find? fun x => x.1 == i) with
        | some x => if q.sProbe ≤ x.2.1 then s1.endPhase pr x.1 x.2.2 else s1
        | none => if pr.phase.all s1.serves then s1 else s1.nextPhase pr)
    | none => s1
  let s3 := given.foldl (fun s x => s.judgeWindow x.1) s2
  let bad := given.filter fun x => x.2 != .pass
  let s4 := if 2 ≤ bad.length then s3.startProbe c delta l number else s3
  let s5 := if given.isEmpty || !bad.isEmpty then s4
    else if p.vRef = 0 ∨ 128 ≤ p.vRef then s4.gainEntry c delta
    else s4.offsetEntry c (delta * p.vRef)
  let flagged := (given.filter fun x => SMap.get [] s2.loop.windows x.1 != [] && SMap.get [] s3.loop.windows x.1 == []).length
  (s5, { columns := f.columns + 1, marks := f.marks + given.length, flagged := f.flagged + flagged
         probes := f.probes + (if s3.loop.probes.length < s4.loop.probes.length then 1 else 0)
         heads := (s.lines.geometry.covering c).foldl (fun h n => addNew n h) f.heads })

/-- The columns of a profile, from the lowest. -/
def State.judgeColumns (s : State) (ts : TableSet) (p : Profile) : State × Findings :=
  (List.range ts.geometry.width).foldl (fun r c =>
    match s.evidence ts p c, p.sample c with
    | some l, some delta => r.1.judgeColumn p c r.2 delta l
    | _, _ => r) (s, {})

/-- The profile's command ends; the worker of a forwarded one tells the manager (R218, R272). -/
def State.endProfile (s : State) (p : Profile) (detail : BitVec 32) (f : Findings) : State :=
  let s1 := s.finish p.seq .ok detail (w32 f.columns) (w32 f.marks) (w32 f.flagged) (w32 f.probes)
  match p.mgrSeq with
  | some q => s1.ringSend 0xFD (.control (.profileStatus q 0 detail.toNat))
  | none => s1

/-- PROFILE_PROCESS: the next accepted profile is processed (R219). -/
def execProfileProcess (t : Nat) (s0 : State) : Host.Outcome State Fault Refusal :=
  let s := s0.tick t
  if !s.firmwareRuns then .next s
  else match s.loop.waiting with
    | [] => .next s
    | p :: rest =>
      let s1 : State := { s with loop := { s.loop with waiting := rest, processed := s.loop.processed + 1 } }
      if s1.tooOld p then .next (s1.endProfile p 1 {})
      else
        let r := s1.judgeColumns (s1.tableSet s1.nextWindow) p
        let l := r.1.loop
        let s2 : State := { r.1 with loop := { l with seen := r.2.heads.foldl (fun m n => SMap.insert n (SMap.get 0 m n + 1) (SMap.erase n m)) l.seen } }
        .next (s2.endProfile p 0 r.2)

/-- PROBE_TIMEOUT: the probe timeout passes in hoist ticks (R227). -/
def execProbeTimeout (col t : Nat) (s0 : State) : Host.Outcome State Fault Refusal :=
  let s := s0.tick t
  match s.probe? col with
  | some p => if (s.loop.policy.probeTimeout : Int) ≤ s.pos.tick - p.startTick && s.firmwareRuns then .next (s.endProbe col) else .next s
  | none => .next s

/-! ## INSPECT_PROFILE (R216 to R218) -/

/-- The profile in a buffer. -/
def profileOf (seq : Nat) (mgrSeq : Option Nat) (d : List Byte) : Profile :=
  { seq := seq, id := leAt d 12 4, vRef := leAt d 1 1, pitch := leAt d 4 2, cFirst := leAt d 8 4, lineStart := sleAt d 16 8
    length := leAt d 24 2, samples := (List.range (leAt d 2 2 + 1)).map fun i => sleAt d (32 + 2 * i) 2, mgrSeq := mgrSeq }

/-- The largest d_r in force, in lines. -/
def State.largestDelay (s : State) : Int := (s.lines.geometry.rows.map fun r => (s.qOf r s.pos.line).fdiv 256).foldl max 0

/-- The strip has been fully fired: H has passed its last line and the largest delay in force (R217). -/
def State.stripFired (s : State) (d : List Byte) : Bool :=
  decide ((sleAt d 16 8 + leAt d 24 2 + s.largestDelay) * 65536 ≤ s.highWater)

/-- The field conditions of a profile buffer (R216, R217). -/
def profileConds (s : State) (d : List Byte) : List Cond :=
  dataOk 0 [(0, decide (leAt d 0 1 ≤ 15)), (4, decide (16 ≤ leAt d 4 2 ∧ leAt d 4 2 ≤ 256)), (8, decide (leAt d 8 4 ≤ 1048575)),
    (24, decide (128 ≤ leAt d 24 2 ∧ leAt d 24 2 ≤ 2048)), (16, s.stripFired d)]

/-- The node that holds a colour, this chip apart. -/
def State.colourNode (s : State) (colour : Nat) : Option Nat :=
  (s.ring.members.find? fun e => e.colour == colour && some e.node != s.ring.node).map (·.node)

/-- Whether a profile is this bar's own, and whether the manager forwards it. -/
def State.ownProfile (s : State) (d : List Byte) : Bool := leAt d 0 1 == s.ring.colour
def State.forwards (s : State) (d : List Byte) : Bool := !s.ownProfile d && s.ring.role == .manager

/-- The checks of INSPECT_PROFILE. -/
def inspectChecks (inp : HostList) (s : State) (e : JEntry) : Checks :=
  let d := inp.data
  if s.forwards d then
    { params := listRefOk e 0 ++ listOk 0 inp (fun _ => true), noResource := (s.colourNode (leAt d 0 1)).isNone }
  else
    { params := listRefOk e 0 ++ listOk 0 inp (fun n => n == 32 + 2 * (leAt d 2 2 + 1)) ++ profileConds s d ++ dataOk 0 [(0, s.ownProfile d)]
      busy := decide (8 ≤ s.loop.waiting.length) }

/-- A profile is accepted: a duplicate of one of the last 64 is discarded with detail bit 2. -/
def State.acceptProfile (s : State) (p : Profile) : State :=
  if has p.id s.loop.recentIds then s.endProfile p 4 {}
  else { s with loop := { s.loop with waiting := s.loop.waiting ++ [p], recentIds := (p.id :: s.loop.recentIds).take 64 } }

/-- Bytes of a profile in one PROFILE packet: 2,048 less the delivery header and the manager's 64-bit sequence (R243, R272).
DESIGN CHOICE (log 78): the layout of the payload is not given. -/
def profileChunk : Nat := 2032

/-- A profile cut into packets; the last is not full, and may hold nothing. -/
def profileChunks : Nat → List Byte → List (List Byte)
  | 0, _ => []
  | n + 1, d => d.take profileChunk :: (if d.length < profileChunk then [] else profileChunks n (d.drop profileChunk))

/-- The manager forwards a profile in PROFILE packets (R272). -/
def State.forwardProfile (s : State) (seq : Nat) (d : List Byte) : State :=
  match s.colourNode (leAt d 0 1) with
  | none => s
  | some n =>
    let s1 := (profileChunks (d.length / profileChunk + 1) d).foldl (fun s c =>
      let r := s.takeSq 0xFD n
      r.2.sendNumbered 0xFD n r.1 (.inl (.profile seq c))) s
    let f : Forwarded := { seq := seq, node := n, sentAt := s.now }
    ({ s1 with ring := { s1.ring with forwarded := s1.ring.forwarded ++ [f] } }).setRunning seq

/-- INSPECT_PROFILE. It enters the running state when it is forwarded (R309), and on the bar itself when it starts. -/
def execInspectProfile (seq : Nat) (inp : HostList) (t : Nat) (s : State) : Host.Outcome State Fault Refusal :=
  .next (s.command t seq 0x0701 true false (inspectChecks inp) fun s _ =>
    if s.forwards inp.data then s.forwardProfile seq inp.data
    else (s.setRunning seq).acceptProfile (profileOf seq none inp.data))

/-! ## SET_LOOP_POLICY (R231) -/

/-- The policy that the parameters give. -/
def JEntry.policy (e : JEntry) : LoopPolicy :=
  { actions := BitVec.ofNat 4 (e.p8 0), m := e.p8 1, n := e.p8 2, thetaW := e.p16 4, thetaD := e.p16 6, thetaM := e.p16 8
    sMin := e.p16 10, sProbe := e.p16 12, dMin := e.p16 14, probeLimit := e.p16 16, probeTimeout := e.p16 18, lambda := e.p16 20
    epsilon := e.p8 22, kappaMin := e.p16 24, kappaMax := e.p16 26 }

/-- The checks of SET_LOOP_POLICY. -/
def loopPolicyChecks (_ : State) (e : JEntry) : Checks :=
  let q := e.policy
  { params := [fieldOk 1 (decide (1 ≤ q.m ∧ q.m ≤ 16)), fieldOk 1 (decide (q.m ≤ q.n)), fieldOk 2 (decide (q.n ≤ 16)),
      fieldOk 4 (decide (16 ≤ q.thetaW ∧ q.thetaW ≤ 1023)), fieldOk 4 (decide (q.thetaW < q.thetaD)),
      fieldOk 6 (decide (q.thetaD ≤ 1024)), fieldOk 8 (decide (16 ≤ q.thetaM ∧ q.thetaM ≤ 1024)), fieldOk 10 (decide (1 ≤ q.sMin ∧ q.sMin ≤ 1024)), fieldOk 10 (decide (q.sMin ≤ q.sProbe)),
      fieldOk 12 (decide (q.sProbe ≤ 1024)), fieldOk 14 (decide (1 ≤ q.dMin)), fieldOk 16 (decide (q.probeLimit ≤ 256)),
      fieldOk 18 (decide (64 ≤ q.probeTimeout)), fieldOk 20 (decide (q.lambda ≤ 256)), fieldOk 24 (decide (4096 ≤ q.kappaMin)),
      fieldOk 24 (decide (q.kappaMin < q.kappaMax)), fieldOk 26 (decide (4096 ≤ q.kappaMax))] }

/-- A policy taken: with M, N, θ_w, θ_d, θ_m or s_min changed, windows and exonerations are cleared and probes end. -/
def State.takePolicy (s : State) (q : LoopPolicy) : State :=
  let o := s.loop.policy
  if q.m = o.m ∧ q.n = o.n ∧ q.thetaW = o.thetaW ∧ q.thetaD = o.thetaD ∧ q.thetaM = o.thetaM ∧ q.sMin = o.sMin then
    { s with loop := { s.loop with policy := q } }
  else
    let s1 := s.loop.probes.foldl (fun s p => s.endProbe p.column) s
    { s1 with loop := { s1.loop with policy := q, windows := [], exonerated := [], gainWindow := [], offsetWindow := [] } }

/-- SET_LOOP_POLICY. -/
def execSetLoopPolicy (seq t : Nat) (s : State) : Host.Outcome State Fault Refusal :=
  .next (s.commandOk t seq 0x0702 false loopPolicyChecks fun s e => s.takePolicy e.policy)

/-! ## NOZZLE_OVERRIDE (R226, R230, R324) -/

/-- A state byte that a record may carry: condition 0, 1, 2, 3 or 5, and force not 0b11 (R324). -/
def recordOk (v : Nat) : Bool := has (bits v 0 3) [0, 1, 2, 3, 5] && bits v 4 2 != 3

/-- Force is not set in a row B byte: a relation of a record's index and its state byte. -/
def forceOk (i v : Nat) : Bool := bits v 4 2 == 0 || bits v 4 2 == 3 || i % 4096 < 2048

/-- The records of a buffer: nozzle and state byte. -/
def overrideRecords (d : List Byte) : List (Nat × Nat) :=
  (List.range (d.length / 4)).map fun i => (leAt d (4 * i) 3 % 2 ^ 17, leAt d (4 * i + 3) 1)

/-- The checks of NOZZLE_OVERRIDE. -/
def overrideChecks (inp : HostList) (_ : State) (e : JEntry) : Checks :=
  if e.p8 12 = 1 then
    { params := [fieldOk 16 (decide (e.p32 16 ≤ 65535)), fieldOk 20 (decide (1 ≤ e.p32 20)), fieldOk 16 (decide (e.p32 16 + e.p32 20 ≤ 65536))] }
  else
    { params := listRefOk e 0 ++ [fieldOk 12 (e.p8 12 == 0)] ++ listOk 0 inp (fun n => n % 4 == 0)
        ++ dataOk 0 ((List.range (inp.data.length / 4)).flatMap fun i =>
          let v := leAt inp.data (4 * i + 3) 1
          [(4 * i, forceOk (leAt inp.data (4 * i) 3 % 2 ^ 17) v), (4 * i + 3, recordOk v)]) }

/-- A record applied: a probe on the nozzle's column ends, and the byte is written. -/
def State.override (s : State) (i v : Nat) : State :=
  let s1 := s.endProbe (s.columnOf i)
  let old := s1.nozzle i
  let new := BitVec.ofNat 8 (v % 64)
  let s2 := (s1.setNozzle i new).headDirty (i / 4096) (old &&& 0x0F#8 != new &&& 0x0F#8)
  { s2 with loop := { s2.loop with overridden := addNew i s2.loop.overridden } }

/-- The column form: loop gain and offset go back to 1.0 and 0. -/
def State.resetColumn (s : State) (c : Nat) : State :=
  ({ s with loop := { s.loop with kappa := SMap.erase c s.loop.kappa, offsets := SMap.erase c s.loop.offsets } }).columnDirty c

/-- NOZZLE_OVERRIDE. -/
def execNozzleOverride (seq : Nat) (inp : HostList) (t : Nat) (s : State) : Host.Outcome State Fault Refusal :=
  let form1 := (s.entry? seq).any fun e => e.p8 12 == 1
  .next (s.commandOk t seq 0x0703 (!form1) (overrideChecks inp)
    (fun s e =>
      if e.p8 12 = 1 then ((List.range (e.p32 20)).map (e.p32 16 + ·)).foldl State.resetColumn s
      else (overrideRecords inp.data).foldl (fun s x => s.override x.1 x.2) s)
    (words := fun _ e =>
      let n := if e.p8 12 = 1 then e.p32 20 else (dedupe ((overrideRecords inp.data).map (·.1))).length
      (w32 n, 0, 0, 0)))

end Sys2Proof.Machine
end

