-- ==== Sys2Proof/Machine/HeadCmds.lean ====
section
/-!
DEFINITION. Machine/HeadCmds.lean: the head commands (R189, R194, R195, R198, R206, R209, R323).
-/

namespace Sys2Proof.Machine

/-! ## HEAD_BRINGUP (R189, R208) -/

/-- A port in bring-up: in step 1, in training, reading its record, loading its waveform, or in shadow. -/
def HeadPort.rising (p : HeadPort) : Bool :=
  p.state == .present || p.state == .training || (p.state == .record && (p.step == 6 || p.step == 8 || p.load.isSome)) || p.state == .shadow
    || p.bringupSeq.isSome

/-- A head fenced by the hard limit that has not cooled. -/
def HeadPort.hot (p : HeadPort) : Bool :=
  p.state == .fenced && p.thermalFence && !(p.measured != 0x8000 && decide (p.measured.toInt < p.soft - p.hysteresis))

/-- The checks of HEAD_BRINGUP. -/
def headBringupChecks (s : State) (e : JEntry) : Checks :=
  let n := e.p8 0
  let p := s.port n
  { params := [fieldOk 0 (decide (n ≤ 31))]
    busy := p.state == .inService || p.rising || p.hot || (p.record.isSome && !s.headDelaysFit n)
    noResource := p.state == .absent || !p.presLow }

/-- HEAD_BRINGUP: steps 2 to 8 start; the command ends with the bring-up. -/
def execHeadBringup (seq t : Nat) (s : State) : Host.Outcome State Fault Refusal :=
  .next (s.command t seq 0x0601 false true headBringupChecks fun s e =>
    let n := e.p8 0
    (s.updPort n fun p => { p with bringupSeq := some seq, attempts := 1, limitRate := bitOf (e.p8 1) 0 }).startBringup n false true)

/-! ## HEAD_RETIRE (R206) -/

/-- The checks of HEAD_RETIRE. -/
def headRetireChecks (s : State) (e : JEntry) : Checks :=
  { params := [fieldOk 0 (decide (e.p8 0 ≤ 31) && (s.port (e.p8 0)).state != .absent), fieldOk 1 (decide (e.p8 1 ≤ 1))] }

/-- Whether retiring a port takes away a head that hoists are rendered with. -/
def State.portFires (s : State) (n : Nat) : Bool :=
  s.pos.armed && ((s.port n).state == .inService || (s.port n).joinHoist.isSome)

/-- The immediate form: no further instant is committed, and what the head will not fire is reported; the lines reported. The
reprints wait for `ports`. -/
def State.retireAtOnce (s : State) (n block : Nat) (ports : List Nat := []) : State × Nat :=
  let losses := s.headLosses n block true
  let lines := (losses.map fun x => (x.2.hi - x.2.lo + 1).toNat).sum
  let s1 := (s.dropHead n true).spoilLosses losses ports
  (s1, lines)

/-- HEAD_RETIRE: drained, or at once; while printing is disarmed both forms act at once. -/
def execHeadRetire (seq t : Nat) (s : State) : Host.Outcome State Fault Refusal :=
  .next (s.command t seq 0x0602 false true headRetireChecks fun s e =>
    let n := e.p8 0
    let before := ((s.port n).retiring.map (·.seqs)).getD []
    if (s.port n).state == .retired then (s.releaseThermal n).finish seq .ok
    else if !s.portFires n then ((s.retirePort n).releaseThermal n).finish seq .ok
    else if e.p8 1 = 1 then
      let r := s.retireAtOnce n 2
      (r.1.updPort n fun p => { p with retiring := some { seqs := before ++ [(seq, r.2)], drain := none } }).settleRetire
    else
      let k := s.nextWindow
      let d := match (s.port n).retiring with
        | some r => r.drain
        | none => some (k, 64 * k + s.headDelay n)
      s.updPort n fun p => { p with retiring := some { seqs := before ++ [(seq, 0)], drain := d } })

/-! ## READ_HEAD_RECORD (R323) -/

/-- The record that READ_HEAD_RECORD returns: the copy held, or the one read now, if valid. -/
def State.recordFrom (s : State) (e : JEntry) (fresh : Option (List Byte)) : Option (List Byte) :=
  if e.p8 13 = 0 then (s.port (e.p8 12)).record
  else fresh.bind fun l => if recordValid l then some (l.take (leAt l 6 2)) else none

/-- The checks of READ_HEAD_RECORD. -/
def readRecordChecks (out : HostList) (fresh : Option (List Byte)) (s : State) (e : JEntry) : Checks :=
  let p := s.port (e.p8 12)
  let len := ((s.recordFrom e fresh).map (·.length)).getD 0
  { params := listRefOk e 0 ++ [fieldOk 12 (decide (e.p8 12 ≤ 31)), fieldOk 13 (decide (e.p8 13 ≤ 2))] ++ listOk 0 out (fun n => decide (len ≤ n))
    busy := e.p8 13 != 0 && (p.state == .training || p.state == .shadow || (p.state == .inService && s.pos.armed))
    noResource := p.state == .absent || (s.recordFrom e fresh).isNone }

/-- READ_HEAD_RECORD: `fresh` is what a read in-band or over the two-wire bus returns. -/
def execReadHeadRecord (seq : Nat) (out : HostList) (fresh : Option (List Byte)) (t : Nat) (s : State) : Host.Outcome State Fault Refusal :=
  .next (s.commandOk t seq 0x0603 true (readRecordChecks out fresh)
    (fun s e => s.emit (.buffer seq 0 ((s.recordFrom e fresh).getD [])))
    (words := fun s e => (w32 (((s.recordFrom e fresh).map (·.length)).getD 0), w32 (e.p8 13), 0, 0)))

/-! ## LOAD_WAVEFORM (R194, R195) -/

/-- A grade key. -/
def keyOk (v : Nat) : Bool := decide (v ≤ 15) || v == 0xFF

/-- The checks of LOAD_WAVEFORM. -/
def loadWaveformChecks (inp : HostList) (_ : State) (e : JEntry) : Checks :=
  { params := listRefOk e 0 ++ [fieldOk 12 (decide (e.p8 12 ≤ 15)), fieldOk 13 (keyOk (e.p8 13)), fieldOk 14 (keyOk (e.p8 14)),
      fieldOk 15 (decide (e.p8 15 ≤ 15))] ++ listOk 0 inp (fun n => decide (16 ≤ n ∧ n ≤ 65536)) }

/-- The heads whose matched set a new set changes. -/
def State.reloadPorts (s : State) (set : Nat) : List Nat :=
  (List.range 32).filter fun n =>
    let p := s.port n
    (p.runs || (p.state == .record && p.load.isSome)) && !p.legacy &&
      (match s.matchingSet n with
       | some m => m == set || p.waveSet != some m
       | none => false)

/-- A load that a new one replaces: its command ends once no other head is left for it. -/
def State.supersede (s : State) (n : Nat) : State :=
  match (s.port n).load with
  | none => s
  | some w =>
    let s1 := s.updPort n fun p => { p with load := none }
    match w.seq with
    | some q => if (List.range 32).any fun i => ((s1.port i).load.bind (·.seq)) == some q then s1 else s1.finish q .ok 0 (w32 w.heads)
    | none => s1

/-- LOAD_WAVEFORM: the set is kept, ports in state 4 go on, and the heads whose set it changes load it; the command ends when they have
switched, at once where there are none. -/
def execLoadWaveform (seq : Nat) (inp : HostList) (t : Nat) (s : State) : Host.Outcome State Fault Refusal :=
  .next (s.command t seq 0x0604 true true (loadWaveformChecks inp) fun s e =>
    let w : Waveform := { model := bytesAt e.params 16 16, volumeKey := e.p8 13, speedKey := e.p8 14, curveBase := e.p8 15, data := inp.data }
    let s1 : State := { s with heads := { s.heads with waveforms := Tbl.put none s.heads.waveforms (e.p8 12) (some w) } }
    let l := s1.reloadPorts (e.p8 12)
    let heads := (l.filter fun n => (s1.port n).runs).length
    let s2 := l.foldl (fun s n =>
      match s.matchingSet n with
      | some m => (s.supersede n).loadWave n m (if (s.port n).runs then some seq else none) heads
      | none => s) s1
    let s3 := s2.retryWaiting
    if heads = 0 then s3.finish seq .ok else s3)

/-! ## SET_THERMAL_LIMITS (R198) -/

/-- The ports that a thermal command names, with a record read. -/
def State.thermalPorts (s : State) (v : Nat) : List Nat :=
  (List.range 32).filter fun n => (v == 0xFF || v == n) && (s.port n).record.isSome

/-- The checks of SET_THERMAL_LIMITS. -/
def thermalChecks (s : State) (e : JEntry) : Checks :=
  let l := s.thermalPorts (e.p8 0)
  { params := [fieldOk 0 (decide (e.p8 0 ≤ 31) || e.p8 0 == 0xFF),
      fieldOk 4 (l.all fun n => decide (e.s16 4 ≤ sleAt ((s.port n).record.getD []) 50 2)),
      fieldOk 6 (decide (8 ≤ e.p8 6 ∧ e.p8 6 ≤ 160)), fieldOk 8 (decide (e.p16 8 ≤ 256)), fieldOk 2 (decide (e.s16 2 < e.s16 4))]
    noResource := l.isEmpty }

/-- A port whose head takes blocks. -/
def HeadPort.listens (p : HeadPort) : Bool := !p.legacy && p.linkLive

/-- SET_THERMAL_LIMITS: the limits are set, and sent to each head in LIMITS. -/
def execSetThermalLimits (seq t : Nat) (s : State) : Host.Outcome State Fault Refusal :=
  .next (s.commandOk t seq 0x0605 false thermalChecks fun s e =>
    (s.thermalPorts (e.p8 0)).foldl (fun s n =>
      let s1 := s.updPort n fun p => { p with soft := e.s16 2, hard := e.s16 4, hysteresis := e.p8 6, gain := e.p16 8 }
      if (s1.port n).listens then s1.sendLimits n else s1) s)

/-! ## NOZZLE_TEST (R209) -/

/-- The checks of NOZZLE_TEST. -/
def nozzleTestChecks (out : HostList) (s : State) (e : JEntry) : Checks :=
  let p := s.port (e.p8 12)
  { notInMode := s.power.mode == .hb8 && p.legacy
    params := listRefOk e 0 ++ [fieldOk 12 (decide (e.p8 12 ≤ 31)), fieldOk 14 (decide (e.p16 14 ≤ 4095)), fieldOk 16 (decide (1 ≤ e.p16 16)),
      fieldOk 14 (decide (e.p16 14 + e.p16 16 ≤ 4096))] ++ listOk 0 out (fun n => decide (ceilDiv (e.p16 16) 4 ≤ n))
    busy := p.test.isSome }

/-- NOZZLE_TEST: TEST is sent, and the command ends when every result has arrived; a port that is not in service ends it. -/
def execNozzleTest (seq : Nat) (out : HostList) (t : Nat) (s : State) : Host.Outcome State Fault Refusal :=
  .next (s.command t seq 0x0606 true true (nozzleTestChecks out) fun s e =>
    let n := e.p8 12
    if (s.port n).state != .inService then s.finish seq .unitFenced
    else
      (s.sendHead n 0x74 (leBytes 2 (e.p16 14) ++ leBytes 2 (e.p16 16))).updPort n fun p => { p with
        test := some { seq := seq, first := e.p16 14, count := e.p16 16 } })

end Sys2Proof.Machine
end

