-- ==== Sys2Proof/Machine/HeadEvents.lean ====
section
/-!
DEFINITION. Machine/HeadEvents.lean: presence and bring-up of heads (R187, R189, R190, R192, R207, R211), and what their return blocks
and links do (R183 to R186, R195, R200, R207 to R209).
-/

namespace Sys2Proof.Machine

/-- A happening at a head port: it counts while the blocks are out of reset; RESET_UNITs that wait on ports may end with it. -/
def State.atPort (s : State) (f : State → State) : State :=
  if s.power.phase = .running then (f s).settleHeadResets else s

/-! ## Presence (R187, R189, R207) -/

/-- HEAD_PRESENCE_CHANGE: HPn_PRES_N changes level; a port with no head starts its debounce (R187, R207). In HB-8 mode HP8 to HP31 are
never brought up (R488). -/
def execHeadPresenceChange (p : Fin 32) (present : Bool) (t : Nat) (s0 : State) : Host.Outcome State Fault Refusal :=
  let s := s0.tick t
  if (s.port p.val).presLow == present then .next s
  else
    let starts := present && (s.port p.val).state == .absent && !(s.power.mode == .hb8 && decide (8 ≤ p.val))
    .next (s.updPort p.val fun x => { x with
      presLow := present, presSince := s.now, state := if starts then .present else x.state, step := if starts then 1 else x.step })

/-- PRESENCE_DEBOUNCE_DONE: device firmware brings the port up, through step 8 at cold boot and in HB-8 mode; a later insertion is told
by event 0x8801 (R187, R189, R501). In factory test mode and in standby it is not brought up (R7, R435). -/
def execPresenceDebounceDone (p : Fin 32) (t : Nat) (s0 : State) : Host.Outcome State Fault Refusal :=
  let s := s0.tick t
  let x := s.port p.val
  if x.state != .present || !x.presLow || decide (s.now < x.presSince + 10000000) || s.power.mode == .factory || s.power.standby then .next s
  else
    let boot := has 0 s.evt.openers
    let hb := s.power.mode == .hb8
    .next (s.atPort fun s =>
      let s1 := if boot then s else s.info 0x8801 p.val
      (s1.updPort p.val fun x => { x with attempts := 1, limitRate := false }).startBringup p.val (hb && decide (p.val < 8)) (boot || hb))

/-- HEAD_ABSENT: presence has been high for 10 ms: the port is absent, and what waited for its head ends (R207). -/
def execHeadAbsent (p : Fin 32) (t : Nat) (s0 : State) : Host.Outcome State Fault Refusal :=
  let s := s0.tick t
  let x := s.port p.val
  if x.presLow || x.state == .absent || decide (s.now < x.presSince + 10000000) then .next s
  else
    .next (((s.failPortCommands p.val 0).updPort p.val fun x => { x with
      state := .absent, noCommit := true, retiring := none, load := none, test := none, bringupSeq := none, joinHoist := none, step := 0
      derated := false, thermalFence := false, sent := [], record := none, waveSet := none, waveBank := 0, measured := 0x8000, ink := 0x8000
      predicted := none, predSteps := 0, stepDue := none, fencedCode := 0, legacy := false, rate6 := false }).settleHeadResets)

/-! ## Training (R187, R211) -/

/-- Sixteen TS2 pings. -/
def State.sendPings (s : State) (n : Nat) : State := (List.range 16).foldl (fun s _ => s.sendHead n 0x72 [0]) s

/-- delta_n of sixteen round trips in grid units and a turnaround in intervals of 16 grid units. -/
def deltaOf (pings : List Nat) (turnaround : Nat) : Nat := (divHalfUp ((pings.sum : Nat) - ((256 * turnaround : Nat) : Int)) 32).toNat

/-- Step 5: SYNC. -/
def State.startSync (s : State) (n : Nat) : State := (s.updPort n fun p => { p with step := 5, stepAt := s.now }).sendSync n

/-- Step 4 where both sides declare 6.25 Gb/s, otherwise step 5. -/
def State.afterPings (s : State) (n : Nat) : State :=
  let p := s.port n
  if p.headRate6 && !p.limitRate then (s.updPort n fun p => { p with step := 4, stepAt := s.now }).sendHead n 0x72 [1]
  else s.startSync n

/-- HEAD_TS2: a ping comes back; sixteen give the link delay (R187). -/
def execHeadTs2 (p : Fin 32) (roundTrip t : Nat) (s0 : State) : Host.Outcome State Fault Refusal :=
  let s := s0.tick t
  let x := s.port p.val
  if x.state != .training || x.step != 3 then .next s
  else .next (s.atPort fun s =>
    let l := x.pings ++ [roundTrip]
    if l.length < 16 then s.updPort p.val fun x => { x with pings := l }
    else (s.updPort p.val fun x => { x with pings := l, delta := deltaOf l x.turnaround }).afterPings p.val)

/-- HEAD_TS1: the head's reply to TS1: step 3 begins, or, where step 2 is repeated at 6.25 Gb/s, step 5 (R187). -/
def execHeadTs1 (p : Fin 32) (turnaround : BitVec 16) (rate6 : Bool) (t : Nat) (s0 : State) : Host.Outcome State Fault Refusal :=
  let s := s0.tick t
  let x := s.port p.val
  if x.state != .training || x.legacy then .next s
  else if x.step = 2 then .next (s.atPort fun s =>
    (s.updPort p.val fun x => { x with
      step := 3, stepAt := s.now, pings := [], turnaround := turnaround.toNat, headRate6 := rate6 }).sendPings p.val)
  else if x.step = 4 ∧ x.rate6 then .next (s.atPort fun s => s.startSync p.val)
  else .next s

/-- A rate change that failed falls back to 3.125 Gb/s, with its event. -/
def State.rateFallback (s : State) (n : Nat) : State :=
  ((s.updPort n fun p => { p with rate6 := false }).info 0x8803 n).startSync n

/-- HEAD_RATE_SWITCH: after 1,024 blocks both sides switch to 6.25 Gb/s and repeat step 2, whose end is the head's TS1; a failure falls
back (R187). -/
def execHeadRateSwitch (p : Fin 32) (ok : Bool) (t : Nat) (s0 : State) : Host.Outcome State Fault Refusal :=
  let s := s0.tick t
  let x := s.port p.val
  if x.state != .training || x.step != 4 then .next s
  else .next (s.atPort fun s =>
    if !ok then s.rateFallback p.val
    else if x.rate6 then s
    else (s.updPort p.val fun x => { x with rate6 := true }).sendTraining p.val)

/-- The time limit of a step in ns (R187); `none` where the table gives none. -/
def stepLimit (step : Nat) : Option Nat :=
  match step with
  | 2 => some 5000000
  | 3 => some 1000000
  | 4 => some 5000000
  | 5 => some 1000000
  | 6 => some 50000000
  | _ => none

/-- An attempt at steps 2 to 5 has failed: the fourth fails the bring-up, and its event names the step (R187). -/
def State.attemptFailed (s : State) (n : Nat) : State :=
  let p := s.port n
  if 4 ≤ p.attempts then (s.info 0x8802 n (w32 p.step)).bringupFailed n
  else s.updPort n fun p => { p with step := 0, stepAt := s.now }

/-- HEAD_BRINGUP_STEP_TIMEOUT: a step exceeds its limit: step 4 falls back, step 6 goes over to the two-wire bus, the others end the
attempt (R187). -/
def execHeadBringupStepTimeout (p : Fin 32) (t : Nat) (s0 : State) : Host.Outcome State Fault Refusal :=
  let s := s0.tick t
  let x := s.port p.val
  match stepLimit x.step with
  | none => .next s
  | some limit =>
    if !(x.state == .training || x.state == .record) || x.legacy || decide (s.now < x.stepAt + limit) then .next s
    else .next (s.atPort fun s =>
      if x.step = 6 then (if x.inBandFailed then s else s.readTwoWire p.val)
      else if x.step = 4 then s.rateFallback p.val
      else s.attemptFailed p.val)

/-- HEAD_BRINGUP_RETRY: 1 ms after a failed attempt, steps 2 to 5 are tried again (R187). -/
def execHeadBringupRetry (p : Fin 32) (t : Nat) (s0 : State) : Host.Outcome State Fault Refusal :=
  let s := s0.tick t
  let x := s.port p.val
  if x.state != .training || x.step != 0 || decide (s.now < x.stepAt + 1000000) then .next s
  else .next (s.atPort fun s =>
    (s.updPort p.val fun x => { x with attempts := x.attempts + 1 }).startBringup p.val x.legacy x.through)

/-- LEGACY_TRAINING_DONE: after 1 ms of K28.5 the record is read over the two-wire bus (R211). -/
def execLegacyTrainingDone (p : Fin 32) (t : Nat) (s0 : State) : Host.Outcome State Fault Refusal :=
  let s := s0.tick t
  let x := s.port p.val
  if x.state != .training || !x.legacy || decide (s.now < x.stepAt + 1000000) then .next s
  else .next (s.atPort fun s => s.readTwoWire p.val)

/-! ## The record (R190 to R192, R210, R501) -/

/-- HEAD_RECORD: the record read in-band is complete: it is taken if valid, and otherwise read over the two-wire bus (R192). -/
def execHeadRecord (p : Fin 32) (data : List Byte) (t : Nat) (s0 : State) : Host.Outcome State Fault Refusal :=
  let s := s0.tick t
  let x := s.port p.val
  if x.state != .record || x.step != 6 || x.inBandFailed then .next s
  else .next (s.atPort fun s =>
    if recordValid data then (s.takeRecord p.val (data.take (leAt data 6 2)) false).stepSeven p.val else s.readTwoWire p.val)

/-- TWO_WIRE_READ_DONE: a valid record is taken; in HB-8 mode a head with one that clears flag bit 3 trains natively, and one with no valid
record is served under legacy framing; otherwise the bring-up has failed (R192, R210, R501). -/
def execTwoWireReadDone (p : Fin 32) (data : List Byte) (t : Nat) (s0 : State) : Host.Outcome State Fault Refusal :=
  let s := s0.tick t
  let x := s.port p.val
  if x.state != .record || x.step != 6 || !x.inBandFailed then .next s
  else .next (s.atPort fun s =>
    if recordValid data then
      let s1 := s.takeRecord p.val (data.take (leAt data 6 2)) true
      if !x.legacy then s1.stepSeven p.val
      else if (s1.port p.val).legacy then s1.enterService p.val
      else (s1.updPort p.val fun x => { x with attempts := 1 }).startBringup p.val false x.through
    else if x.legacy then (s.withoutRecord p.val).enterService p.val
    else (s.info 0x8802 p.val (w32 6)).bringupFailed p.val)

/-! ## Return blocks (R183, R185, R186, R195, R200, R208, R209) -/

/-- A drive fault or overcurrent fences the port, lost block lock fails its link, a late marker is counted (R184, R186). -/
def State.driveStatus (s : State) (n : Nat) (drive : BitVec 8) : State :=
  let s1 := if drive.getLsbD 4 then s.updPort n fun p => { p with lateMarker := min 255 (p.lateMarker + 1) } else s
  if drive.getLsbD 3 then s1.fencePort n 0x0801 false false
  else if drive.getLsbD 0 || drive.getLsbD 1 then s1.fencePort n 0x0802 false true
  else s1

/-- HEAD_STATUS: the temperatures are kept; the limits act, the hard one before any other fence; the predictor makes the step of the tick
whose tag the block carries (R186, R197, R199, R200). -/
def execHeadStatus (p : Fin 32) (head ink : BitVec 16) (drive tag : BitVec 8) (t : Nat) (s0 : State) : Host.Outcome State Fault Refusal :=
  let s := s0.tick t
  let x := s.port p.val
  if !(x.linkLive || s.justOut p.val) || x.legacy then .next s
  else .next (s.atPort fun s =>
    let mine := tag == BitVec.ofInt 8 s.pos.tick
    let s1 := s.updPort p.val fun x => { x with measured := head, ink := ink, statusNow := x.statusNow || mine }
    let s2 := (s1.judgeTemperature p.val).driveStatus p.val drive
    if mine && s2.firmwareRuns && (s2.port p.val).runs then s2.settlePredictor p.val true true else s2)

/-- HEAD_ALERT: the temperature measured acts on the limits (R199, R200). -/
def execHeadAlert (p : Fin 32) (head : BitVec 16) (_flags : BitVec 8) (t : Nat) (s0 : State) : Host.Outcome State Fault Refusal :=
  let s := s0.tick t
  let x := s.port p.val
  if !(x.linkLive || s.justOut p.val) || x.legacy then .next s
  else .next (s.atPort fun s => (s.updPort p.val fun x => { x with measured := head }).judgeTemperature p.val)

/-- A mismatch in shadow: the port is fenced again, and the return counts as an attempt (R208, R391). -/
def State.shadowMismatchAs (s : State) (d : Detection) : State :=
  let byCommand := (s.port d.unit).bringupSeq.isSome || (s.port d.unit).resetCmd.isSome
  s.unlessShadowed d fun s =>
    (s.updPort d.unit fun p => { p with returns := afterMismatch s.now byCommand p.returns }).fencePortAs d false true

/-- The same with its code and port alone. -/
def State.shadowMismatch (s : State) (n : Nat) : State := s.shadowMismatchAs { code := 0x0808, unit := n }

/-- HEAD_ECHO: in shadow the head's CRC and marker count are compared with the port's own; ticks that match are counted (R208). -/
def execHeadEcho (p : Fin 32) (crc : BitVec 32) (fires tag : BitVec 8) (t : Nat) (s0 : State) : Host.Outcome State Fault Refusal :=
  let s := s0.tick t
  let x := s.port p.val
  if x.state != .shadow || tag != BitVec.ofInt 8 s.pos.tick then .next s
  else match x.echoExpect with
    | none => .next s
    | some (c, f) => .next (s.atPort fun s =>
      if c != crc || f != fires.toNat then s.shadowMismatch p.val
      else s.updPort p.val fun x => { x with
        echoExpect := none, echoTick := some s.pos.tick
        clean := if x.echoTick == some s.pos.tick then x.clean else x.clean + 1 })

/-- HEAD_SHADOW_END: after two whole hoists without a mismatch the head's nozzles return from the next render window, and the port serves
when that hoist is due; with printing disarmed there is no shadow to run (R208). -/
def execHeadShadowEnd (p : Fin 32) (t : Nat) (s0 : State) : Host.Outcome State Fault Refusal :=
  let s := s0.tick t
  let x := s.port p.val
  if x.state != .shadow then .next s
  else .next (s.atPort fun s =>
    if !s.pos.armed then s.serve p.val
    else if 2 ≤ x.clean && x.joinHoist.isNone then s.updPort p.val fun x => { x with joinHoist := some s.nextWindow }
    else s)

/-- The time a row-line takes on the two data lanes, in ns, rounded up: 66 or 130 blocks of 66 bits (R180). -/
def lineTime (depth : Nat) (rate6 : Bool) : Nat :=
  let pairs := if depth = 4 then 65 else 33
  if rate6 then ceilDiv (pairs * 1056) 100 else ceilDiv (pairs * 2112) 100

/-- The fire instant of a row-line, predicted or committed, in ns. -/
def State.instantOf (s : State) (r : Nat) (line : Int) : Option Rat :=
  match s.pos.committed.find? (fun c => c.row == r && c.line == line) with
  | some c => some ((c.f : Rat) / 50)
  | none => (s.pos.pending.find? (fun c => c.row == r && c.line == line)).bind (·.instant)

/-- A row-line that cannot be resent, or whose resend fails, is not fired: fault 0x0805, its page is reprinted, and too many fail the
link (R183, R184). -/
def State.loseLine (s : State) (r : Nat) (line : Int) : State :=
  let n := r / 2
  let dry := (s.port n).dry line
  let c := s.headColumns r
  let s1 : State := { s with pos := { s.pos with committed := s.pos.committed.filter fun x => !(x.row == r && x.line == line) } }
  let s2 := ((s1.forget r line).updPort n fun p => { p with
    lost := min 255 (p.lost + 1)
    lostAt := (s.highWater :: p.lostAt).filter fun h => decide (s.highWater - 1024 * 65536 ≤ h) }).fault 0x0805 n
  let s3 := if dry then s2
    else ((s2.blankEntries r (s.firePeriod r line) 0 2047).spoilLine r line c.1 c.2 8 .each).hbErr 16
  if 8 < (s3.port n).lostAt.length then s3.fencePort n 0x0801 false false else s3

/-- The bytes that a row-line was sent with. -/
def HeadPort.sentBytes (p : HeadPort) (x : SentLine) : List Byte := if p.dry x.line then shadowBytes x.line x.bytes.length else x.bytes

/-- HEAD_NAK: a row-line arrived with an error: it is sent once more if that can end 160 ns before its instant (R183). -/
def execHeadNak (p : Fin 32) (rowB : Bool) (tag : BitVec 16) (t : Nat) (s0 : State) : Host.Outcome State Fault Refusal :=
  let s := (s0.tick t).advance
  let x := s.port p.val
  if !x.runs || x.legacy then .next s
  else .next (s.atPort fun s =>
    let s1 := s.updPort p.val fun x => { x with nak := min 255 (x.nak + 1) }
    match x.sent.find? (fun l => l.row == b2n rowB && BitVec.ofInt 16 l.line == tag) with
    | none => s1
    | some l =>
      let r := 2 * p.val + l.row
      let inTime := (s.instantOf r l.line).all fun at_ => decide ((s.now : Rat) + lineTime s.depth x.rate6 + 160 ≤ at_)
      if l.nakked || !inTime then s1.loseLine r l.line
      else
        let data := x.sentBytes l
        let mark := fun (y : SentLine) => if y.row == l.row && y.line == l.line then { y with nakked := true, resent := true } else y
        (s1.sendBlocks p.val l.row l.line data true).updPort p.val fun x => { x with sent := x.sent.map mark, echoCrc := crcRun x.echoCrc data })

/-- A head has acknowledged its waveform: WAVE_SWITCH names the next hoist tick. A port in bring-up goes on with it; one in service takes
it over at the tick (R187, R195). -/
def State.waveAcked (s : State) (n : Nat) (w : WaveLoad) : State :=
  let k := s.pos.tick + 1
  let s1 := s.sendHead n 0x44 (leBytes 1 w.bank ++ leBytes 2 (unsign 16 k))
  if (s1.port n).runs then s1.updPort n fun p => { p with load := some { w with acked := true, switchTick := some k } }
  else (s1.updPort n fun p => { p with waveSet := some w.set, waveBank := w.bank, load := none }).enterService n

/-- HEAD_ACK: a waveform in the head, or the SYNC of step 5 or of the recovery (R450), is confirmed; a bank switch and a register write need nothing more (R185, R187,
R195). -/
def execHeadAck (p : Fin 32) (kind : BitVec 8) (value : BitVec 32) (t : Nat) (s0 : State) : Host.Outcome State Fault Refusal :=
  let s := s0.tick t
  let x := s.port p.val
  if kind = 1 then
    match x.load with
    | some w => if w.acked then .next s else .next (s.atPort fun s => (s.waveAcked p.val w).tryArm)
    | none => .next s
  else if kind = 4 && x.syncCount == some value then
    .next (s.atPort fun s =>
      let s1 := s.updPort p.val fun x => { x with syncCount := none }
      if x.state == .training && x.step == 5 then
        (((s1.sendHead p.val 0x72 [2]).sendHead p.val 0x50 (leBytes 2 0 ++ leBytes 2 5252)).updPort p.val fun x => { x with
          state := .record, step := 6, stepAt := s.now })
      else if x.resuming then ((s1.updPort p.val fun x => { x with resuming := false }).sendLimits p.val).tryArm
      else s1)
  else .next s

/-- WAVEFORM_ACK_TIMEOUT: no ACK within 5 ms: the load is sent once more, and then the port is fenced (R195). -/
def execWaveformAckTimeout (p : Fin 32) (t : Nat) (s0 : State) : Host.Outcome State Fault Refusal :=
  let s := s0.tick t
  match (s.port p.val).load with
  | none => .next s
  | some w =>
    if w.acked || decide (s.now < w.sentAt + 5000000) then .next s
    else .next (s.atPort fun s =>
      if w.retried then s.fencePort p.val 0x0804 false true
      else
        let s1 := s.loadWave p.val w.set w.seq w.heads
        s1.updPort p.val fun x => { x with load := x.load.map fun y => { y with retried := true } })

/-- HEAD_NCHK: results of a nozzle test go to the loop; with the last of them the test ends (R209, R223, R324). -/
def execHeadNchk (p : Fin 32) (first : BitVec 16) (results : List (BitVec 2)) (t : Nat) (s0 : State) : Host.Outcome State Fault Refusal :=
  let s := s0.tick t
  match (s.port p.val).test with
  | none => .next s
  | some w => .next (s.atPort fun s =>
    let new := ((List.range results.length).map fun i => (first.toNat + i, results.getD i 0)).filter fun x =>
      decide (w.first ≤ x.1 ∧ x.1 < w.first + w.count) && !(w.results.any fun y => y.1 == x.1)
    let s1 := if s.firmwareRuns then new.foldl (fun s x => s.testResult (4096 * p.val + x.1) x.2) s else s
    (s1.updPort p.val fun x => { x with test := some { w with results := w.results ++ new } }).endTest p.val)

/-! ## The link (R184) -/

/-- The link of a port has failed: it is fenced, and one that stays in service through a warm reset is brought up at the recovery (R184,
R205, R450). -/
def State.headLinkLost (s : State) (n : Nat) : State :=
  if s.power.phase = .running then s.atPort fun s => s.fencePort n 0x0801 false false
  else if (s.port n).state == .inService then s.updPort n fun x => { x with linkLost := true }
  else s

/-- HEAD_LINK_FAIL: the return lane loses signal or lock, or presence has been high for 10 µs: no committed instant of the port is carried
out, and it is fenced (R184, R205, R207). -/
def execHeadLinkFail (p : Fin 32) (cause : HeadLinkCause) (t : Nat) (s0 : State) : Host.Outcome State Fault Refusal :=
  let s := s0.tick t
  let x := s.port p.val
  match cause with
  | .presence => if x.presLow || decide (s.now < x.presSince + 10000) then .next s else .next (s.headLinkLost p.val)
  | .signal => .next ((s.updPort p.val fun x => { x with los := true }).headLinkLost p.val)
  | .lock => .next ((s.updPort p.val fun x => { x with lol := true }).headLinkLost p.val)

/-- RETURN_LANE_SIGNAL_RESTORED: the present conditions LOS and LOL clear (HDP_PORTn_STATUS). -/
def execReturnLaneSignalRestored (p : Fin 32) (s : State) : Host.Outcome State Fault Refusal :=
  .next (s.updPort p.val fun x => { x with los := false, lol := false })

/-! ## Legacy temperature (R211, R502) -/

/-- LEGACY_TEMP_READ: a temperature read over the two-wire bus: HB_TEMPn, the hard limit, the event of the soft one, and the predictor's
step (R211, R502). -/
def execLegacyTempRead (p : Fin 32) (raw : BitVec 16) (t : Nat) (s0 : State) : Host.Outcome State Fault Refusal :=
  let s := s0.tick t
  let x := s.port p.val
  if !x.legacy || !x.runs then .next s
  else .next (s.atPort fun s =>
    let below := x.measured == 0x8000 || decide (x.measured.toInt < x.soft)
    let s1 := s.updPort p.val fun x => { x with measured := raw }
    let s2 : State := { s1 with hb := { s1.hb with temps := Tbl.put none s1.hb.temps p.val (some (raw.truncate 12)) } }
    let s3 := if below && decide (x.soft ≤ raw.toInt) then s2.info 0x8804 p.val (w32i raw.toInt) else s2
    let s4 := s3.judgeTemperature p.val
    if s4.firmwareRuns && (s4.port p.val).runs then s4.settlePredictor p.val true false else s4)

end Sys2Proof.Machine
end

