-- ==== Sys2Proof/Machine/Persist.lean ====
section
/-!
DEFINITION. Machine/Persist.lean: writes of the calibration set and of head entries to the configuration flash (R232, R424 to R430).
-/

namespace Sys2Proof.Machine

/-- CAL_SET_WRITE: the set is written in two-copy form; a CAL_COMMIT completes with OK, with detail bit 0 for
ONECOPY and the generation written (R426, R427); not in a warm reset or in the fault state (R468). With every write failed the manual names no status. -/
def execCalSetWrite (fl : FlashResult) (t : Nat) (s0 : State) : Host.Outcome State Fault Refusal :=
  let s := s0.tick t
  if !s.calWriteDue || s.flashQuiet then .next s
  else
    let s1 := s.writeCalSet fl
    let s2 : State := if fl.first || fl.second || fl.other then { s1 with evt := { s1.evt with overflowDirty := none } } else s1
    match s.cal.commitSeq with
    | none => .next s2.settleShutdown
    | some q =>
      if fl.first || fl.second || fl.other then
        .next (s2.clearCalMark.finish q .ok (w32 (b2n (!s1.cal.oneCopy.isEmpty))) (w32 s.calContent.generation)).settleShutdown
      else
        let r := s1.freeFailure
        .next (r.2.finish q r.1).settleShutdown

/-- The moment from which a changed entry is written: at once where a condition or an out bit changed, at the end of 10 minutes
otherwise (R232). -/
def HeadSlot.dueAt (h : HeadSlot) : Option Nat := h.dirtyAt.map fun m => if h.urgent then m else m + 600000000000

/-- The moment from which a slot's entry may be written; while a SHUTDOWN_PREPARE is completing, a changed entry is due at once (R317). -/
def State.entryDue (s : State) (h : HeadSlot) : Option Nat := if s.journal.shutdownSeq.isSome then h.dirtyAt else h.dueAt

/-- The content of a slot's entry now: that of the port whose present head has its serial, or else of one that held it last, or, where no
port has held it, what it held (R232). The save count is the generation of the slot (R425, R426). -/
def State.slotContent (s : State) (h : HeadSlot) : HeadEntry :=
  let save := ((h.entry.map (·.saveCount)).getD 0 + 1) % 2 ^ 32
  let mine := (List.range 32).filter fun n => (s.port n).serial == h.holder
  match (mine.find? fun n => (s.port n).record.isSome).or mine.head?, h.entry with
  | some n, _ => s.headContent n h.holder save
  | none, some e => { e with serial := h.holder, saveCount := save }
  | none, none => { serial := h.holder, saveCount := save, states := [], drops := [], kappa := [], offset := [] }

/-- HEAD_ENTRY_WRITE: a head entry is written in two-copy form; the mark 'calibration awaiting check' and a SHUTDOWN_PREPARE may wait for it
(R232, R253, R317, R426). -/
def execHeadEntryWrite (slot : Fin 64) (fl : FlashResult) (t : Nat) (s0 : State) : Host.Outcome State Fault Refusal :=
  let s := s0.tick t
  let h := Tbl.get {} s.flash.heads slot.val
  match s.entryDue h with
  | none => .next s
  | some m =>
    if s.now < m || !s.firmwareRuns || s.flashQuiet || h.holder == 0 then .next s
    else
      let w := twoCopyWrite (·.saveCount) (readHead h.copyA) (readHead h.copyB) (s.slotContent h) fl
      let h1 : HeadSlot := { copyA := w.1.map sealHead, copyB := w.2.1.map sealHead }
      let s1 : State := { s with
        flash := { s.flash with heads := Tbl.put {} s.flash.heads slot.val h1 }
        cal := { s.cal with oneCopy := oneCopyAfter s.cal.oneCopy slot.val w.2.2.1 w.2.2.2 } }
      .next (s1.checkCalMark).settleShutdown

end Sys2Proof.Machine
end

