-- ==== Sys2Proof/Machine/Events.lean ====
section
/-!
DEFINITION. Machine/Events.lean: the event recorder at work: commits to flash, the overflow count, freeze, the erase procedure, the
episode lock, and the commands EVT_MARK, EPISODE_BEGIN and EPISODE_END (R396 to R412, R329).
-/

namespace Sys2Proof.Machine

/-! ## Commit (R402, R403, R405, R406) -/

/-- Records that the service area holds at most. -/
def serviceSize : Nat := 196608

/-- The episode area after a record of an episode: the first of a new one replaces the area; the first 32,768 stay, and a ring of 32,768
takes the later ones; a record for the first slot of a sector of the ring finds the sector erased, which takes the 2,048 oldest of a full ring
(R405). -/
def Evt.putEpisode (e : Evt) (b : Buffered) : Evt :=
  if b.episode ≠ e.areaOf then
    { e with areaOf := b.episode, episodeFirst := [b.record], episodeRing := [], episodeCount := 1 }
  else if e.episodeFirst.length < 32768 then
    { e with episodeFirst := e.episodeFirst ++ [b.record], episodeCount := e.episodeCount + 1 }
  else
    let kept := if e.episodeRing.length < 32768 then e.episodeRing else e.episodeRing.drop (e.episodeRing.length - 30720)
    { e with episodeRing := kept ++ [b.record], episodeCount := e.episodeCount + 1 }

/-- The service area after a record; once full it takes no more, with vector 9 and event 0x8E03 (R403, R410). -/
def State.putService (s : State) (r : Record) : State :=
  let s1 : State := { s with evt := { s.evt with service := s.evt.service ++ [r] } }
  if s1.evt.service.length < serviceSize then s1
  else ({ s1 with evt := { s1.evt with svcFull := true } }.interrupt 9).info 0x8E03

/-- A double failure of a flash write raises 0x0E01 (R406). -/
def State.commitFault (s : State) (failed : Bool) : State := if failed then s.fault 0x0E01 else s

/-- A record committed to the areas it is bound for; one that reaches none counts as overflow (R403, R406). -/
def State.commitRecord (s : State) (b : Buffered) (fl : CommitResult) : State :=
  let service := b.toService && decide (s.evt.service.length < serviceSize)
  if b.spilled && !fl.spill then s.overflowed
  else if !service && !b.toEpisode then s.overflowed
  else
    let s1 : State := if b.toEpisode && fl.episode then { s with evt := s.evt.putEpisode b } else s
    let s2 := if service && fl.service then s1.putService b.record else s1
    let s3 := (s2.commitFault (service && !fl.service)).commitFault (b.toEpisode && !fl.episode)
    if (service && fl.service) || (b.toEpisode && fl.episode) then s3 else s3.overflowed

/-- The place in the buffer of the record to commit next: the oldest, but while the service area is being erased the oldest that is not
bound for it; a record is committed once it has been copied to the spill (R401, R406, R409). -/
def Evt.nextCommit (e : Evt) : Option Nat := e.buffer.findIdx? fun b => b.spilled && (e.eraseAt.isNone || !b.toService)

/-- EVENT_COMMIT: the next record of the buffer is committed; none while a freeze holds the commits, nor in a warm reset (R406, R410, R468). -/
def execEventCommit (fl : CommitResult) (t : Nat) (s0 : State) : Host.Outcome State Fault Refusal :=
  let s := s0.tick t
  if s.power.phase = .powerOnReset ∨ s.resetting ∨ s.evt.freeze then .next s
  else match s.evt.nextCommit.bind fun i => (s.evt.buffer[i]?).map fun b => (i, b) with
    | none => .next s
    | some (i, b) =>
      let s1 : State := { s with evt := { s.evt with buffer := s.evt.buffer.eraseIdx i } }
      if s.shotAt 0x12 0 then .next ((s1.fault 0x0E01).overflowed).settleShutdown
      else .next (s1.commitRecord b fl).settleShutdown

/-- OVERFLOW_SAVE: the count is saved with the calibration set, within 10 s of a change (R407); a write that holds in no copy leaves it to be
saved. Writes of the set never overlap: one in progress takes the count with it (R426). -/
def execOverflowSave (fl : FlashResult) (t : Nat) (s0 : State) : Host.Outcome State Fault Refusal :=
  let s := s0.tick t
  if s.power.phase = .powerOnReset ∨ s.evt.overflowDirty.isNone ∨ s.cal.writing ∨ s.flashQuiet then .next s
  else
    let s1 := s.writeCalSet fl
    let cal : Cal := { s1.cal with setDirty := s.cal.setDirty }
    let dirty := if fl.first || fl.second || fl.other then none else s.evt.overflowDirty
    .next ({ s1 with cal := cal, evt := { s1.evt with overflowDirty := dirty } }).settleShutdown

/-! ## Freeze and cursor (R409, R410) -/

/-- FREEZE_WRITE: commits stop, and LAPSED clears; or they resume. -/
def execFreezeWrite (on : Bool) (t : Nat) (s0 : State) : Host.Outcome State Fault Refusal :=
  let s := s0.tick t
  if !s.hostReaches then .next s
  else if on then .next { s with evt := { s.evt with freeze := true, lapsed := false, cursorAt := s.now } }
  else .next { s with evt := { s.evt with freeze := false } }

/-- FREEZE_LAPSE: 10 s after the last write to EVT_CURSOR (or, without one, after FREEZE was set) the freeze lapses, with event 0x8E02. -/
def execFreezeLapse (t : Nat) (s0 : State) : Host.Outcome State Fault Refusal :=
  let s := s0.tick t
  if !s.evt.freeze || decide (s.now < s.evt.cursorAt + 10000000000) then .next s
  else .next ({ s with evt := { s.evt with freeze := false, lapsed := true } }.info 0x8E02)

/-- EVT_CURSOR_WRITE: the cursor's 34 bits; the lapse time of a freeze starts again. -/
def execEvtCursorWrite (v : BitVec 64) (t : Nat) (s0 : State) : Host.Outcome State Fault Refusal :=
  let s := s0.tick t
  if !s.hostReaches then .next s
  else .next { s with evt := { s.evt with cursor := BitVec.ofNat 64 (v.toNat % 2 ^ 34), cursorAt := s.now } }

/-! ## Episode lock and erase (R403, R405, R409) -/

/-- EPUNLOCK: the episode area is unlocked; the next episode to open uses it. -/
def execEpunlock (s : State) : Host.Outcome State Fault Refusal :=
  if !s.hostReaches then .next s else .next { s with evt := { s.evt with locked := false } }

/-- ERASEARM: the erase is armed for 1 s. -/
def execErasearm (t : Nat) (s0 : State) : Host.Outcome State Fault Refusal :=
  let s := s0.tick t
  if !s.hostReaches then .next s else .next { s with evt := { s.evt with eraseArmAt := some s.now } }

/-- ERASE: an armed erase starts; without a valid arm it is ignored. -/
def execErase (t : Nat) (s0 : State) : Host.Outcome State Fault Refusal :=
  let s := s0.tick t
  if !s.hostReaches || s.evt.eraseAt.isSome || !(s.evt.eraseArmAt.any fun m => decide (s.now ≤ m + 1000000000)) then .next s
  else .next { s with evt := { s.evt with eraseArmAt := none, eraseAt := some s.now } }

/-- A record made as the first of a new fill of the service area (R403): it is bound for that area as well as for where R402 sends it, and it
goes ahead of the records that waited in the buffer for the erase to end. -/
def State.noteFirst (s : State) (n : Note) : State :=
  let s1 := s.note n
  { s1 with evt := { s1.evt with buffer := match s1.evt.buffer.getLast? with
    | some b => if b.record.seq = s1.evt.newest then { b with toService := true } :: s1.evt.buffer.dropLast else s1.evt.buffer
    | none => [] } }

/-- ERASE_DONE: the service area is empty but for 0x8E04, which carries the overflow count before the erase; the count is cleared. -/
def execEraseDone (t : Nat) (s0 : State) : Host.Outcome State Fault Refusal :=
  let s := s0.tick t
  if s.evt.eraseAt.isNone then .next s
  else
    let before := s.evt.overflow
    let s1 : State := { s with evt := { s.evt with
      eraseAt := none, svcFull := false, service := [], overflow := 0, overflowDirty := some (s.evt.overflowDirty.getD s.now) } }
    .next (s1.noteFirst { code := 0x8E04, p0 := w32 before })

/-! ## Host marks and episodes (R329, R404, R411) -/

/-- EVT_MARK: a record of the host's own, code 0x8180 + P0, with its severity and three parameters. -/
def execEvtMark (seq t : Nat) (s : State) : Host.Outcome State Fault Refusal :=
  .next (s.commandOk t seq 0x0C01 false
    (fun _ e => { params := [fieldOk 0 (decide (e.p8 0 ≤ 127)), fieldOk 1 (decide (e.p8 1 ≤ 7))] })
    (fun s e => s.note { code := 0x8180 + e.p8 0, severity := e.p8 1, p0 := w32 (e.p32 4), p1 := w32 (e.p32 8), p2 := w32 (e.p32 12) })
    (fun _ _ => 0) fun s _ => (w32 s.evt.newest, 0, 0, 0))

/-- EPISODE_BEGIN: a host episode opens; BUSY while any is open. -/
def execEpisodeBegin (seq t : Nat) (s : State) : Host.Outcome State Fault Refusal :=
  .next (s.command t seq 0x0C02 false true (fun s _ => { busy := !s.evt.openers.isEmpty }) fun s e =>
    let s1 := ({ s with evt := { s.evt with hostValue := w32 (e.p32 0) } }).episodeOpen 4 (w32 (e.p32 0))
    s1.finish seq .ok 0 (w32 s1.evt.episodeFrom))

/-- EPISODE_END: the host's part ends; BAD_PARAM with no episode open, BUSY where the host has no part in the one that is. -/
def execEpisodeEnd (seq t : Nat) (s : State) : Host.Outcome State Fault Refusal :=
  .next (s.command t seq 0x0C03 false true
    (fun s _ => { params := [fieldOk 0 (!s.evt.openers.isEmpty)], busy := !has 4 s.evt.openers }) fun s _ =>
    let s1 := s.episodeClose 4 s.evt.hostValue
    s1.finish seq .ok 0 (w32 s1.evt.newest))

end Sys2Proof.Machine
end

