-- ==== Sys2Proof/Machine/Faults.lean ====
section
/-!
DEFINITION. Machine/Faults.lean: FAULT_DETECT with the reactions of the detector inventory, the fault state's end, the FAULT_N pulse, the
writes of the FLT_ registers, and the commands FAULT_INJECT and FAULT_CLASS_SET (R369 to R384).
-/

namespace Sys2Proof.Machine

/-! ## FAULT_DETECT (R372, R373) -/

/-- The detection of the front record's parity failure, or of its commit's: the record counts as overflow (R372, R406). -/
def State.dropFront (s : State) : State :=
  match s.evt.buffer with
  | [] => s
  | _ :: rest => ({ s with evt := { s.evt with buffer := rest } }).overflowed

/-- Fabric parity on the row-line path to a port: the row-line that the port was sent last, if it is still to fire, fires level 0 (R372;
DEDUCED, log 107). -/
def State.pathFault (s : State) (d : Detection) : State :=
  match (s.port d.unit).sent.reverse.find? fun x => !x.lost with
  | none => s.detect d
  | some x =>
    let blank := fun (y : SentLine) => if y.row == x.row && y.line == x.line then { y with bytes := List.replicate y.bytes.length 0, lost := true } else y
    (s.updPort d.unit fun p => { p with sent := p.sent.map blank }).rowLineFault d (2 * d.unit + x.row) x.line

/-- A detection with the reaction of the detector inventory (R372). What a reaction needs beyond the code and the unit (a stripe and its
hoist, a memory address, a row-line, a rate) comes with the row of that happening; here such a code is classed and recorded. -/
def State.detectAndReact (s : State) (d : Detection) : State :=
  let u := d.unit
  match d.code with
  | 0x0102 => (s.detect d).hostInterfaceReset 6
  | 0x0401 => s.unitFailedAs d
  | 0x0402 => s.laneFailedAs d
  | 0x0403 => if (s.unit u).state == .shadow then s.unitMismatchAs d else (s.detect d).fenceUnit u 0x0403
  | 0x0404 => if (s.lane u).state == .shadow then s.laneMismatchAs d else (s.detect d).fenceLane u 0x0404
  | 0x0502 | 0x0503 | 0x0504 | 0x0505 | 0x0506 => s.pennantFailedAs d
  | 0x0509 => if (s.pennant u).state == .shadow then s.pennantMismatchAs d else (s.detect d).fencePennant u 0x0509
  | 0x0605 => s.pathFault d
  | 0x0701 | 0x0703 => if s.pos.armed then (s.detect d).stopFiring 7 else s.detect d
  | 0x0801 => if (s.port u).runs then s.fencePortAs d false false else s.detect d
  | 0x0802 | 0x0804 => if (s.port u).runs then s.fencePortAs d false true else s.detect d
  | 0x0808 => if (s.port u).state == .shadow then s.shadowMismatchAs d else if (s.port u).runs then s.fencePortAs d false true else s.detect d
  | 0x0803 => if (s.port u).runs then s.fencePortAs d true true else s.detect d
  | 0x0901 =>
    let sd : Side := if u = 0 then .e else .w
    if (s.ring.port sd).state == .shadow || (s.ring.port sd).state == .inService then s.linkFailed sd d else s.detect d
  | 0x0A01 | 0x0A02 | 0x0A03 => if u < 4 then s.axisFaultAs d else s.detect d
  | 0x0A04 => (s.detect d).disarmNow 0x0A
  | 0x0C02 => if s.pos.armed then (s.detect d).stopFiring 0xC else s.detect d
  | 0x0E01 => (s.detect d).dropFront
  | 0x0F01 => (s.detect d).warmReset 3
  | _ => s.detect d

/-- How many units a fault code's index can name. -/
def unitsOf (code : Nat) : Nat :=
  match code / 256 with
  | 0x05 => 16
  | 0x08 => 32
  | 0x09 => 2
  | 0x0A => 4
  | _ => if code == 0x0401 || code == 0x0403 then 4 else if code == 0x0402 || code == 0x0404 then 32 else 256

/-- One detection taken at its own moment. One whose detectors are held off, or whose code or unit is not assigned, is none; a shadowed one is
recorded as its parent's and has no reaction (R373, R380). -/
def State.takeDetection (s : State) (x : Nat × Detection) : State :=
  let s1 : State := { s with now := x.1 }
  if (defaultClass x.2.code).isNone || decide (unitsOf x.2.code ≤ x.2.unit) || s1.heldOff x.2.code then s1
  else if s1.shadowed x.2.code x.2.unit then s1.detect x.2
  else (s1.detectAndReact x.2).settleDisarm.settleShutdown

/-- The class that a detection is taken with: a fence that leaves too few units is C3 (R377). -/
def State.classTaken (s : State) (d : Detection) : Nat :=
  match d.code with
  | 0x0401 => if s.lastUnit d.unit then 3 else s.classOf d.code
  | 0x0402 => if s.lastLane d.unit && s.power.mode == .hb8 then 3 else s.classOf d.code
  | 0x0502 | 0x0503 | 0x0504 | 0x0505 | 0x0506 => if s.needsPennant d.unit then 3 else s.classOf d.code
  | c => s.classOf c

/-- The detections that wait next in the queue and reach the collector in a sentinel cycle, with their moments. -/
def cycleDetections (now cycle : Nat) : List Instr → List (Nat × Detection)
  | .faultDetect code u p0 p1 p2 t :: rest =>
    if sentinelCycle (max now t) = cycle then
      (max now t, { code := code.toNat, unit := u.toNat, p0 := some p0, p1 := some p1, p2 := some p2 }) :: cycleDetections now cycle rest
    else []
  | _ => []

/-- Detections of one sentinel cycle: by class, highest first, then by code, each with its own time (R373). -/
def State.takeCycle (s : State) (l : List (Nat × Detection)) : State :=
  let s1 := (sortBy (fun x => ((3 - s.classTaken x.2) * 65536 + x.2.code : Nat)) l).foldl State.takeDetection s
  { s1 with now := l.foldl (fun m x => max m x.1) s.now }

/-- FAULT_DETECT: a detection reaches the collector, with those of its sentinel cycle that wait behind it; their own commands then find it
done (R373). -/
def execFaultDetect (code : BitVec 16) (u : BitVec 8) (p0 p1 : BitVec 32) (p2 : BitVec 16) (t : Nat) (s0 : State) :
    Host.Outcome State Fault Refusal :=
  let s := s0.tick t
  if s.flt.taken ≠ 0 then .next { s with flt := { s.flt with taken := s.flt.taken - 1 } }
  else
    let more := cycleDetections s.now (sentinelCycle s.now) s.pending
    .next (({ s with flt := { s.flt with taken := more.length } }).takeCycle
      ((s.now, { code := code.toNat, unit := u.toNat, p0 := some p0, p1 := some p1, p2 := some p2 }) :: more))

/-! ## The end of the fault state (R375, R376) -/

/-- FAULT_RESET_EXPIRE: with HOLD at 0, 2 ms after entry (or after HOLD was cleared) and with every axis at rest, the collector lets the
sentinel watchdog expire: 0x0F01 and a warm reset. -/
def execFaultResetExpire (t : Nat) (s0 : State) : Host.Outcome State Fault Refusal :=
  let s := s0.tick t
  let due := s.flt.expireAt.getD (s.flt.enteredAt + 2000000)
  if !s.flt.faultState || s.flt.hold || decide (s.now < due) || !s.axesAtRest then .next s
  else
    let s1 : State := { s with flt := { s.flt with resets := min 255 (s.flt.resets + 1) } }
    .next ((s1.fault 0x0F01).warmReset 3)

/-- FAULT_STATE_SPEED_ZERO: after 50 ms in the fault state, while firmware runs, the published limit is 0 with cause 6 (R376). -/
def execFaultStateSpeedZero (t : Nat) (s0 : State) : Host.Outcome State Fault Refusal :=
  let s := s0.tick t
  if !s.flt.faultState || s.flt.speedZero || !s.firmwareRuns || decide (s.now < s.flt.enteredAt + 50000000) then .next s
  else .next ({ s with flt := { s.flt with speedZero := true } }.publish 0 6)

/-! ## The pin and the recording rate (R373, R381) -/

/-- FAULT_N_PULSE_END: 1,100 sentinel cycles after the last C2 or C3 fault the pin follows FLT_PIN.LEVEL; the pulse lasts 20 µs at least. -/
def execFaultNPulseEnd (t : Nat) (s0 : State) : Host.Outcome State Fault Refusal :=
  let s := s0.tick t
  .next (if s.flt.pulseEnd.any (· ≤ s.now) then { s with flt := { s.flt with pulseEnd := none } } else s)

/-- RECORD_RATE_RESUME: 1 s without a detection of a code and unit, and records of it are made again (R373). -/
def execRecordRateResume (code : BitVec 16) (u : BitVec 8) (t : Nat) (s0 : State) : Host.Outcome State Fault Refusal :=
  let s := s0.tick t
  let x := s.throttle code.toNat u.toNat
  .next (if x.suppressed && decide (x.last + 1000000000 ≤ s.now) then s.setThrottle { x with suppressed := false, records := [] } else s)

/-! ## Register writes (R375, R378, R379, R381, R383) -/

/-- FLT_LATCH_CLEAR: a block bit written 1 is cleared unless its condition is live; class bits written 1 are cleared. -/
def execFltLatchClear (v : BitVec 32) (s : State) : Host.Outcome State Fault Refusal :=
  if !s.hostReaches then .next s
  else .next { s with flt := { s.flt with
    latchBlock := s.flt.latchBlock &&& ~~~ (v.truncate 16 &&& ~~~ s.liveNow)
    latchClass := s.flt.latchClass &&& ~~~ (v >>> 16).truncate 4 } }

/-- CLRFIRST: the capture is cleared; a fault detected in the same sentinel cycle, whose row may stand before this one or after it, is captured
after the clear (R379). -/
def execClrfirst (s : State) : Host.Outcome State Fault Refusal :=
  if !s.hostReaches then .next s
  else .next { s with flt := { s.flt with first := s.flt.recent.filter fun c => c.inCycle s.now } }

/-- CLRCNT: FLT_COUNT and FLT_SHADOW are cleared; an open reaction window stays open, with its parent. -/
def execClrcnt (s : State) : Host.Outcome State Fault Refusal :=
  if !s.hostReaches then .next s
  else .next { s with flt := { s.flt with count0 := 0, count1 := 0, count2 := 0, count3 := 0, shadowParent := 0, shadowHits := 0 } }

/-- HOLD_SET: the automatic warm reset is suppressed. -/
def execHoldSet (s : State) : Host.Outcome State Fault Refusal :=
  if !s.hostReaches then .next s else .next { s with flt := { s.flt with hold := true } }

/-- HOLD_CLEAR: the warm reset of a fault state that HOLD kept follows 2 ms later. -/
def execHoldClear (t : Nat) (s0 : State) : Host.Outcome State Fault Refusal :=
  let s := s0.tick t
  if !s.hostReaches || !s.flt.hold then .next s
  else .next { s with flt := { s.flt with
    hold := false, expireAt := if s.flt.faultState then some (s.now + 2000000) else none } }

/-- FLT_PIN_LEVEL_WRITE: LEVEL; it takes effect at the pin after any pulse. -/
def execFltPinLevelWrite (level : Bool) (s : State) : Host.Outcome State Fault Refusal :=
  if !s.hostReaches then .next s else .next { s with flt := { s.flt with pinLevel := level } }

/-! ## Injection (R382 to R384) -/

/-- Whether a shot is refused while printing is armed: the code it raises is C3 in the class map. -/
def State.injectionDenied (s : State) (checker unit : Nat) (double : Bool) : Bool :=
  s.pos.armed && (injectedCode checker unit double).any fun c => s.classOf c == 3

/-- FLT_INJECT_ARM: one shot for the checker and unit of FLT_INJECT; refused with an event while armed (R384). An index that the table
does not list feeds no shot, one of the outcomes of R394. -/
def execFltInjectArm (t : Nat) (s0 : State) : Host.Outcome State Fault Refusal :=
  let s := s0.tick t
  let c := s.flt.injChecker.toNat
  let u := s.flt.injUnit.toNat
  let double := s.flt.injChecker.getLsbD 8
  if !s.hostReaches then .next s
  else if s.injectionDenied (c % 256) u double then .next (s.info 0x8205 0 (w32 c))
  else if checkerUnits (c % 256) ≤ u then .next s
  else
    let i : Injection := { checker := c % 256, double := double, unit := u, left := 1 }
    .next ({ s with flt := { s.flt with injections := s.flt.injections ++ [i] } }).feedShots

/-- Whether the unit that a checker names is in service; units that cannot be fenced always are. -/
def State.checkedUnitServes (s : State) (checker unit : Nat) : Bool :=
  match checker with
  | 0x05 => (s.unit unit).state == .inService
  | 0x06 => (s.lane unit).state == .inService
  | 0x07 | 0x08 | 0x09 => has unit s.inService
  | 0x0D => (s.port unit).state == .inService
  | 0x0E => (s.ring.port (if unit = 0 then .e else .w)).state == .inService
  | 0x0F => (s.axis unit).configured
  | _ => true

/-- The checks of FAULT_INJECT (R329, R384). -/
def faultInjectChecks (s : State) (e : JEntry) : Checks :=
  let checker := e.p16 0 % 256
  let double := bitOf (e.p8 1) 0
  { denied := s.injectionDenied checker (e.p8 2) double
    params := [fieldOk 0 (decide (e.p16 0 < 512) && checkerUnits checker != 0), fieldOk 2 (decide (e.p8 2 < checkerUnits checker)),
      fieldOk 3 (decide (1 ≤ e.p8 3))]
    noResource := !s.checkedUnitServes checker (e.p8 2) }

/-- FAULT_INJECT: P3 shots, one to each successive checked transfer; it completes when the last has been fed (R383). -/
def execFaultInject (seq t : Nat) (s : State) : Host.Outcome State Fault Refusal :=
  .next (s.command t seq 0x0D01 false true faultInjectChecks fun s e =>
    let i : Injection := { checker := e.p16 0 % 256, double := bitOf (e.p8 1) 0, unit := e.p8 2, left := e.p8 3, seq := some seq }
    ({ s with flt := { s.flt with injections := s.flt.injections ++ [i] } }).feedShots)

/-! ## The class map (R371) -/

/-- Whether R371 forbids a change of a code's class: it lowers it, and not from C2 to C1 of an adjustable code. -/
def State.lowers (s : State) (code cls : Nat) : Bool :=
  decide (cls < s.classOf code) && !(has code adjustable && s.classOf code == 2 && cls == 1)

/-- FAULT_CLASS_SET: the class of a code, with its previous class as result (R329, R371). -/
def execFaultClassSet (seq t : Nat) (s : State) : Host.Outcome State Fault Refusal :=
  .next (s.command t seq 0x0D02 false true
    (fun s e =>
      { denied := (defaultClass (e.p16 0)).isSome && s.lowers (e.p16 0) (e.p8 2)
        params := [fieldOk 0 (defaultClass (e.p16 0)).isSome, fieldOk 2 (decide (e.p8 2 ≤ 3))] })
    fun s e =>
      let old := s.classOf (e.p16 0)
      let map := (e.p16 0, e.p8 2) :: s.flt.classMap.filter fun x => x.1 != e.p16 0
      ({ s with flt := { s.flt with classMap := map } }).finish seq .ok 0 (w32 old))

end Sys2Proof.Machine
end

