-- ==== Sys2Proof/Machine/Jobs.lean ====
section
/-!
DEFINITION. Machine/Jobs.lean: the job and page commands and the page events (R32 to R41, R167 to R169, R271, R319 to
R321, R388).
-/

namespace Sys2Proof.Machine

/-! ## Job commands -/

/-- Open jobs. -/
def State.openJobs (s : State) : List Job := s.store.jobs.filterMap fun j => j

/-- The lowest job slot that is free. -/
def State.freeJobSlot (s : State) : Nat := ((List.range 16).find? fun i => (Tbl.get none s.store.jobs i).isNone).getD 16

/-- The checks of JOB_OPEN. -/
def jobOpenChecks (s : State) (e : JEntry) : Checks :=
  { notInMode := s.render.format.isNone
    denied := e.p8 12 != 0 && s.ring.role == .guest
    params := [fieldOk 0 (s.job? (e.p32 0)).isNone, fieldOk 5 (decide (e.p8 5 ≤ 2)),
      fieldOk 8 (e.p16 8 == 0 || decide (16 ≤ e.p16 8 ∧ e.p16 8 ≤ 1024))]
    noResource := decide (16 ≤ s.openJobs.length) }

/-- JOB_OPEN (R319): the job takes the lowest free slot; a horizon of 0 is 128 (R38). -/
def execJobOpen (seq t : Nat) (s : State) : Host.Outcome State Fault Refusal :=
  .next (s.command t seq 0x0201 false true jobOpenChecks fun s e =>
    let j : Job := { id := e.p32 0, verify := bitOf (e.p8 4) 0, reprint := e.p8 5
                     horizon := if e.p16 8 = 0 then 128 else e.p16 8, gap := e.p16 10, group := e.p8 12 }
    let slot := s.freeJobSlot
    let g := s.heads.governor
    let heads : Heads := { s.heads with governor := { g with recent := g.recent.filter fun x => x.1 != j.id } }
    ({ s with heads := heads, store := { s.store with jobs := Tbl.put none s.store.jobs slot (some j) } }).finish seq .ok 0 (w32 slot))

/-! ## Cancelling (R40) -/

/-- The code of a page state (R321). -/
def PageState.code : PageState → Nat
  | .transferring | .verifying => 0
  | .stored => 1
  | .printing => 2
  | .fired => 3
  | .held => 4
  | .released => 5

/-- Whether a PAGE_SUBMIT has been accepted and has not started: its page is in the transferring state, and none of it has come (R35). -/
def State.awaited (s : State) (seq : Nat) : Bool := (s.entry? seq).any fun e => s.submitWaits (e.p32 16) e

/-- A page is cancelled, according to its state (R40). -/
def State.cancelPage (s : State) (seq : Nat) (byClose : Bool) : State :=
  match s.page? seq with
  | none =>
    if s.awaited seq then
      let job := ((s.entry? seq).map (·.p32 16)).getD 0
      ((s.mapJob job fun j => { j with failed := j.failed + 1 }).finish seq .cancelled).settleJob job
    else s
  | some p =>
    let s1 := s.mapPage seq fun p => { p with cancelled := true, closed := p.closed || byClose }
    if p.state = .printing then s1 else (s1.tellPage p).release seq

/-- PAGE_CANCEL: OK as soon as the cancel is recorded, with the page's state, and before the page is released (R40, R319). -/
def execPageCancel (seq t : Nat) (s : State) : Host.Outcome State Fault Refusal :=
  .next (s.command t seq 0x0203 false true
    (fun s e => { params := [fieldOk 0 (s.awaited (e.p64 0) || (s.page? (e.p64 0)).any fun p => !p.closed && !p.legacy)] }) fun s e =>
    let code := ((s.page? (e.p64 0)).map (·.state.code)).getD (if s.awaited (e.p64 0) then 0 else 5)
    (s.finish seq .ok 0 (w32 code)).cancelPage (e.p64 0) false)

/-- The four result words of PAGE_QUERY (R321). A PAGE_SUBMIT accepted and not started is in the transferring state (R35); the number of its
lines is fixed by the format in force. -/
def State.queryWords (s : State) (page : Nat) : BitVec 32 × BitVec 32 × BitVec 32 × BitVec 32 :=
  match s.page? page with
  | some p => (w32 p.state.code, w32i (p.first.getD 0), w32 (s.unfiredCount p), w32 p.reprints)
  | none =>
    match s.store.recent.find? (fun x => x.seq == page && decide (s.now ≤ x.at_ + 10000000000)) with
    | some r => (5, w32i r.first, w32 r.unfired, w32 r.reprints)
    | none => match s.entry? page with
      | some e => if e.state = .accepted then (0, 0, w32 (pageLines ((s.render.format.map (·.kind)).getD 0) s.pos.lpi (e.p32 24)), 0) else (5, e.r1, e.r2, e.r3)
      | none => (5, 0, 0, 0)

/-- PAGE_QUERY (R321). -/
def execPageQuery (seq t : Nat) (s : State) : Host.Outcome State Fault Refusal :=
  .next (s.commandOk t seq 0x0204 false
    (fun s e => { params := [fieldOk 0 ((s.entry? (e.p64 0)).any fun x => x.opcode == 0x0202)] })
    (fun s _ => s) (fun _ _ => 0) fun s e => s.queryWords (e.p64 0))

/-- JOB_CLOSE: no further page is taken; form 1 cancels every page in sequence order; it completes when every page is released
(R320). -/
def execJobClose (seq t : Nat) (s : State) : Host.Outcome State Fault Refusal :=
  .next (s.command t seq 0x0205 false true
    (fun s e => { params := [fieldOk 0 (s.job? (e.p32 0)).isSome, fieldOk 4 (decide (e.p8 4 ≤ 1))] }) fun s e =>
    let id := e.p32 0
    let s1 := s.mapJob id fun j => { j with closing := true, closeSeqs := j.closeSeqs ++ [seq] }
    let mine := (s1.store.pages.filter fun p => p.job == id && !p.legacy).map (·.seq)
    let awaited := (s1.journal.entries.filter fun x => decide (x.seq < seq) && s1.submitWaits id x).map (·.seq)
    (if e.p8 4 = 1 then (sortBy (fun (q : Nat) => (q : Int)) (mine ++ awaited)).foldl (fun s q => s.cancelPage q true) s1 else s1).settleJob id)

/-! ## PAGE_SUBMIT -/

/-- Pages that PAGE_SUBMITs hold before the released state (R298). -/
def State.hostPages (s : State) : Nat := (s.store.pages.filter fun p => !p.legacy).length

/-- A job takes a PAGE_SUBMIT that was accepted before every JOB_CLOSE of the job (R320). -/
def State.jobTakes (s : State) (e : JEntry) : Bool :=
  let id := e.p32 16
  (s.job? id).any (fun j => j.closeSeqs.all (e.seq < ·)) &&
  s.journal.entries.all fun x => !(x.opcode == 0x0205 && x.state == .accepted && !x.started && x.p32 0 == id && decide (x.seq < e.seq))

/-- Too few blocks were free when a PAGE_SUBMIT was accepted (R39). -/
def tooFewBlocks (inp : HostList) (e : JEntry) : Bool := decide (e.free < ceilDiv (HostListTotal inp) 65536)

/-- The checks of PAGE_SUBMIT (R39, R169, R298, R319). -/
def submitChecks (inp : HostList) (s : State) (e : JEntry) : Checks :=
  let job := s.job? (e.p32 16)
  let kind := e.p8 28
  { params := listRefOk e 0
      ++ [fieldOk 16 (s.jobTakes e), fieldOk 24 (decide (1 ≤ e.p32 24)),
          fieldOk 28 (decide (kind ≤ 2) && (kind == 0 || job.all fun j => j.group == 0)),
          fieldOk 29 (kind != 2 || decide (e.p8 29 ≤ 15))]
      ++ listOk 0 inp (fun _ => true)
    noResource := tooFewBlocks inp e || decide (s.freeBlocks < ceilDiv (HostListTotal inp) 65536) || decide (262144 ≤ s.hostPages) }

/-- The placement of a PAGE_SUBMIT. -/
def submitPlacement (e : JEntry) : Placement :=
  match e.p8 28 with
  | 1 => .atLine (e.s64 32)
  | 2 => .atCompare (e.p8 29)
  | _ => .follow

/-- A PAGE_SUBMIT that had too few free blocks when it was accepted completes at once, whatever it waits for under R286 (R39). -/
def State.refuseFull (s : State) (seq : Nat) (inp : HostList) : State :=
  match s.entry? seq with
  | none => s
  | some e =>
    if s.awaited seq && s.firmwareRuns && s.canSend && tooFewBlocks inp e then
      match (generalChecks s 0x0202 (e.p8 0) (submitChecks inp s e)).verdict with
      | some (.noResource, l) => s.refuse seq .noResource l
      | _ => s
    else s

/-- A job that waited for a PAGE_SUBMIT that has not become a page may be closed (R320). -/
def State.settleSubmit (s : State) (seq : Nat) : State :=
  match s.entry? seq with
  | none => s
  | some e => if (s.page? seq).isNone then s.settleJob (e.p32 16) else s

/-- PAGE_SUBMIT: blocks are allocated and the DMA starts; the entry stays accepted until the page is stored (R32, R35, R39). A placement at
a line is fixed now (R167). -/
def execPageSubmit (seq : Nat) (inp : HostList) (t : Nat) (s : State) : Host.Outcome State Fault Refusal :=
  .next (State.settleSubmit (seq := seq) <| ((s.tick t).refuseFull seq inp).command t seq 0x0202 true false (submitChecks inp) fun s e =>
    let bytes := HostListTotal inp
    let place := submitPlacement e
    let first := match place with
      | .atLine l => some l
      | _ => none
    let p : Page := { seq := seq, job := e.p32 16, pageId := e.p32 20, rows := e.p32 24, placement := place, state := .transferring
                      streamBytes := bytes, blocks := ceilDiv bytes 65536, first := first, late := first.any s.windowOpened, blind := first.any s.windowOpened }
    let s1 : State := { s with store := { s.store with pages := s.store.pages ++ [p] } }
    match first with
    | some l => if p.blind then s1 else s1.notePlace seq l
    | none => s1)

/-! ## Page events -/

/-- The governor's record of a stored page: of each open job the last 8 count (R201). -/
def State.recordStored (s : State) (p : Page) : State :=
  let g := s.heads.governor
  let mine := (g.recent.filter (·.1 == p.job)).take 7
  let others := g.recent.filter fun x => x.1 != p.job && (s.job? x.1).isSome
  { s with heads := { s.heads with governor := { g with recent := (p.job, p.streamBytes, s.linesOf p) :: (mine ++ others) } } }

/-- A DMA error on the page's stream: BAD_PARAM with the element (R293, R509). -/
def State.pageDmaError (s : State) (p : Page) (elem : Nat) : State :=
  let s1 : State := { s with store := { s.store with pages := s.store.pages.filter fun x => x.seq != p.seq } }
  let s2 := s1.mapJob p.job fun j => { j with failed := j.failed + 1 }
  (s2.refuse p.seq .badParam (.elem 0 elem true)).settleJob p.job

/-- PAGE_TRANSFER_DONE: the stream is in the page store; its first header is checked (R33), and the page is stored, or verified first
(R35, R41). `dmaErr` is the element whose transfer ended in error. -/
def execPageTransferDone (seq : Nat) (stream : List Byte) (dmaErr : Option Nat) (t : Nat) (s0 : State) : Host.Outcome State Fault Refusal :=
  let s := s0.tick t
  match s.page? seq with
  | none => .next s
  | some p =>
    if p.state ≠ .transferring ∨ p.legacy ∨ !s.canSend ∨ s.power.phase ≠ .running then .next s
    else match dmaErr with
      | some i => .next (s.pageDmaError p i)
      | none =>
        if s.shotAt 0x04 0 then .next (s.fault 0x0301) else
        let g := s.heads.governor
        let dma := ((s.now, stream.length) :: g.dma).filter fun x => decide (s.now ≤ x.1 + 16000000)
        let s1 : State := { s with heads := { s.heads with governor := { g with dma := dma } } }
        let s2 := (s1.mapPage seq fun p => { p with stream := stream, streamBytes := stream.length }).pageTraffic 4 seq 0 stream.length
        let ctx : PsfContext := { configured := s.render.format.map fun f => (f.wIn, kindBpp f.kind), page := true }
        match headerError ctx stream 0 with
        | some (r, o) => .next (((s2.noteFailure 0 o).mapPage seq fun p => { p with failure := some (r, 0, o) }).release seq)
        | none =>
          if (s.job? p.job).any (·.verify) then .next (s2.mapPage seq fun p => { p with state := .verifying })
          else .next ((s2.recordStored { p with streamBytes := stream.length }).storePage seq)

/-- PAGE_VERIFY_DONE: a page that has passed verification is stored, and one that has failed is released with its failure (R41). -/
def execPageVerifyDone (seq t : Nat) (s0 : State) : Host.Outcome State Fault Refusal :=
  let s := s0.tick t
  match s.page? seq with
  | none => .next s
  | some p =>
    if p.state ≠ .verifying then .next s
    else if p.failure.isSome then .next (s.release seq)
    else if p.verified then
      .next (((s.mapPage seq fun p => { p with raster := [], frames := [] }).recordStored p).storePage seq)
    else .next s

/-- PAGE_RELEASE: at the tick that brings the count to the horizon, a fired page is released (R38). -/
def execPageRelease (seq t : Nat) (s0 : State) : Host.Outcome State Fault Refusal :=
  let s := s0.tick t
  match s.page? seq with
  | none => .next s
  | some p =>
    let limit := ((s.job? p.job).map (·.horizon)).getD 128
    if p.state = .fired ∧ p.horizon.any (fun c => decide (limit ≤ c)) then .next (s.release seq) else .next s

/-- PAGE_CANCEL_RELEASE: the last hoist rendered from a cancelled page has drained (R40). -/
def execPageCancelRelease (seq t : Nat) (s0 : State) : Host.Outcome State Fault Refusal :=
  let s := s0.tick t
  match s.page? seq with
  | none => .next s
  | some p =>
    if p.cancelled && p.state == .printing && s.render.hoists.all (fun h => h.pages.all fun x => x.1 != seq) then .next (s.release seq)
    else .next s

/-- REPRINT_PLACE: a page held for reprint takes the next follow position of its job, in the order of journal sequences (R388, R389);
a synchronised page is placed anew by the manager, whom a member asks again once the cause that kept it from the placement has ended
(R271, R389). -/
def execReprintPlace (seq t : Nat) (s0 : State) : Host.Outcome State Fault Refusal :=
  let s := s0.tick t
  match s.page? seq with
  | none => .next s
  | some p =>
    if !s.pos.armed || s.pos.disarming.isSome then .next s
    else if s.reprintReady p && s.store.pages.all (fun x => !(x.job == p.job && decide (x.seq < seq) && s.reprintReady x)) then
      .next (s.placeReprint seq)
    else if p.state == .held && s.groupOf p != 0 && !s.causePersists p then
      let g := s.groupOf p
      let due := s.ring.syncPages.any fun x => x.group == g && x.page == p.pageId && x.reprint && x.placed.isNone
      if s.ring.role == .manager && due && s.reprintTime p then
        .next (let r := s.managerPlace g p.pageId; r.1.transact 0 0 r.2 none)
      else if p.askAgain then .next ((s.mapPage seq fun p => { p with askAgain := false }).sendReprint g p.pageId)
      else .next s
    else .next s

end Sys2Proof.Machine
end

