-- ==== Sys2Proof/Machine/LegacyCmds.lean ====
section
/-!
DEFINITION. Machine/LegacyCmds.lean: the HB_ commands that can restart the reference, with tick 0 (R148, R496, R500).
-/

namespace Sys2Proof.Machine

/-- HB_ENABLE_CLEAR: printing disarms immediately, and the lines held are discarded (R500). -/
def execHbEnableClear (t : Nat) (s0 : State) : Host.Outcome State Fault Refusal :=
  let s := s0.tick t
  if !s.hbOpen || !s.hb.enable then .next s else .next s.hbDisable.zeroTick.hbIrq

/-- HB_ENCODER_WRITE: HB_ENCDIV (`divider`) or HB_ENCCFG, applied to POS0 while ENABLE is 0 and held otherwise (R496). -/
def execHbEncoderWrite (divider : Bool) (v : BitVec 16) (t : Nat) (s0 : State) : Host.Outcome State Fault Refusal :=
  let s := s0.tick t
  if !s.hbOpen then .next s
  else
    let h := s.hb
    let h1 : Hb := if divider then { h with encDivHeld := v }
      else { h with encCfgHeld := BitVec.ofNat 10 (bits v.toNat 0 3 + 16 * bits v.toNat 4 6) }
    if h.enable then .next { s with hb := h1 }
    else .next ({ s with hb := { h1 with encDiv := h1.encDivHeld, encCfg := h1.encCfgHeld } }).hbApplyEncoder.zeroTick

/-- HB_PITCH_WRITE: PITCH, applied while ENABLE is 0 and held otherwise (R496). -/
def execHbPitchWrite (p1200 : Bool) (t : Nat) (s0 : State) : Host.Outcome State Fault Refusal :=
  let s := s0.tick t
  if !s.hbOpen then .next s
  else
    let s1 : State := { s with hb := { s.hb with pitchHeld := p1200 } }
    if s.hb.enable then .next s1 else .next s1.hbTakeHeld.zeroTick

end Sys2Proof.Machine
end

