-- ==== Sys2Proof/Machine/Mailbox.lean ====
section
/-!
DEFINITION. Machine/Mailbox.lean: the commands of the host interface (chapter 09): bus mastering and power
states (R277, R278), command and completion queues (R283 to R295), acceptance (R284, R285, R298), the debug
unlock (R301) and the BAR2 apertures (R302).
-/

namespace Sys2Proof.Machine

/-! ## Bus Master Enable, D3hot -/

/-- BUS_MASTER_ENABLE_CLEAR: DMA, completions and interrupts stop; commands whose DMA is under way wait (R278). -/
def execBusMasterEnableClear (t : Nat) (s0 : State) : Host.Outcome State Fault Refusal :=
  let s := s0.tick t
  if !s.hostReaches || !s.host.busMaster then .next s
  else
    let waits := s.journal.entries.map fun e =>
      if !e.state.final && s.dmaRunning e then { e with waitsSince := some s.now } else e
    .next { s with
      host := { s.host with busMaster := false }
      journal := { s.journal with entries := waits } }

/-- BUS_MASTER_ENABLE_SET: DMA resumes; held completions and pending vectors are sent, and finished tests end (R278). -/
def execBusMasterEnableSet (t : Nat) (s0 : State) : Host.Outcome State Fault Refusal :=
  let s := s0.tick t
  if !s.hostReaches then .next s
  else
    let s1 : State := { s with
      host := { s.host with busMaster := true }
      journal := { s.journal with entries := s.journal.entries.map fun e => { e with waitsSince := none } } }
    .next s1.postAllHeld.sendPending.endTests

/-- BUS_MASTER_WAIT_TIMEOUT: a command that has waited 100 ms for the bit completes with CANCELLED and detail bit 31 (R278). -/
def execBusMasterWaitTimeout (seq t : Nat) (s0 : State) : Host.Outcome State Fault Refusal :=
  let s := s0.tick t
  match s.entry? seq with
  | none => .next s
  | some e =>
    if !e.state.final && !s.host.busMaster && e.waitsSince.any (fun w => decide (w + 100000000 ≤ s.now)) then
      .next (s.cancelDma e bit31)
    else .next s

/-- D3HOT_ENTRY: no DMA, completion or interrupt; printing continues (R277). -/
def execD3hotEntry (s : State) : Host.Outcome State Fault Refusal :=
  if s.hostReaches then .next { s with host := { s.host with d3hot := true } } else .next s

/-- D0_RETURN: the mailbox block holds its values, and what was held back is sent (R277). -/
def execD0Return (t : Nat) (s0 : State) : Host.Outcome State Fault Refusal :=
  let s := s0.tick t
  if s.hostReaches then .next (({ s with host := { s.host with d3hot := false } }).postAllHeld.sendPending.endTests) else .next s

/-! ## Command queues (R283 to R287) -/

/-- A command queue. -/
def State.cq (s : State) (n : Nat) : CmdQueue := Tbl.get {} s.host.cq n

/-- The state with a command queue changed. -/
def State.updCq (s : State) (n : Nat) (f : CmdQueue → CmdQueue) : State :=
  { s with host := { s.host with cq := Tbl.upd {} s.host.cq n f } }

/-- The state with a completion queue changed. -/
def State.updCc (s : State) (n : Nat) (f : CompQueue → CompQueue) : State :=
  { s with host := { s.host with cc := Tbl.upd {} s.host.cc n f } }

/-- CQ_DOORBELL: the new tail; doorbells written before READY are kept (R283, R285). -/
def execCqDoorbell (q : Fin 8) (tail : BitVec 12) (s : State) : Host.Outcome State Fault Refusal :=
  if s.hostReaches then .next (s.updCq q.val fun c => { c with tail := tail }) else .next s

/-- CQ_ENABLE: the queue is served; a halt is over (R287). -/
def execCqEnable (q : Fin 8) (s : State) : Host.Outcome State Fault Refusal :=
  if !s.hostReaches || (s.cq q.val).enabled then .next s
  else .next (s.updCq q.val fun c => { c with enabled := true, halted := false })

/-- CQ_DISABLE: the queue is no longer served; an acceptance is one step, so CQIDLE is set at once (R287). -/
def execCqDisable (q : Fin 8) (s : State) : Host.Outcome State Fault Refusal :=
  if s.hostReaches then .next (s.updCq q.val fun c => { c with enabled := false }) else .next s

/-- QUEUE_RING_CONFIG_WRITE: BASE or SIZE; while the queue is disabled the write sets HEAD and TAIL to 0 (R287, R292). -/
def execQueueRingConfigWrite (completion : Bool) (q : Fin 8) (reg : RingReg) (v : BitVec 32) (s : State) :
    Host.Outcome State Fault Refusal :=
  let base : BitVec 32 := BitVec.ofNat 32 (v.toNat / 64 * 64)
  if !s.hostReaches then .next s
  else if completion then
    .next (s.updCc q.val fun c =>
      let c1 : CompQueue := match reg with
        | .baseLo => { c with baseLo := base }
        | .baseHi => { c with baseHi := v }
        | .size => { c with size := BitVec.ofNat 15 v.toNat }
      if c.enabled then c1 else { c1 with head := 0, tail := 0 })
  else
    .next (s.updCq q.val fun c =>
      let c1 : CmdQueue := match reg with
        | .baseLo => { c with baseLo := base }
        | .baseHi => { c with baseHi := v }
        | .size => { c with size := BitVec.ofNat 13 v.toNat }
      if c.enabled then c1 else { c1 with head := 0, tail := 0 })

/-- Whether a queue has an entry that may be read. -/
def CmdQueue.waits (q : CmdQueue) : Bool := q.enabled && !q.halted && q.head != q.tail

/-- The queue served next: CQ0 first, then CQ1 to CQ7 round robin, CQ0 only while more than 2,048 completions are
held (R285, R290). -/
def State.nextQueue (s : State) : Option Nat :=
  if (s.cq 0).waits then some 0
  else if 2048 < s.heldCount then none
  else ((List.range 7).map fun i => (s.host.lastServed + i) % 7 + 1).find? fun n => (s.cq n).waits

/-- Whether device firmware serves the mailboxes: READY, or after SHUTDOWN_PREPARE (R285, R317). -/
def State.servesQueues (s : State) : Bool := s.firmwareRuns && (s.host.ready || s.journal.shutDown)

/-- The journal entry of an entry read from queue `n`. -/
def State.newEntry (s : State) (n : Nat) (bytes : List Byte) : JEntry :=
  { seq := s.seqOf s.journal.next, tag := w32 (leAt bytes 4 4), opcode := leAt bytes 0 2
    flags := BitVec.ofNat 16 (leAt bytes 2 2), queue := n, state := .accepted, status := 0, detail := 0
    acceptTime := s.stamp.2, stateTime := s.stamp.2, timesValid := s.stamp.1
    r0 := 0, r1 := 0, r2 := 0, r3 := 0, params := bytesAt bytes 16 48, waitsSince := none, readableUntil := none, free := s.freeBlocks }

/-- An entry is journaled: its slot of the ring is written, in class 2 of R360, the count rises, and entries no longer readable go (R296 to
R298, R354). -/
def State.journalEntry (s : State) (e : JEntry) : State :=
  let s0 := s.sdramRequests [(2, 0x4000000 + s.journal.next % 65536 * 64)]
  let s1 : State := { s0 with journal := { s0.journal with next := s0.journal.next + 1, entries := s0.journal.entries ++ [e] } }
  { s1 with journal := { s1.journal with entries := s1.journal.entries.filter s1.readable } }

/-- Acceptance stops for want of room in the carry area (R298). -/
def State.carryFull (s : State) : Bool := decide (393216 ≤ s.carry.length)

/-- An entry read from queue `n` is accepted, in the order of R284; one refused at once is journaled as failed. -/
def State.acceptEntry (s : State) (n : Nat) (bytes : List Byte) : State :=
  let q := s.cq n
  let e := s.newEntry n bytes
  let s1 := (s.journalEntry e).emit (.sequence n q.head.toNat e.seq)
  let s2 := s1.updCq n fun q => { q with head := BitVec.ofNat 12 ((q.head.toNat + 1) % q.size.toNat) }
  let s3 : State := if n = 0 then s2 else { s2 with host := { s2.host with lastServed := n } }
  if !has e.opcode opcodes then s3.finish e.seq .badOpcode
  else if modeForbids s.power.mode e.opcode then s3.finish e.seq .notInMode
  else s3

/-- COMMAND_ACCEPT: the next waiting entry is fetched and accepted; `none` is a DMA error on the ring, which halts its
queue (R284 to R287, R298). -/
def execCommandAccept (entry : Option (List Byte)) (t : Nat) (s0 : State) : Host.Outcome State Fault Refusal :=
  let s := s0.tick t
  if !s.servesQueues || !s.canSend then .next s
  else match s.nextQueue with
    | none => .next s
    | some n =>
      if s.carryFull then
        if s.host.jnlWait then .next s
        else .next (({ s with host := { s.host with jnlWait := true } }).interrupt 11)
      else match entry with
        | none => .next (s.updCq n fun q => { q with halted := true })
        | some bytes =>
          match s.shotCode 0x03 0 with
          | some 0x0102 => .next ((s.fault 0x0102).hostInterfaceReset 6)
          | some c => .next ((s.fault c).acceptEntry n bytes)
          | none => .next (s.acceptEntry n bytes)

/-- JOURNAL_CARRY_FREED: space frees in the carry area, and acceptance resumes (R298). -/
def execJournalCarryFreed (t : Nat) (s0 : State) : Host.Outcome State Fault Refusal :=
  let s := s0.tick t
  if s.host.jnlWait && !s.carryFull then .next (({ s with host := { s.host with jnlWait := false } }).interrupt 11) else .next s

/-- CARRY_READABLE_LAPSE: 10 s after it left the carry area, a final entry stops being readable (R298). -/
def execCarryReadableLapse (seq t : Nat) (s0 : State) : Host.Outcome State Fault Refusal :=
  let s := s0.tick t
  let keep : List JEntry := s.journal.entries.filter fun e => !(e.seq == seq && e.readableUntil.any (fun u => decide (u ≤ s.now)))
  .next { s with journal := { s.journal with entries := keep } }

/-- FENCE_TIMEOUT: the FENCE completes with BUSY (R311). -/
def execFenceTimeout (seq t : Nat) (s0 : State) : Host.Outcome State Fault Refusal :=
  let s := s0.tick t
  match s.journal.fences.find? (fun f => f.seq == seq) with
  | none => .next s
  | some f =>
    if f.deadline.any (fun d => decide (d ≤ s.now)) then
      let s1 : State := { s with journal := { s.journal with fences := s.journal.fences.filter fun x => x.seq != seq } }
      .next (s1.finish seq .busy 0 (w32 f.count) (w32 f.highest))
    else .next s

/-! ## Completion queues (R288 to R295) -/

/-- CC_ENABLE: TAIL, HEAD and phase are set, and the present speed limits routed to the queue are posted (R291, R292). -/
def execCcEnable (q : Fin 8) (s : State) : Host.Outcome State Fault Refusal :=
  if !s.hostReaches || (Tbl.get {} s.host.cc q.val).enabled then .next s
  else
    let s1 := s.updCc q.val fun c => { c with
      enabled := true, tail := 0, head := 0, phase := true, held := [], since := 0, oldest := none }
    let g := s1.heads.governor
    let s2 := match g.published with
      | some (v, cause) => if g.barRoute.any (fun r => r.cc == q.val) then s1.postRoute g.barRoute 1 (speedDetail v cause 0) else s1
      | none => s1
    let v := s2.pressLimit
    .next (if s2.ring.role == .manager && s2.ring.pressRoute.any (fun r => r.cc == q.val) then
        s2.postRoute s2.ring.pressRoute 2 (speedDetail v.1 v.2.1 (((s2.ring.entryOf v.2.2).map (·.colour)).getD 0))
      else s2)

/-- CC_DISABLE: completions of the queue are no longer posted, held ones neither (R290). -/
def execCcDisable (q : Fin 8) (s : State) : Host.Outcome State Fault Refusal :=
  if s.hostReaches then .next (s.updCc q.val fun c => { c with enabled := false, held := [], since := 0, oldest := none }) else .next s

/-- CC_HEAD_WRITE: room frees, and held completions are posted in order (R290). -/
def execCcHeadWrite (q : Fin 8) (head : BitVec 14) (s : State) : Host.Outcome State Fault Refusal :=
  if !s.hostReaches then .next s
  else
    let s1 := s.updCc q.val fun c => { c with head := head }
    .next (State.postHeld (Tbl.get {} s1.host.cc q.val).held.length s1 q.val)

/-- COALESCE_TIMEOUT: the oldest completion without an interrupt has waited TIME µs (R295). -/
def execCoalesceTimeout (q : Fin 8) (t : Nat) (s0 : State) : Host.Outcome State Fault Refusal :=
  let s := s0.tick t
  let c := Tbl.get {} s.host.cc q.val
  if c.coalTime ≠ 0 ∧ c.oldest.any (fun o => decide (o + c.coalTime.toNat * 1000 ≤ s.now)) then
    .next ((s.updCc q.val fun c => { c with since := 0, oldest := none }).interrupt q.val)
  else .next s

/-! ## Debug unlock (R301) -/

/-- A step of the debug unlock: STATE, its event and vector 12. -/
def State.dbgStep (s : State) (st : Nat) : State :=
  let changed := s.host.dbgState != st
  let s1 := ({ s with host := { s.host with dbgState := st } }).info 0x8103 0 (w32 st) (s.host.dbgScope.zeroExtend 32)
  if changed then s1.interrupt 12 else s1

/-- DBG_REQ: SCOPE is written and a challenge of 32 random bytes and the unique identity is issued, unless the unlock is
barred. -/
def execDbgReq (scope : BitVec 2) (random : List Byte) (t : Nat) (s0 : State) : Host.Outcome State Fault Refusal :=
  let s := s0.tick t
  if !s.hostReaches then .next s
  else
    let s1 : State := { s with host := { s.host with dbgScope := scope } }
    if s.host.dbgState = 3 then .next s1
    else
      let s2 : State := { s1 with host := { s1.host with
        dbgChallenge := bytesAt random 0 32 ++ leBytes 16 s.fuses.identity, dbgAt := s.now } }
      .next (s2.dbgStep 1)

/-- Whether the response to the challenge verifies. -/
def State.dbgVerifies (s : State) : Bool :=
  Config.debugVerify s.fuses.debugKey (Tbl.take 0 s.host.dbgResponse 24)
    (Config.sha384 (s.host.dbgChallenge ++ leBytes 1 s.host.dbgScope.toNat))

/-- DBG_SUBMIT: the response to the challenge is verified; the scope opens, or TRIES rises and the third failure bars the
unlock. -/
def execDbgSubmit (t : Nat) (s0 : State) : Host.Outcome State Fault Refusal :=
  let s := s0.tick t
  if !s.hostReaches || s.host.dbgState != 1 then .next s
  else if s.dbgVerifies then
    let s1 : State := { s with host := { s.host with
      bar2Open := s.host.bar2Open || s.host.dbgScope.getLsbD 0, jtagOpen := s.host.jtagOpen || s.host.dbgScope.getLsbD 1 } }
    .next (s1.dbgStep 2)
  else
    let n := s.host.dbgTries + 1
    let s1 : State := { s with host := { s.host with dbgTries := n, dbgChallenge := [] } }
    .next (s1.dbgStep (if 3 ≤ n then 3 else 0))

/-- DBG_LOCK: every open scope closes. -/
def execDbgLock (t : Nat) (s0 : State) : Host.Outcome State Fault Refusal :=
  let s := s0.tick t
  if !s.hostReaches then .next s
  else
    let s1 : State := { s with host := { s.host with bar2Open := false, jtagOpen := false, dbgChallenge := [] } }
    .next (s1.dbgStep (if s.host.dbgState = 3 then 3 else 0))

/-- DEBUG_CHALLENGE_LAPSE: 10 minutes after it was issued, a challenge lapses. -/
def execDebugChallengeLapse (t : Nat) (s0 : State) : Host.Outcome State Fault Refusal :=
  let s := s0.tick t
  if s.host.dbgState = 1 ∧ s.host.dbgAt + 600000000000 ≤ s.now then
    .next (({ s with host := { s.host with dbgChallenge := [] } }).dbgStep 0)
  else .next s

/-! ## Apertures and read effects -/

/-- The physical address that an aperture offset stands for: of the line store below 128 MB, of the SDRAM from WINDOW
above it (R302). -/
def State.apertureAddress (s : State) (off : Nat) : Nat :=
  if off < 0x08000000 then off else s.host.dbgWindow.toNat * 0x08000000 + (off - 0x08000000)

/-- A byte of the band slot area of a hoist, by its offset (R113): row areas of 64 lines, each line 512 bytes at depth 2 and 1,024 at
depth 4; at depth 4 in one slot the present rows are packed in ascending order. A hoist still being rendered gives none. -/
def Hoist.slotByte (h : Hoist) (off : Nat) : Option Byte :=
  let line := 256 * h.depth
  let area := 64 * line
  let g := h.tables.geometry
  let row := if h.depth = 4 ∧ g.present.length ≤ 16 then g.rows[off / area]? else if has (off / area) g.rows then some (off / area) else none
  match row with
  | some r => if h.complete || h.draining then some ((h.rowBytes r (64 * h.k + (off % area / line : Nat))).getD (off % line) 0) else none
  | none => none

/-- A byte of the band region (R112, R113). -/
def State.bandByte (s : State) (off : Nat) : Option Byte :=
  let size := 0x200000
  match s.render.hoists.find? (fun h => h.slot == off / size || (h.depth == 4 && decide (16 < h.tables.geometry.present.length) && h.slot + 1 == off / size)) with
  | some h => h.slotByte (off - h.slot * size)
  | none => none

/-- A byte of the journal's ring, which begins the command journal region (R297, R298, R354). -/
def State.journalByte (s : State) (off : Nat) : Option Byte :=
  if 65536 * 64 ≤ off then none
  else
    let slot := off / 64
    let mine := fun (e : JEntry) => e.seq % 2 ^ 40 % 65536 == slot && decide (s.journal.next ≤ e.seq % 2 ^ 40 + 65536)
    (s.journal.entries.find? mine).map fun e => e.bytes.getD (off % 64) 0

/-- A byte of the event spill ring, which begins its region (R354, R396, R401). -/
def State.spillByte (s : State) (off : Nat) : Option Byte :=
  (s.evt.spill.find? fun r => r.seq % 524288 == off / 32).map fun r => r.bytes.getD (off % 32) 0

/-- What the spec places at an aperture offset: band slots, the journal's ring and the event spill. DEDUCED (log 74): a ring begins its
region. Where the other contents lie in their regions is not given. -/
def State.apertureByte (s : State) (off : Nat) : Option Byte :=
  let a := s.apertureAddress off
  if off < 0x08000000 then (if 92274688 ≤ off ∧ off < 92274688 + 29360128 then s.bandByte (off - 92274688) else none)
  else if 0x04000000 ≤ a ∧ a < 0x08000000 then s.journalByte (a - 0x04000000)
  else if 0x08000000 ≤ a ∧ a < 0x09000000 then s.spillByte (a - 0x08000000)
  else none

/-- BAR2_APERTURE_READ: up to 64 bytes; 0 while BAR2 is locked. What the spec does not place is free values; the
SDRAM is read in class 5 of R360 (R302). `bad` is the
aperture offset of an uncorrectable word. -/
def execBar2ApertureRead (off len : Nat) (bad : Option Nat) (t : Nat) (s0 : State) : Host.Outcome State Fault Refusal :=
  let s := s0.tick t
  if !s.hostReaches then .next s
  else
    let n := min len 64
    if !s.host.bar2Open || decide (0x10000000 < off + n) then .next (s.emit (.aperture (List.replicate n 0) false))
    else
      let r := State.freeBytes n (if off < 0x08000000 then s else s.sdramRequests [(5, s.apertureAddress off)])
      let bytes := (List.range n).map fun i => (s.apertureByte (off + i)).getD (r.1.getD i 0)
      match bad with
      | none => .next (r.2.emit (.aperture bytes false))
      | some b => .next ((r.2.emit (.aperture bytes true)).info 0x8B04 0 (w32 (s.apertureAddress b / 16)))

/-- EVT_COUNT_READ: the 64-bit register is returned, its high half is latched, and vector 9 is armed for the next overflow (R280, R406). -/
def execEvtCountRead (s : State) : Host.Outcome State Fault Refusal :=
  if !s.hostReaches then .next s
  else .next (({ s with
    host := { s.host with latch := SMap.insert 0x20014 (s.readWord 0x20014) (SMap.erase 0x20014 s.host.latch) }
    evt := { s.evt with overflowArmed := true } }).emit (.readData 0x20010 (s.readWord 0x20014 ++ s.readWord 0x20010)))

end Sys2Proof.Machine
end

