-- ==== Sys2Proof/Machine/Pins.lean ====
section
/-!
DEFINITION. Machine/Pins.lean: the states of the outputs through reset and in the fault state (R433, R468), as they follow from the
state. READY, FAULT_N and FL_RESET_N stand in Machine/Flags.lean and SPEED_OK in Machine/RingOps.lean.
-/

namespace Sys2Proof.Machine

/-- What a serial transmitter drives. -/
inductive LaneDrive where
  | electricalIdle
  | training
  | idleBlocks
  | traffic
deriving DecidableEq, Repr

/-- The lanes of a head port: idle in factory test mode (R7), until its bring-up, in standby and, but for a port in service, through a warm reset, in which such a port
keeps its forwarded clock and sends IDLE; in the fault state no new FIRE block is sent, and what is queued goes on (R435, R450, R468). -/
def State.headDrive (s : State) (n : Nat) : LaneDrive :=
  let p := s.port n
  match s.power.phase with
  | .running =>
    if s.power.standby ∨ s.power.mode = .factory then .electricalIdle
    else if p.state == .training then .training
    else if p.linkLive then .traffic
    else if p.state == .fenced && p.fencedCode == 0x0801 then .idleBlocks
    else .electricalIdle
  | .warmReset | .retuned => if p.state == .inService ∧ s.power.mode ≠ .factory then .idleBlocks else .electricalIdle
  | _ => .electricalIdle

/-- The lanes of a halyard port: training from the cold boot on, idle for 1 ms of a warm reset and training again then (R450, R468). -/
def State.halyardDrive (s : State) (sd : Side) : LaneDrive :=
  if s.linksReleased then
    match (s.ring.port sd).state with
    | .down | .failed => .electricalIdle
    | .training => .training
    | _ => .traffic
  else .electricalIdle

/-- Mc_RESET_N: low until training, high from then on (R468). -/
def State.sdramResetPin (s : State) : PinLevel :=
  if s.power.phase = .powerOnReset then .floating else if s.dmc.trained then .high else .low

/-- The SDRAM clocks run: they are stopped in self-refresh (R363, R468). -/
def State.sdramClocked (s : State) : Bool := s.power.phase != .powerOnReset && !s.dmc.selfRefresh

/-- FL_CS_N: floating while R433 holds, and high at rest: through a warm reset, and in the fault state but for event commits, nothing
accesses the flash (`State.flashQuiet`, R468). -/
def State.flashSelectPin (s : State) : PinLevel := if s.power.phase = .powerOnReset then .floating else .high

/-- AXIS_CLK, AXIS_FRM and AXIS_DO float while R433 holds. -/
def State.axisPinsFloat (s : State) : Bool := s.power.phase == .powerOnReset

/-- AXIS_CLK runs from the end of power-on reset on, through a warm reset and in the fault state (R334, R468). -/
def State.axisClockRuns (s : State) : Bool := !s.axisPinsFloat

/-- AXIS_FRM is held low through a warm reset: no slot is sent (R337, R468). -/
def State.axisFrameHeld (s : State) : Bool := s.resetting

/-- CMP_OUTn without a pulse: its inactive level, low until a SET_COMPARE sets it, and kept through a warm reset and the fault state
(R166, R468). -/
def State.compareRest (s : State) (pin : Nat) : PinLevel :=
  if s.power.phase = .powerOnReset then .floating
  else if (Tbl.get ({} : ComparePin) s.pos.pins pin).inactiveHigh then .high else .low

end Sys2Proof.Machine
end

