-- ==== Sys2Proof/Machine/Wire.lean ====
section
/-!
DEFINITION. Machine/Wire.lean: what the halyard ports and the head ports put on their lanes (R178 to R181, R242, R243): the blocks of
packets, row-lines and control blocks, what waits at a port and in which order it leaves, and the IDLE blocks between; block b of a
port's stream goes on data lane b mod 2.
-/

namespace Sys2Proof.Machine

/-- A 66-bit block before its scrambler: a control block or a data block, with payload bytes 0 to 7 (R178). -/
structure WireBlock where
  control : Bool
  payload : List Byte
deriving DecidableEq, Repr

/-- A packet as PKT_START names it (R242), with its payload. -/
structure WirePacket where
  cls : Nat
  src : Nat
  dst : Nat
  hops : Nat
  shadow : Bool
  payload : List Byte
deriving DecidableEq, Repr

/-- The payload of a packet: the identity of the guest that it is from or to stands first (R244; log 78). -/
def guestPayload (src dst guest : Nat) (rest : List Byte) : List Byte :=
  if src = 0xFE ∨ dst = 0xFE then leBytes 16 guest ++ rest else rest

/-- The payload of an acknowledged class: the delivery header, then the body (R244). -/
def ackedPayload (sq incarnation : Nat) (body : List Byte) : List Byte := leBytes 4 sq ++ leBytes 4 incarnation ++ body

/-- The payload of an unacknowledged class: its 16-bit count, then the body (R245; log 78). -/
def countedPayload (count : Nat) (body : List Byte) : List Byte := leBytes 2 count ++ body

/-- The packet that an output is, and the port it is on (R244). The layout of the bodies is not given: free values (log 78). -/
def packetOn (o : Out) : Option (Side × WirePacket) :=
  match o with
  | .packet d cls src dst hops incarnation sq shadow b guest =>
    some (d, { cls := cls, src := src, dst := dst, hops := hops, shadow := shadow
               payload := guestPayload src dst guest (ackedPayload sq incarnation (Config.bodyBytes (.inl b))) })
  | .mirror d dst hops incarnation sq shadow m =>
    some (d, { cls := 0x8, src := 0xFD, dst := dst, hops := hops, shadow := shadow
               payload := ackedPayload sq incarnation (Config.bodyBytes (.inr m)) })
  | .ack d src dst hops count acked shadow guest =>
    some (d, { cls := 0x4, src := src, dst := dst, hops := hops, shadow := shadow
               payload := guestPayload src dst guest (countedPayload count (leBytes 4 acked)) })
  | .beacon d src hops count shadow b =>
    some (d, { cls := 0x1, src := src, dst := 0xFF, hops := hops, shadow := shadow, payload := countedPayload count (Config.beaconBytes b) })
  | .node d src hops count shadow n =>
    some (d, { cls := 0x2, src := src, dst := 0xFF, hops := hops, shadow := shadow
               payload := guestPayload src 0xFF n.identity (countedPayload count (Config.nodeBytes n)) })
  | .elect d src dst hops count shadow kind identity epoch =>
    some (d, { cls := 0x3, src := src, dst := dst, hops := hops, shadow := shadow
               payload := guestPayload src dst identity (countedPayload count (Config.electBytes kind identity epoch)) })
  | _ => none

/-- The packet that an output is at a port. -/
def wirePacket (sd : Side) (o : Out) : Option WirePacket := ((packetOn o).filter (·.1 == sd)).map (·.2)

/-- Payload bytes in data blocks of eight; the last one is filled with zeros (log 78). -/
def dataBlocks : Nat → List Byte → List (List Byte)
  | 0, _ => []
  | n + 1, l => if l.isEmpty then [] else (l.take 8 ++ List.replicate (8 - l.length) 0) :: dataBlocks n (l.drop 8)

/-- The fields of PKT_START (R242). -/
def WirePacket.startFields (p : WirePacket) (blocks : Nat) : List Byte :=
  leBytes 1 p.cls ++ leBytes 1 p.src ++ leBytes 1 p.dst
  ++ leBytes 1 (p.hops % 16 + 16 * b2n (p.src == 0xFD || p.dst == 0xFD) + 32 * b2n p.shadow) ++ leBytes 2 blocks

/-- The blocks of a packet: PKT_START, at most 256 data blocks, and PKT_END with the CRC-32C of PKT_START's bytes 1 to 6 and the payload
(R242, R243). -/
def WirePacket.blocks (p : WirePacket) : List WireBlock :=
  let payload := p.payload.take 2048
  let data := dataBlocks 256 payload
  let start := p.startFields data.length
  { control := true, payload := controlBlock 0x90 start } :: (data.map fun d => { control := false, payload := d })
  ++ [{ control := true, payload := controlBlock 0x92 (leBytes 4 (crc32c (start ++ payload)).toNat) }]

/-! ## What waits at a port, and what leaves it -/

/-- IDLE (R179, R242). -/
def idleBlock : WireBlock := { control := true, payload := controlBlock 0x10 [] }

/-- The data lane that a block is tied to: TS1 and ALIGN name theirs, and the moments that TIME and SYNC carry are those of lane 0 (R182,
R242). -/
def WireBlock.lane (b : WireBlock) : Option Nat :=
  match b.control, b.payload with
  | true, k :: l :: _ =>
    if k = 0x18 ∨ k = 0x70 then some (l.toNat % 2) else if k = 0x94 ∨ k = 0x38 then some 0 else none
  | _, _ => none

/-- What waits to be sent: its rank, lower first, and its blocks. Blocks of rank 0 go between those of what has started; nothing else does
(R180, R181, R243). -/
structure WireItem where
  rank : Nat
  blocks : List WireBlock
deriving DecidableEq, Repr

/-- A port's sender: the blocks that have left, newest first, the rest of what has started, and what waits, oldest first. -/
structure Sender where
  sent : List WireBlock := []
  started : List WireBlock := []
  waiting : List WireItem := []
deriving DecidableEq, Repr

/-- The data lane of a block of the stream (R178, R242). -/
def blockLane (b : Nat) : Nat := b % 2

/-- A block may leave now: it is not tied to the other lane. -/
def Sender.fits (q : Sender) (b : WireBlock) : Bool := b.lane.all (· == blockLane q.sent.length)

/-- A block leaves. -/
def Sender.put (q : Sender) (b : WireBlock) : Sender := { q with sent := b :: q.sent }

/-- The first that waits of the lowest rank. -/
def Sender.first (q : Sender) : Option WireItem :=
  match leastBy (fun r => (r : Int)) (q.waiting.map (·.rank)) with
  | some r => q.waiting.find? (·.rank == r)
  | none => none

/-- The sender without the first that waits as an item does. -/
def Sender.drop (q : Sender) (x : WireItem) : Sender := { q with waiting := q.waiting.erase x }

/-- What a sender does beside the blocks of rank 0: the next block of what has started, else the start of what waits, else IDLE. A block tied
to the other lane waits for an IDLE to pass. -/
def Sender.goOn (q : Sender) : Sender :=
  match q.started with
  | b :: t => if q.fits b then ({ q with started := t }).put b else q.put idleBlock
  | [] =>
    match q.first with
    | none => q.put idleBlock
    | some x =>
      match x.blocks with
      | [] => q.drop x
      | b :: t => if q.fits b then ({ q.drop x with started := t }).put b else q.put idleBlock

/-- One block time: a waiting block of rank 0 goes ahead of all else (R181, R243). -/
def Sender.blockTime (q : Sender) : Sender :=
  match q.waiting.find? (·.rank == 0) with
  | some x =>
    match x.blocks with
    | [b] => if q.fits b then (q.drop x).put b else q.goOn
    | _ => q.goOn
  | none => q.goOn

/-- Block times pass. -/
def Sender.run (q : Sender) : Nat → Sender
  | 0 => q
  | n + 1 => q.blockTime.run n

/-- A port is given one thing more to send, after the block times that have passed. -/
def Sender.give (q : Sender) (times : Nat) (x : Option WireItem) : Sender :=
  match x with
  | none => q
  | some x => { q.run times with waiting := (q.run times).waiting ++ [x] }

/-- The sender of a port after all it has been given. -/
def senderOf (port : Nat) (items : List (Option WireItem)) : Sender :=
  (items.mapIdx fun i x => (i, x)).foldl (fun q x => q.give (Config.blockTimes port x.1) x.2) {}

/-- What a stream puts on a data lane, in its order (R178, R242). -/
def onLane (l : List WireBlock) (lane : Nat) : List WireBlock :=
  (l.mapIdx fun b x => if blockLane b = lane then [x] else []).flatten

/-! ## Halyard ports (R242, R243) -/

/-- The rank of a packet by its class (R243). -/
def classRank (cls : Nat) : Nat := if cls = 0x1 then 1 else if cls = 0x9 then 3 else 2

/-- The rank of a control block that stands alone: TIME, DLY_REQ and DLY_RSP go first (R243). -/
def blockRank (payload : List Byte) : Nat := if payload.headD 0 = 0x94 ∨ payload.headD 0 = 0x98 ∨ payload.headD 0 = 0x9A then 0 else 2

/-- What an output gives a halyard port to send. -/
def wireItem (sd : Side) (o : Out) : Option WireItem :=
  match o with
  | .halyardBlock d payload =>
    if d = sd then some { rank := blockRank payload, blocks := [{ control := true, payload := payload }] } else none
  | _ => (wirePacket sd o).map fun p => { rank := classRank p.cls, blocks := p.blocks }

/-- The sender of a halyard port. -/
def State.portSender (s : State) (sd : Side) : Sender := senderOf (32 + sideIndex sd) (s.out.reverse.map (wireItem sd))

/-- The block stream of a port: what has left it, in its order; how many block times pass is timing, which the model leaves free. -/
def State.portStream (s : State) (sd : Side) : List WireBlock := (s.portSender sd).sent.reverse

/-- What a data lane of a halyard port carries, in its order. -/
def State.laneStream (s : State) (sd : Side) (lane : Nat) : List WireBlock := onLane (s.portStream sd) lane

/-! ## Head ports (R178 to R181) -/

/-- Data bytes as blocks. -/
def dataItems (bytes : List Byte) : List WireBlock := (dataBlocks (bytes.length / 8 + 1) bytes).map fun d => { control := false, payload := d }

/-- What an output gives a head port to send: a FIRE block goes ahead of every block not started yet. -/
def headItem (n : Nat) (o : Out) : Option WireItem :=
  match o with
  | .headBlock p payload =>
    if p = n then some { rank := if payload.headD 0 = 0x30 then 0 else 1, blocks := [{ control := true, payload := payload }] } else none
  | .headData p bytes => if p = n then some { rank := 1, blocks := dataItems bytes } else none
  | _ => none

/-- The items of a row-line, or of a waveform, joined: from LINE_START to LINE_END, and from WAVE_START to WAVE_END, nothing but FIRE stands
between their blocks (R180, R194). What a list begins with inside one goes to `open_`. -/
def joinRuns : List (Option WireItem) → Option (List WireBlock) → List (Option WireItem)
  | [], open_ => [open_.map fun l => { rank := 1, blocks := l }]
  | none :: t, open_ => none :: joinRuns t open_
  | some x :: t, open_ =>
    if x.rank = 0 then some x :: joinRuns t open_
    else
      let kind := ((x.blocks.headD idleBlock).payload.headD 0)
      let control := (x.blocks.headD idleBlock).control
      match open_ with
      | some l =>
        if control && (kind == 0x22 || kind == 0x42) then some { x with blocks := l ++ x.blocks } :: joinRuns t none
        else none :: joinRuns t (some (l ++ x.blocks))
      | none =>
        if control && (kind == 0x20 || kind == 0x40) then none :: joinRuns t (some x.blocks)
        else some x :: joinRuns t none

/-- The sender of a head port. -/
def State.headSender (s : State) (n : Nat) : Sender := senderOf n (joinRuns (s.out.reverse.map (headItem n)) none)

/-- The block stream of a head port, and what each of its data lanes carries: block b on lane b mod 2, and IDLE where nothing waits (R178). -/
def State.headStream (s : State) (n : Nat) : List WireBlock := (s.headSender n).sent.reverse
def State.headLane (s : State) (n lane : Nat) : List WireBlock := onLane (s.headStream n) lane

end Sys2Proof.Machine
end

