-- ==== Sys2Proof/Machine/Ring.lean ====
section
/-!
DEFINITION. Machine/Ring.lean: the ring's packets and roles: receiving and forwarding (R243 to R247), ring state (R246), the manager's
transactions and admissions (R250 to R254, R257), takeover (R256, R258), the web-line offset (R268), and what a member does with
each message (R253, R254, R269 to R272).
-/

namespace Sys2Proof.Machine

/-! ## Who is heard (R246) -/

/-- A moment lies within the last 3 ms: three periods of NODE. -/
def State.recently (s : State) (x : Option Nat) : Bool := x.any fun m => decide (s.now < m + 3000000)

/-- A chip is heard at all; and both ways round. -/
def State.hears (s : State) (h : Heard) : Bool := s.recently h.heardE || s.recently h.heardW
def State.hearsBoth (s : State) (h : Heard) : Bool := s.recently h.heardE && s.recently h.heardW

/-- Whether the own chip reaches a node: itself, or one it hears. -/
def State.reaches (s : State) (n : Nat) : Bool := some n == s.ring.node || s.ring.heard.any fun h => h.node == some n && s.hears h

/-- The admitted nodes this chip knows of, itself apart: those of the roster on the manager and the standby, elsewhere those heard of as
nodes. -/
def State.knownNodes (s : State) : List Nat :=
  if s.ring.role = .manager ∨ s.ring.role = .standby then dedupe s.ring.others else dedupe (s.ring.heard.filterMap (·.node))

/-- The BEACON counts more admitted nodes than this chip has heard of, itself among them: one of them is not reached (R246). -/
def State.missesNodes (s : State) : Bool :=
  s.ring.role != .manager && s.ring.role != .standby && decide (s.knownNodes.length + b2n s.ring.node.isSome < s.ring.count)

/-- The ring state as the NODE packets show it (R246). -/
def State.ringStateNow (s : State) : RingState :=
  if s.ring.upAt.isNone then .forming
  else if s.missesNodes then .split
  else if s.knownNodes.all fun n => s.ring.heard.any fun h => h.node == some n && s.hearsBoth h then .closed
  else if s.knownNodes.all s.reaches then .line
  else .split

/-- The ring state taken anew, with the nodes heard again no longer unreached, and V (R246, R265). -/
def State.settleRing (s : State) : State :=
  let gone := s.ring.unreached.filter fun u => !s.reaches u.1
  { s with ring := { s.ring with rstate := s.ringStateNow, unreached := gone } }.postV

/-- The node count that bounds a packet's hops (R245): the chips heard and the own one, 16 while the ring forms. -/
def State.nodeCount (s : State) : Nat :=
  if s.ring.rstate == .forming then 16 else max s.ring.count ((s.ring.heard.filter s.hears).length + 1)

/-! ## Sending the unacknowledged classes (R244) -/

/-- CLAIM 0 or JOIN 1, by the chip's identity; PROBE 2 or PROBE reply 3, which only admitted chips send. -/
def State.sendElect (s : State) (kind dst epoch : Nat) : State :=
  s.sendCounted fun n sd sh => .elect sd s.ownAddress dst 0 n sh kind (if kind < 2 then s.fuses.identity else 0) epoch

/-- A BEACON (R244, R255). -/
def State.sendBeacon (s : State) : State :=
  let r := s.ring
  let b : BeaconMsg := {
    epoch := r.epoch, manager := r.node.getD 0, standby := r.standby, generation := r.generation, count := r.count
    taiSeconds := if r.calValid then ((r.calAt s.now).fdiv 1000000000).toNat else 0 }
  let s1 : State := { s with ring := { r with beaconSent := s.now } }
  s1.sendCounted fun n sd sh => .beacon sd 0xFD 0 n sh b

/-! ## The web-line offset (R268) -/

/-- The calendar time of an edge at a moment just past. -/
def State.calOf (s : State) (m : Nat) : Int := s.ring.calAt s.now - (s.now - m : Nat)

/-- The manager's edge and the web line there; its present count while it is stalled. -/
def State.offsetMessage (s : State) : Option ControlMsg :=
  let c := s.chan 0
  let o := s.ring.offset.getD 0
  if c.stalled then some (.offsetEdge (s.calOf s.now).toNat (s.pOf c.count - o) true)
  else match c.edges with
    | [] => none
    | (m, n) :: _ => some (.offsetEdge (s.calOf m).toNat (s.pOf n - o) false)

/-- The packets that let members measure their offset. -/
def State.offsetPackets (s : State) (dst : List Nat) : List (Nat × Payload) :=
  match s.offsetMessage with
  | none => []
  | some m => dst.map fun d => (d, .control m)

/-- A member measures o from an edge of the manager: its own edge within ±10 ns, or the present counts where both are stalled. A change
while armed stops the placement of synchronised pages until the next arming (R268, R270). -/
def State.measureOffset (s : State) : State :=
  match s.ring.offsetEdge with
  | none => s
  | some (m, w, stalled) =>
    let c := s.chan 0
    let found := if stalled && c.stalled then some (s.pOf c.count)
      else (c.edges.find? fun e => decide ((s.calOf e.1 - m).natAbs ≤ 10)).map fun e => s.pOf e.2
    match found with
    | none => { s with ring := { s.ring with offsetTriedAt := s.now, offsetWanted := true } }
    | some p =>
      let o := p - w
      { s with ring := { s.ring with
        offset := some o, offsetWanted := false, syncStopped := s.ring.syncStopped || (s.pos.armed && s.ring.offset != some o) } }

/-! ## The standby of the manager (R250, R257) -/

/-- The eligible admitted node with the lowest number that the manager reaches. -/
def State.standbyChoice (s : State) (apart : Option Nat) : Option Nat :=
  leastBy (fun n => (n : Int)) ((s.ring.members.filter fun e =>
    e.eligible && some e.node != s.ring.node && some e.node != apart && s.reaches e.node).map (·.node))

/-- The packets from 0xFD that wait for an acknowledgement, as MIRROR carries them. -/
def Ring.waitingPackets (r : Ring) : List HeldPacket :=
  r.unacked.filterMap fun u => match u.body with
    | .inl b => if u.src = 0xFD then some { dst := u.dst, sq := u.sq, body := b } else none
    | .inr _ => none

/-- A standby is being appointed: the full manager state goes to it (R250). -/
def State.appoint (s : State) (n : Nat) : State :=
  let r := s.sendMirror n 0 0 s.ring.waitingPackets true
  { r.2 with ring := { r.2.ring with appointing := some (n, r.1) } }

/-- A manager without a standby, and with none in appointment, appoints one (R250). -/
def State.seekStandby (s : State) (apart : Option Nat) : State :=
  if s.ring.role = .manager ∧ s.ring.standby.isNone ∧ s.ring.appointing.isNone then
    match s.standbyChoice apart with
    | some n => s.appoint n
    | none => s
  else s

/-- The first eligible chip whose JOIN or admission reaches a manager without a standby is appointed (R250). -/
def State.offerStandby (s : State) (n : Nat) : State :=
  if s.ring.role = .manager ∧ s.ring.standby.isNone ∧ s.ring.appointing.isNone ∧ some n ≠ s.ring.node
      ∧ (s.ring.members.any fun e => e.node == n && e.eligible) then s.appoint n
  else s

/-- Every transaction that waits ends. -/
def State.runTransactions (s : State) : State :=
  s.ring.transactions.foldl State.runTransaction { s with ring := { s.ring with transactions := [] } }

/-- The standby is lost: what waited for it goes on, event 0x8903, and another is sought (R250). -/
def State.loseStandby (s : State) (n : Nat) : State :=
  if s.ring.standby = some n then
    let s1 := ({ s with ring := { s.ring with standby := none } }).runTransactions
    (s1.info 0x8903).seekStandby (some n)
  else if s.ring.appointing.any (·.1 == n) then
    ({ s with ring := { s.ring with appointing := none } }).seekStandby (some n)
  else s

/-- The full manager state has been mirrored: the appointment takes effect, and every member is told (R250). -/
def State.appointed (s : State) (n : Nat) : State :=
  let s1 : State := { s with ring := { s.ring with standby := some n, appointing := none } }
  s1.transact 0 0 (s1.ring.others.map fun d => (d, .control (.standbyAppointed n))) none

/-! ## The roster (R250 to R254) -/

/-- The roster entry of a chip: its own one, or a new one at the lowest free number (R251). A new entry's web offset is a free value until
the chip has told it. -/
def State.entryFor (s : State) (identity colour : Nat) (eligible : Bool) : Option RosterEntry :=
  match s.ring.roster.find? (·.identity == identity) with
  | some e => some { e with colour := colour, eligible := eligible, admitted := true }
  | none =>
      let numbers := List.range 16
      let free := (numbers.find? fun n => (s.ring.entryOf n).isNone).or (numbers.find? fun n => (s.ring.entryOf n).any fun e => !e.admitted)
      free.map fun n => {
        identity := identity, node := n, colour := colour, webOffset := ((Config.freeNat s.free : Nat) : Int)
        eligible := eligible, calCheck := false, admitted := true }

/-- The roster entry that RING_ADMIT gives a chip: one of its colour that another identity holds, which it replaces, and the bar is marked;
else as `State.entryFor` (R251, R253). -/
def State.admissionEntry (s : State) (identity colour : Nat) (eligible : Bool) : Option RosterEntry :=
  match s.ring.roster.find? fun e => !e.admitted && e.colour == colour && e.identity != identity with
  | some e => some { e with identity := identity, eligible := eligible, calCheck := true, admitted := true }
  | none => s.entryFor identity colour eligible

/-- The roster in node order, with an entry put in the place of what has its node. -/
def putEntry (l : List RosterEntry) (e : RosterEntry) : List RosterEntry :=
  sortBy (fun x => (x.node : Int)) (l.filter (fun x => x.node != e.node && x.identity != e.identity) ++ [e])

/-- Where an admission is sent: to the node number of a chip that has kept it, else to the guest by its identity (R244). -/
def State.admitAddress (s : State) (e : RosterEntry) : Nat :=
  if s.ring.heard.any fun h => h.identity == e.identity && h.node == some e.node then e.node else guestAddress e.identity

/-- A chip is admitted with an entry: the manager's new state, and the packets it sends (R251, R253, R268). -/
def State.admitChip (s : State) (e : RosterEntry) : State × List (Nat × Payload) :=
  let s0 : State := { s with free := s.free + 1, ring := { s.ring with roster := putEntry s.ring.roster e } }
  let s1 := s0.rosterChanged
  (s1, (s.admitAddress e, .control (.admitted e.identity e.node e.calCheck)) :: s1.offsetPackets [e.node])

/-- A chip on the roster is admitted without a command (R251). -/
def State.autoAdmit (s : State) (identity colour : Nat) (eligible : Bool) : State :=
  match s.entryFor identity colour eligible with
  | none => s
  | some e =>
    let r := s.admitChip e
    (r.1.transact 0 0 r.2 none).offerStandby e.node

/-- Whether the manager admits a chip automatically: it is on the roster, and it comes within 2 s of the election, or it reports a warm
reset and keeps its number (R251). -/
def State.admitsItself (s : State) (identity : Nat) (kept : Option Nat) (warm : Bool) : Bool :=
  s.ring.role == .manager &&
  match s.ring.roster.find? (·.identity == identity) with
  | none => false
  | some e => !e.admitted && (decide (s.now ≤ s.ring.electedAt + 2000000000) || (warm && kept == some e.node))

/-! ## Becoming manager (R249, R256, R258) -/

/-- The own roster entry of a new manager, and the chip's number. -/
def State.enrol (s : State) : State :=
  let e := (s.entryFor s.fuses.identity s.ring.colour s.power.mgrEn).map fun e => { e with webOffset := s.ring.webOffset, calCheck := s.ring.calCheck }
  match e with
  | none => s
  | some e => { s with ring := { s.ring with node := some e.node, roster := putEntry s.ring.roster e } }

/-- The nodes heard of that the roster does not list as admitted, taken into it by a manager that no MIRROR has told (R256). -/
def State.adoptHeard (s : State) : State :=
  let l := s.ring.heard.foldl (fun l h => match h.node with
    | none => l
    | some n =>
      if l.any fun x => x.identity == h.identity && x.admitted then l
      else
        let known := (l.find? fun x => x.identity == h.identity)
        let e : RosterEntry := {
          identity := h.identity, node := n, colour := h.colour, eligible := h.eligible, admitted := true
          webOffset := (known.map (·.webOffset)).getD ((Config.freeNat (s.free + n) : Nat) : Int), calCheck := (known.map (·.calCheck)).getD false }
        putEntry l e) s.ring.roster
  { s with free := s.free + 16, ring := { s.ring with roster := l, adopted := s.ring.heard.filterMap (·.node) } }

/-- The chip becomes manager with an epoch and beacons at once. The first frame of the ring has W = 0 now; a predecessor's is kept
(R249, R268). -/
def State.becomeManager (s : State) (epoch : Nat) : State :=
  let o := s.ring.offset
  let s1 := s.enrol
  -- the residual of a slew is removed at the rate of the new role from here on
  let r := s1.ring.settle s1.now
  let s2 : State := { s1 with ring := { r with
    role := .manager, epoch := epoch, manager := s1.ring.node, standby := none, appointing := none, election := .idle, lowerClaim := false
    electedAt := s1.now, beaconAt := s1.now, offset := some (o.getD s1.highWater), timeHops := 0, timeLost := false } }
  let s3 := (s2.rosterChanged.sendBeacon).info 0x8903
  let own := match s3.heads.governor.published, s3.ring.node with
    | some (v, c), some n => s3.recordLimit n v c
    | _, _ => s3
  own.transact 0 0 (if o.isNone then own.offsetPackets own.ring.others else []) none

/-! ## What the manager does with a packet to 0xFD (R257) -/

/-- Member copies of a page held for reprint, for a request of the ring (R38, R271). A request for a released page is refused, with record
0x8303 (R38). -/
def State.holdCopy (s : State) (group page : Nat) : State :=
  match s.syncPage? group page with
  | none => match s.releasedPage group page with
    | some e => s.info 0x8303 0 (w32 e.seq)
    | none => s
  | some p =>
    if (p.spoilable || p.state == .fired) && p.state != .held then s.mapPage p.seq fun p => { p with state := .held, horizon := none }
    else s

/-- A member's request for a reprint on the manager: its own copy is held, and the other members are asked; a page that the manager has no
copy of is placed by `State.placeForeign` (R271). -/
def State.requestReprint (s : State) (src group page : Nat) : State × List (Nat × Payload) :=
  let r := (s.holdCopy group page).markReprint group page
  let out := r.2.filter fun x => x.1 != src
  let p := r.1.placeForeign group
  (p.1, out ++ p.2)

/-- A worker has taken a forwarded profile. -/
def State.profileTaken (s : State) (q : Nat) : State :=
  let mark := fun (f : Forwarded) => if f.seq == q then { f with accepted := some s.now } else f
  { s with ring := { s.ring with forwarded := s.ring.forwarded.map mark } }

/-- The status of a code (R310). -/
def statusOf : Nat → Status
  | 0x0 => .ok | 0x1 => .badOpcode | 0x2 => .badParam | 0x3 => .notInMode | 0x4 => .busy | 0x5 => .noResource | 0x6 => .latePage
  | 0x7 => .cancelled | 0x8 => .decodeError | 0x9 => .outputLimit | 0xA => .outputFull | 0xB => .unitFenced | 0xC => .denied | _ => .replayed

/-- A forwarded profile ends on the manager. -/
def State.endForwarded (s : State) (q : Nat) (st : Status) (detail : BitVec 32) : State :=
  if s.ring.forwarded.any (·.seq == q) then
    ({ s with ring := { s.ring with forwarded := s.ring.forwarded.filter (·.seq != q) } }).finish q st detail
  else s

/-- What a member tells of itself, on the manager, and the packets that answer it (R251, R253, R267, R268). -/
def State.managerTold (s : State) (src : Nat) (m : ControlMsg) : State × List (Nat × Payload) :=
  let entry := fun (f : RosterEntry → RosterEntry) =>
    let l := s.ring.roster.map fun e => if e.node = src then f e else e
    if l = s.ring.roster then s else ({ s with ring := { s.ring with roster := l } }).rosterChanged
  match m with
  | .roleSet c u => (entry fun e => { e with colour := c, webOffset := u }, [])
  | .offsetMeasured o => ({ s with ring := { s.ring with offsets := SMap.insert src o (SMap.erase src s.ring.offsets) } }, [])
  | .offsetWanted => (s, s.offsetPackets [src])
  | .memberOf l => ({ s with ring := { s.ring with groups := s.ring.groups.filter (·.2.1 != src) ++ l.map fun g => (g.1, src, g.2) } }, [])
  | .calChecked => (entry fun e => { e with calCheck := false }, [])
  | _ => (s, [])

/-- One packet to the manager role, as one transaction (R257). -/
def State.processRole (s : State) (src sq : Nat) (b : Payload ⊕ MirrorMsg) : State :=
  match b with
  | .inl (.speed v c) => (s.recordLimit src v c).transact src sq [] none
  | .inl (.syncReady g p l) =>
    let r := s.managerReady src g p l
    let f := r.1.placeForeign g
    f.1.transact src sq (r.2 ++ f.2) none
  | .inl (.syncReprint g p) =>
    let r := s.requestReprint src g p
    r.1.transact src sq r.2 none
  | .inl (.control (.profileAccepted q)) => (s.profileTaken q).transact src sq [] none
  | .inl (.control (.profileStatus q st d)) => (s.endForwarded q (statusOf st) (w32 d ||| 2#32)).transact src sq [] none
  | .inl (.control m) =>
    let r := s.managerTold src m
    r.1.transact src sq r.2 none
  | _ => s.transact src sq [] none

/-! ## Exactly once, in order (R247) -/

/-- What has been delivered from a source to an address. -/
def State.delivery (s : State) (src dst : Nat) : Option Delivery := s.ring.deliveries.find? fun d => d.src == src && d.dst == dst

/-- The record of a source and an address, replaced. -/
def State.setDelivery (s : State) (d : Delivery) : State :=
  { s with ring := { s.ring with deliveries := s.ring.deliveries.filter (fun x => !(x.src == d.src && x.dst == d.dst)) ++ [d] } }

/-- The packets held that are next in order go to `f`, at most `n` of them. -/
def State.drain (f : State → Nat → Payload ⊕ MirrorMsg → State) (src dst : Nat) : Nat → State → State
  | 0, s => s
  | n + 1, s =>
    match s.delivery src dst with
    | none => s
    | some d =>
      match SMap.find? (d.delivered + 1) d.held with
      | none => s
      | some b =>
        let d1 : Delivery := { d with delivered := d.delivered + 1, held := SMap.erase (d.delivered + 1) d.held }
        State.drain f src dst n (f (s.setDelivery d1) d1.delivered b)

/-- The highest sequence that may be acknowledged: on the manager, below what waits for a MIRROR (R257). -/
def State.ackable (s : State) (src dst delivered : Nat) : Nat :=
  if dst ≠ 0xFD then delivered
  else s.ring.transactions.foldl (fun v t => if t.coversSrc = src ∧ t.coversSq ≠ 0 then min v (t.coversSq - 1) else v) delivered

/-- The address that a packet came from: a guest is known by its identity (R244). -/
def sentBy (h : PktHdr) : Nat := if h.src = 0xFE then guestAddress h.guest else h.src

/-- The record for a packet that has just come: begun anew for a new incarnation of a source other than 0xFD. Where none is kept, a packet
of the manager role begins the record at its own place, and so does one from a node that a manager which no MIRROR has told found
admitted (log 77). -/
def State.deliveryFor (s : State) (h : PktHdr) : Delivery :=
  match s.delivery h.src h.dst with
  | some d => if h.src ≠ 0xFD ∧ d.incarnation ≠ h.incarnation then { d with incarnation := h.incarnation, delivered := 0, held := [] } else d
  | none =>
    let base := if h.src = 0xFD ∨ (h.dst = 0xFD ∧ has h.src s.ring.adopted) then h.sq - 1 else 0
    { src := h.src, dst := h.dst, incarnation := h.incarnation, delivered := base }

/-- A packet of an acknowledged class at its addressee: delivered in order, held up to 64, acknowledged again if it is a duplicate. -/
def State.acceptPacket (s : State) (f : State → Nat → Payload ⊕ MirrorMsg → State) (h : PktHdr) (b : Payload ⊕ MirrorMsg) : State :=
  let d := s.deliveryFor h
  if h.sq ≤ d.delivered then
    let s1 := s.setDelivery d
    let a := s1.ackable h.src h.dst d.delivered
    if a = 0 then s1 else s1.acknowledge (sentBy h) h.dst a
  else if (SMap.find? h.sq d.held).isSome then s.setDelivery d
  else if 64 ≤ d.held.length ∧ h.sq ≠ d.delivered + 1 then s.setDelivery d
  else State.drain f h.src h.dst 65 (s.setDelivery { d with held := SMap.insert h.sq b d.held })

/-! ## What the standby keeps (R257) -/

/-- The next sequence of a pair is above one seen. -/
def State.raiseSq (s : State) (src dst sq : Nat) : State :=
  let n := SMap.get 1 s.ring.nextSqs (src + 256 * dst)
  { s with ring := { s.ring with nextSqs := SMap.set 1 s.ring.nextSqs (src + 256 * dst) (max n (sq + 1)) } }

/-- The manager has processed what a source sent, up to a sequence. -/
def State.coverRole (s : State) (src sq : Nat) : State :=
  if sq = 0 then s
  else
    let d := (s.delivery src 0xFD).getD { src := src, dst := 0xFD, incarnation := 0, delivered := sq }
    s.setDelivery { d with delivered := max d.delivered sq, held := d.held.filter fun x => decide (max d.delivered sq < x.1) }

/-- How far the packets of a source are processed, as the full manager state tells it (R250). -/
def State.coverFrom (s : State) (src incarnation delivered : Nat) : State :=
  match s.delivery src 0xFD with
  | some d => if d.incarnation = incarnation then s.coverRole src delivered
      else s.setDelivery { d with incarnation := incarnation, delivered := delivered, held := [] }
  | none => s.setDelivery { src := src, dst := 0xFD, incarnation := incarnation, delivered := delivered }

/-- The address that a packet goes to: a guest is known by its identity (R244). -/
def sentTo (h : PktHdr) : Nat := if h.dst = 0xFE then guestAddress h.guest else h.dst

/-- A role-traffic packet that passes: every chip knows from one how far 0xFD has numbered, so that a new manager's numbers go on from
there (R247; log 77), and the standby records those to 0xFD (R257). -/
def State.recordRole (s : State) (h : PktHdr) (b : Payload ⊕ MirrorMsg) : State :=
  if !h.role then s
  else if h.src = 0xFD then s.raiseSq 0xFD (sentTo h) h.sq
  else if h.dst = 0xFD ∧ s.ring.role = .standby then
    let d := match s.delivery h.src 0xFD with
      | some d => if d.incarnation ≠ 0 ∧ d.incarnation ≠ h.incarnation then { d with delivered := 0, held := [], incarnation := h.incarnation }
          else { d with incarnation := h.incarnation }
      | none => { src := h.src, dst := 0xFD, incarnation := h.incarnation, delivered := h.sq - 1 }
    if h.sq ≤ d.delivered ∨ (SMap.find? h.sq d.held).isSome ∨ 64 ≤ d.held.length then s.setDelivery d
    else s.setDelivery { d with held := SMap.insert h.sq b d.held }
  else s

/-- An acknowledgement that passes: one to 0xFD tells every chip how far 0xFD has numbered, and the standby records it (R247, R257). -/
def State.recordAck (s : State) (h : PktHdr) (acked : Nat) : State :=
  if !h.role then s
  else
    let s1 := if h.dst = 0xFD then s.raiseSq 0xFD (sentBy h) acked else s
    if s1.ring.role ≠ .standby then s1
    else if h.dst = 0xFD then
      let most := max acked (SMap.get 0 s1.ring.ackedBy (sentBy h))
      { s1 with ring := { s1.ring with ackedBy := SMap.insert (sentBy h) most (SMap.erase (sentBy h) s1.ring.ackedBy) } }
    else if h.src = 0xFD then s1.coverRole (sentTo h) acked
    else s1

/-- Whether a packet that a MIRROR holds has not been acknowledged; one to this chip itself, whether it has not been delivered here. -/
def Ring.unsettled (r : Ring) (p : HeldPacket) : Bool :=
  let own := if some p.dst = r.node then
      ((r.deliveries.find? fun d => d.src == 0xFD && d.dst == p.dst).map (·.delivered)).getD 0 else 0
  decide (max own (SMap.get 0 r.ackedBy p.dst) < p.sq)

/-- A MIRROR at the standby, or at the one in appointment: the manager state is taken, and what it covers is known (R250, R257). -/
def State.takeMirror (s : State) (m : MirrorMsg) : State :=
  let old := if m.full then [] else s.ring.mirrored.filter fun x => x.packets.any s.ring.unsettled
  let s1 : State := { s with ring := { s.ring with
    mirrored := old ++ [m], roster := m.roster, limits := m.limits, vPress := m.vPress, holdMs := m.holdMs
    syncEnd := m.syncEnd, syncPages := m.syncPages, offsets := m.offsets, groups := m.groups } }
  let told := m.delivered.foldl (fun s d => s.coverFrom d.1 d.2.1 d.2.2) s1
  let s2 := m.packets.foldl (fun s p => s.raiseSq 0xFD p.dst p.sq) (told.coverRole m.coversSrc m.coversSq)
  if s.ring.roster = m.roster then s2 else s2.calDirty

/-! ## What a node does with a packet (R253, R254, R268 to R272) -/

/-- A CONTROL message at the chip it is for. -/
def State.controlMessage (s : State) (m : ControlMsg) : State :=
  match m with
  | .admitted i n check =>
    if i ≠ s.fuses.identity then s
    else
      let r := s.ring
      let s1 : State := { s with ring := { r with
        node := some n, role := if r.role = .guest then .worker else r.role, calCheck := r.calCheck || check } }
      s1.checkCalMark
  | .expelled i =>
    if i ≠ s.fuses.identity then s
    else
      let s1 : State := { s with ring := { s.ring with node := none, role := .guest, mirrored := [], election := .idle } }
      s1.disarmAtEnd.settleDisarm
  | .standbyAppointed n =>
    let r := s.ring
    let role := if r.role = .manager ∨ r.role = .guest then r.role else if r.node = some n then .standby else .worker
    { s with ring := { r with standby := some n, role := role } }
  | .offsetEdge m w st =>
    if s.ring.role = .manager ∨ s.ring.role = .guest then s
    else ({ s with ring := { s.ring with offsetEdge := some (m, w, st) } }).measureOffset
  | .timeStepped d => if s.ring.role = .manager ∨ !s.ring.calValid then s else s.stepCalendar (s.ring.calAt s.now + d) 2
  | .profileAccepted _ | .profileStatus .. | .roleSet .. | .offsetMeasured _ | .offsetWanted | .memberOf _ | .calChecked => s

/-- A forwarded profile at its worker: it is journaled as a command of the manager, its acceptance is confirmed, and it is checked and
waits as R217 gives (R218, R272). -/
def State.takeProfile (s : State) (mgrSeq : Nat) (d : List Byte) : State :=
  let seq := s.seqOf s.journal.next
  let e : JEntry := {
    seq := seq, tag := w32 mgrSeq, opcode := 0x0701, flags := 0x10, queue := 8, state := .running, status := 0, detail := 0
    acceptTime := s.stamp.2, stateTime := s.stamp.2, timesValid := s.stamp.1
    r0 := 0, r1 := 0, r2 := 0, r3 := 0, params := [], waitsSince := none, readableUntil := none, started := true }
  let s1 := (s.journalEntry e).ringSend 0xFD (.control (.profileAccepted mgrSeq))
  let bad := firstBad ((decide (d.length = 32 + 2 * (leAt d 2 2 + 1)), .length d.length) :: profileConds s1 d ++ dataOk 0 [(0, s1.ownProfile d)])
  match bad with
  | some l => (s1.finish seq .badParam (w32 l.detail) (w32 l.word)).ringSend 0xFD (.control (.profileStatus mgrSeq 2 l.detail))
  | none =>
    if 8 ≤ s1.loop.waiting.length then (s1.finish seq .busy).ringSend 0xFD (.control (.profileStatus mgrSeq 4 0))
    else s1.acceptProfile (profileOf seq (some mgrSeq) d)

/-- A PROFILE packet at its worker: the buffer is whole with a packet that is not full (R272; log 78). -/
def State.takeChunk (s : State) (mgrSeq : Nat) (d : List Byte) : State :=
  let all := SMap.get [] s.ring.profileIn mgrSeq ++ d
  let rest := SMap.erase mgrSeq s.ring.profileIn
  if d.length < profileChunk then
    ({ s with ring := { s.ring with profileIn := rest } }).takeProfile mgrSeq all
  else { s with ring := { s.ring with profileIn := SMap.insert mgrSeq all rest } }

/-! ## Takeover (R256, R258, R260) -/

/-- A placement computed again: its group and page, the web line it had, and the one it has now. -/
structure Replaced where
  group : Nat
  page : Nat
  was : Int
  line : Int
deriving DecidableEq, Repr

/-- One more placement of a chain computed again, at the earliest where the one before it in its group now leaves room for it (R258,
R269). -/
def State.replaceNext (s : State) (l : List Replaced) (p : HeldPacket) : List Replaced :=
  match p.body with
  | .syncPlace g n w =>
    let room := match l.find? (·.group == g) with
      | some x => max w (x.line + s.syncLength g x.page + s.groupGap g)
      | none => w
    { group := g, page := n, was := w, line := s.allowedLine g room } :: l
  | _ => l

/-- The placements among the packets given, in their order, computed again; the latest first. -/
def State.replaced (s : State) (l : List HeldPacket) : List Replaced := l.foldl s.replaceNext []

/-- What a packet of the old manager carries when it is sent again: a placement that no member has acknowledged is computed again. -/
def heldBody (again : List Replaced) (b : Payload) : Payload :=
  match b with
  | .syncPlace g n w =>
    match again.find? fun x => x.group == g && x.page == n && x.was == w with
    | some x => .syncPlace g n x.line
    | none => b
  | b => b

/-- A packet of the old manager for this chip itself, which has not been delivered here: it is acted on once, in its order (R247, R258). -/
def State.takeHeld (s : State) (local_ : State → Payload ⊕ MirrorMsg → State) (p : HeldPacket) (b : Payload) : State :=
  local_ (s.setDelivery { ((s.delivery 0xFD p.dst).getD { src := 0xFD, dst := p.dst, incarnation := 0, delivered := 0 }) with delivered := p.sq }) (.inl b)

/-- The chain of each group ends behind its last placement, those computed again among them. -/
def State.rechain (s : State) (l : List Replaced) : State :=
  l.foldl (fun s x =>
    let last : Int := x.line + s.syncLength x.group x.page
    let mark := fun (y : SyncPage) => if y.group == x.group && y.page == x.page && y.placed == some x.was then { y with placed := some x.line } else y
    { s with ring := { s.ring with
      syncEnd := SMap.insert x.group (max last (SMap.get last s.ring.syncEnd x.group)) (SMap.erase x.group s.ring.syncEnd)
      syncPages := s.ring.syncPages.map mark } }) s

/-- The standby becomes manager: event 0x8902, the packets of the old manager not yet acknowledged go out again, what is covered is
acknowledged and every other packet to 0xFD is processed as new (R258). -/
def State.takeOver (s : State) (local_ : State → Payload ⊕ MirrorMsg → State) : State :=
  let kept := s.ring.mirrored.flatMap (·.packets)
  let open_ := kept.filter s.ring.unsettled
  let settled := kept.filter fun p => !s.ring.unsettled p
  let epoch := s.ring.epoch + 1
  let mine := s.ring.unacked.filter fun u => u.dst == 0xFD
  let s0 : State := { s with ring := { s.ring with
    mirrored := [], ackedBy := [], transactions := [], unacked := s.ring.unacked.filter fun u => u.dst != 0xFD } }
  let s1 := (s0.becomeManager epoch).info 0x8902 0 (w32 epoch)
  let away := open_.filter fun p => some p.dst != s1.ring.node
  let once := open_.filter fun p => !(settled.any fun x => x.body == p.body)
  let again := s1.replaced (once.foldl (fun l p => if l.any (fun x => x.body == p.body) then l else l ++ [p]) [])
  let s2 := away.foldl (fun s p => s.sendNumbered 0xFD p.dst p.sq (.inl (heldBody again p.body))) { s1 with free := s1.free + 17 }
  let s3 := s2.rechain again.reverse
  -- what the old manager had for this chip itself
  let s4 := (open_.filter fun p => some p.dst == s.ring.node).foldl (fun s p => s.takeHeld local_ p (heldBody again p.body)) s3
  let s5 := s4.ring.deliveries.foldl (fun s d =>
    if d.dst = 0xFD then
      let s' := if d.delivered = 0 then s else s.acknowledge d.src 0xFD d.delivered
      State.drain (fun s sq b => s.processRole d.src sq b) d.src 0xFD 65 s'
    else s) s4
  -- what this chip itself had sent to the manager
  let s6 := mine.foldl (fun s u => if ((s.delivery u.src 0xFD).any fun d => decide (u.sq ≤ d.delivered)) then s else s.processRole u.src 0 u.body) s5
  s6.seekStandby none

/-- A packet at the node it is addressed to; HANDOVER is the row's own. -/
def State.processPlain (s : State) (b : Payload ⊕ MirrorMsg) : State :=
  match b with
  | .inl (.control m) => s.controlMessage m
  | .inl (.syncPlace g p w) => s.syncPlaceLocal g p w
  | .inl (.syncReprint g p) => s.holdCopy g p
  | .inl (.profile q d) => s.takeChunk q d
  | .inr m => s.takeMirror m
  | .inl .handover | .inl (.speed ..) | .inl (.syncReady ..) => s

/-- A packet at the node it is addressed to: HANDOVER makes the standby take over at once (R260). -/
def State.processNode (s : State) (b : Payload ⊕ MirrorMsg) : State :=
  match b with
  | .inl .handover => if s.ring.role = .standby then s.takeOver State.processPlain else s
  | _ => s.processPlain b

/-! ## Receiving (R239, R245) -/

/-- A packet is for this chip: for its node, for every node, for the role it holds, or for it by its identity as a guest. -/
def State.isFor (s : State) (h : PktHdr) (named : Option Nat) : Bool :=
  h.dst == 0xFF || some h.dst == s.ring.node || (h.dst == 0xFD && s.ring.role == .manager) ||
  (h.dst == 0xFE && named == some s.fuses.identity)

/-- A packet goes on at the other port, one hop on, unless R245 stops it. -/
def State.forwardOn (s : State) (h : PktHdr) (addressed : Bool) (out : Nat → Side → Bool → Out) : State :=
  let o := otherSide h.port
  if (addressed && h.dst != 0xFF && !h.role) || decide (s.nodeCount ≤ h.hops + 1) || !s.linkUp o then s
  else s.emit (out (h.hops + 1) o false)

/-- A packet whose CRC fails at a port (R236, R239): counted, and in shadow it spoils the ticks compared; in a reaction window of the port it is
a shadowed hit alone (R380; DEDUCED, log 105: its record names 0x0901, the code that the count can raise). -/
def State.crcFailed (s : State) (sd : Side) : State :=
  s.unlessShadowed { code := 0x0901, unit := sideIndex sd } fun s =>
    let times := s.now :: s.recentCrc sd
    s.updHalyard sd fun p => { p with crcErr := min 255 (p.crcErr + 1), crcTimes := times, shadowBad := p.shadowBad || p.state == .shadow }

/-- A packet at a port. In shadow only its CRC counts; a copy marked as shadow and a packet whose CRC fails are discarded; a port that
retransmits for the far chip sends it back as it came (R240). -/
def State.receive (s : State) (h : PktHdr) (named : Option Nat) (out : Nat → Side → Bool → Out) (record deliver : State → State) : State :=
  match (s.ring.port h.port).state with
  | .shadow => if h.crcOk then s else s.crcFailed h.port
  | .loopback => if (s.ring.port h.port).loop = 4 then s.emit (out h.hops h.port h.shadow) else s
  | .inService =>
    if !h.crcOk || s.shotAt 0x0E (sideIndex h.port) then (s.crcFailed h.port).countShot 0x0E (sideIndex h.port)
    else if h.shadow then s
    else
      let mine := s.isFor h named
      let s1 := s.forwardOn h mine out
      if !s.firmwareRuns || some h.src == s.ring.node then s1 else if mine then deliver (record s1) else record s1
  | _ => s

/-- A packet of an acknowledged class. -/
def State.receiveBody (s : State) (h : PktHdr) (named : Option Nat) (b : Payload ⊕ MirrorMsg) : State :=
  s.receive h named (fun n sd sh => packetOut b h.src h.dst n h.incarnation h.sq h.guest sd sh) (fun s => s.recordRole h b) fun s =>
    s.acceptPacket (fun s sq b =>
      if h.dst = 0xFD then s.processRole h.src sq b
      else (s.processNode b).acknowledge (sentBy h) h.dst sq) h b

/-- The first copy of an unacknowledged packet is delivered: it is known by source and count among the last 16 (R245). -/
def State.firstCopy (s : State) (cls identity : Nat) (h : PktHdr) (f : State → State) : State :=
  let key := cls + 16 * (h.src + 256 * identity)
  let seen := SMap.get [] s.ring.counts key
  if has h.sq seen then s
  else f { s with ring := { s.ring with counts := SMap.insert key ((h.sq :: seen).take 16) (SMap.erase key s.ring.counts) } }

end Sys2Proof.Machine
end

