-- ==== Sys2Proof/Machine/RingEvents.lean ====
section
/-!
DEFINITION. Machine/RingEvents.lean: the happenings on the ring: calendar time (R261, R264), the packets of each class (R244, R255 to
R259, R265 to R272), resending (R247), election and silence (R249, R255, R256), and the timers of the ring.
-/

namespace Sys2Proof.Machine

/-! ## Calendar time (R261, R264) -/

/-- The hop count a chip sends: 0 on the manager, else one more than that of the port it follows. -/
def Ring.ownHops (r : Ring) : Nat := if r.role = .manager then 0 else min 15 r.timeHops

/-- A chip follows the port whose TIME carries the fewer hops, or W on a tie. -/
def Ring.follows (r : Ring) (sd : Side) : Bool :=
  let other := r.port (otherSide sd)
  match (r.port sd).hops, (if other.state == .inService then other.hops else none) with
  | some a, some b => decide (a < b) || (a == b && sd == .w)
  | some _, none => true
  | none, _ => false

/-- The calendar time that 40 low bits stand for: the one nearest to the own time, or to the TAI seconds that BEACON brings while there is
none; none where neither is known. -/
def State.wholeTime (s : State) (low : Nat) : Option Int :=
  let near := if s.ring.calValid then some (s.ring.calAt s.now) else s.ring.tai.map fun x => (x : Int) * 1000000000
  near.map fun n => n + ((low : Int) - n + 2 ^ 39).fmod (2 ^ 40) - 2 ^ 39

/-- The calendar takes the time that a TIME block carries, plus δ: a first value and an error above 1 µs are stepped, a smaller one is
slewed (R261, R264, R408). The rate that the timebase is steered to is not given: a free value, which a loss of TIME holds. A step of the
manager shows as an error here; one of 1 µs or less, which cannot be told from drift, is told by CONTROL (DEDUCED, log 79). -/
def State.steer (s : State) (target : Int) : State :=
  if !s.ring.calValid then s.stepCalendar target 3
  else
    let err := target - s.ring.calAt s.now
    if 1000 < err.natAbs then s.stepCalendar target 2
    else
      let r := s.ring.settle s.now
      { s with free := s.free + 1, ring := { r with slew := err, rate := anyInt (Config.freeNat s.free) } }

/-- TIME_BLOCK. -/
def execTimeBlock (sd : Side) (calNs : BitVec 40) (hops : BitVec 4) (valid : Bool) (t : Nat) (s0 : State) : Host.Outcome State Fault Refusal :=
  let s := s0.tick t
  if (s.ring.port sd).state == .loopback then
    .next (s.retransmit sd 0x94 (leBytes 5 calNs.toNat ++ leBytes 1 (hops.toNat + 16 * b2n valid)))
  else if !s.linkUp sd then .next s
  else
    let s1 := s.updHalyard sd fun h => { h with hops := some hops.toNat }
    if s1.ring.role = .manager ∨ !s1.ring.follows sd then .next s1
    else
      let s2 : State := { s1 with ring := { s1.ring with timeHops := min 15 (hops.toNat + 1), timeSeen := s1.now, timeLost := false } }
      -- δ is in 1.25 ps; the model's time is in whole ns
      let delta : Int := (((s2.ring.port sd).delay * 5 + 2000) / 4000 : Nat)
      match (if valid then s2.wholeTime calNs.toNat else none) with
      | none => .next s2
      | some c => .next (s2.steer (c + delta))

/-- TIME_SEND_PERIOD: every 1 ms a TIME block on both ports (R261). -/
def execTimeSendPeriod (t : Nat) (s0 : State) : Host.Outcome State Fault Refusal :=
  let s := s0.tick t
  if decide (s.now < s.ring.timeSentAt + 1000000) || !s.linksReleased then .next s
  else
    let cal := ((s.ring.calAt s.now).fmod (2 ^ 40)).toNat
    let f := leBytes 5 cal ++ leBytes 1 (s.ring.ownHops + 16 * b2n s.ring.calValid)
    let s1 : State := { s with ring := { s.ring with timeSentAt := s.now } }
    .next (([.e, .w] : List Side).foldl (fun s sd => if s.linkUp sd then s.sendHalyard sd 0x94 f else s) s1)

/-- TIME_LOSS: no TIME block for 2 ms: the last rate is held, and a slew in progress ends (R264). -/
def execTimeLoss (t : Nat) (s0 : State) : Host.Outcome State Fault Refusal :=
  let s := s0.tick t
  if s.ring.role = .manager ∨ s.ring.timeLost ∨ s.now < s.ring.timeSeen + 2000000 then .next s
  else
    let r := s.ring.settle s.now
    .next { s with ring := { r with slew := 0, timeLost := true, east := { r.east with hops := none }, west := { r.west with hops := none } } }

/-! ## BEACON (R244, R255, R259, R260) -/

/-- The delivery records of the manager role go with the role. -/
def Ring.withoutRole (r : Ring) : List Delivery := r.deliveries.filter (·.dst != 0xFD)

/-- A manager that hears of a higher epoch becomes a worker: it drops its packets from 0xFD; a handover completes with the new manager's
number, and a command whose transaction is dropped is denied (R257, R259, R260). -/
def State.demote (s : State) (b : BeaconMsg) : State :=
  let r := s.ring.settle s.now
  let s1 : State := { s with ring := { r with
    role := .worker, standby := none, deliveries := r.withoutRole, appointing := none, transactions := [], handoverSeq := none, unreached := []
    unacked := r.unacked.filter fun u => u.src != 0xFD
    forwarded := r.forwarded.map fun (f : Forwarded) => { f with accepted := some (f.accepted.getD s.now) } } }
  let s2 := match r.handoverSeq with
    | some q => s1.finish q .ok 0 (w32 b.manager)
    | none => s1
  r.transactions.foldl (fun s t => match t.command with
    | some (q, _) => s.finish q .denied
    | none => s) s2

/-- The role beside a BEACON: a standby that it does not name any more is a worker. -/
def Ring.roleUnder (r : Ring) (b : BeaconMsg) : Role :=
  match r.role with
  | .standby => if b.standby = r.node then .standby else .worker
  | x => x

/-- The nodes heard of, beside a BEACON of a new roster: with fewer nodes than are known, those not heard any more are admitted no
more (R246). -/
def State.heardUnder (s : State) (b : BeaconMsg) : List Heard :=
  if b.generation ≠ s.ring.generation ∧ b.count < s.knownNodes.length + 1 then
    s.ring.heard.map fun h => if s.hears h then h else { h with node := none }
  else s.ring.heard

/-- A BEACON of the epoch obeyed, or of a higher one; a new manager is obeyed only with a higher epoch (R255). -/
def State.takeBeacon (s : State) (b : BeaconMsg) : State :=
  if b.epoch < s.ring.epoch ∨ (b.epoch = s.ring.epoch ∧ (s.ring.role = .manager ∨ s.ring.manager.any (· != b.manager))) then s
  else
    let s1 := if s.ring.role = .manager then s.demote b else s
    let r := s1.ring
    let role := r.roleUnder b
    { s1 with ring := { r with
      epoch := b.epoch, manager := some b.manager, standby := b.standby, generation := b.generation, count := b.count, tai := some b.taiSeconds
      beaconAt := s1.now, heard := s.heardUnder b, told := if b.epoch = s.ring.epoch then r.told else none, role := role, mirrored := if role = .standby then r.mirrored else []
      deliveries := if role = .standby then r.deliveries else r.withoutRole
      election := match r.election with | .probing _ _ => .idle | e => e } }

/-- BEACON. -/
def execBeacon (h : PktHdr) (b : BeaconMsg) (t : Nat) (s0 : State) : Host.Outcome State Fault Refusal :=
  .next ((s0.tick t).receive h none (fun n sd sh => .beacon sd h.src n h.sq sh b) (fun s => s) fun s =>
    s.firstCopy 1 0 h fun s => s.takeBeacon b)

/-- BEACON_SEND_PERIOD: every 100 µs on the manager, unless it hands its role over or is in the fault state (R255, R260, R376). -/
def execBeaconSendPeriod (t : Nat) (s0 : State) : Host.Outcome State Fault Refusal :=
  let s := s0.tick t
  if s.ring.role ≠ .manager ∨ s.ring.handoverSeq.isSome ∨ s.flt.faultState ∨ !s.firmwareRuns ∨ s.now < s.ring.beaconSent + 100000 then .next s
  else .next s.sendBeacon

/-! ## NODE (R244, R246, R250 to R252) -/

/-- The moments a chip is heard at, on either copy. -/
def State.hearCopy (s : State) (sd : Side) (n : NodeMsg) : State :=
  let old := s.ring.heard.find? (·.identity == n.identity)
  let x : Heard := {
    identity := n.identity, node := n.node, role := n.role, colour := n.colour, lead := n.lead, eligible := n.eligible
    standby := n.standby
    heardE := if sd = .e then some s.now else old.bind (·.heardE), heardW := if sd = .w then some s.now else old.bind (·.heardW) }
  { s with ring := { s.ring with heard := s.ring.heard.filter (·.identity != n.identity) ++ [x] } }

/-- Packets to a node wait to be sent or acknowledged. -/
def Ring.owes (r : Ring) (n : Nat) : Bool := r.unacked.any (·.dst == n) || r.transactions.any fun t => t.packets.any (·.dst == n)

/-- The manager's roster beside a NODE packet: a chip that has lost its number is admitted no more, and colour and eligibility follow. -/
def State.rosterFollows (s : State) (n : NodeMsg) : State :=
  match s.ring.roster.find? (·.identity == n.identity) with
  | none => s
  | some e =>
    if !e.admitted then s
    else if n.node.isNone then
      if s.ring.owes e.node then s
      else ({ s with ring := { s.ring with roster := putEntry s.ring.roster { e with admitted := false } } }).rosterChanged.loseStandby e.node
    else if e.colour = n.colour ∧ e.eligible = n.eligible then s
    else ({ s with ring := { s.ring with roster := putEntry s.ring.roster { e with colour := n.colour, eligible := n.eligible } } }).rosterChanged

/-- A first copy of NODE at the manager. -/
def State.nodeAtManager (s : State) (n : NodeMsg) : State :=
  if s.ring.role ≠ .manager then s
  else
    let s1 := s.rosterFollows n
    let s2 := if s1.admitsItself n.identity n.node n.warmReset then s1.autoAdmit n.identity n.colour n.eligible else s1
    s2.seekStandby none

/-- NODE. -/
def execNode (h : PktHdr) (n : NodeMsg) (t : Nat) (s0 : State) : Host.Outcome State Fault Refusal :=
  .next ((s0.tick t).receive h none (fun hops sd sh => .node sd h.src hops h.sq sh n) (fun s => s) fun s =>
    if n.identity = s.fuses.identity then s
    else ((s.hearCopy h.port n).firstCopy 2 n.identity h fun s => s.nodeAtManager n).settleRing)

/-- The NODE message of this chip. A reset since power-on other than power-on itself was a warm one. -/
def State.nodeMessage (s : State) : NodeMsg :=
  { identity := s.fuses.identity, node := s.ring.node, role := s.ring.role.code, colour := s.ring.colour, lead := s.render.lead
    eligible := s.power.mgrEn, warmReset := s.ring.incarnation % 256 != 0, standby := s.power.standby, bothWays := s.ring.rstate == .closed }

/-- NODE_SEND_PERIOD: every 1 ms (R244). -/
def execNodeSendPeriod (t : Nat) (s0 : State) : Host.Outcome State Fault Refusal :=
  let s := s0.tick t
  if !s.firmwareRuns ∨ s.now < s.ring.nodeSentAt + 1000000 then .next s
  else
    let s1 : State := { s with ring := { s.ring with nodeSentAt := s.now } }
    .next (s1.sendCounted fun n sd sh => .node sd s.ownAddress 0 n sh s1.nodeMessage)

/-- NODE_UNREACHABLE: an admitted node is heard no more: event 0x8901, the ring state, the hold of its limit, and a lost standby
(R236, R246, R250, R265). -/
def execNodeUnreachable (n : Fin 16) (t : Nat) (s0 : State) : Host.Outcome State Fault Refusal :=
  let s := s0.tick t
  if !s.firmwareRuns || !has n.val s.knownNodes || s.reaches n.val || s.ring.unreached.any (·.1 == n.val) then .next s
  else
    let s1 := ({ s with ring := { s.ring with unreached := s.ring.unreached ++ [(n.val, s.now)] } }).info 0x8901 n.val
    .next ((if s1.ring.role = .manager then s1.loseStandby n.val else s1).settleRing)

/-! ## Election and silence (R249, R255, R256) -/

/-- ELECT as a port forwards it. -/
def electOut (h : PktHdr) (kind identity epoch : Nat) (n : Nat) (sd : Side) (sh : Bool) : Out :=
  .elect sd h.src h.dst n h.sq sh kind identity epoch

/-- CLAIM: one of a lower identity ends the own claim (R249). -/
def execClaim (h : PktHdr) (identity epoch t : Nat) (s0 : State) : Host.Outcome State Fault Refusal :=
  .next ((s0.tick t).receive h none (electOut h 0 identity epoch) (fun s => s) fun s =>
    s.firstCopy 3 identity h fun s =>
      match s.ring.election with
      | .claimed _ _ => if identity < s.fuses.identity then { s with ring := { s.ring with lowerClaim := true } } else s
      | _ => s)

/-- JOIN at the manager: a chip of the roster is admitted, and an admitted eligible one may become standby (R250, R251). -/
def execJoin (h : PktHdr) (identity : Nat) (eligible : Bool) (t : Nat) (s0 : State) : Host.Outcome State Fault Refusal :=
  .next ((s0.tick t).receive h none (electOut h 1 identity 0) (fun s => s) fun s =>
    s.firstCopy 3 identity h fun s =>
      if s.ring.role ≠ .manager then s
      else match s.ring.roster.find? (·.identity == identity) with
        | none => s
        | some e =>
          if e.admitted then s.offerStandby e.node
          else if s.admitsItself identity none false then s.autoAdmit identity e.colour eligible
          else s)

/-- PROBE: an admitted node replies (R256). -/
def execProbe (h : PktHdr) (t : Nat) (s0 : State) : Host.Outcome State Fault Refusal :=
  .next ((s0.tick t).receive h none (electOut h 2 0 0) (fun s => s) fun s =>
    s.firstCopy 3 0 h fun s => if s.ring.node.isSome then s.sendElect 3 0xFF 0 else s)

/-- PROBE_REPLY: counted within 300 µs of the PROBE (R256). -/
def execProbeReply (h : PktHdr) (t : Nat) (s0 : State) : Host.Outcome State Fault Refusal :=
  .next ((s0.tick t).receive h none (electOut h 3 0 0) (fun s => s) fun s =>
    s.firstCopy 3 0 h fun s =>
      match s.ring.election with
      | .probing since l =>
        if s.now ≤ since + 300000 ∧ h.src < 16 then { s with ring := { s.ring with election := .probing since (addNew h.src l) } } else s
      | _ => s)

/-- A PROBE goes out. -/
def State.probe (s : State) : State :=
  ({ s with ring := { s.ring with election := .probing s.now [] } }).sendElect 2 0xFF 0

/-- The manager has been silent for a time (R255). -/
def State.silentFor (s : State) (ns : Nat) : Bool :=
  s.firmwareRuns && s.ring.role != .manager && s.ring.node.isSome && decide (s.ring.beaconAt + ns ≤ s.now)

/-- MANAGER_SILENCE: after 1 ms without a BEACON the standby probes (R255, R256). -/
def execManagerSilence (t : Nat) (s0 : State) : Host.Outcome State Fault Refusal :=
  let s := s0.tick t
  if s.ring.role = .standby ∧ s.silentFor 1000000 ∧ s.ring.election = .idle then .next s.probe else .next s

/-- PROBE_REPEAT: without a majority the standby probes every 1 ms (R256). -/
def execProbeRepeat (t : Nat) (s0 : State) : Host.Outcome State Fault Refusal :=
  let s := s0.tick t
  match s.ring.election with
  | .probing since _ => if s.ring.role = .standby ∧ s.silentFor 1000000 ∧ since + 1000000 ≤ s.now then .next s.probe else .next s
  | _ => .next s

/-- PROBE_WINDOW_END: with a majority of the admitted nodes the standby takes over, and another chip claims (R256, R258). -/
def execProbeWindowEnd (t : Nat) (s0 : State) : Host.Outcome State Fault Refusal :=
  let s := s0.tick t
  match s.ring.election with
  | .probing since l =>
    if s.now < since + 300000 then .next s
    else if s.ring.count < 2 * (l.length + 1) then
      if s.ring.role = .standby then .next (s.takeOver State.processPlain)
      else
        let e := s.ring.epoch + 1
        .next (({ s with ring := { s.ring with election := .claimed s.now e, lowerClaim := false } }).sendElect 0 0xFF e)
    else if s.ring.role = .standby then .next s
    else .next { s with ring := { s.ring with election := .idle } }
  | _ => .next s

/-- NO_MANAGER_TIMEOUT: after 20 ms without a manager an eligible admitted chip probes, to claim with a majority (R256). -/
def execNoManagerTimeout (t : Nat) (s0 : State) : Host.Outcome State Fault Refusal :=
  let s := s0.tick t
  if s.power.mgrEn ∧ s.silentFor 20000000 ∧ s.ring.election = .idle ∧ s.ring.upAt.isSome then .next s.probe else .next s

/-- RING_UP: both ports are in service or have failed their first attempt, and an eligible chip listens (R246, R249). -/
def execRingUp (t : Nat) (s0 : State) : Host.Outcome State Fault Refusal :=
  let s := s0.tick t
  let up := fun (sd : Side) => s.linkUp sd || (s.ring.port sd).everTried
  if !s.firmwareRuns || s.ring.upAt.isSome || !up .e || !up .w then .next s
  else
    let e : Election := if s.power.mgrEn then .listening s.now else .idle
    .next ({ s with ring := { s.ring with upAt := some s.now, election := e } }).settleRing

/-- ELECTION_LISTEN_END: after 1 ms JOIN where a BEACON was heard, else CLAIM with epoch 1 (R249). -/
def execElectionListenEnd (t : Nat) (s0 : State) : Host.Outcome State Fault Refusal :=
  let s := s0.tick t
  match s.ring.election with
  | .listening since =>
    if s.now < since + 1000000 then .next s
    else if s.ring.manager.isSome ∧ since ≤ s.ring.beaconAt then
      .next (({ s with ring := { s.ring with election := .idle } }).sendElect 1 0xFF 0)
    else .next (({ s with ring := { s.ring with election := .claimed s.now 1, lowerClaim := false } }).sendElect 0 0xFF 1)
  | _ => .next s

/-- CLAIM_WAIT_END: 1 ms after CLAIM the chip becomes manager, unless a BEACON or a lower claim was heard: then it withdraws and joins
(R249, R256). -/
def execClaimWaitEnd (t : Nat) (s0 : State) : Host.Outcome State Fault Refusal :=
  let s := s0.tick t
  match s.ring.election with
  | .claimed since e =>
    if s.now < since + 1000000 then .next s
    else if s.ring.lowerClaim ∨ (s.ring.manager.isSome ∧ since ≤ s.ring.beaconAt) then
      .next (({ s with ring := { s.ring with election := .idle, lowerClaim := false } }).sendElect 1 0xFF 0)
    else
      let s1 : State := { s with ring := { s.ring with deliveries := s.ring.withoutRole } }
      .next ((if e = 1 then s1 else s1.adoptHeard).becomeManager e)
  | _ => .next s

/-! ## Acknowledged classes (R244, R247) -/

/-- CONTROL: admission and expulsion name their chip by its identity (R251, R254). -/
def execControl (h : PktHdr) (m : ControlMsg) (t : Nat) (s : State) : Host.Outcome State Fault Refusal :=
  let named := match m with
    | .admitted i _ _ => some i
    | .expelled i => some i
    | _ => none
  .next ((s.tick t).receiveBody h named (.inl (.control m)))

/-- SPEED_PACKET (R265, R266). -/
def execSpeedPacket (h : PktHdr) (limit cause t : Nat) (s : State) : Host.Outcome State Fault Refusal :=
  .next ((s.tick t).receiveBody h none (.inl (.speed limit cause)))

/-- SYNC_READY (R269). -/
def execSyncReady (h : PktHdr) (group page lines t : Nat) (s : State) : Host.Outcome State Fault Refusal :=
  .next ((s.tick t).receiveBody h none (.inl (.syncReady group page lines)))

/-- SYNC_PLACE (R270). -/
def execSyncPlace (h : PktHdr) (group page : Nat) (w : Int) (t : Nat) (s : State) : Host.Outcome State Fault Refusal :=
  .next ((s.tick t).receiveBody h none (.inl (.syncPlace group page w)))

/-- SYNC_REPRINT (R271). -/
def execSyncReprint (h : PktHdr) (group page t : Nat) (s : State) : Host.Outcome State Fault Refusal :=
  .next ((s.tick t).receiveBody h none (.inl (.syncReprint group page)))

/-- MIRROR (R257). -/
def execMirror (h : PktHdr) (m : MirrorMsg) (t : Nat) (s : State) : Host.Outcome State Fault Refusal :=
  .next ((s.tick t).receiveBody h none (.inr m))

/-- PROFILE_PACKET (R218, R272). -/
def execProfilePacket (h : PktHdr) (mgrSeq : Nat) (data : List Byte) (t : Nat) (s : State) : Host.Outcome State Fault Refusal :=
  .next ((s.tick t).receiveBody h none (.inl (.profile mgrSeq data)))

/-- HANDOVER (R260). -/
def execHandover (h : PktHdr) (t : Nat) (s : State) : Host.Outcome State Fault Refusal :=
  .next ((s.tick t).receiveBody h none (.inl .handover))

/-- What an acknowledgement releases: packets, the transactions whose MIRROR it covers, and an appointment (R247, R250, R257). -/
def State.takeAck (s : State) (h : PktHdr) (acked : Nat) : State :=
  let s1 : State := { s with ring := { s.ring with
    unacked := s.ring.unacked.filter fun u => !(u.src == h.dst && u.dst == sentBy h && decide (u.sq ≤ acked)) } }
  if h.dst ≠ 0xFD then s1
  else if s1.ring.standby = some h.src then
    let done := s1.ring.transactions.filter fun t => decide (t.mirrorSq ≤ acked)
    let rest := s1.ring.transactions.filter fun t => !decide (t.mirrorSq ≤ acked)
    done.foldl State.runTransaction { s1 with ring := { s1.ring with transactions := rest } }
  else if s1.ring.appointing.any fun a => a.1 == h.src && decide (a.2 ≤ acked) then s1.appointed h.src
  else s1

/-- HALYARD_ACK: the first copy is delivered (R245). -/
def execHalyardAck (h : PktHdr) (acked t : Nat) (s0 : State) : Host.Outcome State Fault Refusal :=
  .next ((s0.tick t).receive h (some h.guest) (fun n sd sh => .ack sd h.src h.dst n h.sq acked sh h.guest)
    (fun s => s.recordAck h acked) fun s =>
      s.firstCopy 4 (if h.src = 0xFE then h.guest else 0) h fun s => s.takeAck h acked)

/-- PACKET_RESEND: every 200 µs what is not acknowledged goes out again (R247). -/
def execPacketResend (t : Nat) (s0 : State) : Host.Outcome State Fault Refusal :=
  let s := s0.tick t
  if !s.firmwareRuns then .next s
  else
    let due := fun (u : Unacked) => decide (u.resentAt + 200000 ≤ s.now) && decide (s.now < u.sentAt + 50000000)
    let mark := fun (u : Unacked) => if due u then { u with resentAt := s.now } else u
    .next ((byPriority (s.ring.unacked.filter due)).foldl State.emitPacket { s with ring := { s.ring with unacked := s.ring.unacked.map mark } })

/-- The failure of a packet, reported to what sent it: a profile's command whose acceptance is not confirmed ends UNIT_FENCED, a MIRROR's
standby is lost, and a handover ends with NO_RESOURCE (R218, R247, R250, R260, R272). -/
def State.packetFailed (s : State) (u : Unacked) : State :=
  match u.body with
  | .inl (.profile q _) => if s.ring.forwarded.any fun f => f.seq == q && f.accepted.isSome then s else s.endForwarded q .unitFenced 0
  | .inl .handover =>
    let s1 := match s.ring.handoverSeq with
      | some q => s.finish q .noResource
      | none => s
    ({ s1 with ring := { s1.ring with handoverSeq := none } }).loseStandby u.dst
  | .inr _ => s.loseStandby u.dst
  | _ => s

/-- Profiles forwarded to a node whose acceptance 50 ms have not brought end UNIT_FENCED, though their packets were acknowledged (R218,
R272). -/
def State.unaccepted (s : State) (dst : Nat) : State :=
  (s.ring.forwarded.filter fun f => f.node == dst && f.accepted.isNone && decide (f.sentAt + 50000000 ≤ s.now)
    && s.ring.unacked.all fun u => match u.body with
      | .inl (.profile q _) => q != f.seq
      | _ => true).foldl (fun s f => s.endForwarded f.seq .unitFenced 0) s

/-- PACKET_ACK_TIMEOUT: after 50 ms the source stops resending (R247). -/
def execPacketAckTimeout (dst sq t : Nat) (s0 : State) : Host.Outcome State Fault Refusal :=
  let s := s0.tick t
  match s.ring.unacked.find? fun u => u.dst == dst && u.sq == sq && decide (u.sentAt + 50000000 ≤ s.now) with
  | none => .next (s.unaccepted dst)
  | some u => .next (({ s with ring := { s.ring with unacked := s.ring.unacked.filter (· != u) } }).packetFailed u)

/-! ## Timers of the manager and the members -/

/-- SPEED_HOLD_EXPIRE: an unreached node's limit counts as 0 with cause 5, and V follows (R265, R437). -/
def execSpeedHoldExpire (n : Fin 16) (t : Nat) (s0 : State) : Host.Outcome State Fault Refusal :=
  let s := s0.tick t
  if s.ring.unreached.any fun u => u.1 == n.val && decide (u.2 + s.ring.holdMs * 1000000 ≤ s.now) then .next s.postV else .next s

/-- SYNC_HOLD_EXPIRE: the manager places a page that some reachable member has not reported (R269). -/
def execSyncHoldExpire (group page t : Nat) (s0 : State) : Host.Outcome State Fault Refusal :=
  let s := s0.tick t
  if s.ring.role ≠ .manager then .next s
  else match s.ring.syncPages.find? fun x => x.group == group && x.page == page with
    | none => .next s
    | some x =>
      if x.placed.isSome ∨ x.reprint ∨ s.now < x.since + s.ring.holdMs * 1000000 then .next s
      else
        let r := s.managerPlace group page
        .next (r.1.transact 0 0 r.2 none)

/-- PROFILE_STATUS_TIMEOUT: no status 1 s after acceptance (R272). -/
def execProfileStatusTimeout (seq t : Nat) (s0 : State) : Host.Outcome State Fault Refusal :=
  let s := s0.tick t
  if s.ring.forwarded.any fun f => f.seq == seq && f.accepted.any (fun a => decide (a + 1000000000 ≤ s.now)) then
    .next (s.endForwarded seq .unitFenced 8#32)
  else .next s

/-- OFFSET_RETRY: 1 ms after a try that found no edge, or after its c_org has changed, a member measures again: by the edge it has, else it
asks the manager for a new one (R268). -/
def execOffsetRetry (t : Nat) (s0 : State) : Host.Outcome State Fault Refusal :=
  let s := s0.tick t
  if !s.firmwareRuns ∨ s.now < s.ring.offsetTriedAt + 1000000 then .next s
  else match s.ring.role with
    | .manager | .guest => .next s
    | _ =>
      if s.ring.offset.isSome && !s.ring.offsetWanted then .next s
      else
        let s1 := ({ s with ring := { s.ring with offsetTriedAt := s.now } }).measureOffset
        .next (if s1.ring.offset.isNone || s1.ring.offsetWanted then s1.tellManager .offsetWanted else s1)

end Sys2Proof.Machine
end

