-- ==== Sys2Proof/Machine/RingCmds.lean ====
section
/-!
DEFINITION. Machine/RingCmds.lean: the ring commands of R325 and R326: RING_STATUS, RING_ADMIT, RING_EXPEL, SET_ROLE, SPEED_POLICY.
-/

namespace Sys2Proof.Machine

/-- The entry of a node that the roster gives, on the manager, with the limit that the node published last. -/
def State.rosterStatus (s : State) (e : RosterEntry) : List Byte :=
  let role := if some e.node = s.ring.node then s.ring.role.code
    else if some e.node = s.ring.standby then 2 else if some e.node = s.ring.manager then 3 else b2n e.admitted
  let l := if some e.node = s.ring.node then s.heads.governor.published.getD (0, 0) else (SMap.find? e.node s.ring.limits).getD (0, 0)
  statusEntry e.identity e.node e.colour role (entryFlags e.eligible (s.reaches e.node) e.calCheck) e.webOffset l.1 l.2

/-- The own entry of another chip. -/
def State.ownStatus (s : State) (n : Nat) : List Byte :=
  let l := s.heads.governor.published.getD (0, 0)
  statusEntry s.fuses.identity n s.ring.colour s.ring.role.code (entryFlags s.power.mgrEn true s.ring.calCheck) s.ring.webOffset l.1 l.2

/-- The entry of node `n` as this chip knows it: by the roster on the manager, elsewhere as it last heard it in BEACON and NODE packets.
These carry no web offset and no limit: those bytes of another chip are free values. -/
def State.nodeStatus (s : State) (n : Nat) : List Byte :=
  if s.ring.role = .manager then
    match s.ring.entryOf n with
    | some e => s.rosterStatus e
    | none => leBytes 32 0
  else if s.ring.node = some n then s.ownStatus n
  else match s.ring.heard.find? fun h => h.node == some n with
    | some h => statusEntry h.identity n h.colour h.role (entryFlags h.eligible (s.hears h) false)
        (anyInt (Config.freeNat (s.free + 3 * n))) (Config.freeNat (s.free + 3 * n + 1)) (Config.freeNat (s.free + 3 * n + 2))
    | none => leBytes 32 0

/-- RING_STATUS (R325). -/
def execRingStatus (seq : Nat) (out : HostList) (t : Nat) (s : State) : Host.Outcome State Fault Refusal :=
  .next (s.commandOk t seq 0x0801 true
    (fun _ e => { params := listRefOk e 0 ++ listOk 0 out (fun n => decide (512 ≤ n)) })
    (fun s _ => { s with free := s.free + 48 }.emit (.buffer seq 0 ((List.range 16).flatMap s.nodeStatus))) (fun _ _ => 0)
    fun s _ => (w32 s.ring.epoch, s.ring.ringReg, 0, 0))

/-- The unique identity at P0 to P15. -/
def JEntry.identity (e : JEntry) : Nat := leAt e.params 0 16

/-- The checks of RING_ADMIT: the identity is heard, and its colour is free (R251). -/
def admitChecks (s : State) (e : JEntry) : Checks :=
  let known := s.ring.heard.find? fun h => h.identity == e.identity && s.hears h
  let member := s.ring.members.any (·.identity == e.identity)
  let taken := known.any fun h => s.ring.members.any fun x => x.colour == h.colour && x.identity != e.identity
  { denied := s.ring.role != .manager
    params := [fieldOk 0 known.isSome, fieldOk 0 (!taken)]
    noResource := !member && decide (16 ≤ s.ring.members.length) }

/-- RING_ADMIT (R250, R251, R253). -/
def execRingAdmit (seq t : Nat) (s : State) : Host.Outcome State Fault Refusal :=
  .next (s.command t seq 0x0802 false true admitChecks fun s e =>
    match s.ring.heard.find? fun h => h.identity == e.identity with
    | none => s
    | some h =>
      match s.admissionEntry h.identity h.colour h.eligible with
      | none => s.finish seq .noResource
      | some r =>
        let a := s.admitChip r
        (a.1.transact 0 0 a.2 (some (seq, w32 r.node, 0))).offerStandby r.node)

/-- The checks of RING_EXPEL. -/
def expelChecks (s : State) (e : JEntry) : Checks :=
  { denied := s.ring.role != .manager
    params := [fieldOk 0 (s.ring.members.any fun x => x.identity == e.identity && some x.node != s.ring.node)] }

/-- A node leaves the roster. -/
def State.dropNode (s : State) (r : RosterEntry) : State :=
  let s1 : State := { s with ring := { s.ring with
    roster := s.ring.roster.filter (·.node != r.node), offsets := SMap.erase r.node s.ring.offsets, groups := s.ring.groups.filter (·.2.1 != r.node)
    limits := SMap.erase r.node s.ring.limits, unreached := SMap.erase r.node s.ring.unreached } }
  (s1.rosterChanged.loseStandby r.node).postV

/-- RING_EXPEL (R254). -/
def execRingExpel (seq t : Nat) (s : State) : Host.Outcome State Fault Refusal :=
  .next (s.command t seq 0x0803 false true expelChecks fun s e =>
    match s.ring.members.find? (·.identity == e.identity) with
    | none => s
    | some r => (s.dropNode r).transact 0 0 [(r.node, .control (.expelled r.identity))] (some (seq, 0, 0)))

/-! ## SET_ROLE (R260, R267) -/

/-- The checks of SET_ROLE. -/
def roleChecks (s : State) (e : JEntry) : Checks :=
  let hand := bitOf (e.p8 0) 0
  { denied := hand && s.ring.role != .manager
    params := [fieldOk 1 (!bitOf (e.p8 0) 1 || decide (e.p8 1 ≤ 15)), fieldOk 4 (!bitOf (e.p8 0) 2 || decide (e.p32 4 ≤ 100000000))]
    busy := (bitOf (e.p8 0) 1 || bitOf (e.p8 0) 2) && s.pos.armed
    noResource := hand && s.ring.standby.isNone }

/-- Colour and web offset set; on the manager its own roster entry follows. -/
def State.setRole (s : State) (e : JEntry) : State :=
  let um := if bitOf (e.p8 0) 2 then e.p32 4 else s.ring.webOffsetUm
  let colour := if bitOf (e.p8 0) 1 then e.p8 1 else s.ring.colour
  let u := webOffsetOf um s.pos.lpi
  ({ s with ring := { s.ring with colour := colour, webOffsetUm := um, webOffset := u } }).ownEntry fun x => { x with colour := colour, webOffset := u }

/-- The manager hands its role over: what waits for the standby ends, the beacons stop, and HANDOVER goes to the standby (R260). -/
def State.handOver (s : State) (seq : Nat) : State :=
  match s.ring.standby with
  | none => s.finish seq .noResource
  | some n =>
    let s1 := ({ s with ring := { s.ring with handoverSeq := some seq } }).runTransactions
    let r := s1.takeSq 0xFD n
    r.2.sendNumbered 0xFD n r.1 (.inl .handover)

/-- SET_ROLE. -/
def execSetRole (seq t : Nat) (s : State) : Host.Outcome State Fault Refusal :=
  .next (s.command t seq 0x0804 false true roleChecks fun s e =>
    let s1 := s.setRole e
    if bitOf (e.p8 0) 0 then s1.handOver seq
    else if s1.ring.role = .manager then s1.transact 0 0 [] (some (seq, w32 (s1.ring.manager.getD 0), 0))
    else s1.finish seq .ok 0 (w32 (s1.ring.manager.getD 0)))

/-! ## SPEED_POLICY (R326) -/

/-- The checks of SPEED_POLICY: only the fields whose bit is set count. -/
def speedChecks (s : State) (e : JEntry) : Checks :=
  let on := bitOf (e.p16 0)
  let f := fun (bit off : Nat) (ok : Bool) => fieldOk off (!on bit || ok)
  { denied := ((on 3 || on 4) && s.ring.role != .manager) || (on 1 && !s.power.mgrEn)
    params := [f 0 2 (decide (e.p8 2 ≤ 7)), f 1 3 (decide (e.p8 3 ≤ 7)), f 2 12 (decide (10 ≤ e.p16 12 ∧ e.p16 12 ≤ 10000)),
      f 3 14 (decide (10 ≤ e.p16 14 ∧ e.p16 14 ≤ 1000)), f 4 16 (decide (2400 ≤ e.p32 16 ∧ e.p32 16 ≤ 300000)),
      f 5 20 (decide (e.p8 20 ≤ 1)), f 6 21 (decide (e.p8 21 ≤ 31) || e.p8 21 == 0xFF)] }

/-- The settings of a SPEED_POLICY. -/
def State.setSpeedPolicy (s : State) (seq : Nat) (e : JEntry) : State :=
  let on := bitOf (e.p16 0)
  let g := s.heads.governor
  let bar : Route := { cc := e.p8 2, tag := w32 (e.p32 4), seq := seq }
  let press : Route := { cc := e.p8 3, tag := w32 (e.p32 8), seq := seq }
  let g1 : Governor := { g with
    barRoute := if on 0 then some bar else g.barRoute
    tauMs := if on 2 then e.p16 12 else g.tauMs
    thermal := if !on 6 then g.thermal else if e.p8 21 = 0xFF then [] else without (e.p8 21) g.thermal }
  { s with
    heads := { s.heads with governor := g1 }
    store := { s.store with reprintAtEnd := if on 5 then e.p8 20 == 1 else s.store.reprintAtEnd }
    ring := { s.ring with
      pressRoute := if on 1 then some press else s.ring.pressRoute
      holdMs := if on 3 then e.p16 14 else s.ring.holdMs
      vPress := if on 4 then e.p32 16 else s.ring.vPress } }

/-- SPEED_POLICY. On the manager its settings are mirrored to the standby before it completes (R257, R326). -/
def execSpeedPolicy (seq t : Nat) (s : State) : Host.Outcome State Fault Refusal :=
  .next (s.command t seq 0x0805 false true speedChecks fun s e =>
    let s1 := s.setSpeedPolicy seq e
    let v := w32 ((s1.heads.governor.published.map (·.1)).getD 0)
    if s1.ring.role = .manager then s1.transact 0 0 [] (some (seq, v, w32 s1.pressLimit.1)) else s1.finish seq .ok 0 v)

end Sys2Proof.Machine
end

