-- ==== Sys2Proof/Machine/UnitReset.lean ====
section
/-!
DEFINITION. Machine/UnitReset.lean: RESET_UNIT (R316): the warm reset of the device, and the reset and return of a pennant, head port,
halyard port, decompression unit or axis.
-/

namespace Sys2Proof.Machine

/-- A RESET_UNIT still outstanding on a unit that is reset again ends with CANCELLED. -/
def State.replaceReset (s : State) (cmd : Option (Nat × Nat)) : State :=
  match cmd with
  | some (q, _) => s.finish q .cancelled
  | none => s

/-- A pennant fenced, reset and returned; code 0 is the host's request, which no automatic return follows. -/
def State.hostResetPennant (s : State) (p seq : Nat) : State :=
  let s1 := (s.replaceReset (s.pennant p).resetCmd).updPennant p fun x => { x with resetCmd := none }
  let s2 := (s1.fencePennant p 0).updPennant p fun x => { x with fencedCode := 0, resetCmd := some (seq, s.now) }
  s2.resetPennant p 0

/-- A decompression unit fenced, reset and returned. -/
def State.hostResetUnit (s : State) (u seq : Nat) : State :=
  let s1 := (s.replaceReset (s.unit u).resetCmd).updUnit u fun x => { x with resetCmd := none }
  let s2 := (s1.fenceUnit u 0).updUnit u fun x => { x with fencedCode := 0, resetCmd := some (seq, s.now) }
  s2.resetDecompressor u 0

/-- A head port retired in the immediate form, its reset due once its last committed instant has been carried out;
the pages it spoils wait for the port as for a fenced one (R389, DEDUCED: log 55). A head that is too hot to
return, or absent, ends the command (R200, R208). -/
def State.hostResetPort (s : State) (n seq : Nat) : State :=
  let p := s.port n
  let s1 := (s.replaceReset p.resetCmd).updPort n fun p => { p with resetCmd := none }
  if p.hot then s1.finish seq .unitFenced 0 2
  else
    let mark := fun (s : State) => (s.updPort n fun p => { p with resetDue := true, resetCmd := some (seq, s.now) })
    if s1.portFires n then
      let before := ((s1.port n).retiring.map (·.seqs)).getD []
      let r := s1.retireAtOnce n 2 [n]
      (mark (r.1.updPort n fun p => { p with retiring := some { seqs := before, drain := none } })).settleRetire.startHeadResets
    else (mark (s1.retirePort n)).startHeadResets

/-- A halyard port reset: it trains again. -/
def State.hostResetHalyard (s : State) (sd : Side) (seq : Nat) : State :=
  let h := s.ring.port sd
  let s1 := (s.replaceReset h.resetCmd).openWindow (.halyard sd) 0
  let s2 := s1.dropInjections fun i => i.checker == 0x0E && i.unit == sideIndex sd
  let s3 := (s2.beginTraining sd 1).updHalyard sd fun h => { h with resetCmd := some (seq, s.now) }
  if h.state == .inService then s3.bothOut else s3

/-- An axis reset: its motion ends, its fault stop clears, and it waits for AXIS_CONFIG; the command ends with the block's reset. -/
def State.hostResetAxis (s : State) (n seq : Nat) : State :=
  let s1 := ((s.replaceReset (s.axis n).resetCmd).endMotion n .cancelled 0).openWindow (.axis n) 0
  let s2 := s1.dropInjections fun i => i.checker == 0x0F && i.unit == n
  let s3 := s2.updAxis n fun a => { a with
    state := .unconfigured, configured := false, faultStop := false, folErr := false, motion := none, speed := 0
    badRun := 0, resetCmd := some (seq, s.now) }
  if n = 0 then s3.checkPrintPosition else s3

/-- How many units a scope has. -/
def scopeUnits (scope : Nat) : Nat :=
  match scope with
  | 1 => 16
  | 2 => 32
  | 3 => 2
  | 4 | 5 => 4
  | _ => 256

/-- The checks of RESET_UNIT (R313, R316). -/
def resetUnitChecks (s : State) (e : JEntry) : Checks :=
  let n := e.p8 1
  { params := [fieldOk 0 (decide (e.p8 0 ≤ 5)), fieldOk 1 (decide (n < scopeUnits (e.p8 0)))]
    noResource := match e.p8 0 with
      | 1 => (List.range 16).all fun q => q == n || (s.pennant q).state != .spare
      | 2 => (s.port n).state == .absent || !(s.port n).presLow
      | _ => false }

/-- RESET_UNIT: with the device scope the entry is done, its completion posted, and a warm reset follows; with any other scope event 0x8203
tells it, and the unit is fenced, reset and returned. -/
def execResetUnit (seq t : Nat) (s : State) : Host.Outcome State Fault Refusal :=
  .next (s.command t seq 0x0104 false true resetUnitChecks fun s e =>
    let n := e.p8 1
    let s1 := s.info 0x8203 n (w32 (e.p8 0))
    match e.p8 0 with
    | 0 => (s.finish seq .ok).warmReset 2
    | 1 => s1.hostResetPennant n seq
    | 2 => s1.hostResetPort n seq
    | 3 => s1.hostResetHalyard (if n = 0 then .e else .w) seq
    | 4 => s1.hostResetUnit n seq
    | _ => s1.hostResetAxis n seq)

end Sys2Proof.Machine
end

