-- ==== Sys2Proof/Machine/Dispatch.lean ====
section
/-!
DEFINITION. Machine/Dispatch.lean: one arm per command, each a direct call of its meaning.
-/

namespace Sys2Proof.Machine

/-- The effect of a command on everything but the queue of waiting commands. -/
def exec (i : Instr) (s : State) : Host.Outcome State Fault Refusal :=
  match i with
  | .railFall rail => Sys2Proof.Machine.execRailFall rail s
  | .powerOnReset mode1 mode0 mgrEn bist xres codes => Sys2Proof.Machine.execPowerOnReset mode1 mode0 mgrEn bist xres codes s
  | .supplyOutOfRange rail mv t => Sys2Proof.Machine.execSupplyOutOfRange rail mv t s
  | .sdramTrainingDone tr t => Sys2Proof.Machine.execSdramTrainingDone tr t s
  | .mailboxReady t => Sys2Proof.Machine.execMailboxReady t s
  | .startUpEpisodeClose t => Sys2Proof.Machine.execStartUpEpisodeClose t s
  | .configRequest => Sys2Proof.Machine.execConfigRequest s
  | .perstNAssert t => Sys2Proof.Machine.execPerstNAssert t s
  | .perstNDeassert mode1 mode0 mgrEn t => Sys2Proof.Machine.execPerstNDeassert mode1 mode0 mgrEn t s
  | .sdramWarmRetune ok tr t => Sys2Proof.Machine.execSdramWarmRetune ok tr t s
  | .journalRecovery t => Sys2Proof.Machine.execJournalRecovery t s
  | .sentinelWatchdogExpire t => Sys2Proof.Machine.execSentinelWatchdogExpire t s
  | .sysclkLoss t => Sys2Proof.Machine.execSysclkLoss t s
  | .pllLockLoss pll t => Sys2Proof.Machine.execPllLockLoss pll t s
  | .sentinelOscCheck freq t => Sys2Proof.Machine.execSentinelOscCheck freq t s
  | .deviceTimeCompare positionCopy headCopy t => Sys2Proof.Machine.execDeviceTimeCompare positionCopy headCopy t s
  | .dieTempAlarm sensor raw t => Sys2Proof.Machine.execDieTempAlarm sensor raw t s
  | .refclkPcieLoss t => Sys2Proof.Machine.execRefclkPcieLoss t s
  | .linkDown t => Sys2Proof.Machine.execLinkDown t s
  | .functionLevelReset t => Sys2Proof.Machine.execFunctionLevelReset t s
  | .busMasterEnableClear t => Sys2Proof.Machine.execBusMasterEnableClear t s
  | .busMasterEnableSet t => Sys2Proof.Machine.execBusMasterEnableSet t s
  | .busMasterWaitTimeout seq t => Sys2Proof.Machine.execBusMasterWaitTimeout seq t s
  | .d3hotEntry => Sys2Proof.Machine.execD3hotEntry s
  | .d0Return t => Sys2Proof.Machine.execD0Return t s
  | .cqDoorbell q tail => Sys2Proof.Machine.execCqDoorbell q tail s
  | .commandAccept entry t => Sys2Proof.Machine.execCommandAccept entry t s
  | .journalCarryFreed t => Sys2Proof.Machine.execJournalCarryFreed t s
  | .cqEnable q => Sys2Proof.Machine.execCqEnable q s
  | .cqDisable q => Sys2Proof.Machine.execCqDisable q s
  | .ccEnable q => Sys2Proof.Machine.execCcEnable q s
  | .ccDisable q => Sys2Proof.Machine.execCcDisable q s
  | .queueRingConfigWrite completion q reg v => Sys2Proof.Machine.execQueueRingConfigWrite completion q reg v s
  | .ccHeadWrite q head => Sys2Proof.Machine.execCcHeadWrite q head s
  | .coalesceTimeout q t => Sys2Proof.Machine.execCoalesceTimeout q t s
  | .dbgReq scope random t => Sys2Proof.Machine.execDbgReq scope random t s
  | .dbgSubmit t => Sys2Proof.Machine.execDbgSubmit t s
  | .dbgLock t => Sys2Proof.Machine.execDbgLock t s
  | .debugChallengeLapse t => Sys2Proof.Machine.execDebugChallengeLapse t s
  | .registerWrite off wide v => Sys2Proof.Machine.execRegisterWrite off wide v s
  | .identify seq out t => Sys2Proof.Machine.execIdentify seq out t s
  | .getStatus seq out t => Sys2Proof.Machine.execGetStatus seq out t s
  | .setTime seq t => Sys2Proof.Machine.execSetTime seq t s
  | .resetUnit seq t => Sys2Proof.Machine.execResetUnit seq t s
  | .shutdownPrepare seq t => Sys2Proof.Machine.execShutdownPrepare seq t s
  | .fence seq t => Sys2Proof.Machine.execFence seq t s
  | .fwUpdateBegin seq t => Sys2Proof.Machine.execFwUpdateBegin seq t s
  | .fwUpdateChunk seq inp t => Sys2Proof.Machine.execFwUpdateChunk seq inp t s
  | .fwUpdateCommit seq t => Sys2Proof.Machine.execFwUpdateCommit seq t s
  | .jobOpen seq t => Sys2Proof.Machine.execJobOpen seq t s
  | .pageSubmit seq inp t => Sys2Proof.Machine.execPageSubmit seq inp t s
  | .pageCancel seq t => Sys2Proof.Machine.execPageCancel seq t s
  | .pageQuery seq t => Sys2Proof.Machine.execPageQuery seq t s
  | .jobClose seq t => Sys2Proof.Machine.execJobClose seq t s
  | .setBarGeometry seq inp t => Sys2Proof.Machine.execSetBarGeometry seq inp t s
  | .setRowDelay seq inp t => Sys2Proof.Machine.execSetRowDelay seq inp t s
  | .setRegistration seq t => Sys2Proof.Machine.execSetRegistration seq t s
  | .setInputFormat seq t => Sys2Proof.Machine.execSetInputFormat seq t s
  | .loadToneCurves seq inp t => Sys2Proof.Machine.execLoadToneCurves seq inp t s
  | .setColumnTone seq inp t => Sys2Proof.Machine.execSetColumnTone seq inp t s
  | .loadThresholdArray seq inp t => Sys2Proof.Machine.execLoadThresholdArray seq inp t s
  | .loadRowMask seq inp t => Sys2Proof.Machine.execLoadRowMask seq inp t s
  | .setStitch seq inp t => Sys2Proof.Machine.execSetStitch seq inp t s
  | .setCompensation seq t => Sys2Proof.Machine.execSetCompensation seq t s
  | .setEnginePolicy seq t => Sys2Proof.Machine.execSetEnginePolicy seq t s
  | .setEncoder seq t => Sys2Proof.Machine.execSetEncoder seq t s
  | .setLinePitch seq t => Sys2Proof.Machine.execSetLinePitch seq t s
  | .setCompare seq t => Sys2Proof.Machine.execSetCompare seq t s
  | .setPrintWindow seq t => Sys2Proof.Machine.execSetPrintWindow seq t s
  | .armPrint seq t => Sys2Proof.Machine.execArmPrint seq t s
  | .disarmPrint seq t => Sys2Proof.Machine.execDisarmPrint seq t s
  | .headBringup seq t => Sys2Proof.Machine.execHeadBringup seq t s
  | .headRetire seq t => Sys2Proof.Machine.execHeadRetire seq t s
  | .readHeadRecord seq out fresh t => Sys2Proof.Machine.execReadHeadRecord seq out fresh t s
  | .loadWaveform seq inp t => Sys2Proof.Machine.execLoadWaveform seq inp t s
  | .setThermalLimits seq t => Sys2Proof.Machine.execSetThermalLimits seq t s
  | .nozzleTest seq out t => Sys2Proof.Machine.execNozzleTest seq out t s
  | .inspectProfile seq inp t => Sys2Proof.Machine.execInspectProfile seq inp t s
  | .setLoopPolicy seq t => Sys2Proof.Machine.execSetLoopPolicy seq t s
  | .nozzleOverride seq inp t => Sys2Proof.Machine.execNozzleOverride seq inp t s
  | .ringStatus seq out t => Sys2Proof.Machine.execRingStatus seq out t s
  | .ringAdmit seq t => Sys2Proof.Machine.execRingAdmit seq t s
  | .ringExpel seq t => Sys2Proof.Machine.execRingExpel seq t s
  | .setRole seq t => Sys2Proof.Machine.execSetRole seq t s
  | .speedPolicy seq t => Sys2Proof.Machine.execSpeedPolicy seq t s
  | .axisConfig seq t => Sys2Proof.Machine.execAxisConfig seq t s
  | .axisMove seq t => Sys2Proof.Machine.execAxisMove seq t s
  | .axisJog seq t => Sys2Proof.Machine.execAxisJog seq t s
  | .axisStop seq t => Sys2Proof.Machine.execAxisStop seq t s
  | .axisHome seq t => Sys2Proof.Machine.execAxisHome seq t s
  | .axisSetLimits seq t => Sys2Proof.Machine.execAxisSetLimits seq t s
  | .compressJob seq inp out t => Sys2Proof.Machine.execCompressJob seq inp out t s
  | .decompressJob seq inp out t => Sys2Proof.Machine.execDecompressJob seq inp out t s
  | .calRun seq xres t => Sys2Proof.Machine.execCalRun seq xres t s
  | .calRead seq out t => Sys2Proof.Machine.execCalRead seq out t s
  | .calCommit seq t => Sys2Proof.Machine.execCalCommit seq t s
  | .evtMark seq t => Sys2Proof.Machine.execEvtMark seq t s
  | .episodeBegin seq t => Sys2Proof.Machine.execEpisodeBegin seq t s
  | .episodeEnd seq t => Sys2Proof.Machine.execEpisodeEnd seq t s
  | .faultInject seq t => Sys2Proof.Machine.execFaultInject seq t s
  | .faultClassSet seq t => Sys2Proof.Machine.execFaultClassSet seq t s
  | .loopbackSet seq t => Sys2Proof.Machine.execLoopbackSet seq t s
  | .laneEyeScan seq out t => Sys2Proof.Machine.execLaneEyeScan seq out t s
  | .selftest seq t => Sys2Proof.Machine.execSelftest seq t s
  | .pageTransferDone seq stream dmaErr t => Sys2Proof.Machine.execPageTransferDone seq stream dmaErr t s
  | .pageVerifyDone seq t => Sys2Proof.Machine.execPageVerifyDone seq t s
  | .pageRelease seq t => Sys2Proof.Machine.execPageRelease seq t s
  | .pageCancelRelease seq t => Sys2Proof.Machine.execPageCancelRelease seq t s
  | .reprintPlace seq t => Sys2Proof.Machine.execReprintPlace seq t s
  | .decompressFrameStart t => Sys2Proof.Machine.execDecompressFrameStart t s
  | .decompressFrameDone u badBurst t => Sys2Proof.Machine.execDecompressFrameDone u badBurst t s
  | .compressFrameDone lane t => Sys2Proof.Machine.execCompressFrameDone lane t s
  | .renderWindowOpen t => Sys2Proof.Machine.execRenderWindowOpen t s
  | .stripeDelivery p wrong flips t => Sys2Proof.Machine.execStripeDelivery p wrong flips t s
  | .pennantFault p kind t => Sys2Proof.Machine.execPennantFault p kind t s
  | .pennantDeliveryTimeout p t => Sys2Proof.Machine.execPennantDeliveryTimeout p t s
  | .lineStoreScrub err t => Sys2Proof.Machine.execLineStoreScrub err t s
  | .encoderEdge ch a b t => Sys2Proof.Machine.execEncoderEdge ch a b t s
  | .illegalTransition ch a b t => Sys2Proof.Machine.execIllegalTransition ch a b t s
  | .speedStall ch t => Sys2Proof.Machine.execSpeedStall ch t s
  | .lineStep bad t => Sys2Proof.Machine.execLineStep bad t s
  | .hoistTick t => Sys2Proof.Machine.execHoistTick t s
  | .derateEnd p t => Sys2Proof.Machine.execDerateEnd p t s
  | .governorPeriod t => Sys2Proof.Machine.execGovernorPeriod t s
  | .slipCheck t => Sys2Proof.Machine.execSlipCheck t s
  | .timebaseTick t => Sys2Proof.Machine.execTimebaseTick t s
  | .firePredict t => Sys2Proof.Machine.execFirePredict t s
  | .fireCommit row line t => Sys2Proof.Machine.execFireCommit row line t s
  | .fireInstant row line t => Sys2Proof.Machine.execFireInstant row line t s
  | .rowLineLate row line t => Sys2Proof.Machine.execRowLineLate row line t s
  | .compareFire u t => Sys2Proof.Machine.execCompareFire u t s
  | .comparePulseEnd pin t => Sys2Proof.Machine.execComparePulseEnd pin t s
  | .stopNLow t => Sys2Proof.Machine.execStopNLow t s
  | .stopNHigh t => Sys2Proof.Machine.execStopNHigh t s
  | .printInhibitLow t => Sys2Proof.Machine.execPrintInhibitLow t s
  | .printInhibitHigh t => Sys2Proof.Machine.execPrintInhibitHigh t s
  | .headPresenceChange p present t => Sys2Proof.Machine.execHeadPresenceChange p present t s
  | .presenceDebounceDone p t => Sys2Proof.Machine.execPresenceDebounceDone p t s
  | .headAbsent p t => Sys2Proof.Machine.execHeadAbsent p t s
  | .headTs1 p turnaround rate6 t => Sys2Proof.Machine.execHeadTs1 p turnaround rate6 t s
  | .headTs2 p roundTrip t => Sys2Proof.Machine.execHeadTs2 p roundTrip t s
  | .headRateSwitch p ok t => Sys2Proof.Machine.execHeadRateSwitch p ok t s
  | .headBringupStepTimeout p t => Sys2Proof.Machine.execHeadBringupStepTimeout p t s
  | .headBringupRetry p t => Sys2Proof.Machine.execHeadBringupRetry p t s
  | .headRecord p data t => Sys2Proof.Machine.execHeadRecord p data t s
  | .twoWireReadDone p data t => Sys2Proof.Machine.execTwoWireReadDone p data t s
  | .headStatus p head ink drive tag t => Sys2Proof.Machine.execHeadStatus p head ink drive tag t s
  | .headAlert p head flags t => Sys2Proof.Machine.execHeadAlert p head flags t s
  | .headEcho p crc fires tag t => Sys2Proof.Machine.execHeadEcho p crc fires tag t s
  | .headNak p rowB tag t => Sys2Proof.Machine.execHeadNak p rowB tag t s
  | .headAck p kind value t => Sys2Proof.Machine.execHeadAck p kind value t s
  | .headNchk p first results t => Sys2Proof.Machine.execHeadNchk p first results t s
  | .headLinkFail p cause t => Sys2Proof.Machine.execHeadLinkFail p cause t s
  | .waveformAckTimeout p t => Sys2Proof.Machine.execWaveformAckTimeout p t s
  | .headShadowEnd p t => Sys2Proof.Machine.execHeadShadowEnd p t s
  | .legacyTempRead p raw t => Sys2Proof.Machine.execLegacyTempRead p raw t s
  | .profileProcess t => Sys2Proof.Machine.execProfileProcess t s
  | .probeTimeout col t => Sys2Proof.Machine.execProbeTimeout col t s
  | .headEntryWrite slot fl t => Sys2Proof.Machine.execHeadEntryWrite slot fl t s
  | .halyardLinkFail sd cause t => Sys2Proof.Machine.execHalyardLinkFail sd cause t s
  | .halyardTs1 sd turnaround t => Sys2Proof.Machine.execHalyardTs1 sd turnaround t s
  | .halyardDlyReq sd sq t => Sys2Proof.Machine.execHalyardDlyReq sd sq t s
  | .halyardDlyRsp sd sq roundTrip t => Sys2Proof.Machine.execHalyardDlyRsp sd sq roundTrip t s
  | .dlyReqPeriod sd t => Sys2Proof.Machine.execDlyReqPeriod sd t s
  | .halyardConfirm sd ready t => Sys2Proof.Machine.execHalyardConfirm sd ready t s
  | .halyardTrainingTimeout sd t => Sys2Proof.Machine.execHalyardTrainingTimeout sd t s
  | .halyardTrainingRetry sd t => Sys2Proof.Machine.execHalyardTrainingRetry sd t s
  | .halyardShadowEnd sd t => Sys2Proof.Machine.execHalyardShadowEnd sd t s
  | .halyardLoop sd b1 t => Sys2Proof.Machine.execHalyardLoop sd b1 t s
  | .timeBlock sd calNs hops valid t => Sys2Proof.Machine.execTimeBlock sd calNs hops valid t s
  | .timeSendPeriod t => Sys2Proof.Machine.execTimeSendPeriod t s
  | .timeLoss t => Sys2Proof.Machine.execTimeLoss t s
  | .beacon h b t => Sys2Proof.Machine.execBeacon h b t s
  | .beaconSendPeriod t => Sys2Proof.Machine.execBeaconSendPeriod t s
  | .node h n t => Sys2Proof.Machine.execNode h n t s
  | .nodeSendPeriod t => Sys2Proof.Machine.execNodeSendPeriod t s
  | .claim h identity epoch t => Sys2Proof.Machine.execClaim h identity epoch t s
  | .join h identity eligible t => Sys2Proof.Machine.execJoin h identity eligible t s
  | .probe h t => Sys2Proof.Machine.execProbe h t s
  | .probeReply h t => Sys2Proof.Machine.execProbeReply h t s
  | .halyardAck h acked t => Sys2Proof.Machine.execHalyardAck h acked t s
  | .control h m t => Sys2Proof.Machine.execControl h m t s
  | .speedPacket h limit cause t => Sys2Proof.Machine.execSpeedPacket h limit cause t s
  | .syncReady h group page lines t => Sys2Proof.Machine.execSyncReady h group page lines t s
  | .syncPlace h group page w t => Sys2Proof.Machine.execSyncPlace h group page w t s
  | .syncReprint h group page t => Sys2Proof.Machine.execSyncReprint h group page t s
  | .mirror h m t => Sys2Proof.Machine.execMirror h m t s
  | .profilePacket h mgrSeq data t => Sys2Proof.Machine.execProfilePacket h mgrSeq data t s
  | .handover h t => Sys2Proof.Machine.execHandover h t s
  | .packetResend t => Sys2Proof.Machine.execPacketResend t s
  | .packetAckTimeout dst sq t => Sys2Proof.Machine.execPacketAckTimeout dst sq t s
  | .managerSilence t => Sys2Proof.Machine.execManagerSilence t s
  | .probeWindowEnd t => Sys2Proof.Machine.execProbeWindowEnd t s
  | .probeRepeat t => Sys2Proof.Machine.execProbeRepeat t s
  | .noManagerTimeout t => Sys2Proof.Machine.execNoManagerTimeout t s
  | .ringUp t => Sys2Proof.Machine.execRingUp t s
  | .electionListenEnd t => Sys2Proof.Machine.execElectionListenEnd t s
  | .claimWaitEnd t => Sys2Proof.Machine.execClaimWaitEnd t s
  | .speedHoldExpire n t => Sys2Proof.Machine.execSpeedHoldExpire n t s
  | .syncHoldExpire group page t => Sys2Proof.Machine.execSyncHoldExpire group page t s
  | .profileStatusTimeout seq t => Sys2Proof.Machine.execProfileStatusTimeout seq t s
  | .offsetRetry t => Sys2Proof.Machine.execOffsetRetry t s
  | .portCycle t => Sys2Proof.Machine.execPortCycle t s
  | .driveReply ax bytes t => Sys2Proof.Machine.execDriveReply ax bytes t s
  | .limitInput ax positive level t => Sys2Proof.Machine.execLimitInput ax positive level t s
  | .homeInput ax level t => Sys2Proof.Machine.execHomeInput ax level t s
  | .jogEnd ax t => Sys2Proof.Machine.execJogEnd ax t s
  | .refreshDue ch bank t => Sys2Proof.Machine.execRefreshDue ch bank t s
  | .mr4Read hot t => Sys2Proof.Machine.execMr4Read hot t s
  | .zqCalibration rank t => Sys2Proof.Machine.execZqCalibration rank t s
  | .dqsOscillatorRead drift t => Sys2Proof.Machine.execDqsOscillatorRead drift t s
  | .bankIdleTimeout rank bank t => Sys2Proof.Machine.execBankIdleTimeout rank bank t s
  | .powerDownEntry rank t => Sys2Proof.Machine.execPowerDownEntry rank t s
  | .patrolScrub err t => Sys2Proof.Machine.execPatrolScrub err t s
  | .calPassStart xres t => Sys2Proof.Machine.execCalPassStart xres t s
  | .calMeasureDone devs t => Sys2Proof.Machine.execCalMeasureDone devs t s
  | .calSetWrite fl t => Sys2Proof.Machine.execCalSetWrite fl t s
  | .faultDetect code u p0 p1 p2 t => Sys2Proof.Machine.execFaultDetect code u p0 p1 p2 t s
  | .faultResetExpire t => Sys2Proof.Machine.execFaultResetExpire t s
  | .faultStateSpeedZero t => Sys2Proof.Machine.execFaultStateSpeedZero t s
  | .faultNPulseEnd t => Sys2Proof.Machine.execFaultNPulseEnd t s
  | .recordRateResume code u t => Sys2Proof.Machine.execRecordRateResume code u t s
  | .blockResetDone r => Sys2Proof.Machine.execBlockResetDone r s
  | .fltLatchClear v => Sys2Proof.Machine.execFltLatchClear v s
  | .clrfirst => Sys2Proof.Machine.execClrfirst s
  | .clrcnt => Sys2Proof.Machine.execClrcnt s
  | .holdSet => Sys2Proof.Machine.execHoldSet s
  | .holdClear t => Sys2Proof.Machine.execHoldClear t s
  | .fltInjectArm t => Sys2Proof.Machine.execFltInjectArm t s
  | .fltPinLevelWrite level => Sys2Proof.Machine.execFltPinLevelWrite level s
  | .unitAutoReturn u t => Sys2Proof.Machine.execUnitAutoReturn u t s
  | .unitShadowEnd u agreed t => Sys2Proof.Machine.execUnitShadowEnd u agreed t s
  | .eventCommit fl t => Sys2Proof.Machine.execEventCommit fl t s
  | .overflowSave fl t => Sys2Proof.Machine.execOverflowSave fl t s
  | .freezeWrite on t => Sys2Proof.Machine.execFreezeWrite on t s
  | .freezeLapse t => Sys2Proof.Machine.execFreezeLapse t s
  | .evtCursorWrite v t => Sys2Proof.Machine.execEvtCursorWrite v t s
  | .epunlock => Sys2Proof.Machine.execEpunlock s
  | .erasearm t => Sys2Proof.Machine.execErasearm t s
  | .erase t => Sys2Proof.Machine.execErase t s
  | .eraseDone t => Sys2Proof.Machine.execEraseDone t s
  | .hbEnableSet t => Sys2Proof.Machine.execHbEnableSet t s
  | .hbEnableClear t => Sys2Proof.Machine.execHbEnableClear t s
  | .srst t => Sys2Proof.Machine.execSrst t s
  | .hbDmaModeWrite on => Sys2Proof.Machine.execHbDmaModeWrite on s
  | .hbFifoWrite bytes t => Sys2Proof.Machine.execHbFifoWrite bytes t s
  | .hbDmaDoorbell tail => Sys2Proof.Machine.execHbDmaDoorbell tail s
  | .hbDmaEntryDone lines bytes dmaErr t => Sys2Proof.Machine.execHbDmaEntryDone lines bytes dmaErr t s
  | .hbErrRead => Sys2Proof.Machine.execHbErrRead s
  | .hbDelayWrite n v t => Sys2Proof.Machine.execHbDelayWrite n v t s
  | .hbEncoderWrite divider v t => Sys2Proof.Machine.execHbEncoderWrite divider v t s
  | .hbPitchWrite p1200 t => Sys2Proof.Machine.execHbPitchWrite p1200 t s
  | .legacyPageClose t => Sys2Proof.Machine.execLegacyPageClose t s
  | .fenceTimeout seq t => Sys2Proof.Machine.execFenceTimeout seq t s
  | .carryReadableLapse seq t => Sys2Proof.Machine.execCarryReadableLapse seq t s
  | .axisReplyWindowEnd ax t => Sys2Proof.Machine.execAxisReplyWindowEnd ax t s
  | .selftestDone passed failed fencedUnit t => Sys2Proof.Machine.execSelftestDone passed failed fencedUnit t s
  | .laneEyeScanDone counts t => Sys2Proof.Machine.execLaneEyeScanDone counts t s
  | .legacyTrainingDone p t => Sys2Proof.Machine.execLegacyTrainingDone p t s
  | .nodeUnreachable n t => Sys2Proof.Machine.execNodeUnreachable n t s
  | .supplyBackInRange rail mv t => Sys2Proof.Machine.execSupplyBackInRange rail mv t s
  | .dieTempReturn sensor raw t => Sys2Proof.Machine.execDieTempReturn sensor raw t s
  | .returnLaneSignalRestored p => Sys2Proof.Machine.execReturnLaneSignalRestored p s
  | .halyardSignalRestored sd => Sys2Proof.Machine.execHalyardSignalRestored sd s
  | .bar2ApertureRead off len bad t => Sys2Proof.Machine.execBar2ApertureRead off len bad t s
  | .evtCountRead => Sys2Proof.Machine.execEvtCountRead s
  | .lowHalfRead off => Sys2Proof.Machine.execLowHalfRead off s

end Sys2Proof.Machine
end

