-- ==== Sys2Proof/Safety.lean ====
section
/-!
DEFINITION. Safety.lean: what a safe state of the block is, in the terms that the statements use: the bounds that the manual sets to the event
recorder and to the fault collector's counts, and the fuses and the queue that no command writes.
-/

namespace Sys2Proof.Safety

open Sys2Proof.Machine

/-- The event recorder within its places: 2,048 records on the die (R401), 524,288 in the spill (R401), 196,608 in the service area (R403),
and the two halves of the episode area (R405). -/
def recorderFits (e : Evt) : Prop :=
  e.buffer.length ≤ 2048 ∧ e.spill.length ≤ 524288 ∧ e.service.length ≤ 196608 ∧ e.episodeFirst.length ≤ 32768 ∧ e.episodeRing.length ≤ 32768

/-- The counts that stop: the overflow count at 0xFFFF_FFFF (R406), and the collector's at 255 (FLT_COUNT, FLT_SHADOW, FLT_STATE). -/
def countsStop (s : State) : Prop :=
  s.evt.overflow ≤ 0xFFFFFFFF ∧ s.flt.count0 ≤ 255 ∧ s.flt.count1 ≤ 255 ∧ s.flt.count2 ≤ 255 ∧ s.flt.count3 ≤ 255 ∧ s.flt.shadowHits ≤ 255
    ∧ s.flt.resets ≤ 255

/-- What every step keeps, for the fuses `f` and the waiting commands `q`: no command writes a fuse or the queue, the recorder stays within its
places, and the counts stop. -/
structure Keeps (f : Fuses) (q : List Instr) (s : State) : Prop where
  fuses : s.fuses = f
  pending : s.pending = q
  recorder : recorderFits s.evt
  counts : countsStop s

/-! ## What a command leaves unchanged -/

/-- The parts of the block's state: one for each field of `State`. -/
inductive Part where
  | now | fuses | flash | power | host | journal | store | codec | render | lines | pos | heads | loop | ring | axes | axisCycle | dmc | flt | evt | cal | hb | out | free | pending
deriving DecidableEq, Repr

/-- Two states agree on a part. -/
def Part.same (s t : State) : Part → Prop
  | .now => t.now = s.now
  | .fuses => t.fuses = s.fuses
  | .flash => t.flash = s.flash
  | .power => t.power = s.power
  | .host => t.host = s.host
  | .journal => t.journal = s.journal
  | .store => t.store = s.store
  | .codec => t.codec = s.codec
  | .render => t.render = s.render
  | .lines => t.lines = s.lines
  | .pos => t.pos = s.pos
  | .heads => t.heads = s.heads
  | .loop => t.loop = s.loop
  | .ring => t.ring = s.ring
  | .axes => t.axes = s.axes
  | .axisCycle => t.axisCycle = s.axisCycle
  | .dmc => t.dmc = s.dmc
  | .flt => t.flt = s.flt
  | .evt => t.evt = s.evt
  | .cal => t.cal = s.cal
  | .hb => t.hb = s.hb
  | .out => t.out = s.out
  | .free => t.free = s.free
  | .pending => t.pending = s.pending

/-- Every part but those of the list is in `t` as it is in `s`. -/
def Only (m : List Part) (s t : State) : Prop := ∀ p, p ∉ m → p.same s t

/-! ## Host commands -/

/-- The command `seq` of opcode `op` is free to have its effect at moment `t`, `e` being its accepted entry: no earlier command holds it back
(R286), no FENCE stands under its sequence, host memory can be reached if it needs it (R277, R278), and neither the mode (R306), nor the fault state
(R307), nor SHUTDOWN_PREPARE (R317) stands against it. -/
abbrev Runs (s : State) (t seq op : Nat) (dma : Bool) (e : JEntry) : Prop :=
  (s.tick t).startable seq op = some e ∧ s.journal.fences.all (fun w => w.seq != seq) = true ∧ (dma = true → (s.tick t).canSend = true) ∧
    modeForbids s.power.mode op = false ∧ (s.flt.faultState = true → faultAllows op (e.p8 0) = true) ∧
    (s.journal.shutDown = true → shutdownAllows op (e.p8 0) = true)

/-- The conditions of the command's own row hold at moment `t` (R305, R509). -/
abbrev Checked (c : State → JEntry → Checks) (s : State) (t : Nat) (e : JEntry) : Prop := (c (s.tick t) e).verdict = none

/-- The journal sequence, the opcode and the moment of a row that is a host command which starts under R286 and is checked under R305:
every command of chapter 10 but ARM_PRINT, which has an order of its own (R172). -/
def hostCommand : Instr → Option (Nat × Nat × Nat)
  | .identify seq _ t => some (seq, 0x0101, t)
  | .getStatus seq _ t => some (seq, 0x0102, t)
  | .setTime seq t => some (seq, 0x0103, t)
  | .resetUnit seq t => some (seq, 0x0104, t)
  | .shutdownPrepare seq t => some (seq, 0x0105, t)
  | .fence seq t => some (seq, 0x0106, t)
  | .fwUpdateBegin seq t => some (seq, 0x0107, t)
  | .fwUpdateChunk seq _ t => some (seq, 0x0108, t)
  | .fwUpdateCommit seq t => some (seq, 0x0109, t)
  | .jobOpen seq t => some (seq, 0x0201, t)
  | .pageSubmit seq _ t => some (seq, 0x0202, t)
  | .pageCancel seq t => some (seq, 0x0203, t)
  | .pageQuery seq t => some (seq, 0x0204, t)
  | .jobClose seq t => some (seq, 0x0205, t)
  | .setBarGeometry seq _ t => some (seq, 0x0301, t)
  | .setRowDelay seq _ t => some (seq, 0x0302, t)
  | .setRegistration seq t => some (seq, 0x0303, t)
  | .setInputFormat seq t => some (seq, 0x0401, t)
  | .loadToneCurves seq _ t => some (seq, 0x0402, t)
  | .setColumnTone seq _ t => some (seq, 0x0403, t)
  | .loadThresholdArray seq _ t => some (seq, 0x0404, t)
  | .loadRowMask seq _ t => some (seq, 0x0405, t)
  | .setStitch seq _ t => some (seq, 0x0406, t)
  | .setCompensation seq t => some (seq, 0x0407, t)
  | .setEnginePolicy seq t => some (seq, 0x0408, t)
  | .setEncoder seq t => some (seq, 0x0501, t)
  | .setLinePitch seq t => some (seq, 0x0502, t)
  | .setCompare seq t => some (seq, 0x0503, t)
  | .setPrintWindow seq t => some (seq, 0x0504, t)
  | .disarmPrint seq t => some (seq, 0x0506, t)
  | .headBringup seq t => some (seq, 0x0601, t)
  | .headRetire seq t => some (seq, 0x0602, t)
  | .readHeadRecord seq _ _ t => some (seq, 0x0603, t)
  | .loadWaveform seq _ t => some (seq, 0x0604, t)
  | .setThermalLimits seq t => some (seq, 0x0605, t)
  | .nozzleTest seq _ t => some (seq, 0x0606, t)
  | .inspectProfile seq _ t => some (seq, 0x0701, t)
  | .setLoopPolicy seq t => some (seq, 0x0702, t)
  | .nozzleOverride seq _ t => some (seq, 0x0703, t)
  | .ringStatus seq _ t => some (seq, 0x0801, t)
  | .ringAdmit seq t => some (seq, 0x0802, t)
  | .ringExpel seq t => some (seq, 0x0803, t)
  | .setRole seq t => some (seq, 0x0804, t)
  | .speedPolicy seq t => some (seq, 0x0805, t)
  | .axisConfig seq t => some (seq, 0x0901, t)
  | .axisMove seq t => some (seq, 0x0902, t)
  | .axisJog seq t => some (seq, 0x0903, t)
  | .axisStop seq t => some (seq, 0x0904, t)
  | .axisHome seq t => some (seq, 0x0905, t)
  | .axisSetLimits seq t => some (seq, 0x0906, t)
  | .compressJob seq _ _ t => some (seq, 0x0A01, t)
  | .decompressJob seq _ _ t => some (seq, 0x0A02, t)
  | .calRun seq _ t => some (seq, 0x0B01, t)
  | .calRead seq _ t => some (seq, 0x0B02, t)
  | .calCommit seq t => some (seq, 0x0B03, t)
  | .evtMark seq t => some (seq, 0x0C01, t)
  | .episodeBegin seq t => some (seq, 0x0C02, t)
  | .episodeEnd seq t => some (seq, 0x0C03, t)
  | .faultInject seq t => some (seq, 0x0D01, t)
  | .faultClassSet seq t => some (seq, 0x0D02, t)
  | .loopbackSet seq t => some (seq, 0x0E01, t)
  | .laneEyeScan seq _ t => some (seq, 0x0E02, t)
  | .selftest seq t => some (seq, 0x0E03, t)
  | _ => none

/-- What the journal says of an entry: its state, its status and detail, and its result words (R297). -/
def outcomeOf (e : JEntry) : JState × Nat × BitVec 32 × BitVec 32 × BitVec 32 × BitVec 32 × BitVec 32 :=
  (e.state, e.status, e.detail, e.r0, e.r1, e.r2, e.r3)

/-- The command has ended with a status, a detail and result words. -/
abbrev Ended (s : State) (seq : Nat) (st : Status) (detail : BitVec 32 := 0) (r0 r1 r2 r3 : BitVec 32 := 0) : Prop :=
  (s.entry? seq).map outcomeOf = some (st.journal, st.code, detail, r0, r1, r2, r3)

/-- The command has ended with a status and a detail, whatever its result words (R297). -/
abbrev EndedAs (s : State) (seq : Nat) (st : Status) (detail : BitVec 32 := 0) : Prop :=
  (s.entry? seq).map (fun e => (e.state, e.status, e.detail)) = some (st.journal, st.code, detail)

/-- The command runs on: it has started and has not ended (R309). -/
abbrev InProgress (s : State) (seq : Nat) : Prop := (s.entry? seq).map (·.state) = some .running

/-- A command that runs, under whose sequence no FENCE stands: what completes it can end it (R308, R309). -/
abbrev Running (s : State) (seq : Nat) : Prop := InProgress s seq ∧ s.journal.fences.all (fun w => w.seq != seq) = true

/-- No RESET_UNIT waits on a head port (R316): nothing but the port's own happening ends with it. -/
abbrev portsFree (s : State) : Prop := (List.range 32).all (fun n => (s.port n).resetCmd.isNone) = true

/-! ## The ring -/

/-- A packet arrives for this chip: its port is in service, its CRC holds, it is no shadow copy, device firmware runs, it is not the chip's
own, it is for its node, for every node, for the role it holds, or for it by name, and no shot waits to spoil its CRC (R239, R244, R245, R383). -/
abbrev Arrives (s : State) (h : PktHdr) (named : Option Nat := none) : Prop :=
  (s.ring.port h.port).state = .inService ∧ h.crcOk = true ∧ h.shadow = false ∧ s.firmwareRuns = true ∧ s.ring.node ≠ some h.src ∧
    s.isFor h named = true ∧ s.shotAt 0x0E (sideIndex h.port) = false

/-- A packet of an acknowledged class is the next of its source to its address, with none held behind it (R247); one to a node is no role
traffic that the standby records (R257). -/
abbrev InOrder (s : State) (h : PktHdr) (d : Delivery) : Prop :=
  s.delivery h.src h.dst = some d ∧ d.incarnation = h.incarnation ∧ h.sq = d.delivered + 1 ∧ d.held = [] ∧ (s.ring.role = .standby → h.role = false)

/-- The manager has no standby and appoints none: its transactions end at once (R257). -/
abbrev NoStandby (s : State) : Prop := s.ring.standby = none ∧ s.ring.appointing = none

/-- The packet of a row that is one, and its moment. -/
def packetOf : Instr → Option (PktHdr × Nat)
  | .beacon h _ t => some (h, t)
  | .node h _ t => some (h, t)
  | .claim h _ _ t => some (h, t)
  | .join h _ _ t => some (h, t)
  | .probe h t => some (h, t)
  | .probeReply h t => some (h, t)
  | .halyardAck h _ t => some (h, t)
  | .control h _ t => some (h, t)
  | .speedPacket h _ _ t => some (h, t)
  | .syncReady h _ _ _ t => some (h, t)
  | .syncPlace h _ _ _ t => some (h, t)
  | .syncReprint h _ _ t => some (h, t)
  | .mirror h _ t => some (h, t)
  | .profilePacket h _ _ t => some (h, t)
  | .handover h t => some (h, t)
  | _ => none

/-! ## Faults -/

/-- The codes of the inventory (R372) for which a detection alone has the effects of its class and no reaction besides. -/
def plainCodes : List Nat := [0x0101, 0x0201, 0x0202, 0x0203, 0x0301, 0x0501, 0x0601, 0x0704, 0x0806, 0x0B01, 0x0B04, 0x0C01, 0x0C03, 0x0C04, 0x0D01, 0x0F02, 0x0F03]

/-- A count of FLT_COUNT by class. -/
def countOf (f : Flt) : Nat → Nat
  | 0 => f.count0
  | 1 => f.count1
  | 2 => f.count2
  | _ => f.count3

/-- The capture of FLT_FIRST, FLT_FIRST_TIME and the parameters in FLT_CAUSE1 and FLT_CAUSE2: code, unit, class, time valid, time, parameters;
none while FLT_FIRST is not valid. -/
def captureOf (f : Flt) : Option (Nat × Nat × Nat × Bool × BitVec 64 × BitVec 32 × BitVec 32) :=
  f.first.map fun c => (c.code, c.unit, c.cls, c.timeValid, c.time, c.cause1, c.cause2)

/-- A detection that reaches the collector as a fault of its own: its code is assigned, its unit is one the code can name, its detectors are not
held off, and no open reaction window shadows it (R369, R372, R380). -/
abbrev Detected (s : State) (code unit : Nat) : Prop :=
  (defaultClass code).isSome = true ∧ unit < unitsOf code ∧ s.heldOff code = false ∧ s.shadowed code unit = false

end Sys2Proof.Safety
end

