-- ==== Sys2Proof/WellFormed.lean ====
section
/-!
DEFINITION. WellFormed.lean: the commands whose operands lie in the ranges that the manual gives them, where the operand's type does not say
so already. A meaning is total on every command; well-formedness says which ones can reach the block.
-/

namespace Sys2Proof

/-- A buffer list: 32-bit lengths (R293), and no more data than the buffers hold. -/
def HostList.wf (l : HostList) : Bool :=
  l.elems.all (fun e => decide (e.len < 2 ^ 32)) && decide (l.data.length ≤ (l.elems.map (·.len)).sum)

/-- A source byte of R244. -/
def sourceOk (a : Nat) : Bool := decide (a ≤ 15) || a == 0xFD || a == 0xFE

/-- A destination byte of R244. -/
def destinationOk (a : Nat) : Bool := sourceOk a || a == 0xFF

/-- What PKT_START and the delivery header can carry (R242, R244). -/
def PktHdr.wf (h : PktHdr) : Bool :=
  sourceOk h.src && destinationOk h.dst && decide (h.hops ≤ 15) && decide (h.incarnation < 2 ^ 32) && decide (h.sq < 2 ^ 32)
  && decide (h.guest < 2 ^ 128) && (h.guest == 0 || h.src == 0xFE || h.dst == 0xFE)

/-- A unique identity has 128 bits. -/
def identityOk (i : Nat) : Bool := decide (i < 2 ^ 128)

/-- A word of a row-line: 1,024 bytes at DEPTH 4 make 128 words (R116). -/
def BadWord.wf (b : BadWord) : Bool := decide (b.word < 128)

/-- The well-formed commands. -/
def Instr.wf (i : Instr) : Bool :=
  match i with
  | .commandAccept entry _ => entry.all fun b => b.length == 64
  | .dbgReq _ random _ => random.length == 32
  | .registerWrite off wide _ => off % (if wide then 8 else 4) == 0
  | .identify _ l _ | .getStatus _ l _ | .fwUpdateChunk _ l _ | .pageSubmit _ l _ | .setBarGeometry _ l _ | .setRowDelay _ l _
  | .loadToneCurves _ l _ | .setColumnTone _ l _ | .loadThresholdArray _ l _ | .loadRowMask _ l _ | .setStitch _ l _
  | .readHeadRecord _ l _ _ | .loadWaveform _ l _ | .nozzleTest _ l _ | .inspectProfile _ l _ | .nozzleOverride _ l _
  | .ringStatus _ l _ | .calRead _ l _ | .laneEyeScan _ l _ => l.wf
  | .compressJob _ a b _ | .decompressJob _ a b _ => a.wf && b.wf
  | .lineStep bad _ => bad.all BadWord.wf
  | .beacon h _ _ | .probe h _ | .probeReply h _ | .halyardAck h _ _ | .control h _ _ | .speedPacket h _ _ _ | .syncReady h _ _ _ _
  | .syncPlace h _ _ _ _ | .syncReprint h _ _ _ | .mirror h _ _ | .profilePacket h _ _ _ | .handover h _ => h.wf
  | .node h n _ => h.wf && identityOk n.identity && n.node.all fun x => decide (x ≤ 15)
  | .claim h identity epoch _ => h.wf && identityOk identity && decide (epoch < 2 ^ 32)
  | .join h identity _ _ => h.wf && identityOk identity
  | .lowHalfRead off => off % 4 == 0
  | .laneEyeScanDone counts _ => counts.all fun c => decide (c < 2 ^ 32)
  | _ => true

end Sys2Proof
end

