-- ==== Sys2Proof/Certificates/Slice0/Obligations.lean ====
section
/-!
DEFINITION. Certificates/Slice0/Obligations.lean: the statements for the provers. Each says what a command or the block does, for every
state and every operand that meets its hypotheses; where one rests on a choice of the model's, its docstring names the entry of the log.
-/

open Sys2Proof Sys2Proof.Machine Sys2Proof.Safety

/-! ## Pages, jobs and the compression engine (chapter 02) -/

/-- Jobs (R319, R320, R38). JOB_OPEN takes the lowest free slot, with a horizon of 0 as 128, and leaves the others; of the heads it changes the governor's record of the job's pages alone. JOB_CLOSE of a job without pages, and with no PAGE_SUBMIT accepted before it that waits, completes with its counts and frees
its slot; of one with pages it runs on, in form 0 with the job closing, and in form 1 with every page of the job cancelled or gone. -/
def Obligations.JobCommands : Prop := ∀ (s : State) (seq t : Nat) (e : JEntry),
  (Runs s t seq 0x0201 false e → Checked jobOpenChecks s t e → ∃ s' slot, exec (.jobOpen seq t) s = .next s' ∧ slot < 16 ∧ Tbl.get none s.store.jobs slot = none ∧
    (∀ i, i < slot → Tbl.get none s.store.jobs i ≠ none) ∧ (∀ i, i ≠ slot → Tbl.get none s'.store.jobs i = Tbl.get none s.store.jobs i) ∧
    Tbl.get none s'.store.jobs slot = some { id := e.p32 0, verify := bitOf (e.p8 4) 0, reprint := e.p8 5, horizon := if e.p16 8 = 0 then 128 else e.p16 8
                                             gap := e.p16 10, group := e.p8 12 } ∧
    s'.store.pages = s.store.pages ∧ Ended s' seq .ok 0 (w32 slot) ∧
    s'.heads = { s.heads with governor := { s.heads.governor with recent := s.heads.governor.recent.filter fun x => x.1 != e.p32 0 } } ∧
    Only [.now, .host, .journal, .store, .heads, .out] s s') ∧
  (∀ j, Runs s t seq 0x0205 false e → s.job? (e.p32 0) = some j → e.p8 4 ≤ 1 → (∀ p ∈ s.store.pages, p.job = e.p32 0 → p.legacy = true) →
    (∀ x ∈ s.journal.entries, x.seq < seq → s.submitWaits (e.p32 0) x = false) →
    ∃ s', exec (.jobClose seq t) s = .next s' ∧ s'.job? (e.p32 0) = none ∧ Ended s' seq .ok 0 (w32 j.completedOk) (w32 j.replayed) (w32 j.late) (w32 j.failed)) ∧
  (∀ j p, Runs s t seq 0x0205 false e → s.job? (e.p32 0) = some j → e.p8 4 = 0 → p ∈ s.store.pages → p.job = e.p32 0 → p.legacy = false →
    ∃ s', exec (.jobClose seq t) s = .next s' ∧ (s'.job? (e.p32 0)).map (·.closing) = some true ∧ InProgress s' seq ∧ s'.store.pages = s.store.pages) ∧
  (∀ j, Runs s t seq 0x0205 false e → s.job? (e.p32 0) = some j → e.p8 4 = 1 → ∃ s', exec (.jobClose seq t) s = .next s' ∧
    ∀ p ∈ s'.store.pages, p.job = e.p32 0 → p.legacy = false → p.cancelled = true)

/-- PAGE_SUBMIT, PAGE_CANCEL and PAGE_QUERY (R35, R39, R40, R319, R321). PAGE_SUBMIT puts the page behind the others, transferring, with its blocks taken, its placement at a line fixed, and
its entry still accepted. PAGE_CANCEL completes at once with the page's state; a page being printed stays, cancelled, and any other is gone with its PAGE_SUBMIT failed with CANCELLED, as is one accepted and not started. PAGE_QUERY completes
with the page's state, first line, lines not yet fired and reprints; of a PAGE_SUBMIT accepted and not started, with the transferring state and its number of lines; and after 10 s with the words of its entry. -/
def Obligations.PageCommands : Prop := ∀ (s : State) (seq t : Nat) (e : JEntry),
  (∀ inp, Runs s t seq 0x0202 true e → Checked (submitChecks inp) s t e → ∃ s' p, exec (.pageSubmit seq inp t) s = .next s' ∧ s'.store.pages = s.store.pages ++ [p] ∧
    p.seq = seq ∧ p.job = e.p32 16 ∧ p.pageId = e.p32 20 ∧ p.rows = e.p32 24 ∧ p.state = .transferring ∧ p.blocks = (HostListTotal inp + 65535) / 65536 ∧
    (e.p8 28 = 0 → p.placement = .follow ∧ p.first = none) ∧ (e.p8 28 = 1 → p.placement = .atLine (e.s64 32) ∧ p.first = some (e.s64 32)) ∧
    (e.p8 28 = 2 → p.placement = .atCompare (e.p8 29) ∧ p.first = none) ∧ (s'.entry? seq).map (·.state) = some .accepted ∧ Only [.now, .host, .journal, .store, .out] s s') ∧
  (∀ p, Runs s t seq 0x0203 false e → s.page? (e.p64 0) = some p → p.closed = false → p.legacy = false → p.state = .printing →
    ∃ s', exec (.pageCancel seq t) s = .next s' ∧ (s'.page? (e.p64 0)).map (·.cancelled) = some true ∧ Ended s' seq .ok 0 2 ∧ Only [.now, .host, .journal, .store, .out] s s') ∧
  (∀ p x, Runs s t seq 0x0203 false e → s.page? (e.p64 0) = some p → p.closed = false → p.legacy = false → p.state ≠ .printing → e.p64 0 ≠ seq →
    s.entry? (e.p64 0) = some x → x.state.final = false → s.journal.fences.all (fun f => f.seq != e.p64 0) = true → (∀ j, s.job? p.job = some j → seq ∉ j.closeSeqs) →
    ∃ s', exec (.pageCancel seq t) s = .next s' ∧ s'.page? (e.p64 0) = none ∧ Ended s' seq .ok 0 (w32 p.state.code) ∧
      (s'.entry? (e.p64 0)).map (fun x => (x.state, x.status)) = some (.failed, 7)) ∧
  (∀ x, Runs s t seq 0x0203 false e → s.awaited (e.p64 0) = true → s.page? (e.p64 0) = none → e.p64 0 ≠ seq → s.entry? (e.p64 0) = some x →
    s.journal.fences.all (fun f => f.seq != e.p64 0) = true → (∀ j, s.job? (x.p32 16) = some j → seq ∉ j.closeSeqs ∧ e.p64 0 ∉ j.closeSeqs) →
    ∃ s', exec (.pageCancel seq t) s = .next s' ∧ Ended s' seq .ok 0 0 ∧ (s'.entry? (e.p64 0)).map (fun x => (x.state, x.status)) = some (.failed, 7)) ∧
  (∀ p x, Runs s t seq 0x0204 false e → s.entry? (e.p64 0) = some x → x.opcode = 0x0202 → s.page? (e.p64 0) = some p →
    ∃ s', exec (.pageQuery seq t) s = .next s' ∧ Ended s' seq .ok 0 (w32 p.state.code) (w32i (p.first.getD 0)) (w32 (s.unfiredCount p)) (w32 p.reprints) ∧
      Only [.now, .host, .journal, .out] s s') ∧
  (∀ x, Runs s t seq 0x0204 false e → s.entry? (e.p64 0) = some x → x.opcode = 0x0202 → s.page? (e.p64 0) = none → (∀ r ∈ s.store.recent, r.seq ≠ e.p64 0) → e.p64 0 ≠ seq →
    s.journal.fences.all (fun f => f.seq != e.p64 0) = true →
    ∃ s', exec (.pageQuery seq t) s = .next s' ∧ Only [.now, .host, .journal, .out] s s' ∧ (x.state ≠ .accepted → Ended s' seq .ok 0 5 x.r1 x.r2 x.r3) ∧
      (x.state = .accepted → Ended s' seq .ok 0 0 0 (w32 (pageLines ((s.render.format.map (·.kind)).getD 0) s.pos.lpi (x.p32 24))) 0))

/-- The course of a page (R33, R35, R37, R38, R40, R41). At the end of its transfer, at which no shot of a fault injection is due (R382), a page whose first header fails is gone, with DECODE_ERROR and its reason; a DMA error ends it with BAD_PARAM; a page of a
job with verification is verified first; and any other is stored, its entry running, or, where the window of its line had opened, held for reprint with a late start. A page that has passed verification is stored, and one that has failed is gone. A fired page is
released at the tick that brings its count to the horizon, with the status of its course, and no earlier; a cancelled one when its last hoist has drained. -/
def Obligations.PageCourse : Prop := ∀ (s : State) (seq t : Nat) (p : Page), s.page? seq = some p → p.legacy = false → Running s seq ∨ (s.entry? seq).map (·.state) = some .accepted →
  s.journal.fences.all (fun f => f.seq != seq) = true →
  let ends := fun (s' : State) (st : Status) => s'.page? seq = none ∧ (s'.entry? seq).map (fun x => (x.state, x.status)) = some (st.journal, st.code)
  let header := fun (l : List Byte) => headerError { configured := s.render.format.map fun f => (f.wIn, kindBpp f.kind), page := true } l 0
  (p.state = .transferring → s.canSend = true → s.power.phase = .running → s.shotAt 0x04 0 = false →
    (∀ l i, ∃ s', exec (.pageTransferDone seq l (some i) t) s = .next s' ∧ ends s' .badParam ∧ (s'.entry? seq).map (fun x => (x.detail, x.r0)) = some (0x40010000, w32 i)) ∧
    (∀ l r o, header l = some (r, o) → p.cancelled = false → p.outputLimit = false → ∃ s', exec (.pageTransferDone seq l none t) s = .next s' ∧ ends s' .decodeError ∧
      (s'.entry? seq).map (fun x => (x.detail, x.r2, x.r3)) = some (w32 r, 0, w32 o)) ∧
    (∀ l j, header l = none → s.job? p.job = some j → j.verify = true → ∃ s', exec (.pageTransferDone seq l none t) s = .next s' ∧
      (s'.page? seq).map (fun x => (x.state, x.stream)) = some (.verifying, l)) ∧
    (∀ l j, header l = none → s.job? p.job = some j → j.verify = false → j.group = 0 → s.pos.armed = false → p.placement = .follow ∨ (∃ n, p.placement = .atLine n ∧ p.blind = false ∧ p.losses = []) →
      ∃ s', exec (.pageTransferDone seq l none t) s = .next s' ∧ (s'.page? seq).map (fun x => (x.state, x.stream, x.first)) = some (.stored, l, p.first) ∧ InProgress s' seq) ∧
    (∀ l j n, header l = none → s.job? p.job = some j → j.verify = false → j.group = 0 → p.placement = .atLine n → p.blind = true → p.cancelled = false → p.failure = none →
      ∃ s', exec (.pageTransferDone seq l none t) s = .next s' ∧ (s'.page? seq).map (fun x => (x.state, x.stream, x.first, x.late)) = some (.held, l, some n, true) ∧ InProgress s' seq)) ∧
  (p.state = .verifying → p.cancelled = false →
    (p.failure.isSome = true → ∃ s', exec (.pageVerifyDone seq t) s = .next s' ∧ ends s' (if p.outputLimit then .outputLimit else .decodeError)) ∧
    (∀ j, p.failure = none → p.verified = true → s.job? p.job = some j → j.group = 0 → s.pos.armed = false → p.placement = .follow →
      ∃ s', exec (.pageVerifyDone seq t) s = .next s' ∧ (s'.page? seq).map (·.state) = some .stored ∧ InProgress s' seq)) ∧
  (p.state = .fired → ∀ n, p.horizon = some n →
    (((s.job? p.job).map (·.horizon)).getD 128 ≤ n → ∃ s', exec (.pageRelease seq t) s = .next s' ∧ ends s' p.status) ∧
    (n < ((s.job? p.job).map (·.horizon)).getD 128 → exec (.pageRelease seq t) s = .next (s.tick t))) ∧
  (p.state = .printing → p.cancelled = true →
    ((s.render.hoists.all fun h => h.pages.all fun x => x.1 != seq) = true → ∃ s', exec (.pageCancelRelease seq t) s = .next s' ∧ ends s' .cancelled) ∧
    ((s.render.hoists.all fun h => h.pages.all fun x => x.1 != seq) = false → exec (.pageCancelRelease seq t) s = .next (s.tick t)))

/-- REPRINT_PLACE (R388). While printing is armed and not disarming, a page held for reprint whose cause has ended, of no sync group, which no earlier such page of its job precedes, is placed at the line after the
last page placed of its job and the gap, or at the first line whose window has not opened where that lies above it; it counts a reprint, and the next page of the job follows it. A disarmed
print path places none. -/
def Obligations.ReprintPlace : Prop := ∀ (s : State) (seq t : Nat) (p : Page) (j : Job), s.page? seq = some p → s.job? p.job = some j → s.pos.armed = true → s.pos.disarming = none → (s.tick t).reprintReady p = true →
  s.store.pages.all (fun x => !(x.job == p.job && decide (x.seq < seq) && (s.tick t).reprintReady x)) = true →
  let first := match j.followEnd with | some e => max (e + 1 + j.gap) (64 * s.nextWindow) | none => 64 * s.nextWindow
  (∃ s', exec (.reprintPlace seq t) s = .next s' ∧ (s'.page? seq).map (fun x => (x.state, x.reprints, x.first, x.losses)) = some (.stored, p.reprints + 1, some first, []) ∧
    (s'.job? p.job).map (·.followEnd) = some (some (first + s.linesOf p - 1)) ∧ Only [.now, .host, .store, .evt, .out] s s') ∧
  ∀ x, exec (.reprintPlace x t) { s with pos := { s.pos with armed := false } } = .next ({ s with pos := { s.pos with armed := false } }.tick t)

/-- The codec jobs (R57, R60, R61, R64, R69, R70, R329). COMPRESS_JOB and DECOMPRESS_JOB run on with the buffer's length as their limit. A frame of DECOMPRESS_JOB that decodes is written behind the frames before it, and
the LAST one ends the command; one that fails ends it with DECODE_ERROR and its reason, or with OUTPUT_LIMIT, and writes nothing. The last frame of COMPRESS_JOB ends it with the stream written where it
fits, and with OUTPUT_FULL, its frames and input bytes, and 0 in the first four bytes of the buffer where it does not. No shot of a fault injection is due at these frames (R382). -/
def Obligations.CodecJobs : Prop := ∀ (s : State) (seq t : Nat) (e : JEntry),
  (∀ inp out, Runs s t seq 0x0A01 true e → Checked (fun _ e => ({ params := compressParams inp out e } : Checks)) s t e → ∃ s' j, exec (.compressJob seq inp out t) s = .next s' ∧ InProgress s' seq ∧
    s'.codec.jobs = s.codec.jobs ++ [j] ∧ j.seq = seq ∧ j.decode = false ∧ j.limit = HostListTotal out ∧ j.next = inp.data.length ∧ Only [.now, .host, .journal, .codec, .out] s s') ∧
  (∀ inp out, Runs s t seq 0x0A02 true e →
    Checked (fun _ e => ({ params := listRefOk e 0 ++ listRefOk e 12 ++ listOk 0 inp (fun _ => true) ++ listOk 12 out (fun _ => true) } : Checks)) s t e →
    ∃ s', exec (.decompressJob seq inp out t) s = .next s' ∧ InProgress s' seq ∧ s'.codec.jobs = s.codec.jobs ++ [{ seq := seq, decode := true, input := inp.data, limit := HostListTotal out }] ∧
      Only [.now, .host, .journal, .codec, .out] s s') ∧
  (∀ (u : Fin 4) w j, (s.unit u.val).work = some w → w.user = .job seq → s.codec.jobs.find? (fun j => j.seq == seq && j.decode) = some j → s.canSend = true → Running s seq →
    s.shotAt 0x05 u.val = false →
    let r := decodeFrame { first := if w.frame = 0 then none else some (firstFrame j.input) } j.input w.offset (j.limit - j.output.length) none
    (∀ f, r = .ok f → ∃ s', exec (.decompressFrameDone u none t) s = .next s' ∧ (s'.unit u.val).work = none ∧ Out.buffer seq j.output.length f.bytes ∈ s'.out ∧
      (f.header.last = true → Ended s' seq .ok 0 (w32 (j.output.length + f.bytes.length)) (w32 (j.total + 1))) ∧
      (f.header.last = false → InProgress s' seq ∧ (s'.codec.jobs.find? (fun j => j.seq == seq && j.decode)).map (fun j => (j.output, j.next)) = some (j.output ++ f.bytes, f.next))) ∧
    (∀ why o, r = .error (.bad why o) → ∃ s', exec (.decompressFrameDone u none t) s = .next s' ∧
      Ended s' seq .decodeError (w32 why) (w32 j.output.length) (w32 j.total) (w32 w.frame) (w32 o) ∧ (∀ n b, Out.buffer seq n b ∈ s'.out → Out.buffer seq n b ∈ s.out)) ∧
    (∀ o, r = .error (.limit o) → ∃ s', exec (.decompressFrameDone u none t) s = .next s' ∧ Ended s' seq .outputLimit 0 (w32 j.output.length) (w32 j.total) (w32 w.frame) (w32 o))) ∧
  ∀ (n : Fin 32) w j, (s.lane n.val).work = some w → w.user = .job seq → s.codec.jobs.find? (fun j => j.seq == seq && !j.decode) = some j → s.canSend = true → Running s seq →
    s.shotAt 0x06 n.val = false →
    let b := ({ j with frames := j.frames ++ [(w.frame, compressFrame w.last w.width w.bpp w.depth w.raw)] } : StreamJob).joined
    (j.frames.length + 1 < j.total → ∃ s', exec (.compressFrameDone n t) s = .next s' ∧ InProgress s' seq ∧ s'.out = s.out) ∧
    (j.total ≤ j.frames.length + 1 → b.length ≤ j.limit → ∃ s', exec (.compressFrameDone n t) s = .next s' ∧ Out.buffer seq 0 b ∈ s'.out ∧
      Ended s' seq .ok 0 (w32 b.length) (w32 j.total) (w32 j.next)) ∧
    (j.total ≤ j.frames.length + 1 → j.limit < b.length → ∃ s', exec (.compressFrameDone n t) s = .next s' ∧ Out.buffer seq 0 (List.replicate (min 4 j.limit) 0) ∈ s'.out ∧
      Ended s' seq .outputFull 0 0 (w32 j.total) (w32 j.next))

/-- Frames of pages (R57, R59, R61, R63, R41), none with a shot of a fault injection due (R382). While device firmware runs, a replay frame that waits is the next that a unit takes, in place of a frame of lower priority where no unit is free. A frame that inflow or verification has checked
adds its rows to the page, behind those before; a frame of inflow that fails ends the page with its failure, and a frame of verification that fails leaves the page with its failure, to be released. -/
def Obligations.PageFrames : Prop := ∀ (s : State) (t : Nat),
  (∀ w l u, s.power.phase = .running → s.codec.waiting = w :: l → w.user.rank = 0 → u < 4 → (s.unit u).state = .inService → (∀ x, (s.unit u).work = some x → 0 < x.user.rank) →
    ∃ s' v, exec (.decompressFrameStart t) s = .next s' ∧ v < 4 ∧ (s'.unit v).work = some w ∧ (∀ x, (s.unit v).work = some x → 0 < x.user.rank) ∧ w ∉ s'.codec.waiting ∧
      (∀ i, i ≠ v → s'.unit i = s.unit i) ∧ Only [.now, .codec] s s') ∧
  (s.nextDecode = none → exec (.decompressFrameStart t) s = .next (s.tick t)) ∧
  (∀ (u : Fin 4) w seq p, (s.unit u.val).work = some w → w.user = .inflow seq ∨ w.user = .verify seq → s.page? seq = some p → s.shotAt 0x05 u.val = false → s.frameShot w = none →
    (∀ f, s.pageFrame p w none = .ok f → ∃ s' q, exec (.decompressFrameDone u none t) s = .next s' ∧ (s'.unit u.val).work = none ∧ s'.page? seq = some q ∧ q.raster = p.raster ++ f.bytes ∧
      q.frames.length = p.frames.length + 1 ∧ q.state = p.state ∧ (w.user = .verify seq → q.verified = f.header.last)) ∧
    (∀ x, s.pageFrame p w none = .error x → w.user = .verify seq → ∃ s' q, exec (.decompressFrameDone u none t) s = .next s' ∧ s'.page? seq = some q ∧
      q.failure = some (x.failure w.frame).1 ∧ q.outputLimit = (x.failure w.frame).2) ∧
    (∀ x, s.pageFrame p w none = .error x → w.user = .inflow seq → p.legacy = false → p.cancelled = false → Running s seq → ∃ s', exec (.decompressFrameDone u none t) s = .next s' ∧
      s'.page? seq = none ∧ (s'.entry? seq).map (fun e => (e.state, e.status)) = some (.failed, if (x.failure w.frame).2 then 9 else 8)))

/-- A STORED frame comes back as it was (R43, R44, R47, R56, R67): for every raster width and depth, and every number of rows that R43 and rules 3 and 4 of R44 allow, the decoder reads from the frame that a lane
writes as STORED the very bytes, up to its end and no further. A frame of up to 175 raster bytes is always written so, whatever code lengths the lane chooses. -/
def Obligations.StoredFrameRoundTrip : Prop := ∀ (last : Bool) (width bpp depth remaining : Nat) (raw : List Byte),
  1 ≤ width → width ≤ 65536 → bpp ∈ [1, 2, 4, 8] → raw ≠ [] → raw.length ≤ 1048576 → raw.length % rowBytes width bpp = 0 → (last = true ∨ max 16384 (rowBytes width bpp) ≤ raw.length) →
  raw.length ≤ remaining →
  decodeFrame {} (storedFrame last width bpp raw) 0 remaining none = .ok { header := ⟨last, true, width, raw.length, bpp⟩, bytes := raw, trailer := 16 + raw.length, next := 20 + raw.length } ∧
  (raw.length ≤ 175 → compressFrame last width bpp depth raw = storedFrame last width bpp raw)

/-! ## Rendering tables, the bar and the pennants (chapters 03 and 04) -/

/-- The rendering commands (R72, R73, R90 to R96, R99, R100, R115, R135, R140, R171). Each changes its own table or setting alone: SET_INPUT_FORMAT the format, the level map only with its flag; LOAD_TONE_CURVES
the curves it names in the bank not in force, entry by entry, and no other; SET_COLUMN_TONE the records of its columns and no other; LOAD_THRESHOLD_ARRAY, LOAD_ROW_MASK and SET_STITCH the bank not in force; SET_COMPENSATION k;
SET_ENGINE_POLICY the count, split, lead and audit, with 0 and 0xFF keeping what is in force, and after a rise of the lead while printing is armed the hoists whose windows would already have opened wait; SET_PRINT_WINDOW the window. -/
def Obligations.RenderingTables : Prop := ∀ (s : State) (seq t : Nat) (e : JEntry) (inp : HostList),
  let keeps := fun (s' : State) => Ended s' seq .ok ∧ Only [.now, .host, .journal, .render, .out] s s'
  (Runs s t seq 0x0401 false e → Checked inputFormatChecks s t e → (∀ n, (s.port n).bringupSeq ≠ some seq) → ∃ s', exec (.setInputFormat seq t) s = .next s' ∧
    s'.render = { s.render with format := some { kind := e.p8 0, wIn := e.p32 4, c0 := e.p32 8, upscale := e.p8 1, depth := e.p8 2 }
                                levelMap := if bitOf (e.p8 3) 0 then levelMapOf (e.p16 12) else s.render.levelMap } ∧
    Ended s' seq .ok ∧ Only [.now, .host, .journal, .render, .lines, .heads, .out] s s') ∧
  (Runs s t seq 0x0402 true e → Checked (toneCurveChecks inp) s t e → ∃ s' cs, exec (.loadToneCurves seq inp t) s = .next s' ∧ s'.render = { s.render with curvesNext := some cs } ∧ keeps s' ∧
    ∀ c x, x < 256 → curveEntry cs c x = if e.p8 12 ≤ c ∧ c < e.p8 12 + e.p8 13 then leAt inp.data (512 * (c - e.p8 12) + 2 * x) 2 % 1024
      else curveEntry (s.render.curvesNext.getD s.render.curves) c x) ∧
  (Runs s t seq 0x0403 true e → Checked (columnToneChecks inp) s t e → ∃ s' cols, exec (.setColumnTone seq inp t) s = .next s' ∧ s'.render = { s.render with columns := cols } ∧ keeps s' ∧
    ∀ c, SMap.get {} cols c = if e.p32 12 ≤ c ∧ c < e.p32 12 + e.p32 16 then
      { gain := leAt inp.data (4 * (c - e.p32 12)) 2, offset := sleAt inp.data (4 * (c - e.p32 12) + 2) 1, curve := leAt inp.data (4 * (c - e.p32 12) + 3) 1 % 16 }
      else SMap.get {} s.render.columns c) ∧
  (Runs s t seq 0x0404 true e → Checked (thresholdChecks inp) s t e → ∃ s' a, exec (.loadThresholdArray seq inp t) s = .next s' ∧ s'.render = { s.render with thresholdNext := some a } ∧ keeps s' ∧
    (a.depth, a.w, a.h, a.xOff, a.yOff) = (s.depth, e.p16 14, e.p16 16, e.p16 18, e.p16 20) ∧ ∀ x y, x < a.w → y < a.h →
      a.cells.getD (y * a.w + x) [] = (List.range (if a.depth = 4 then 15 else 3)).map fun k =>
        bits (leAt inp.data ((y * a.w + x) * (if a.depth = 4 then 20 else 4)) (if a.depth = 4 then 20 else 4)) (10 * k) 10) ∧
  (Runs s t seq 0x0405 (!inp.elems.isEmpty) e → Checked (rowMaskChecks inp) s t e → ∃ s' m, exec (.loadRowMask seq inp t) s = .next s' ∧ s'.render = { s.render with masksNext := some m } ∧ keeps s' ∧
    ∀ n, Tbl.get {} m n = if n ∈ s.maskHeads (e.p8 12) then (Tbl.get {} (s.render.masksNext.getD s.render.masks) n : HeadMask).load e inp.data
      else Tbl.get {} (s.render.masksNext.getD s.render.masks) n) ∧
  (Runs s t seq 0x0406 (!inp.elems.isEmpty) e → Checked (stitchChecks inp) s t e → ∃ s' z, exec (.setStitch seq inp t) s = .next s' ∧ s'.render = { s.render with zonesNext := some z } ∧ keeps s' ∧
    ∀ n, n < 31 → Tbl.get {} z n = if e.p8 13 = 1 ∧ n = e.p8 12 then { loaded := true, oy := e.p16 16, tile := ⟨s.lines.geometry.zoneWidth n, e.p16 14, inp.data⟩ }
      else if e.p8 13 ≠ 1 ∧ (n = e.p8 12 ∨ e.p8 12 = 0xFF) then { oy := e.p16 16 } else Tbl.get {} (s.render.zonesNext.getD s.render.zones) n) ∧
  (Runs s t seq 0x0407 false e → e.p8 0 ≤ 128 → ∃ s', exec (.setCompensation seq t) s = .next s' ∧ s'.render = { s.render with k := e.p8 0 } ∧ keeps s') ∧
  (Runs s t seq 0x0408 false e → Checked policyChecks s t e → ∃ s' n w, exec (.setEnginePolicy seq t) s = .next s' ∧ keeps s' ∧ n = (if e.p8 0 = 0 then s.render.active else e.p8 0) ∧
    w = (if e.p8 3 = 0 then none else if e.p8 3 = 1 then some ((List.range n).map fun i => e.p8 (4 + i)) else s.render.explicit) ∧
    let lead := if e.p8 1 = 0 then s.render.lead else e.p8 1
    let after := ({ s with render := { s.render with lead := lead } } : State).leadInForce
    let sets := (e.p8 0 ≠ 0 ∨ e.p8 3 ≠ 0xFF) ∧ s.pos.armed = false
    s'.render = { s.render with active := n, explicit := w, lead := lead, audit := if e.p8 2 = 0xFF then s.render.audit else e.p8 2 == 1
                                pennants := if sets then assignStripes n s.render.pennants else s.render.pennants
                                resplitAt := if sets then unownedSplit n (assignStripes n s.render.pennants) else s.render.resplitAt
                                catchUpTo := if s.pos.armed = true ∧ s.leadInForce < after then some (s.pos.tick + after + 1) else s.render.catchUpTo }) ∧
  (Runs s t seq 0x0504 false e → e.s64 0 < e.s64 8 → e.p16 16 ≤ e.p16 18 → ∃ s', exec (.setPrintWindow seq t) s = .next s' ∧
    s'.render = { s.render with window := { lineStart := e.s64 0, lineEnd := e.s64 8, colLo := e.p16 16, colHi := e.p16 18 } } ∧ keeps s')

/-- The bar and its row delays (R120, R124, R125, R127, R130, R141). SET_BAR_GEOMETRY takes the geometry of its buffer, recomputes every delay of a present head and discards the tiles of zones whose overlap is another. SET_ROW_DELAY
and SET_REGISTRATION take effect and complete at once while printing is disarmed; while it is armed they run on as a change that waits for its line, the first of the next hoist unless a page is named, and nothing in force changes. -/
def Obligations.BarAndDelays : Prop := ∀ (s : State) (seq t : Nat) (e : JEntry) (inp : HostList),
  let delay := fun (g : Geometry) (trims : List Int) (reg : Int) (r : Nat) =>
    ((g.leadNm + (if (g.head (r / 2)).trail then (g.trailNm : Int) else 0) + (if r % 2 = 1 then (s.port (r / 2)).spacing else 0) + Tbl.get 0 trims r + reg) * (512 * s.pos.lpi) + 25400000).fdiv 50800000
  let delays := fun (s' : State) => ∀ r, r < 64 → Tbl.get 0 s'.lines.q r =
    if (s'.lines.geometry.head (r / 2)).present then delay s'.lines.geometry s'.lines.trims s'.lines.registration r else 0
  let waits := fun (s' : State) (trims : Option (List Int)) (reg : Option Int) (next : Bool) => InProgress s' seq ∧ s'.lines.q = s.lines.q ∧ s'.lines.trims = s.lines.trims ∧
    s'.lines.registration = s.lines.registration ∧ s'.lines.changes.length = s.lines.changes.length + 1 ∧
    (∃ c ∈ s'.lines.changes, c.seq = seq ∧ c.trims = trims ∧ c.registration = reg ∧ (next = true → c.late = false ∧ c.line = some (64 * (s.pos.tick + 1)))) ∧
    Only [.now, .host, .journal, .lines, .out] s s'
  (Runs s t seq 0x0301 true e → Checked (geometryChecks inp) s t e → ∃ s', exec (.setBarGeometry seq inp t) s = .next s' ∧ s'.lines.geometry = geometryOf inp.data ∧ delays s' ∧
    s'.lines.trims = s.lines.trims ∧ s'.lines.registration = s.lines.registration ∧ s'.render.zones = keepZones (geometryOf inp.data) s.render.zones ∧ Ended s' seq .ok ∧
    Only [.now, .host, .journal, .render, .lines, .loop, .evt, .out] s s') ∧
  (Runs s t seq 0x0302 true e → Checked (rowDelayChecks inp) s t e →
    (s.pos.armed = false → ∃ s', exec (.setRowDelay seq inp t) s = .next s' ∧ s'.lines.trims = trimsOf inp.data ∧ s'.lines.registration = s.lines.registration ∧ s'.lines.geometry = s.lines.geometry ∧
      delays s' ∧ Ended s' seq .ok ∧ Only [.now, .host, .journal, .lines, .out] s s') ∧
    (s.pos.armed = true → ∃ s', exec (.setRowDelay seq inp t) s = .next s' ∧ waits s' (some (trimsOf inp.data)) none (e.p8 12 = 0))) ∧
  (Runs s t seq 0x0303 false e → Checked registrationChecks s t e →
    (s.pos.armed = false → ∃ s', exec (.setRegistration seq t) s = .next s' ∧ s'.lines.registration = e.s32 0 ∧ s'.lines.trims = s.lines.trims ∧ s'.lines.geometry = s.lines.geometry ∧ delays s' ∧
      Ended s' seq .ok ∧ Only [.now, .host, .journal, .lines, .out] s s') ∧
    (s.pos.armed = true → ∃ s', exec (.setRegistration seq t) s = .next s' ∧ waits s' none (some (e.s32 0)) (e.p8 4 = 0)))

/-- The windows and the pennants (R15, R21, R35, R76, R99, R102, R104, R132). RENDER_WINDOW_OPEN opens the next hoist's window when it is due, with the table set in force and the banks that were loaded, and the pages with lines in it
printing. A STRIPE_DELIVERY whose check words agree, and that carries no shot of a fault injection, commits the stripe-hoist with the levels that arrived. One whose check words differ, or that carries such a shot of the pennant's memory, registers or
check word (R382), a pennant fault, and a delivery that comes later than twice the bound of R101 after its last decode fence the pennant, unless a reaction window shadows the fault (R380), and its stripe passes to the lowest-numbered spare that is idle. -/
def Obligations.WindowsAndPennants : Prop := ∀ (s : State) (t : Nat),
  (s.power.phase = .running → s.windowDue = true → s.render.resplitAt = none → ∃ s', exec (.renderWindowOpen t) s = .next s' ∧ s'.render.lastOpened = some s.nextWindow ∧
    (∃ h ∈ s'.render.hoists, h.k = s.nextWindow ∧ h.openedAt = max s.now t ∧ h.draining = false ∧ h.tables.geometry = s.lines.geometry ∧ h.tables.format = s.render.format ∧ h.tables.columns = s.render.columns ∧
      h.tables.k = s.render.k ∧ h.tables.curves = s.render.curvesNext.getD s.render.curves ∧ h.tables.threshold = s.render.thresholdNext.or s.render.threshold ∧
      h.tables.masks = s.render.masksNext.getD s.render.masks ∧ h.tables.zones = s.render.zonesNext.getD s.render.zones ∧ h.tables.nozzles = s.lines.nozzles ∧ h.tables.window = s.render.window ∧
      ∀ x ∈ s.pagesOf s.nextWindow, x ∈ h.pages) ∧
    s'.render.curvesNext = none ∧ s'.render.thresholdNext = none ∧ s'.render.masksNext = none ∧ s'.render.zonesNext = none ∧ s'.pos = s.pos ∧ s'.lines = s.lines) ∧
  (s.windowDue = false → exec (.renderWindowOpen t) s = .next (s.tick t)) ∧
  ∀ p : Fin 16,
  let fenced := fun (s' : State) (code : Nat) => (s'.pennant p).state = .fenced ∧ (s'.pennant p).stripe = none ∧ (s'.pennant p).work = [] ∧
    (∀ q st, (s.pennant p).stripe = some st → (s.pennant p).extra = [] → q < 16 → (∀ i, i < q → (s.pennant i).state ≠ .spare) → (s.pennant q).state = .spare → (s.pennant q).work = [] →
      (s'.pennant q).state = .active ∧ (s'.pennant q).stripe = some st) ∧
    (s.needsPennant p = false → s'.flt.latchClass.getLsbD (s.classOf code) = true)
  (∀ w l h wrong flips, (s.pennant p).work = w :: l → w.task.due = true → s.hoist? w.hoist = some h → s.sliceReady h = true → (w.decodeAgain && s.decodePending w.hoist w.stripe) = false →
    let levels := flipBits ((s.scene h).stripeBytes w.hoist w.stripe) wrong
    (s.pennantShot p w.task.due = none → s.shotAt 0x0B 0 = false → s.shotAt 0x0A 0 = false → s.shotAt 0x0A 1 = false →
      crc32c (flipBits levels flips) = crc32c levels → s.render.audits = [] → ∃ s' h', exec (.stripeDelivery p wrong flips t) s = .next s' ∧ s'.hoist? w.hoist = some h' ∧
      { index := w.stripe, owner := p, word := crc32c levels, levels := flipBits levels flips } ∈ h'.stripes ∧ (∀ x ∈ h.stripes, x.index ≠ w.stripe → x ∈ h'.stripes)) ∧
    (s.pennantShot p w.task.due = none → crc32c (flipBits levels flips) ≠ crc32c levels → (s.pennant p).state = .active → Detected (s.tick t) 0x0503 p →
      ∃ s', exec (.stripeDelivery p wrong flips t) s = .next s' ∧ fenced s' 0x0503) ∧
    (∀ c, s.pennantShot p w.task.due = some c → c ≠ 0x0501 → (s.pennant p).state = .active → Detected (s.tick t) c p →
      ∃ s', exec (.stripeDelivery p wrong flips t) s = .next s' ∧ fenced s' c)) ∧
  ((s.pennant p).work = [] → ∀ wrong flips, exec (.stripeDelivery p wrong flips t) s = .next (s.tick t)) ∧
  (s.power.phase ≠ .powerOnReset → s.power.phase ≠ .warmReset → (s.pennant p).state = .active →
    (Detected (s.tick t) 0x0502 p → ∃ s', exec (.pennantFault p .memory t) s = .next s' ∧ fenced s' 0x0502) ∧
    (Detected (s.tick t) 0x0504 p → ∃ s', exec (.pennantFault p .residue t) s = .next s' ∧ fenced s' 0x0504)) ∧
  (∀ w h, (s.pennant p).work.find? (fun w => w.task == .render) = some w → s.hoist? w.hoist = some h → s.sliceReady h = true → (s.pennant p).state = .active →
    (Detected (s.tick t) 0x0505 p → (w.decodeAgain && s.decodePending w.hoist w.stripe) = false → 8 * w.since + 10 * (4096 + 16 * (64 * h.tables.widths.getD w.stripe 0)) < 8 * max s.now t → ∃ s', exec (.pennantDeliveryTimeout p t) s = .next s' ∧ fenced s' 0x0505) ∧
    (8 * max s.now t ≤ 8 * w.since + 10 * (4096 + 16 * (64 * h.tables.widths.getD w.stripe 0)) → exec (.pennantDeliveryTimeout p t) s = .next (s.tick t)))

/-- Line-store errors and returns to service (R111, R116 to R118, R391). LINE_STORE_SCRUB without an error, and with no shot of a fault injection due, changes nothing but the time; an uncorrectable error in a committed stripe-hoist not yet draining takes it out of its slot and gives it
to an idle spare, which does not take the stripe; one in the table region takes every stripe-hoist that read the word and is due already out of its slot, and leaves the others; one in a draining slot or the delay region blanks the word of the row-line. UNIT_AUTO_RETURN resets a fenced pennant, decompression unit or lane within two returns in 24 hours, and a head port
within three in an hour; with the limit used up the unit stays fenced. UNIT_SHADOW_END fences a unit that disagreed, unless a reaction window shadows its fault, and marks one that agreed for two hoists to join at the next hoist boundary, a pennant after two matches of its check words, and while printing is
disarmed, by the model's choice (log 71), after two hoists. -/
def Obligations.LineStoreAndReturns : Prop := ∀ (s : State) (t : Nat),
  (s.shotAt 0x0A 0 = false → exec (.lineStoreScrub none t) s = .next (s.tick t)) ∧
  (s.power.phase ≠ .powerOnReset → s.power.phase ≠ .warmReset →
    (∀ place, (match place with | .band k _ => (s.hoist? k).isSome = true | _ => True) → ∃ s', exec (.lineStoreScrub (some ⟨place, false⟩) t) s = .next s' ∧
      (Detected (s.tick t) 0x0601 (match place with | .table _ => 0 | .band .. => 1 | .drainingOrDelay .. => 2) → countOf s'.flt (s.classOf 0x0601) = min (countOf s.flt (s.classOf 0x0601) + 1) 255)) ∧
    (∀ k st h q, s.hoist? k = some h → h.draining = false → (h.stripes.any fun x => x.index == st) = true → s.classOf 0x0602 < 3 → s.spareFor = some q → (s.pennant q).work = [] →
      ∃ s' w, exec (.lineStoreScrub (some ⟨.band k st, true⟩) t) s = .next s' ∧ (s'.pennant q).state = .spare ∧ (s'.pennant q).work = [w] ∧ (w.task, w.hoist, w.stripe) = (.replay, k, st) ∧
        s'.ownerOf st = s.ownerOf st ∧ ∀ h', s'.hoist? k = some h' → ∀ x ∈ h'.stripes, x.index ≠ st) ∧
    (∀ k st h, s.hoist? k = some h → s.classOf 0x0602 < 3 → s.classOf 0x0507 < 3 → st < h.tables.widths.length → st ∉ h.blanked → ∃ s' h', exec (.lineStoreScrub (some ⟨.table [(k, st)], true⟩) t) s = .next s' ∧
      s'.hoist? k = some h' ∧ (h.draining = false → h' = h) ∧ (h.draining = true → st ∈ h'.blanked ∧ ∀ x, x ∈ h'.stripes ↔ x ∈ h.stripes ∧ x.index ≠ st)) ∧
    (∀ (row : Fin 64) line word, s.classOf 0x0603 < 3 → ∃ s', exec (.lineStoreScrub (some ⟨.drainingOrDelay row line word, true⟩) t) s = .next s' ∧ s'.lines.blanked = s.lines.blanked ++ [(row.val, line, word)])) ∧
  (s.power.phase = .running →
    (∀ p : Fin 16, (s.pennant p).state = .fenced → (s.pennant p).resetDue = false → (s.pennant p).fencedCode ≠ 0 → ∃ s', exec (.unitAutoReturn (.pennant p) t) s = .next s' ∧ (s'.pennant p).state = .fenced ∧
      if 2 ≤ recentReturns (max s.now t) day (s.pennant p).returns then (s'.pennant p).fencedCode = 0 ∧ s'.flt = s.flt
      else (s'.pennant p).resetDue = true ∧ (s'.pennant p).returns = max s.now t :: (s.pennant p).returns ∧ s'.flt.windows.head?.map (·.block) = some (.pennant p) ∧ s'.flt.shadowParent = (s.pennant p).fencedCode) ∧
    (∀ u : Fin 4, (s.unit u).state = .fenced → (s.unit u).resetDue = false → (s.unit u).fencedCode ≠ 0 → ∃ s', exec (.unitAutoReturn (.decompressor u) t) s = .next s' ∧
      if 2 ≤ recentReturns (max s.now t) day (s.unit u).returns then (s'.unit u).fencedCode = 0 ∧ s'.flt = s.flt else (s'.unit u).resetDue = true ∧ s'.flt.windows.head?.map (·.block) = some (.decompressor u)) ∧
    (∀ n : Fin 32, (s.lane n).state = .fenced → (s.lane n).resetDue = false → (s.lane n).fencedCode ≠ 0 → ∃ s', exec (.unitAutoReturn (.lane n) t) s = .next s' ∧
      if 2 ≤ recentReturns (max s.now t) day (s.lane n).returns then (s'.lane n).fencedCode = 0 ∧ s'.flt = s.flt else (s'.lane n).resetDue = true ∧ s'.flt.windows.head?.map (·.block) = some (.lane n)) ∧
    (∀ n : Fin 32, (s.port n).state = .fenced → (s.port n).fencedCode = 0x0801 → (s.port n).presLow = true → (s.port n).fencedAt + 10000000 ≤ max s.now t → ∃ s', exec (.unitAutoReturn (.headPort n) t) s = .next s' ∧
      if 3 ≤ recentReturns (max s.now t) hour (s.port n).returns then (s'.port n).state = .fenced ∧ (s'.port n).fencedCode = 0
      else (s'.port n).state = .training ∧ (s'.port n).returns = max s.now t :: (s.port n).returns ∧ s'.flt.windows.head?.map (·.block) = some (.headPort n))) ∧
  (∀ p : Fin 16, (s.pennant p).state = .shadow →
    (Detected (s.tick t) 0x0509 p → ∃ s', exec (.unitShadowEnd (.pennant p) false t) s = .next s' ∧ (s'.pennant p).state = .fenced ∧ (s'.pennant p).fencedCode = 0x0509) ∧
    (3 ≤ (s.pennant p).clean → (s.pos.armed = true → 2 ≤ (s.pennant p).matched) → ∃ s', exec (.unitShadowEnd (.pennant p) true t) s = .next s' ∧ s'.pennant p = { s.pennant p with joins := true } ∧ (∀ i, i ≠ p.val → s'.pennant i = s.pennant i) ∧ Only [.now, .render] s s') ∧
    ((s.pennant p).clean < 3 ∨ (s.pos.armed = true ∧ (s.pennant p).matched < 2) → exec (.unitShadowEnd (.pennant p) true t) s = .next (s.tick t))) ∧
  (∀ u : Fin 4, (s.unit u).state = .shadow →
    (Detected (s.tick t) 0x0403 u → ∃ s', exec (.unitShadowEnd (.decompressor u) false t) s = .next s' ∧ (s'.unit u).state = .fenced ∧ (s'.unit u).fencedCode = 0x0403) ∧
    (3 ≤ (s.unit u).clean → ∃ s', exec (.unitShadowEnd (.decompressor u) true t) s = .next s' ∧ s'.unit u = { s.unit u with joins := true } ∧ Only [.now, .codec] s s')) ∧
  ∀ n : Fin 32, (s.lane n).state = .shadow →
    (Detected (s.tick t) 0x0404 n → ∃ s', exec (.unitShadowEnd (.lane n) false t) s = .next s' ∧ (s'.lane n).state = .fenced ∧ (s'.lane n).fencedCode = 0x0404) ∧
    (3 ≤ (s.lane n).clean → ∃ s', exec (.unitShadowEnd (.lane n) true t) s = .next s' ∧ s'.lane n = { s.lane n with joins := true } ∧ Only [.now, .codec] s s')

/-- A dot has one nozzle (R85, R133, R134, R140). The nozzle that prints a column on a line lies in a head that covers the column, at the head column that prints it, and is in service; and there is one for every column that a head
covers, that no head turned off covers, and that is not missing. In a generated stitch zone the right head's column j takes (2j + 1) × 128 div O of every 256 lines. -/
def Obligations.DotHasOneNozzle : Prop :=
  (∀ (ts : TableSet) (c : Nat) (l : Int) (level n r i : Nat), ts.nozzleFor c l level = some (n, r, i) →
    n ∈ ts.geometry.covering c ∧ r < 2 ∧ i = c - (ts.geometry.head n).col0 ∧ ts.out n r i = false) ∧
  (∀ (ts : TableSet) (c : Nat) (l : Int) (level : Nat), ts.geometry.covering c ≠ [] → (ts.geometry.covering c).length ≤ 2 → ts.disabled c = false → ts.missing c = false →
    (ts.nozzleFor c l level).isSome = true) ∧
  ∀ (z : StitchZone) (o j : Nat) (l : Int), z.loaded = false → 0 < o → j < o →
    ((List.range 256).filter fun (n : Nat) => z.bit o j (l + (n : Int))).length = (2 * j + 1) * 128 / o

/-! ## Web position, compare units and firing (chapter 05) -/

/-- Position channels (R142 to R150, R153). An edge is accepted at the end of the F whole cycles of 4 ns that follow the cycle of its sample (their phase is the model's, log 59), keeps the sample's moment as its timestamp, and moves the count as the mode and the invert setting give it: past the extreme it advances, behind it by more than the hysteresis it turns the direction and the speed is lost, and between it only counts; then the
device goes on as POS0 or AX0 ask. Both levels in one sample are an illegal transition: the count stays, and the fourth on POS0 within 1,024 lines stops the firing. The stall time ends the speed. SLIP_CHECK compares
the travels of POS1 and POS0 (the exact difference, by the model's choice, log 58). SET_ENCODER and SET_LINE_PITCH set what they name, with the speed invalid, and restart the reference, for which tick 0 occurs at once; after a SET_ENCODER the print position of AX0 is checked while
printing is armed (R351). -/
def Obligations.PositionChannels : Prop := ∀ (s : State) (t : Nat),
  let u := (s.tick t).advance
  let ends := fun (v w : State) (seq : Nat) => v.zeroTick = ({ v with pos := { v.pos with zeroDue := false } } : State).tickWork 0 ∧
    ∀ x, w.entry? seq = some x → x.state.final = false → w.journal.fences.all (fun w => w.seq != seq) = true → Ended (w.finish seq .ok) seq .ok
  let counts := fun (s' : State) (code : Nat) => Detected u code 0 → countOf s'.flt (s.classOf code) = min (countOf s.flt (s.classOf code) + 1) 255
  (∀ (ch : Fin 6) (a b : Bool),
    let c := s.chan ch
    let illegal := c.a ≠ a ∧ c.b ≠ b ∧ c.set.mode ≠ 3
    let d := if c.set.invert then -(countStep c.set.mode c.a c.b a b) else countStep c.set.mode c.a c.b a b
    let accepted := if c.set.filter = 0 then t else 4 * (t / 4 + c.set.filter) + 3
    let v := ((s.tick accepted).advance).commitUnits
    let s1 := (v.updChan ch fun c => { c with a := a, b := b }).acceptEdge ch d t
    let s2 := if ch.val = 0 then s1.forgetUnits else s1
    let c' := s2.chan ch
    let behind := if c.backward then c.count + d - c.extreme else c.extreme - (c.count + d)
    (illegal → exec (.encoderEdge ch a b t) s = .next v) ∧
    (¬ illegal → d = 0 → ∃ s', exec (.encoderEdge ch a b t) s = .next s' ∧ s'.now = max s.now accepted ∧ s'.chan ch = { c with a := a, b := b } ∧ (∀ n, n ≠ ch.val → s'.chan n = s.chan n) ∧ Only [.now, .pos] s s') ∧
    (¬ illegal → d ≠ 0 → s2.now = max s.now accepted ∧ c'.count = c.count + d ∧ c'.a = a ∧ c'.b = b ∧ c'.set = c.set ∧ (∀ n, n ≠ ch.val → s2.chan n = s.chan n) ∧
      (behind < 0 → c'.extreme = c.count + d ∧ c'.backward = c.backward ∧ c'.counted = c.counted + 1 ∧ c'.stamps = (t :: c.stamps).take 5) ∧
      (0 ≤ behind → behind ≤ c.set.hysteresis → c'.extreme = c.extreme ∧ c'.backward = c.backward ∧ c'.counted = c.counted) ∧
      (0 ≤ behind → c.set.hysteresis < behind → c'.extreme = c.count + d ∧ c'.backward = !c.backward ∧ c'.dirChanges = c.dirChanges + 1 ∧ c'.counted = 0) ∧
      exec (.encoderEdge ch a b t) s = .next (if s.power.phase ≠ .running then (if ch.val = 0 then s2.advance else s2) else if ch.val = 0 then s2.afterEdge else if ch.val = 2 then s2.checkPrintPosition else s2)) ∧
    (¬ illegal → exec (.illegalTransition ch a b t) s = .next u) ∧
    (illegal → ch.val ≠ 0 ∨ (s.pos.illegalAt.filter fun x => decide (u.pos.h ≤ x + 67108864)).length < 3 → ∃ s', exec (.illegalTransition ch a b t) s = .next s' ∧
      s'.chan ch = { c with a := a, b := b, illegal := min 255 (c.illegal + 1) } ∧ Only [.now, .host, .pos, .evt, .out] s s') ∧
    (illegal → ch.val = 0 → 3 ≤ (s.pos.illegalAt.filter fun x => decide (u.pos.h ≤ x + 67108864)).length → s.pos.illegalRaised = false →
      ∃ s', exec (.illegalTransition ch a b t) s = .next s' ∧ s'.pos.stopped = true ∧ s'.pos.pending = [] ∧ counts s' 0x0701) ∧
    (c.stalled = true ∨ max s.now t < c.since + c.set.stallMs * 1000000 → exec (.speedStall ch t) s = .next u) ∧
    (c.stalled = false → c.since + c.set.stallMs * 1000000 ≤ max s.now t → ∃ s', exec (.speedStall ch t) s = .next s' ∧ s'.chan ch = { c with stamps := [], counted := 0, stalled := true } ∧
      (s'.chan ch).valid = false ∧ Only [.now, .pos] s s')) ∧
  (s.pos.tick % 16 ≠ 0 ∨ s.pos.tick = s.pos.slipTick → exec (.slipCheck t) s = .next u) ∧
  (s.pos.tick % 16 = 0 → s.pos.tick ≠ s.pos.slipTick →
    let c := s.chan 1
    let slip : Int := (c.travel s.pos.lpi (c.count - s.pos.slipCount) - (s.pos.tick - s.pos.slipTick) * 4194304).natAbs
    (c.set.slipWarn = 0 ∨ c.set.slipStop = 0 ∨ s.power.phase ≠ .running ∨ (slip ≤ c.set.slipWarn * 4096 ∧ slip ≤ c.set.slipStop * 4096) → exec (.slipCheck t) s =
      .next { u with pos := { u.pos with slipTick := s.pos.tick, slipCount := c.count } }) ∧
    (c.set.slipWarn ≠ 0 → c.set.slipStop ≠ 0 → s.power.phase = .running → c.set.slipWarn * 4096 < slip → slip ≤ c.set.slipStop * 4096 → ∃ s', exec (.slipCheck t) s = .next s' ∧
      (s'.chan 1).slip = c.slip ||| 1 ∧ s'.pos.slipTick = s.pos.tick ∧ Only [.now, .host, .pos, .evt, .out] s s') ∧
    (c.set.slipWarn ≠ 0 → c.set.slipStop ≠ 0 → s.power.phase = .running → c.set.slipStop * 4096 < slip → ∃ s', exec (.slipCheck t) s = .next s' ∧ s'.pos.stopped = true ∧ s'.pos.pending = [] ∧ counts s' 0x0703)) ∧
  (∀ seq e, Runs s t seq 0x0501 false e → Checked encoderChecks s t e →
    ∃ v, exec (.setEncoder seq t) s = .next (v.zeroTick.checkPrintPosition.finish seq .ok) ∧ (v.chan (e.p8 0)).set = encoderOf e ∧ (v.chan (e.p8 0)).backward = false ∧ (v.chan (e.p8 0)).valid = false ∧
      (v.chan (e.p8 0)).count = (s.chan (e.p8 0)).count ∧ (∀ n, n ≠ e.p8 0 → v.chan n = s.chan n) ∧ (2 ≤ e.p8 0 → (v.axis (e.p8 0 - 2)).homed = false) ∧
      (e.p8 0 ≠ 0 → s.pos.zeroDue = false → v.zeroTick = v ∧ ((v.pos.armed && !v.axisReady) = false → v.checkPrintPosition = v ∧ Ended (v.finish seq .ok) seq .ok)) ∧ (e.p8 0 ≠ 0 → Only [.now, .host, .journal, .pos, .axes, .out] s v) ∧
      (e.p8 0 = 0 → v.pos.h = 0 ∧ v.pos.tick = 0 ∧ v.pos.cOrg = (s.chan 0).count ∧ v.loop.history = [] ∧ ends v v.zeroTick.checkPrintPosition seq ∧ Only [.now, .host, .journal, .pos, .heads, .loop, .ring, .out] s v)) ∧
  ∀ seq e, Runs s t seq 0x0502 false e → Checked pitchChecks s t e → s.power.mode ≠ .hb8 → ∃ v, exec (.setLinePitch seq t) s = .next (v.zeroTick.finish seq .ok) ∧ v.pos.lpi = e.p16 0 ∧ v.pos.h = 0 ∧
    v.pos.tick = 0 ∧ v.pos.cOrg = (s.chan 0).count ∧ (v.chan 0).valid = false ∧ (v.chan 1).valid = false ∧ v.loop.history = [] ∧
    (∀ r, r < 64 → Tbl.get 0 v.lines.q r = if (s.lines.geometry.head (r / 2)).present then rowDelay (e.p16 0) (s.distOf r) else 0) ∧
    ends v v.zeroTick seq ∧ Only [.now, .host, .journal, .lines, .pos, .heads, .loop, .ring, .cal, .out] s v

/-- Compare units (R162 to R166). A SET_COMPARE with no firing committed takes effect at once: a target above H waits; one at or below it is missed, a periodic one moving by whole periods to the first above H, or, with catch-up 1, fires now. It completes with
OK, 1 for missed and 2 for caught, or runs on to the firing where it asks for that. Behind a committed firing it waits. A firing predicted 512 ns ahead or less is committed, and does not move any more. COMPARE_FIRE fires a unit whose committed moment, or, with none committed, whose target has come, completes what asked for it with the time and the line, and drives its pin; a pulse ends after its width. -/
def Obligations.CompareUnits : Prop := ∀ (s : State) (t : Nat),
  let u := (s.tick t).advance
  let w := u.commitUnits
  (∀ seq e, Runs s t seq 0x0503 false e → Checked compareChecks s t e →
    let c := compareOf seq e
    let n := e.p8 0
    let late := c.mode ≠ 0 ∧ c.target * 256 ≤ u.pos.h
    (w.firingCommitted n = false → (s.cmp n).openSeq ≠ some seq → ∃ s', exec (.setCompare seq t) s = .next s' ∧
      (¬ late → (s'.cmp n).set = c ∧ (s'.cmp n).live = (c.mode != 0) ∧ (s'.cmp n).missed = false ∧ (s'.cmp n).caught = false ∧ (s'.cmp n).committed = none) ∧
      (late → c.catchUp = 0 → (s'.cmp n).missed = true ∧ (s'.cmp n).live = (c.mode == 2) ∧ (c.mode = 1 → (s'.cmp n).set = c) ∧
        (c.mode = 2 → u.pos.h < (s'.cmp n).set.target * 256 ∧ (s'.cmp n).set.target * 256 ≤ u.pos.h + c.period * 65536 ∧ ((s'.cmp n).set.target - c.target) % (256 * c.period) = 0)) ∧
      (late → c.catchUp = 1 → (s'.cmp n).set = c ∧ (s'.cmp n).live = true ∧ (s'.cmp n).caught = true ∧ (s'.cmp n).committed = some (50 * (max s.now t : Nat))) ∧
      (if c.actions.getLsbD 1 = true ∧ c.mode ≠ 0 ∧ ¬ (late ∧ c.catchUp = 0) then InProgress s' seq ∧ (s'.cmp n).openSeq = some seq
        else Ended s' seq .ok (if late ∧ c.catchUp = 0 then 1 else if late then 2 else 0))) ∧
    (w.firingCommitted n = true → ∃ s', exec (.setCompare seq t) s = .next s' ∧ s'.cmp n = { w.cmp n with next := (s.cmp n).next ++ [c] } ∧
      (s'.entry? seq).map (·.state) = some (if c.actions.getLsbD 1 then .accepted else .running) ∧ Only [.now, .host, .journal, .pos, .out] s s')) ∧
  (∀ n : Fin 16,
    let x := w.cmp n
    let due := x.live = true ∧ ((∃ f, x.committed = some f ∧ f ≤ 50 * (max s.now t : Nat)) ∨ (x.committed = none ∧ x.set.target * 256 ≤ u.pos.h))
    (∀ c, (s.cmp n).committed = some c → x = s.cmp n) ∧
    (∀ a, (s.cmp n).live = true → (s.cmp n).committed = none → (s.cmp n).instant = some a → (s.chan 0).valid = true → a ≤ ((max s.now t : Nat) : Rat) + 512 →
      x = { s.cmp n with committed := some (roundHalfUp (a * 50)) }) ∧
    (¬ due → exec (.compareFire n t) s = .next w) ∧
    (due → x.next = [] → ∃ s', exec (.compareFire n t) s = .next s' ∧ (s'.cmp n).live = (x.set.mode == 2) ∧ (s'.cmp n).committed = none ∧ (s'.cmp n).openSeq = none ∧
      (x.caught = false → (s'.cmp n).set = { x.set with target := if x.set.mode = 2 then x.set.target + 256 * x.set.period else x.set.target }) ∧
      (∀ q, x.openSeq = some q → Running s q → Ended s' q .ok (w32 (2 * b2n x.caught)) (w32 (max s.now t)) (w32i ((u.pos.h + 32768).fdiv 65536))) ∧
      (x.set.actions.getLsbD 0 = true → s.power.mode ≠ .hb8 → (Tbl.get {} s.host.msix 10).masked = false → s.canSend = true → Out.msix 10 ∈ s'.out) ∧
      (x.set.actions.getLsbD 2 = true → (Tbl.get {} s'.pos.pins x.set.pin).pulses = (Tbl.get {} s.pos.pins x.set.pin).pulses ++ [max s.now t + 100 * x.set.width]))) ∧
  ∀ n : Fin 4,
    let p := Tbl.get {} s.pos.pins n.val
    let left := p.pulses.filter fun e => decide (max s.now t < e)
    (p.pulses = [] → exec (.comparePulseEnd n t) s = .next u) ∧
    (p.pulses ≠ [] → ∃ s', exec (.comparePulseEnd n t) s = .next s' ∧ Tbl.get {} s'.pos.pins n.val = { p with pulses := left } ∧
      (left = [] → Out.comparePin n p.inactiveHigh ∈ s'.out) ∧ (left ≠ [] → s'.out = s.out) ∧ Only [.now, .pos, .out] s s')

/-- Stop inputs, arming and disarming (R172 to R175, R322). STOP_N low disarms at once and stays noted; PRINT_INHIBIT_N low is noted, and high again takes up the row-lines whose position lies above H. ARM_PRINT, where every check of R172 passes, arms with the hoist
(H div 64 lines) + lead + 2, empty delay lines and allocations fixed, while an immediate disarm still in progress goes on to its last committed instant; else it ends with the status of the first check that fails. DISARM_PRINT ends at once if printing is not armed; in the immediate form nothing more is committed, and it ends when every committed instant
has been carried out; in the end-of-page form printing stays armed while a page is being printed. -/
def Obligations.ArmAndStop : Prop := ∀ (s : State) (t : Nat),
  let u := (s.tick t).advance
  (s.power.phase = .running → ∃ s', exec (.stopNLow t) s = .next s' ∧ s'.pos.stopN = false ∧ s'.pos.armed = false ∧ (s.pos.armed = true → s'.pos.pending = []) ∧ s'.pos.committed = s.pos.committed) ∧
  (s.power.phase ≠ .running → exec (.stopNLow t) s = .next { u with pos := { u.pos with stopN := false } }) ∧
  (s.power.rearm = false → s.hb.waitArm = false → exec (.stopNHigh t) s = .next { u with pos := { u.pos with stopN := true } }) ∧
  exec (.printInhibitLow t) s = .next { u with pos := { u.pos with inhibitN := false } } ∧
  (∃ s', exec (.printInhibitHigh t) s = .next s' ∧ s'.pos.inhibitN = true ∧ s'.pos.armed = s.pos.armed ∧ s'.pos.committed = s.pos.committed ∧ ∀ x ∈ s'.pos.pending, x ∈ s.pos.pending ∧ u.pos.h < x.position) ∧
  (∀ seq e, u.startable seq 0x0505 = some e → s.journal.fences.all (fun w => w.seq != seq) = true → seq ∉ s.pos.disarmSeqs →
    (∀ d ∈ s.pos.lateDisarms, d.seq ≠ seq) →
    (u.armRefusal = none → ∃ s', exec (.armPrint seq t) s = .next s' ∧ s'.pos.armed = true ∧ s'.pos.armHoist = (u.pos.h.fdiv 65536).fdiv 64 + s.leadInForce + 2 ∧ s'.pos.stopped = false ∧ s'.pos.pending = [] ∧
      s'.pos.disarming = none ∧ s'.render.hoists = [] ∧ s'.lines.delay = [] ∧ s'.lines.changes = [] ∧ (∀ r, r < 64 → Tbl.get 0 s'.lines.alloc r = s.armAlloc r (Tbl.get 0 s'.lines.q r)) ∧
      Ended s' seq .ok 0 (w32i s'.pos.armHoist)) ∧
    (∀ st l, u.armRefusal = some (st, l) → ∃ s', exec (.armPrint seq t) s = .next s' ∧ Ended s' seq st (w32 l.detail) (w32 l.word) ∧ s'.pos = u.pos)) ∧
  ∀ seq e, Runs s t seq 0x0506 false e → e.p8 0 ≤ 1 →
    (s.pos.armed = false → ∃ s', exec (.disarmPrint seq t) s = .next s' ∧ s'.pos.armed = false ∧ Ended s' seq .ok ∧ Only [.now, .host, .journal, .power, .pos, .out] s s') ∧
    (s.pos.armed = true → e.p8 0 = 1 → s.pos.committed = [] → ∃ s', exec (.disarmPrint seq t) s = .next s' ∧ s'.pos.armed = false ∧ s'.pos.pending = [] ∧ s'.pos.disarming = none ∧
      (s'.entry? seq).map (fun x => (x.state, x.status)) = some (.done, 0)) ∧
    (s.pos.armed = true → e.p8 0 = 1 → s.pos.committed ≠ [] → (∀ c ∈ s.lines.changes, c.seq ≠ seq) → (∀ d ∈ s.pos.lateDisarms, d.seq ≠ seq) → ∃ s', exec (.disarmPrint seq t) s = .next s' ∧ s'.pos.armed = false ∧ s'.pos.pending = [] ∧
      s'.pos.disarming = some .immediate ∧ s'.pos.committed = s.pos.committed ∧ InProgress s' seq) ∧
    (∀ p ∈ s.store.pages, s.pos.armed = true → e.p8 0 = 0 → p.state = .printing → p.first.any s.windowOpened = true → (∀ d ∈ s.pos.lateDisarms, d.seq ≠ seq) → ∃ s', exec (.disarmPrint seq t) s = .next s' ∧ s'.pos.armed = true ∧
      s'.pos.disarming = some .endOfPage ∧ p ∈ s'.store.pages ∧ InProgress s' seq)

/-- Ticks and fire instants (R17, R28, R38, R129, R154, R156 to R158, R160, R201). Line steps, hoist ticks, timebase ticks and governor periods come no earlier than H or the time allows, and then do the work of the step in its order; tick 0 occurs at once when the reference restarts, and a predictor step whose STATUS has not come within 10 µs is made without it. A row's delay line gives back the line written
d lines before. FIRE_COMMIT, no earlier than 512 ns and the lead before the instant predicted, commits the row-line if it may be fired, at least 160 ns and the lead ahead, and else takes it as never fired; FIRE_INSTANT carries the committed instant out; ROW_LINE_LATE puts level 0 in the place of data
that has not come 160 ns before the instant, with fault 0x0605. -/
def Obligations.TicksAndFireInstants : Prop := ∀ (s : State) (t : Nat),
  let u := (s.tick t).advance
  let y := u.zeroTick
  let z := y.settleMissing
  let m := u.settleMissing
  (∀ bad, u.pos.h < (s.pos.line + 1) * 65536 ∨ s.pos.tick < (s.pos.line + 1).fdiv 64 → exec (.lineStep bad t) s = .next u) ∧
  (∀ bad, (s.pos.line + 1) * 65536 ≤ u.pos.h → (s.pos.line + 1).fdiv 64 ≤ s.pos.tick → s.power.phase = .running →
    let s2 := ({ u with pos := { u.pos with line := s.pos.line + 1 } } : State).resolveDelays
    let s3 := if s.pos.armed then s.lines.geometry.rows.foldl (fun x r => x.stepRow bad (s.pos.line + 1) r) s2 else s2
    exec (.lineStep bad t) s = .next (((if (s.pos.line + 1) % 64 = 0 then s3.switchSerial else s3).missPassed).passLegacy).settleWeb) ∧
  (∀ r l, r < 64 → s.lines.changes = [] → 0 < (Tbl.get 0 s.lines.q r).fdiv 256 → s.dueLines r l = [l + 1 - (Tbl.get 0 s.lines.q r).fdiv 256] ∧
    (s.writeDelay r l).readDelay r l = (s.hoistAt l).map (fun h => h.rowBytes r l) ∧
    (∀ m, s.slotIn r m ≠ s.slotIn r l → (s.writeDelay r l).readDelay r m = s.readDelay r m) ∧ ∀ q m, q ≠ r → (s.writeDelay r l).readDelay q m = s.readDelay q m) ∧
  (s.pos.zeroDue = false → y = u) ∧ (s.pos.zeroDue = true → y = ({ u with pos := { u.pos with zeroDue := false } } : State).tickWork 0) ∧
  (z.pos.h < (z.pos.tick + 1) * 4194304 ∨ z.pos.line + 1 < 64 * (z.pos.tick + 1) → exec (.hoistTick t) s = .next z) ∧
  ((z.pos.tick + 1) * 4194304 ≤ z.pos.h → 64 * (z.pos.tick + 1) ≤ z.pos.line + 1 → exec (.hoistTick t) s = .next (z.tickWork (z.pos.tick + 1))) ∧
  (∀ k, s.power.phase ≠ .running → (s.tickWork k).pos.tick = k ∧ (s.tickWork k).pos.tickAt = s.now ∧
    (k ≠ 0 → (s.tickWork k).loop.history.head?.map (fun p => (p.k, p.unreadable)) = some (k - 1, true)) ∧ Only [.loop, .pos] s (s.tickWork k)) ∧
  (∀ k, s.power.phase = .running →
    let s2 := (((({ s with pos := { s.pos with tick := k }, store := s.store.countHorizons } : State)).resolveDelays).tickHoists k).shadowTick
    let s3 := if k = 0 then s2.openPeriod 0 (s2.outNozzles 0) else (s2.closePeriod (k - 1) (s2.outNozzles (k - 1))).openPeriod k (s2.outNozzles k)
    let s4 := (List.range 32).foldl (fun x n => x.portTick n (some (k - 1))) s3
    let s5 : State := { s4 with pos := { s4.pos with tickAt := s4.now, hoistTickAt := s4.now } }
    s.tickWork k = (if s5.firmwareRuns then s5.govern.settleWeb else s5.settleWeb).settleHeadResets.linksTick ∧ s2.pos.tick = k ∧
    (s.pos.armed = true → s.classOf 0x0507 < 3 → (∀ h ∈ s2.render.hoists, k ≤ h.k) ∧ ∀ h ∈ s2.render.hoists, h.k = k → h.draining = true)) ∧
  (∀ p ∈ s.store.pages, p.state = .fired → { p with horizon := p.horizon.map (· + 1) } ∈ s.store.countHorizons.pages) ∧
  (z.now < z.pos.tickAt + 213333 → exec (.timebaseTick t) s = .next z) ∧
  (z.power.phase = .running → z.pos.tickAt + 213333 ≤ z.now →
    let s1 := (List.range 32).foldl (fun x n => x.portTick n none) z
    let s2 : State := { s1 with pos := { s1.pos with tickAt := s1.now } }
    exec (.timebaseTick t) s = .next ((if (s2.chan 0).valid then s2 else s2.switchSerial).tryArm).settleHeadResets.linksTick) ∧
  (max s.now t < max s.pos.hoistTickAt s.heads.governor.ranAt + 1000000 → exec (.governorPeriod t) s = .next (s.tick t)) ∧
  (s.firmwareRuns = true → max s.pos.hoistTickAt s.heads.governor.ranAt + 1000000 ≤ max s.now t → exec (.governorPeriod t) s =
    .next ({ s.tick t with heads := { s.heads with governor := { s.heads.governor with ranAt := max s.now t } } } : State).govern) ∧
  exec (.firePredict t) s = .next u.predictAll ∧ (∀ x ∈ u.predictAll.pos.pending, ∃ y ∈ s.pos.pending, (x.row, x.line, x.position) = (y.row, y.line, y.position)) ∧
  ∀ (r : Fin 64) (l : Int),
  (∀ x a, s.pos.pending.find? (fun x => x.row == r.val && x.line == l) = some x → x.instant = some a →
    let v := m.checkOverspeed.checkHeadRate
    (((max s.now t : Nat) : Rat) + 512 + m.lead (r.val / 2) < a → exec (.fireCommit r l t) s = .next m) ∧
    (a ≤ ((max s.now t : Nat) : Rat) + 512 + m.lead (r.val / 2) → v.fireable x = true → ∃ s' c, exec (.fireCommit r l t) s = .next s' ∧ s'.pos.committed = v.pos.committed ++ [c] ∧
      (c.row, c.line, c.position) = (x.row, x.line, x.position) ∧ c.f = roundHalfUp ((if a < ((max s.now t : Nat) : Rat) + 160 + v.lead (x.row / 2) then ((max s.now t : Nat) : Rat) + 160 + v.lead (x.row / 2) else a) * 50) ∧
      ∀ y ∈ s'.pos.pending, ¬ (y.row = x.row ∧ y.line = x.line)) ∧
    (a ≤ ((max s.now t : Nat) : Rat) + 512 + m.lead (r.val / 2) → v.fireable x = false → ∃ s', exec (.fireCommit r l t) s = .next s' ∧ s'.pos.committed = v.pos.committed ∧
      ∀ y ∈ s'.pos.pending, ¬ (y.row = x.row ∧ y.line = x.line))) ∧
  ∀ c, s.pos.committed.find? (fun c => c.row == r.val && c.line == l) = some c →
    ((max s.now t : Int) * 50 < c.f → exec (.fireInstant r l t) s = .next u) ∧
    (c.f ≤ (max s.now t : Int) * 50 → ∃ s', exec (.fireInstant r l t) s = .next s' ∧ s'.pos.committed = s.pos.committed.filter fun x => !(x.row == r.val && x.line == l)) ∧
    ((s.port (r.val / 2)).holds (r.val % 2) l = false → c.f ≤ ((max s.now t : Int) + 160) * 50 → ∃ s', exec (.rowLineLate r l t) s = .next s' ∧
      { row := r.val % 2, line := l, bytes := List.replicate (256 * s.depth) 0, lost := true } ∈ (s'.port (r.val / 2)).sent ∧
      (Detected u 0x0605 (r.val / 2) → countOf s'.flt (s.classOf 0x0605) = min (countOf s.flt (s.classOf 0x0605) + 1) 255))

/-! ## Head links and heads (chapter 06) -/

/-- Head ports from presence to service (R187, R189, R190, R192, R206 to R211, R323). A presence change is kept with its moment, and a port with no head is in the present state, but for HP8 to HP31 in HB-8 mode (R488); after 10 ms the bring-up starts with TS1 on both lanes, and a head gone for 10 ms leaves the port
absent. HEAD_BRINGUP starts the same steps and runs on. TS1 brings sixteen TS2 pings, the sixteenth reply gives the link delay, and two sides that both have 6.25 Gb/s switch to it and repeat TS1 there, the head's TS1 leading on to the SYNC; a step past its limit falls back, goes over to the two-wire bus, or ends its attempt,
and the fourth ends the bring-up. In factory test mode and in standby no head port is driven (R7, R435): nothing is sent, and no bring-up starts of itself. A valid record is held; an invalid one read in-band is read over the two-wire bus. A shadow of two clean hoists names the hoist of its return. READ_HEAD_RECORD gives the record. -/
def Obligations.HeadBringupSteps : Prop := ∀ (s : State) (p : Fin 32) (t : Nat),
  let x := s.port p
  let now := max s.now t
  let alone := fun (s' : State) => ∀ n, n ≠ p.val → s'.port n = s.port n
  let block := fun (kind : Nat) (fields : List Byte) => Out.headBlock p (controlBlock kind fields)
  let free := s.power.phase = .running ∧ portsFree s
  let driven := s.power.mode ≠ .factory ∧ s.power.standby = false
  (∀ pres, let starts := pres = true ∧ x.state = .absent ∧ ¬ (s.power.mode = .hb8 ∧ 8 ≤ p.val);
    (x.presLow = pres → exec (.headPresenceChange p pres t) s = .next (s.tick t)) ∧
    (x.presLow ≠ pres → ∃ s', exec (.headPresenceChange p pres t) s = .next s' ∧ s'.port p = { x with
      presLow := pres, presSince := now, state := if starts then .present else x.state, step := if starts then 1 else x.step } ∧
      alone s' ∧ Only [.now, .heads] s s')) ∧
  (¬ (x.state = .present ∧ x.presLow = true ∧ x.presSince + 10000000 ≤ now) ∨ ¬ driven → exec (.presenceDebounceDone p t) s = .next (s.tick t)) ∧
  (x.state = .present → x.presLow = true → x.presSince + 10000000 ≤ now → free → driven → ∃ s', exec (.presenceDebounceDone p t) s = .next s' ∧ (s'.port p).state = .training ∧ (s'.port p).step = 2 ∧
    (s'.port p).stepAt = now ∧ (s'.port p).attempts = 1 ∧ (s'.port p).legacy = (s.power.mode == .hb8 && decide (p.val < 8)) ∧ (s'.port p).through = (has 0 s.evt.openers || s.power.mode == .hb8) ∧
    ((s'.port p).legacy = false → ∀ lane, lane ∈ [0, 1] → block 0x70 [BitVec.ofNat 8 lane, BitVec.ofNat 8 p.val, 1] ∈ s'.out) ∧ alone s' ∧ Only [.now, .host, .heads, .evt, .out] s s') ∧
  (x.presLow = true ∨ x.state = .absent ∨ now < x.presSince + 10000000 → exec (.headAbsent p t) s = .next (s.tick t)) ∧
  (x.presLow = false → x.state ≠ .absent → x.presSince + 10000000 ≤ now → portsFree s → ∃ s', exec (.headAbsent p t) s = .next s' ∧ (s'.port p).state = .absent ∧ (s'.port p).record = none ∧
    (s'.port p).noCommit = true ∧ (s'.port p).bringupSeq = none ∧ (s'.port p).test = none ∧ (s'.port p).retiring = none ∧
    (∀ q, x.bringupSeq = some q → x.test = none → x.load = none → x.retiring = none → Running s q → Ended s' q .unitFenced 0 (w32 0) (wordAt (x.record.getD []) 8) (w32 (b2n x.rate6))) ∧
    alone s' ∧ Only [.now, .host, .journal, .heads, .out] s s') ∧
  (∀ seq e, Runs s t seq 0x0601 false e → Checked headBringupChecks s t e → ∃ s', exec (.headBringup seq t) s = .next s' ∧ InProgress s' seq ∧ (s'.port (e.p8 0)).state = .training ∧
    (s'.port (e.p8 0)).step = 2 ∧ (s'.port (e.p8 0)).bringupSeq = some seq ∧ (s'.port (e.p8 0)).attempts = 1 ∧ (s'.port (e.p8 0)).limitRate = bitOf (e.p8 1) 0 ∧ (s'.port (e.p8 0)).through = true ∧
    (∀ n, n ≠ e.p8 0 → s'.port n = s.port n) ∧ Only [.now, .host, .journal, .heads, .out] s s') ∧
  (∀ (turnaround : BitVec 16) (r6 : Bool), (x.state ≠ .training ∨ (x.step ≠ 2 ∧ ¬ (x.step = 4 ∧ x.rate6 = true)) ∨ x.legacy = true → exec (.headTs1 p turnaround r6 t) s = .next (s.tick t)) ∧
    (x.state = .training → x.step = 4 → x.rate6 = true → x.legacy = false → free → ∃ s', exec (.headTs1 p turnaround r6 t) s = .next s' ∧ (s'.port p).step = 5 ∧ (s'.port p).stepAt = now ∧
      (s'.port p).state = .training ∧ (s'.port p).rate6 = true ∧ alone s' ∧ Only [.now, .heads, .out] s s') ∧
    (x.state = .training → x.step = 2 → x.legacy = false → free → ∃ s', exec (.headTs1 p turnaround r6 t) s = .next s' ∧ s'.port p = { x with
      step := 3, stepAt := now, pings := [], turnaround := turnaround.toNat, headRate6 := r6 } ∧ s'.out = (if driven then List.replicate 16 (block 0x72 [0]) else []) ++ s.out ∧ alone s' ∧ Only [.now, .heads, .out] s s')) ∧
  (∀ rt : Nat, (x.state ≠ .training ∨ x.step ≠ 3 → exec (.headTs2 p rt t) s = .next (s.tick t)) ∧
    (x.state = .training → x.step = 3 → free →
      (x.pings.length < 15 → ∃ s', exec (.headTs2 p rt t) s = .next s' ∧ s'.port p = { x with pings := x.pings ++ [rt] } ∧ alone s' ∧ Only [.now, .heads] s s') ∧
      (15 ≤ x.pings.length → ∃ s', exec (.headTs2 p rt t) s = .next s' ∧
        (s'.port p).delta = (divHalfUp (((x.pings ++ [rt]).sum : Nat) - ((256 * x.turnaround : Nat) : Int)) 32).toNat ∧
        (s'.port p).step = (if x.headRate6 = true ∧ x.limitRate = false then 4 else 5) ∧ (s'.port p).stepAt = now ∧ alone s' ∧ Only [.now, .heads, .out] s s'))) ∧
  (∀ ok, (x.state ≠ .training ∨ x.step ≠ 4 → exec (.headRateSwitch p ok t) s = .next (s.tick t)) ∧
    (x.state = .training → x.step = 4 → free →
      (ok = false → ∃ s', exec (.headRateSwitch p ok t) s = .next s' ∧ (s'.port p).rate6 = false ∧ (s'.port p).step = 5 ∧ (s'.port p).state = .training ∧ alone s' ∧
        Only [.now, .host, .heads, .evt, .out] s s') ∧
      (ok = true → x.rate6 = true → exec (.headRateSwitch p ok t) s = .next (s.tick t)) ∧
      (ok = true → x.rate6 = false → ∃ s', exec (.headRateSwitch p ok t) s = .next s' ∧ s'.port p = { x with rate6 := true } ∧
        (driven → ∀ lane, lane ∈ [0, 1] → block 0x70 (leBytes 1 lane ++ leBytes 1 p.val ++ leBytes 1 (b2n (!x.limitRate))) ∈ s'.out) ∧ alone s' ∧ Only [.now, .heads, .out] s s'))) ∧
  (let due := fun limit => (x.state = .training ∨ x.state = .record) ∧ x.legacy = false ∧ x.stepAt + limit ≤ now;
    (∀ limit, stepLimit x.step = some limit → ¬ due limit → exec (.headBringupStepTimeout p t) s = .next (s.tick t)) ∧
    (stepLimit x.step = none → exec (.headBringupStepTimeout p t) s = .next (s.tick t)) ∧
    (∀ limit, stepLimit x.step = some limit → due limit → free →
      (x.step = 6 → x.inBandFailed = false → ∃ s', exec (.headBringupStepTimeout p t) s = .next s' ∧ s'.port p = { x with state := .record, step := 6, stepAt := now, inBandFailed := true } ∧
        (driven → Out.twoWire (p.val / 8) (0x50 + p.val % 8) 0 ∈ s'.out) ∧ alone s' ∧ Only [.now, .heads, .out] s s') ∧
      (x.step = 4 → ∃ s', exec (.headBringupStepTimeout p t) s = .next s' ∧ (s'.port p).rate6 = false ∧ (s'.port p).step = 5 ∧ alone s') ∧
      (x.step ≠ 4 → x.step ≠ 6 → x.attempts < 4 → ∃ s', exec (.headBringupStepTimeout p t) s = .next s' ∧ s'.port p = { x with step := 0, stepAt := now } ∧ alone s' ∧ Only [.now, .heads] s s') ∧
      (x.step ≠ 4 → x.step ≠ 6 → 4 ≤ x.attempts → ∃ s', exec (.headBringupStepTimeout p t) s = .next s' ∧ (s'.port p).state = .failed ∧ (s'.port p).bringupSeq = none ∧ alone s' ∧
        ∀ q, x.bringupSeq = some q → Running s q → Ended s' q .unitFenced 0 (w32 9) (wordAt (x.record.getD []) 8) (w32 (b2n x.rate6))))) ∧
  (x.state ≠ .training ∨ x.step ≠ 0 ∨ now < x.stepAt + 1000000 → exec (.headBringupRetry p t) s = .next (s.tick t)) ∧
  (x.state = .training → x.step = 0 → x.stepAt + 1000000 ≤ now → free → ∃ s', exec (.headBringupRetry p t) s = .next s' ∧ (s'.port p).step = 2 ∧ (s'.port p).attempts = x.attempts + 1 ∧
    (s'.port p).bringupSeq = x.bringupSeq ∧ alone s' ∧ Only [.now, .heads, .out] s s') ∧
  (x.state ≠ .training ∨ x.legacy = false ∨ now < x.stepAt + 1000000 → exec (.legacyTrainingDone p t) s = .next (s.tick t)) ∧
  (x.state = .training → x.legacy = true → x.stepAt + 1000000 ≤ now → free → ∃ s', exec (.legacyTrainingDone p t) s = .next s' ∧
    s'.port p = { x with state := .record, step := 6, stepAt := now, inBandFailed := true } ∧ (driven → Out.twoWire (p.val / 8) (0x50 + p.val % 8) 0 ∈ s'.out) ∧ alone s' ∧ Only [.now, .heads, .out] s s') ∧
  (∀ data : List Byte,
    (x.state ≠ .record ∨ x.step ≠ 6 ∨ x.inBandFailed = true → exec (.headRecord p data t) s = .next (s.tick t)) ∧
    (x.state ≠ .record ∨ x.step ≠ 6 ∨ x.inBandFailed = false → exec (.twoWireReadDone p data t) s = .next (s.tick t)) ∧
    (x.state = .record → x.step = 6 → free →
      (x.inBandFailed = false → recordValid data = true → ∃ s', exec (.headRecord p data t) s = .next s' ∧ (s'.port p).record = some (data.take (leAt data 6 2)) ∧ (s'.port p).recordTwoWire = false ∧
        (s'.port p).hard = sleAt (data.take (leAt data 6 2)) 50 2 ∧ (s'.port p).soft = (s'.port p).hard - 80) ∧
      (x.inBandFailed = false → recordValid data = false → ∃ s', exec (.headRecord p data t) s = .next s' ∧
        s'.port p = { x with state := .record, step := 6, stepAt := now, inBandFailed := true } ∧ (driven → Out.twoWire (p.val / 8) (0x50 + p.val % 8) 0 ∈ s'.out) ∧ alone s' ∧ Only [.now, .heads, .out] s s') ∧
      (x.inBandFailed = true → x.legacy = false → recordValid data = true → ∃ s', exec (.twoWireReadDone p data t) s = .next s' ∧ (s'.port p).record = some (data.take (leAt data 6 2)) ∧
        (s'.port p).recordTwoWire = true) ∧
      (x.inBandFailed = true → x.legacy = true → recordValid data = false → ∃ s', exec (.twoWireReadDone p data t) s = .next s' ∧ (s'.port p).record = none ∧ (s'.port p).state = .inService ∧
        (s'.port p).hard = (s.hb.tLimit.toNat : Int)) ∧
      (x.inBandFailed = true → x.legacy = false → recordValid data = false → ∃ s', exec (.twoWireReadDone p data t) s = .next s' ∧ (s'.port p).state = .failed ∧ alone s'))) ∧
  (x.state ≠ .shadow → exec (.headShadowEnd p t) s = .next (s.tick t)) ∧
  (x.state = .shadow → free →
    (s.pos.armed = false → ∃ s', exec (.headShadowEnd p t) s = .next s' ∧ (s'.port p).state = .inService ∧ (s'.port p).noCommit = false ∧ alone s') ∧
    (s.pos.armed = true → 2 ≤ x.clean → x.joinHoist = none → ∃ s', exec (.headShadowEnd p t) s = .next s' ∧ s'.port p = { x with joinHoist := some s.nextWindow } ∧ alone s' ∧ Only [.now, .heads] s s') ∧
    (s.pos.armed = true → x.clean < 2 ∨ x.joinHoist.isSome = true → exec (.headShadowEnd p t) s = .next (s.tick t))) ∧
  ∀ seq out fresh e, Runs s t seq 0x0603 true e → Checked (readRecordChecks out fresh) s t e → ∃ s', exec (.readHeadRecord seq out fresh t) s = .next s' ∧
    (∀ l, s.recordFrom e fresh = some l → Out.buffer seq 0 l ∈ s'.out ∧ Ended s' seq .ok 0 (w32 l.length) (w32 (e.p8 13))) ∧ Only [.now, .host, .journal, .out] s s'

/-- Heads that run (R184, R186, R195, R198 to R200, R205 to R209, R211). HEAD_RETIRE ends at once on a port that fires nothing, drains or stops commits otherwise; LOAD_WAVEFORM keeps its set and runs on where heads take it, each loading the bank not in use; SET_THERMAL_LIMITS
sets its limits; NOZZLE_TEST runs until every result is in, and waits while DMA is stopped. A temperature at the hard limit fences with a thermal stop, a head in service or in bring-up and one just taken out of service. An ECHO that differs fences, one that matches counts. A NAK is counted and its row-line sent once more, or lost. An ACK ends a load's wait, the SYNC of step 5, and the SYNC of the
recovery from a warm reset; the second wait past 5 ms fences. A failed link fences, and in a warm reset is kept for the recovery (R450). A fence is made unless a reaction window shadows its fault (R380). -/
def Obligations.HeadsInService : Prop := ∀ (s : State) (p : Fin 32) (t : Nat),
  let x := s.port p
  let now := max s.now t
  let alone := fun (s' : State) => ∀ n, n ≠ p.val → s'.port n = s.port n
  let free := s.power.phase = .running ∧ portsFree s
  let driven := s.power.mode ≠ .factory ∧ s.power.standby = false
  let fencedWith := fun (s' : State) (code : Nat) => (s'.port p).state = .fenced ∧ (s'.port p).fencedCode = code ∧ (s'.port p).noCommit = true ∧ (s'.port p).load = none ∧
    (∀ y ∈ s'.pos.pending, y.row / 2 ≠ p.val) ∧ alone s'
  let found := fun (code : Nat) => Detected (s.tick t) code p
  let cooled := fun (s' : State) (n : Nat) => ∀ k, k ∈ s'.heads.governor.thermal ↔ k ≠ n ∧ k ∈ s.heads.governor.thermal
  (∀ seq e, Runs s t seq 0x0602 false e → Checked headRetireChecks s t e →
    let n := e.p8 0
    let before := ((s.port n).retiring.map (·.seqs)).getD []
    ((s.port n).state = .retired → ∃ s', exec (.headRetire seq t) s = .next s' ∧ (∀ k, s'.port k = s.port k) ∧ cooled s' n ∧ Ended s' seq .ok ∧ Only [.now, .host, .journal, .heads, .out] s s') ∧
    ((s.port n).state ≠ .retired → s.portFires n = false → (s.port n).retiring = none → (s.port n).bringupSeq = none → (s.port n).test = none → (s.port n).load = none →
      ∃ s', exec (.headRetire seq t) s = .next s' ∧ (s'.port n).state = .retired ∧ (s'.port n).noCommit = true ∧ cooled s' n ∧ Ended s' seq .ok ∧ (∀ k, k ≠ n → s'.port k = s.port k) ∧
        Only [.now, .host, .journal, .heads, .out] s s') ∧
    ((s.port n).state ≠ .retired → s.portFires n = true → e.p8 1 = 0 → ∃ s', exec (.headRetire seq t) s = .next s' ∧ InProgress s' seq ∧ s'.port n = { s.port n with
      retiring := some { seqs := before ++ [(seq, 0)], drain := match (s.port n).retiring with | some r => r.drain | none => some (s.nextWindow, 64 * s.nextWindow + s.headDelay n) } } ∧
      (∀ k, k ≠ n → s'.port k = s.port k) ∧ Only [.now, .host, .journal, .heads, .out] s s') ∧
    ((s.port n).state ≠ .retired → s.portFires n = true → e.p8 1 = 1 → ∃ s', exec (.headRetire seq t) s = .next s' ∧ s'.pos.pending = s.pos.pending.filter (fun y => y.row / 2 != n) ∧
      s'.pos.committed = s.pos.committed ∧ ((∃ y ∈ s.pos.committed, y.row / 2 = n) → (s'.port n).retiring.map (·.drain) = some none) ∧
      (¬ (∃ y ∈ s.pos.committed, y.row / 2 = n) → (s'.port n).state = .retired))) ∧
  (∀ seq inp e, Runs s t seq 0x0604 true e → Checked (loadWaveformChecks inp) s t e →
    let w : Waveform := { model := bytesAt e.params 16 16, volumeKey := e.p8 13, speedKey := e.p8 14, curveBase := e.p8 15, data := inp.data }
    let s1 : State := { s with heads := { s.heads with waveforms := Tbl.put none s.heads.waveforms (e.p8 12) (some w) } }
    ((∀ n, n < 32 → (s.port n).runs = false ∧ (s.port n).state ≠ .waiting ∧ ((s.port n).state = .record → (s.port n).load = none)) →
      ∃ s', exec (.loadWaveform seq inp t) s = .next s' ∧ s'.heads = s1.heads ∧ Ended s' seq .ok ∧ Only [.now, .host, .journal, .heads, .out] s s') ∧
    (x.runs = true → x.legacy = false → s1.matchingSet p = some (e.p8 12) → (∀ n, n < 32 → (s.port n).load = none ∧ (s.port n).state ≠ .waiting) →
      ∃ s', exec (.loadWaveform seq inp t) s = .next s' ∧ InProgress s' seq ∧ s'.heads.waveforms = s1.heads.waveforms ∧ (driven → Out.headData p inp.data ∈ s'.out) ∧
        ((s'.port p).load.map fun y => (y.set, y.bank, y.sentAt, y.retried, y.acked, y.seq)) = some (e.p8 12, 1 - x.waveBank, now, false, false, some seq))) ∧
  (∀ seq e, Runs s t seq 0x0605 false e → Checked thermalChecks s t e → ∃ s', exec (.setThermalLimits seq t) s = .next s' ∧ Ended s' seq .ok ∧ (∀ n, n < 32 → s'.port n =
    if n ∈ s.thermalPorts (e.p8 0) then { s.port n with soft := e.s16 2, hard := e.s16 4, hysteresis := e.p8 6, gain := e.p16 8 } else s.port n) ∧ Only [.now, .host, .journal, .heads, .out] s s') ∧
  (∀ seq out e, Runs s t seq 0x0606 true e → Checked (nozzleTestChecks out) s t e →
    ((s.port (e.p8 12)).state ≠ .inService → ∃ s', exec (.nozzleTest seq out t) s = .next s' ∧ Ended s' seq .unitFenced ∧ Only [.now, .host, .journal, .out] s s') ∧
    ((s.port (e.p8 12)).state = .inService → ∃ s', exec (.nozzleTest seq out t) s = .next s' ∧ InProgress s' seq ∧
      s'.port (e.p8 12) = { s.port (e.p8 12) with test := some { seq := seq, first := e.p16 14, count := e.p16 16 } } ∧ (∀ k, k ≠ e.p8 12 → s'.port k = s.port k) ∧
      (driven → Out.headBlock (e.p8 12) (controlBlock 0x74 (leBytes 2 (e.p16 14) ++ leBytes 2 (e.p16 16))) ∈ s'.out) ∧ Only [.now, .host, .journal, .heads, .out] s s')) ∧
  (let m := (s.tick t).settleMissing;
    ((m.port p).derated = false ∨ (m.port p).coolTicks < 64 → exec (.derateEnd p t) s = .next m) ∧
    ((m.port p).derated = true → 64 ≤ (m.port p).coolTicks → ∃ s', exec (.derateEnd p t) s = .next s' ∧ s'.port p = { m.port p with derated := false } ∧
      (∀ n, n ≠ p.val → s'.port n = m.port n) ∧ Only [.now, .host, .heads, .evt, .out] s s')) ∧
  (∀ (head ink : BitVec 16) (drive tag flags : BitVec 8),
    ((x.linkLive = false ∧ s.justOut p = false) ∨ x.legacy = true → exec (.headStatus p head ink drive tag t) s = .next (s.tick t) ∧ exec (.headAlert p head flags t) s = .next (s.tick t)) ∧
    (x.linkLive = true → x.legacy = false → free →
      (head = 0x8000 ∨ x.runs = false ∨ head.toInt < x.soft - x.hysteresis → head.toInt < x.hard →
        (drive = 0 → tag ≠ BitVec.ofInt 8 s.pos.tick → ∃ s', exec (.headStatus p head ink drive tag t) s = .next s' ∧ s'.port p = { x with measured := head, ink := ink } ∧ alone s' ∧
          Only [.now, .heads] s s') ∧
        ∃ s', exec (.headAlert p head flags t) s = .next s' ∧ s'.port p = { x with measured := head } ∧ alone s' ∧ Only [.now, .heads] s s') ∧
      (head ≠ 0x8000 → x.runs = true → head.toInt < x.hard → x.soft ≤ head.toInt → ∃ s', exec (.headAlert p head flags t) s = .next s' ∧ (s'.port p).derated = true ∧ (s'.port p).coolTicks = 0 ∧
        (s'.port p).measured = head ∧ alone s') ∧
      (head ≠ 0x8000 → x.watched = true → x.hard ≤ head.toInt → found 0x0803 →
        (∃ s', exec (.headStatus p head ink drive tag t) s = .next s' ∧ fencedWith s' 0x0803 ∧ (s'.port p).thermalFence = true ∧ p.val ∈ s'.heads.governor.thermal) ∧
        ∃ s', exec (.headAlert p head flags t) s = .next s' ∧ fencedWith s' 0x0803 ∧ (s'.port p).thermalFence = true ∧ p.val ∈ s'.heads.governor.thermal)) ∧
    (s.justOut p = true → x.legacy = false → free → head ≠ 0x8000 → x.hard ≤ head.toInt → ∃ s', exec (.headAlert p head flags t) s = .next s' ∧ (s'.port p).state = .fenced ∧
      (s'.port p).fencedCode = 0x0803 ∧ (s'.port p).thermalFence = true ∧ (s'.port p).noCommit = true ∧ p.val ∈ s'.heads.governor.thermal ∧ alone s')) ∧
  (∀ (crc : BitVec 32) (fires tag : BitVec 8), (x.state ≠ .shadow ∨ tag ≠ BitVec.ofInt 8 s.pos.tick ∨ x.echoExpect = none → exec (.headEcho p crc fires tag t) s = .next (s.tick t)) ∧
    (∀ c f, x.state = .shadow → tag = BitVec.ofInt 8 s.pos.tick → x.echoExpect = some (c, f) → free →
      (c ≠ crc ∨ f ≠ fires.toNat → found 0x0808 → ∃ s', exec (.headEcho p crc fires tag t) s = .next s' ∧ fencedWith s' 0x0808) ∧
      (c = crc → f = fires.toNat → ∃ s', exec (.headEcho p crc fires tag t) s = .next s' ∧ s'.port p = { x with
        echoExpect := none, echoTick := some s.pos.tick, clean := if x.echoTick = some s.pos.tick then x.clean else x.clean + 1 } ∧ alone s' ∧ Only [.now, .heads] s s'))) ∧
  (∀ (rowB : Bool) (tag : BitVec 16),
    let u := (s.tick t).advance
    (x.runs = false ∨ x.legacy = true → exec (.headNak p rowB tag t) s = .next u) ∧
    (x.runs = true → x.legacy = false → free →
      (x.sent.find? (fun l => l.row == b2n rowB && BitVec.ofInt 16 l.line == tag) = none → ∃ s', exec (.headNak p rowB tag t) s = .next s' ∧ s'.port p = { x with nak := min 255 (x.nak + 1) } ∧
        alone s' ∧ Only [.now, .pos, .heads] s s') ∧
      ∀ l, x.sent.find? (fun l => l.row == b2n rowB && BitVec.ofInt 16 l.line == tag) = some l →
        let inTime := (u.instantOf (2 * p.val + l.row) l.line).all fun f => decide ((now : Rat) + lineTime s.depth x.rate6 + 160 ≤ f)
        (l.nakked = false → inTime = true → s.inverts p true = false → ∃ s', exec (.headNak p rowB tag t) s = .next s' ∧ (s'.port p).nak = min 255 (x.nak + 1) ∧ (s'.port p).sent = x.sent.map (fun y =>
          if y.row = l.row ∧ y.line = l.line then { y with nakked := true, resent := true } else y) ∧ (driven → Out.headData p (x.sentBytes l) ∈ s'.out) ∧ alone s' ∧ Only [.now, .pos, .heads, .out] s s') ∧
        (l.nakked = true ∨ inTime = false → ∃ s', exec (.headNak p rowB tag t) s = .next s' ∧ (s'.port p).nak = min 255 (x.nak + 1) ∧ (s'.port p).lost = min 255 (x.lost + 1) ∧ alone s'))) ∧
  (∀ (kind : BitVec 8) (value : BitVec 32),
    ((kind = 1 → ∀ w, x.load = some w → w.acked = true) → ¬ (kind = 4 ∧ x.syncCount = some value) → exec (.headAck p kind value t) s = .next (s.tick t)) ∧
    (free → kind = 1 → (∀ w, x.load = some w → w.acked = false → x.runs = true → ∃ s', exec (.headAck p kind value t) s = .next s' ∧
      (s'.port p).load = some { w with acked := true, switchTick := some (s.pos.tick + 1) } ∧
      (s.power.rearm = false → s.hb.waitArm = false → s'.port p = { x with load := some { w with acked := true, switchTick := some (s.pos.tick + 1) } } ∧ alone s' ∧ Only [.now, .heads, .out] s s') ∧
      (driven → Out.headBlock p (controlBlock 0x44 (leBytes 1 w.bank ++ leBytes 2 (unsign 16 (s.pos.tick + 1)))) ∈ s'.out))) ∧
    (free → kind = 4 → x.syncCount = some value → x.state = .training → x.step = 5 → ∃ s', exec (.headAck p kind value t) s = .next s' ∧
      s'.port p = { x with syncCount := none, state := .record, step := 6, stepAt := now } ∧ (driven → Out.headBlock p (controlBlock 0x50 (leBytes 2 0 ++ leBytes 2 5252)) ∈ s'.out) ∧ alone s' ∧
      Only [.now, .heads, .out] s s') ∧
    (free → kind = 4 → x.syncCount = some value → x.state = .inService → x.resuming = true → s.power.rearm = false → s.hb.waitArm = false → ∃ s', exec (.headAck p kind value t) s = .next s' ∧
      s'.port p = { x with syncCount := none, resuming := false } ∧ (driven → Out.headBlock p (controlBlock 0x60 (leBytes 2 (unsign 16 x.soft) ++ leBytes 2 (unsign 16 x.hard))) ∈ s'.out) ∧ alone s' ∧
      Only [.now, .heads, .out] s s')) ∧
  ((∀ w, x.load = some w → w.acked = true ∨ now < w.sentAt + 5000000) → exec (.waveformAckTimeout p t) s = .next (s.tick t)) ∧
  (∀ w, x.load = some w → w.acked = false → w.sentAt + 5000000 ≤ now → free →
    (w.retried = true → x.runs = true → found 0x0804 → ∃ s', exec (.waveformAckTimeout p t) s = .next s' ∧ fencedWith s' 0x0804) ∧
    (w.retried = false → ∃ s', exec (.waveformAckTimeout p t) s = .next s' ∧ (s'.port p).load.map (·.retried) = some true ∧ alone s' ∧ Only [.now, .heads, .out] s s')) ∧
  (∀ (first : BitVec 16) (results : List (BitVec 2)), (x.test = none → exec (.headNchk p first results t) s = .next (s.tick t)) ∧
    (∀ w, x.test = some w → free →
      let new := ((List.range results.length).map fun i => (first.toNat + i, results.getD i 0)).filter fun y =>
        decide (w.first ≤ y.1 ∧ y.1 < w.first + w.count) && !(w.results.any fun z => z.1 == y.1)
      let all := w.results ++ new
      (all.length < w.count → ∃ s', exec (.headNchk p first results t) s = .next s' ∧ s'.port p = { x with test := some { w with results := all } } ∧ alone s' ∧
        Only [.now, .flash, .lines, .heads, .loop] s s') ∧
      (w.count ≤ all.length → (s.tick t).canSend = false → ∃ s', exec (.headNchk p first results t) s = .next s' ∧ s'.port p = { x with test := some { w with results := all } } ∧ alone s' ∧
        Only [.now, .flash, .journal, .lines, .heads, .loop] s s') ∧
      (w.count ≤ all.length → Running s w.seq → (s.tick t).canSend = true → ∃ s', exec (.headNchk p first results t) s = .next s' ∧ s'.port p = { x with test := none } ∧ alone s' ∧
        Out.buffer w.seq 0 (packPairs ((sortBy (fun y => (y.1 : Int)) all).map fun y => y.2.toNat)) ∈ s'.out ∧
        Ended s' w.seq .ok 0 (w32 (all.filter fun y => y.2 == 0).length) (w32 (w.count - (all.filter fun y => y.2 == 0).length))))) ∧
  (s.power.phase ≠ .running → x.state = .inService → ∃ s', exec (.headLinkFail p .signal t) s = .next s' ∧ s'.port p = { x with los := true, linkLost := true } ∧ alone s' ∧ Only [.now, .heads] s s') ∧
  (s.power.phase = .running → portsFree s → x.runs = true → found 0x0801 →
    (∃ s', exec (.headLinkFail p .signal t) s = .next s' ∧ fencedWith s' 0x0801 ∧ (s'.port p).los = true ∧ ∀ y ∈ s'.pos.committed, y.row / 2 ≠ p.val) ∧
    (∃ s', exec (.headLinkFail p .lock t) s = .next s' ∧ fencedWith s' 0x0801 ∧ (s'.port p).lol = true) ∧
    (x.presLow = false → x.presSince + 10000 ≤ now → ∃ s', exec (.headLinkFail p .presence t) s = .next s' ∧ fencedWith s' 0x0801)) ∧
  (x.presLow = true ∨ now < x.presSince + 10000 → exec (.headLinkFail p .presence t) s = .next (s.tick t)) ∧
  (∃ s', exec (.returnLaneSignalRestored p) s = .next s' ∧ s'.port p = { x with los := false, lol := false } ∧ alone s' ∧ Only [.heads] s s') ∧
  ∀ raw : BitVec 16, (x.legacy = false ∨ x.runs = false → exec (.legacyTempRead p raw t) s = .next (s.tick t)) ∧
    (x.legacy = true → x.runs = true → free → ∃ s', exec (.legacyTempRead p raw t) s = .next s' ∧ (s'.port p).measured = raw ∧ Tbl.get none s'.hb.temps p = some (raw.truncate 12) ∧
      (raw ≠ 0x8000 → x.hard ≤ raw.toInt → found 0x0803 → fencedWith s' 0x0803))

/-! ## The nozzle health loop (chapter 07) -/

/-- The nozzle health loop (R217 to R219, R222, R225 to R227, R229 to R231, R324). INSPECT_PROFILE for this bar is kept waiting, a duplicate of one of the last 64 ends with detail bit 2, and the manager forwards one for another colour. PROFILE_PROCESS takes the oldest: one that needs a
period older than the ring holds ends with detail bit 0, any other with its counts; one without evidence changes nothing else. The mark of a candidate follows from its normalised deviation and a surplus beside it; a flagged nozzle gets its condition, is taken out unless it is weak and alone or the policy
keeps it, and its window is cleared; a full gain or offset window corrects its column within the limits. A probe past its timeout ends, and the nozzles it held that the loop may change return. SET_LOOP_POLICY clears windows and ends probes where one of six settings changes. NOZZLE_OVERRIDE writes state bytes, the last for a nozzle standing, or returns columns
to gain 1.0 and offset 0. -/
def Obligations.HealthLoop : Prop := ∀ (s : State) (t : Nat),
  (∀ seq inp e, Runs s t seq 0x0701 true e → Checked (inspectChecks inp) s t e →
    let p := profileOf seq none inp.data
    (s.forwards inp.data = true → ∃ s', exec (.inspectProfile seq inp t) s = .next s' ∧ InProgress s' seq ∧ (∃ f, s'.ring.forwarded = s.ring.forwarded ++ [f] ∧ f.seq = seq) ∧
      Only [.now, .host, .journal, .ring, .out] s s') ∧
    (s.forwards inp.data = false → has p.id s.loop.recentIds = false → ∃ s', exec (.inspectProfile seq inp t) s = .next s' ∧ InProgress s' seq ∧
      s'.loop = { s.loop with waiting := s.loop.waiting ++ [p], recentIds := (p.id :: s.loop.recentIds).take 64 } ∧ Only [.now, .host, .journal, .loop, .out] s s') ∧
    (s.forwards inp.data = false → has p.id s.loop.recentIds = true → ∃ s', exec (.inspectProfile seq inp t) s = .next s' ∧ Ended s' seq .ok 4 ∧ Only [.now, .host, .journal, .out] s s')) ∧
  (s.firmwareRuns = false ∨ s.loop.waiting = [] → exec (.profileProcess t) s = .next (s.tick t)) ∧
  (∀ p rest, s.firmwareRuns = true → s.loop.waiting = p :: rest → Running s p.seq →
    let s1 : State := { s.tick t with loop := { s.loop with waiting := rest, processed := s.loop.processed + 1 } }
    let ts := s1.tableSet s1.nextWindow
    (s.tooOld p = true → ∃ s', exec (.profileProcess t) s = .next s' ∧ Ended s' p.seq .ok 1 ∧ s'.loop = s1.loop ∧ Only [.now, .host, .journal, .loop, .ring, .out] s s') ∧
    (s.tooOld p = false → (∀ c, c < ts.geometry.width → s1.evidence ts p c = none) → ∃ s', exec (.profileProcess t) s = .next s' ∧ Ended s' p.seq .ok ∧ s'.loop = s1.loop ∧
      Only [.now, .host, .journal, .loop, .ring, .out] s s') ∧
    (s.tooOld p = false → ∃ s', exec (.profileProcess t) s = .next s' ∧
      (let f := (s1.judgeColumns ts p).2
       Ended s' p.seq .ok 0 (w32 f.columns) (w32 f.marks) (w32 f.flagged) (w32 f.probes)) ∧ Only [.now, .flash, .host, .journal, .lines, .loop, .ring, .out] s s')) ∧
  (∀ (q : LoopPolicy) (p : Profile) (c share : Nat) (delta : Int), q.thetaW < q.thetaD →
    let d := (delta * 1024).fdiv share
    let beside := p.surplus c (q.thetaM * delta.natAbs / 1024)
    q.mark p c delta share = if -(q.thetaW : Int) < d then .pass else if beside = true then .misdirected else if d ≤ -(q.thetaD : Int) then .dead else .weak) ∧
  (∀ (i : Nat) (m : Mark), s.loop.policy.actions.getLsbD 0 = true → s.headSeen (i / 4096) = true → s.loopMay i = true → has i s.probeHeld = false → m ≠ .pass →
    let out := (s.nozzle i).getLsbD 3 || m != .weak || (s.hasPartner i && s.loop.policy.actions.getLsbD 3)
    ((s.flagNozzle i m).nozzle i).toNat = m.condition + (if out = true then 8 else 0) ∧ SMap.get [] (s.flagNozzle i m).loop.windows i = [] ∧
      ∀ j, j ≠ i → (s.flagNozzle i m).nozzle j = s.nozzle j ∧ SMap.get [] (s.flagNozzle i m).loop.windows j = SMap.get [] s.loop.windows j) ∧
  (∀ (c : Nat) (delta : Int),
    let q := s.loop.policy
    let w := delta :: SMap.get [] s.loop.gainWindow c
    let k : Int := ((SMap.get 16384 s.loop.kappa c : Nat) : Int)
    let v := clamp (k - ((q.lambda : Int) * windowMean w * k + 131072).fdiv 262144) q.kappaMin q.kappaMax
    (w.length < q.n → SMap.get [] (s.gainEntry c delta).loop.gainWindow c = w ∧ (s.gainEntry c delta).loop.kappa = s.loop.kappa) ∧
    (q.n ≤ w.length → SMap.get [] (s.gainEntry c delta).loop.gainWindow c = [] ∧ ∀ x, SMap.get 16384 (s.gainEntry c delta).loop.kappa x =
      if x = c ∧ q.epsilon ≤ (windowMean w).natAbs ∧ s.mayCorrect c = true then v.toNat else SMap.get 16384 s.loop.kappa x)) ∧
  (∀ (c : Nat) (product : Int),
    let q := s.loop.policy
    let w := product :: SMap.get [] s.loop.offsetWindow c
    q.n ≤ w.length → SMap.get [] (s.offsetEntry c product).loop.offsetWindow c = [] ∧ ∀ x, SMap.get 0 (s.offsetEntry c product).loop.offsets x =
      if x = c ∧ q.epsilon ≤ (windowMean w).natAbs ∧ s.mayCorrect c = true then clamp (SMap.get 0 s.loop.offsets c - ((q.lambda : Int) * windowMean w + 131072).fdiv 262144) (-64) 63
      else SMap.get 0 s.loop.offsets x) ∧
  (∀ col p, s.probe? col = some p → (s.loop.policy.probeTimeout : Int) ≤ s.pos.tick - p.startTick → s.firmwareRuns = true → ∃ s', exec (.probeTimeout col t) s = .next s' ∧
    s'.probe? col = none ∧ (∀ i, s'.nozzle i = if has i p.held = true ∧ s.loopMay i = true then s.nozzle i &&& 0xF7#8 else s.nozzle i) ∧ Only [.now, .lines, .loop] s s') ∧
  (∀ col, (∀ p, s.probe? col = some p → s.pos.tick - p.startTick < (s.loop.policy.probeTimeout : Int) ∨ s.firmwareRuns = false) → exec (.probeTimeout col t) s = .next (s.tick t)) ∧
  (∀ seq e, Runs s t seq 0x0702 false e → Checked loopPolicyChecks s t e →
    let q := e.policy
    let o := s.loop.policy
    let kept := q.m = o.m ∧ q.n = o.n ∧ q.thetaW = o.thetaW ∧ q.thetaD = o.thetaD ∧ q.thetaM = o.thetaM ∧ q.sMin = o.sMin
    ∃ s', exec (.setLoopPolicy seq t) s = .next s' ∧ Ended s' seq .ok ∧ s'.loop.policy = q ∧ (kept → s'.loop = { s.loop with policy := q } ∧ s'.lines = s.lines) ∧
      (¬ kept → s'.loop.windows = [] ∧ s'.loop.exonerated = [] ∧ s'.loop.gainWindow = [] ∧ s'.loop.offsetWindow = [] ∧ s'.loop.probes = [] ∧ s'.loop.kappa = s.loop.kappa ∧
        s'.loop.offsets = s.loop.offsets) ∧ Only [.now, .host, .journal, .lines, .loop, .out] s s') ∧
  ∀ seq inp e, Runs s t seq 0x0703 (e.p8 12 != 1) e → Checked (overrideChecks inp) s t e →
    (e.p8 12 = 1 → ∃ s', exec (.nozzleOverride seq inp t) s = .next s' ∧ Ended s' seq .ok 0 (w32 (e.p32 20)) ∧ (∀ c, SMap.get 16384 s'.loop.kappa c =
        (if e.p32 16 ≤ c ∧ c < e.p32 16 + e.p32 20 then 16384 else SMap.get 16384 s.loop.kappa c) ∧
        SMap.get 0 s'.loop.offsets c = if e.p32 16 ≤ c ∧ c < e.p32 16 + e.p32 20 then 0 else SMap.get 0 s.loop.offsets c) ∧
      Only [.now, .flash, .host, .journal, .loop, .out] s s') ∧
    (e.p8 12 = 0 → ∃ s', exec (.nozzleOverride seq inp t) s = .next s' ∧ Ended s' seq .ok 0 (w32 (dedupe ((overrideRecords inp.data).map (·.1))).length) ∧
      Only [.now, .flash, .host, .journal, .lines, .loop, .out] s s' ∧
      (s.loop.probes = [] → ∀ i, s'.nozzle i = match ((overrideRecords inp.data).filter (fun r => r.1 == i)).getLast? with
        | some r => BitVec.ofNat 8 (r.2 % 64)
        | none => s.nozzle i) ∧
      (∀ i v, overrideRecords inp.data = [(i, v)] → s'.probe? (s.columnOf i) = none ∧ s'.nozzle i = BitVec.ofNat 8 (v % 64) ∧ has i s'.loop.overridden = true))

/-! ## The halyard ring (chapter 08) -/

/-- Halyard links and calendar time (R236 to R240, R261, R264). TS1 locks a link in training, with an equaliser adapted freely (log 76), and sends 16 DLY_REQ; the 16th DLY_RSP gives the delay and CONFIRM, and a link whose ends have both told the end of training enters shadow at the next tick; in service the delay is the mean of the last 16.
A DLY_REQ is answered; the turnaround in the answer is a free value (log 43). An attempt past 10 ms fails, is tried again after 1 ms, and the fourth leaves the port failed, tried again every 100 ms. Two clean ticks of shadow send the far-end confirmation. A failed link raises fault 0x0901 and trains again. A TIME block on the port
that is followed sets the hops and steers the calendar, the rate a free value (log 79); a port that sends back for the far chip sends back what it receives; TIME goes out every 1 ms; its loss for 2 ms ends a slew. -/
def Obligations.HalyardLinksAndTime : Prop := ∀ (s : State) (sd : Side) (t : Nat),
  let u := s.tick t
  let now := max s.now t
  let h := s.ring.port sd
  let other := fun (s' : State) => s'.ring.port (otherSide sd) = s.ring.port (otherSide sd)
  let sent := fun (kind : Nat) (fields : List Byte) => Out.halyardBlock sd (controlBlock kind fields)
  let back := fun (kind : Nat) (fields : List Byte) => if h.loop = 4 then u.emit (sent kind fields) else u
  (∀ turnaround : BitVec 16, (h.state = .loopback → exec (.halyardTs1 sd turnaround t) s = .next (back 0x70 (0 :: leBytes 2 turnaround.toNat))) ∧
    ((h.state ≠ .training ∧ h.state ≠ .loopback) ∨ (h.state = .training ∧ h.lock = true) → exec (.halyardTs1 sd turnaround t) s = .next u) ∧
    (h.state = .training → h.lock = false → ∃ s', exec (.halyardTs1 sd turnaround t) s = .next s' ∧
      s'.ring.port sd = { h with
      lanes := (s'.ring.port sd).lanes, lock := true, turnaround := turnaround.toNat, dlySeq := h.dlySeq + 16, dlyAt := now } ∧ (s'.ring.port sd).lanes.length = h.lanes.length ∧
      s'.out.length = s.out.length + 16 ∧ other s' ∧ Only [.now, .ring, .out, .free] s s')) ∧
  (∀ sq : BitVec 8, (h.state = .loopback → exec (.halyardDlyReq sd sq t) s = .next (back 0x98 [sq])) ∧ (h.trained = false → h.state ≠ .loopback → exec (.halyardDlyReq sd sq t) s = .next u) ∧
    (h.trained = true → ∃ s' fill, exec (.halyardDlyReq sd sq t) s = .next s' ∧ fill.length = 4 ∧ s'.out = sent 0x9A (sq :: fill) :: s.out ∧ Only [.now, .out, .free] s s')) ∧
  (∀ (sq : BitVec 8) (rt : Nat),
    (h.state = .training → h.lock = true → h.confirmSent = false → h.trips.length < 15 → ∃ s', exec (.halyardDlyRsp sd sq rt t) s = .next s' ∧ s'.ring.port sd = { h with trips := rt :: h.trips } ∧ other s' ∧
      Only [.now, .ring] s s') ∧
    (h.state = .training → h.lock = true → h.confirmSent = false → 15 ≤ h.trips.length → ∃ s', exec (.halyardDlyRsp sd sq rt t) s = .next s' ∧
      s'.ring.port sd = { h with
      trips := (rt :: h.trips).take 16, delay := linkDelay ((rt :: h.trips).take 16) h.turnaround, confirmSent := true, shadowNext := h.confirmGot || h.shadowNext } ∧ s'.out = sent 0x74 [0] :: s.out ∧ other s' ∧ Only [.now, .ring, .out] s s') ∧
    (h.state = .inService → ∃ s', exec (.halyardDlyRsp sd sq rt t) s = .next s' ∧ s'.ring.port sd = { h with
      trips := (rt :: h.trips).take 16, delay := if 15 ≤ h.trips.length then linkDelay ((rt :: h.trips).take 16) h.turnaround else h.delay } ∧ other s' ∧ Only [.now, .ring] s s') ∧
    (h.state = .loopback → h.loop = 4 → ∃ s' fill, exec (.halyardDlyRsp sd sq rt t) s = .next s' ∧ fill.length = 4 ∧ s'.out = sent 0x9A (sq :: fill) :: s.out ∧ Only [.now, .out, .free] s s') ∧
    ((h.state ≠ .training ∧ h.state ≠ .inService ∧ (h.state = .loopback → h.loop ≠ 4)) ∨ (h.state = .training ∧ (h.lock = false ∨ h.confirmSent = true)) → exec (.halyardDlyRsp sd sq rt t) s = .next u)) ∧
  (h.state ≠ .inService ∨ now < h.dlyAt + 1000000 → exec (.dlyReqPeriod sd t) s = .next u) ∧
  (h.state = .inService → h.dlyAt + 1000000 ≤ now → ∃ s', exec (.dlyReqPeriod sd t) s = .next s' ∧ s'.ring.port sd = { h with dlySeq := h.dlySeq + 1, dlyAt := now } ∧ s'.out = sent 0x98 [h.dlySeq] :: s.out ∧
    other s' ∧ Only [.now, .ring, .out] s s') ∧
  ((h.state = .training → ∃ s', exec (.halyardConfirm sd false t) s = .next s' ∧ s'.ring.port sd = { h with confirmGot := true, shadowNext := h.confirmSent || h.shadowNext } ∧
      other s' ∧ Only [.now, .ring] s s') ∧
    (h.state = .training → ∃ s', exec (.halyardConfirm sd true t) s = .next s' ∧ s'.ring.port sd = { h with farReady := h.shadowNext } ∧ other s' ∧ Only [.now, .ring] s s') ∧
    (∀ ready, h.state = .loopback → exec (.halyardConfirm sd ready t) s = .next (back 0x74 [if ready then 1 else 0])) ∧
    (h.state = .shadow → ∃ s', exec (.halyardConfirm sd true t) s = .next s' ∧ s'.ring.port sd = { h with confirmGot := true, joinNext := h.confirmSent } ∧ other s' ∧ Only [.now, .ring] s s') ∧
    (h.state ≠ .training → h.state ≠ .loopback → (exec (.halyardConfirm sd false t) s = .next u ∧ (h.state ≠ .shadow → exec (.halyardConfirm sd true t) s = .next u)))) ∧
  (h.state ≠ .training ∨ h.shadowNext = true ∨ now < h.attemptAt + 10000000 → exec (.halyardTrainingTimeout sd t) s = .next u) ∧
  (h.state = .training → h.shadowNext = false → h.attemptAt + 10000000 ≤ now →
    (h.attempts < 4 → ∃ s', exec (.halyardTrainingTimeout sd t) s = .next s' ∧ s'.ring.port sd = { h with state := .down, everTried := true, attemptAt := now, lock := false } ∧ other s' ∧ Only [.now, .ring] s s') ∧
    (4 ≤ h.attempts → ∃ s', exec (.halyardTrainingTimeout sd t) s = .next s' ∧ s'.ring.port sd = { h with state := .failed, everTried := true, attemptAt := now, lock := false, resetCmd := none } ∧
      (∀ q since, h.resetCmd = some (q, since) → Running s q → Ended s' q .unitFenced 0 (w32 3)) ∧ other s' ∧ Only [.now, .host, .journal, .ring, .out] s s')) ∧
  (let again := s.linksReleased = true ∧ h.state = .down ∧ h.attempts ≠ 0 ∧ h.attemptAt + 1000000 ≤ now
   let late := s.linksReleased = true ∧ h.state = .failed ∧ h.clockLos = false ∧ h.attemptAt + 100000000 ≤ now
   (again ∨ late → ∃ s', exec (.halyardTrainingRetry sd t) s = .next s' ∧ (s'.ring.port sd).state = .training ∧ (s'.ring.port sd).attempts = (if h.state = .down then h.attempts + 1 else 4) ∧
      (s'.ring.port sd).attemptAt = now ∧ s'.out.length = s.out.length + 4 ∧ other s' ∧ Only [.now, .ring, .out, .free] s s') ∧
    (¬ again → ¬ late → exec (.halyardTrainingRetry sd t) s = .next u)) ∧
  (h.state ≠ .shadow ∨ h.confirmSent = true ∨ h.shadowBad = true ∨ h.clean < 3 → exec (.halyardShadowEnd sd t) s = .next u) ∧
  (h.state = .shadow → h.confirmSent = false → h.shadowBad = false → 3 ≤ h.clean → ∃ s', exec (.halyardShadowEnd sd t) s = .next s' ∧ s'.ring.port sd = { h with confirmSent := true, joinNext := h.confirmGot } ∧
    s'.out = sent 0x74 [1] :: s.out ∧ other s' ∧ Only [.now, .ring, .out] s s') ∧
  (∀ cause : HalyardCause,
    let counted := s.linksReleased = true ∧ (cause = .crc → 8 < (u.recentCrc sd).length)
    (¬ counted → exec (.halyardLinkFail sd cause t) s = .next u) ∧
    let mayFail := h.state = .shadow ∨ h.state = .inService ∨ (h.state = .training ∧ h.confirmSent = true) ∨ (h.state = .loopback ∧ h.loop = 4)
    (counted → ¬ mayFail → ∃ s', exec (.halyardLinkFail sd cause t) s = .next s' ∧ s'.ring.port sd = { h with
      los := h.los || cause == .signal false || cause == .signal true, clockLos := h.clockLos || cause == .signal true, lol := h.lol || cause == .lock, blkErr := if cause = .headers then min 255 (h.blkErr + 16) else h.blkErr } ∧ other s' ∧ Only [.now, .ring] s s') ∧
    (counted → mayFail → Detected u 0x0901 (sideIndex sd) → ∃ s', exec (.halyardLinkFail sd cause t) s = .next s' ∧ (s'.ring.port sd).state = .training ∧ (s'.ring.port sd).attempts = 1 ∧
      (s'.ring.port sd).downs = min 255 (h.downs + 1) ∧ (h.state ≠ .inService ∨ s.linkUp (otherSide sd) = true →
        countOf s'.flt (s.classOf 0x0901) = min (countOf s.flt (s.classOf 0x0901) + 1) 255))) ∧
  (∃ s', exec (.halyardSignalRestored sd) s = .next s' ∧ s'.ring.port sd = { h with los := false, clockLos := false, lol := false } ∧ other s' ∧ Only [.ring] s s') ∧
  ((h.trained = true → ∃ s', exec (.halyardLoop sd 3 t) s = .next s' ∧ s'.ring.port sd = { h with state := .loopback, loop := 4, clean := 0, joinNext := false, hops := none } ∧ other s' ∧ Only [.now, .ring] s s') ∧
    (h.state = .loopback → h.loop = 4 → ∃ s', exec (.halyardLoop sd 0 t) s = .next s' ∧ (s'.ring.port sd).state = .training ∧ (s'.ring.port sd).attempts = 1 ∧ other s' ∧ Only [.now, .ring, .out, .free] s s') ∧
    (∀ b : BitVec 8, ¬ (b = 3 ∧ h.trained = true) → ¬ (b = 0 ∧ h.state = .loopback ∧ h.loop = 4) → exec (.halyardLoop sd b t) s = .next u)) ∧
  (∀ (low : BitVec 40) (hops : BitVec 4) (valid : Bool),
    let s1 := u.updHalyard sd fun h => { h with hops := some hops.toNat }
    let followed := s.linkUp sd = true ∧ s.ring.role ≠ .manager ∧ s1.ring.follows sd = true
    let delta : Int := ((h.delay * 5 + 2000) / 4000 : Nat)
    (h.state = .loopback → exec (.timeBlock sd low hops valid t) s = .next (back 0x94 (leBytes 5 low.toNat ++ leBytes 1 (hops.toNat + 16 * b2n valid)))) ∧
    (s.linkUp sd = false → h.state ≠ .loopback → exec (.timeBlock sd low hops valid t) s = .next u) ∧
    (s.linkUp sd = true → ¬ followed → exec (.timeBlock sd low hops valid t) s = .next s1) ∧
    (followed → ∃ s', exec (.timeBlock sd low hops valid t) s = .next s' ∧ s'.ring.timeHops = min 15 (hops.toNat + 1) ∧ s'.ring.timeSeen = now ∧ s'.ring.timeLost = false ∧ Only [.now, .host, .ring, .evt, .out, .free] s s' ∧
      (valid = false ∨ s1.wholeTime low.toNat = none → s'.ring.calOffset = s.ring.calOffset ∧ s'.ring.slew = s.ring.slew ∧ s'.ring.calValid = s.ring.calValid) ∧
      (∀ c, valid = true → s1.wholeTime low.toNat = some c → s.ring.calValid = false ∨ 1000 < (c + delta - s.ring.calAt now).natAbs → s'.ring.calValid = true ∧ s'.ring.calAt now = c + delta ∧ s'.ring.slew = 0) ∧
      (∀ c, valid = true → s1.wholeTime low.toNat = some c → s.ring.calValid = true → (c + delta - s.ring.calAt now).natAbs ≤ 1000 → s'.ring.slew = c + delta - s.ring.calAt now ∧
        s'.ring.rate = anyInt (Config.freeNat s.free) ∧ s'.ring.calAt now = s.ring.calAt now))) ∧
  (now < s.ring.timeSentAt + 1000000 ∨ s.linksReleased = false → exec (.timeSendPeriod t) s = .next u) ∧
  (s.ring.timeSentAt + 1000000 ≤ now → s.linksReleased = true → ∃ s', exec (.timeSendPeriod t) s = .next s' ∧ s'.ring = { s.ring with timeSentAt := now } ∧ (s.linkUp sd = true →
    sent 0x94 (leBytes 5 ((s.ring.calAt now).fmod (2 ^ 40)).toNat ++ leBytes 1 (s.ring.ownHops + 16 * b2n s.ring.calValid)) ∈ s'.out) ∧ Only [.now, .ring, .out] s s') ∧
  (s.ring.role = .manager ∨ s.ring.timeLost = true ∨ now < s.ring.timeSeen + 2000000 → exec (.timeLoss t) s = .next u) ∧
  (s.ring.role ≠ .manager → s.ring.timeLost = false → s.ring.timeSeen + 2000000 ≤ now → ∃ s', exec (.timeLoss t) s = .next s' ∧ s'.ring.timeLost = true ∧ s'.ring.slew = 0 ∧ s'.ring.east.hops = none ∧
    s'.ring.west.hops = none ∧ s'.ring.calAt now = s.ring.calAt now ∧ s'.ring.rate = s.ring.rate ∧ Only [.now, .ring] s s')

/-- Packets of the ring (R239, R244, R245, R247, R249 to R254, R256, R257, R260, R265, R269 to R272). A port that carries no traffic drops every packet, and one that sends back for the far chip returns it; one in shadow only counts a bad CRC; in service a bad CRC is counted, a shadow copy is dropped, and a packet for another is at most sent on.
A BEACON of the epoch obeyed or a higher one is obeyed, and makes a manager of a lower epoch a worker, but a new manager is obeyed only with a higher epoch; NODE tells who is heard; CLAIM, JOIN, PROBE and its reply serve the election. A packet of an acknowledged class in order is delivered, counted and acknowledged; a duplicate is only acknowledged. Each class has its effect: admission,
limits, page reports, placements, reprints, the mirrored state, profiles in pieces, what a member tells of itself (log 75), handover. HALYARD_ACK releases what it covers. Packets go out again every 200 µs, and after 50 ms their failure is told. -/
def Obligations.RingPackets : Prop := ∀ (s : State) (t : Nat),
  let u := s.tick t
  let now := max s.now t
  (∀ i h, packetOf i = some (h, t) →
    let p := s.ring.port h.port
    (p.state ≠ .inService → p.state ≠ .shadow → (p.state = .loopback → p.loop ≠ 4) → exec i s = .next u) ∧
    (p.state = .loopback → p.loop = 4 → ∃ s', exec i s = .next s' ∧ s'.out.length = s.out.length + 1 ∧ Only [.now, .out] s s') ∧ (p.state = .shadow → h.crcOk = true → exec i s = .next u) ∧
    (p.state = .shadow → h.crcOk = false → Detected u 0x0901 (sideIndex h.port) → ∃ s', exec i s = .next s' ∧ s'.ring.port h.port = { p with crcErr := min 255 (p.crcErr + 1), crcTimes := now :: u.recentCrc h.port, shadowBad := true } ∧ Only [.now, .ring] s s') ∧
    (p.state = .inService → h.crcOk = false ∨ s.shotAt 0x0E (sideIndex h.port) = true → Detected u 0x0901 (sideIndex h.port) → ∃ s', exec i s = .next s' ∧
      s'.ring.port h.port = { p with crcErr := min 255 (p.crcErr + 1), crcTimes := now :: u.recentCrc h.port } ∧ Only [.now, .host, .journal, .ring, .flt, .out] s s') ∧
    (p.state = .inService → h.crcOk = true → s.shotAt 0x0E (sideIndex h.port) = false → h.shadow = true → exec i s = .next u) ∧
    (p.state = .inService → h.crcOk = true → s.shotAt 0x0E (sideIndex h.port) = false → h.shadow = false → s.firmwareRuns = false ∨ s.ring.node = some h.src → ∃ s', exec i s = .next s' ∧ s'.out.length ≤ s.out.length + 1 ∧ Only [.now, .out] s s')) ∧
  (∀ h b, Arrives s h →
    let key := 1 + 16 * h.src
    let stale := b.epoch < s.ring.epoch ∨ (b.epoch = s.ring.epoch ∧ (s.ring.role = .manager ∨ s.ring.manager.any (· != b.manager) = true))
    (has h.sq (SMap.get [] s.ring.counts key) = true → ∃ s', exec (.beacon h b t) s = .next s' ∧ Only [.now, .out] s s') ∧
    (has h.sq (SMap.get [] s.ring.counts key) = false → stale → ∃ s', exec (.beacon h b t) s = .next s' ∧
      s'.ring = { s.ring with counts := s'.ring.counts } ∧ Only [.now, .ring, .out] s s') ∧
    (has h.sq (SMap.get [] s.ring.counts key) = false → s.ring.role = .manager → s.ring.epoch < b.epoch → ∃ s', exec (.beacon h b t) s = .next s' ∧ s'.ring.role = .worker ∧ s'.ring.epoch = b.epoch ∧
      s'.ring.manager = some b.manager ∧ s'.ring.unacked = s.ring.unacked.filter (fun x => x.src != 0xFD) ∧ s'.ring.transactions = [] ∧ s'.ring.handoverSeq = none ∧
      (∀ q, s.ring.handoverSeq = some q → s.ring.transactions = [] → Running s q → Ended s' q .ok 0 (w32 b.manager))) ∧
    (has h.sq (SMap.get [] s.ring.counts key) = false → ¬ stale → s.ring.role ≠ .manager → ∃ s', exec (.beacon h b t) s = .next s' ∧ s'.ring.epoch = b.epoch ∧ s'.ring.manager = some b.manager ∧
      s'.ring.standby = b.standby ∧ s'.ring.generation = b.generation ∧ s'.ring.count = b.count ∧ s'.ring.tai = some b.taiSeconds ∧ s'.ring.beaconAt = now ∧
      s'.ring.role = (if s.ring.role = .standby ∧ b.standby ≠ s.ring.node then .worker else s.ring.role) ∧ Only [.now, .ring, .out] s s')) ∧
  (∀ h n, Arrives s h → n.identity ≠ s.fuses.identity → ∃ s', exec (.node h n t) s = .next s' ∧ ∃ x ∈ s'.ring.heard, x.identity = n.identity ∧ x.node = n.node ∧ x.role = n.role ∧ x.colour = n.colour ∧
    x.eligible = n.eligible ∧ x.standby = n.standby ∧ (h.port = .e → x.heardE = some now) ∧ (h.port = .w → x.heardW = some now)) ∧
  (∀ h n, Arrives s h → n.identity = s.fuses.identity → ∃ s', exec (.node h n t) s = .next s' ∧ Only [.now, .out] s s') ∧
  (∀ h identity epoch since e, Arrives s h → has h.sq (SMap.get [] s.ring.counts (3 + 16 * (h.src + 256 * identity))) = false → s.ring.election = .claimed since e →
    ∃ s', exec (.claim h identity epoch t) s = .next s' ∧ s'.ring = { s.ring with counts := s'.ring.counts, lowerClaim := s.ring.lowerClaim || decide (identity < s.fuses.identity) } ∧ Only [.now, .ring, .out] s s') ∧
  (∀ h identity el, Arrives s h → has h.sq (SMap.get [] s.ring.counts (3 + 16 * (h.src + 256 * identity))) = false →
    (s.ring.role ≠ .manager → ∃ s', exec (.join h identity el t) s = .next s' ∧ s'.ring = { s.ring with counts := s'.ring.counts } ∧ Only [.now, .ring, .out] s s') ∧
    (∀ e, s.ring.role = .manager → s.ring.roster.find? (·.identity == identity) = some e → e.admitted = false → now ≤ s.ring.electedAt + 2000000000 →
      ∃ s', exec (.join h identity el t) s = .next s' ∧ ({ e with eligible := el, admitted := true } : RosterEntry) ∈ s'.ring.roster ∧ s'.ring.generation = s.ring.generation + 1)) ∧
  (∀ h, Arrives s h → has h.sq (SMap.get [] s.ring.counts (3 + 16 * h.src)) = false → (s.ring.node.isSome = true → ∃ s', exec (.probe h t) s = .next s' ∧
      Out.elect h.port s.ownAddress 0xFF 0 ((s.ring.sendCount + 1) % 65536) false 3 0 0 ∈ s'.out ∧ Only [.now, .ring, .out] s s') ∧
    (s.ring.node = none → ∃ s', exec (.probe h t) s = .next s' ∧ s'.ring = { s.ring with counts := s'.ring.counts } ∧ Only [.now, .ring, .out] s s')) ∧
  (∀ h since l, Arrives s h → has h.sq (SMap.get [] s.ring.counts (3 + 16 * h.src)) = false → s.ring.election = .probing since l → ∃ s', exec (.probeReply h t) s = .next s' ∧
    s'.ring = { s.ring with counts := s'.ring.counts, election := .probing since (if now ≤ since + 300000 ∧ h.src < 16 then addNew h.src l else l) } ∧ Only [.now, .ring, .out] s s') ∧
  (∀ h m d, h.sq ≤ d.delivered → d.incarnation = h.incarnation → s.delivery h.src h.dst = some d → h.dst ≠ 0xFD → 0 < d.delivered → Arrives s h → (s.ring.role = .standby → h.role = false) →
    ∃ s', exec (.control h m t) s = .next s' ∧ Out.ack h.port h.dst (addressByte (sentBy h)) 0 ((s.ring.sendCount + 1) % 65536) d.delivered false (s.guestOf h.dst (sentBy h)) ∈ s'.out ∧ Only [.now, .ring, .out] s s') ∧
  (∀ h d, InOrder s h d → h.dst ≠ 0xFD →
    let done := fun (s' : State) => (s'.delivery h.src h.dst).map (·.delivered) = some h.sq ∧
      Out.ack h.port h.dst (addressByte (sentBy h)) 0 ((s.ring.sendCount + 1) % 65536) h.sq false (s.guestOf h.dst (sentBy h)) ∈ s'.out
    (∀ n check, Arrives s h (some s.fuses.identity) → ∃ s', exec (.control h (.admitted s.fuses.identity n check) t) s = .next s' ∧ done s' ∧ s'.ring.node = some n ∧
      s'.ring.role = (if s.ring.role = .guest then .worker else s.ring.role)) ∧
    (Arrives s h (some s.fuses.identity) → ∃ s', exec (.control h (.expelled s.fuses.identity) t) s = .next s' ∧ done s' ∧ s'.ring.node = none ∧ s'.ring.role = .guest) ∧
    (∀ n, Arrives s h → s.ring.role = .worker ∨ s.ring.role = .standby → ∃ s', exec (.control h (.standbyAppointed n) t) s = .next s' ∧ done s' ∧ s'.ring.standby = some n ∧
      s'.ring.role = (if s.ring.node = some n then .standby else .worker)) ∧
    (∀ m w st, Arrives s h → s.ring.role = .worker ∨ s.ring.role = .standby → ∃ s', exec (.control h (.offsetEdge m w st) t) s = .next s' ∧ done s' ∧ s'.ring.offsetEdge = some (m, w, st) ∧
      (st = true → (s.chan 0).stalled = true → s'.ring.offset = some (s.pOf (s.chan 0).count - w))) ∧
    (∀ group page p w, Arrives s h → s.syncPage? group page = some p → s.ring.syncStopped = false → s.pos.armed = false → p.state = .stored → ∃ s', exec (.syncPlace h group page w t) s = .next s' ∧ done s' ∧
      ∀ q ∈ s'.store.pages, q.seq = p.seq → q.synced = some w ∧ q.first = some ((w * 65536 + s.ring.offset.getD 0 + s.ring.webOffset + 128).fdiv 65536)) ∧
    (∀ group page p, Arrives s h → s.syncPage? group page = some p → p.state = .fired → ∃ s', exec (.syncReprint h group page t) s = .next s' ∧ done s' ∧
      s'.store.pages = s.store.pages.map fun q => if q.seq = p.seq then { q with state := .held, horizon := none } else q) ∧
    (∀ m, Arrives s h → ∃ s', exec (.mirror h m t) s = .next s' ∧ done s' ∧ s'.ring.roster = m.roster ∧ s'.ring.limits = m.limits ∧ s'.ring.vPress = m.vPress ∧ s'.ring.holdMs = m.holdMs ∧
      s'.ring.syncEnd = m.syncEnd ∧ s'.ring.syncPages = m.syncPages ∧ s'.ring.offsets = m.offsets ∧ s'.ring.groups = m.groups) ∧
    (∀ q (data : List Byte),
      let seq := s.seqOf s.journal.next
      Arrives s h → data.length < profileChunk → SMap.get [] s.ring.profileIn q = [] → firstBad ((decide (data.length = 32 + 2 * (leAt data 2 2 + 1)), .length data.length) :: profileConds u data ++ dataOk 0 [(0, s.ownProfile data)]) = none → s.loop.waiting.length < 8 →
      has (leAt data 12 4) s.loop.recentIds = false → ∃ s', exec (.profilePacket h q data t) s = .next s' ∧ done s' ∧ s'.loop.waiting = s.loop.waiting ++ [profileOf seq (some q) data] ∧
        s'.journal.next = s.journal.next + 1) ∧
    (∀ q (data : List Byte),
      let all := SMap.get [] s.ring.profileIn q ++ data
      Arrives s h → profileChunk ≤ data.length → ∃ s', exec (.profilePacket h q data t) s = .next s' ∧ done s' ∧
        SMap.get [] s'.ring.profileIn q = all ∧ Only [.now, .ring, .out] s s') ∧
    (Arrives s h → s.ring.role = .standby → s.ring.mirrored = [] → s.ring.unacked = [] → (∀ x ∈ s.ring.deliveries, x.dst ≠ 0xFD) → ∃ s', exec (.handover h t) s = .next s' ∧ s'.ring.role = .manager ∧
      s'.ring.epoch = s.ring.epoch + 1 ∧ s'.ring.standby = none ∧ s'.ring.electedAt = now) ∧
    (Arrives s h → s.ring.role ≠ .standby → ∃ s', exec (.handover h t) s = .next s' ∧ done s' ∧ s'.ring.role = s.ring.role ∧ Only [.now, .ring, .out] s s')) ∧
  (∀ h d, InOrder s h d → h.dst = 0xFD → s.ring.role = .manager → NoStandby s → Arrives s h →
    let done := fun (s' : State) => (s'.delivery h.src 0xFD).map (·.delivered) = some h.sq ∧
      Out.ack h.port 0xFD (addressByte h.src) 0 ((s.ring.sendCount + 1) % 65536) h.sq false (s.guestOf 0xFD h.src) ∈ s'.out
    (∀ v c, ∃ s', exec (.speedPacket h v c t) s = .next s' ∧ done s' ∧ SMap.find? h.src s'.ring.limits = some (v, c)) ∧
    (∀ l, ∃ s', exec (.control h (.memberOf l) t) s = .next s' ∧ done s' ∧ s'.ring.groups = s.ring.groups.filter (·.2.1 != h.src) ++ l.map fun g => (g.1, h.src, g.2)) ∧
    (∀ o, ∃ s', exec (.control h (.offsetMeasured o) t) s = .next s' ∧ done s' ∧ SMap.find? h.src s'.ring.offsets = some o) ∧
    (∀ c w, ∃ s', exec (.control h (.roleSet c w) t) s = .next s' ∧ done s' ∧ s'.ring.roster = s.ring.roster.map fun e => if e.node = h.src then { e with colour := c, webOffset := w } else e) ∧
    (∀ group page lines,
      let x : SyncPage := { group := group, page := page, reports := [(h.src, lines)], since := now }
      (∀ y ∈ s.ring.syncPages, y.group = group → y.page ≠ page ∧ y.reprint = false) → s.allReported x = false → ∃ s', exec (.syncReady h group page lines t) s = .next s' ∧ done s' ∧ s'.ring.syncPages = s.ring.syncPages ++ [x])) ∧
  let once := fun (h : PktHdr) => has h.sq (SMap.get [] s.ring.counts (4 + 16 * (h.src + 256 * if h.src = 0xFE then h.guest else 0))) = false
  (∀ h acked, Arrives s h (some h.guest) → ¬ once h → (s.ring.role = .standby → h.role = false) → h.dst ≠ 0xFD → ∃ s', exec (.halyardAck h acked t) s = .next s' ∧ Only [.now, .out] s s') ∧
  (∀ h acked, Arrives s h (some h.guest) → once h → (s.ring.role = .standby → h.role = false) → h.dst ≠ 0xFD → ∃ s', exec (.halyardAck h acked t) s = .next s' ∧
    s'.ring = { s.ring with counts := s'.ring.counts, unacked := s.ring.unacked.filter fun x => !(x.src == h.dst && x.dst == sentBy h && decide (x.sq ≤ acked)) } ∧ Only [.now, .ring, .out] s s') ∧
  (∀ h acked tr q w, Arrives s h (some h.guest) → once h → s.ring.role = .manager → h.dst = 0xFD → s.ring.standby = some h.src → s.ring.transactions = [tr] → tr.command = some (q, w) → Running s q →
    (tr.mirrorSq ≤ acked → ∃ s', exec (.halyardAck h acked t) s = .next s' ∧ s'.ring.transactions = [] ∧ Ended s' q .ok 0 w.1 w.2) ∧
    (acked < tr.mirrorSq → ∃ s', exec (.halyardAck h acked t) s = .next s' ∧ s'.ring.transactions = [tr] ∧ InProgress s' q)) ∧
  (s.firmwareRuns = false → exec (.packetResend t) s = .next u) ∧
  (let due := fun (x : Unacked) => x.resentAt + 200000 ≤ now ∧ now < x.sentAt + 50000000;
   s.firmwareRuns = true → ∃ s', exec (.packetResend t) s = .next s' ∧ s'.ring = { s.ring with unacked := s.ring.unacked.map fun x => if due x then { x with resentAt := now } else x } ∧
    (∀ x ∈ s.ring.unacked, due x → ∀ sd, s.linkUp sd = true → packetOut x.body x.src (addressByte x.dst) 0 s.ring.incarnation x.sq (s.guestOf x.src x.dst) sd false ∈ s'.out) ∧ Only [.now, .ring, .out] s s') ∧
  ∀ dst sq,
    let late := fun (x : Unacked) => x.dst == dst && x.sq == sq && decide (x.sentAt + 50000000 ≤ now)
    (s.ring.unacked.find? late = none → (∀ f ∈ s.ring.forwarded, f.node ≠ dst ∨ f.accepted.isSome = true ∨ now < f.sentAt + 50000000) → exec (.packetAckTimeout dst sq t) s = .next u) ∧
    (∀ f ∈ s.ring.forwarded, s.ring.unacked.find? late = none → f.node = dst → f.accepted = none → f.sentAt + 50000000 ≤ now → (∀ x ∈ s.ring.unacked, ∀ d, x.body ≠ .inl (.profile f.seq d)) → Running s f.seq →
      ∃ s', exec (.packetAckTimeout dst sq t) s = .next s' ∧ Ended s' f.seq .unitFenced) ∧
    (∀ x, s.ring.unacked.find? late = some x →
      (∀ v c, x.body = .inl (.speed v c) → ∃ s', exec (.packetAckTimeout dst sq t) s = .next s' ∧ s'.ring = { s.ring with unacked := s.ring.unacked.filter (· != x) } ∧ Only [.now, .ring] s s') ∧
      (∀ q data, x.body = .inl (.profile q data) → s.ring.forwarded.any (·.seq == q) = true → (∀ f ∈ s.ring.forwarded, f.seq = q → f.accepted = none) → Running s q → ∃ s', exec (.packetAckTimeout dst sq t) s = .next s' ∧ Ended s' q .unitFenced) ∧
      (∀ q, x.body = .inl .handover → s.ring.handoverSeq = some q → Running s q → s.ring.transactions = [] → ∃ s', exec (.packetAckTimeout dst sq t) s = .next s' ∧ Ended s' q .noResource ∧ s'.ring.handoverSeq = none) ∧
      (∀ m, x.body = .inr m → s.ring.standby = some dst → ∃ s', exec (.packetAckTimeout dst sq t) s = .next s' ∧ s'.ring.standby = none))

/-- Roles on the ring and the manager's commands (R246, R249 to R256, R260, R265, R267 to R269, R272, R325, R326). RING_STATUS gives the 16 entries; RING_ADMIT and RING_EXPEL change the roster, SET_ROLE the colour and web offset, SPEED_POLICY the settings; without a standby they end at once, with one
when it has the mirrored state; the handover form runs on. BEACON goes out every 100 µs and NODE every 1 ms. A silent manager is probed for after 1 ms by its standby, with a majority of replies in 300 µs the standby takes over; a chip without a manager claims. A new chip listens 1 ms, then joins or claims, and its claim makes it manager after 1 ms. A member whose measurement of its offset failed, or whose reference has restarted, tries again after 1 ms.
A node not heard is unreached, and its limit counts as 0 after the hold time. -/
def Obligations.RingRoles : Prop := ∀ (s : State) (t : Nat),
  let u := s.tick t
  let now := max s.now t
  let elect := fun (s' : State) (kind dst epoch : Nat) => ∀ sd, s.linkUp sd = true → Out.elect sd s.ownAddress dst 0 ((s.ring.sendCount + 1) % 65536) false kind (if kind < 2 then s.fuses.identity else 0) epoch ∈ s'.out
  (∀ seq out e, Runs s t seq 0x0801 true e → Checked (fun _ e => ({ params := listRefOk e 0 ++ listOk 0 out (fun n => decide (512 ≤ n)) } : Checks)) s t e → ∃ s', exec (.ringStatus seq out t) s = .next s' ∧
    Out.buffer seq 0 ((List.range 16).flatMap u.nodeStatus) ∈ s'.out ∧ Ended s' seq .ok 0 (w32 s.ring.epoch) s.ring.ringReg ∧ Only [.now, .host, .journal, .out, .free] s s') ∧
  (∀ seq e h, Runs s t seq 0x0802 false e → Checked admitChecks s t e → s.ring.heard.find? (fun h => h.identity == e.identity) = some h →
    (∀ r, u.admissionEntry h.identity h.colour h.eligible = some r → ∃ s', exec (.ringAdmit seq t) s = .next s' ∧ r ∈ s'.ring.roster ∧ r.identity = e.identity ∧ r.admitted = true ∧
      s'.ring.generation = s.ring.generation + 1 ∧ (NoStandby s → Ended s' seq .ok 0 (w32 r.node)) ∧ (s.ring.standby.isSome = true → InProgress s' seq)) ∧
    (u.admissionEntry h.identity h.colour h.eligible = none → ∃ s', exec (.ringAdmit seq t) s = .next s' ∧ Ended s' seq .noResource ∧ s'.ring = s.ring)) ∧
  (∀ seq e r, Runs s t seq 0x0803 false e → Checked expelChecks s t e → s.ring.members.find? (·.identity == e.identity) = some r → s.ring.standby ≠ some r.node → s.ring.appointing = none →
    ∃ s', exec (.ringExpel seq t) s = .next s' ∧ s'.ring.roster = s.ring.roster.filter (·.node != r.node) ∧ SMap.find? r.node s'.ring.limits = none ∧ s'.ring.generation = s.ring.generation + 1 ∧
      (s.ring.standby = none → Ended s' seq .ok) ∧ (s.ring.standby.isSome = true → InProgress s' seq)) ∧
  (∀ seq e, Runs s t seq 0x0804 false e → Checked roleChecks s t e →
    let um := if bitOf (e.p8 0) 2 then e.p32 4 else s.ring.webOffsetUm
    let set := fun (s' : State) => s'.ring.colour = (if bitOf (e.p8 0) 1 then e.p8 1 else s.ring.colour) ∧ s'.ring.webOffsetUm = um ∧ s'.ring.webOffset = webOffsetOf um s.pos.lpi
    (bitOf (e.p8 0) 0 = false → s.ring.role ≠ .manager ∨ NoStandby s → ∃ s', exec (.setRole seq t) s = .next s' ∧ set s' ∧ Ended s' seq .ok 0 (w32 (s.ring.manager.getD 0))) ∧
    (bitOf (e.p8 0) 0 = true → s.ring.transactions = [] → ∃ s', exec (.setRole seq t) s = .next s' ∧ set s' ∧ InProgress s' seq ∧ s'.ring.handoverSeq = some seq ∧
      ∃ x ∈ s'.ring.unacked, x.body = .inl .handover ∧ x.src = 0xFD ∧ s.ring.standby = some x.dst)) ∧
  (∀ seq e, Runs s t seq 0x0805 false e → Checked speedChecks s t e → s.ring.role ≠ .manager ∨ NoStandby s →
    let on := bitOf (e.p16 0)
    ∃ s', exec (.speedPolicy seq t) s = .next s' ∧ (s'.entry? seq).map (·.status) = some 0 ∧ s'.ring.holdMs = (if on 3 then e.p16 14 else s.ring.holdMs) ∧ s'.ring.vPress = (if on 4 then e.p32 16 else s.ring.vPress) ∧
      s'.heads.governor.tauMs = (if on 2 then e.p16 12 else s.heads.governor.tauMs) ∧ s'.store.reprintAtEnd = (if on 5 then e.p8 20 == 1 else s.store.reprintAtEnd) ∧
      s'.heads.governor.barRoute = (if on 0 then some { cc := e.p8 2, tag := w32 (e.p32 4), seq := seq } else s.heads.governor.barRoute) ∧
      s'.ring.pressRoute = (if on 1 then some { cc := e.p8 3, tag := w32 (e.p32 8), seq := seq } else s.ring.pressRoute) ∧
      (on 6 = true → e.p8 21 = 0xFF → s'.heads.governor.thermal = []) ∧ (on 6 = false → s'.heads.governor.thermal = s.heads.governor.thermal) ∧
      (s.ring.role ≠ .manager → Ended s' seq .ok 0 (w32 ((s.heads.governor.published.map (·.1)).getD 0)))) ∧
  (s.ring.role ≠ .manager ∨ s.ring.handoverSeq.isSome = true ∨ s.flt.faultState = true ∨ s.firmwareRuns = false ∨ now < s.ring.beaconSent + 100000 → exec (.beaconSendPeriod t) s = .next u) ∧
  (s.ring.role = .manager → s.ring.handoverSeq = none → s.flt.faultState = false → s.firmwareRuns = true → s.ring.beaconSent + 100000 ≤ now → ∃ s', exec (.beaconSendPeriod t) s = .next s' ∧
    s'.ring = { s.ring with beaconSent := now, sendCount := (s.ring.sendCount + 1) % 65536 } ∧ (∀ sd, s.linkUp sd = true → Out.beacon sd 0xFD 0 ((s.ring.sendCount + 1) % 65536) false {
      epoch := s.ring.epoch, manager := s.ring.node.getD 0, standby := s.ring.standby, generation := s.ring.generation, count := s.ring.count
      taiSeconds := if s.ring.calValid then ((s.ring.calAt now).fdiv 1000000000).toNat else 0 } ∈ s'.out) ∧ Only [.now, .ring, .out] s s') ∧
  (s.firmwareRuns = false ∨ now < s.ring.nodeSentAt + 1000000 → exec (.nodeSendPeriod t) s = .next u) ∧
  (s.firmwareRuns = true → s.ring.nodeSentAt + 1000000 ≤ now → ∃ s', exec (.nodeSendPeriod t) s = .next s' ∧ s'.ring = { s.ring with nodeSentAt := now, sendCount := (s.ring.sendCount + 1) % 65536 } ∧
    (∀ sd, s.linkUp sd = true → Out.node sd s.ownAddress 0 ((s.ring.sendCount + 1) % 65536) false {
      identity := s.fuses.identity, node := s.ring.node, role := s.ring.role.code, colour := s.ring.colour, lead := s.render.lead, eligible := s.power.mgrEn
      warmReset := s.ring.incarnation % 256 != 0, standby := s.power.standby, bothWays := s.ring.rstate == .closed } ∈ s'.out) ∧ Only [.now, .ring, .out] s s') ∧
  (let silent := s.ring.role = .standby ∧ u.silentFor 1000000 = true ∧ s.ring.election = .idle
   let alone := s.power.mgrEn = true ∧ u.silentFor 20000000 = true ∧ s.ring.election = .idle ∧ s.ring.upAt.isSome = true
   let probes := fun (i : Instr) => ∃ s', exec i s = .next s' ∧ s'.ring = { s.ring with election := .probing now [], sendCount := (s.ring.sendCount + 1) % 65536 } ∧ elect s' 2 0xFF 0 ∧ Only [.now, .ring, .out] s s'
   (silent → probes (.managerSilence t)) ∧ (¬ silent → exec (.managerSilence t) s = .next u) ∧ (alone → probes (.noManagerTimeout t)) ∧ (¬ alone → exec (.noManagerTimeout t) s = .next u) ∧
   ∀ since l, s.ring.election = .probing since l →
    (s.ring.role = .standby → u.silentFor 1000000 = true → since + 1000000 ≤ now → probes (.probeRepeat t)) ∧
    (s.ring.role ≠ .standby ∨ u.silentFor 1000000 = false ∨ now < since + 1000000 → exec (.probeRepeat t) s = .next u) ∧
    (now < since + 300000 → exec (.probeWindowEnd t) s = .next u) ∧
    (since + 300000 ≤ now →
      (s.ring.count < 2 * (l.length + 1) → s.ring.role ≠ .standby → ∃ s', exec (.probeWindowEnd t) s = .next s' ∧ s'.ring = { s.ring with
        election := .claimed now (s.ring.epoch + 1), lowerClaim := false, sendCount := (s.ring.sendCount + 1) % 65536 } ∧ elect s' 0 0xFF (s.ring.epoch + 1) ∧ Only [.now, .ring, .out] s s') ∧
      (s.ring.count < 2 * (l.length + 1) → s.ring.role = .standby → s.ring.mirrored = [] → s.ring.unacked = [] → (∀ x ∈ s.ring.deliveries, x.dst ≠ 0xFD) → ∃ s', exec (.probeWindowEnd t) s = .next s' ∧
        s'.ring.role = .manager ∧ s'.ring.epoch = s.ring.epoch + 1 ∧ s'.ring.election = .idle ∧ s'.ring.standby = none) ∧
      (2 * (l.length + 1) ≤ s.ring.count → s.ring.role ≠ .standby → ∃ s', exec (.probeWindowEnd t) s = .next s' ∧ s'.ring = { s.ring with election := .idle } ∧ Only [.now, .ring] s s') ∧
      (2 * (l.length + 1) ≤ s.ring.count → s.ring.role = .standby → exec (.probeWindowEnd t) s = .next u))) ∧
  (let up := fun (sd : Side) => s.linkUp sd = true ∨ (s.ring.port sd).everTried = true
   (s.firmwareRuns = true → s.ring.upAt = none → up .e → up .w → ∃ s', exec (.ringUp t) s = .next s' ∧ s'.ring.upAt = some now ∧ s'.ring.election = (if s.power.mgrEn = true then .listening now else .idle)) ∧
   (s.firmwareRuns = false ∨ s.ring.upAt.isSome = true ∨ ¬ up .e ∨ ¬ up .w → exec (.ringUp t) s = .next u)) ∧
  (∀ since, s.ring.election = .listening since → (now < since + 1000000 → exec (.electionListenEnd t) s = .next u) ∧ (since + 1000000 ≤ now →
    (s.ring.manager.isSome = true → since ≤ s.ring.beaconAt → ∃ s', exec (.electionListenEnd t) s = .next s' ∧ s'.ring.election = .idle ∧ elect s' 1 0xFF 0 ∧ Only [.now, .ring, .out] s s') ∧
    (s.ring.manager = none ∨ s.ring.beaconAt < since → ∃ s', exec (.electionListenEnd t) s = .next s' ∧ s'.ring.election = .claimed now 1 ∧ elect s' 0 0xFF 1 ∧ Only [.now, .ring, .out] s s'))) ∧
  (∀ since e, s.ring.election = .claimed since e → (now < since + 1000000 → exec (.claimWaitEnd t) s = .next u) ∧ (since + 1000000 ≤ now →
    let told := s.ring.lowerClaim = true ∨ (s.ring.manager.isSome = true ∧ since ≤ s.ring.beaconAt)
    (told → ∃ s', exec (.claimWaitEnd t) s = .next s' ∧ s'.ring.election = .idle ∧ s'.ring.role = s.ring.role ∧ elect s' 1 0xFF 0 ∧ Only [.now, .ring, .out] s s') ∧
    (¬ told → ∃ s', exec (.claimWaitEnd t) s = .next s' ∧ s'.ring.role = .manager ∧ s'.ring.epoch = e ∧ s'.ring.election = .idle ∧ s'.ring.electedAt = now ∧ s'.ring.beaconSent = now ∧
      s'.ring.offset = some (s.ring.offset.getD u.highWater)))) ∧
  (∀ n : Fin 16,
    (s.ring.unreached.any (fun x => x.1 == n.val && decide (x.2 + s.ring.holdMs * 1000000 ≤ now)) = false → exec (.speedHoldExpire n t) s = .next u) ∧
    (∀ m, s.ring.unreached.find? (fun x => x.1 == n.val) = some (n.val, m) → m + s.ring.holdMs * 1000000 ≤ now → ∃ s', exec (.speedHoldExpire n t) s = .next s' ∧ s'.countedLimit n = some (0, 5) ∧
      (s.ring.role = .manager → s.ring.postedV = none → s'.ring.postedV = some u.pressLimit ∧ s'.ring.postedAt = now) ∧ Only [.now, .host, .ring, .out] s s') ∧
    (s.firmwareRuns = false ∨ has n.val u.knownNodes = false ∨ u.reaches n.val = true ∨ s.ring.unreached.any (·.1 == n.val) = true → exec (.nodeUnreachable n t) s = .next u) ∧
    (s.firmwareRuns = true → has n.val u.knownNodes = true → u.reaches n.val = false → s.ring.unreached.any (·.1 == n.val) = false → ∃ s', exec (.nodeUnreachable n t) s = .next s' ∧
      (n.val, now) ∈ s'.ring.unreached ∧ (s.ring.role = .manager → s.ring.standby = some n.val → s'.ring.standby = none))) ∧
  (∀ group page x, s.ring.role = .manager → NoStandby s → s.ring.syncPages.find? (fun x => x.group == group && x.page == page) = some x →
    (x.placed.isSome = true ∨ x.reprint = true ∨ now < x.since + s.ring.holdMs * 1000000 → exec (.syncHoldExpire group page t) s = .next u) ∧
    (x.placed = none → x.reprint = false → x.since + s.ring.holdMs * 1000000 ≤ now → s.syncPage? group page = none →
      let w := u.syncLine group
      ∃ s', exec (.syncHoldExpire group page t) s = .next s' ∧ SMap.find? group s'.ring.syncEnd = some (w + (x.reports.map (·.2)).foldl max 0) ∧
        (∀ y ∈ s'.ring.syncPages, y.group = group → y.page = page → y.placed = some w) ∧
        ∀ d ∈ s.ring.others, ∃ y ∈ s'.ring.unacked, y.src = 0xFD ∧ y.dst = d ∧ y.body = .inl (.syncPlace group page w))) ∧
  (∀ seq,
    let late := s.ring.forwarded.any (fun f => f.seq == seq && f.accepted.any (fun a => decide (a + 1000000000 ≤ now)))
    (late = false → exec (.profileStatusTimeout seq t) s = .next u) ∧
    (late = true → Running s seq → ∃ s', exec (.profileStatusTimeout seq t) s = .next s' ∧ Ended s' seq .unitFenced 8 ∧ s'.ring = { s.ring with forwarded := s.ring.forwarded.filter (·.seq != seq) } ∧
      Only [.now, .host, .journal, .ring, .out] s s')) ∧
  (let idle := s.ring.role = .guest ∨ s.ring.role = .manager ∨ (s.ring.offset.isSome = true ∧ s.ring.offsetWanted = false)
   let asks := fun (s' : State) => s'.ring.offset = s.ring.offset ∧ s'.ring.offsetTriedAt = now ∧ (s.ring.node.isSome = true →
     ∃ y ∈ s'.ring.unacked, y.src = s.ownAddress ∧ y.dst = 0xFD ∧ y.body = .inl (.control .offsetWanted)) ∧ Only [.now, .ring, .out] s s'
   (s.firmwareRuns = false ∨ now < s.ring.offsetTriedAt + 1000000 ∨ idle → exec (.offsetRetry t) s = .next u) ∧
   (s.firmwareRuns = true → s.ring.offsetTriedAt + 1000000 ≤ now → ¬ idle →
    (∀ m w, s.ring.offsetEdge = some (m, w, true) → (s.chan 0).stalled = true → ∃ s', exec (.offsetRetry t) s = .next s' ∧ s'.ring.offset = some (s.pOf (s.chan 0).count - w) ∧
      s'.ring.offsetWanted = false ∧ Only [.now, .ring] s s') ∧
    (∀ m w st, s.ring.offsetEdge = some (m, w, st) → (s.chan 0).edges = [] → (s.chan 0).stalled = false → ∃ s', exec (.offsetRetry t) s = .next s' ∧ s'.ring.offsetWanted = true ∧ asks s') ∧
    (s.ring.offsetEdge = none → ∃ s', exec (.offsetRetry t) s = .next s' ∧ asks s')))

/-! ## Host interface (chapter 09) -/

/-- Bus Master Enable and D3hot (R277, R278). Cleared, the bit holds DMA back, and each unfinished command whose DMA is under way waits from that moment; set again, no command
waits any more (but a nozzle test whose results are in, in D3hot) and, in D0, every pending vector that is not masked has been sent. A command that has waited 100 ms with the bit at 0 completes with CANCELLED and detail
bit 31; before, only the time moves. D3hot is entered and left with the queues' registers as they were. -/
def Obligations.BusMasterAndD3hot : Prop := ∀ (s : State) (t : Nat),
  (s.hostReaches = true → s.host.busMaster = true → ∃ s', exec (.busMasterEnableClear t) s = .next s' ∧ s'.host = { s.host with busMaster := false } ∧
    s'.canSend = false ∧ s'.journal.entries = (s.journal.entries.map fun e => if e.state.final = false ∧ (s.tick t).dmaRunning e = true
      then { e with waitsSince := some (max s.now t) } else e) ∧ Only [.now, .host, .journal] s s') ∧
  (s.hostReaches = true → ∃ s', exec (.busMasterEnableSet t) s = .next s' ∧ s'.host.busMaster = true ∧
    (s.host.d3hot = false ∨ (∀ n, n < 32 → (s.port n).test = none) → ∀ e ∈ s'.journal.entries, e.waitsSince = none) ∧
    (s.host.d3hot = false → ∀ v, v < 13 → (Tbl.get {} s.host.msix v).masked = false → s'.host.pending.getLsbD v = false) ∧
    Only [.now, .host, .journal, .heads, .out] s s') ∧
  (∀ seq e w, s.entry? seq = some e → e.state.final = false → s.host.busMaster = false → e.waitsSince = some w → w + 100000000 ≤ max s.now t →
    s.journal.fences.all (fun f => f.seq != seq) = true → s.store.pages.all (fun p => !(p.seq == seq && p.legacy)) = true →
    ∃ s', exec (.busMasterWaitTimeout seq t) s = .next s' ∧ (s'.entry? seq).map (fun e => (e.state, e.status, e.detail)) = some (.failed, 7, 0x80000000)) ∧
  (∀ seq, (∀ e, s.entry? seq = some e → ∀ w, e.waitsSince = some w → max s.now t < w + 100000000) → exec (.busMasterWaitTimeout seq t) s = .next (s.tick t)) ∧
  (s.hostReaches = true → exec .d3hotEntry s = .next { s with host := { s.host with d3hot := true } }) ∧
  (s.hostReaches = true → ∃ s', exec (.d0Return t) s = .next s' ∧ s'.host.d3hot = false ∧ s'.host.cq = s.host.cq ∧
    (∀ n, (Tbl.get {} s'.host.cc n).head = (Tbl.get {} s.host.cc n).head) ∧ Only [.now, .host, .journal, .heads, .out] s s')

/-- Command queues (R283 to R287). A doorbell writes TAIL; a queue enabled after having been disabled is served, its halt over; a queue disabled is served no more, its
registers as they were; a write of BASE or SIZE to a disabled queue stores its value and sets HEAD and TAIL to 0. No other queue changes. -/
def Obligations.CommandQueueRegisters : Prop := ∀ (s : State) (q : Fin 8), s.hostReaches = true →
  (∀ tail, ∃ s', exec (.cqDoorbell q tail) s = .next s' ∧ s'.cq q.val = { s.cq q.val with tail := tail } ∧ (∀ n, n ≠ q.val → s'.cq n = s.cq n) ∧ Only [.host] s s') ∧
  ((s.cq q.val).enabled = false → ∃ s', exec (.cqEnable q) s = .next s' ∧ s'.cq q.val = { s.cq q.val with enabled := true, halted := false } ∧
    (∀ n, n ≠ q.val → s'.cq n = s.cq n) ∧ Only [.host] s s') ∧
  (∃ s', exec (.cqDisable q) s = .next s' ∧ s'.cq q.val = { s.cq q.val with enabled := false } ∧ (∀ n, n ≠ q.val → s'.cq n = s.cq n) ∧ Only [.host] s s') ∧
  ∀ (reg : RingReg) v, (s.cq q.val).enabled = false → ∃ s', exec (.queueRingConfigWrite false q reg v) s = .next s' ∧
    s'.cq q.val = { s.cq q.val with
      head := 0, tail := 0
      baseLo := if reg = .baseLo then v &&& 0xFFFFFFC0 else (s.cq q.val).baseLo
      baseHi := if reg = .baseHi then v else (s.cq q.val).baseHi
      size := if reg = .size then BitVec.ofNat 13 v.toNat else (s.cq q.val).size } ∧ (∀ n, n ≠ q.val → s'.cq n = s.cq n) ∧ Only [.host] s s'

/-- Acceptance (R284, R285, R287, R296, R298). COMMAND_ACCEPT takes the entry of the queue that is next, which is CQ0 while it waits: the entry gets the next journal
sequence, is journaled with its opcode, tag and parameters as read, its sequence is written back and HEAD advances; an opcode that chapter 10 does not assign fails
with BAD_OPCODE, one that the mode forbids with NOT_IN_MODE, and any other is accepted. A DMA error halts the queue; a full carry area stops acceptance with JNLWAIT until
JOURNAL_CARRY_FREED; CARRY_READABLE_LAPSE ends the reading of a final entry at its moment. -/
def Obligations.CommandAcceptance : Prop := ∀ (s : State) (t n : Nat),
  ((s.tick t).servesQueues = true → s.canSend = true → s.nextQueue = some n → (s.cq 0).waits = true → n = 0) ∧
  (∀ bytes, (s.tick t).servesQueues = true → s.canSend = true → s.nextQueue = some n → (s.tick t).carryFull = false → s.shotAt 0x03 0 = false →
    s.entry? (s.seqOf s.journal.next) = none → s.journal.fences.all (fun f => f.seq != s.seqOf s.journal.next) = true →
    ∃ s', exec (.commandAccept (some bytes) t) s = .next s' ∧ s'.journal.next = s.journal.next + 1 ∧
      (s'.cq n).head = BitVec.ofNat 12 (((s.cq n).head.toNat + 1) % (s.cq n).size.toNat) ∧
      Out.sequence n (s.cq n).head.toNat (s.seqOf s.journal.next) ∈ s'.out ∧
      (s'.entry? (s.seqOf s.journal.next)).map (fun e => (e.opcode, e.tag, e.queue, e.params)) = some (leAt bytes 0 2, w32 (leAt bytes 4 4), n, bytesAt bytes 16 48) ∧
      (s'.entry? (s.seqOf s.journal.next)).map (fun e => (e.state, e.status)) = some (
        if opcodes.contains (leAt bytes 0 2) = false then (.failed, 1) else if modeForbids s.power.mode (leAt bytes 0 2) = true then (.failed, 3) else (.accepted, 0))) ∧
  ((s.tick t).servesQueues = true → s.canSend = true → s.nextQueue = some n → (s.tick t).carryFull = false →
    ∃ s', exec (.commandAccept none t) s = .next s' ∧ s'.cq n = { s.cq n with halted := true } ∧ s'.journal = s.journal) ∧
  ((s.tick t).servesQueues = true → s.canSend = true → s.nextQueue = some n → (s.tick t).carryFull = true → s.host.jnlWait = false →
    ∀ e, ∃ s', exec (.commandAccept e t) s = .next s' ∧ s'.host.jnlWait = true ∧ s'.host.cq = s.host.cq ∧ s'.journal = s.journal) ∧
  (s.host.jnlWait = true → (s.tick t).carryFull = false → ∃ s', exec (.journalCarryFreed t) s = .next s' ∧ s'.host.jnlWait = false ∧ s'.journal = s.journal) ∧
  ∀ seq, ∃ s', exec (.carryReadableLapse seq t) s = .next s' ∧ Only [.now, .journal] s s' ∧
    (∀ e ∈ s.journal.entries, e ∈ s'.journal.entries ↔ ¬(e.seq = seq ∧ ∃ u, e.readableUntil = some u ∧ u ≤ max s.now t))

/-- Completion queues (R289 to R292, R295). Enabling a queue sets TAIL and HEAD to 0 and the phase to 1 and posts the bar's speed limit if it is routed there; disabling it drops
what is held. A write of BASE or SIZE to a disabled queue sets HEAD and TAIL to 0. A write of HEAD that makes room writes the oldest completion held at TAIL with the
phase of the pass. COALESCE_TIMEOUT, once the oldest has waited TIME µs, starts the count afresh and sends the queue's vector, or leaves it pending where it is masked or
nothing can be sent; before, only the time moves. -/
def Obligations.CompletionQueues : Prop := ∀ (s : State) (q : Fin 8) (t : Nat),
  let cc := fun (x : State) => (Tbl.get {} x.host.cc q.val : CompQueue)
  (s.hostReaches = true → (cc s).enabled = false → s.heads.governor.barRoute = none → s.ring.pressRoute = none → ∃ s', exec (.ccEnable q) s = .next s' ∧
    cc s' = { cc s with enabled := true, tail := 0, head := 0, phase := true, held := [], since := 0, oldest := none } ∧ Only [.host] s s') ∧
  (∀ r v c, s.hostReaches = true → s.canSend = true → (cc s).enabled = false → s.heads.governor.barRoute = some r → r.cc = q.val → s.heads.governor.published = some (v, c) →
    2 ≤ (cc s).size.toNat → ∃ s', exec (.ccEnable q) s = .next s' ∧ (cc s').enabled = true ∧
      Out.completion q.val 0 (({ tag := r.tag, seq := r.seq, queue := 0, status := 0, detail := speedDetail v c 0, noInterrupt := false, source := 1 } : Completion).bytes true) ∈ s'.out) ∧
  (s.hostReaches = true → ∃ s', exec (.ccDisable q) s = .next s' ∧ cc s' = { cc s with enabled := false, held := [], since := 0, oldest := none } ∧ Only [.host] s s') ∧
  (∀ (reg : RingReg) v, s.hostReaches = true → (cc s).enabled = false → ∃ s', exec (.queueRingConfigWrite true q reg v) s = .next s' ∧
    (cc s').head = 0 ∧ (cc s').tail = 0 ∧ (reg = .size → (cc s').size = BitVec.ofNat 15 v.toNat) ∧ (reg = .baseLo → (cc s').baseLo = v &&& 0xFFFFFFC0) ∧
    (reg = .baseHi → (cc s').baseHi = v) ∧ Only [.host] s s') ∧
  (∀ h, s.hostReaches = true → (cc s).held = [] → ∃ s', exec (.ccHeadWrite q h) s = .next s' ∧ cc s' = { cc s with head := h } ∧ Only [.host] s s') ∧
  (∀ h c l, s.hostReaches = true → s.canSend = true → (cc s).enabled = true → (cc s).held = c :: l → ({ cc s with head := h } : CompQueue).full = false →
    ∃ s', exec (.ccHeadWrite q h) s = .next s' ∧ Out.completion q.val (cc s).tail.toNat (c.bytes (cc s).phase) ∈ s'.out) ∧
  (∀ o, (cc s).coalTime ≠ 0 → (cc s).oldest = some o → o + (cc s).coalTime.toNat * 1000 ≤ max s.now t → ∃ s', exec (.coalesceTimeout q t) s = .next s' ∧
    cc s' = { cc s with since := 0, oldest := none } ∧
    (s.power.mode ≠ .hb8 → if s.canSend = true ∧ (Tbl.get {} s.host.msix q.val).masked = false then s'.out = .msix q.val :: s.out
      else s'.host.pending.getLsbD q.val = true)) ∧
  ((cc s).coalTime = 0 ∨ (∀ o, (cc s).oldest = some o → max s.now t < o + (cc s).coalTime.toNat * 1000) → exec (.coalesceTimeout q t) s = .next (s.tick t))

/-- The debug unlock (R301). DBG_REQ writes SCOPE and, unless the unlock is barred, issues 32 bytes and the 16-byte unique identity as the challenge, with STATE 1. DBG_SUBMIT in
STATE 1 opens the scope with STATE 2 where the response verifies; where it does not, TRIES goes up by 1 and STATE is 0, or 3 at the third failure. DBG_LOCK closes every scope, and a
challenge lapses after 10 minutes; a barred unlock stays barred. -/
def Obligations.DebugUnlock : Prop := ∀ (s : State) (t : Nat),
  (∀ sc bytes, s.hostReaches = true → s.host.dbgState ≠ 3 → ∃ s', exec (.dbgReq sc bytes t) s = .next s' ∧ s'.host.dbgState = 1 ∧ s'.host.dbgScope = sc ∧
    s'.host.dbgChallenge = bytesAt bytes 0 32 ++ leBytes 16 s.fuses.identity ∧ s'.host.dbgAt = max s.now t ∧ s'.host.dbgTries = s.host.dbgTries) ∧
  (∀ sc bytes, s.hostReaches = true → s.host.dbgState = 3 → ∃ s', exec (.dbgReq sc bytes t) s = .next s' ∧ s'.host.dbgState = 3 ∧ s'.host.dbgChallenge = s.host.dbgChallenge) ∧
  (s.hostReaches = true → s.host.dbgState = 1 → ∃ s', exec (.dbgSubmit t) s = .next s' ∧
    (s'.host.dbgState, s'.host.dbgTries, s'.host.bar2Open, s'.host.jtagOpen) =
      if s.dbgVerifies = true then (2, s.host.dbgTries, s.host.bar2Open || s.host.dbgScope.getLsbD 0, s.host.jtagOpen || s.host.dbgScope.getLsbD 1)
      else (if 3 ≤ s.host.dbgTries + 1 then 3 else 0, s.host.dbgTries + 1, s.host.bar2Open, s.host.jtagOpen)) ∧
  (s.hostReaches = true → ∃ s', exec (.dbgLock t) s = .next s' ∧ s'.host.bar2Open = false ∧ s'.host.jtagOpen = false ∧
    s'.host.dbgState = if s.host.dbgState = 3 then 3 else 0) ∧
  (s.host.dbgState = 1 → s.host.dbgAt + 600000000000 ≤ max s.now t → ∃ s', exec (.debugChallengeLapse t) s = .next s' ∧ s'.host.dbgState = 0 ∧ s'.host.dbgChallenge = []) ∧
  (s.host.dbgState ≠ 1 ∨ max s.now t < s.host.dbgAt + 600000000000 → exec (.debugChallengeLapse t) s = .next (s.tick t))

/-- Reads and writes of BAR0 and BAR2 (R280, R281, R302). A 64-bit write of JNL_CURSOR stores it and selects what JNL_WINDOW shows, a write of FLT_INJECT and of MBX_CCn_COAL stores its
fields, and unmasking a vector that is pending sends it. A write at an offset of BAR0 that the host may not write, or that is not aligned, leaves the state as it is. A read of the low half of a
64-bit register returns it and latches the high half, and one of HB_ERR clears it; a locked BAR2, and an access past its end, reads as 0; an open one returns what the spec places there
and free bytes elsewhere, poisoned exactly where a word is uncorrectable
(log 30). -/
def Obligations.RegisterAccess : Prop := ∀ s : State, s.hostReaches = true →
  (∀ v : BitVec 64, exec (.registerWrite 0xB0000 true v) s = .next { s with journal := { s.journal with cursor := v } }) ∧
  (∀ v : BitVec 64, exec (.registerWrite 0x10030 false v) s = .next { s with flt := { s.flt with injChecker := v.setWidth 9, injUnit := (v >>> 16).setWidth 8 } }) ∧
  (∀ (q : Fin 8) (v : BitVec 64), ∃ s', exec (.registerWrite (0x1114 + 0x20 * q.val) false v) s = .next s' ∧ Only [.host] s s' ∧
    Tbl.get {} s'.host.cc q.val = { (Tbl.get {} s.host.cc q.val : CompQueue) with coalCount := v.setWidth 8, coalTime := (v >>> 16).setWidth 10 }) ∧
  (∀ n v, n < 13 → v.getLsbD 0 = false → s.canSend = true → s.host.pending.getLsbD n = true → ∃ s', exec (.registerWrite (0x200C + 16 * n) false v) s = .next s' ∧
    (Tbl.get {} s'.host.msix n).masked = false ∧ s'.host.pending.getLsbD n = false ∧ Out.msix n ∈ s'.out) ∧
  (∀ off v, off < 0x4000000 → off % 4 = 0 → (off < 0x1100 ∨ 0x1200 ≤ off ∨ off % 0x20 ≠ 0x14) → off ≠ 0x1300 → (off < 0x1340 ∨ 0x13A0 < off) → (off < 0x2000 ∨ 0x2200 ≤ off) →
    off ≠ 0x10030 → off ≠ 0x20000 → off ≠ 0xB0000 → off ≠ 0xB0004 → exec (.registerWrite off false v) s = .next s) ∧
  (∀ off v, off % 4 ≠ 0 → exec (.registerWrite off false v) s = .next s ∧ exec (.registerWrite off true v) s = .next s) ∧
  (∀ off, wideRegister off = true → exec (.lowHalfRead off) s = .next { s with
    out := .readData off ((s.readHalf off).zeroExtend 64) :: s.out, evt := { s.evt with overflowArmed := s.evt.overflowArmed || off == 0x20010 }
    host := { s.host with latch := SMap.insert (off + 4) (s.readWord (off + 4)) (SMap.erase (off + 4) s.host.latch) } }) ∧
  (s.hbOpen = true → ∃ s', exec (.lowHalfRead 0x400000C) s = .next s' ∧ s'.hb.err = 0 ∧ Out.readData 0x400000C ((s.readHalf 0x400000C).zeroExtend 64) ∈ s'.out ∧ Only [.hb, .out] s s') ∧
  (∀ off len bad t, s.host.bar2Open = false ∨ 0x10000000 < off + min len 64 → exec (.bar2ApertureRead off len bad t) s = .next { s with
    now := max s.now t, out := .aperture (List.replicate (min len 64) 0) false :: s.out }) ∧
  ∀ off len bad t, s.host.bar2Open = true → off + min len 64 ≤ 0x10000000 → ∃ s' bytes, exec (.bar2ApertureRead off len bad t) s = .next s' ∧
    Out.aperture bytes bad.isSome ∈ s'.out ∧ bytes.length = min len 64 ∧ (∀ i b, i < bytes.length → (s.tick t).apertureByte (off + i) = some b → bytes[i]? = some b) ∧
    Only [.now, .host, .dmc, .evt, .out, .free] s s'

/-! ## Host commands, device and diagnostic commands (chapter 10) -/

/-- What holds for every host command but ARM_PRINT (R305 to R307, R317, R286). One that the journal does not hold as accepted and free to start changes nothing but the
time. One that may start and whose host memory can be reached completes with NOT_IN_MODE in HB-8 mode where R306 lists it; in the fault state, unless R307 lists it, it
completes with DENIED (or NOT_IN_MODE, which R305 checks first), an axis command with its position and status (R327); after SHUTDOWN_PREPARE, unless R317 lets it through, it fails. In each case nothing changes but the journal, its
completion and the records of the host interface. -/
def Obligations.HostCommandsRefused : Prop := ∀ (i : Instr) (seq op t : Nat) (s : State) (e : JEntry), hostCommand i = some (seq, op, t) →
  ((s.tick t).startable seq op = none → exec i s = .next (s.tick t)) ∧
  ((s.tick t).startable seq op = some e → s.canSend = true → s.journal.fences.all (fun f => f.seq != seq) = true →
    (s.power.mode = .hb8 → (op / 256 = 2 ∨ op / 256 = 3 ∨ op / 256 = 4 ∨ op / 256 = 5 ∨ op = 0x0601 ∨ op = 0x0602 ∨ op = 0x0A01) →
      ∃ s', exec i s = .next s' ∧ Ended s' seq .notInMode ∧ Only [.now, .host, .journal, .out] s s') ∧
    (s.flt.faultState = true → op ∉ [0x0101, 0x0102, 0x0105, 0x0106, 0x0801, 0x0B02, 0x0C01, 0x0C02, 0x0C03] → (op = 0x0104 → e.p8 0 ≠ 0) →
      let w := if op / 256 = 9 then (w32i (s.axisPosition e.axis), s.axisStatus e.axis) else (0, 0)
      ∃ s', exec i s = .next s' ∧ (Ended s' seq .denied 0 w.1 w.2 ∨ Ended s' seq .notInMode) ∧ Only [.now, .host, .journal, .out] s s') ∧
    (s.journal.shutDown = true → op ∉ [0x0101, 0x0102] → (op = 0x0104 → e.p8 0 ≠ 0) →
      ∃ s', exec i s = .next s' ∧ (s'.entry? seq).map (·.state) = some .failed ∧ Only [.now, .host, .journal, .evt, .out] s s'))

/-- IDENTIFY writes 64 bytes: the identity of the fuses, ID_DEVICE, ID_STEPPING, ID_MODE, ID_FWVER and ID_CONFIG, the boot epoch, the head ports present, the colour, the
role and the node number (R313, R314). GET_STATUS writes a header with the mask of the sections that fit, the total length and the device time count, and then those sections in their order; a section asked
for is left out only where it does not fit, and nothing is written past the buffer named (R315). -/
def Obligations.IdentifyAndStatus : Prop := ∀ (s : State) (seq t : Nat) (e : JEntry) (out : HostList),
  (Runs s t seq 0x0101 true e → Checked (fun _ e => ({ params := listRefOk e 0 ++ listOk 0 out (fun n => decide (64 ≤ n)) } : Checks)) s t e →
    ∃ s' b, exec (.identify seq out t) s = .next s' ∧ Out.buffer seq 0 b ∈ s'.out ∧ b.length = 64 ∧
      leAt b 0 16 = s.fuses.identity % 2 ^ 128 ∧ leAt b 16 4 = 0x3216 ∧ leAt b 20 4 = 0xA1 ∧ leAt b 24 4 = s.idMode.toNat ∧ leAt b 28 4 = s.power.fwVersion.toNat ∧
      leAt b 32 4 = s.idConfig.toNat ∧ leAt b 36 4 = s.journal.epoch % 2 ^ 32 ∧ leAt b 40 4 = s.portsPresent.toNat ∧ leAt b 44 1 = s.ring.colour % 256 ∧
      leAt b 45 1 = s.ring.role.code ∧ leAt b 46 1 = s.ring.node.getD 0 % 256 ∧
      Ended s' seq .ok 0 s.power.fwVersion (w32 s.journal.epoch) s.portsPresent s.idConfig ∧ Only [.now, .host, .journal, .out] s s') ∧
  (Runs s t seq 0x0102 true e →
    Checked (fun _ e => ({ params := listRefOk e 0 ++ [fieldOk 12 (bits (e.p8 12) 0 5 != 0)] ++ listOk 0 out (fun n => decide (16 ≤ n)) } : Checks)) s t e →
    ∃ s' b, exec (.getStatus seq out t) s = .next s' ∧ Out.buffer seq 0 b ∈ s'.out ∧ b.length ≤ HostListTotal out ∧
      leAt b 4 4 = b.length ∧ leAt b 8 8 = max s.now t % 2 ^ 64 ∧ (∀ i, bitOf (leAt b 0 4) i = true → i < 5 ∧ bitOf (e.p8 12) i = true) ∧
      (let u := (s.tick t).start seq true
       let written := fun (n : Nat) => ((List.range n).filter (bitOf (leAt b 0 4))).flatMap u.statusSection
       b.drop 16 = written 5 ∧ ∀ i, i < 5 → bitOf (e.p8 12) i = true → (bitOf (leAt b 0 4) i = true ↔ 16 + (written i).length + (u.statusSection i).length ≤ HostListTotal out)) ∧
      Ended s' seq .ok 0 (w32 (leAt b 0 4)) (w32 b.length) ∧ Only [.now, .host, .journal, .out] s s')

/-- SET_TIME on the manager (R262). The absolute form makes the calendar show, at the device time count named, the time named; the offset form removes up to 10 ms by slewing, the
time now staying as it is, and a larger offset as a step at once; the frequency form sets the rate, with the time now as it is. Calendar time is valid from then on. The words name
the form and the step. -/
def Obligations.SetTime : Prop := ∀ (s : State) (seq t : Nat) (e : JEntry), Runs s t seq 0x0103 false e → s.ring.role = .manager →
  let now := max s.now t
  let cal := s.ring.calAt now
  (e.p8 0 = 0 → ∃ s', exec (.setTime seq t) s = .next s' ∧ s'.ring.calValid = true ∧ s'.ring.calAt now = ofTimeField (e.p64 16) + ((now : Int) - e.p64 8) ∧
    Ended s' seq .ok 0 0 (half (BitVec.ofInt 64 (s'.ring.calAt now - cal)) false) (half (BitVec.ofInt 64 (s'.ring.calAt now - cal)) true)) ∧
  (e.p8 0 = 1 → (e.s64 8).natAbs ≤ 10000000 → ∃ s', exec (.setTime seq t) s = .next s' ∧ s'.ring.calValid = true ∧ s'.ring.calAt now = cal ∧ s'.ring.slew = e.s64 8 ∧
    s'.ring.timeAt = now ∧ Ended s' seq .ok 0 1) ∧
  (e.p8 0 = 1 → 10000000 < (e.s64 8).natAbs → ∃ s', exec (.setTime seq t) s = .next s' ∧ s'.ring.calValid = true ∧ s'.ring.calAt now = cal + e.s64 8 ∧ s'.ring.slew = 0 ∧
    Ended s' seq .ok 0 1 (half (BitVec.ofInt 64 (e.s64 8)) false) (half (BitVec.ofInt 64 (e.s64 8)) true)) ∧
  (e.p8 0 = 2 → -100000 ≤ e.s32 8 → e.s32 8 ≤ 100000 → ∃ s', exec (.setTime seq t) s = .next s' ∧ s'.ring.calValid = true ∧ s'.ring.calAt now = cal ∧ s'.ring.rate = e.s32 8 ∧
    Ended s' seq .ok 0 2)

/-- FENCE (R311, R312). With nothing to wait for it completes with OK. With an earlier command of a named queue, other than its own, accepted and no FENCE itself, it runs on, waiting for that command
and for none accepted after itself, with its deadline. FENCE_TIMEOUT ends it with BUSY and its words; before its deadline, or with none, only the time moves. -/
def Obligations.FenceWaitsForEarlier : Prop := ∀ (s : State) (seq t : Nat) (e : JEntry),
  (Runs s t seq 0x0106 false e → e.p8 1 ≤ 1 → (∀ x ∈ s.journal.entries, x.seq < seq → x.queue < 8 → x.queue ≠ e.queue → bitOf (e.p8 0) x.queue = true → x.state.final = true) →
    ∃ s', exec (.fence seq t) s = .next s' ∧ Ended s' seq .ok) ∧
  (∀ x ∈ s.journal.entries, Runs s t seq 0x0106 false e → e.p8 1 ≤ 1 → x.seq < seq → x.queue < 8 → x.queue ≠ e.queue → bitOf (e.p8 0) x.queue = true → x.state = .accepted →
    s.entry? x.seq = some x → s.journal.fences.all (fun f => f.seq != x.seq) = true →
    ∃ s' f, exec (.fence seq t) s = .next s' ∧ InProgress s' seq ∧ f ∈ s'.journal.fences ∧ f.seq = seq ∧ x.seq ∈ f.waits ∧ (∀ q ∈ f.waits, q < seq) ∧
      f.deadline = (if e.p32 4 = 0 then none else some (max s.now t + e.p32 4 * 1000000))) ∧
  (∀ f d, s.journal.fences.find? (fun f => f.seq == seq) = some f → f.deadline = some d → d ≤ max s.now t → InProgress s seq →
    ∃ s', exec (.fenceTimeout seq t) s = .next s' ∧ Ended s' seq .busy 0 (w32 f.count) (w32 f.highest) ∧ Only [.now, .host, .journal, .out] s s') ∧
  ((∀ f, s.journal.fences.find? (fun f => f.seq == seq) = some f → ∀ d, f.deadline = some d → max s.now t < d) → exec (.fenceTimeout seq t) s = .next (s.tick t))

/-- Firmware updates (R313, R318, R444, R445). FW_UPDATE_BEGIN opens an update of the length named; one that finds an update open completes with BUSY and abandons it (log 35). A chunk inside the
image is written at its offset in the slot that the boot record does not name, the later one winning. FW_UPDATE_COMMIT of a whole image either finds the signature good, makes the slot
active and, with bit 0, starts a warm reset, or completes with DENIED and leaves the flash as it is. -/
def Obligations.FirmwareUpdate : Prop := ∀ (s : State) (seq t : Nat) (e : JEntry),
  (Runs s t seq 0x0107 false e → 4096 ≤ e.p32 0 → e.p32 0 ≤ 16777216 → ∃ s', exec (.fwUpdateBegin seq t) s = .next s' ∧ s'.flash = s.flash ∧ s'.journal.fwBytes = [] ∧
    if s.journal.fwLength = none then Ended s' seq .ok 0 (w32 (e.p32 0)) ∧ s'.journal.fwLength = some (e.p32 0)
    else Ended s' seq .busy ∧ s'.journal.fwLength = none) ∧
  (∀ (inp : HostList) n, Runs s t seq 0x0108 true e → s.journal.fwLength = some n → e.p32 12 + inp.data.length ≤ n → Checked (fun _ e => ({ params := listRefOk e 0 ++ listOk 0 inp (fun _ => true) } : Checks)) s t e →
    ∃ s', exec (.fwUpdateChunk seq inp t) s = .next s' ∧ Ended s' seq .ok 0 (w32 inp.data.length) ∧ s'.journal.fwLength = some n ∧
      (∀ i, i < inp.data.length → (s'.flash.image s.flash.inactive).getD (e.p32 12 + i) 0xFF = inp.data.getD i 0xFF) ∧
      (∀ i, i < e.p32 12 ∨ e.p32 12 + inp.data.length ≤ i → (s'.flash.image s.flash.inactive).getD i 0xFF = (s.flash.image s.flash.inactive).getD i 0xFF) ∧
      s'.flash.image s.flash.boot.slot = s.flash.image s.flash.boot.slot) ∧
  (∀ n, Runs s t seq 0x0109 false e → s.updateWhole = true → s.journal.fwLength = some n → ∃ s', exec (.fwUpdateCommit seq t) s = .next s' ∧ s'.journal.fwLength = none ∧
    if imageValid s.fuses.firmwareKey ((s.flash.image s.flash.inactive).take n) = true then
      s'.flash.bootA = (s.flash.writeBoot s.flash.inactive s.journal.epoch).bootA ∧ s'.flash.bootB = (s.flash.writeBoot s.flash.inactive s.journal.epoch).bootB ∧
      (bitOf (e.p8 0) 0 = false → Ended s' seq .ok 0 (imageVersion ((s.flash.image s.flash.inactive).take n))) ∧
      (bitOf (e.p8 0) 0 = true → s'.power.phase = .warmReset ∧ s'.power.resetCause = 2 ∧ s'.power.commitSeq = some (seq, imageVersion ((s.flash.image s.flash.inactive).take n)))
    else Ended s' seq .denied ∧ s'.flash = s.flash)

/-- RESET_UNIT and SHUTDOWN_PREPARE (R316, R317). With the device scope the entry is done and a warm reset of kind 2 has started. An axis is left unconfigured and at rest; a
pennant and a decompression unit in service are fenced, each with its reset issued and the command waiting for the return; a halyard port trains again. SHUTDOWN_PREPARE marks every head entry and
the calibration set to be written, disarms at once in the immediate form, and waits for the writes. -/
def Obligations.ResetUnitAndShutdown : Prop := ∀ (s : State) (seq t : Nat) (e : JEntry),
  (Runs s t seq 0x0104 false e → Checked resetUnitChecks s t e →
    (e.p8 0 = 0 → ∃ s', exec (.resetUnit seq t) s = .next s' ∧ Ended s' seq .ok ∧ s'.power.phase = .warmReset ∧ s'.power.resetCause = 2 ∧ s'.pos.armed = false) ∧
    (e.p8 0 = 1 → ∃ s', exec (.resetUnit seq t) s = .next s' ∧ (s'.pennant (e.p8 1)).resetDue = true ∧
      (s'.pennant (e.p8 1)).resetCmd = some (seq, max s.now t)) ∧
    (e.p8 0 = 2 → (s.port (e.p8 1)).hot = false → ∃ s', exec (.resetUnit seq t) s = .next s' ∧ (s'.port (e.p8 1)).resetCmd = some (seq, max s.now t)) ∧
    (e.p8 0 = 2 → (s.port (e.p8 1)).hot = true → (∀ x, (s.port (e.p8 1)).resetCmd = some x → x.1 ≠ seq) → ∃ s', exec (.resetUnit seq t) s = .next s' ∧ Ended s' seq .unitFenced 0 2) ∧
    (e.p8 0 = 3 → ∃ s', exec (.resetUnit seq t) s = .next s' ∧ (s'.ring.port (if e.p8 1 = 0 then .e else .w)).state = .training ∧
      (s'.ring.port (if e.p8 1 = 0 then .e else .w)).resetCmd = some (seq, max s.now t)) ∧
    (e.p8 0 = 4 → ∃ s', exec (.resetUnit seq t) s = .next s' ∧ (s'.unit (e.p8 1)).resetDue = true ∧ (s'.unit (e.p8 1)).work = none ∧
      (s'.unit (e.p8 1)).resetCmd = some (seq, max s.now t)) ∧
    (e.p8 0 = 5 → ∃ s', exec (.resetUnit seq t) s = .next s' ∧ (s'.axis (e.p8 1)).state = .unconfigured ∧ (s'.axis (e.p8 1)).configured = false ∧ (s'.axis (e.p8 1)).motion = none ∧
      (s'.axis (e.p8 1)).faultStop = false ∧ (s'.axis (e.p8 1)).resetCmd = some (seq, max s.now t))) ∧
  (Runs s t seq 0x0105 false e → e.p8 0 ≤ 1 → s.power.commitSeq = none → s.journal.shutdownSeq = none → ∃ s', exec (.shutdownPrepare seq t) s = .next s' ∧
    s'.journal.shutdownSeq = some seq ∧ s'.cal.setDirty = some (s.cal.setDirty.getD (max s.now t)) ∧ (e.p8 0 = 1 → s'.pos.armed = false) ∧
    (∀ h ∈ s'.flash.heads, h.holder ≠ 0 → h.urgent = true ∧ h.dirtyAt.isSome = true))

/-- The diagnostic commands (R240, R241, R329, R404). LOOPBACK_SET sets the loopback of a head port or puts a halyard port into or out of one, with the count of blocks in error so far as its
word, which starts again at 0; a halyard port then sends PRBS31. LANE_EYE_SCAN runs until LANE_EYE_SCAN_DONE writes one 32-bit count per point, which waits while DMA is stopped; with no error in any point the spans are whole. SELFTEST runs inside an episode that it opens or joins, and SELFTEST_DONE
ends it with the tests passed and failed. -/
def Obligations.DiagnosticCommands : Prop := ∀ (s : State) (seq t : Nat) (e : JEntry),
  (Runs s t seq 0x0E01 false e → Checked loopbackChecks s t e →
    (e.p8 0 = 2 → ∃ s', exec (.loopbackSet seq t) s = .next s' ∧ (s'.port (e.p8 1)).loopback = e.p8 2 ∧ Ended s' seq .ok 0 (w32 (s.port (e.p8 1)).lpErrors) ∧
      (s'.port (e.p8 1)).lpErrors = 0) ∧
    (e.p8 0 < 2 → e.p8 2 ≠ 0 → ∃ s', exec (.loopbackSet seq t) s = .next s' ∧ (s'.ring.port (targetSide (e.p8 0))).state = .loopback ∧
      (s'.ring.port (targetSide (e.p8 0))).loop = e.p8 2 ∧ (s'.ring.port (targetSide (e.p8 0))).lpErr = 0 ∧ Out.prbs31 (targetSide (e.p8 0)) true ∈ s'.out ∧ Ended s' seq .ok 0 (w32 (s.ring.port (targetSide (e.p8 0))).lpErr)) ∧
    (e.p8 0 < 2 → e.p8 2 = 0 → (s.ring.port (targetSide (e.p8 0))).state = .loopback → ∃ s', exec (.loopbackSet seq t) s = .next s' ∧
      (s'.ring.port (targetSide (e.p8 0))).state = .training ∧ Ended s' seq .ok 0 (w32 (s.ring.port (targetSide (e.p8 0))).lpErr))) ∧
  (∀ out, Runs s t seq 0x0E02 true e → Checked (eyeScanChecks out) s t e → ∃ s', exec (.laneEyeScan seq out t) s = .next s' ∧ InProgress s' seq ∧ Only [.now, .host, .journal, .out] s s') ∧
  (∀ counts x, s.runningCommand 0x0E02 = some x → s.entry? x.seq = some x → s.journal.fences.all (fun f => f.seq != x.seq) = true → counts.length = x.p8 16 * x.p8 17 → s.canSend = true →
    s.firmwareRuns = true → ∃ s' w h, exec (.laneEyeScanDone counts t) s = .next s' ∧ Out.buffer x.seq 0 (counts.flatMap fun c => leBytes 4 c) ∈ s'.out ∧ Ended s' x.seq .ok 0 (w32 w) (w32 h) ∧
      w ≤ x.p8 16 ∧ h ≤ x.p8 17 ∧ ((∀ c ∈ counts, c = 0) → 0 < x.p8 16 → 0 < x.p8 17 → w = x.p8 16 ∧ h = x.p8 17)) ∧
  (∀ counts x, s.runningCommand 0x0E02 = some x → counts.length = x.p8 16 * x.p8 17 → s.canSend = false → s.firmwareRuns = true → ∃ s', exec (.laneEyeScanDone counts t) s = .next s' ∧
    (InProgress s x.seq → InProgress s' x.seq) ∧ Only [.now, .journal] s s') ∧
  (Runs s t seq 0x0E03 false e → (bitOf (e.p8 0) 0 = true → s.pos.armed = false) → ∃ s', exec (.selftest seq t) s = .next s' ∧ InProgress s' seq ∧ s'.evt.openers = s.evt.openers ++ [1]) ∧
  (∀ p f b x, s.runningCommand 0x0E03 = some x → s.entry? x.seq = some x → s.journal.fences.all (fun f => f.seq != x.seq) = true → s.firmwareRuns = true →
    ∃ s', exec (.selftestDone p f b t) s = .next s' ∧ Ended s' x.seq (if b then .unitFenced else .ok) 0 (w32 p) (w32 f) ∧ (s.evt.openers = [1] → s'.evt.openers = []))

/-- CAL_READ (R330, R215). Selector 0 writes the 1,024 words of the CAL_ register block, selector 6 the loop policy in 48 bytes, and every selector but the exports completes with the number of bytes that it
wrote. The fire history of a range that holds no period, and the journal of a range that holds no entry, end at once; otherwise the export runs as a compression job bounded by the buffer. -/
def Obligations.CalReadSelectors : Prop := ∀ (s : State) (seq t : Nat) (e : JEntry) (out : HostList), Runs s t seq 0x0B02 true e → Checked (calReadChecks out) s t e →
  (e.p8 12 ≠ 3 → e.p8 12 ≠ 7 → ∃ s' b, exec (.calRead seq out t) s = .next s' ∧ Out.buffer seq 0 b ∈ s'.out ∧ Ended s' seq .ok 0 (w32 b.length) ∧
    (e.p8 12 = 0 → b.length = 4096 ∧ ∀ i, i < 1024 → leAt b (4 * i) 4 = (s.calReg (4 * i)).toNat) ∧
    (e.p8 12 = 1 → b.length = 4 * e.p32 20) ∧ (e.p8 12 = 2 → b.length = 131072) ∧ (e.p8 12 = 5 → b.length = 512) ∧
    (e.p8 12 = 6 → b = s.loop.policy.bytes ∧ b.length = 48) ∧ Only [.now, .host, .journal, .out] s s') ∧
  (e.p8 12 = 3 → s.periodsFrom (e.s64 16) (e.p32 24) = [] → ∃ s', exec (.calRead seq out t) s = .next s' ∧ (s'.entry? seq).map (·.state) = some .done ∧ s'.codec = s.codec) ∧
  (e.p8 12 = 3 → s.periodsFrom (e.s64 16) (e.p32 24) ≠ [] → ∃ s', exec (.calRead seq out t) s = .next s' ∧ InProgress s' seq ∧
    ∃ j ∈ s'.codec.jobs, j.seq = seq ∧ j.decode = false ∧ j.limit = HostListTotal out) ∧
  (e.p8 12 = 7 → ∃ s', exec (.calRead seq out t) s = .next s' ∧ ((s'.entry? seq).map (·.state) = some .done ∨
    InProgress s' seq ∧ ∃ j ∈ s'.codec.jobs, j.seq = seq ∧ j.decode = false ∧ j.limit = HostListTotal out))

/-! ## Motion axes (chapter 11) -/

/-- Motion axes (R327, R328, R333, R335 to R337, R340 to R350). AXIS_CONFIG puts the axis at rest with its set-point at its present position; AXIS_SET_LIMITS takes effect at rest and is staged while the speed changes; AXIS_MOVE, AXIS_JOG and AXIS_HOME start a motion from the present set-point and speed, in place of one that ends with CANCELLED,
and end at once in the direction of an active limit; AXIS_STOP makes a ramp stop, and completes at rest. Each port cycle sends one slot for each axis: disable unconfigured, set-point in every m-th cycle, hold otherwise. A good reply is taken; a bad or missing one is counted, and the third in a row, or a drive fault, is an axis fault.
A limit stops a motion toward it, at once or by a ramp; the home input ends the way off it and the search; a jog ends with its duration. -/
def Obligations.MotionAxes : Prop := ∀ (s : State) (t : Nat),
  let u := s.tick t
  let now := max s.now t
  let others := fun (s' : State) (n : Nat) => ∀ k, k ≠ n → s'.axis k = s.axis k
  (∀ seq e, Runs s t seq 0x0901 false e → Checked axisConfigChecks s t e → 1 ≤ e.p8 0 → ∃ s', exec (.axisConfig seq t) s = .next s' ∧ EndedAs s' seq .ok ∧ s'.axis (e.p8 0) = { s.axis (e.p8 0) with
      state := if (s.axis (e.p8 0)).faultStop = true then .faultStop else .rest, configured := true, m := e.p8 1, rampP := bitOf (e.p8 2) 0, rampN := bitOf (e.p8 2) 1, limitHigh := bitOf (e.p8 2) 2
      homeHigh := bitOf (e.p8 2) 3, printPos := e.s32 4, tolerance := e.p32 8, followLimit := e.p32 12, setCount := s.axisPosition (e.p8 0), setFrac := 0, speed := 0, badReply := 0, folMax := 0
      badRun := 0, cycles := 0 } ∧ others s' (e.p8 0) ∧ Only [.now, .host, .journal, .axes, .out] s s') ∧
  (∀ seq e, Runs s t seq 0x0901 false e → Checked axisConfigChecks s t e → e.p8 0 = 0 → s.pos.armed = false → ∃ s', exec (.axisConfig seq t) s = .next s' ∧ EndedAs s' seq .ok ∧ (s'.axis 0).configured = true ∧
      (s'.axis 0).m = e.p8 1 ∧ (s'.axis 0).printPos = e.s32 4 ∧ (s'.axis 0).tolerance = e.p32 8 ∧ others s' 0) ∧
  (∀ seq e, Runs s t seq 0x0906 false e → Checked axisLimitsChecks s t e →
    ((s.axis (e.p8 0)).steady = false → ∃ s', exec (.axisSetLimits seq t) s = .next s' ∧ EndedAs s' seq .ok 1 ∧ s'.axis (e.p8 0) = { s.axis (e.p8 0) with staged := some e.axisLimits } ∧ others s' (e.p8 0) ∧
      Only [.now, .host, .journal, .axes, .out] s s') ∧
    ((s.axis (e.p8 0)).motion = none → ∃ s', exec (.axisSetLimits seq t) s = .next s' ∧ EndedAs s' seq .ok ∧ s'.axis (e.p8 0) = { s.axis (e.p8 0) with limits := some e.axisLimits, staged := none } ∧ others s' (e.p8 0) ∧
      Only [.now, .host, .journal, .axes, .out] s s')) ∧
  (∀ seq e l,
    let n := e.p8 0
    let a := s.axis n
    let from_ := a.at (a.servo + 1)
    let goes := fun (i : Instr) (m : Motion) (up : Bool) => a.limits = some l →
      (∀ stop, a.stopFirst = some stop → ∃ s', exec i s = .next s' ∧ EndedAs s' seq .cancelled stop.endDetail ∧ s'.axes = s.axes ∧ Only [.now, .host, .journal, .out] s s') ∧
      (a.stopFirst = none → (a.limitActive up && a.moves m) = true → ∃ s', exec i s = .next s' ∧ EndedAs s' seq .cancelled 4 ∧ s'.axes = s.axes ∧ Only [.now, .host, .journal, .out] s s') ∧
      (a.stopFirst = none → (a.limitActive up && a.moves m) = false → ∃ s', exec i s = .next s' ∧ s'.axis n = { a with motion := some { m with
          seq := some seq, segments := (l.values m.cruise).plan from_.1 a.moving m.target, startTick := a.servo + 1, began := a.moving } } ∧ others s' n ∧ Only [.now, .host, .journal, .axes, .out] s s' ∧
        ((∀ old, a.motion = some old → old.seq ≠ some seq) → InProgress s' seq) ∧
        ∀ old q, a.motion = some old → old.seq = some q → q ≠ seq → Running s q → EndedAs s' q .cancelled old.endDetail)
    (Runs s t seq 0x0902 false e → Checked axisMoveChecks s t e → goes (.axisMove seq t)
      { kind := .move, seq := none, target := s.moveTarget e, cruise := e.p32 12, segments := [], startTick := 0 } (decide (from_.1 < s.moveTarget e))) ∧
    (Runs s t seq 0x0903 false e → Checked axisJogChecks s t e → goes (.axisJog seq t)
      { kind := .jog, seq := none, target := a.jogTarget (e.p8 1 == 1), cruise := e.p32 4, segments := [], startTick := 0, homeNegative := e.p8 1 == 1, endsAt := if e.p32 8 = 0 then none else some (now + e.p32 8 * 1000000) } (!(e.p8 1 == 1))) ∧
    (Runs s t seq 0x0905 false e → Checked axisJogChecks s t e → goes (.axisHome seq t)
      { kind := if a.homeActive then .homeOff else .homeSearch, seq := none, target := a.jogTarget ((e.p8 1 == 1) != a.homeActive), cruise := e.p32 4, segments := [], startTick := 0
        homeNegative := e.p8 1 == 1, homeAt := e.s32 8 } ((e.p8 1 == 1) == a.homeActive))) ∧
  (∀ seq e, Runs s t seq 0x0904 false e → Checked (fun _ e => ({ params := [fieldOk 0 (decide (e.p8 0 ≤ 3) || e.p8 0 == 0xFF)] } : Checks)) s t e → e.p8 0 ≤ 3 → (∀ k, k < 4 → seq ∉ (s.axis k).stops) →
    let a := s.axis (e.p8 0)
    (a.motion = none → a.stops = [] → ∃ s', exec (.axisStop seq t) s = .next s' ∧ EndedAs s' seq .ok ∧ s'.axis (e.p8 0) = a ∧ others s' (e.p8 0) ∧ Only [.now, .host, .journal, .axes, .out] s s') ∧
    (∀ m l, a.motion = some m → a.limits = some l → m.kind ≠ .stop → ∃ s', exec (.axisStop seq t) s = .next s' ∧ InProgress s' seq ∧ (s'.axis (e.p8 0)).stops = a.stops ++ [seq] ∧
      (s'.axis (e.p8 0)).state = .rampStop ∧ (∃ m', (s'.axis (e.p8 0)).motion = some m' ∧ m'.kind = .stop ∧ m'.seq = m.seq ∧ m'.rank = 5 ∧ m'.endStatus = (if m.kind = .jog then 0 else 7) ∧ m'.startTick = a.servo + 1) ∧
      others s' (e.p8 0) ∧ Only [.now, .host, .journal, .axes, .out] s s')) ∧
  (let off := s.power.phase = .powerOnReset ∨ s.power.phase = .warmReset ∨ s.power.phase = .retuned
   (off ∨ now / 31250 < s.axisCycle → exec (.portCycle t) s = .next u) ∧
   (¬ off → s.axisCycle ≤ now / 31250 → (∀ k, k < 4 → (s.axis k).motion = none ∧ (s.axis k).followLimit = 0 ∧ (s.axis k).staged = none) → ∃ s', exec (.portCycle t) s = .next s' ∧ s'.axisCycle = now / 31250 + 1 ∧
     s'.out.length = s.out.length + 4 ∧ Only [.now, .axes, .axisCycle, .out] s s' ∧ ∀ k, k < 4 →
      let a := s.axis k
      let b := s'.axis k
      b.replied = false ∧ (a.configured = false → b = { a with lastType := 2, lastServo := a.servo % 16, replied := false } ∧ Out.axisSlot k (a.slot k 2) ∈ s'.out) ∧
      (a.configured = true → a.cycles % max 1 a.m ≠ 0 → b = { a with cycles := a.cycles + 1, lastType := 0, lastServo := a.servo % 16, replied := false } ∧ Out.axisSlot k (a.slot k 0) ∈ s'.out) ∧
      (a.configured = true → a.cycles % max 1 a.m = 0 → b.cycles = a.cycles + 1 ∧ b.servo = a.servo + 1 ∧ b.lastType = 1 ∧ b.lastServo = (a.servo + 1) % 16 ∧ b.motion = none ∧ Out.axisSlot k (b.slot k 1) ∈ s'.out))) ∧
  (∀ (n : Fin 4) (bytes : List Byte),
    let a := s.axis n
    let third := a.badRun = 2
    let faults := fun (s' : State) (code : Nat) => (s'.axis n).faultStop = true ∧ (s.flt.injections = [] → n.val ≠ 0 → countOf s'.flt (s.classOf code) = min (countOf s.flt (s.classOf code) + 1) 255)
    let bad := fun (i : Instr) => (¬ third → ∃ s', exec i s = .next s' ∧ s'.axis n = { a with badReply := min 65535 (a.badReply + 1), badRun := a.badRun + 1, replied := true } ∧ others s' n ∧
        Only [.now, .host, .journal, .axes, .flt, .out] s s') ∧
      (third → Detected u 0x0A03 n → ∃ s', exec i s = .next s' ∧ faults s' 0x0A03 ∧ (s'.axis n).badReply = min 65535 (a.badReply + 1))
    (a.replied = true → exec (.driveReply n bytes t) s = .next u ∧ exec (.axisReplyWindowEnd n t) s = .next u) ∧
    (a.replied = false → bad (.axisReplyWindowEnd n t) ∧ (a.replyOk n bytes = false ∨ s.shotAt 0x0F n = true → bad (.driveReply n bytes t)) ∧
      (a.replyOk n bytes = true → s.shotAt 0x0F n = false → bitOf (leAt bytes 1 1) 1 = false → ∃ s', exec (.driveReply n bytes t) s = .next s' ∧ s'.axis n = { a with
        replied := true, badRun := 0, drvEnabled := bitOf (leAt bytes 1 1) 0, drvFault := bitOf (leAt bytes 1 1) 1, drvWarning := bitOf (leAt bytes 1 1) 2 } ∧ others s' n ∧ Only [.now, .axes] s s') ∧
      (a.replyOk n bytes = true → s.shotAt 0x0F n = false → Detected u 0x0A02 n → bitOf (leAt bytes 1 1) 1 = true → ∃ s', exec (.driveReply n bytes t) s = .next s' ∧ faults s' 0x0A02 ∧ (s'.axis n).drvFault = true))) ∧
  (∀ (n : Fin 4) (positive level : Bool),
    let a : Axis := if positive then { s.axis n with limpLevel := level } else { s.axis n with limnLevel := level }
    let goesIn := ∃ m up, a.motion = some m ∧ a.goesUp m = some up ∧ a.limitActive up = true
    (¬ goesIn → ∃ s', exec (.limitInput n positive level t) s = .next s' ∧ s'.axis n = a ∧ others s' n ∧ Only [.now, .axes] s s') ∧
    (∀ m l up, a.motion = some m → a.limits = some l → a.goesUp m = some up → a.limitActive up = true → m.kind ≠ .stop → m.homing = false →
      ((if up then a.rampP else a.rampN) = false → a.stops = [] → ∃ s', exec (.limitInput n positive level t) s = .next s' ∧ (s'.axis n).motion = none ∧ (s'.axis n).speed = 0 ∧ others s' n ∧
        (∀ q, m.seq = some q → Running s q → EndedAs s' q .cancelled 0x20) ∧ Only [.now, .host, .journal, .axes, .out] s s') ∧
      ((if up then a.rampP else a.rampN) = true → ∃ s' m', exec (.limitInput n positive level t) s = .next s' ∧ (s'.axis n).motion = some m' ∧ m'.kind = .stop ∧ m'.seq = m.seq ∧ m'.endStatus = 7 ∧ m'.endDetail = 4 ∧
        others s' n ∧ Only [.now, .axes] s s'))) ∧
  (∀ (n : Fin 4) (level : Bool),
    let a : Axis := { s.axis n with homeLevel := level }
    ((∀ m, a.motion = some m → ¬ (m.kind = .homeOff ∧ a.homeActive = false) ∧ ¬ (m.kind = .homeSearch ∧ a.homeActive = true)) → ∃ s', exec (.homeInput n level t) s = .next s' ∧ s'.axis n = a ∧ others s' n ∧ Only [.now, .axes] s s') ∧
    (∀ m l, a.motion = some m → a.limits = some l →
      (m.kind = .homeOff → a.homeActive = false → ∃ s' m', exec (.homeInput n level t) s = .next s' ∧ (s'.axis n).motion = some m' ∧ m'.kind = .stop ∧ m'.endStatus = searchNext ∧ others s' n ∧ Only [.now, .axes] s s') ∧
      (m.kind = .homeSearch → a.homeActive = true → ∃ s' m', exec (.homeInput n level t) s = .next s' ∧ (s'.axis n).motion = some m' ∧ m'.kind = .stop ∧ m'.endStatus = homedNext ∧ s'.axisPosition n = m.homeAt ∧ others s' n ∧
        Only [.now, .axes] s s'))) ∧
  ∀ n : Fin 4,
    let a := s.axis n
    ((∀ m, a.motion = some m → m.kind = .jog → ∀ e, m.endsAt = some e → now < e) → exec (.jogEnd n t) s = .next u) ∧
    (∀ m l e, a.motion = some m → m.kind = .jog → m.endsAt = some e → e ≤ now → a.limits = some l → ∃ s' m', exec (.jogEnd n t) s = .next s' ∧ (s'.axis n).motion = some m' ∧ m'.kind = .stop ∧ m'.seq = m.seq ∧
      m'.endStatus = 0 ∧ m'.rank = 8 ∧ others s' n ∧ Only [.now, .axes] s s')

/-! ## The SDRAM controller (chapter 12) -/

/-- Periodic tasks and errors of the SDRAM (R359 to R362, R366 to R368). A refresh closes its bank's row on the ranks of its channel, and what waits is served in the order of R360 (log 81); MR4 is read every 32 ms and doubles the refresh rate of a hot device; ZQ calibration starts on a rank every 128 ms; every 1 ms a timing that has drifted is moved with it; a row idle for the page idle limit
is closed, and a rank idle for the power-down delay enters power-down with its rows closed, unless it holds a block of a page that a hoist within the lead needs. None of them happens before training or in self-refresh. PATROL_SCRUB reads a burst, counts an error and raises its fault: a corrected one 0x0B01, others 0x0B02, or 0x0B03 in the page blocks; an uncorrectable record of the spill or of the history is lost, and a final journal entry stays with a failing check word. -/
def Obligations.SdramTasks : Prop := ∀ (s : State) (t : Nat),
  let u := s.tick t
  let now := max s.now t
  let d := s.dmc
  let given := u.dmcNow
  let mhz := if d.rate4800 = true then 1200 else 1400
  (s.sdramOn = false → (∀ ch bank, exec (.refreshDue ch bank t) s = .next u) ∧ (∀ hot, exec (.mr4Read hot t) s = .next u) ∧ (∀ r, exec (.zqCalibration r t) s = .next u) ∧
    (∀ x, exec (.dqsOscillatorRead x t) s = .next u) ∧ (∀ r, exec (.powerDownEntry r t) s = .next u) ∧ ∀ err, exec (.patrolScrub err t) s = .next u) ∧
  (s.sdramOn = true →
    (∀ (ch : Fin 2) (bank : Fin 16),
      let closed : Dmc := { given with banks := given.banks.filter fun b => !(b.rank / 2 == ch.val && b.bank == bank.val) }
      ∃ s', exec (.refreshDue ch bank t) s = .next s' ∧ s'.dmc = ({ s' with dmc := closed }).dmcNow.serveAll now ∧
      (closed.requests = [] → s'.journal = s.journal → s'.evt = s.evt → s'.dmc = closed) ∧
      Only [.now, .host, .journal, .dmc, .evt, .cal, .out] s s') ∧
    (∀ hot, (now < d.mr4At + 32000000 → exec (.mr4Read hot t) s = .next u) ∧ (d.mr4At + 32000000 ≤ now → exec (.mr4Read hot t) s = .next { u with dmc := { d with doubleRefresh := hot, mr4At := now } })) ∧
    (∀ r : Fin 4, (now < Tbl.get 0 d.zqAt r + 128000000 → exec (.zqCalibration r t) s = .next u) ∧
      (Tbl.get 0 d.zqAt r + 128000000 ≤ now → ∃ s', exec (.zqCalibration r t) s = .next s' ∧ (∀ k, Tbl.get 0 s'.dmc.zqAt k = if k = r.val then now else Tbl.get 0 d.zqAt k) ∧ s'.dmc = { d with zqAt := s'.dmc.zqAt } ∧
        Only [.now, .dmc] s s')) ∧
    (∀ drift : List Int, (now < d.oscAt + 1000000 → exec (.dqsOscillatorRead drift t) s = .next u) ∧ (d.oscAt + 1000000 ≤ now → ∃ s', exec (.dqsOscillatorRead drift t) s = .next s' ∧
      (∀ k, Tbl.get 0 s'.dmc.timing k = Tbl.get 0 d.timing k + Tbl.get 0 drift k) ∧ s'.dmc = { d with oscAt := now, timing := s'.dmc.timing } ∧ Only [.now, .dmc] s s')) ∧
    (∀ r : Fin 4,
      let idle := (now - Tbl.get 0 given.rankSince r) * mhz
      (d.powerDownDelay = 0 ∨ (r.val % 2 = 1 ∧ d.ranks2 = false) ∨ idle < d.powerDownDelay * 64000 → exec (.powerDownEntry r t) s = .next u) ∧
      (d.powerDownDelay ≠ 0 → r.val % 2 = 0 ∨ d.ranks2 = true → d.powerDownDelay * 64000 ≤ idle →
        let down := ∃ s', exec (.powerDownEntry r t) s = .next s' ∧ (∀ k, k < 4 → s'.dmc.powerDown.getLsbD k = (given.powerDown.getLsbD k || k == r.val)) ∧
          s'.dmc.banks = given.banks.filter (fun b => b.rank != r.val) ∧ Only [.now, .dmc] s s'
        ((∀ p ∈ u.pagesInLead, ∀ i, i < p.blocks → d.rankOf (s.blockAddress p.seq i) % 2 ≠ r.val % 2) → down) ∧
        (∀ p ∈ u.pagesInLead, ∀ i, i < p.blocks → d.rankOf (s.blockAddress p.seq i) % 2 = r.val % 2 → exec (.powerDownEntry r t) s = .next u))) ∧
    (s.flt.injections = [] → ∃ a, a < max 1 d.top ∧ exec (.patrolScrub none t) s = .next (({ u with free := s.free + 1 }).sdramRequests [(5, a)])) ∧
    ∀ err : SdramError,
      let region := d.region err.addr
      let code := match err.kind with
        | .corrected => 0x0B01
        | _ => if region = 4 then 0x0B03 else 0x0B02
      let counts := fun (s' : State) => Detected u code region → s.flt.injections = [] → countOf s'.flt (s.classOf code) = min (countOf s.flt (s.classOf code) + 1) 255
      ∃ s', exec (.patrolScrub (some err) t) s = .next s' ∧ (region ≠ 5 → counts s') ∧ s'.dmc.lastAddr = err.addr % 2 ^ 36 / 64 * 64 ∧
        (err.kind = .corrected → bitOf err.addr 7 = false → s'.dmc.corrA = min (d.corrA + 1) 65535 ∧ s'.dmc.corrB = d.corrB) ∧
        (err.kind = .corrected → bitOf err.addr 7 = true → s'.dmc.corrB = min (d.corrB + 1) 65535 ∧ s'.dmc.corrA = d.corrA) ∧
        (err.kind = .uncorrectable → bitOf err.addr 7 = false → s'.dmc.uncorrA = min (d.uncorrA + 1) 255) ∧ (err.kind = .uncorrectable → bitOf err.addr 7 = true → s'.dmc.uncorrB = min (d.uncorrB + 1) 255) ∧
        (err.kind = .address → bitOf err.addr 7 = false → s'.dmc.addrA = min (d.addrA + 1) 255) ∧ (err.kind = .address → bitOf err.addr 7 = true → s'.dmc.addrB = min (d.addrB + 1) 255) ∧
        (err.kind ≠ .corrected → region = 3 → ∀ k, k < s.loop.history.length → ∃ p, s.loop.history[k]? = some p ∧
          s'.loop.history[k]? = some (if (p.k % 2728).toNat = (err.addr - 0x9000000) / 196608 then { p with unreadable := true } else p)) ∧
        (err.kind ≠ .corrected → region = 1 → err.addr < 0x4400000 → ∀ seq e, s.entry? seq = some e → e.state.final = true → s.inRing e = true → e.seq % 65536 = (err.addr - 0x4000000) / 64 →
          (s'.entry? seq).map (·.torn.isSome) = some true) ∧
        (err.kind ≠ .corrected → region = 2 → s.evt.spill ≠ [] → Detected u code region → ∀ x ∈ s'.evt.spill, x ∈ s.evt.spill → x.seq % 524288 ≠ (err.addr - 0x8000000) / 32)) ∧
  ∀ (r : Fin 4) (bank : Fin 16), ∃ s', exec (.bankIdleTimeout r bank t) s = .next s' ∧ s'.dmc = { given with banks := given.banks.filter fun b =>
    !(b.rank == r.val && b.bank == bank.val && decide (d.idle * 1000 ≤ (now - b.since) * mhz)) } ∧ Only [.now, .dmc] s s'

/-! ## Faults (chapter 13) -/

/-- The registers of the fault collector that the host writes (R375, R379, R381, FLT_CTRL): while the host reaches BAR0, a bit of FLT_LATCH that is
written 1 goes to 0 unless it is a block bit whose bit of FLT_LIVE is 1; CLRFIRST clears the capture, but for one of the same sentinel cycle (log 103), and CLRCNT the counts; HOLD is set, and is cleared
with the warm reset 2 ms later; LEVEL is written. Nothing else of the state changes but, for HOLD_CLEAR, the time. Where the host does not reach
BAR0, the writes that carry no moment leave the state as it is. -/
def Obligations.FaultRegisterWrites : Prop := ∀ s : State,
  (s.hostReaches = true →
    (∀ v : BitVec 32, ∃ lb lc, exec (.fltLatchClear v) s = .next { s with flt := { s.flt with latchBlock := lb, latchClass := lc } } ∧
      (∀ b, b < 16 → lb.getLsbD b = (s.flt.latchBlock.getLsbD b && !(v.getLsbD b && !s.liveNow.getLsbD b))) ∧
      (∀ c, c < 4 → lc.getLsbD c = (s.flt.latchClass.getLsbD c && !v.getLsbD (16 + c)))) ∧
    exec .clrfirst s = .next { s with flt := { s.flt with first := s.flt.recent.filter fun c => sentinelCycle c.since == sentinelCycle s.now } } ∧
    exec .clrcnt s = .next { s with flt := { s.flt with count0 := 0, count1 := 0, count2 := 0, count3 := 0, shadowParent := 0, shadowHits := 0 } } ∧
    exec .holdSet s = .next { s with flt := { s.flt with hold := true } } ∧
    (∀ t, s.flt.hold = true → exec (.holdClear t) s = .next { s with
      now := max s.now t
      flt := { s.flt with hold := false, expireAt := if s.flt.faultState then some (max s.now t + 2000000) else none } }) ∧
    ∀ l, exec (.fltPinLevelWrite l) s = .next { s with flt := { s.flt with pinLevel := l } }) ∧
  (s.hostReaches = false → (∀ v, exec (.fltLatchClear v) s = .next s) ∧ exec .clrfirst s = .next s ∧ exec .clrcnt s = .next s ∧ exec .holdSet s = .next s ∧
    ∀ l, exec (.fltPinLevelWrite l) s = .next s)

/-- FAULT_DETECT counts, latches and captures (R370, R373, R378, R379, R381): for a detector whose detection has no reaction of its own, with no further detection of its sentinel cycle behind it, with the class c that
the class map gives its code, below C3: the count of class c goes up by 1 and stops at 255, the other counts stay; the class bit is set; for C1 and C2
the block bit is set and the capture is taken if none is held or the one held has a lower class; a C2 fault starts the FAULT_N pulse (20 µs, the
nominal 1,000 of the 1,100 cycles: the model's choice, log 12) and a C0 or C1 fault leaves it; the fault state is as it was. A FAULT_DETECT that was taken with an earlier one of its cycle does nothing more. -/
def Obligations.FaultDetectLatches : Prop := ∀ (s : State) (code : BitVec 16) (u : BitVec 8) (p0 p1 : BitVec 32) (p2 : BitVec 16) (t : Nat),
  (s.flt.taken ≠ 0 → exec (.faultDetect code u p0 p1 p2 t) s = .next { s.tick t with flt := { s.flt with taken := s.flt.taken - 1 } }) ∧
  (s.flt.taken = 0 → cycleDetections (max s.now t) (sentinelCycle (max s.now t)) s.pending = [] →
  Detected (s.tick t) code.toNat u.toNat → plainCodes.contains code.toNat = true → s.classOf code.toNat < 3 →
  ∃ s', exec (.faultDetect code u p0 p1 p2 t) s = .next s' ∧
    (∀ c, c < 4 → countOf s'.flt c = if c = s.classOf code.toNat then min (countOf s.flt c + 1) 255 else countOf s.flt c) ∧
    s'.flt.latchClass = s.flt.latchClass ||| BitVec.ofNat 4 (2 ^ s.classOf code.toNat) ∧
    s'.flt.latchBlock = (if s.classOf code.toNat = 0 then s.flt.latchBlock else s.flt.latchBlock ||| BitVec.ofNat 16 (2 ^ (code.toNat / 256))) ∧
    captureOf s'.flt = (if s.classOf code.toNat = 0 ∨ s.flt.first.any (fun c => decide (s.classOf code.toNat ≤ c.cls)) = true then captureOf s.flt
      else some (code.toNat, u.toNat, s.classOf code.toNat, (s.tick t).stamp.1, (s.tick t).stamp.2, p0, p1)) ∧
    s'.flt.pulseEnd = (if s.classOf code.toNat = 2 then some (max s.now t + 20000) else s.flt.pulseEnd) ∧
    s'.flt.faultState = s.flt.faultState)

/-- FAULT_DETECT of a class C3 fault outside the fault state enters it (R370, R374): the C3 count goes up and stops at 255, the fault state is entered at
that moment, a lockstep or staff memory fault halts the staff core, printing is disarmed and no fire position is left to commit. In the fault state
the fault state stands as it was entered, and the staff core is halted all the same (R375). -/
def Obligations.FatalFaultEntersFaultState : Prop := ∀ (s : State) (code : BitVec 16) (u : BitVec 8) (p0 p1 : BitVec 32) (p2 : BitVec 16) (t : Nat),
  Detected (s.tick t) code.toNat u.toNat → plainCodes.contains code.toNat = true → s.classOf code.toNat = 3 → s.flt.taken = 0 → cycleDetections (max s.now t) (sentinelCycle (max s.now t)) s.pending = [] →
  ∃ s', exec (.faultDetect code u p0 p1 p2 t) s = .next s' ∧
    s'.flt.faultState = true ∧ s'.flt.count3 = min (s.flt.count3 + 1) 255 ∧ s'.flt.staffHalt = (s.flt.staffHalt || code == 0x0202 || code == 0x0203) ∧
    (s.flt.faultState = true → s'.flt.enteredAt = s.flt.enteredAt) ∧
    (s.flt.faultState = false → s'.flt.enteredAt = max s.now t ∧ s'.flt.armedAtFault = s.pos.armed ∧ s'.pos.armed = false ∧ (s.pos.armed = true → s'.pos.pending = []))

/-- The end of the fault state (R375, R376, R381, R373, R380). FAULT_RESET_EXPIRE, once 2 ms have passed since entry (or since HOLD was cleared) with HOLD
at 0 and every axis at rest, starts a warm reset of kind 3, which leaves the fault state and counts in FLT_STATE.RESETS, and printing is armed again
after it if it was armed at entry; before that moment, with HOLD at 1 or an axis moving, only the time moves. FAULT_STATE_SPEED_ZERO publishes the limit 0
with cause 6 after 50 ms. FAULT_N_PULSE_END ends the pulse, RECORD_RATE_RESUME lets a code and unit be recorded again after 1 s, and BLOCK_RESET_DONE
closes its block's reaction window. -/
def Obligations.FaultStateEnds : Prop := ∀ (s : State) (t : Nat),
  (s.flt.faultState = true → s.flt.hold = false → (s.tick t).axesAtRest = true → s.flt.expireAt.getD (s.flt.enteredAt + 2000000) ≤ max s.now t →
    ∃ s', exec (.faultResetExpire t) s = .next s' ∧ s'.flt.faultState = false ∧ s'.flt.resets = min 255 (s.flt.resets + 1) ∧
      s'.power.phase = .warmReset ∧ s'.power.resetCause = 3 ∧ s'.power.resetAt = max s.now t ∧ s'.power.rearm = s.flt.armedAtFault) ∧
  (s.flt.faultState = false ∨ s.flt.hold = true ∨ (s.tick t).axesAtRest = false ∨ max s.now t < s.flt.expireAt.getD (s.flt.enteredAt + 2000000) →
    exec (.faultResetExpire t) s = .next (s.tick t)) ∧
  (s.flt.faultState = true → s.flt.speedZero = false → s.firmwareRuns = true → s.flt.enteredAt + 50000000 ≤ max s.now t →
    ∃ s', exec (.faultStateSpeedZero t) s = .next s' ∧ s'.heads.governor.published = some (0, 6) ∧ s'.flt = { s.flt with speedZero := true }) ∧
  (∀ m, s.flt.pulseEnd = some m → exec (.faultNPulseEnd t) s = .next { s with
    now := max s.now t
    flt := { s.flt with pulseEnd := if m ≤ max s.now t then none else some m } }) ∧
  (∀ code u, (s.throttle (BitVec.toNat code) (BitVec.toNat u)).suppressed = true → (s.throttle (BitVec.toNat code) (BitVec.toNat u)).last + 1000000000 ≤ max s.now t →
    ∃ s', exec (.recordRateResume code u t) s = .next s' ∧ (s'.throttle code.toNat u.toNat).suppressed = false ∧
      (s'.throttle code.toNat u.toNat).unrecorded = (s.throttle code.toNat u.toNat).unrecorded ∧ Only [.now, .flt] s s') ∧
  ∀ b, ∃ s', exec (.blockResetDone ⟨b, t⟩) s = .next s' ∧ s'.flt = { s.flt with windows := s.flt.windows.filter (·.block != b) } ∧ s'.now = max s.now t

/-- Injection and the class map (R371, R383, R384). FLT_INJECT_ARM adds one shot of the checker and unit of FLT_INJECT behind those waiting; while printing
is armed a shot that would raise a C3 fault is refused with an event and no shot is added. FAULT_INJECT adds P3 shots and runs on until they are
fed; a shot of a checker that checks in every cycle is fed at once when it is first (log 106); FAULT_CLASS_SET gives the code its class and ends with OK and the class it had. -/
def Obligations.InjectionAndClassMap : Prop := ∀ (s : State) (t : Nat),
  let waits := fun (checker : Nat) => (s.flt.injections.map (·.checker) ++ [checker]).head?.any continuous = false
  (s.hostReaches = true → s.injectionDenied (s.flt.injChecker.toNat % 256) s.flt.injUnit.toNat (s.flt.injChecker.getLsbD 8) = false →
    s.flt.injUnit.toNat < checkerUnits (s.flt.injChecker.toNat % 256) → waits (s.flt.injChecker.toNat % 256) →
    exec (.fltInjectArm t) s = .next { s with
      now := max s.now t
      flt := { s.flt with injections := s.flt.injections ++
        [{ checker := s.flt.injChecker.toNat % 256, double := s.flt.injChecker.getLsbD 8, unit := s.flt.injUnit.toNat, left := 1 }] } }) ∧
  (∀ code, s.hostReaches = true → s.injectionDenied (s.flt.injChecker.toNat % 256) s.flt.injUnit.toNat (s.flt.injChecker.getLsbD 8) = false →
    s.flt.injUnit.toNat < checkerUnits (s.flt.injChecker.toNat % 256) → continuous (s.flt.injChecker.toNat % 256) = true → s.flt.injections = [] →
    injectedCode (s.flt.injChecker.toNat % 256) s.flt.injUnit.toNat (s.flt.injChecker.getLsbD 8) = some code → Detected (s.tick t) code 0 → s.classOf code < 3 →
    ∃ s', exec (.fltInjectArm t) s = .next s' ∧ s'.flt.injections = [] ∧ countOf s'.flt (s.classOf code) = min (countOf s.flt (s.classOf code) + 1) 255) ∧
  (s.hostReaches = true → s.injectionDenied (s.flt.injChecker.toNat % 256) s.flt.injUnit.toNat (s.flt.injChecker.getLsbD 8) = true →
    ∃ s', exec (.fltInjectArm t) s = .next s' ∧ s'.flt = s.flt ∧ s'.evt.newest ≠ s.evt.newest) ∧
  (∀ seq e, Runs s t seq 0x0D01 false e → Checked faultInjectChecks s t e → waits (e.p16 0 % 256) →
    ∃ s', exec (.faultInject seq t) s = .next s' ∧ InProgress s' seq ∧
      s'.flt = { s.flt with injections := s.flt.injections ++
        [{ checker := e.p16 0 % 256, double := bitOf (e.p8 1) 0, unit := e.p8 2, left := e.p8 3, seq := some seq }] }) ∧
  ∀ seq e, Runs s t seq 0x0D02 false e → (defaultClass (e.p16 0)).isSome = true → e.p8 2 ≤ 3 → s.lowers (e.p16 0) (e.p8 2) = false →
    ∃ s', exec (.faultClassSet seq t) s = .next s' ∧ Ended s' seq .ok 0 (w32 (s.classOf (e.p16 0))) ∧ s'.classOf (e.p16 0) = e.p8 2 ∧
      ∀ c, c ≠ e.p16 0 → s'.classOf c = s.classOf c

/-! ## Event recorder (chapter 14) -/

/-- EVENT_COMMIT (R401 to R403, R405, R406): outside the resets and without a freeze or an erase, the oldest record of the buffer leaves it once the spill holds it. If its
spill copy can be read and its writes hold: bound for the service area alone, it is put at the end of a service area with room for more than one
record; bound for the episode area alone, it is put where the episode area has it; bound only for a full service area, it counts as overflow, which
stops at 0xFFFF_FFFF. During a freeze or a warm reset, or while the spill holds none, no record leaves the buffer. -/
def Obligations.EventCommitPlacesOldest : Prop := ∀ (s : State) (b : Buffered) (rest : List Buffered) (t : Nat),
  s.power.phase ≠ .powerOnReset → s.evt.buffer = b :: rest → s.evt.eraseAt = none →
  (s.evt.freeze = true ∨ s.power.phase = .warmReset ∨ s.power.phase = .retuned ∨ (∀ x ∈ s.evt.buffer, x.spilled = false) → ∀ fl, exec (.eventCommit fl t) s = .next (s.tick t)) ∧
  (s.evt.freeze = false → s.power.phase ≠ .warmReset → s.power.phase ≠ .retuned → b.spilled = true → s.shotAt 0x12 0 = false →
    (b.toService = true → b.toEpisode = false → s.evt.service.length + 1 < 196608 →
      ∃ s', exec (.eventCommit ⟨true, true, true⟩ t) s = .next s' ∧ s'.evt = { s.evt with buffer := rest, service := s.evt.service ++ [b.record] }) ∧
    (b.toService = false → b.toEpisode = true →
      ∃ s', exec (.eventCommit ⟨true, true, true⟩ t) s = .next s' ∧ s'.evt = { s.evt with buffer := rest }.putEpisode b) ∧
    (b.toService = true → b.toEpisode = false → 196608 ≤ s.evt.service.length →
      ∃ s', exec (.eventCommit ⟨true, true, true⟩ t) s = .next s' ∧ s'.evt.buffer = rest ∧ s'.evt.service = s.evt.service ∧
        s'.evt.overflow = min (s.evt.overflow + 1) 0xFFFFFFFF ∧ s'.evt.episodeFirst = s.evt.episodeFirst ∧ s'.evt.episodeRing = s.evt.episodeRing))

/-- Freeze, cursor, lock and erase (R405, R409, R410), while the host reaches BAR0: FREEZE_WRITE stops the commits and clears LAPSED, or lets them go on;
EVT_CURSOR_WRITE keeps the cursor's 34 bits and starts the lapse time again; EPUNLOCK releases the episode lock; ERASEARM arms the erase and ERASE
starts an erase armed at most 1 s before, and is ignored without a valid arm. FREEZE_LAPSE, 10 s after the last write to EVT_CURSOR, ends the freeze
and sets LAPSED; before that it does nothing. EVT_COUNT_READ returns the overflow count and the number of records in the service area, latches the upper half
and arms vector 9 for the next overflow (R280, R406). -/
def Obligations.RecorderControls : Prop := ∀ (s : State) (t : Nat),
  (s.hostReaches = true →
    exec (.freezeWrite true t) s = .next { s with now := max s.now t, evt := { s.evt with freeze := true, lapsed := false, cursorAt := max s.now t } } ∧
    exec (.freezeWrite false t) s = .next { s with now := max s.now t, evt := { s.evt with freeze := false } } ∧
    (∀ v, ∃ c, exec (.evtCursorWrite v t) s = .next { s with now := max s.now t, evt := { s.evt with cursor := c, cursorAt := max s.now t } } ∧
      ∀ i, i < 64 → c.getLsbD i = (decide (i < 34) && v.getLsbD i)) ∧
    exec .epunlock s = .next { s with evt := { s.evt with locked := false } } ∧
    exec (.erasearm t) s = .next { s with now := max s.now t, evt := { s.evt with eraseArmAt := some (max s.now t) } } ∧
    (∀ m, s.evt.eraseAt = none → s.evt.eraseArmAt = some m → exec (.erase t) s =
      if max s.now t ≤ m + 1000000000 then .next { s with now := max s.now t, evt := { s.evt with eraseArmAt := none, eraseAt := some (max s.now t) } }
      else .next (s.tick t)) ∧
    (s.evt.eraseArmAt = none → exec (.erase t) s = .next (s.tick t)) ∧
    ∃ v : BitVec 64, exec .evtCountRead s = .next { s with
      evt := { s.evt with overflowArmed := true }, out := .readData 0x20010 v :: s.out, host := { s.host with latch := SMap.insert 0x20014 (v.extractLsb' 32 32) (SMap.erase 0x20014 s.host.latch) } } ∧
      (s.evt.overflow ≤ 0xFFFFFFFF → s.evt.service.length ≤ 196608 → v.toNat = s.evt.overflow + 2 ^ 32 * s.evt.service.length)) ∧
  (s.evt.freeze = true → s.evt.cursorAt + 10000000000 ≤ max s.now t →
    ∃ s', exec (.freezeLapse t) s = .next s' ∧ s'.evt.freeze = false ∧ s'.evt.lapsed = true ∧ s'.evt.service = s.evt.service ∧ s'.evt.newest ≠ s.evt.newest) ∧
  (max s.now t < s.evt.cursorAt + 10000000000 → exec (.freezeLapse t) s = .next (s.tick t))

/-- ERASE_DONE and OVERFLOW_SAVE (R403, R407, R425): when an erase in progress ends, the service area is empty, and record 0x8E04, with the overflow count before
the erase in parameter 0, is the next to be committed to it; the count is 0 and the area is not full. With no other write of the calibration set in progress, a save of a changed overflow count whose flash write holds puts the present count
into the calibration set in force, and nothing is left to save. -/
def Obligations.EraseAndOverflowSave : Prop := ∀ (s : State) (t : Nat),
  (s.evt.eraseAt.isSome = true → s.evt.buffer.length < 2048 →
    ∃ s' b, exec (.eraseDone t) s = .next s' ∧ s'.evt.service = [] ∧ s'.evt.buffer = b :: s.evt.buffer ∧ b.toService = true ∧ b.record.code = 0x8E04 ∧ b.record.p0 = w32 s.evt.overflow ∧
      s'.evt.newest = b.record.seq ∧ s'.evt.overflow = 0 ∧ s'.evt.svcFull = false ∧ s'.evt.eraseAt = none) ∧
  (s.power.phase ≠ .powerOnReset → s.cal.writing = false → s.flashQuiet = false → s.evt.overflowDirty.isSome = true →
    (∀ c, readCal s.flash.calA = some c ∨ readCal s.flash.calB = some c → c.generation < 2 ^ 32) →
    ∃ s', exec (.overflowSave ⟨true, true, true⟩ t) s = .next s' ∧ s'.calSet.map (·.overflow) = some s.evt.overflow ∧ s'.evt.overflowDirty = none ∧ s'.evt.overflow = s.evt.overflow)

/-- Host marks and host episodes (R329, R404, R411). EVT_MARK makes a record of code 0x8180 + P0 with the severity P1 and the three parameters of the command,
numbered after the newest record, and ends with OK and that sequence. EPISODE_BEGIN, with no episode open, opens one whose only opener is the host,
which uses the episode area unless it is locked, and ends with OK and the sequence of its first record. EPISODE_END of an episode that the host alone
holds open closes it and ends with OK; where another opener is left, the episode stays open without the host. -/
def Obligations.HostMarksAndEpisodes : Prop := ∀ (s : State) (t seq : Nat) (e : JEntry),
  (Runs s t seq 0x0C01 false e → e.p8 0 ≤ 127 → e.p8 1 ≤ 7 → s.evt.buffer.length < 2048 →
    ∃ s' b, exec (.evtMark seq t) s = .next s' ∧ s'.evt.buffer = s.evt.buffer ++ [b] ∧ b.record.code = 0x8180 + e.p8 0 ∧ b.record.severity = e.p8 1 ∧
      b.record.p0 = w32 (e.p32 4) ∧ b.record.p1 = w32 (e.p32 8) ∧ b.record.p2 = w32 (e.p32 12) ∧
      b.record.seq = (if s.evt.newest = 0xFFFFFFFF then 1 else s.evt.newest + 1) ∧ s'.evt.newest = b.record.seq ∧
      Ended s' seq .ok 0 (w32 b.record.seq)) ∧
  (Runs s t seq 0x0C02 false e → s.evt.openers = [] →
    ∃ s', exec (.episodeBegin seq t) s = .next s' ∧ s'.evt.openers = [4] ∧ s'.evt.usesArea = !s.evt.locked ∧
      s'.evt.episodeFrom = (if s.evt.newest = 0xFFFFFFFF then 1 else s.evt.newest + 1) ∧ Ended s' seq .ok 0 (w32 s'.evt.episodeFrom)) ∧
  (Runs s t seq 0x0C02 false e → s.evt.openers ≠ [] → ∃ s', exec (.episodeBegin seq t) s = .next s' ∧ s'.evt = s.evt ∧ Ended s' seq .busy) ∧
  (Runs s t seq 0x0C03 false e → s.evt.openers = [4] →
    ∃ s', exec (.episodeEnd seq t) s = .next s' ∧ s'.evt.openers = [] ∧ Ended s' seq .ok 0 (w32 s'.evt.newest)) ∧
  (∀ k, k ≠ 4 → Runs s t seq 0x0C03 false e → s.evt.openers = [4, k] →
    ∃ s', exec (.episodeEnd seq t) s = .next s' ∧ s'.evt = { s.evt with openers := [k] } ∧ Ended s' seq .ok 0 (w32 s.evt.newest))

/-! ## Calibration (chapter 15) -/

/-- Calibration passes (R414, R417, R421, R422). Once power-up calibration is done and no pass runs, CAL_PASS_START 10 minutes after the previous start makes
a pass over the 304 elements in element order, each at its present code until its step; with the external resistor outside 0.800 to 1.200 every element is at its fuse default instead and
the pass is over. A pass that falls due while one runs is skipped. CAL_MEASURE_DONE on the element in turn chooses the code measured closest to the
target if it lies within the element's accuracy: the element's target becomes that code and its live code stays; otherwise the element keeps its code
and is marked out of range. CAL_RUN starts a pass over the groups of its mask at once, in place of a periodic one, and runs on. -/
def Obligations.CalibrationPasses : Prop := ∀ (s : State) (xres t : Nat),
  (s.cal.powerUpDone = true → s.cal.pass = none → s.power.phase = .running → s.cal.lastStart + 600000000000 ≤ max s.now t → 26215 ≤ xres → xres ≤ 39321 →
    ∃ s', exec (.calPassStart xres t) s = .next s' ∧ Only [.now, .cal] s s' ∧ s'.cal.elements = s.cal.elements.map (Option.map fun e => { e with target := e.code }) ∧ s'.cal.xresBad = false ∧ s'.cal.xres = xres ∧
      s'.cal.lastStart = max s.now t ∧
      s'.cal.pass = some { groups := 0xF, left := List.range 304, command := none, steps := 0, reselected := 0, startedAt := max s.now t }) ∧
  (s.cal.powerUpDone = true → s.cal.pass = none → s.power.phase = .running → s.cal.lastStart + 600000000000 ≤ max s.now t → xres < 26215 ∨ 39321 < xres →
    ∃ s', exec (.calPassStart xres t) s = .next s' ∧ s'.cal.xresBad = true ∧ s'.cal.pass = none ∧
      ∀ n, n < 304 → (s'.element n).code = s.fuseCode n ∧ bitOf (s'.selection n) 14 = true) ∧
  (s.cal.pass.isSome = true → exec (.calPassStart xres t) s = .next (s.tick t)) ∧
  (∀ p n rest devs c d, s.cal.pass = some p → p.left = n :: rest → (s.element n).code = (s.element n).target →
    closestCode (s.element n).code devs = some (c, d) →
    (d.natAbs ≤ elementAccuracy n → c ≠ (s.element n).code → ∃ s', exec (.calMeasureDone devs t) s = .next s' ∧ Only [.now, .cal] s s' ∧
      (s'.element n).code = (s.element n).code ∧ (s'.element n).target = c ∧ (s'.element n).outRange = false ∧
      s'.cal.pass = some { p with reselected := p.reselected + 1 }) ∧
    (elementAccuracy n < d.natAbs → ∃ s', exec (.calMeasureDone devs t) s = .next s' ∧ (s'.element n).code = (s.element n).code ∧
      (s'.element n).target = (s.element n).code ∧ (s'.element n).outRange = true)) ∧
  ∀ seq e, Runs s t seq 0x0B01 false e → s.cal.powerUpDone = true → s.cal.pass.bind (·.command) = none → 26215 ≤ xres → xres ≤ 39321 →
    groupElements (BitVec.ofNat 4 (e.p8 0)) ≠ [] →
    ∃ s', exec (.calRun seq xres t) s = .next s' ∧ InProgress s' seq ∧ s'.evt.openers = s.evt.openers ++ [2] ∧
      s'.cal.pass = some { groups := BitVec.ofNat 4 (e.p8 0), left := groupElements (BitVec.ofNat 4 (e.p8 0)), command := some seq, steps := 0
                           reselected := 0, startedAt := max s.now t }

/-- Writes of the calibration flash (R425 to R427, R232). CAL_COMMIT takes the serials of the present heads for the bar heads field and starts a write; it
runs on. CAL_SET_WRITE, with a write due and no warm reset or fault state (R468), puts the present content into the set in force, with a generation 1 above the one before, whichever of its
three tries holds; a CAL_COMMIT that runs then ends with OK, detail bit 0 telling of ONECOPY, and that generation. HEAD_ENTRY_WRITE puts the present content
of the slot's head into the entry in force. Generations are 32-bit numbers. -/
def Obligations.CalibrationSetWrites : Prop := ∀ (s : State) (t : Nat),
  (∀ seq e, Runs s t seq 0x0B03 false e → s.cal.writing = false →
    ∃ s', exec (.calCommit seq t) s = .next s' ∧ InProgress s' seq ∧ s'.cal = { s.cal with
      writing := true, commitSeq := some seq, commitHeads := (List.range 32).map s.headSerial }) ∧
  (∀ fl : FlashResult, s.calWriteDue = true → s.flashQuiet = false → (fl.first || fl.second || fl.other) = false →
    ∃ s', exec (.calSetWrite fl t) s = .next s' ∧ s'.cal.barHeads = s.cal.barHeads) ∧
  (∀ fl : FlashResult, s.calWriteDue = true → s.flashQuiet = false → (fl.first || fl.second || fl.other) = true →
    (∀ c, readCal s.flash.calA = some c ∨ readCal s.flash.calB = some c → c.generation < 2 ^ 32) →
    ∃ s', exec (.calSetWrite fl t) s = .next s' ∧ s'.calSet = some s.calContent ∧ s'.cal.barHeads = s.calContent.barHeads ∧ (s.cal.commitSeq.isSome = true → s'.cal.barHeads = s.cal.commitHeads) ∧ s'.cal.writing = false ∧ s'.cal.setDirty = none ∧
      (∀ q, s.cal.commitSeq = some q → Running s q →
        Ended s' q .ok (w32 (b2n (!s'.cal.oneCopy.isEmpty))) (w32 s.calContent.generation))) ∧
  ∀ (slot : Fin 64) (m : Nat), s.entryDue (Tbl.get {} s.flash.heads slot.val) = some m → m ≤ max s.now t → s.firmwareRuns = true → s.flt.faultState = false →
    (Tbl.get {} s.flash.heads slot.val).holder ≠ 0 →
    (∀ c, readHead (Tbl.get {} s.flash.heads slot.val).copyA = some c ∨ readHead (Tbl.get {} s.flash.heads slot.val).copyB = some c → c.saveCount < 2 ^ 32) →
    ∃ s', exec (.headEntryWrite slot ⟨true, true, true⟩ t) s = .next s' ∧
      (Tbl.get {} s'.flash.heads slot.val).entry = some (s.slotContent (Tbl.get {} s.flash.heads slot.val)) ∧
      (Tbl.get {} s'.flash.heads slot.val).dirtyAt = none ∧
      ∀ k, k ≠ slot.val → Tbl.get {} s'.flash.heads k = Tbl.get {} s.flash.heads k

/-! ## Power, clocks and resets (chapter 16) -/

/-- A cold boot (R434, R444, R446, R447, R455). RAIL_FALL asserts power-on reset, with the rail not good and the SDRAM's contents lost. POWER_ON_RESET acts in it only:
the straps are sampled and select the mode, the boot epoch goes up by 1, the external resistor is measured, and, where the resistor is in range, the active
slot is booted if its image is valid, else the other one if that is (with the boot record naming it), else the chip halts. SDRAM_TRAINING_DONE, from 110 µs
on, takes the rate that the training found and copies the image booted to the SDRAM with its digest kept, or halts the boot; before, it does nothing.
MAILBOX_READY writes the boot record and sets MBX_STATUS.READY; START_UP_EPISODE_CLOSE closes an episode of the start-up alone. -/
def Obligations.ColdBoot : Prop := ∀ s : State,
  (∀ r : Fin 8, ∃ s', exec (.railFall r) s = .next s' ∧ s'.power.phase = .powerOnReset ∧ s'.power.railFell = true ∧
    s'.power.railGood.getLsbD r.val = false ∧ (∀ b, b < 8 → b ≠ r.val → s'.power.railGood.getLsbD b = s.power.railGood.getLsbD b) ∧
    s'.journal = {} ∧ s'.store = {} ∧ s'.now = 0 ∧ s'.evt.service = s.evt.service ∧ s'.flash.image0 = s.flash.image0 ∧ s'.readyPin = .floating) ∧
  (∀ m1 m0 me b x cs, s.power.phase ≠ .powerOnReset → exec (.powerOnReset m1 m0 me b x cs) s = .next s) ∧
  (∀ m1 m0 me b x cs, s.power.phase = .powerOnReset → ∃ s', exec (.powerOnReset m1 m0 me b x cs) s = .next s' ∧
    s'.cal.xres = min x 65535 ∧ (s'.cal.xresBad = true ↔ x * 10 < 8 * 32768 ∨ 12 * 32768 < x * 10) ∧
    (¬(x * 10 < 8 * 32768 ∨ 12 * 32768 < x * 10) →
      s'.power.mode = strapMode s.fuses.hb8 m1 m0 ∧ s'.power.mgrEn = me ∧ s'.power.brownout = s.power.railFell ∧
      s'.journal.epoch = (s.flash.boot.epoch + 1) % 2 ^ 24 ∧ s'.journal.entries = [] ∧
      (s'.power.phase, s'.power.slot, s'.power.fallback, s'.flash.bootA, s'.flash.bootB) =
        if imageValid s.fuses.firmwareKey (s.flash.image s.flash.boot.slot) then (BootPhase.booting, s.flash.boot.slot, false, s.flash.bootA, s.flash.bootB)
        else if imageValid s.fuses.firmwareKey (s.flash.image (1 - s.flash.boot.slot)) then
          (BootPhase.booting, 1 - s.flash.boot.slot, true, (s.flash.writeBoot (1 - s.flash.boot.slot) s.flash.boot.epoch).bootA,
            (s.flash.writeBoot (1 - s.flash.boot.slot) s.flash.boot.epoch).bootB)
        else (BootPhase.halted, 0, false, s.flash.bootA, s.flash.bootB))) ∧
  (∀ (tr : Training) t slow, s.power.phase = .booting → 110000 ≤ max s.now t → Machine.Training.rate4800? tr s.dmc.limit4800 = some slow → ∃ s', exec (.sdramTrainingDone tr t) s = .next s' ∧
    s'.power.phase = .trained ∧ s'.dmc.trained = true ∧ s'.dmc.rate4800 = slow ∧ s'.dmc.gigabytes = gigabytesOf tr.density.val tr.ranks2 ∧
    s'.store.totalBlocks = (gigabytesOf tr.density.val tr.ranks2 * 1024 - 720) * 16 ∧ s'.dmc.image = slotImage (s.flash.image s.power.slot) ∧
    s'.power.digest = Config.sha384 s'.dmc.image) ∧
  (∀ (tr : Training) t, max s.now t < 110000 → exec (.sdramTrainingDone tr t) s = .next (s.tick t)) ∧
  (∀ (tr : Training) t, s.power.phase = .booting → 110000 ≤ max s.now t → Machine.Training.rate4800? tr s.dmc.limit4800 = none → ∃ s', exec (.sdramTrainingDone tr t) s = .next s' ∧
    s'.power.phase = .halted) ∧
  (∀ t, s.power.phase = .trained → ∃ s', exec (.mailboxReady t) s = .next s' ∧ s'.power.phase = .running ∧ s'.host.ready = true ∧
    s'.flash = s.flash.writeBoot s.power.slot s.journal.epoch) ∧
  ∀ t, s.power.phase = .running → s.evt.openers = [0] → ∃ s', exec (.startUpEpisodeClose t) s = .next s' ∧ s'.evt.openers = []

/-- Supplies, temperatures and clocks (R434, R438, R441, R482, R159). A rail out of its range, a die sensor at 105 °C or more, SYSCLK lost and a PLL other than the
host PLL out of lock are live conditions of block 0xC, and each raises its fault, which is counted where the collector takes it; a rail back in range and a die
sensor below 105 °C leave the live bit as the conditions that remain have it; VDD_DQ out of its range in a warm reset loses the SDRAM's contents (R363); the sentinel's frequency outside 45 to 55 MHz raises 0x0F02; a
difference between the copies of the device time count, or a shot fed to their comparison (R382), stops firing until printing is armed again, and equal copies change nothing but the time. -/
def Obligations.SupplyAndClockFaults : Prop := ∀ (s : State) (t : Nat), s.power.phase ≠ .powerOnReset →
  let counts := fun (s' : State) (code unit : Nat) => Detected (s.tick t) code unit →
    countOf s'.flt (s.classOf code) = min (countOf s.flt (s.classOf code) + 1) 255 ∧ s'.flt.latchClass.getLsbD (s.classOf code) = true
  (∀ (r : Fin 8) mv, ∃ s', exec (.supplyOutOfRange r mv t) s = .next s' ∧ s'.power.rangeOut = s.power.rangeOut ||| BitVec.ofNat 8 (2 ^ r.val) ∧
    s'.power.railMv = Tbl.put 0 s.power.railMv r.val mv ∧ s'.flt.live.getLsbD 12 = true ∧
    (s'.dmc.lost = true ↔ s.dmc.lost = true ∨ (r.val = 4 ∧ s.power.phase = .warmReset)) ∧ counts s' 0x0C03 r.val) ∧
  (∀ (r : Fin 8) mv, ∃ s', exec (.supplyBackInRange r mv t) s = .next s' ∧ s'.power.rangeOut = s.power.rangeOut &&& ~~~ BitVec.ofNat 8 (2 ^ r.val) ∧
    s'.flt.live.getLsbD 12 = s'.clocksBad ∧ Only [.now, .power, .flt] s s') ∧
  (∀ (n : Fin 8) (raw : BitVec 16), 1680 ≤ raw.toInt → ∃ s', exec (.dieTempAlarm n raw t) s = .next s' ∧
    s'.power.dieTemp = Tbl.put 0x8000 s.power.dieTemp n.val raw ∧ s'.flt.live.getLsbD 12 = true ∧ counts s' 0x0C04 n.val) ∧
  (∀ (n : Fin 8) (raw : BitVec 16), ∃ s', exec (.dieTempReturn n raw t) s = .next s' ∧
    s'.power.dieTemp = Tbl.put 0x8000 s.power.dieTemp n.val raw ∧ s'.flt.live.getLsbD 12 = s'.clocksBad ∧ Only [.now, .power, .flt, .cal] s s') ∧
  (∃ s', exec (.sysclkLoss t) s = .next s' ∧ s'.power.sysclk = false ∧ s'.flt.live.getLsbD 12 = true ∧ counts s' 0x0C01 0) ∧
  (∀ p : Fin 10, p.val ≠ 0 → ∃ s', exec (.pllLockLoss p t) s = .next s' ∧ s'.power.pllLock = s.power.pllLock &&& ~~~ BitVec.ofNat 10 (2 ^ p.val) ∧
    s'.flt.live.getLsbD 12 = true ∧ counts s' 0x0C01 p.val) ∧
  (∀ f, 4500 ≤ f → f ≤ 5500 → exec (.sentinelOscCheck f t) s = .next { s with now := max s.now t, power := { s.power with sentFreq := BitVec.ofNat 16 f } }) ∧
  (∀ f, f < 4500 ∨ 5500 < f → ∃ s', exec (.sentinelOscCheck f t) s = .next s' ∧ s'.power.sentFreq = BitVec.ofNat 16 (min f 65535) ∧ counts s' 0x0F02 0) ∧
  (∀ a, s.shotAt 0x14 0 = false → exec (.deviceTimeCompare a a t) s = .next (s.tick t)) ∧
  ∀ a b, a ≠ b ∨ s.shotAt 0x14 0 = true → ∃ s', exec (.deviceTimeCompare a b t) s = .next s' ∧ s'.pos.copiesDiffer = true ∧ counts s' 0x0C02 0 ∧
    (s'.pos.armed = true → s'.pos.stopped = true ∧ s'.pos.pending = [])

/-- A warm reset starts (R448 to R450, R276, R363, R455). PERST_N_ASSERT in a boot, while the device runs or in a warm reset, and SENTINEL_WATCHDOG_EXPIRE wherever
device firmware runs or is started (log 23), complete with it: printing is disarmed with no fire position left to commit, the axes are at rest, the SDRAM is in self-refresh, the mailbox block takes its reset values with RESETKIND naming the
source, READY is low and the fault state is left. A PERST_N outside HB-8 mode keeps the journal's entries, the page store's pages, the calibration
selections, the position counts and the fault counts. A chip that has no valid image tries its images again at PERST_N, and waits on while none is valid (R447). -/
def Obligations.WarmResetStarts : Prop := ∀ (s : State) (t : Nat),
  let starts := fun (s' : State) (kind : Nat) => s'.power.phase = .warmReset ∧ s'.power.resetAt = max s.now t ∧ s'.power.resetCause = kind ∧
    s'.host.resetKind = kind ∧ s'.host.ready = false ∧ s'.host.cq = [] ∧ s'.host.cc = [] ∧ s'.host.msix = [] ∧ s'.readyPin = .low ∧
    s'.pos.armed = false ∧ s'.pos.pending = [] ∧ s'.dmc.selfRefresh = true ∧ s'.flt.faultState = false ∧ s'.axesAtRest = true
  (s.power.phase ≠ .powerOnReset → s.power.phase ≠ .halted →
    ∃ s', exec (.perstNAssert t) s = .next s' ∧ starts s' 1 ∧ s'.host.perstLow = true ∧ s'.host.identityLoaded = false ∧ s'.host.busMaster = false ∧
      (s.power.mode ≠ .hb8 → s'.journal.entries = s.journal.entries ∧ s'.store.pages = s.store.pages ∧ s'.cal.elements = s.cal.elements ∧
        s'.pos.channels = s.pos.channels ∧ s'.pos.h = s.pos.h ∧ (∀ c, countOf s'.flt c = countOf s.flt c))) ∧
  (s.power.phase = .powerOnReset → exec (.perstNAssert t) s = .next { s with now := max s.now t, host := { s.host with perstLow := true } }) ∧
  (s.power.phase = .halted →
    let valid := imageValid s.fuses.firmwareKey (s.flash.image s.flash.boot.slot) ∨ imageValid s.fuses.firmwareKey (s.flash.image (1 - s.flash.boot.slot))
    ∃ s', exec (.perstNAssert t) s = .next s' ∧ s'.host.perstLow = true ∧ (valid → starts s' 1) ∧ (¬valid → s'.power.phase = .halted ∧ s'.power.fwVersion = 0)) ∧
  (s.power.phase ≠ .powerOnReset → s.power.phase ≠ .warmReset → s.power.phase ≠ .halted → ∃ s', exec (.sentinelWatchdogExpire t) s = .next s' ∧ starts s' 3 ∧
    (s.classOf 0x0F01 < 3 → s.flt.faultState = false → s'.power.rearm = false)) ∧
  (s.power.phase = .powerOnReset ∨ s.power.phase = .warmReset ∨ s.power.phase = .halted → exec (.sentinelWatchdogExpire t) s = .next (s.tick t))

/-- A warm reset ends (R365, R392, R450, R452, R4). At the end of PERST_N the straps are sampled; with the mode as before, nothing else but the link comes back, and with
another mode the page store is emptied, no page is armed again, and BAR4 is open exactly in HB-8 mode. From 1 ms on the SDRAM is re-tuned with the page store and the
journal kept; or, where its contents are lost, trained in full, with the page store and the journal empty, the compare units kept and the epoch raised by 1 in the boot record, or the boot is halted. Before 1 ms it
is not. From 10 ms on, with PERST_N high, JOURNAL_RECOVERY makes the device run, with MBX_STATUS.READY set and RECOVERING at 0, where the image copy in the SDRAM
stands as its digest was kept or one of the two images is valid; where neither holds the chip halts. -/
def Obligations.WarmResetEnds : Prop := ∀ (s : State) (t : Nat),
  (∀ m1 m0 me, s.host.perstLow = true → s.power.phase ≠ .powerOnReset → strapMode s.fuses.hb8 m1 m0 = s.power.previousMode →
    exec (.perstNDeassert m1 m0 me t) s = .next ({ s with
      now := max s.now t, host := { s.host with perstLow := false }
      power := { s.power with mode := strapMode s.fuses.hb8 m1 m0, mode1 := m1, mode0 := m0, mgrEn := me } }).linkBack) ∧
  (∀ m1 m0 me, s.host.perstLow = true → s.power.phase ≠ .powerOnReset → strapMode s.fuses.hb8 m1 m0 ≠ s.power.previousMode →
    ∃ s', exec (.perstNDeassert m1 m0 me t) s = .next s' ∧ s'.power.mode = strapMode s.fuses.hb8 m1 m0 ∧ s'.power.previousMode = s'.power.mode ∧
      s'.power.rearm = false ∧ s'.store.pages = [] ∧ (s'.power.mode ≠ .hb8 → s'.store.jobs = []) ∧
      (s'.hb.openBar = true ↔ s'.power.mode = .hb8) ∧ s'.cal = { s.cal with setDirty := s'.cal.setDirty } ∧ s'.flash = s.flash) ∧
  (∀ (tr : Training), s.power.phase = .warmReset → s.power.resetAt + 1000000 ≤ max s.now t → s.dmc.trained = true → s.dmc.lost = false →
    ∃ s', exec (.sdramWarmRetune true tr t) s = .next s' ∧ s'.power.phase = .retuned ∧ s'.dmc.selfRefresh = false ∧ s'.dmc.warmKeep = true ∧
      s'.store = s.store ∧ s'.journal = s.journal ∧ s'.host.identityLoaded = true ∧
      s'.flash = if s.flash.boot.epoch = s.journal.epoch then s.flash else s.flash.writeBoot s.flash.boot.slot s.journal.epoch) ∧
  (∀ ok (tr : Training) slow, s.power.phase = .warmReset → s.power.resetAt + 1000000 ≤ max s.now t → (ok && s.dmc.trained && !s.dmc.lost) = false →
    Machine.Training.rate4800? tr s.dmc.limit4800 = some slow →
    ∃ s', exec (.sdramWarmRetune ok tr t) s = .next s' ∧ s'.power.phase = .retuned ∧ s'.dmc.fullRetrain = true ∧ s'.dmc.warmKeep = false ∧
      s'.store.pages = [] ∧ s'.store.jobs = [] ∧ s'.journal.entries = [] ∧ s'.journal.epoch = (s.journal.epoch + 1) % 2 ^ 24 ∧
      s'.pos.units = s.pos.units ∧ s'.hb.lines = [] ∧ s'.flash = s.flash.writeBoot s.flash.boot.slot ((s.journal.epoch + 1) % 2 ^ 24)) ∧
  (∀ ok (tr : Training), s.power.phase = .warmReset → s.power.resetAt + 1000000 ≤ max s.now t → (ok && s.dmc.trained && !s.dmc.lost) = false →
    Machine.Training.rate4800? tr s.dmc.limit4800 = none → ∃ s', exec (.sdramWarmRetune ok tr t) s = .next s' ∧ s'.power.phase = .halted ∧ s'.dmc.trained = false) ∧
  (∀ ok tr, max s.now t < s.power.resetAt + 1000000 → exec (.sdramWarmRetune ok tr t) s = .next (s.tick t)) ∧
  (s.power.phase = .retuned → s.power.resetAt + 10000000 ≤ max s.now t → s.host.perstLow = false →
    let bootable := (s.dmc.fullRetrain = false ∧ Config.sha384 s.dmc.image = s.power.digest ∧ s.flash.boot.slot = s.power.slot) ∨
      imageValid s.fuses.firmwareKey (s.flash.image s.flash.boot.slot) ∨ imageValid s.fuses.firmwareKey (s.flash.image (1 - s.flash.boot.slot))
    (bootable → ∃ s', exec (.journalRecovery t) s = .next s' ∧ s'.power.phase = .running ∧ s'.host.ready = true ∧ s'.journal.recovering = false) ∧
    (¬bootable → ∃ s', exec (.journalRecovery t) s = .next s' ∧ s'.power.phase = .halted ∧ s'.power.fwVersion = 0)) ∧
  (s.power.phase ≠ .retuned ∨ max s.now t < s.power.resetAt + 10000000 ∨ s.host.perstLow = true → exec (.journalRecovery t) s = .next (s.tick t))

/-- The host link is lost and comes back (R275, R439, R441, R274, R279, R485, R1). LINK_DOWN, REFCLK_PCIE_LOSS and the loss of the host PLL's lock take a link that is
up down with a host interface reset of RESETKIND 5, FUNCTION_LEVEL_RESET makes one of RESETKIND 4 with the link up: bus mastering is off, the queue rings and the MSI-X table are at
reset, the shots of the host DMA's checker are dropped (R384), and, outside HB-8 mode, the print path goes on as it was. A CONFIG_REQUEST is answered with Request Retry Status until the identity is loaded, and with the
identity of the fuses, class code 0x118000 and the three 64-bit BARs from then on; the model takes the link to be up from such a request on (log 18). -/
def Obligations.HostLinkResets : Prop := ∀ (s : State) (t : Nat), s.power.phase ≠ .powerOnReset →
  let resets := fun (s' : State) (kind : Nat) => s'.host.resetKind = kind ∧ s'.host.busMaster = false ∧ s'.host.d3hot = false ∧ s'.host.cq = [] ∧
    s'.host.cc = [] ∧ s'.host.msix = [] ∧ s'.host.ready = s.host.ready ∧ (s.power.mode ≠ .hb8 → s'.pos = s.pos ∧ s'.lines = s.lines ∧ s'.heads = s.heads)
  let shots := fun (s' : State) => s'.flt = { s.flt with injections := s.flt.injections.filter fun i => i.checker != 0x03 }
  (s.host.perstLow = false → s.host.linkUp = true →
    (∃ s', exec (.linkDown t) s = .next s' ∧ resets s' 5 ∧ s'.host.linkUp = false) ∧
    ∃ s', exec (.functionLevelReset t) s = .next s' ∧ resets s' 4 ∧ s'.host.linkUp = true) ∧
  (s.host.perstLow = false → s.host.linkUp = true →
    (∃ s', exec (.refclkPcieLoss t) s = .next s' ∧ resets s' 5 ∧ s'.host.linkUp = false ∧ s'.power.refclk = false ∧ shots s') ∧
    ∃ s', exec (.pllLockLoss 0 t) s = .next s' ∧ resets s' 5 ∧ s'.host.linkUp = false ∧ s'.power.pllLock.getLsbD 0 = false ∧ shots s') ∧
  (s.host.perstLow = true ∨ s.host.linkUp = false →
    exec (.linkDown t) s = .next (s.tick t) ∧ exec (.functionLevelReset t) s = .next (s.tick t) ∧
    exec (.refclkPcieLoss t) s = .next { s.tick t with power := { s.power with refclk := false, pllLock := s.power.pllLock &&& 0x3FE } } ∧
    ∃ s', exec (.pllLockLoss 0 t) s = .next s' ∧ s'.power.pllLock.getLsbD 0 = false ∧ Only [.now, .power] s s') ∧
  (s.host.perstLow = false →
    let bars : List Bar := [⟨0, 64 * 2 ^ 20, false⟩, ⟨2, 256 * 2 ^ 20, true⟩, ⟨4, if s.power.mode = .hb8 then 65536 else 0, false⟩]
    exec .configRequest s = .next (s.linkBack.emit (if s.host.identityLoaded = false then .configRetry
      else if s.fuses.hb8 = true then .configIdentity ⟨s.fuses.vendorUazar, 0x0B08, 0x03, 0x118000, some (s.fuses.vendorUazar, 0x0B08), bars⟩
      else .configIdentity ⟨s.fuses.vendorNalrik, 0x3216, 0xA1, 0x118000, none, bars⟩))) ∧
  (s.host.perstLow = true → exec .configRequest s = .next s)

/-! ## HB-8 mode (chapter 19) -/

/-- The HB-8 register window (R489 to R496, R498, R500, R505). While it is closed no write or read of it has an effect. ENABLE set arms printing once the arming checks pass, and cleared disarms and discards every line held; SRST discards them and clears HB_ERR, whose read clears it too. Bytes at the data port, or of a ring entry, make lines: accepted below a level of
1,024, with a place once a start line is known, behind the lines that wait and while the store has a block free, lost with OVERRUN above it; outside the running phase up to 65,536 bytes are held. A DMA error halts the ring until DMA is written 0 and 1. HB_DELAYn reads what was written;
a head's delay applies at once or at the next hoist, and one beyond 8,191 lines sets CFG and leaves the delay in force. The encoder and pitch fields are held while ENABLE is 1, and restart the reference with its tick 0 where they apply (v.zeroTick). The open page closes at its deadline
or with 128 lines, if the store has the blocks, and a line that waits takes its place once it has space. -/
def Obligations.Hb8Window : Prop := ∀ (s : State) (t : Nat),
  let u := s.tick t
  let h := s.hb
  let bit := fun (s' : State) (i : Nat) => s'.hb.err = h.err ||| BitVec.ofNat 16 (2 ^ i)
  (s.hbOpen = false → exec (.hbEnableSet t) s = .next u ∧ exec (.hbEnableClear t) s = .next u ∧ exec (.srst t) s = .next u ∧ (∀ on, exec (.hbDmaModeWrite on) s = .next s) ∧
    (∀ b, exec (.hbFifoWrite b t) s = .next u) ∧ (∀ tail, exec (.hbDmaDoorbell tail) s = .next s) ∧ (∀ n b e, exec (.hbDmaEntryDone n b e t) s = .next u) ∧ exec .hbErrRead s = .next s ∧
    (∀ n v, exec (.hbDelayWrite n v t) s = .next u) ∧ (∀ d v, exec (.hbEncoderWrite d v t) s = .next u) ∧ ∀ p, exec (.hbPitchWrite p t) s = .next u) ∧
  (s.hbOpen = true →
    (h.enable = true → exec (.hbEnableSet t) s = .next u) ∧
    (h.enable = false →
      let u1 : State := { u with hb := { h with enable := true, waitArm := true } }
      (u1.armVerdict.isSome = true ∨ s.host.ready = false ∨ s.power.phase ≠ .running → exec (.hbEnableSet t) s = .next u1) ∧
      (u1.armVerdict = none → s.host.ready = true → s.power.phase = .running → ∃ s', exec (.hbEnableSet t) s = .next s' ∧ s'.hb.enable = true ∧ s'.hb.waitArm = false ∧ s'.pos.armed = true ∧
        s'.journal.next = s.journal.next + 1)) ∧
    (h.enable = false → exec (.hbEnableClear t) s = .next u) ∧
    (h.enable = true → ∃ s' : State, exec (.hbEnableClear t) s = .next s'.zeroTick.hbIrq ∧ (h.pitchHeld = h.pitch → h.encCfgHeld = h.encCfg → h.encDivHeld = h.encDiv → s.pos.zeroDue = false → s'.zeroTick = s') ∧
      s'.hb.enable = false ∧ s'.hb.waitArm = false ∧ s'.pos.armed = false ∧ (s.pos.armed = true → s'.pos.pending = []) ∧
      s'.hb.lines = [] ∧ s'.hb.partialLine = [] ∧ s'.hb.openPage = [] ∧ s'.hb.depth = h.depthHeld ∧ s'.hb.pitch = h.pitchHeld ∧ s'.hb.encCfg = h.encCfgHeld ∧ s'.hb.encDiv = h.encDivHeld ∧ ∀ p ∈ s'.store.pages, p.legacy = false) ∧
    (∃ s', exec (.srst t) s = .next s' ∧ s'.hb.err = 0 ∧ s'.hb.lines = [] ∧ s'.hb.partialLine = [] ∧ s'.hb.openPage = [] ∧ s'.hb.nextLine = h.nextLine ∧ s'.hb.enable = h.enable ∧
      s'.store.pages = s.store.pages.filter (fun p => !p.legacy) ∧ Only [.now, .store, .codec, .hb, .out] s s') ∧
    (∀ on, ∃ s', exec (.hbDmaModeWrite on) s = .next s' ∧ s'.hb = { h with dma := on, dmaHalted := h.dmaHalted && on, irqPending := s'.hb.irqPending } ∧ Only [.hb, .out] s s') ∧
    (∀ tail, ∃ s', exec (.hbDmaDoorbell tail) s = .next s' ∧ s'.hb = { h with dmaTail := tail, irqPending := s'.hb.irqPending } ∧ Only [.hb, .out] s s') ∧
    (∃ s', exec .hbErrRead s = .next s' ∧ Out.readData 0x0400000C (h.err.zeroExtend 64) ∈ s'.out ∧ s'.hb = { h with err := 0, irqPending := s'.hb.irqPending } ∧ Only [.hb, .out] s s') ∧
    (∀ bytes : List Byte,
      (h.dma = true → exec (.hbFifoWrite bytes t) s = .next u) ∧
      (h.dma = false → s.power.phase ≠ .running → ∃ s', exec (.hbFifoWrite bytes t) s = .next s' ∧ s'.hb.heldWrites = (h.heldWrites ++ bytes).take 65536 ∧ (65536 < (h.heldWrites ++ bytes).length → bit s' 1) ∧
        ((h.heldWrites ++ bytes).length ≤ 65536 → s'.hb.err = h.err) ∧ Only [.now, .hb, .out] s s') ∧
      (h.dma = false → s.power.phase = .running →
        ((h.partialLine ++ bytes).length < h.lineBytes → ∃ s', exec (.hbFifoWrite bytes t) s = .next s' ∧ s'.hb = { h with partialLine := h.partialLine ++ bytes, irqPending := s'.hb.irqPending } ∧ Only [.now, .hb, .out] s s') ∧
        ((h.partialLine ++ bytes).length = h.lineBytes →
          let pixels := twoBit h.depth h.oneLevel.toNat (h.partialLine ++ bytes)
          (1024 ≤ h.lines.length → ∃ s', exec (.hbFifoWrite bytes t) s = .next s' ∧ s'.hb.lines = h.lines ∧ s'.hb.partialLine = [] ∧ bit s' 1 ∧ Only [.now, .hb, .out] s s') ∧
          (h.lines.length < 1024 → h.nextLine = none → ∃ s', exec (.hbFifoWrite bytes t) s = .next s' ∧ s'.hb = { h with
            partialLine := [], lines := h.lines ++ [{ place := none, bytes := pixels }], irqPending := s'.hb.irqPending } ∧ Only [.now, .hb, .out] s s') ∧
          let room := legacyBlocks (h.openPage.length + 1) ≤ s.freeBlocks
          (h.lines.length < 1024 → h.nextLine.isSome = true → ¬ room → ∃ s', exec (.hbFifoWrite bytes t) s = .next s' ∧ s'.hb = { h with
            partialLine := [], lines := h.lines ++ [{ place := none, bytes := pixels }], irqPending := s'.hb.irqPending } ∧ Only [.now, .hb, .out] s s') ∧
          (∀ l, h.lines.length < 1024 → h.nextLine = some l → room → (∀ x ∈ h.lines, x.place ≠ none) → u.highWater < 64 * (l.fdiv 64 - 10) * 65536 → h.openPage.length < 127 → ∃ s', exec (.hbFifoWrite bytes t) s = .next s' ∧ s'.hb = { h with
            partialLine := [], lines := h.lines ++ [{ place := some l, bytes := [] }], openPage := h.openPage ++ [(l, pixels)], nextLine := some (l + 1), irqPending := s'.hb.irqPending } ∧ Only [.now, .hb, .out] s s') ∧
          (∀ l, h.lines.length < 1024 → h.nextLine = some l → room → (∀ x ∈ h.lines, x.place ≠ none) → 64 * (l.fdiv 64 - 10) * 65536 ≤ u.highWater → h.openPage = [] →
            let place := 64 * (u.highWater.fdiv 4194304 + 11)
            ∃ s', exec (.hbFifoWrite bytes t) s = .next s' ∧ s'.hb.lines = h.lines ++ [{ place := some place, bytes := [] }] ∧ s'.hb.openPage = [(place, pixels)] ∧ s'.hb.nextLine = some (place + 1) ∧ bit s' 0 ∧
              Only [.now, .hb, .out] s s')))) ∧
    (∀ lines bytes err,
      let quiet := h.dma = false ∨ h.dmaHalted = true ∨ h.dmaHead = h.dmaTail ∨ s.power.phase ≠ .running ∨ u.canSend = false
      (quiet → exec (.hbDmaEntryDone lines bytes err t) s = .next u) ∧
      (¬ quiet → err = true → ∃ s', exec (.hbDmaEntryDone lines bytes err t) s = .next s' ∧ s'.hb.dmaHalted = true ∧ s'.hb.dmaHead = h.dmaHead ∧ bit s' 6 ∧ Only [.now, .hb, .out] s s') ∧
      (¬ quiet → err = false → ∃ s', exec (.hbDmaEntryDone lines bytes err t) s = .next s' ∧ Only [.now, .store, .codec, .hb, .out] s s' ∧
        (lines - h.dmaTaken ≤ 1024 - h.lines.length → s'.hb.dmaHead = BitVec.ofNat 10 ((h.dmaHead.toNat + 1) % h.dmaSize.toNat) ∧ s'.hb.dmaTaken = 0) ∧
        (1024 - h.lines.length < lines - h.dmaTaken → s'.hb.dmaHead = h.dmaHead ∧ s'.hb.dmaTaken = h.dmaTaken + (1024 - h.lines.length)))) ∧
    (∀ (n : Fin 8) (v : BitVec 12),
      let h1 : Hb := { h with delays := Tbl.put 0 h.delays n v }
      let s1 : State := { u with hb := { h1 with delaysSet := Tbl.put 0 h.delaysSet n v } }
      let fits := (s1.legacyQ s.pos.lpi (2 * n)).fdiv 256 ≤ 8191 ∧ (s1.legacyQ s.pos.lpi (2 * n + 1)).fdiv 256 ≤ 8191
      (¬ fits → ∃ s', exec (.hbDelayWrite n v t) s = .next s' ∧ bit s' 5 ∧ s'.hb = { h1 with err := s'.hb.err, irqPending := s'.hb.irqPending } ∧ Only [.now, .hb, .out] s s') ∧
      (fits → s.pos.armed = false → s.lines.changes = [] → ∃ s', exec (.hbDelayWrite n v t) s = .next s' ∧ s'.hb = s1.hb ∧ Tbl.get 0 s'.hb.delays n = v ∧ (∀ r, r < 64 → Tbl.get 0 s'.lines.q r =
        if r / 2 = n.val then s1.legacyQ s.pos.lpi r else Tbl.get 0 s.lines.q r) ∧ Only [.now, .lines, .hb] s s') ∧
      (fits → s.pos.armed = true → ∃ s' c, exec (.hbDelayWrite n v t) s = .next s' ∧ s'.hb = s1.hb ∧ Tbl.get 0 s'.hb.delays n = v ∧ s'.lines = { s.lines with changes := s.lines.changes ++ [c] } ∧
        c.line = some (64 * (s.pos.tick + 1)) ∧ (∀ r, r < 64 → r / 2 = n.val → Tbl.get 0 c.q r = s1.legacyQ s.pos.lpi r) ∧ Only [.now, .lines, .hb] s s')) ∧
    (∀ (divider : Bool) (v : BitVec 16),
      let h1 : Hb := if divider then { h with encDivHeld := v } else { h with encCfgHeld := BitVec.ofNat 10 (bits v.toNat 0 3 + 16 * bits v.toNat 4 6) }
      (h.enable = true → ∃ s', exec (.hbEncoderWrite divider v t) s = .next s' ∧ s'.hb = h1 ∧ Only [.now, .hb] s s') ∧
      (h.enable = false → ∃ s' : State, exec (.hbEncoderWrite divider v t) s = .next s'.zeroTick ∧ s'.hb.encDivHeld = h1.encDivHeld ∧ s'.hb.encCfgHeld = h1.encCfgHeld ∧
        s'.hb.encDiv = h1.encDivHeld ∧ s'.hb.encCfg = h1.encCfgHeld ∧
        (∀ set, ({ h1 with encDiv := h1.encDivHeld, encCfg := h1.encCfgHeld } : Hb).encoder s.pos.lpi = some set → (s'.chan 0).set = set ∧ s'.pos.zeroDue = true ∧ s'.pos.h = 0 ∧ s'.pos.tick = 0) ∧
        (({ h1 with encDiv := h1.encDivHeld, encCfg := h1.encCfgHeld } : Hb).encoder s.pos.lpi = none → bit s' 5 ∧ s'.pos = s.pos ∧ (s.pos.zeroDue = false → s'.zeroTick = s')))) ∧
    (∀ p, (h.enable = true → ∃ s', exec (.hbPitchWrite p t) s = .next s' ∧ s'.hb = { h with pitchHeld := p } ∧ Only [.now, .hb] s s') ∧
      (h.enable = false → ∃ s' : State, exec (.hbPitchWrite p t) s = .next s'.zeroTick ∧ s'.hb.pitchHeld = p ∧ s'.hb.pitch = p ∧
        (p ≠ h.pitch → s'.pos.lpi = (if p = true then 1200 else 600) ∧ s'.pos.zeroDue = true ∧ s'.pos.h = 0 ∧ s'.pos.tick = 0)))) ∧
  let waits := h.nextLine.isSome = true ∧ ∃ x ∈ h.lines, x.place = none
  (h.openPage = [] → ¬ waits → exec (.legacyPageClose t) s = .next u) ∧
  (∀ l pre x post, h.openPage = [] → h.nextLine = some l → h.lines = pre ++ x :: post → (∀ y ∈ pre ++ post, y.place ≠ none) → x.place = none → 1 ≤ s.freeBlocks →
    u.highWater < 64 * (l.fdiv 64 - 10) * 65536 → ∃ s', exec (.legacyPageClose t) s = .next s' ∧ s'.hb = { h with
      lines := pre ++ { place := some l, bytes := [] } :: post, openPage := [(l, x.bytes)], nextLine := some (l + 1) } ∧ Only [.now, .hb] s s') ∧
  ∀ l bytes rest, h.openPage = (l, bytes) :: rest →
    let due := 64 * (l.fdiv 64 - 10) * 65536 ≤ u.highWater ∨ 128 ≤ h.openPage.length
    let blocks := ceilDiv (h.openPage.length * 4096) 65536
    (¬ due → ¬ waits ∨ s.freeBlocks < legacyBlocks (h.openPage.length + 1) → exec (.legacyPageClose t) s = .next u) ∧ (due → s.freeBlocks < blocks → exec (.legacyPageClose t) s = .next u) ∧
    (due → ¬ waits → blocks ≤ s.freeBlocks → ∃ s' p, exec (.legacyPageClose t) s = .next s' ∧ s'.hb.openPage = [] ∧ s'.store.pages = s.store.pages ++ [p] ∧ p.legacy = true ∧ p.first = some l ∧ p.rows = h.openPage.length ∧
      p.blocks = blocks ∧ p.state = .transferring ∧ s'.store.nextLegacy = s.store.nextLegacy + 1 ∧ Only [.now, .store, .codec, .hb] s s')

/-! ## The block as a whole -/

/-- A step takes the command at the front of the queue and is exec of that command on the state with the rest of the queue; on an empty queue the block idles (log 1). -/
def Obligations.StepRunsFront : Prop :=
  (∀ (c : Instr) (rest : List Instr) (s : State), step { s with pending := c :: rest } = exec c { s with pending := rest }) ∧
  (∀ s : State, s.pending = [] → step s = .next s)

/-- Every command that the block takes completes, and keeps what no command may break: from every state whose event recorder is within its places (R401, R403, R405), whose overflow count has
stopped at 0xFFFF_FFFF (R406) and whose fault counts and shadow hits have stopped at 255, exec of any command answers a next state of which the same holds, with the same fuses and with the same
commands waiting; and so does a step, with the first command of the queue gone. -/
def Obligations.StepKeeps : Prop := ∀ (f : Fuses) (q : List Instr) (s : State), Keeps f q s →
  (∀ c, ∃ s', exec c s = .next s' ∧ Keeps f q s') ∧ ∃ s', step s = .next s' ∧ Keeps f q.tail s'

/-- The machine after reset holds its counts and recorder within bounds, has no command waiting and is held in power-on reset; and registers read as the register tables give their reset values:
ID_DEVICE, ID_STEPPING, SIZE of every command and completion queue, TAIL with its phase of every completion queue, MBX_STATUS, FLT_PIN, FLT_STATE, FLT_COUNT, POS_STATUSn, HDP_PORTn_TEMP, HLY_RING,
PWR_STATUS, PWR_DIETEMPn, and in HB-8 mode HB_ID, HB_CTRL and HB_ISR. The print path is disarmed, with 14 active pennants and a lead setting of 6. -/
def Obligations.ResetState : Prop :=
  Keeps State.reset.fuses [] State.reset ∧ State.reset.power.phase = .powerOnReset ∧ State.reset.pos.armed = false ∧ State.reset.render.active = 14 ∧ State.reset.render.lead = 6 ∧
  State.reset.readWord 0 = 0x3216 ∧ State.reset.readWord 4 = 0xA1 ∧ State.reset.readWord 0x1204 = 0xFF ∧ State.reset.readWord 0x10034 = 1 ∧ State.reset.readWord 0x10000 = 0 ∧
  State.reset.readWord 0x10018 = 0 ∧ State.reset.readWord 0x50100 = 0x30 ∧ State.reset.readWord 0xA0000 = 0xFF ∧
  (∀ n, n < 8 → State.reset.readWord (0x1008 + 0x20 * n) = 16 ∧ State.reset.readWord (0x1108 + 0x20 * n) = 16 ∧ State.reset.readWord (0x110C + 0x20 * n) = 0x10000 ∧
    State.reset.readWord (0xA0040 + 4 * n) = 0x8000) ∧
  (∀ n, n < 6 → State.reset.readWord (0x30008 + 0x20 * n) = 4) ∧
  (∀ n, n < 32 → State.reset.readWord (0x40008 + 0x40 * n) = 0x80008000 ∧ State.reset.readWord (0x4000C + 0x40 * n) = 0x8000) ∧
  (let s : State := { State.reset with power := { State.reset.power with mode := .hb8 } }
   s.readWord 0x4000000 = 0x48420803 ∧ s.readWord 0x4000004 = 0x60 ∧ s.readWord 0x4000010 = 1)

/-- R2: in every state ID_STEPPING reads 0xA1 in bits 7:0 and 0 in bits 31:8, and a read of it that reaches the device returns that word, where it is not taken for the second half of a 64-bit register
under way (R280). -/
def Obligations.SteppingReads : Prop := ∀ s : State, (s.readWord 4).extractLsb' 0 8 = 0xA1 ∧ (s.readWord 4).extractLsb' 8 24 = 0 ∧
  (s.hostReaches = true → SMap.find? 4 s.host.latch = none → exec (.lowHalfRead 4) s = .next { s with out := .readData 4 0xA1 :: s.out })

/-- R5, with the codes of R3: in every state ID_MODE[1:0] reads 0b01 in native mode, 0b10 in HB-8 mode and 0b11 in factory test, whatever the straps and the fuses are, and so never 0b00. -/
def Obligations.ModeReads : Prop := ∀ s : State,
  (s.power.mode = .native → (s.readWord 8).extractLsb' 0 2 = 0b01#2) ∧ (s.power.mode = .hb8 → (s.readWord 8).extractLsb' 0 2 = 0b10#2) ∧
  (s.power.mode = .factory → (s.readWord 8).extractLsb' 0 2 = 0b11#2) ∧ (s.readWord 8).extractLsb' 0 2 ≠ 0b00#2
end

