-- ==== Sys2Proof/Laws/Parts.lean ====
section
/-!
SUPPORT. Laws/Parts.lean: how frames compose: what leaves all but a list of parts unchanged, step by step.
-/

set_option linter.all false

namespace Sys2Proof.Machine

open Sys2Proof.Safety

/-- A list of parts lies within another. -/
def Within (a b : List Part) : Prop := ∀ p, p ∈ a → p ∈ b
theorem Within.of {a b c : List Part} (h : a.all (fun p => b.contains p) = true) (hb : Within b c) : Within a c := fun p hp => by
  have := List.all_eq_true.1 h p hp
  exact hb p (by simpa using this)
theorem Within.mem {b c : List Part} {p : Part} (h : b.contains p = true) (hb : Within b c) : p ∈ c := hb p (by simpa using h)
theorem Within.refl (a : List Part) : Within a a := fun _ h => h
theorem Within.lit {a b : List Part} (h : a.all (fun p => b.contains p) = true) : Within a b := Within.of h (Within.refl b)
theorem Only.refl (m : List Part) (s : State) : Only m s s := fun p _ => by cases p <;> rfl
theorem Only.trans {m : List Part} {a b c : State} (h : Only m a b) (k : Only m b c) : Only m a c := fun p hp => by
  have h1 := h p hp
  have k1 := k p hp
  cases p <;> exact k1.trans h1
theorem Only.wider {m n : List Part} {a b : State} (h : Only m a b) (w : Within m n) : Only n a b := fun p hp => h p fun hm => hp (w p hm)
theorem Only.foldl {α : Type} {M : List Part} {s0 : State} {g : State → α → State} (hg : ∀ s x, Only M s0 s → Only M s0 (g s x)) :
  ∀ {l : List α} {s : State}, Only M s0 s → Only M s0 (l.foldl g s)
  | [], _, h => h
  | _ :: t, _, h => Only.foldl hg (l := t) (hg _ _ h)
structure Written (M : List Part) (s0 t : State) : Prop where
  only : Only M s0 t
theorem Only.written {M : List Part} {s0 : State} {xnow xfuses xflash xpower xhost xjournal xstore xcodec xrender xlines xpos xheads xloop xring xaxes xaxisCycle xdmc xflt xevt xcal xhb xout xfree xpending} :
    Only M s0 (State.mk xnow xfuses xflash xpower xhost xjournal xstore xcodec xrender xlines xpos xheads xloop xring xaxes xaxisCycle xdmc xflt xevt xcal xhb xout xfree xpending) = Written M s0 (State.mk xnow xfuses xflash xpower xhost xjournal xstore xcodec xrender xlines xpos xheads xloop xring xaxes xaxisCycle xdmc xflt xevt xcal xhb xout xfree xpending) := propext ⟨fun h => ⟨h⟩, fun h => h.1⟩
theorem Written.mk' {M : List Part} {s0 s : State} {xnow xfuses xflash xpower xhost xjournal xstore xcodec xrender xlines xpos xheads xloop xring xaxes xaxisCycle xdmc xflt xevt xcal xhb xout xfree xpending}
    (h : Only M s0 s)
    (hfuses : xfuses = s.fuses ∨ Part.fuses ∈ M)
    (hnow : xnow = s.now ∨ Part.now ∈ M)
    (hflash : xflash = s.flash ∨ Part.flash ∈ M)
    (hpower : xpower = s.power ∨ Part.power ∈ M)
    (hhost : xhost = s.host ∨ Part.host ∈ M)
    (hjournal : xjournal = s.journal ∨ Part.journal ∈ M)
    (hstore : xstore = s.store ∨ Part.store ∈ M)
    (hcodec : xcodec = s.codec ∨ Part.codec ∈ M)
    (hrender : xrender = s.render ∨ Part.render ∈ M)
    (hlines : xlines = s.lines ∨ Part.lines ∈ M)
    (hpos : xpos = s.pos ∨ Part.pos ∈ M)
    (hheads : xheads = s.heads ∨ Part.heads ∈ M)
    (hloop : xloop = s.loop ∨ Part.loop ∈ M)
    (hring : xring = s.ring ∨ Part.ring ∈ M)
    (haxes : xaxes = s.axes ∨ Part.axes ∈ M)
    (haxisCycle : xaxisCycle = s.axisCycle ∨ Part.axisCycle ∈ M)
    (hdmc : xdmc = s.dmc ∨ Part.dmc ∈ M)
    (hflt : xflt = s.flt ∨ Part.flt ∈ M)
    (hevt : xevt = s.evt ∨ Part.evt ∈ M)
    (hcal : xcal = s.cal ∨ Part.cal ∈ M)
    (hhb : xhb = s.hb ∨ Part.hb ∈ M)
    (hout : xout = s.out ∨ Part.out ∈ M)
    (hfree : xfree = s.free ∨ Part.free ∈ M)
    (hpending : xpending = s.pending ∨ Part.pending ∈ M)
    : Written M s0 (State.mk xnow xfuses xflash xpower xhost xjournal xstore xcodec xrender xlines xpos xheads xloop xring xaxes xaxisCycle xdmc xflt xevt xcal xhb xout xfree xpending) := ⟨fun p hp => by
  have h1 := h p hp
  cases p
  · exact (hnow.resolve_right hp).trans h1
  · exact (hfuses.resolve_right hp).trans h1
  · exact (hflash.resolve_right hp).trans h1
  · exact (hpower.resolve_right hp).trans h1
  · exact (hhost.resolve_right hp).trans h1
  · exact (hjournal.resolve_right hp).trans h1
  · exact (hstore.resolve_right hp).trans h1
  · exact (hcodec.resolve_right hp).trans h1
  · exact (hrender.resolve_right hp).trans h1
  · exact (hlines.resolve_right hp).trans h1
  · exact (hpos.resolve_right hp).trans h1
  · exact (hheads.resolve_right hp).trans h1
  · exact (hloop.resolve_right hp).trans h1
  · exact (hring.resolve_right hp).trans h1
  · exact (haxes.resolve_right hp).trans h1
  · exact (haxisCycle.resolve_right hp).trans h1
  · exact (hdmc.resolve_right hp).trans h1
  · exact (hflt.resolve_right hp).trans h1
  · exact (hevt.resolve_right hp).trans h1
  · exact (hcal.resolve_right hp).trans h1
  · exact (hhb.resolve_right hp).trans h1
  · exact (hout.resolve_right hp).trans h1
  · exact (hfree.resolve_right hp).trans h1
  · exact (hpending.resolve_right hp).trans h1⟩
/-- What holds of the next state. -/
def Next (P : State → Prop) : Host.Outcome State Fault Refusal → Prop
  | .next t => P t
  | _ => True
theorem Next.mk_ {P : State → Prop} {t : State} (h : P t) : Next P (.next t) := h

end Sys2Proof.Machine
end

