-- ==== Sys2Proof/Laws/Frames.lean ====
section
/-!
SUPPORT. Laws/Frames.lean: for each shared operation, the parts of the state that it may change: `X_only` says that the operation `X` leaves
every part outside its list as it was, so that a chain of operations leaves every part outside all their lists.
-/

set_option linter.all false

namespace Sys2Proof.Machine

open Sys2Proof.Safety

theorem State.tick_only {M : List Part} {s0 : State} (a0) (a1) (hM : Within [.now] M) (h0 : Only M s0 a0) : Only M s0 ((@State.tick a0 a1)) := by
  unfold State.tick
  try dsimp only
  repeat' first
    | with_reducible assumption
    | exact Within.of rfl hM
    | (with_reducible apply Only.foldl; intro _ _ _)
    | (simp only [Only.written]; apply Written.mk' <;> (first | exact .inr (Within.mem rfl hM) | exact .inl rfl | skip))
    | (with_reducible intro _)
    | split

theorem State.freeBit_only {M : List Part} {s0 : State} (a0) (hM : Within [.free] M) (h0 : Only M s0 a0) : Only M s0 ((@State.freeBit a0).2) := by
  unfold State.freeBit
  try dsimp only
  repeat' first
    | with_reducible assumption
    | exact Within.of rfl hM
    | (with_reducible apply Only.foldl; intro _ _ _)
    | (simp only [Only.written]; apply Written.mk' <;> (first | exact .inr (Within.mem rfl hM) | exact .inl rfl | skip))
    | (with_reducible intro _)
    | split

theorem State.freeByte_only {M : List Part} {s0 : State} (a0) (hM : Within [.free] M) (h0 : Only M s0 a0) : Only M s0 ((@State.freeByte a0).2) := by
  unfold State.freeByte
  try dsimp only
  repeat' first
    | with_reducible assumption
    | exact Within.of rfl hM
    | (with_reducible apply Only.foldl; intro _ _ _)
    | (simp only [Only.written]; apply Written.mk' <;> (first | exact .inr (Within.mem rfl hM) | exact .inl rfl | skip))
    | (with_reducible intro _)
    | split

theorem State.freeBytes_only {M : List Part} {s0 : State} (hM : Within [.free] M) : ∀ (n : Nat) (s : State), Only M s0 s → Only M s0 (State.freeBytes n s).2
  | 0, _, h => h
  | n + 1, s, h => by
    unfold State.freeBytes
    refine State.freeBytes_only hM n _ ?_
    (simp only [Only.written]; refine Written.mk' ?_ (by first | exact .inl rfl | exact .inr (Within.mem rfl hM)) (by first | exact .inl rfl | exact .inr (Within.mem rfl hM)) (by first | exact .inl rfl | exact .inr (Within.mem rfl hM)) (by first | exact .inl rfl | exact .inr (Within.mem rfl hM)) (by first | exact .inl rfl | exact .inr (Within.mem rfl hM)) (by first | exact .inl rfl | exact .inr (Within.mem rfl hM)) (by first | exact .inl rfl | exact .inr (Within.mem rfl hM)) (by first | exact .inl rfl | exact .inr (Within.mem rfl hM)) (by first | exact .inl rfl | exact .inr (Within.mem rfl hM)) (by first | exact .inl rfl | exact .inr (Within.mem rfl hM)) (by first | exact .inl rfl | exact .inr (Within.mem rfl hM)) (by first | exact .inl rfl | exact .inr (Within.mem rfl hM)) (by first | exact .inl rfl | exact .inr (Within.mem rfl hM)) (by first | exact .inl rfl | exact .inr (Within.mem rfl hM)) (by first | exact .inl rfl | exact .inr (Within.mem rfl hM)) (by first | exact .inl rfl | exact .inr (Within.mem rfl hM)) (by first | exact .inl rfl | exact .inr (Within.mem rfl hM)) (by first | exact .inl rfl | exact .inr (Within.mem rfl hM)) (by first | exact .inl rfl | exact .inr (Within.mem rfl hM)) (by first | exact .inl rfl | exact .inr (Within.mem rfl hM)) (by first | exact .inl rfl | exact .inr (Within.mem rfl hM)) (by first | exact .inl rfl | exact .inr (Within.mem rfl hM)) (by first | exact .inl rfl | exact .inr (Within.mem rfl hM)) (by first | exact .inl rfl | exact .inr (Within.mem rfl hM)); exact h)

theorem State.freeNat_only {M : List Part} {s0 : State} (a0) (hM : Within [.free] M) (h0 : Only M s0 a0) : Only M s0 ((@State.freeNat a0).2) := by
  unfold State.freeNat
  try dsimp only
  repeat' first
    | with_reducible assumption
    | exact Within.of rfl hM
    | (with_reducible apply Only.foldl; intro _ _ _)
    | (simp only [Only.written]; apply Written.mk' <;> (first | exact .inr (Within.mem rfl hM) | exact .inl rfl | skip))
    | (with_reducible intro _)
    | split

theorem State.emit_only {M : List Part} {s0 : State} (a0) (a1) (hM : Within [.out] M) (h0 : Only M s0 a0) : Only M s0 ((@State.emit a0 a1)) := by
  unfold State.emit
  try dsimp only
  repeat' first
    | with_reducible assumption
    | exact Within.of rfl hM
    | (with_reducible apply Only.foldl; intro _ _ _)
    | (simp only [Only.written]; apply Written.mk' <;> (first | exact .inr (Within.mem rfl hM) | exact .inl rfl | skip))
    | (with_reducible intro _)
    | split

theorem State.interrupt_only {M : List Part} {s0 : State} (a0) (a1) (hM : Within [.host, .out] M) (h0 : Only M s0 a0) : Only M s0 ((@State.interrupt a0 a1)) := by
  unfold State.interrupt
  try dsimp only
  repeat' first
    | with_reducible assumption
    | exact Within.of rfl hM
    | with_reducible apply State.emit_only
    | (with_reducible apply Only.foldl; intro _ _ _)
    | (simp only [Only.written]; apply Written.mk' <;> (first | exact .inr (Within.mem rfl hM) | exact .inl rfl | skip))
    | (with_reducible intro _)
    | split

theorem State.sendPending_only {M : List Part} {s0 : State} (a0) (hM : Within [.host, .out] M) (h0 : Only M s0 a0) : Only M s0 ((@State.sendPending a0)) := by
  unfold State.sendPending
  try dsimp only
  repeat' first
    | with_reducible assumption
    | exact Within.of rfl hM
    | with_reducible apply State.emit_only
    | (with_reducible apply Only.foldl; intro _ _ _)
    | (simp only [Only.written]; apply Written.mk' <;> (first | exact .inr (Within.mem rfl hM) | exact .inl rfl | skip))
    | (with_reducible intro _)
    | split

theorem State.overflowed_only {M : List Part} {s0 : State} (a0) (hM : Within [.host, .evt, .out] M) (h0 : Only M s0 a0) : Only M s0 ((@State.overflowed a0)) := by
  unfold State.overflowed
  try dsimp only
  repeat' first
    | with_reducible assumption
    | exact Within.of rfl hM
    | with_reducible apply State.interrupt_only
    | (with_reducible apply Only.foldl; intro _ _ _)
    | (simp only [Only.written]; apply Written.mk' <;> (first | exact .inr (Within.mem rfl hM) | exact .inl rfl | skip))
    | (with_reducible intro _)
    | split

theorem State.bufferRecord_only {M : List Part} {s0 : State} (a0) (a1) (hM : Within [.host, .evt, .out] M) (h0 : Only M s0 a0) : Only M s0 ((@State.bufferRecord a0 a1)) := by
  unfold State.bufferRecord
  try dsimp only
  repeat' first
    | with_reducible assumption
    | exact Within.of rfl hM
    | with_reducible apply State.interrupt_only
    | (with_reducible apply Only.foldl; intro _ _ _)
    | (simp only [Only.written]; apply Written.mk' <;> (first | exact .inr (Within.mem rfl hM) | exact .inl rfl | skip))
    | (with_reducible intro _)
    | split

theorem State.noteAt_only {M : List Part} {s0 : State} (a0) (a1) (a2) (hM : Within [.host, .evt, .out] M) (h0 : Only M s0 a0) : Only M s0 ((@State.noteAt a0 a1 a2)) := by
  unfold State.noteAt
  try dsimp only
  repeat' first
    | with_reducible assumption
    | exact Within.of rfl hM
    | with_reducible apply State.interrupt_only
    | with_reducible apply State.overflowed_only
    | with_reducible apply State.bufferRecord_only
    | (with_reducible apply Only.foldl; intro _ _ _)
    | (simp only [Only.written]; apply Written.mk' <;> (first | exact .inr (Within.mem rfl hM) | exact .inl rfl | skip))
    | (with_reducible intro _)
    | split

theorem State.note_only {M : List Part} {s0 : State} (a0) (a1) (hM : Within [.host, .evt, .out] M) (h0 : Only M s0 a0) : Only M s0 ((@State.note a0 a1)) := by
  unfold State.note
  try dsimp only
  repeat' first
    | with_reducible assumption
    | exact Within.of rfl hM
    | with_reducible apply State.noteAt_only
    | (with_reducible apply Only.foldl; intro _ _ _)
    | (with_reducible intro _)
    | split

theorem State.info_only {M : List Part} {s0 : State} (a0) (a1) (a2) (a3) (a4) (a5) (hM : Within [.host, .evt, .out] M) (h0 : Only M s0 a0) : Only M s0 ((@State.info a0 a1 a2 a3 a4 a5)) := by
  unfold State.info
  try dsimp only
  repeat' first
    | with_reducible assumption
    | exact Within.of rfl hM
    | with_reducible apply State.note_only
    | (with_reducible apply Only.foldl; intro _ _ _)
    | (with_reducible intro _)
    | split

theorem State.episodeOpen_only {M : List Part} {s0 : State} (a0) (a1) (a2) (hM : Within [.host, .evt, .out] M) (h0 : Only M s0 a0) : Only M s0 ((@State.episodeOpen a0 a1 a2)) := by
  unfold State.episodeOpen
  try dsimp only
  repeat' first
    | with_reducible assumption
    | exact Within.of rfl hM
    | with_reducible apply State.info_only
    | (with_reducible apply Only.foldl; intro _ _ _)
    | (simp only [Only.written]; apply Written.mk' <;> (first | exact .inr (Within.mem rfl hM) | exact .inl rfl | skip))
    | (with_reducible intro _)
    | split

theorem State.episodeClose_only {M : List Part} {s0 : State} (a0) (a1) (a2) (hM : Within [.host, .evt, .out] M) (h0 : Only M s0 a0) : Only M s0 ((@State.episodeClose a0 a1 a2)) := by
  unfold State.episodeClose
  try dsimp only
  repeat' first
    | with_reducible assumption
    | exact Within.of rfl hM
    | with_reducible apply State.info_only
    | (with_reducible apply Only.foldl; intro _ _ _)
    | (simp only [Only.written]; apply Written.mk' <;> (first | exact .inr (Within.mem rfl hM) | exact .inl rfl | skip))
    | (with_reducible intro _)
    | split

theorem State.writeCompletion_only {M : List Part} {s0 : State} (a0) (a1) (a2) (hM : Within [.host, .out] M) (h0 : Only M s0 a0) : Only M s0 ((@State.writeCompletion a0 a1 a2)) := by
  unfold State.writeCompletion
  try dsimp only
  repeat' first
    | with_reducible assumption
    | exact Within.of rfl hM
    | with_reducible apply State.emit_only
    | with_reducible apply State.interrupt_only
    | (with_reducible apply Only.foldl; intro _ _ _)
    | (simp only [Only.written]; apply Written.mk' <;> (first | exact .inr (Within.mem rfl hM) | exact .inl rfl | skip))
    | (with_reducible intro _)
    | split

theorem State.holdCompletion_only {M : List Part} {s0 : State} (a0) (a1) (a2) (hM : Within [.host] M) (h0 : Only M s0 a0) : Only M s0 ((@State.holdCompletion a0 a1 a2)) := by
  unfold State.holdCompletion
  try dsimp only
  repeat' first
    | with_reducible assumption
    | exact Within.of rfl hM
    | (with_reducible apply Only.foldl; intro _ _ _)
    | (simp only [Only.written]; apply Written.mk' <;> (first | exact .inr (Within.mem rfl hM) | exact .inl rfl | skip))
    | (with_reducible intro _)
    | split

theorem State.post_only {M : List Part} {s0 : State} (a0) (a1) (a2) (hM : Within [.host, .out] M) (h0 : Only M s0 a0) : Only M s0 ((@State.post a0 a1 a2)) := by
  unfold State.post
  try dsimp only
  repeat' first
    | with_reducible assumption
    | exact Within.of rfl hM
    | with_reducible apply State.writeCompletion_only
    | with_reducible apply State.holdCompletion_only
    | (with_reducible apply Only.foldl; intro _ _ _)
    | (with_reducible intro _)
    | split

theorem State.postHeld_only {M : List Part} {s0 : State} (hM : Within [.host, .out] M) : ∀ (n : Nat) (s : State) (i : Nat), Only M s0 s → Only M s0 (State.postHeld n s i)
  | 0, _, _, h => h
  | n + 1, s, i, h => by
    unfold State.postHeld
    dsimp only
    split
    · exact h
    · split
      · exact h
      · refine State.postHeld_only hM n _ i (State.writeCompletion_only _ _ _ (Within.of rfl hM) ?_)
        (simp only [Only.written]; refine Written.mk' ?_ (by first | exact .inl rfl | exact .inr (Within.mem rfl hM)) (by first | exact .inl rfl | exact .inr (Within.mem rfl hM)) (by first | exact .inl rfl | exact .inr (Within.mem rfl hM)) (by first | exact .inl rfl | exact .inr (Within.mem rfl hM)) (by first | exact .inl rfl | exact .inr (Within.mem rfl hM)) (by first | exact .inl rfl | exact .inr (Within.mem rfl hM)) (by first | exact .inl rfl | exact .inr (Within.mem rfl hM)) (by first | exact .inl rfl | exact .inr (Within.mem rfl hM)) (by first | exact .inl rfl | exact .inr (Within.mem rfl hM)) (by first | exact .inl rfl | exact .inr (Within.mem rfl hM)) (by first | exact .inl rfl | exact .inr (Within.mem rfl hM)) (by first | exact .inl rfl | exact .inr (Within.mem rfl hM)) (by first | exact .inl rfl | exact .inr (Within.mem rfl hM)) (by first | exact .inl rfl | exact .inr (Within.mem rfl hM)) (by first | exact .inl rfl | exact .inr (Within.mem rfl hM)) (by first | exact .inl rfl | exact .inr (Within.mem rfl hM)) (by first | exact .inl rfl | exact .inr (Within.mem rfl hM)) (by first | exact .inl rfl | exact .inr (Within.mem rfl hM)) (by first | exact .inl rfl | exact .inr (Within.mem rfl hM)) (by first | exact .inl rfl | exact .inr (Within.mem rfl hM)) (by first | exact .inl rfl | exact .inr (Within.mem rfl hM)) (by first | exact .inl rfl | exact .inr (Within.mem rfl hM)) (by first | exact .inl rfl | exact .inr (Within.mem rfl hM)) (by first | exact .inl rfl | exact .inr (Within.mem rfl hM)); exact h)

theorem State.postAllHeld_only {M : List Part} {s0 : State} (a0) (hM : Within [.host, .out] M) (h0 : Only M s0 a0) : Only M s0 ((@State.postAllHeld a0)) := by
  unfold State.postAllHeld
  try dsimp only
  repeat' first
    | with_reducible assumption
    | exact Within.of rfl hM
    | with_reducible apply State.postHeld_only
    | (with_reducible apply Only.foldl; intro _ _ _)
    | (with_reducible intro _)
    | split

theorem State.mapEntry_only {M : List Part} {s0 : State} (a0) (a1) (a2) (hM : Within [.journal] M) (h0 : Only M s0 a0) : Only M s0 ((@State.mapEntry a0 a1 a2)) := by
  unfold State.mapEntry
  try dsimp only
  repeat' first
    | with_reducible assumption
    | exact Within.of rfl hM
    | (with_reducible apply Only.foldl; intro _ _ _)
    | (simp only [Only.written]; apply Written.mk' <;> (first | exact .inr (Within.mem rfl hM) | exact .inl rfl | skip))
    | (with_reducible intro _)
    | split

theorem State.writeEntry_only {M : List Part} {s0 : State} (a0) (a1) (hM : Within [.journal] M) (h0 : Only M s0 a0) : Only M s0 ((@State.writeEntry a0 a1)) := by
  unfold State.writeEntry
  try dsimp only
  repeat' first
    | with_reducible assumption
    | exact Within.of rfl hM
    | (with_reducible apply Only.foldl; intro _ _ _)
    | (simp only [Only.written]; apply Written.mk' <;> (first | exact .inr (Within.mem rfl hM) | exact .inl rfl | skip))
    | (with_reducible intro _)
    | split

theorem State.setJState_only {M : List Part} {s0 : State} (a0) (a1) (a2) (hM : Within [.journal] M) (h0 : Only M s0 a0) : Only M s0 ((@State.setJState a0 a1 a2)) := by
  unfold State.setJState
  try dsimp only
  repeat' first
    | with_reducible assumption
    | exact Within.of rfl hM
    | with_reducible apply State.mapEntry_only
    | with_reducible apply State.writeEntry_only
    | (with_reducible apply Only.foldl; intro _ _ _)
    | (with_reducible intro _)
    | split

theorem State.settleEntry_only {M : List Part} {s0 : State} (a0) (a1) (a2) (a3) (a4) (a5) (a6) (a7) (hM : Within [.host, .journal, .out] M) (h0 : Only M s0 a0) : Only M s0 ((@State.settleEntry a0 a1 a2 a3 a4 a5 a6 a7)) := by
  unfold State.settleEntry
  try dsimp only
  repeat' first
    | with_reducible assumption
    | exact Within.of rfl hM
    | with_reducible apply State.post_only
    | with_reducible apply State.mapEntry_only
    | with_reducible apply State.setJState_only
    | (with_reducible apply Only.foldl; intro _ _ _)
    | (with_reducible intro _)
    | split

theorem State.settleFences_only {M : List Part} {s0 : State} (hM : Within [.host, .journal, .out] M) : ∀ (n : Nat) (s : State), Only M s0 s → Only M s0 (State.settleFences n s)
  | 0, _, h => h
  | n + 1, s, h => by
    unfold State.settleFences
    split
    · exact h
    · refine State.settleFences_only hM n _ (State.settleEntry_only _ _ _ _ _ _ _ _ (Within.of rfl hM) ?_)
      (simp only [Only.written]; refine Written.mk' ?_ (by first | exact .inl rfl | exact .inr (Within.mem rfl hM)) (by first | exact .inl rfl | exact .inr (Within.mem rfl hM)) (by first | exact .inl rfl | exact .inr (Within.mem rfl hM)) (by first | exact .inl rfl | exact .inr (Within.mem rfl hM)) (by first | exact .inl rfl | exact .inr (Within.mem rfl hM)) (by first | exact .inl rfl | exact .inr (Within.mem rfl hM)) (by first | exact .inl rfl | exact .inr (Within.mem rfl hM)) (by first | exact .inl rfl | exact .inr (Within.mem rfl hM)) (by first | exact .inl rfl | exact .inr (Within.mem rfl hM)) (by first | exact .inl rfl | exact .inr (Within.mem rfl hM)) (by first | exact .inl rfl | exact .inr (Within.mem rfl hM)) (by first | exact .inl rfl | exact .inr (Within.mem rfl hM)) (by first | exact .inl rfl | exact .inr (Within.mem rfl hM)) (by first | exact .inl rfl | exact .inr (Within.mem rfl hM)) (by first | exact .inl rfl | exact .inr (Within.mem rfl hM)) (by first | exact .inl rfl | exact .inr (Within.mem rfl hM)) (by first | exact .inl rfl | exact .inr (Within.mem rfl hM)) (by first | exact .inl rfl | exact .inr (Within.mem rfl hM)) (by first | exact .inl rfl | exact .inr (Within.mem rfl hM)) (by first | exact .inl rfl | exact .inr (Within.mem rfl hM)) (by first | exact .inl rfl | exact .inr (Within.mem rfl hM)) (by first | exact .inl rfl | exact .inr (Within.mem rfl hM)) (by first | exact .inl rfl | exact .inr (Within.mem rfl hM)) (by first | exact .inl rfl | exact .inr (Within.mem rfl hM)); exact h)

theorem State.fences_only {M : List Part} {s0 : State} (a0) (hM : Within [.host, .journal, .out] M) (h0 : Only M s0 a0) : Only M s0 ((@State.fences a0)) := by
  unfold State.fences
  try dsimp only
  repeat' first
    | with_reducible assumption
    | exact Within.of rfl hM
    | with_reducible apply State.settleFences_only
    | (with_reducible apply Only.foldl; intro _ _ _)
    | (with_reducible intro _)
    | split

theorem State.finish_only {M : List Part} {s0 : State} (a0) (a1) (a2) (a3) (a4) (a5) (a6) (a7) (hM : Within [.host, .journal, .out] M) (h0 : Only M s0 a0) : Only M s0 ((@State.finish a0 a1 a2 a3 a4 a5 a6 a7)) := by
  unfold State.finish
  try dsimp only
  repeat' first
    | with_reducible assumption
    | exact Within.of rfl hM
    | with_reducible apply State.settleEntry_only
    | with_reducible apply State.fences_only
    | (with_reducible apply Only.foldl; intro _ _ _)
    | (with_reducible intro _)
    | split

theorem State.setRunning_only {M : List Part} {s0 : State} (a0) (a1) (hM : Within [.host, .journal, .out] M) (h0 : Only M s0 a0) : Only M s0 ((@State.setRunning a0 a1)) := by
  unfold State.setRunning
  try dsimp only
  repeat' first
    | with_reducible assumption
    | exact Within.of rfl hM
    | with_reducible apply State.setJState_only
    | with_reducible apply State.fences_only
    | (with_reducible apply Only.foldl; intro _ _ _)
    | (with_reducible intro _)
    | split

theorem State.start_only {M : List Part} {s0 : State} (a0) (a1) (a2) (hM : Within [.host, .journal, .out] M) (h0 : Only M s0 a0) : Only M s0 ((@State.start a0 a1 a2)) := by
  unfold State.start
  try dsimp only
  repeat' first
    | with_reducible assumption
    | exact Within.of rfl hM
    | with_reducible apply State.mapEntry_only
    | with_reducible apply State.setRunning_only
    | (with_reducible apply Only.foldl; intro _ _ _)
    | (with_reducible intro _)
    | split

theorem State.updChan_only {M : List Part} {s0 : State} (a0) (a1) (a2) (hM : Within [.pos] M) (h0 : Only M s0 a0) : Only M s0 ((@State.updChan a0 a1 a2)) := by
  unfold State.updChan
  try dsimp only
  repeat' first
    | with_reducible assumption
    | exact Within.of rfl hM
    | (with_reducible apply Only.foldl; intro _ _ _)
    | (simp only [Only.written]; apply Written.mk' <;> (first | exact .inr (Within.mem rfl hM) | exact .inl rfl | skip))
    | (with_reducible intro _)
    | split

theorem State.advance_only {M : List Part} {s0 : State} (a0) (hM : Within [.pos] M) (h0 : Only M s0 a0) : Only M s0 ((@State.advance a0)) := by
  unfold State.advance
  try dsimp only
  repeat' first
    | with_reducible assumption
    | exact Within.of rfl hM
    | (with_reducible apply Only.foldl; intro _ _ _)
    | (simp only [Only.written]; apply Written.mk' <;> (first | exact .inr (Within.mem rfl hM) | exact .inl rfl | skip))
    | (with_reducible intro _)
    | split

theorem State.refuse_only {M : List Part} {s0 : State} (a0) (a1) (a2) (a3) (hM : Within [.host, .journal, .evt, .out] M) (h0 : Only M s0 a0) : Only M s0 ((@State.refuse a0 a1 a2 a3)) := by
  unfold State.refuse
  try dsimp only
  repeat' first
    | with_reducible assumption
    | exact Within.of rfl hM
    | with_reducible apply State.info_only
    | with_reducible apply State.finish_only
    | (with_reducible apply Only.foldl; intro _ _ _)
    | (with_reducible intro _)
    | split

theorem fr_State_command_tick {M : List Part} (a0) (a1) (a2) (a3) (a4) (a5) (a6) (a7) (hM : Within [.host, .journal, .evt, .out] M) (h7 : ∀ s y0, Only M (a0.tick a1) s → Only M (a0.tick a1) (a7 s y0)) : Only M (a0.tick a1) ((@State.command a0 a1 a2 a3 a4 a5 a6 a7)) := by
  unfold State.command
  dsimp only
  repeat' first
    | exact Only.refl _ _
    | with_reducible apply h7
    | exact Within.of rfl hM
    | with_reducible apply State.mapEntry_only
    | with_reducible apply State.refuse_only
    | with_reducible apply State.start_only
    | split

theorem State.command_only {M : List Part} {s0 : State} (a0) (a1) (a2) (a3) (a4) (a5) (a6) (a7) (hM : Within [.now, .host, .journal, .evt, .out] M) (h0 : Only M s0 a0) (h7 : ∀ s y0, Only M s0 s → Only M s0 (a7 s y0)) : Only M s0 ((@State.command a0 a1 a2 a3 a4 a5 a6 a7)) := by
  unfold State.command
  dsimp only
  repeat' first
    | with_reducible assumption
    | with_reducible apply h7
    | exact Within.of rfl hM
    | with_reducible apply State.tick_only
    | with_reducible apply State.mapEntry_only
    | with_reducible apply State.refuse_only
    | with_reducible apply State.start_only
    | split

theorem State.commandOk_only {M : List Part} {s0 : State} (a0) (a1) (a2) (a3) (a4) (a5) (a6) (a7) (a8) (hM : Within [.now, .host, .journal, .evt, .out] M) (h0 : Only M s0 a0) (h6 : ∀ s y0, Only M s0 s → Only M s0 ((a6 s y0))) : Only M s0 ((@State.commandOk a0 a1 a2 a3 a4 a5 a6 a7 a8)) := by
  unfold State.commandOk
  try dsimp only
  repeat' first
    | with_reducible assumption
    | exact Within.of rfl hM
    | with_reducible apply h6
    | with_reducible apply State.finish_only
    | with_reducible apply State.command_only
    | (with_reducible apply Only.foldl; intro _ _ _)
    | (with_reducible intro _)
    | split

theorem fr_State_commandOk_tick {M : List Part} (a0) (a1) (a2) (a3) (a4) (a5) (a6) (a7) (a8) (hM : Within [.host, .journal, .evt, .out] M) (h6 : ∀ s y0, Only M (a0.tick a1) s → Only M (a0.tick a1) (a6 s y0)) : Only M (a0.tick a1) ((@State.commandOk a0 a1 a2 a3 a4 a5 a6 a7 a8)) := by
  unfold State.commandOk
  dsimp only
  repeat' first
    | with_reducible assumption
    | with_reducible apply h6
    | exact Within.of rfl hM
    | with_reducible apply fr_State_command_tick
    | with_reducible apply State.finish_only
    | (with_reducible intro _)

theorem State.updHalyard_only {M : List Part} {s0 : State} (a0) (a1) (a2) (hM : Within [.ring] M) (h0 : Only M s0 a0) : Only M s0 ((@State.updHalyard a0 a1 a2)) := by
  unfold State.updHalyard
  try dsimp only
  repeat' first
    | with_reducible assumption
    | exact Within.of rfl hM
    | (with_reducible apply Only.foldl; intro _ _ _)
    | (simp only [Only.written]; apply Written.mk' <;> (first | exact .inr (Within.mem rfl hM) | exact .inl rfl | skip))
    | (with_reducible intro _)
    | split

theorem State.sendOn_only {M : List Part} {s0 : State} (a0) (a1) (a2) (hM : Within [.out] M) (h0 : Only M s0 a0) : Only M s0 ((@State.sendOn a0 a1 a2)) := by
  unfold State.sendOn
  try dsimp only
  repeat' first
    | with_reducible assumption
    | exact Within.of rfl hM
    | with_reducible apply State.emit_only
    | (with_reducible apply Only.foldl; intro _ _ _)
    | (with_reducible intro _)
    | split

theorem State.sendBoth_only {M : List Part} {s0 : State} (a0) (a1) (hM : Within [.out] M) (h0 : Only M s0 a0) : Only M s0 ((@State.sendBoth a0 a1)) := by
  unfold State.sendBoth
  try dsimp only
  repeat' first
    | with_reducible assumption
    | exact Within.of rfl hM
    | with_reducible apply State.sendOn_only
    | (with_reducible apply Only.foldl; intro _ _ _)
    | (with_reducible intro _)
    | split

theorem State.emitPacket_only {M : List Part} {s0 : State} (a0) (a1) (hM : Within [.out] M) (h0 : Only M s0 a0) : Only M s0 ((@State.emitPacket a0 a1)) := by
  unfold State.emitPacket
  try dsimp only
  repeat' first
    | with_reducible assumption
    | exact Within.of rfl hM
    | with_reducible apply State.sendBoth_only
    | (with_reducible apply Only.foldl; intro _ _ _)
    | (with_reducible intro _)
    | split

theorem State.sendCounted_only {M : List Part} {s0 : State} (a0) (a1) (hM : Within [.ring, .out] M) (h0 : Only M s0 a0) : Only M s0 ((@State.sendCounted a0 a1)) := by
  unfold State.sendCounted
  try dsimp only
  repeat' first
    | with_reducible assumption
    | exact Within.of rfl hM
    | with_reducible apply State.sendBoth_only
    | (with_reducible apply Only.foldl; intro _ _ _)
    | (simp only [Only.written]; apply Written.mk' <;> (first | exact .inr (Within.mem rfl hM) | exact .inl rfl | skip))
    | (with_reducible intro _)
    | split

theorem State.takeSq_only {M : List Part} {s0 : State} (a0) (a1) (a2) (hM : Within [.ring] M) (h0 : Only M s0 a0) : Only M s0 ((@State.takeSq a0 a1 a2).2) := by
  unfold State.takeSq
  try dsimp only
  repeat' first
    | with_reducible assumption
    | exact Within.of rfl hM
    | (with_reducible apply Only.foldl; intro _ _ _)
    | (simp only [Only.written]; apply Written.mk' <;> (first | exact .inr (Within.mem rfl hM) | exact .inl rfl | skip))
    | (with_reducible intro _)
    | split

theorem State.sendNumbered_only {M : List Part} {s0 : State} (a0) (a1) (a2) (a3) (a4) (hM : Within [.ring, .out] M) (h0 : Only M s0 a0) : Only M s0 ((@State.sendNumbered a0 a1 a2 a3 a4)) := by
  unfold State.sendNumbered
  try dsimp only
  repeat' first
    | with_reducible assumption
    | exact Within.of rfl hM
    | with_reducible apply State.emitPacket_only
    | (with_reducible apply Only.foldl; intro _ _ _)
    | (simp only [Only.written]; apply Written.mk' <;> (first | exact .inr (Within.mem rfl hM) | exact .inl rfl | skip))
    | (with_reducible intro _)
    | split

theorem State.ringSend_only {M : List Part} {s0 : State} (a0) (a1) (a2) (hM : Within [.ring, .out] M) (h0 : Only M s0 a0) : Only M s0 ((@State.ringSend a0 a1 a2)) := by
  unfold State.ringSend
  try dsimp only
  repeat' first
    | with_reducible assumption
    | exact Within.of rfl hM
    | with_reducible apply State.takeSq_only
    | with_reducible apply State.sendNumbered_only
    | (with_reducible apply Only.foldl; intro _ _ _)
    | (with_reducible intro _)
    | split

theorem State.tellManager_only {M : List Part} {s0 : State} (a0) (a1) (hM : Within [.ring, .out] M) (h0 : Only M s0 a0) : Only M s0 ((@State.tellManager a0 a1)) := by
  unfold State.tellManager
  try dsimp only
  repeat' first
    | with_reducible assumption
    | exact Within.of rfl hM
    | with_reducible apply State.ringSend_only
    | (with_reducible apply Only.foldl; intro _ _ _)
    | (with_reducible intro _)
    | split

theorem State.acknowledge_only {M : List Part} {s0 : State} (a0) (a1) (a2) (a3) (hM : Within [.ring, .out] M) (h0 : Only M s0 a0) : Only M s0 ((@State.acknowledge a0 a1 a2 a3)) := by
  unfold State.acknowledge
  try dsimp only
  repeat' first
    | with_reducible assumption
    | exact Within.of rfl hM
    | with_reducible apply State.sendCounted_only
    | (with_reducible apply Only.foldl; intro _ _ _)
    | (with_reducible intro _)
    | split

theorem numberPackets_only {M : List Part} {s0 : State} (hM : Within [.ring] M) : ∀ (s : State) (l : List (Nat × Payload)), Only M s0 s → Only M s0 (numberPackets s l).2
  | _, [], h => h
  | s, (d, _) :: t, h => by
    unfold numberPackets
    exact numberPackets_only hM _ t (State.takeSq_only s 0xFD d (Within.of rfl hM) h)

theorem State.runTransaction_only {M : List Part} {s0 : State} (a0) (a1) (hM : Within [.host, .journal, .ring, .out] M) (h0 : Only M s0 a0) : Only M s0 ((@State.runTransaction a0 a1)) := by
  unfold State.runTransaction
  try dsimp only
  repeat' first
    | with_reducible assumption
    | exact Within.of rfl hM
    | with_reducible apply State.finish_only
    | with_reducible apply State.sendNumbered_only
    | with_reducible apply State.acknowledge_only
    | (with_reducible apply Only.foldl; intro _ _ _)
    | (with_reducible intro _)
    | split

theorem State.sendMirror_only {M : List Part} {s0 : State} (a0) (a1) (a2) (a3) (a4) (a5) (hM : Within [.ring, .out] M) (h0 : Only M s0 a0) : Only M s0 ((@State.sendMirror a0 a1 a2 a3 a4 a5).2) := by
  unfold State.sendMirror
  try dsimp only
  repeat' first
    | with_reducible assumption
    | exact Within.of rfl hM
    | with_reducible apply State.takeSq_only
    | with_reducible apply State.sendNumbered_only
    | (with_reducible apply Only.foldl; intro _ _ _)
    | (with_reducible intro _)
    | split

theorem State.transact_only {M : List Part} {s0 : State} (a0) (a1) (a2) (a3) (a4) (hM : Within [.host, .journal, .ring, .out] M) (h0 : Only M s0 a0) : Only M s0 ((@State.transact a0 a1 a2 a3 a4)) := by
  unfold State.transact
  try dsimp only
  repeat' first
    | with_reducible assumption
    | exact Within.of rfl hM
    | with_reducible apply numberPackets_only
    | with_reducible apply State.runTransaction_only
    | with_reducible apply State.sendMirror_only
    | (with_reducible apply Only.foldl; intro _ _ _)
    | (simp only [Only.written]; apply Written.mk' <;> (first | exact .inr (Within.mem rfl hM) | exact .inl rfl | skip))
    | (with_reducible intro _)
    | split

theorem State.postRoute_only {M : List Part} {s0 : State} (a0) (a1) (a2) (a3) (hM : Within [.host, .out] M) (h0 : Only M s0 a0) : Only M s0 ((@State.postRoute a0 a1 a2 a3)) := by
  unfold State.postRoute
  try dsimp only
  repeat' first
    | with_reducible assumption
    | exact Within.of rfl hM
    | with_reducible apply State.post_only
    | (with_reducible apply Only.foldl; intro _ _ _)
    | (with_reducible intro _)
    | split

theorem State.postV_only {M : List Part} {s0 : State} (a0) (hM : Within [.host, .ring, .out] M) (h0 : Only M s0 a0) : Only M s0 ((@State.postV a0)) := by
  unfold State.postV
  try dsimp only
  repeat' first
    | with_reducible assumption
    | exact Within.of rfl hM
    | with_reducible apply State.postRoute_only
    | (with_reducible apply Only.foldl; intro _ _ _)
    | (simp only [Only.written]; apply Written.mk' <;> (first | exact .inr (Within.mem rfl hM) | exact .inl rfl | skip))
    | (with_reducible intro _)
    | split

theorem State.recordLimit_only {M : List Part} {s0 : State} (a0) (a1) (a2) (a3) (hM : Within [.host, .ring, .out] M) (h0 : Only M s0 a0) : Only M s0 ((@State.recordLimit a0 a1 a2 a3)) := by
  unfold State.recordLimit
  try dsimp only
  repeat' first
    | with_reducible assumption
    | exact Within.of rfl hM
    | with_reducible apply State.postV_only
    | (with_reducible apply Only.foldl; intro _ _ _)
    | (simp only [Only.written]; apply Written.mk' <;> (first | exact .inr (Within.mem rfl hM) | exact .inl rfl | skip))
    | (with_reducible intro _)
    | split

theorem State.publish_only {M : List Part} {s0 : State} (a0) (a1) (a2) (hM : Within [.host, .journal, .heads, .ring, .out] M) (h0 : Only M s0 a0) : Only M s0 ((@State.publish a0 a1 a2)) := by
  unfold State.publish
  try dsimp only
  repeat' first
    | with_reducible assumption
    | exact Within.of rfl hM
    | with_reducible apply State.ringSend_only
    | with_reducible apply State.transact_only
    | with_reducible apply State.postRoute_only
    | with_reducible apply State.recordLimit_only
    | (with_reducible apply Only.foldl; intro _ _ _)
    | (simp only [Only.written]; apply Written.mk' <;> (first | exact .inr (Within.mem rfl hM) | exact .inl rfl | skip))
    | (with_reducible intro _)
    | split

theorem State.mapPage_only {M : List Part} {s0 : State} (a0) (a1) (a2) (hM : Within [.store] M) (h0 : Only M s0 a0) : Only M s0 ((@State.mapPage a0 a1 a2)) := by
  unfold State.mapPage
  try dsimp only
  repeat' first
    | with_reducible assumption
    | exact Within.of rfl hM
    | (with_reducible apply Only.foldl; intro _ _ _)
    | (simp only [Only.written]; apply Written.mk' <;> (first | exact .inr (Within.mem rfl hM) | exact .inl rfl | skip))
    | (with_reducible intro _)
    | split

theorem State.mapJob_only {M : List Part} {s0 : State} (a0) (a1) (a2) (hM : Within [.store] M) (h0 : Only M s0 a0) : Only M s0 ((@State.mapJob a0 a1 a2)) := by
  unfold State.mapJob
  try dsimp only
  repeat' first
    | with_reducible assumption
    | exact Within.of rfl hM
    | (with_reducible apply Only.foldl; intro _ _ _)
    | (simp only [Only.written]; apply Written.mk' <;> (first | exact .inr (Within.mem rfl hM) | exact .inl rfl | skip))
    | (with_reducible intro _)
    | split

theorem State.settleJob_only {M : List Part} {s0 : State} (a0) (a1) (hM : Within [.host, .journal, .store, .ring, .out] M) (h0 : Only M s0 a0) : Only M s0 ((@State.settleJob a0 a1)) := by
  unfold State.settleJob
  try dsimp only
  repeat' first
    | with_reducible assumption
    | exact Within.of rfl hM
    | with_reducible apply State.finish_only
    | (with_reducible apply Only.foldl; intro _ _ _)
    | (simp only [Only.written]; apply Written.mk' <;> (first | exact .inr (Within.mem rfl hM) | exact .inl rfl | skip))
    | (with_reducible intro _)
    | split

theorem State.noteFailure_only {M : List Part} {s0 : State} (a0) (a1) (a2) (hM : Within [.host, .evt, .out, .free] M) (h0 : Only M s0 a0) : Only M s0 ((@State.noteFailure a0 a1 a2)) := by
  unfold State.noteFailure
  try dsimp only
  repeat' first
    | with_reducible assumption
    | exact Within.of rfl hM
    | with_reducible apply State.info_only
    | (with_reducible apply Only.foldl; intro _ _ _)
    | (simp only [Only.written]; apply Written.mk' <;> (first | exact .inr (Within.mem rfl hM) | exact .inl rfl | skip))
    | (with_reducible intro _)
    | split

theorem State.releaseAs_only {M : List Part} {s0 : State} (a0) (a1) (a2) (a3) (hM : Within [.host, .journal, .store, .render, .ring, .out] M) (h0 : Only M s0 a0) : Only M s0 ((@State.releaseAs a0 a1 a2 a3)) := by
  unfold State.releaseAs
  try dsimp only
  repeat' first
    | with_reducible assumption
    | exact Within.of rfl hM
    | with_reducible apply State.finish_only
    | with_reducible apply State.mapJob_only
    | with_reducible apply State.settleJob_only
    | (with_reducible apply Only.foldl; intro _ _ _)
    | (simp only [Only.written]; apply Written.mk' <;> (first | exact .inr (Within.mem rfl hM) | exact .inl rfl | skip))
    | (with_reducible intro _)
    | split

theorem State.release_only {M : List Part} {s0 : State} (a0) (a1) (hM : Within [.host, .journal, .store, .render, .ring, .out] M) (h0 : Only M s0 a0) : Only M s0 ((@State.release a0 a1)) := by
  unfold State.release
  try dsimp only
  repeat' first
    | with_reducible assumption
    | exact Within.of rfl hM
    | with_reducible apply State.releaseAs_only
    | (with_reducible apply Only.foldl; intro _ _ _)
    | (with_reducible intro _)
    | split

theorem State.hold_only {M : List Part} {s0 : State} (a0) (a1) (a2) (a3) (hM : Within [.store] M) (h0 : Only M s0 a0) : Only M s0 ((@State.hold a0 a1 a2 a3)) := by
  unfold State.hold
  try dsimp only
  repeat' first
    | with_reducible assumption
    | exact Within.of rfl hM
    | with_reducible apply State.mapPage_only
    | (with_reducible apply Only.foldl; intro _ _ _)
    | (with_reducible intro _)
    | split

theorem State.markReprint_only {M : List Part} {s0 : State} (a0) (a1) (a2) (hM : Within [.ring] M) (h0 : Only M s0 a0) : Only M s0 ((@State.markReprint a0 a1 a2).1) := by
  unfold State.markReprint
  try dsimp only
  repeat' first
    | with_reducible assumption
    | exact Within.of rfl hM
    | (with_reducible apply Only.foldl; intro _ _ _)
    | (simp only [Only.written]; apply Written.mk' <;> (first | exact .inr (Within.mem rfl hM) | exact .inl rfl | skip))
    | (with_reducible intro _)
    | split

theorem State.sendReprint_only {M : List Part} {s0 : State} (a0) (a1) (a2) (hM : Within [.host, .journal, .ring, .out] M) (h0 : Only M s0 a0) : Only M s0 ((@State.sendReprint a0 a1 a2)) := by
  unfold State.sendReprint
  try dsimp only
  repeat' first
    | with_reducible assumption
    | exact Within.of rfl hM
    | with_reducible apply State.ringSend_only
    | with_reducible apply State.transact_only
    | with_reducible apply State.markReprint_only
    | (with_reducible apply Only.foldl; intro _ _ _)
    | (with_reducible intro _)
    | split

theorem State.tellLoss_only {M : List Part} {s0 : State} (a0) (a1) (a2) (hM : Within [.host, .evt, .out] M) (h0 : Only M s0 a0) : Only M s0 ((@State.tellLoss a0 a1 a2)) := by
  unfold State.tellLoss
  try dsimp only
  repeat' first
    | with_reducible assumption
    | exact Within.of rfl hM
    | with_reducible apply State.info_only
    | (with_reducible apply Only.foldl; intro _ _ _)
    | (with_reducible intro _)
    | split

theorem State.spoil_only {M : List Part} {s0 : State} (a0) (a1) (a2) (a3) (a4) (hM : Within [.host, .journal, .store, .ring, .evt, .out] M) (h0 : Only M s0 a0) : Only M s0 ((@State.spoil a0 a1 a2 a3 a4)) := by
  unfold State.spoil
  try dsimp only
  repeat' first
    | with_reducible assumption
    | exact Within.of rfl hM
    | with_reducible apply State.mapPage_only
    | with_reducible apply State.hold_only
    | with_reducible apply State.sendReprint_only
    | with_reducible apply State.tellLoss_only
    | (with_reducible apply Only.foldl; intro _ _ _)
    | (with_reducible intro _)
    | split

theorem State.tellGathered_only {M : List Part} {s0 : State} (a0) (a1) (a2) (hM : Within [.host, .store, .evt, .out] M) (h0 : Only M s0 a0) : Only M s0 ((@State.tellGathered a0 a1 a2)) := by
  unfold State.tellGathered
  try dsimp only
  repeat' first
    | with_reducible assumption
    | exact Within.of rfl hM
    | with_reducible apply State.mapPage_only
    | with_reducible apply State.tellLoss_only
    | (with_reducible apply Only.foldl; intro _ _ _)
    | (with_reducible intro _)
    | split

theorem State.tellPage_only {M : List Part} {s0 : State} (a0) (a1) (hM : Within [.host, .store, .evt, .out] M) (h0 : Only M s0 a0) : Only M s0 ((@State.tellPage a0 a1)) := by
  unfold State.tellPage
  try dsimp only
  repeat' first
    | with_reducible assumption
    | exact Within.of rfl hM
    | with_reducible apply State.tellGathered_only
    | (with_reducible apply Only.foldl; intro _ _ _)
    | (with_reducible intro _)
    | split

theorem State.spoilAt_only {M : List Part} {s0 : State} (a0) (a1) (a2) (a3) (a4) (a5) (hM : Within [.host, .journal, .store, .ring, .evt, .out] M) (h0 : Only M s0 a0) : Only M s0 ((@State.spoilAt a0 a1 a2 a3 a4 a5)) := by
  unfold State.spoilAt
  try dsimp only
  repeat' first
    | with_reducible assumption
    | exact Within.of rfl hM
    | with_reducible apply State.spoil_only
    | (with_reducible apply Only.foldl; intro _ _ _)
    | (with_reducible intro _)
    | split

theorem State.spoilRest_only {M : List Part} {s0 : State} (a0) (a1) (a2) (a3) (hM : Within [.host, .journal, .store, .ring, .evt, .out] M) (h0 : Only M s0 a0) : Only M s0 ((@State.spoilRest a0 a1 a2 a3)) := by
  unfold State.spoilRest
  try dsimp only
  repeat' first
    | with_reducible assumption
    | exact Within.of rfl hM
    | with_reducible apply State.spoilAt_only
    | (with_reducible apply Only.foldl; intro _ _ _)
    | (with_reducible intro _)
    | split

theorem State.spoilPrinting_only {M : List Part} {s0 : State} (a0) (a1) (a2) (hM : Within [.host, .journal, .store, .ring, .evt, .out] M) (h0 : Only M s0 a0) : Only M s0 ((@State.spoilPrinting a0 a1 a2)) := by
  unfold State.spoilPrinting
  try dsimp only
  repeat' first
    | with_reducible assumption
    | exact Within.of rfl hM
    | with_reducible apply State.spoilRest_only
    | (with_reducible apply Only.foldl; intro _ _ _)
    | (with_reducible intro _)
    | split

theorem State.spoilLine_only {M : List Part} {s0 : State} (a0) (a1) (a2) (a3) (a4) (a5) (a6) (a7) (a8) (hM : Within [.host, .journal, .store, .ring, .evt, .out] M) (h0 : Only M s0 a0) : Only M s0 ((@State.spoilLine a0 a1 a2 a3 a4 a5 a6 a7 a8)) := by
  unfold State.spoilLine
  try dsimp only
  repeat' first
    | with_reducible assumption
    | exact Within.of rfl hM
    | with_reducible apply State.spoilAt_only
    | (with_reducible apply Only.foldl; intro _ _ _)
    | (with_reducible intro _)
    | split

theorem State.notThere_only {M : List Part} {s0 : State} (a0) (a1) (hM : Within [.store] M) (h0 : Only M s0 a0) : Only M s0 ((@State.notThere a0 a1)) := by
  unfold State.notThere
  try dsimp only
  repeat' first
    | with_reducible assumption
    | exact Within.of rfl hM
    | with_reducible apply State.mapPage_only
    | (with_reducible apply Only.foldl; intro _ _ _)
    | (with_reducible intro _)
    | split

theorem State.lateStart_only {M : List Part} {s0 : State} (a0) (a1) (a2) (hM : Within [.host, .journal, .store, .ring, .evt, .out] M) (h0 : Only M s0 a0) : Only M s0 ((@State.lateStart a0 a1 a2)) := by
  unfold State.lateStart
  try dsimp only
  repeat' first
    | with_reducible assumption
    | exact Within.of rfl hM
    | with_reducible apply State.info_only
    | with_reducible apply State.mapPage_only
    | with_reducible apply State.spoil_only
    | with_reducible apply State.notThere_only
    | (with_reducible apply Only.foldl; intro _ _ _)
    | (with_reducible intro _)
    | split

theorem State.notePlace_only {M : List Part} {s0 : State} (a0) (a1) (a2) (hM : Within [.store] M) (h0 : Only M s0 a0) : Only M s0 ((@State.notePlace a0 a1 a2)) := by
  unfold State.notePlace
  try dsimp only
  repeat' first
    | with_reducible assumption
    | exact Within.of rfl hM
    | with_reducible apply State.mapJob_only
    | (with_reducible apply Only.foldl; intro _ _ _)
    | (with_reducible intro _)
    | split

theorem State.fix_only {M : List Part} {s0 : State} (a0) (a1) (a2) (a3) (hM : Within [.host, .journal, .store, .ring, .evt, .out] M) (h0 : Only M s0 a0) : Only M s0 ((@State.fix a0 a1 a2 a3)) := by
  unfold State.fix
  try dsimp only
  repeat' first
    | with_reducible assumption
    | exact Within.of rfl hM
    | with_reducible apply State.mapPage_only
    | with_reducible apply State.lateStart_only
    | with_reducible apply State.notePlace_only
    | (with_reducible apply Only.foldl; intro _ _ _)
    | (with_reducible intro _)
    | split

theorem State.placeFollow_only {M : List Part} {s0 : State} (a0) (a1) (hM : Within [.host, .journal, .store, .ring, .evt, .out] M) (h0 : Only M s0 a0) : Only M s0 ((@State.placeFollow a0 a1)) := by
  unfold State.placeFollow
  try dsimp only
  repeat' first
    | with_reducible assumption
    | exact Within.of rfl hM
    | with_reducible apply State.fix_only
    | (with_reducible apply Only.foldl; intro _ _ _)
    | (with_reducible intro _)
    | split

theorem State.placeCompare_only {M : List Part} {s0 : State} (a0) (a1) (a2) (hM : Within [.host, .journal, .store, .ring, .evt, .out] M) (h0 : Only M s0 a0) : Only M s0 ((@State.placeCompare a0 a1 a2)) := by
  unfold State.placeCompare
  try dsimp only
  repeat' first
    | with_reducible assumption
    | exact Within.of rfl hM
    | with_reducible apply State.info_only
    | with_reducible apply State.mapPage_only
    | with_reducible apply State.lateStart_only
    | with_reducible apply State.notePlace_only
    | with_reducible apply State.fix_only
    | (with_reducible apply Only.foldl; intro _ _ _)
    | (with_reducible intro _)
    | split

theorem State.keepPlacement_only {M : List Part} {s0 : State} (a0) (a1) (a2) (a3) (hM : Within [.ring] M) (h0 : Only M s0 a0) : Only M s0 ((@State.keepPlacement a0 a1 a2 a3)) := by
  unfold State.keepPlacement
  try dsimp only
  repeat' first
    | with_reducible assumption
    | exact Within.of rfl hM
    | (with_reducible apply Only.foldl; intro _ _ _)
    | (simp only [Only.written]; apply Written.mk' <;> (first | exact .inr (Within.mem rfl hM) | exact .inl rfl | skip))
    | (with_reducible intro _)
    | split

theorem State.syncPlaceLocal_only {M : List Part} {s0 : State} (a0) (a1) (a2) (a3) (hM : Within [.host, .journal, .store, .ring, .evt, .out] M) (h0 : Only M s0 a0) : Only M s0 ((@State.syncPlaceLocal a0 a1 a2 a3)) := by
  unfold State.syncPlaceLocal
  try dsimp only
  repeat' first
    | with_reducible assumption
    | exact Within.of rfl hM
    | with_reducible apply State.mapPage_only
    | with_reducible apply State.spoil_only
    | with_reducible apply State.notThere_only
    | with_reducible apply State.keepPlacement_only
    | (with_reducible apply Only.foldl; intro _ _ _)
    | (with_reducible intro _)
    | split

theorem State.placeKept_only {M : List Part} {s0 : State} (a0) (a1) (a2) (hM : Within [.host, .journal, .store, .ring, .evt, .out] M) (h0 : Only M s0 a0) : Only M s0 ((@State.placeKept a0 a1 a2)) := by
  unfold State.placeKept
  try dsimp only
  repeat' first
    | with_reducible assumption
    | exact Within.of rfl hM
    | with_reducible apply State.syncPlaceLocal_only
    | (with_reducible apply Only.foldl; intro _ _ _)
    | (simp only [Only.written]; apply Written.mk' <;> (first | exact .inr (Within.mem rfl hM) | exact .inl rfl | skip))
    | (with_reducible intro _)
    | split

theorem State.managerPlace_only {M : List Part} {s0 : State} (a0) (a1) (a2) (hM : Within [.host, .journal, .store, .ring, .evt, .out, .free] M) (h0 : Only M s0 a0) : Only M s0 ((@State.managerPlace a0 a1 a2).1) := by
  unfold State.managerPlace
  try dsimp only
  repeat' first
    | with_reducible assumption
    | exact Within.of rfl hM
    | with_reducible apply State.info_only
    | with_reducible apply State.syncPlaceLocal_only
    | (with_reducible apply Only.foldl; intro _ _ _)
    | (simp only [Only.written]; apply Written.mk' <;> (first | exact .inr (Within.mem rfl hM) | exact .inl rfl | skip))
    | (with_reducible intro _)
    | split

theorem State.managerReady_only {M : List Part} {s0 : State} (a0) (a1) (a2) (a3) (a4) (hM : Within [.host, .journal, .store, .ring, .evt, .out, .free] M) (h0 : Only M s0 a0) : Only M s0 ((@State.managerReady a0 a1 a2 a3 a4).1) := by
  unfold State.managerReady
  try dsimp only
  repeat' first
    | with_reducible assumption
    | exact Within.of rfl hM
    | with_reducible apply State.managerPlace_only
    | (with_reducible apply Only.foldl; intro _ _ _)
    | (simp only [Only.written]; apply Written.mk' <;> (first | exact .inr (Within.mem rfl hM) | exact .inl rfl | skip))
    | (with_reducible intro _)
    | split

theorem State.placeForeign_only {M : List Part} {s0 : State} (a0) (a1) (hM : Within [.host, .journal, .store, .ring, .evt, .out, .free] M) (h0 : Only M s0 a0) : Only M s0 ((@State.placeForeign a0 a1).1) := by
  unfold State.placeForeign
  have key : ∀ (l : List SyncPage) (r : State × List (Nat × Payload)), Only M s0 r.1 → Only M s0 (l.foldl (fun r x =>
      ((r.1.managerPlace a1 x.page).1, r.2 ++ (r.1.managerPlace a1 x.page).2)) r).1 := by
    intro l
    induction l with
    | nil => exact fun _ hr => hr
    | cons c t ih => exact fun r hr => ih _ (State.managerPlace_only _ _ _ (Within.of rfl hM) hr)
  dsimp only
  split
  · exact h0
  · exact key _ (a0, []) h0

theorem State.memberReady_only {M : List Part} {s0 : State} (a0) (a1) (hM : Within [.host, .journal, .store, .ring, .evt, .out, .free] M) (h0 : Only M s0 a0) : Only M s0 ((@State.memberReady a0 a1)) := by
  unfold State.memberReady
  try dsimp only
  repeat' first
    | with_reducible assumption
    | exact Within.of rfl hM
    | with_reducible apply State.ringSend_only
    | with_reducible apply State.transact_only
    | with_reducible apply State.managerReady_only
    | with_reducible apply State.placeForeign_only
    | (with_reducible apply Only.foldl; intro _ _ _)
    | (with_reducible intro _)
    | split

theorem State.storePage_only {M : List Part} {s0 : State} (a0) (a1) (hM : Within [.host, .journal, .store, .ring, .evt, .out, .free] M) (h0 : Only M s0 a0) : Only M s0 ((@State.storePage a0 a1)) := by
  unfold State.storePage
  try dsimp only
  repeat' first
    | with_reducible assumption
    | exact Within.of rfl hM
    | with_reducible apply State.setRunning_only
    | with_reducible apply State.mapPage_only
    | with_reducible apply State.lateStart_only
    | with_reducible apply State.placeFollow_only
    | with_reducible apply State.placeCompare_only
    | with_reducible apply State.placeKept_only
    | with_reducible apply State.memberReady_only
    | (with_reducible apply Only.foldl; intro _ _ _)
    | (with_reducible intro _)
    | split

theorem State.placeReprint_only {M : List Part} {s0 : State} (a0) (a1) (hM : Within [.host, .store, .evt, .out] M) (h0 : Only M s0 a0) : Only M s0 ((@State.placeReprint a0 a1)) := by
  unfold State.placeReprint
  try dsimp only
  repeat' first
    | with_reducible assumption
    | exact Within.of rfl hM
    | with_reducible apply State.mapPage_only
    | with_reducible apply State.mapJob_only
    | with_reducible apply State.tellPage_only
    | (with_reducible apply Only.foldl; intro _ _ _)
    | (with_reducible intro _)
    | split

theorem State.settleFired_only {M : List Part} {s0 : State} (a0) (hM : Within [.store] M) (h0 : Only M s0 a0) : Only M s0 ((@State.settleFired a0)) := by
  unfold State.settleFired
  try dsimp only
  repeat' first
    | with_reducible assumption
    | exact Within.of rfl hM
    | (with_reducible apply Only.foldl; intro _ _ _)
    | (simp only [Only.written]; apply Written.mk' <;> (first | exact .inr (Within.mem rfl hM) | exact .inl rfl | skip))
    | (with_reducible intro _)
    | split

theorem State.clearPrinting_only {M : List Part} {s0 : State} (a0) (hM : Within [.host, .journal, .store, .render, .lines, .pos, .evt, .out] M) (h0 : Only M s0 a0) : Only M s0 ((@State.clearPrinting a0)) := by
  unfold State.clearPrinting
  try dsimp only
  repeat' first
    | with_reducible assumption
    | exact Within.of rfl hM
    | with_reducible apply State.finish_only
    | with_reducible apply State.tellPage_only
    | (with_reducible apply Only.foldl; intro _ _ _)
    | (simp only [Only.written]; apply Written.mk' <;> (first | exact .inr (Within.mem rfl hM) | exact .inl rfl | skip))
    | (with_reducible intro _)
    | split

theorem State.spoilOld_only {M : List Part} {s0 : State} (a0) (a1) (a2) (hM : Within [.host, .journal, .store, .ring, .evt, .out] M) (h0 : Only M s0 a0) : Only M s0 ((@State.spoilOld a0 a1 a2)) := by
  unfold State.spoilOld
  try dsimp only
  repeat' first
    | with_reducible assumption
    | exact Within.of rfl hM
    | with_reducible apply State.spoilAt_only
    | (with_reducible apply Only.foldl; intro _ _ _)
    | (with_reducible intro _)
    | split

theorem State.disarmPages_only {M : List Part} {s0 : State} (a0) (a1) (hM : Within [.host, .journal, .store, .ring, .evt, .out] M) (h0 : Only M s0 a0) : Only M s0 ((@State.disarmPages a0 a1)) := by
  unfold State.disarmPages
  try dsimp only
  repeat' first
    | with_reducible assumption
    | exact Within.of rfl hM
    | with_reducible apply State.mapPage_only
    | with_reducible apply State.spoilRest_only
    | with_reducible apply State.spoilOld_only
    | (with_reducible apply Only.foldl; intro _ _ _)
    | (with_reducible intro _)
    | split

theorem State.disarmNow_only {M : List Part} {s0 : State} (a0) (a1) (hM : Within [.host, .journal, .store, .render, .lines, .pos, .ring, .evt, .out] M) (h0 : Only M s0 a0) : Only M s0 ((@State.disarmNow a0 a1)) := by
  unfold State.disarmNow
  try dsimp only
  repeat' first
    | with_reducible assumption
    | exact Within.of rfl hM
    | with_reducible apply State.clearPrinting_only
    | with_reducible apply State.disarmPages_only
    | (with_reducible apply Only.foldl; intro _ _ _)
    | (simp only [Only.written]; apply Written.mk' <;> (first | exact .inr (Within.mem rfl hM) | exact .inl rfl | skip))
    | (with_reducible intro _)
    | split

theorem State.disarmAtEnd_only {M : List Part} {s0 : State} (a0) (hM : Within [.store, .pos] M) (h0 : Only M s0 a0) : Only M s0 ((@State.disarmAtEnd a0)) := by
  unfold State.disarmAtEnd
  try dsimp only
  repeat' first
    | with_reducible assumption
    | exact Within.of rfl hM
    | (with_reducible apply Only.foldl; intro _ _ _)
    | (simp only [Only.written]; apply Written.mk' <;> (first | exact .inr (Within.mem rfl hM) | exact .inl rfl | skip))
    | (with_reducible intro _)
    | split

theorem State.endDisarm_only {M : List Part} {s0 : State} (a0) (hM : Within [.host, .journal, .store, .render, .lines, .pos, .evt, .out] M) (h0 : Only M s0 a0) : Only M s0 ((@State.endDisarm a0)) := by
  unfold State.endDisarm
  try dsimp only
  repeat' first
    | with_reducible assumption
    | exact Within.of rfl hM
    | with_reducible apply State.finish_only
    | with_reducible apply State.clearPrinting_only
    | (with_reducible apply Only.foldl; intro _ _ _)
    | (simp only [Only.written]; apply Written.mk' <;> (first | exact .inr (Within.mem rfl hM) | exact .inl rfl | skip))
    | (with_reducible intro _)
    | split

theorem State.settleLateDisarms_only {M : List Part} {s0 : State} (a0) (hM : Within [.host, .journal, .pos, .out] M) (h0 : Only M s0 a0) : Only M s0 ((@State.settleLateDisarms a0)) := by
  unfold State.settleLateDisarms
  try dsimp only
  repeat' first
    | with_reducible assumption
    | exact Within.of rfl hM
    | with_reducible apply State.finish_only
    | (with_reducible apply Only.foldl; intro _ _ _)
    | (simp only [Only.written]; apply Written.mk' <;> (first | exact .inr (Within.mem rfl hM) | exact .inl rfl | skip))
    | (with_reducible intro _)
    | split

theorem State.settleDisarm_only {M : List Part} {s0 : State} (a0) (hM : Within [.host, .journal, .store, .render, .lines, .pos, .evt, .out] M) (h0 : Only M s0 a0) : Only M s0 ((@State.settleDisarm a0)) := by
  unfold State.settleDisarm
  try dsimp only
  repeat' first
    | with_reducible assumption
    | exact Within.of rfl hM
    | with_reducible apply State.endDisarm_only
    | with_reducible apply State.settleLateDisarms_only
    | (with_reducible apply Only.foldl; intro _ _ _)
    | (with_reducible intro _)
    | split

theorem State.updAxis_only {M : List Part} {s0 : State} (a0) (a1) (a2) (hM : Within [.axes] M) (h0 : Only M s0 a0) : Only M s0 ((@State.updAxis a0 a1 a2)) := by
  unfold State.updAxis
  try dsimp only
  repeat' first
    | with_reducible assumption
    | exact Within.of rfl hM
    | (with_reducible apply Only.foldl; intro _ _ _)
    | (simp only [Only.written]; apply Written.mk' <;> (first | exact .inr (Within.mem rfl hM) | exact .inl rfl | skip))
    | (with_reducible intro _)
    | split

theorem State.finishAxis_only {M : List Part} {s0 : State} (a0) (a1) (a2) (a3) (a4) (hM : Within [.host, .journal, .out] M) (h0 : Only M s0 a0) : Only M s0 ((@State.finishAxis a0 a1 a2 a3 a4)) := by
  unfold State.finishAxis
  try dsimp only
  repeat' first
    | with_reducible assumption
    | exact Within.of rfl hM
    | with_reducible apply State.finish_only
    | (with_reducible apply Only.foldl; intro _ _ _)
    | (with_reducible intro _)
    | split

theorem State.settleStops_only {M : List Part} {s0 : State} (a0) (a1) (hM : Within [.host, .journal, .axes, .out] M) (h0 : Only M s0 a0) : Only M s0 ((@State.settleStops a0 a1)) := by
  unfold State.settleStops
  try dsimp only
  repeat' first
    | with_reducible assumption
    | exact Within.of rfl hM
    | with_reducible apply State.updAxis_only
    | with_reducible apply State.finishAxis_only
    | (with_reducible apply Only.foldl; intro _ _ _)
    | (with_reducible intro _)
    | split

theorem State.endMotion_only {M : List Part} {s0 : State} (a0) (a1) (a2) (a3) (hM : Within [.host, .journal, .axes, .out] M) (h0 : Only M s0 a0) : Only M s0 ((@State.endMotion a0 a1 a2 a3)) := by
  unfold State.endMotion
  try dsimp only
  repeat' first
    | with_reducible assumption
    | exact Within.of rfl hM
    | with_reducible apply State.updAxis_only
    | with_reducible apply State.finishAxis_only
    | with_reducible apply State.settleStops_only
    | (with_reducible apply Only.foldl; intro _ _ _)
    | (with_reducible intro _)
    | split

theorem State.rampStop_only {M : List Part} {s0 : State} (a0) (a1) (a2) (a3) (a4) (hM : Within [.axes] M) (h0 : Only M s0 a0) : Only M s0 ((@State.rampStop a0 a1 a2 a3 a4)) := by
  unfold State.rampStop
  try dsimp only
  repeat' first
    | with_reducible assumption
    | exact Within.of rfl hM
    | with_reducible apply State.updAxis_only
    | (with_reducible apply Only.foldl; intro _ _ _)
    | (with_reducible intro _)
    | split

theorem State.hardStop_only {M : List Part} {s0 : State} (a0) (a1) (a2) (a3) (hM : Within [.host, .journal, .axes, .out] M) (h0 : Only M s0 a0) : Only M s0 ((@State.hardStop a0 a1 a2 a3)) := by
  unfold State.hardStop
  try dsimp only
  repeat' first
    | with_reducible assumption
    | exact Within.of rfl hM
    | with_reducible apply State.endMotion_only
    | (with_reducible apply Only.foldl; intro _ _ _)
    | (with_reducible intro _)
    | split

theorem State.stopAxes_only {M : List Part} {s0 : State} (a0) (a1) (a2) (a3) (hM : Within [.axes] M) (h0 : Only M s0 a0) : Only M s0 ((@State.stopAxes a0 a1 a2 a3)) := by
  unfold State.stopAxes
  try dsimp only
  repeat' first
    | with_reducible assumption
    | exact Within.of rfl hM
    | with_reducible apply State.rampStop_only
    | (with_reducible apply Only.foldl; intro _ _ _)
    | (with_reducible intro _)
    | split

theorem State.openWindow_only {M : List Part} {s0 : State} (a0) (a1) (a2) (hM : Within [.flt] M) (h0 : Only M s0 a0) : Only M s0 ((@State.openWindow a0 a1 a2)) := by
  unfold State.openWindow
  try dsimp only
  repeat' first
    | with_reducible assumption
    | exact Within.of rfl hM
    | (with_reducible apply Only.foldl; intro _ _ _)
    | (simp only [Only.written]; apply Written.mk' <;> (first | exact .inr (Within.mem rfl hM) | exact .inl rfl | skip))
    | (with_reducible intro _)
    | split

theorem State.endInjection_only {M : List Part} {s0 : State} (a0) (a1) (hM : Within [.host, .journal, .out] M) (h0 : Only M s0 a0) : Only M s0 ((@State.endInjection a0 a1)) := by
  unfold State.endInjection
  try dsimp only
  repeat' first
    | with_reducible assumption
    | exact Within.of rfl hM
    | with_reducible apply State.finish_only
    | (with_reducible apply Only.foldl; intro _ _ _)
    | (with_reducible intro _)
    | split

theorem State.shotFed_only {M : List Part} {s0 : State} (a0) (a1) (hM : Within [.host, .journal, .flt, .out] M) (h0 : Only M s0 a0) : Only M s0 ((@State.shotFed a0 a1)) := by
  unfold State.shotFed
  try dsimp only
  repeat' first
    | with_reducible assumption
    | exact Within.of rfl hM
    | with_reducible apply State.endInjection_only
    | (with_reducible apply Only.foldl; intro _ _ _)
    | (simp only [Only.written]; apply Written.mk' <;> (first | exact .inr (Within.mem rfl hM) | exact .inl rfl | skip))
    | (with_reducible intro _)
    | split

theorem State.countShot_only {M : List Part} {s0 : State} (a0) (a1) (a2) (hM : Within [.host, .journal, .flt, .out] M) (h0 : Only M s0 a0) : Only M s0 ((@State.countShot a0 a1 a2)) := by
  unfold State.countShot
  try dsimp only
  repeat' first
    | with_reducible assumption
    | exact Within.of rfl hM
    | with_reducible apply State.shotFed_only
    | (with_reducible apply Only.foldl; intro _ _ _)
    | (with_reducible intro _)
    | split

theorem State.dropInjections_only {M : List Part} {s0 : State} (a0) (a1) (hM : Within [.host, .journal, .flt, .out] M) (h0 : Only M s0 a0) : Only M s0 ((@State.dropInjections a0 a1)) := by
  unfold State.dropInjections
  try dsimp only
  repeat' first
    | with_reducible assumption
    | exact Within.of rfl hM
    | with_reducible apply State.endInjection_only
    | (with_reducible apply Only.foldl; intro _ _ _)
    | (simp only [Only.written]; apply Written.mk' <;> (first | exact .inr (Within.mem rfl hM) | exact .inl rfl | skip))
    | (with_reducible intro _)
    | split

theorem State.faultParams_only {M : List Part} {s0 : State} (a0) (a1) (hM : Within [.free] M) (h0 : Only M s0 a0) : Only M s0 ((@State.faultParams a0 a1).2) := by
  unfold State.faultParams
  try dsimp only
  repeat' first
    | with_reducible assumption
    | exact Within.of rfl hM
    | (with_reducible apply Only.foldl; intro _ _ _)
    | (simp only [Only.written]; apply Written.mk' <;> (first | exact .inr (Within.mem rfl hM) | exact .inl rfl | skip))
    | (with_reducible intro _)
    | split

theorem State.setThrottle_only {M : List Part} {s0 : State} (a0) (a1) (hM : Within [.flt] M) (h0 : Only M s0 a0) : Only M s0 ((@State.setThrottle a0 a1)) := by
  unfold State.setThrottle
  try dsimp only
  repeat' first
    | with_reducible assumption
    | exact Within.of rfl hM
    | (with_reducible apply Only.foldl; intro _ _ _)
    | (simp only [Only.written]; apply Written.mk' <;> (first | exact .inr (Within.mem rfl hM) | exact .inl rfl | skip))
    | (with_reducible intro _)
    | split

theorem State.recordFault_only {M : List Part} {s0 : State} (a0) (a1) (a2) (a3) (a4) (hM : Within [.host, .flt, .evt, .out] M) (h0 : Only M s0 a0) : Only M s0 ((@State.recordFault a0 a1 a2 a3 a4).1) := by
  unfold State.recordFault
  try dsimp only
  repeat' first
    | with_reducible assumption
    | exact Within.of rfl hM
    | with_reducible apply State.note_only
    | with_reducible apply State.setThrottle_only
    | (with_reducible apply Only.foldl; intro _ _ _)
    | (with_reducible intro _)
    | split

theorem State.latch_only {M : List Part} {s0 : State} (a0) (a1) (a2) (a3) (a4) (a5) (a6) (hM : Within [.flt] M) (h0 : Only M s0 a0) : Only M s0 ((@State.latch a0 a1 a2 a3 a4 a5 a6)) := by
  unfold State.latch
  try dsimp only
  repeat' first
    | with_reducible assumption
    | exact Within.of rfl hM
    | (with_reducible apply Only.foldl; intro _ _ _)
    | (simp only [Only.written]; apply Written.mk' <;> (first | exact .inr (Within.mem rfl hM) | exact .inl rfl | skip))
    | (with_reducible intro _)
    | split

theorem State.haltStaff_only {M : List Part} {s0 : State} (a0) (a1) (hM : Within [.flt] M) (h0 : Only M s0 a0) : Only M s0 ((@State.haltStaff a0 a1)) := by
  unfold State.haltStaff
  try dsimp only
  repeat' first
    | with_reducible assumption
    | exact Within.of rfl hM
    | (with_reducible apply Only.foldl; intro _ _ _)
    | (simp only [Only.written]; apply Written.mk' <;> (first | exact .inr (Within.mem rfl hM) | exact .inl rfl | skip))
    | (with_reducible intro _)
    | split

theorem State.enterFaultState_only {M : List Part} {s0 : State} (a0) (a1) (hM : Within [.power, .host, .journal, .store, .render, .lines, .pos, .ring, .axes, .flt, .evt, .out] M) (h0 : Only M s0 a0) : Only M s0 ((@State.enterFaultState a0 a1)) := by
  unfold State.enterFaultState
  try dsimp only
  repeat' first
    | with_reducible assumption
    | exact Within.of rfl hM
    | with_reducible apply State.disarmNow_only
    | with_reducible apply State.stopAxes_only
    | (with_reducible apply Only.foldl; intro _ _ _)
    | (simp only [Only.written]; apply Written.mk' <;> (first | exact .inr (Within.mem rfl hM) | exact .inl rfl | skip))
    | (with_reducible intro _)
    | split

theorem State.classEffects_only {M : List Part} {s0 : State} (a0) (a1) (a2) (hM : Within [.power, .host, .journal, .store, .render, .lines, .pos, .ring, .axes, .flt, .evt, .out] M) (h0 : Only M s0 a0) : Only M s0 ((@State.classEffects a0 a1 a2)) := by
  unfold State.classEffects
  try dsimp only
  repeat' first
    | with_reducible assumption
    | exact Within.of rfl hM
    | with_reducible apply State.interrupt_only
    | with_reducible apply State.haltStaff_only
    | with_reducible apply State.enterFaultState_only
    | (with_reducible apply Only.foldl; intro _ _ _)
    | (simp only [Only.written]; apply Written.mk' <;> (first | exact .inr (Within.mem rfl hM) | exact .inl rfl | skip))
    | (with_reducible intro _)
    | split

theorem State.shadowHit_only {M : List Part} {s0 : State} (a0) (a1) (a2) (a3) (hM : Within [.host, .flt, .evt, .out] M) (h0 : Only M s0 a0) : Only M s0 ((@State.shadowHit a0 a1 a2 a3)) := by
  unfold State.shadowHit
  try dsimp only
  repeat' first
    | with_reducible assumption
    | exact Within.of rfl hM
    | with_reducible apply State.note_only
    | (with_reducible apply Only.foldl; intro _ _ _)
    | (simp only [Only.written]; apply Written.mk' <;> (first | exact .inr (Within.mem rfl hM) | exact .inl rfl | skip))
    | (with_reducible intro _)
    | split

theorem State.newFault_only {M : List Part} {s0 : State} (a0) (a1) (a2) (hM : Within [.power, .host, .journal, .store, .render, .lines, .pos, .ring, .axes, .flt, .evt, .out, .free] M) (h0 : Only M s0 a0) : Only M s0 ((@State.newFault a0 a1 a2)) := by
  unfold State.newFault
  try dsimp only
  repeat' first
    | with_reducible assumption
    | exact Within.of rfl hM
    | with_reducible apply State.faultParams_only
    | with_reducible apply State.recordFault_only
    | with_reducible apply State.latch_only
    | with_reducible apply State.classEffects_only
    | (with_reducible apply Only.foldl; intro _ _ _)
    | (with_reducible intro _)
    | split

theorem State.detect_only {M : List Part} {s0 : State} (a0) (a1) (hM : Within [.power, .host, .journal, .store, .render, .lines, .pos, .ring, .axes, .flt, .evt, .out, .free] M) (h0 : Only M s0 a0) : Only M s0 ((@State.detect a0 a1)) := by
  unfold State.detect
  try dsimp only
  repeat' first
    | with_reducible assumption
    | exact Within.of rfl hM
    | with_reducible apply State.shotFed_only
    | with_reducible apply State.shadowHit_only
    | with_reducible apply State.newFault_only
    | (with_reducible apply Only.foldl; intro _ _ _)
    | (with_reducible intro _)
    | split

theorem State.unlessShadowed_only {M : List Part} {s0 : State} (a0) (a1) (a2) (hM : Within [.power, .host, .journal, .store, .render, .lines, .pos, .ring, .axes, .flt, .evt, .out, .free] M) (h0 : Only M s0 a0) (h2 : ∀ s, Only M s0 s → Only M s0 ((a2 s))) : Only M s0 ((@State.unlessShadowed a0 a1 a2)) := by
  unfold State.unlessShadowed
  try dsimp only
  repeat' first
    | with_reducible assumption
    | exact Within.of rfl hM
    | with_reducible apply h2
    | with_reducible apply State.detect_only
    | (with_reducible apply Only.foldl; intro _ _ _)
    | (with_reducible intro _)
    | split

theorem State.fault_only {M : List Part} {s0 : State} (a0) (a1) (a2) (hM : Within [.power, .host, .journal, .store, .render, .lines, .pos, .ring, .axes, .flt, .evt, .out, .free] M) (h0 : Only M s0 a0) : Only M s0 ((@State.fault a0 a1 a2)) := by
  unfold State.fault
  try dsimp only
  repeat' first
    | with_reducible assumption
    | exact Within.of rfl hM
    | with_reducible apply State.detect_only
    | (with_reducible apply Only.foldl; intro _ _ _)
    | (with_reducible intro _)
    | split

theorem State.shotOut_only {M : List Part} {s0 : State} (a0) (hM : Within [.flt] M) (h0 : Only M s0 a0) : Only M s0 ((@State.shotOut a0)) := by
  unfold State.shotOut
  try dsimp only
  repeat' first
    | with_reducible assumption
    | exact Within.of rfl hM
    | (with_reducible apply Only.foldl; intro _ _ _)
    | (simp only [Only.written]; apply Written.mk' <;> (first | exact .inr (Within.mem rfl hM) | exact .inl rfl | skip))
    | (with_reducible intro _)
    | split

theorem State.feedUpTo_only {M : List Part} {s0 : State} (hM : Within [.power, .host, .journal, .store, .render, .lines, .pos, .ring, .axes, .flt, .evt, .out, .free] M) : ∀ (n : Nat) (s : State), Only M s0 s → Only M s0 (State.feedUpTo n s)
  | 0, _, h => h
  | n + 1, s, h => by
    unfold State.feedUpTo
    split
    · exact h
    · split
      · exact State.feedUpTo_only hM n _ (State.fault_only _ _ _ (Within.of rfl hM) h)
      · exact h

theorem State.feedShots_only {M : List Part} {s0 : State} (a0) (hM : Within [.power, .host, .journal, .store, .render, .lines, .pos, .ring, .axes, .flt, .evt, .out, .free] M) (h0 : Only M s0 a0) : Only M s0 ((@State.feedShots a0)) := by
  unfold State.feedShots
  try dsimp only
  repeat' first
    | with_reducible assumption
    | exact Within.of rfl hM
    | with_reducible apply State.feedUpTo_only
    | (with_reducible apply Only.foldl; intro _ _ _)
    | (with_reducible intro _)
    | split

theorem State.live_only {M : List Part} {s0 : State} (a0) (a1) (a2) (hM : Within [.flt] M) (h0 : Only M s0 a0) : Only M s0 ((@State.live a0 a1 a2)) := by
  unfold State.live
  try dsimp only
  repeat' first
    | with_reducible assumption
    | exact Within.of rfl hM
    | (with_reducible apply Only.foldl; intro _ _ _)
    | (simp only [Only.written]; apply Written.mk' <;> (first | exact .inr (Within.mem rfl hM) | exact .inl rfl | skip))
    | (with_reducible intro _)
    | split

theorem State.stopFiring_only {M : List Part} {s0 : State} (a0) (a1) (hM : Within [.host, .journal, .store, .pos, .ring, .evt, .out] M) (h0 : Only M s0 a0) : Only M s0 ((@State.stopFiring a0 a1)) := by
  unfold State.stopFiring
  try dsimp only
  repeat' first
    | with_reducible assumption
    | exact Within.of rfl hM
    | with_reducible apply State.spoilPrinting_only
    | (with_reducible apply Only.foldl; intro _ _ _)
    | (simp only [Only.written]; apply Written.mk' <;> (first | exact .inr (Within.mem rfl hM) | exact .inl rfl | skip))
    | (with_reducible intro _)
    | split

theorem State.sdramRequests_only {M : List Part} {s0 : State} (a0) (a1) (hM : Within [.dmc] M) (h0 : Only M s0 a0) : Only M s0 ((@State.sdramRequests a0 a1)) := by
  unfold State.sdramRequests
  try dsimp only
  repeat' first
    | with_reducible assumption
    | exact Within.of rfl hM
    | (with_reducible apply Only.foldl; intro _ _ _)
    | (simp only [Only.written]; apply Written.mk' <;> (first | exact .inr (Within.mem rfl hM) | exact .inl rfl | skip))
    | (with_reducible intro _)
    | split

theorem State.pageTraffic_only {M : List Part} {s0 : State} (a0) (a1) (a2) (a3) (a4) (hM : Within [.dmc] M) (h0 : Only M s0 a0) : Only M s0 ((@State.pageTraffic a0 a1 a2 a3 a4)) := by
  unfold State.pageTraffic
  try dsimp only
  repeat' first
    | with_reducible assumption
    | exact Within.of rfl hM
    | with_reducible apply State.sdramRequests_only
    | (with_reducible apply Only.foldl; intro _ _ _)
    | (with_reducible intro _)
    | split

theorem State.bulkTraffic_only {M : List Part} {s0 : State} (a0) (a1) (hM : Within [.dmc, .free] M) (h0 : Only M s0 a0) : Only M s0 ((@State.bulkTraffic a0 a1)) := by
  unfold State.bulkTraffic
  try dsimp only
  repeat' first
    | with_reducible assumption
    | exact Within.of rfl hM
    | with_reducible apply State.sdramRequests_only
    | (with_reducible apply Only.foldl; intro _ _ _)
    | (simp only [Only.written]; apply Written.mk' <;> (first | exact .inr (Within.mem rfl hM) | exact .inl rfl | skip))
    | (with_reducible intro _)
    | split

theorem State.updElement_only {M : List Part} {s0 : State} (a0) (a1) (a2) (hM : Within [.cal] M) (h0 : Only M s0 a0) : Only M s0 ((@State.updElement a0 a1 a2)) := by
  unfold State.updElement
  try dsimp only
  repeat' first
    | with_reducible assumption
    | exact Within.of rfl hM
    | (with_reducible apply Only.foldl; intro _ _ _)
    | (simp only [Only.written]; apply Written.mk' <;> (first | exact .inr (Within.mem rfl hM) | exact .inl rfl | skip))
    | (with_reducible intro _)
    | split

theorem State.fuseDefaults_only {M : List Part} {s0 : State} (a0) (hM : Within [.cal] M) (h0 : Only M s0 a0) : Only M s0 ((@State.fuseDefaults a0)) := by
  unfold State.fuseDefaults
  try dsimp only
  repeat' first
    | with_reducible assumption
    | exact Within.of rfl hM
    | (with_reducible apply Only.foldl; intro _ _ _)
    | (simp only [Only.written]; apply Written.mk' <;> (first | exact .inr (Within.mem rfl hM) | exact .inl rfl | skip))
    | (with_reducible intro _)
    | split

theorem State.endPass_only {M : List Part} {s0 : State} (a0) (a1) (hM : Within [.host, .journal, .evt, .cal, .out] M) (h0 : Only M s0 a0) : Only M s0 ((@State.endPass a0 a1)) := by
  unfold State.endPass
  try dsimp only
  repeat' first
    | with_reducible assumption
    | exact Within.of rfl hM
    | with_reducible apply State.episodeClose_only
    | with_reducible apply State.finish_only
    | (with_reducible apply Only.foldl; intro _ _ _)
    | (simp only [Only.written]; apply Written.mk' <;> (first | exact .inr (Within.mem rfl hM) | exact .inl rfl | skip))
    | (with_reducible intro _)
    | split

theorem State.advancePass_only {M : List Part} {s0 : State} (a0) (hM : Within [.host, .journal, .evt, .cal, .out] M) (h0 : Only M s0 a0) : Only M s0 ((@State.advancePass a0)) := by
  unfold State.advancePass
  try dsimp only
  repeat' first
    | with_reducible assumption
    | exact Within.of rfl hM
    | with_reducible apply State.endPass_only
    | (with_reducible apply Only.foldl; intro _ _ _)
    | (simp only [Only.written]; apply Written.mk' <;> (first | exact .inr (Within.mem rfl hM) | exact .inl rfl | skip))
    | (with_reducible intro _)
    | split

theorem State.startPass_only {M : List Part} {s0 : State} (a0) (a1) (a2) (a3) (hM : Within [.power, .host, .journal, .store, .render, .lines, .pos, .ring, .axes, .flt, .evt, .cal, .out, .free] M) (h0 : Only M s0 a0) : Only M s0 ((@State.startPass a0 a1 a2 a3)) := by
  unfold State.startPass
  try dsimp only
  repeat' first
    | with_reducible assumption
    | exact Within.of rfl hM
    | with_reducible apply State.detect_only
    | with_reducible apply State.fuseDefaults_only
    | with_reducible apply State.endPass_only
    | (with_reducible apply Only.foldl; intro _ _ _)
    | (simp only [Only.written]; apply Written.mk' <;> (first | exact .inr (Within.mem rfl hM) | exact .inl rfl | skip))
    | (with_reducible intro _)
    | split

theorem State.measure_only {M : List Part} {s0 : State} (a0) (a1) (a2) (hM : Within [.power, .host, .journal, .store, .render, .lines, .pos, .ring, .axes, .flt, .evt, .cal, .out, .free] M) (h0 : Only M s0 a0) : Only M s0 ((@State.measure a0 a1 a2)) := by
  unfold State.measure
  try dsimp only
  repeat' first
    | with_reducible assumption
    | exact Within.of rfl hM
    | with_reducible apply State.detect_only
    | with_reducible apply State.updElement_only
    | (with_reducible apply Only.foldl; intro _ _ _)
    | (with_reducible intro _)
    | split

theorem State.switchMoment_only {M : List Part} {s0 : State} (a0) (a1) (hM : Within [.host, .journal, .evt, .cal, .out] M) (h0 : Only M s0 a0) : Only M s0 ((@State.switchMoment a0 a1)) := by
  unfold State.switchMoment
  try dsimp only
  repeat' first
    | with_reducible assumption
    | exact Within.of rfl hM
    | with_reducible apply State.updElement_only
    | with_reducible apply State.advancePass_only
    | (with_reducible apply Only.foldl; intro _ _ _)
    | (with_reducible intro _)
    | split

theorem State.switchSerial_only {M : List Part} {s0 : State} (a0) (hM : Within [.host, .journal, .evt, .cal, .out] M) (h0 : Only M s0 a0) : Only M s0 ((@State.switchSerial a0)) := by
  unfold State.switchSerial
  try dsimp only
  repeat' first
    | with_reducible assumption
    | exact Within.of rfl hM
    | with_reducible apply State.switchMoment_only
    | (with_reducible apply Only.foldl; intro _ _ _)
    | (with_reducible intro _)
    | split

theorem State.switchSdram_only {M : List Part} {s0 : State} (a0) (a1) (hM : Within [.host, .journal, .evt, .cal, .out] M) (h0 : Only M s0 a0) : Only M s0 ((@State.switchSdram a0 a1)) := by
  unfold State.switchSdram
  try dsimp only
  repeat' first
    | with_reducible assumption
    | exact Within.of rfl hM
    | with_reducible apply State.switchMoment_only
    | (with_reducible apply Only.foldl; intro _ _ _)
    | (with_reducible intro _)
    | split

theorem State.calDirty_only {M : List Part} {s0 : State} (a0) (hM : Within [.cal] M) (h0 : Only M s0 a0) : Only M s0 ((@State.calDirty a0)) := by
  unfold State.calDirty
  try dsimp only
  repeat' first
    | with_reducible assumption
    | exact Within.of rfl hM
    | (with_reducible apply Only.foldl; intro _ _ _)
    | (simp only [Only.written]; apply Written.mk' <;> (first | exact .inr (Within.mem rfl hM) | exact .inl rfl | skip))
    | (with_reducible intro _)
    | split

theorem State.freeFailure_only {M : List Part} {s0 : State} (a0) (hM : Within [.free] M) (h0 : Only M s0 a0) : Only M s0 ((@State.freeFailure a0).2) := by
  unfold State.freeFailure
  try dsimp only
  repeat' first
    | with_reducible assumption
    | exact Within.of rfl hM
    | (with_reducible apply Only.foldl; intro _ _ _)
    | (simp only [Only.written]; apply Written.mk' <;> (first | exact .inr (Within.mem rfl hM) | exact .inl rfl | skip))
    | (with_reducible intro _)
    | split

theorem State.writeCalSet_only {M : List Part} {s0 : State} (a0) (a1) (hM : Within [.flash, .cal] M) (h0 : Only M s0 a0) : Only M s0 ((@State.writeCalSet a0 a1)) := by
  unfold State.writeCalSet
  try dsimp only
  repeat' first
    | with_reducible assumption
    | exact Within.of rfl hM
    | (with_reducible apply Only.foldl; intro _ _ _)
    | (simp only [Only.written]; apply Written.mk' <;> (first | exact .inr (Within.mem rfl hM) | exact .inl rfl | skip))
    | (with_reducible intro _)
    | split

theorem State.clearCalMark_only {M : List Part} {s0 : State} (a0) (hM : Within [.ring] M) (h0 : Only M s0 a0) : Only M s0 ((@State.clearCalMark a0)) := by
  unfold State.clearCalMark
  try dsimp only
  repeat' first
    | with_reducible assumption
    | exact Within.of rfl hM
    | (with_reducible apply Only.foldl; intro _ _ _)
    | (simp only [Only.written]; apply Written.mk' <;> (first | exact .inr (Within.mem rfl hM) | exact .inl rfl | skip))
    | (with_reducible intro _)
    | split

theorem State.updPort_only {M : List Part} {s0 : State} (a0) (a1) (a2) (hM : Within [.heads] M) (h0 : Only M s0 a0) : Only M s0 ((@State.updPort a0 a1 a2)) := by
  unfold State.updPort
  try dsimp only
  repeat' first
    | with_reducible assumption
    | exact Within.of rfl hM
    | (with_reducible apply Only.foldl; intro _ _ _)
    | (simp only [Only.written]; apply Written.mk' <;> (first | exact .inr (Within.mem rfl hM) | exact .inl rfl | skip))
    | (with_reducible intro _)
    | split

theorem State.drive_only {M : List Part} {s0 : State} (a0) (a1) (hM : Within [.out] M) (h0 : Only M s0 a0) : Only M s0 ((@State.drive a0 a1)) := by
  unfold State.drive
  try dsimp only
  repeat' first
    | with_reducible assumption
    | exact Within.of rfl hM
    | with_reducible apply State.emit_only
    | (with_reducible apply Only.foldl; intro _ _ _)
    | (with_reducible intro _)
    | split

theorem State.sendHead_only {M : List Part} {s0 : State} (a0) (a1) (a2) (a3) (hM : Within [.out] M) (h0 : Only M s0 a0) : Only M s0 ((@State.sendHead a0 a1 a2 a3)) := by
  unfold State.sendHead
  try dsimp only
  repeat' first
    | with_reducible assumption
    | exact Within.of rfl hM
    | with_reducible apply State.drive_only
    | (with_reducible apply Only.foldl; intro _ _ _)
    | (with_reducible intro _)
    | split

theorem State.sendSync_only {M : List Part} {s0 : State} (a0) (a1) (hM : Within [.heads, .out] M) (h0 : Only M s0 a0) : Only M s0 ((@State.sendSync a0 a1)) := by
  unfold State.sendSync
  try dsimp only
  repeat' first
    | with_reducible assumption
    | exact Within.of rfl hM
    | with_reducible apply State.updPort_only
    | with_reducible apply State.sendHead_only
    | (with_reducible apply Only.foldl; intro _ _ _)
    | (with_reducible intro _)
    | split

theorem State.sendLimits_only {M : List Part} {s0 : State} (a0) (a1) (hM : Within [.out] M) (h0 : Only M s0 a0) : Only M s0 ((@State.sendLimits a0 a1)) := by
  unfold State.sendLimits
  try dsimp only
  repeat' first
    | with_reducible assumption
    | exact Within.of rfl hM
    | with_reducible apply State.sendHead_only
    | (with_reducible apply Only.foldl; intro _ _ _)
    | (with_reducible intro _)
    | split

theorem State.hbErr_only {M : List Part} {s0 : State} (a0) (a1) (hM : Within [.hb, .out] M) (h0 : Only M s0 a0) : Only M s0 ((@State.hbErr a0 a1)) := by
  unfold State.hbErr
  try dsimp only
  repeat' first
    | with_reducible assumption
    | exact Within.of rfl hM
    | with_reducible apply State.emit_only
    | (with_reducible apply Only.foldl; intro _ _ _)
    | (simp only [Only.written]; apply Written.mk' <;> (first | exact .inr (Within.mem rfl hM) | exact .inl rfl | skip))
    | (with_reducible intro _)
    | split

theorem State.spoilLosses_only {M : List Part} {s0 : State} (a0) (a1) (a2) (hM : Within [.host, .journal, .store, .ring, .evt, .out] M) (h0 : Only M s0 a0) : Only M s0 ((@State.spoilLosses a0 a1 a2)) := by
  unfold State.spoilLosses
  try dsimp only
  repeat' first
    | with_reducible assumption
    | exact Within.of rfl hM
    | with_reducible apply State.spoil_only
    | (with_reducible apply Only.foldl; intro _ _ _)
    | (with_reducible intro _)
    | split

theorem State.dropHead_only {M : List Part} {s0 : State} (a0) (a1) (a2) (hM : Within [.pos] M) (h0 : Only M s0 a0) : Only M s0 ((@State.dropHead a0 a1 a2)) := by
  unfold State.dropHead
  try dsimp only
  repeat' first
    | with_reducible assumption
    | exact Within.of rfl hM
    | (with_reducible apply Only.foldl; intro _ _ _)
    | (simp only [Only.written]; apply Written.mk' <;> (first | exact .inr (Within.mem rfl hM) | exact .inl rfl | skip))
    | (with_reducible intro _)
    | split

theorem State.failPortCommands_only {M : List Part} {s0 : State} (a0) (a1) (a2) (hM : Within [.host, .journal, .out] M) (h0 : Only M s0 a0) : Only M s0 ((@State.failPortCommands a0 a1 a2)) := by
  unfold State.failPortCommands
  try dsimp only
  repeat' first
    | with_reducible assumption
    | exact Within.of rfl hM
    | with_reducible apply State.finish_only
    | (with_reducible apply Only.foldl; intro _ _ _)
    | (with_reducible intro _)
    | split

theorem State.endTest_only {M : List Part} {s0 : State} (a0) (a1) (hM : Within [.host, .journal, .heads, .out] M) (h0 : Only M s0 a0) : Only M s0 ((@State.endTest a0 a1)) := by
  unfold State.endTest
  try dsimp only
  repeat' first
    | with_reducible assumption
    | exact Within.of rfl hM
    | with_reducible apply State.emit_only
    | with_reducible apply State.mapEntry_only
    | with_reducible apply State.finish_only
    | with_reducible apply State.updPort_only
    | (with_reducible apply Only.foldl; intro _ _ _)
    | (with_reducible intro _)
    | split

theorem State.endTests_only {M : List Part} {s0 : State} (a0) (hM : Within [.host, .journal, .heads, .out] M) (h0 : Only M s0 a0) : Only M s0 ((@State.endTests a0)) := by
  unfold State.endTests
  try dsimp only
  repeat' first
    | with_reducible assumption
    | exact Within.of rfl hM
    | with_reducible apply State.endTest_only
    | (with_reducible apply Only.foldl; intro _ _ _)
    | (with_reducible intro _)
    | split

theorem State.fencePortAs_only {M : List Part} {s0 : State} (a0) (a1) (a2) (a3) (hM : Within [.power, .host, .journal, .store, .render, .lines, .pos, .heads, .ring, .axes, .flt, .evt, .hb, .out, .free] M) (h0 : Only M s0 a0) : Only M s0 ((@State.fencePortAs a0 a1 a2 a3)) := by
  unfold State.fencePortAs
  try dsimp only
  repeat' first
    | with_reducible assumption
    | exact Within.of rfl hM
    | with_reducible apply State.detect_only
    | with_reducible apply State.unlessShadowed_only
    | with_reducible apply State.updPort_only
    | with_reducible apply State.hbErr_only
    | with_reducible apply State.spoilLosses_only
    | with_reducible apply State.dropHead_only
    | with_reducible apply State.failPortCommands_only
    | (with_reducible apply Only.foldl; intro _ _ _)
    | (simp only [Only.written]; apply Written.mk' <;> (first | exact .inr (Within.mem rfl hM) | exact .inl rfl | skip))
    | (with_reducible intro _)
    | split

theorem State.fencePort_only {M : List Part} {s0 : State} (a0) (a1) (a2) (a3) (a4) (hM : Within [.power, .host, .journal, .store, .render, .lines, .pos, .heads, .ring, .axes, .flt, .evt, .hb, .out, .free] M) (h0 : Only M s0 a0) : Only M s0 ((@State.fencePort a0 a1 a2 a3 a4)) := by
  unfold State.fencePort
  try dsimp only
  repeat' first
    | with_reducible assumption
    | exact Within.of rfl hM
    | with_reducible apply State.fencePortAs_only
    | (with_reducible apply Only.foldl; intro _ _ _)
    | (with_reducible intro _)
    | split

theorem State.releaseThermal_only {M : List Part} {s0 : State} (a0) (a1) (hM : Within [.heads] M) (h0 : Only M s0 a0) : Only M s0 ((@State.releaseThermal a0 a1)) := by
  unfold State.releaseThermal
  try dsimp only
  repeat' first
    | with_reducible assumption
    | exact Within.of rfl hM
    | (with_reducible apply Only.foldl; intro _ _ _)
    | (simp only [Only.written]; apply Written.mk' <;> (first | exact .inr (Within.mem rfl hM) | exact .inl rfl | skip))
    | (with_reducible intro _)
    | split

theorem State.retirePort_only {M : List Part} {s0 : State} (a0) (a1) (hM : Within [.host, .journal, .heads, .out] M) (h0 : Only M s0 a0) : Only M s0 ((@State.retirePort a0 a1)) := by
  unfold State.retirePort
  try dsimp only
  repeat' first
    | with_reducible assumption
    | exact Within.of rfl hM
    | with_reducible apply State.updPort_only
    | with_reducible apply State.failPortCommands_only
    | (with_reducible apply Only.foldl; intro _ _ _)
    | (with_reducible intro _)
    | split

theorem State.settleRetire_only {M : List Part} {s0 : State} (a0) (hM : Within [.host, .journal, .pos, .heads, .out] M) (h0 : Only M s0 a0) : Only M s0 ((@State.settleRetire a0)) := by
  unfold State.settleRetire
  try dsimp only
  repeat' first
    | with_reducible assumption
    | exact Within.of rfl hM
    | with_reducible apply State.dropHead_only
    | with_reducible apply State.releaseThermal_only
    | with_reducible apply State.retirePort_only
    | (with_reducible apply Only.foldl; intro _ _ _)
    | (with_reducible intro _)
    | split

theorem State.sendData_only {M : List Part} {s0 : State} (a0) (a1) (a2) (hM : Within [.out] M) (h0 : Only M s0 a0) : Only M s0 ((@State.sendData a0 a1 a2)) := by
  unfold State.sendData
  try dsimp only
  repeat' first
    | with_reducible assumption
    | exact Within.of rfl hM
    | with_reducible apply State.drive_only
    | (with_reducible apply Only.foldl; intro _ _ _)
    | (with_reducible intro _)
    | split

theorem State.loadWave_only {M : List Part} {s0 : State} (a0) (a1) (a2) (a3) (a4) (hM : Within [.heads, .out] M) (h0 : Only M s0 a0) : Only M s0 ((@State.loadWave a0 a1 a2 a3 a4)) := by
  unfold State.loadWave
  try dsimp only
  repeat' first
    | with_reducible assumption
    | exact Within.of rfl hM
    | with_reducible apply State.updPort_only
    | with_reducible apply State.sendHead_only
    | with_reducible apply State.sendData_only
    | (with_reducible apply Only.foldl; intro _ _ _)
    | (with_reducible intro _)
    | split

theorem State.setNozzle_only {M : List Part} {s0 : State} (a0) (a1) (a2) (hM : Within [.lines] M) (h0 : Only M s0 a0) : Only M s0 ((@State.setNozzle a0 a1 a2)) := by
  unfold State.setNozzle
  try dsimp only
  repeat' first
    | with_reducible assumption
    | exact Within.of rfl hM
    | (with_reducible apply Only.foldl; intro _ _ _)
    | (simp only [Only.written]; apply Written.mk' <;> (first | exact .inr (Within.mem rfl hM) | exact .inl rfl | skip))
    | (with_reducible intro _)
    | split

theorem State.setOut_only {M : List Part} {s0 : State} (a0) (a1) (a2) (hM : Within [.lines] M) (h0 : Only M s0 a0) : Only M s0 ((@State.setOut a0 a1 a2)) := by
  unfold State.setOut
  try dsimp only
  repeat' first
    | with_reducible assumption
    | exact Within.of rfl hM
    | with_reducible apply State.setNozzle_only
    | (with_reducible apply Only.foldl; intro _ _ _)
    | (with_reducible intro _)
    | split

theorem State.endProbe_only {M : List Part} {s0 : State} (a0) (a1) (hM : Within [.lines, .loop] M) (h0 : Only M s0 a0) : Only M s0 ((@State.endProbe a0 a1)) := by
  unfold State.endProbe
  try dsimp only
  repeat' first
    | with_reducible assumption
    | exact Within.of rfl hM
    | with_reducible apply State.setOut_only
    | (with_reducible apply Only.foldl; intro _ _ _)
    | (simp only [Only.written]; apply Written.mk' <;> (first | exact .inr (Within.mem rfl hM) | exact .inl rfl | skip))
    | (with_reducible intro _)
    | split

theorem State.restoreColumns_only {M : List Part} {s0 : State} (a0) (a1) (hM : Within [.loop] M) (h0 : Only M s0 a0) : Only M s0 ((@State.restoreColumns a0 a1)) := by
  unfold State.restoreColumns
  try dsimp only
  repeat' first
    | with_reducible assumption
    | exact Within.of rfl hM
    | (with_reducible apply Only.foldl; intro _ _ _)
    | (simp only [Only.written]; apply Written.mk' <;> (first | exact .inr (Within.mem rfl hM) | exact .inl rfl | skip))
    | (with_reducible intro _)
    | split

theorem State.endHeadProbes_only {M : List Part} {s0 : State} (a0) (a1) (hM : Within [.lines, .loop] M) (h0 : Only M s0 a0) : Only M s0 ((@State.endHeadProbes a0 a1)) := by
  unfold State.endHeadProbes
  try dsimp only
  repeat' first
    | with_reducible assumption
    | exact Within.of rfl hM
    | with_reducible apply State.endProbe_only
    | (with_reducible apply Only.foldl; intro _ _ _)
    | (with_reducible intro _)
    | split

theorem State.restoreHead_only {M : List Part} {s0 : State} (a0) (a1) (a2) (hM : Within [.lines, .heads, .loop] M) (h0 : Only M s0 a0) : Only M s0 ((@State.restoreHead a0 a1 a2)) := by
  unfold State.restoreHead
  try dsimp only
  repeat' first
    | with_reducible assumption
    | exact Within.of rfl hM
    | with_reducible apply State.updPort_only
    | with_reducible apply State.restoreColumns_only
    | with_reducible apply State.endHeadProbes_only
    | (with_reducible apply Only.foldl; intro _ _ _)
    | (simp only [Only.written]; apply Written.mk' <;> (first | exact .inr (Within.mem rfl hM) | exact .inl rfl | skip))
    | (with_reducible intro _)
    | split

theorem State.enterDirectory_only {M : List Part} {s0 : State} (a0) (a1) (hM : Within [.flash, .cal] M) (h0 : Only M s0 a0) : Only M s0 ((@State.enterDirectory a0 a1)) := by
  unfold State.enterDirectory
  try dsimp only
  repeat' first
    | with_reducible assumption
    | exact Within.of rfl hM
    | with_reducible apply State.calDirty_only
    | (with_reducible apply Only.foldl; intro _ _ _)
    | (simp only [Only.written]; apply Written.mk' <;> (first | exact .inr (Within.mem rfl hM) | exact .inl rfl | skip))
    | (with_reducible intro _)
    | split

theorem State.headDirty_only {M : List Part} {s0 : State} (a0) (a1) (a2) (hM : Within [.flash] M) (h0 : Only M s0 a0) : Only M s0 ((@State.headDirty a0 a1 a2)) := by
  unfold State.headDirty
  try dsimp only
  repeat' first
    | with_reducible assumption
    | exact Within.of rfl hM
    | (with_reducible apply Only.foldl; intro _ _ _)
    | (simp only [Only.written]; apply Written.mk' <;> (first | exact .inr (Within.mem rfl hM) | exact .inl rfl | skip))
    | (with_reducible intro _)
    | split

theorem State.checkCalMark_only {M : List Part} {s0 : State} (a0) (hM : Within [.ring] M) (h0 : Only M s0 a0) : Only M s0 ((@State.checkCalMark a0)) := by
  unfold State.checkCalMark
  try dsimp only
  repeat' first
    | with_reducible assumption
    | exact Within.of rfl hM
    | with_reducible apply State.clearCalMark_only
    | (with_reducible apply Only.foldl; intro _ _ _)
    | (with_reducible intro _)
    | split

theorem State.sendTraining_only {M : List Part} {s0 : State} (a0) (a1) (hM : Within [.out] M) (h0 : Only M s0 a0) : Only M s0 ((@State.sendTraining a0 a1)) := by
  unfold State.sendTraining
  try dsimp only
  repeat' first
    | with_reducible assumption
    | exact Within.of rfl hM
    | with_reducible apply State.sendHead_only
    | (with_reducible apply Only.foldl; intro _ _ _)
    | (with_reducible intro _)
    | split

theorem State.startBringup_only {M : List Part} {s0 : State} (a0) (a1) (a2) (a3) (hM : Within [.heads, .out] M) (h0 : Only M s0 a0) : Only M s0 ((@State.startBringup a0 a1 a2 a3)) := by
  unfold State.startBringup
  try dsimp only
  repeat' first
    | with_reducible assumption
    | exact Within.of rfl hM
    | with_reducible apply State.updPort_only
    | with_reducible apply State.sendTraining_only
    | (with_reducible apply Only.foldl; intro _ _ _)
    | (with_reducible intro _)
    | split

theorem State.startHeadResets_only {M : List Part} {s0 : State} (a0) (hM : Within [.host, .journal, .heads, .flt, .out] M) (h0 : Only M s0 a0) : Only M s0 ((@State.startHeadResets a0)) := by
  unfold State.startHeadResets
  try dsimp only
  repeat' first
    | with_reducible assumption
    | exact Within.of rfl hM
    | with_reducible apply State.openWindow_only
    | with_reducible apply State.dropInjections_only
    | with_reducible apply State.updPort_only
    | with_reducible apply State.startBringup_only
    | (with_reducible apply Only.foldl; intro _ _ _)
    | (with_reducible intro _)
    | split

theorem State.bringupFailed_only {M : List Part} {s0 : State} (a0) (a1) (hM : Within [.host, .journal, .heads, .out] M) (h0 : Only M s0 a0) : Only M s0 ((@State.bringupFailed a0 a1)) := by
  unfold State.bringupFailed
  try dsimp only
  repeat' first
    | with_reducible assumption
    | exact Within.of rfl hM
    | with_reducible apply State.finish_only
    | with_reducible apply State.updPort_only
    | (with_reducible apply Only.foldl; intro _ _ _)
    | (with_reducible intro _)
    | split

theorem State.bringupOk_only {M : List Part} {s0 : State} (a0) (a1) (hM : Within [.host, .journal, .heads, .out] M) (h0 : Only M s0 a0) : Only M s0 ((@State.bringupOk a0 a1)) := by
  unfold State.bringupOk
  try dsimp only
  repeat' first
    | with_reducible assumption
    | exact Within.of rfl hM
    | with_reducible apply State.finish_only
    | with_reducible apply State.updPort_only
    | (with_reducible apply Only.foldl; intro _ _ _)
    | (with_reducible intro _)
    | split

theorem State.serve_only {M : List Part} {s0 : State} (a0) (a1) (hM : Within [.host, .journal, .heads, .out] M) (h0 : Only M s0 a0) : Only M s0 ((@State.serve a0 a1)) := by
  unfold State.serve
  try dsimp only
  repeat' first
    | with_reducible assumption
    | exact Within.of rfl hM
    | with_reducible apply State.updPort_only
    | with_reducible apply State.releaseThermal_only
    | with_reducible apply State.bringupOk_only
    | (with_reducible apply Only.foldl; intro _ _ _)
    | (with_reducible intro _)
    | split

theorem State.enterService_only {M : List Part} {s0 : State} (a0) (a1) (hM : Within [.host, .journal, .heads, .out] M) (h0 : Only M s0 a0) : Only M s0 ((@State.enterService a0 a1)) := by
  unfold State.enterService
  try dsimp only
  repeat' first
    | with_reducible assumption
    | exact Within.of rfl hM
    | with_reducible apply State.updPort_only
    | with_reducible apply State.serve_only
    | (with_reducible apply Only.foldl; intro _ _ _)
    | (with_reducible intro _)
    | split

theorem State.joinShadow_only {M : List Part} {s0 : State} (a0) (a1) (a2) (hM : Within [.host, .journal, .heads, .out] M) (h0 : Only M s0 a0) : Only M s0 ((@State.joinShadow a0 a1 a2)) := by
  unfold State.joinShadow
  try dsimp only
  repeat' first
    | with_reducible assumption
    | exact Within.of rfl hM
    | with_reducible apply State.updPort_only
    | with_reducible apply State.serve_only
    | (with_reducible apply Only.foldl; intro _ _ _)
    | (with_reducible intro _)
    | split

theorem State.applyHeadRows_only {M : List Part} {s0 : State} (a0) (a1) (hM : Within [.lines] M) (h0 : Only M s0 a0) : Only M s0 ((@State.applyHeadRows a0 a1)) := by
  unfold State.applyHeadRows
  try dsimp only
  repeat' first
    | with_reducible assumption
    | exact Within.of rfl hM
    | (with_reducible apply Only.foldl; intro _ _ _)
    | (simp only [Only.written]; apply Written.mk' <;> (first | exact .inr (Within.mem rfl hM) | exact .inl rfl | skip))
    | (with_reducible intro _)
    | split

theorem State.stepSeven_only {M : List Part} {s0 : State} (a0) (a1) (hM : Within [.host, .journal, .lines, .heads, .out] M) (h0 : Only M s0 a0) : Only M s0 ((@State.stepSeven a0 a1)) := by
  unfold State.stepSeven
  try dsimp only
  repeat' first
    | with_reducible assumption
    | exact Within.of rfl hM
    | with_reducible apply State.finish_only
    | with_reducible apply State.updPort_only
    | with_reducible apply State.sendLimits_only
    | with_reducible apply State.loadWave_only
    | with_reducible apply State.applyHeadRows_only
    | (with_reducible apply Only.foldl; intro _ _ _)
    | (with_reducible intro _)
    | split

theorem State.retryWaiting_only {M : List Part} {s0 : State} (a0) (hM : Within [.host, .journal, .lines, .heads, .out] M) (h0 : Only M s0 a0) : Only M s0 ((@State.retryWaiting a0)) := by
  unfold State.retryWaiting
  try dsimp only
  repeat' first
    | with_reducible assumption
    | exact Within.of rfl hM
    | with_reducible apply State.stepSeven_only
    | (with_reducible apply Only.foldl; intro _ _ _)
    | (simp only [Only.written]; apply Written.mk' <;> (first | exact .inr (Within.mem rfl hM) | exact .inl rfl | skip))
    | (with_reducible intro _)
    | split

theorem State.takeRecord_only {M : List Part} {s0 : State} (a0) (a1) (a2) (a3) (hM : Within [.flash, .lines, .heads, .loop, .ring, .cal] M) (h0 : Only M s0 a0) : Only M s0 ((@State.takeRecord a0 a1 a2 a3)) := by
  unfold State.takeRecord
  try dsimp only
  repeat' first
    | with_reducible assumption
    | exact Within.of rfl hM
    | with_reducible apply State.updPort_only
    | with_reducible apply State.restoreHead_only
    | with_reducible apply State.enterDirectory_only
    | with_reducible apply State.headDirty_only
    | with_reducible apply State.checkCalMark_only
    | (with_reducible apply Only.foldl; intro _ _ _)
    | (simp only [Only.written]; apply Written.mk' <;> (first | exact .inr (Within.mem rfl hM) | exact .inl rfl | skip))
    | (with_reducible intro _)
    | split

theorem State.withoutRecord_only {M : List Part} {s0 : State} (a0) (a1) (hM : Within [.heads] M) (h0 : Only M s0 a0) : Only M s0 ((@State.withoutRecord a0 a1)) := by
  unfold State.withoutRecord
  try dsimp only
  repeat' first
    | with_reducible assumption
    | exact Within.of rfl hM
    | with_reducible apply State.updPort_only
    | (with_reducible apply Only.foldl; intro _ _ _)
    | (with_reducible intro _)
    | split

theorem State.readTwoWire_only {M : List Part} {s0 : State} (a0) (a1) (hM : Within [.heads, .out] M) (h0 : Only M s0 a0) : Only M s0 ((@State.readTwoWire a0 a1)) := by
  unfold State.readTwoWire
  try dsimp only
  repeat' first
    | with_reducible assumption
    | exact Within.of rfl hM
    | with_reducible apply State.updPort_only
    | with_reducible apply State.drive_only
    | (with_reducible apply Only.foldl; intro _ _ _)
    | (with_reducible intro _)
    | split

theorem State.acceptEdge_only {M : List Part} {s0 : State} (a0) (a1) (a2) (a3) (hM : Within [.host, .pos, .out] M) (h0 : Only M s0 a0) : Only M s0 ((@State.acceptEdge a0 a1 a2 a3)) := by
  unfold State.acceptEdge
  try dsimp only
  repeat' first
    | with_reducible assumption
    | exact Within.of rfl hM
    | with_reducible apply State.interrupt_only
    | with_reducible apply State.updChan_only
    | (with_reducible apply Only.foldl; intro _ _ _)
    | (with_reducible intro _)
    | split

theorem State.checkOverspeed_only {M : List Part} {s0 : State} (a0) (hM : Within [.power, .host, .journal, .store, .render, .lines, .pos, .ring, .axes, .flt, .evt, .hb, .out, .free] M) (h0 : Only M s0 a0) : Only M s0 ((@State.checkOverspeed a0)) := by
  unfold State.checkOverspeed
  try dsimp only
  repeat' first
    | with_reducible assumption
    | exact Within.of rfl hM
    | with_reducible apply State.fault_only
    | with_reducible apply State.hbErr_only
    | (with_reducible apply Only.foldl; intro _ _ _)
    | (simp only [Only.written]; apply Written.mk' <;> (first | exact .inr (Within.mem rfl hM) | exact .inl rfl | skip))
    | (with_reducible intro _)
    | split

theorem State.checkHeadRate_only {M : List Part} {s0 : State} (a0) (hM : Within [.power, .host, .journal, .store, .render, .lines, .pos, .heads, .ring, .axes, .flt, .evt, .hb, .out, .free] M) (h0 : Only M s0 a0) : Only M s0 ((@State.checkHeadRate a0)) := by
  unfold State.checkHeadRate
  try dsimp only
  repeat' first
    | with_reducible assumption
    | exact Within.of rfl hM
    | with_reducible apply State.detect_only
    | with_reducible apply State.updPort_only
    | with_reducible apply State.hbErr_only
    | (with_reducible apply Only.foldl; intro _ _ _)
    | (with_reducible intro _)
    | split

theorem State.commitUnits_only {M : List Part} {s0 : State} (a0) (hM : Within [.pos] M) (h0 : Only M s0 a0) : Only M s0 ((@State.commitUnits a0)) := by
  unfold State.commitUnits
  try dsimp only
  repeat' first
    | with_reducible assumption
    | exact Within.of rfl hM
    | (with_reducible apply Only.foldl; intro _ _ _)
    | (simp only [Only.written]; apply Written.mk' <;> (first | exact .inr (Within.mem rfl hM) | exact .inl rfl | skip))
    | (with_reducible intro _)
    | split

theorem State.forgetUnits_only {M : List Part} {s0 : State} (a0) (hM : Within [.pos] M) (h0 : Only M s0 a0) : Only M s0 ((@State.forgetUnits a0)) := by
  unfold State.forgetUnits
  try dsimp only
  repeat' first
    | with_reducible assumption
    | exact Within.of rfl hM
    | (with_reducible apply Only.foldl; intro _ _ _)
    | (simp only [Only.written]; apply Written.mk' <;> (first | exact .inr (Within.mem rfl hM) | exact .inl rfl | skip))
    | (with_reducible intro _)
    | split

theorem State.predictAll_only {M : List Part} {s0 : State} (a0) (hM : Within [.pos] M) (h0 : Only M s0 a0) : Only M s0 ((@State.predictAll a0)) := by
  unfold State.predictAll
  try dsimp only
  repeat' first
    | with_reducible assumption
    | exact Within.of rfl hM
    | (with_reducible apply Only.foldl; intro _ _ _)
    | (simp only [Only.written]; apply Written.mk' <;> (first | exact .inr (Within.mem rfl hM) | exact .inl rfl | skip))
    | (with_reducible intro _)
    | split

theorem State.placeAtArm_only {M : List Part} {s0 : State} (a0) (hM : Within [.host, .journal, .store, .ring, .evt, .out] M) (h0 : Only M s0 a0) : Only M s0 ((@State.placeAtArm a0)) := by
  unfold State.placeAtArm
  try dsimp only
  repeat' first
    | with_reducible assumption
    | exact Within.of rfl hM
    | with_reducible apply State.spoil_only
    | with_reducible apply State.notThere_only
    | with_reducible apply State.lateStart_only
    | with_reducible apply State.notePlace_only
    | with_reducible apply State.placeFollow_only
    | with_reducible apply State.placeCompare_only
    | with_reducible apply State.placeReprint_only
    | (with_reducible apply Only.foldl; intro _ _ _)
    | (simp only [Only.written]; apply Written.mk' <;> (first | exact .inr (Within.mem rfl hM) | exact .inl rfl | skip))
    | (with_reducible intro _)
    | split

theorem State.arm_only {M : List Part} {s0 : State} (a0) (hM : Within [.power, .host, .journal, .store, .render, .lines, .pos, .heads, .ring, .evt, .out] M) (h0 : Only M s0 a0) : Only M s0 ((@State.arm a0)) := by
  unfold State.arm
  try dsimp only
  repeat' first
    | with_reducible assumption
    | exact Within.of rfl hM
    | with_reducible apply State.syncPlaceLocal_only
    | with_reducible apply State.placeAtArm_only
    | (with_reducible apply Only.foldl; intro _ _ _)
    | (simp only [Only.written]; apply Written.mk' <;> (first | exact .inr (Within.mem rfl hM) | exact .inl rfl | skip))
    | (with_reducible intro _)
    | split

theorem State.armByFirmware_only {M : List Part} {s0 : State} (a0) (hM : Within [.power, .host, .journal, .store, .render, .lines, .pos, .heads, .ring, .evt, .out] M) (h0 : Only M s0 a0) : Only M s0 ((@State.armByFirmware a0)) := by
  unfold State.armByFirmware
  try dsimp only
  repeat' first
    | with_reducible assumption
    | exact Within.of rfl hM
    | with_reducible apply State.arm_only
    | (with_reducible apply Only.foldl; intro _ _ _)
    | (simp only [Only.written]; apply Written.mk' <;> (first | exact .inr (Within.mem rfl hM) | exact .inl rfl | skip))
    | (with_reducible intro _)
    | split

theorem State.restartReference_only {M : List Part} {s0 : State} (a0) (hM : Within [.pos, .heads, .loop, .ring] M) (h0 : Only M s0 a0) : Only M s0 ((@State.restartReference a0)) := by
  unfold State.restartReference
  try dsimp only
  repeat' first
    | with_reducible assumption
    | exact Within.of rfl hM
    | (with_reducible apply Only.foldl; intro _ _ _)
    | (simp only [Only.written]; apply Written.mk' <;> (first | exact .inr (Within.mem rfl hM) | exact .inl rfl | skip))
    | (with_reducible intro _)
    | split

theorem State.applyEncoder_only {M : List Part} {s0 : State} (a0) (a1) (a2) (hM : Within [.pos, .heads, .loop, .ring, .axes] M) (h0 : Only M s0 a0) : Only M s0 ((@State.applyEncoder a0 a1 a2)) := by
  unfold State.applyEncoder
  try dsimp only
  repeat' first
    | with_reducible assumption
    | exact Within.of rfl hM
    | with_reducible apply State.updChan_only
    | with_reducible apply State.advance_only
    | with_reducible apply State.updAxis_only
    | with_reducible apply State.commitUnits_only
    | with_reducible apply State.forgetUnits_only
    | with_reducible apply State.restartReference_only
    | (with_reducible apply Only.foldl; intro _ _ _)
    | (with_reducible intro _)
    | split

theorem State.recomputeDelays_only {M : List Part} {s0 : State} (a0) (hM : Within [.lines] M) (h0 : Only M s0 a0) : Only M s0 ((@State.recomputeDelays a0)) := by
  unfold State.recomputeDelays
  try dsimp only
  repeat' first
    | with_reducible assumption
    | exact Within.of rfl hM
    | (with_reducible apply Only.foldl; intro _ _ _)
    | (simp only [Only.written]; apply Written.mk' <;> (first | exact .inr (Within.mem rfl hM) | exact .inl rfl | skip))
    | (with_reducible intro _)
    | split

theorem State.rosterChanged_only {M : List Part} {s0 : State} (a0) (hM : Within [.ring, .cal] M) (h0 : Only M s0 a0) : Only M s0 ((@State.rosterChanged a0)) := by
  unfold State.rosterChanged
  try dsimp only
  repeat' first
    | with_reducible assumption
    | exact Within.of rfl hM
    | with_reducible apply State.calDirty_only
    | (with_reducible apply Only.foldl; intro _ _ _)
    | (simp only [Only.written]; apply Written.mk' <;> (first | exact .inr (Within.mem rfl hM) | exact .inl rfl | skip))
    | (with_reducible intro _)
    | split

theorem State.ownEntry_only {M : List Part} {s0 : State} (a0) (a1) (hM : Within [.ring, .cal] M) (h0 : Only M s0 a0) : Only M s0 ((@State.ownEntry a0 a1)) := by
  unfold State.ownEntry
  try dsimp only
  repeat' first
    | with_reducible assumption
    | exact Within.of rfl hM
    | with_reducible apply State.rosterChanged_only
    | (with_reducible apply Only.foldl; intro _ _ _)
    | (simp only [Only.written]; apply Written.mk' <;> (first | exact .inr (Within.mem rfl hM) | exact .inl rfl | skip))
    | (with_reducible intro _)
    | split

theorem State.takePitch_only {M : List Part} {s0 : State} (a0) (a1) (hM : Within [.host, .journal, .pos, .ring, .cal, .out] M) (h0 : Only M s0 a0) : Only M s0 ((@State.takePitch a0 a1)) := by
  unfold State.takePitch
  try dsimp only
  repeat' first
    | with_reducible assumption
    | exact Within.of rfl hM
    | with_reducible apply State.updChan_only
    | with_reducible apply State.advance_only
    | with_reducible apply State.transact_only
    | with_reducible apply State.commitUnits_only
    | with_reducible apply State.ownEntry_only
    | (with_reducible apply Only.foldl; intro _ _ _)
    | (simp only [Only.written]; apply Written.mk' <;> (first | exact .inr (Within.mem rfl hM) | exact .inl rfl | skip))
    | (with_reducible intro _)
    | split

theorem State.pitchDelays_only {M : List Part} {s0 : State} (a0) (a1) (hM : Within [.lines] M) (h0 : Only M s0 a0) : Only M s0 ((@State.pitchDelays a0 a1)) := by
  unfold State.pitchDelays
  try dsimp only
  repeat' first
    | with_reducible assumption
    | exact Within.of rfl hM
    | with_reducible apply State.recomputeDelays_only
    | (with_reducible apply Only.foldl; intro _ _ _)
    | (simp only [Only.written]; apply Written.mk' <;> (first | exact .inr (Within.mem rfl hM) | exact .inl rfl | skip))
    | (with_reducible intro _)
    | split

theorem State.applyPitch_only {M : List Part} {s0 : State} (a0) (a1) (hM : Within [.host, .journal, .lines, .pos, .heads, .loop, .ring, .cal, .out] M) (h0 : Only M s0 a0) : Only M s0 ((@State.applyPitch a0 a1)) := by
  unfold State.applyPitch
  try dsimp only
  repeat' first
    | with_reducible assumption
    | exact Within.of rfl hM
    | with_reducible apply State.forgetUnits_only
    | with_reducible apply State.restartReference_only
    | with_reducible apply State.takePitch_only
    | with_reducible apply State.pitchDelays_only
    | (with_reducible apply Only.foldl; intro _ _ _)
    | (with_reducible intro _)
    | split

theorem State.hbApplyEncoder_only {M : List Part} {s0 : State} (a0) (hM : Within [.pos, .heads, .loop, .ring, .axes, .hb, .out] M) (h0 : Only M s0 a0) : Only M s0 ((@State.hbApplyEncoder a0)) := by
  unfold State.hbApplyEncoder
  try dsimp only
  repeat' first
    | with_reducible assumption
    | exact Within.of rfl hM
    | with_reducible apply State.hbErr_only
    | with_reducible apply State.applyEncoder_only
    | (with_reducible apply Only.foldl; intro _ _ _)
    | (with_reducible intro _)
    | split

theorem State.hbSetup_only {M : List Part} {s0 : State} (a0) (hM : Within [.host, .journal, .store, .render, .lines, .pos, .ring, .cal, .hb, .out] M) (h0 : Only M s0 a0) : Only M s0 ((@State.hbSetup a0)) := by
  unfold State.hbSetup
  try dsimp only
  repeat' first
    | with_reducible assumption
    | exact Within.of rfl hM
    | with_reducible apply State.updChan_only
    | with_reducible apply State.hbErr_only
    | with_reducible apply State.forgetUnits_only
    | with_reducible apply State.takePitch_only
    | with_reducible apply State.pitchDelays_only
    | (with_reducible apply Only.foldl; intro _ _ _)
    | (simp only [Only.written]; apply Written.mk' <;> (first | exact .inr (Within.mem rfl hM) | exact .inl rfl | skip))
    | (with_reducible intro _)
    | split

theorem State.hbTakeHeld_only {M : List Part} {s0 : State} (a0) (hM : Within [.host, .journal, .lines, .pos, .heads, .loop, .ring, .axes, .cal, .hb, .out] M) (h0 : Only M s0 a0) : Only M s0 ((@State.hbTakeHeld a0)) := by
  unfold State.hbTakeHeld
  try dsimp only
  repeat' first
    | with_reducible assumption
    | exact Within.of rfl hM
    | with_reducible apply State.applyPitch_only
    | with_reducible apply State.hbApplyEncoder_only
    | (with_reducible apply Only.foldl; intro _ _ _)
    | (simp only [Only.written]; apply Written.mk' <;> (first | exact .inr (Within.mem rfl hM) | exact .inl rfl | skip))
    | (with_reducible intro _)
    | split

theorem State.assignLanes_only {M : List Part} {s0 : State} (a0) (hM : Within [.codec] M) (h0 : Only M s0 a0) : Only M s0 ((@State.assignLanes a0)) := by
  unfold State.assignLanes
  try dsimp only
  repeat' first
    | with_reducible assumption
    | exact Within.of rfl hM
    | (with_reducible apply Only.foldl; intro _ _ _)
    | (simp only [Only.written]; apply Written.mk' <;> (first | exact .inr (Within.mem rfl hM) | exact .inl rfl | skip))
    | (with_reducible intro _)
    | split

theorem State.hbDiscard_only {M : List Part} {s0 : State} (a0) (hM : Within [.store, .codec, .hb] M) (h0 : Only M s0 a0) : Only M s0 ((@State.hbDiscard a0)) := by
  unfold State.hbDiscard
  try dsimp only
  repeat' first
    | with_reducible assumption
    | exact Within.of rfl hM
    | (with_reducible apply Only.foldl; intro _ _ _)
    | (simp only [Only.written]; apply Written.mk' <;> (first | exact .inr (Within.mem rfl hM) | exact .inl rfl | skip))
    | (with_reducible intro _)
    | split

theorem State.hbDisable_only {M : List Part} {s0 : State} (a0) (hM : Within [.host, .journal, .store, .codec, .render, .lines, .pos, .heads, .loop, .ring, .axes, .evt, .cal, .hb, .out] M) (h0 : Only M s0 a0) : Only M s0 ((@State.hbDisable a0)) := by
  unfold State.hbDisable
  try dsimp only
  repeat' first
    | with_reducible assumption
    | exact Within.of rfl hM
    | with_reducible apply State.disarmNow_only
    | with_reducible apply State.hbTakeHeld_only
    | with_reducible apply State.hbDiscard_only
    | (with_reducible apply Only.foldl; intro _ _ _)
    | (simp only [Only.written]; apply Written.mk' <;> (first | exact .inr (Within.mem rfl hM) | exact .inl rfl | skip))
    | (with_reducible intro _)
    | split

theorem State.hbReset_only {M : List Part} {s0 : State} (a0) (hM : Within [.host, .journal, .store, .codec, .render, .lines, .pos, .heads, .loop, .ring, .axes, .evt, .cal, .hb, .out] M) (h0 : Only M s0 a0) : Only M s0 ((@State.hbReset a0)) := by
  unfold State.hbReset
  try dsimp only
  repeat' first
    | with_reducible assumption
    | exact Within.of rfl hM
    | with_reducible apply State.disarmNow_only
    | with_reducible apply State.applyPitch_only
    | with_reducible apply State.hbApplyEncoder_only
    | with_reducible apply State.hbDiscard_only
    | (with_reducible apply Only.foldl; intro _ _ _)
    | (simp only [Only.written]; apply Written.mk' <;> (first | exact .inr (Within.mem rfl hM) | exact .inl rfl | skip))
    | (with_reducible intro _)
    | split

theorem State.closeDebug_only {M : List Part} {s0 : State} (a0) (hM : Within [.host, .evt, .out] M) (h0 : Only M s0 a0) : Only M s0 ((@State.closeDebug a0)) := by
  unfold State.closeDebug
  try dsimp only
  repeat' first
    | with_reducible assumption
    | exact Within.of rfl hM
    | with_reducible apply State.info_only
    | (with_reducible apply Only.foldl; intro _ _ _)
    | (simp only [Only.written]; apply Written.mk' <;> (first | exact .inr (Within.mem rfl hM) | exact .inl rfl | skip))
    | (with_reducible intro _)
    | split

theorem State.resetMailboxes_only {M : List Part} {s0 : State} (a0) (a1) (hM : Within [.host] M) (h0 : Only M s0 a0) : Only M s0 ((@State.resetMailboxes a0 a1)) := by
  unfold State.resetMailboxes
  try dsimp only
  repeat' first
    | with_reducible assumption
    | exact Within.of rfl hM
    | (with_reducible apply Only.foldl; intro _ _ _)
    | (simp only [Only.written]; apply Written.mk' <;> (first | exact .inr (Within.mem rfl hM) | exact .inl rfl | skip))
    | (with_reducible intro _)
    | split

theorem State.cancelDma_only {M : List Part} {s0 : State} (a0) (a1) (a2) (hM : Within [.host, .journal, .store, .codec, .render, .heads, .ring, .out] M) (h0 : Only M s0 a0) : Only M s0 ((@State.cancelDma a0 a1 a2)) := by
  unfold State.cancelDma
  try dsimp only
  repeat' first
    | with_reducible assumption
    | exact Within.of rfl hM
    | with_reducible apply State.finish_only
    | with_reducible apply State.releaseAs_only
    | (with_reducible apply Only.foldl; intro _ _ _)
    | (simp only [Only.written]; apply Written.mk' <;> (first | exact .inr (Within.mem rfl hM) | exact .inl rfl | skip))
    | (with_reducible intro _)
    | split

theorem State.hostInterfaceReset_only {M : List Part} {s0 : State} (a0) (a1) (hM : Within [.host, .journal, .store, .codec, .render, .lines, .pos, .heads, .loop, .ring, .axes, .flt, .evt, .cal, .hb, .out] M) (h0 : Only M s0 a0) : Only M s0 ((@State.hostInterfaceReset a0 a1)) := by
  unfold State.hostInterfaceReset
  try dsimp only
  repeat' first
    | with_reducible assumption
    | exact Within.of rfl hM
    | with_reducible apply State.info_only
    | with_reducible apply State.dropInjections_only
    | with_reducible apply State.hbReset_only
    | with_reducible apply State.closeDebug_only
    | with_reducible apply State.resetMailboxes_only
    | with_reducible apply State.cancelDma_only
    | (with_reducible apply Only.foldl; intro _ _ _)
    | (simp only [Only.written]; apply Written.mk' <;> (first | exact .inr (Within.mem rfl hM) | exact .inl rfl | skip))
    | (with_reducible intro _)
    | split

theorem State.releaseHolds_only {M : List Part} {s0 : State} (a0) (hM : Within [.lines, .loop] M) (h0 : Only M s0 a0) : Only M s0 ((@State.releaseHolds a0)) := by
  unfold State.releaseHolds
  try dsimp only
  repeat' first
    | with_reducible assumption
    | exact Within.of rfl hM
    | (with_reducible apply Only.foldl; intro _ _ _)
    | (simp only [Only.written]; apply Written.mk' <;> (first | exact .inr (Within.mem rfl hM) | exact .inl rfl | skip))
    | (with_reducible intro _)
    | split

theorem State.dropPrinting_only {M : List Part} {s0 : State} (a0) (hM : Within [.store, .render, .lines, .pos] M) (h0 : Only M s0 a0) : Only M s0 ((@State.dropPrinting a0)) := by
  unfold State.dropPrinting
  try dsimp only
  repeat' first
    | with_reducible assumption
    | exact Within.of rfl hM
    | (with_reducible apply Only.foldl; intro _ _ _)
    | (simp only [Only.written]; apply Written.mk' <;> (first | exact .inr (Within.mem rfl hM) | exact .inl rfl | skip))
    | (with_reducible intro _)
    | split

theorem State.closeEpisodes_only {M : List Part} {s0 : State} (a0) (hM : Within [.host, .evt, .out] M) (h0 : Only M s0 a0) : Only M s0 ((@State.closeEpisodes a0)) := by
  unfold State.closeEpisodes
  try dsimp only
  repeat' first
    | with_reducible assumption
    | exact Within.of rfl hM
    | with_reducible apply State.episodeClose_only
    | (with_reducible apply Only.foldl; intro _ _ _)
    | (with_reducible intro _)
    | split

theorem State.warmReset_only {M : List Part} {s0 : State} (a0) (a1) (hM : Within [.power, .host, .journal, .store, .codec, .render, .lines, .pos, .heads, .loop, .ring, .axes, .dmc, .flt, .evt, .cal, .out] M) (h0 : Only M s0 a0) : Only M s0 ((@State.warmReset a0 a1)) := by
  unfold State.warmReset
  try dsimp only
  repeat' first
    | with_reducible assumption
    | exact Within.of rfl hM
    | with_reducible apply State.info_only
    | with_reducible apply State.closeDebug_only
    | with_reducible apply State.resetMailboxes_only
    | with_reducible apply State.releaseHolds_only
    | with_reducible apply State.dropPrinting_only
    | with_reducible apply State.closeEpisodes_only
    | (with_reducible apply Only.foldl; intro _ _ _)
    | (simp only [Only.written]; apply Written.mk' <;> (first | exact .inr (Within.mem rfl hM) | exact .inl rfl | skip))
    | (with_reducible intro _)
    | split

theorem State.enterStandby_only {M : List Part} {s0 : State} (a0) (hM : Within [.power, .host, .journal, .codec, .render, .heads, .dmc] M) (h0 : Only M s0 a0) : Only M s0 ((@State.enterStandby a0)) := by
  unfold State.enterStandby
  try dsimp only
  repeat' first
    | with_reducible assumption
    | exact Within.of rfl hM
    | (with_reducible apply Only.foldl; intro _ _ _)
    | (simp only [Only.written]; apply Written.mk' <;> (first | exact .inr (Within.mem rfl hM) | exact .inl rfl | skip))
    | (with_reducible intro _)
    | split

theorem State.settleShutdown_only {M : List Part} {s0 : State} (a0) (hM : Within [.power, .host, .journal, .codec, .render, .heads, .dmc, .out] M) (h0 : Only M s0 a0) : Only M s0 ((@State.settleShutdown a0)) := by
  unfold State.settleShutdown
  try dsimp only
  repeat' first
    | with_reducible assumption
    | exact Within.of rfl hM
    | with_reducible apply State.finish_only
    | with_reducible apply State.enterStandby_only
    | (with_reducible apply Only.foldl; intro _ _ _)
    | (simp only [Only.written]; apply Written.mk' <;> (first | exact .inr (Within.mem rfl hM) | exact .inl rfl | skip))
    | (with_reducible intro _)
    | split

theorem State.derate_only {M : List Part} {s0 : State} (a0) (a1) (a2) (hM : Within [.host, .heads, .evt, .out] M) (h0 : Only M s0 a0) : Only M s0 ((@State.derate a0 a1 a2)) := by
  unfold State.derate
  try dsimp only
  repeat' first
    | with_reducible assumption
    | exact Within.of rfl hM
    | with_reducible apply State.info_only
    | with_reducible apply State.updPort_only
    | (with_reducible apply Only.foldl; intro _ _ _)
    | (with_reducible intro _)
    | split

theorem State.forecast_only {M : List Part} {s0 : State} (a0) (a1) (a2) (hM : Within [.host, .heads, .evt, .out] M) (h0 : Only M s0 a0) : Only M s0 ((@State.forecast a0 a1 a2)) := by
  unfold State.forecast
  try dsimp only
  repeat' first
    | with_reducible assumption
    | exact Within.of rfl hM
    | with_reducible apply State.updPort_only
    | with_reducible apply State.derate_only
    | (with_reducible apply Only.foldl; intro _ _ _)
    | (with_reducible intro _)
    | split

theorem State.settlePredictor_only {M : List Part} {s0 : State} (a0) (a1) (a2) (a3) (hM : Within [.host, .heads, .evt, .out] M) (h0 : Only M s0 a0) : Only M s0 ((@State.settlePredictor a0 a1 a2 a3)) := by
  unfold State.settlePredictor
  try dsimp only
  repeat' first
    | with_reducible assumption
    | exact Within.of rfl hM
    | with_reducible apply State.updPort_only
    | with_reducible apply State.forecast_only
    | (with_reducible apply Only.foldl; intro _ _ _)
    | (with_reducible intro _)
    | split

theorem State.settleMissing_only {M : List Part} {s0 : State} (a0) (hM : Within [.host, .heads, .evt, .out] M) (h0 : Only M s0 a0) : Only M s0 ((@State.settleMissing a0)) := by
  unfold State.settleMissing
  try dsimp only
  repeat' first
    | with_reducible assumption
    | exact Within.of rfl hM
    | with_reducible apply State.settlePredictor_only
    | (with_reducible apply Only.foldl; intro _ _ _)
    | (with_reducible intro _)
    | split

theorem State.tickPredictor_only {M : List Part} {s0 : State} (a0) (a1) (a2) (hM : Within [.host, .heads, .evt, .out] M) (h0 : Only M s0 a0) : Only M s0 ((@State.tickPredictor a0 a1 a2)) := by
  unfold State.tickPredictor
  try dsimp only
  repeat' first
    | with_reducible assumption
    | exact Within.of rfl hM
    | with_reducible apply State.updPort_only
    | with_reducible apply State.settlePredictor_only
    | (with_reducible apply Only.foldl; intro _ _ _)
    | (with_reducible intro _)
    | split

theorem State.thermalRecord_only {M : List Part} {s0 : State} (a0) (a1) (a2) (hM : Within [.power, .host, .journal, .store, .render, .lines, .pos, .ring, .axes, .flt, .evt, .out, .free] M) (h0 : Only M s0 a0) : Only M s0 ((@State.thermalRecord a0 a1 a2)) := by
  unfold State.thermalRecord
  try dsimp only
  repeat' first
    | with_reducible assumption
    | exact Within.of rfl hM
    | with_reducible apply State.latch_only
    | with_reducible apply State.classEffects_only
    | with_reducible apply State.detect_only
    | (with_reducible apply Only.foldl; intro _ _ _)
    | (simp only [Only.written]; apply Written.mk' <;> (first | exact .inr (Within.mem rfl hM) | exact .inl rfl | skip))
    | (with_reducible intro _)
    | split

theorem State.fenceThermal_only {M : List Part} {s0 : State} (a0) (a1) (hM : Within [.power, .host, .journal, .store, .render, .lines, .pos, .heads, .ring, .axes, .flt, .evt, .hb, .out, .free] M) (h0 : Only M s0 a0) : Only M s0 ((@State.fenceThermal a0 a1)) := by
  unfold State.fenceThermal
  try dsimp only
  repeat' first
    | with_reducible assumption
    | exact Within.of rfl hM
    | with_reducible apply State.updPort_only
    | with_reducible apply State.hbErr_only
    | with_reducible apply State.thermalRecord_only
    | (with_reducible apply Only.foldl; intro _ _ _)
    | (simp only [Only.written]; apply Written.mk' <;> (first | exact .inr (Within.mem rfl hM) | exact .inl rfl | skip))
    | (with_reducible intro _)
    | split

theorem State.judgeTemperature_only {M : List Part} {s0 : State} (a0) (a1) (hM : Within [.power, .host, .journal, .store, .render, .lines, .pos, .heads, .ring, .axes, .flt, .evt, .hb, .out, .free] M) (h0 : Only M s0 a0) : Only M s0 ((@State.judgeTemperature a0 a1)) := by
  unfold State.judgeTemperature
  try dsimp only
  repeat' first
    | with_reducible assumption
    | exact Within.of rfl hM
    | with_reducible apply State.updPort_only
    | with_reducible apply State.fencePort_only
    | with_reducible apply State.derate_only
    | with_reducible apply State.fenceThermal_only
    | (with_reducible apply Only.foldl; intro _ _ _)
    | (with_reducible intro _)
    | split

theorem State.govern_only {M : List Part} {s0 : State} (a0) (hM : Within [.host, .journal, .heads, .ring, .out] M) (h0 : Only M s0 a0) : Only M s0 ((@State.govern a0)) := by
  unfold State.govern
  try dsimp only
  repeat' first
    | with_reducible assumption
    | exact Within.of rfl hM
    | with_reducible apply State.publish_only
    | (with_reducible apply Only.foldl; intro _ _ _)
    | (with_reducible intro _)
    | split

theorem State.blankEntries_only {M : List Part} {s0 : State} (a0) (a1) (a2) (a3) (a4) (hM : Within [.loop] M) (h0 : Only M s0 a0) : Only M s0 ((@State.blankEntries a0 a1 a2 a3 a4)) := by
  unfold State.blankEntries
  try dsimp only
  repeat' first
    | with_reducible assumption
    | exact Within.of rfl hM
    | (with_reducible apply Only.foldl; intro _ _ _)
    | (simp only [Only.written]; apply Written.mk' <;> (first | exact .inr (Within.mem rfl hM) | exact .inl rfl | skip))
    | (with_reducible intro _)
    | split

theorem State.countDrops_only {M : List Part} {s0 : State} (a0) (a1) (a2) (a3) (hM : Within [.lines, .loop] M) (h0 : Only M s0 a0) : Only M s0 ((@State.countDrops a0 a1 a2 a3)) := by
  unfold State.countDrops
  try dsimp only
  repeat' first
    | with_reducible assumption
    | exact Within.of rfl hM
    | (with_reducible apply Only.foldl; intro _ _ _)
    | (simp only [Only.written]; apply Written.mk' <;> (first | exact .inr (Within.mem rfl hM) | exact .inl rfl | skip))
    | (with_reducible intro _)
    | split

theorem State.sendBlocks_only {M : List Part} {s0 : State} (a0) (a1) (a2) (a3) (a4) (a5) (hM : Within [.flt, .out] M) (h0 : Only M s0 a0) : Only M s0 ((@State.sendBlocks a0 a1 a2 a3 a4 a5)) := by
  unfold State.sendBlocks
  try dsimp only
  repeat' first
    | with_reducible assumption
    | exact Within.of rfl hM
    | with_reducible apply State.shotOut_only
    | with_reducible apply State.sendHead_only
    | with_reducible apply State.sendData_only
    | (with_reducible apply Only.foldl; intro _ _ _)
    | (with_reducible intro _)
    | split

theorem State.sendLine_only {M : List Part} {s0 : State} (a0) (a1) (a2) (a3) (hM : Within [.heads, .flt, .out] M) (h0 : Only M s0 a0) : Only M s0 ((@State.sendLine a0 a1 a2 a3)) := by
  unfold State.sendLine
  try dsimp only
  repeat' first
    | with_reducible assumption
    | exact Within.of rfl hM
    | with_reducible apply State.updPort_only
    | with_reducible apply State.sendData_only
    | with_reducible apply State.sendBlocks_only
    | (with_reducible apply Only.foldl; intro _ _ _)
    | (with_reducible intro _)
    | split

theorem State.rowLineFault_only {M : List Part} {s0 : State} (a0) (a1) (a2) (a3) (hM : Within [.power, .host, .journal, .store, .render, .lines, .pos, .loop, .ring, .axes, .flt, .evt, .hb, .out, .free] M) (h0 : Only M s0 a0) : Only M s0 ((@State.rowLineFault a0 a1 a2 a3)) := by
  unfold State.rowLineFault
  try dsimp only
  repeat' first
    | with_reducible assumption
    | exact Within.of rfl hM
    | with_reducible apply State.spoilLine_only
    | with_reducible apply State.detect_only
    | with_reducible apply State.hbErr_only
    | with_reducible apply State.blankEntries_only
    | (with_reducible apply Only.foldl; intro _ _ _)
    | (with_reducible intro _)
    | split

theorem State.pathShot_only {M : List Part} {s0 : State} (a0) (a1) (a2) (a3) (hM : Within [.power, .host, .journal, .store, .render, .lines, .pos, .loop, .ring, .axes, .flt, .evt, .hb, .out, .free] M) (h0 : Only M s0 a0) : Only M s0 ((@State.pathShot a0 a1 a2 a3).1) := by
  unfold State.pathShot
  try dsimp only
  repeat' first
    | with_reducible assumption
    | exact Within.of rfl hM
    | with_reducible apply State.rowLineFault_only
    | (with_reducible apply Only.foldl; intro _ _ _)
    | (with_reducible intro _)
    | split

theorem State.readOut_only {M : List Part} {s0 : State} (a0) (a1) (a2) (a3) (hM : Within [.flash, .power, .host, .journal, .store, .render, .lines, .pos, .heads, .loop, .ring, .axes, .flt, .evt, .hb, .out, .free] M) (h0 : Only M s0 a0) : Only M s0 ((@State.readOut a0 a1 a2 a3)) := by
  unfold State.readOut
  try dsimp only
  repeat' first
    | with_reducible assumption
    | exact Within.of rfl hM
    | with_reducible apply State.headDirty_only
    | with_reducible apply State.countDrops_only
    | with_reducible apply State.sendLine_only
    | with_reducible apply State.pathShot_only
    | (with_reducible apply Only.foldl; intro _ _ _)
    | (with_reducible intro _)
    | split

theorem State.sendReady_only {M : List Part} {s0 : State} (a0) (hM : Within [.flash, .power, .host, .journal, .store, .render, .lines, .pos, .heads, .loop, .ring, .axes, .flt, .evt, .hb, .out, .free] M) (h0 : Only M s0 a0) : Only M s0 ((@State.sendReady a0)) := by
  unfold State.sendReady
  try dsimp only
  repeat' first
    | with_reducible assumption
    | exact Within.of rfl hM
    | with_reducible apply State.readOut_only
    | (with_reducible apply Only.foldl; intro _ _ _)
    | (with_reducible intro _)
    | split

theorem State.hbIrq_only {M : List Part} {s0 : State} (a0) (hM : Within [.hb, .out] M) (h0 : Only M s0 a0) : Only M s0 ((@State.hbIrq a0)) := by
  unfold State.hbIrq
  try dsimp only
  repeat' first
    | with_reducible assumption
    | exact Within.of rfl hM
    | with_reducible apply State.emit_only
    | (with_reducible apply Only.foldl; intro _ _ _)
    | (simp only [Only.written]; apply Written.mk' <;> (first | exact .inr (Within.mem rfl hM) | exact .inl rfl | skip))
    | (with_reducible intro _)
    | split

theorem State.hbWrite_only {M : List Part} {s0 : State} (a0) (a1) (a2) (hM : Within [.hb, .out] M) (h0 : Only M s0 a0) : Only M s0 ((@State.hbWrite a0 a1 a2)) := by
  unfold State.hbWrite
  try dsimp only
  repeat' first
    | with_reducible assumption
    | exact Within.of rfl hM
    | with_reducible apply State.hbIrq_only
    | (with_reducible apply Only.foldl; intro _ _ _)
    | (simp only [Only.written]; apply Written.mk' <;> (first | exact .inr (Within.mem rfl hM) | exact .inl rfl | skip))
    | (with_reducible intro _)
    | split

theorem State.closeLegacy_only {M : List Part} {s0 : State} (a0) (hM : Within [.store, .codec, .hb] M) (h0 : Only M s0 a0) : Only M s0 ((@State.closeLegacy a0)) := by
  unfold State.closeLegacy
  try dsimp only
  repeat' first
    | with_reducible assumption
    | exact Within.of rfl hM
    | with_reducible apply State.assignLanes_only
    | (with_reducible apply Only.foldl; intro _ _ _)
    | (simp only [Only.written]; apply Written.mk' <;> (first | exact .inr (Within.mem rfl hM) | exact .inl rfl | skip))
    | (with_reducible intro _)
    | split

theorem State.placeLegacy_only {M : List Part} {s0 : State} (a0) (a1) (a2) (hM : Within [.store, .codec, .hb, .out] M) (h0 : Only M s0 a0) : Only M s0 ((@State.placeLegacy a0 a1 a2).1) := by
  unfold State.placeLegacy
  try dsimp only
  repeat' first
    | with_reducible assumption
    | exact Within.of rfl hM
    | with_reducible apply State.hbErr_only
    | with_reducible apply State.closeLegacy_only
    | (with_reducible apply Only.foldl; intro _ _ _)
    | (simp only [Only.written]; apply Written.mk' <;> (first | exact .inr (Within.mem rfl hM) | exact .inl rfl | skip))
    | (with_reducible intro _)
    | split

theorem State.placeWaiting_only {M : List Part} {s0 : State} (hM : Within [.store, .codec, .hb, .out] M) : ∀ (n : Nat) (s : State), Only M s0 s → Only M s0 (State.placeWaiting n s)
  | 0, _, h => h
  | n + 1, s, h => by
    unfold State.placeWaiting
    dsimp only
    split
    · split
      · exact h
      · refine State.placeWaiting_only hM n _ ?_
        repeat' first
          | with_reducible assumption
          | exact Within.of rfl hM
          | with_reducible apply State.placeLegacy_only
          | (simp only [Only.written]; apply Written.mk' <;> (first | exact .inr (Within.mem rfl hM) | exact .inl rfl | skip))
    · exact h

theorem State.placeLines_only {M : List Part} {s0 : State} (a0) (hM : Within [.store, .codec, .hb, .out] M) (h0 : Only M s0 a0) : Only M s0 ((@State.placeLines a0)) := by
  unfold State.placeLines
  try dsimp only
  repeat' first
    | with_reducible assumption
    | exact Within.of rfl hM
    | with_reducible apply State.placeWaiting_only
    | (with_reducible apply Only.foldl; intro _ _ _)
    | (with_reducible intro _)
    | split

theorem State.acceptLine_only {M : List Part} {s0 : State} (a0) (a1) (hM : Within [.store, .codec, .hb, .out] M) (h0 : Only M s0 a0) : Only M s0 ((@State.acceptLine a0 a1)) := by
  unfold State.acceptLine
  try dsimp only
  repeat' first
    | with_reducible assumption
    | exact Within.of rfl hM
    | with_reducible apply State.hbErr_only
    | with_reducible apply State.placeLines_only
    | (with_reducible apply Only.foldl; intro _ _ _)
    | (simp only [Only.written]; apply Written.mk' <;> (first | exact .inr (Within.mem rfl hM) | exact .inl rfl | skip))
    | (with_reducible intro _)
    | split

theorem State.appendRaster_only {M : List Part} {s0 : State} (hM : Within [.store, .codec, .hb, .out] M) : ∀ (n : Nat) (s : State), Only M s0 s → Only M s0 (State.appendRaster n s)
  | 0, _, h => h
  | n + 1, s, h => by
    unfold State.appendRaster
    dsimp only
    split
    · exact h
    · refine State.appendRaster_only hM n _ (State.acceptLine_only _ _ (Within.of rfl hM) ?_)
      (simp only [Only.written]; refine Written.mk' ?_ (by first | exact .inl rfl | exact .inr (Within.mem rfl hM)) (by first | exact .inl rfl | exact .inr (Within.mem rfl hM)) (by first | exact .inl rfl | exact .inr (Within.mem rfl hM)) (by first | exact .inl rfl | exact .inr (Within.mem rfl hM)) (by first | exact .inl rfl | exact .inr (Within.mem rfl hM)) (by first | exact .inl rfl | exact .inr (Within.mem rfl hM)) (by first | exact .inl rfl | exact .inr (Within.mem rfl hM)) (by first | exact .inl rfl | exact .inr (Within.mem rfl hM)) (by first | exact .inl rfl | exact .inr (Within.mem rfl hM)) (by first | exact .inl rfl | exact .inr (Within.mem rfl hM)) (by first | exact .inl rfl | exact .inr (Within.mem rfl hM)) (by first | exact .inl rfl | exact .inr (Within.mem rfl hM)) (by first | exact .inl rfl | exact .inr (Within.mem rfl hM)) (by first | exact .inl rfl | exact .inr (Within.mem rfl hM)) (by first | exact .inl rfl | exact .inr (Within.mem rfl hM)) (by first | exact .inl rfl | exact .inr (Within.mem rfl hM)) (by first | exact .inl rfl | exact .inr (Within.mem rfl hM)) (by first | exact .inl rfl | exact .inr (Within.mem rfl hM)) (by first | exact .inl rfl | exact .inr (Within.mem rfl hM)) (by first | exact .inl rfl | exact .inr (Within.mem rfl hM)) (by first | exact .inl rfl | exact .inr (Within.mem rfl hM)) (by first | exact .inl rfl | exact .inr (Within.mem rfl hM)) (by first | exact .inl rfl | exact .inr (Within.mem rfl hM)) (by first | exact .inl rfl | exact .inr (Within.mem rfl hM)); exact h)

theorem State.fifoWrite_only {M : List Part} {s0 : State} (a0) (a1) (hM : Within [.store, .codec, .hb, .out] M) (h0 : Only M s0 a0) : Only M s0 ((@State.fifoWrite a0 a1)) := by
  unfold State.fifoWrite
  try dsimp only
  repeat' first
    | with_reducible assumption
    | exact Within.of rfl hM
    | with_reducible apply State.hbIrq_only
    | with_reducible apply State.appendRaster_only
    | (with_reducible apply Only.foldl; intro _ _ _)
    | (simp only [Only.written]; apply Written.mk' <;> (first | exact .inr (Within.mem rfl hM) | exact .inl rfl | skip))
    | (with_reducible intro _)
    | split

theorem State.startLegacy_only {M : List Part} {s0 : State} (a0) (hM : Within [.store, .codec, .hb, .out] M) (h0 : Only M s0 a0) : Only M s0 ((@State.startLegacy a0)) := by
  unfold State.startLegacy
  try dsimp only
  repeat' first
    | with_reducible assumption
    | exact Within.of rfl hM
    | with_reducible apply State.placeLines_only
    | (with_reducible apply Only.foldl; intro _ _ _)
    | (simp only [Only.written]; apply Written.mk' <;> (first | exact .inr (Within.mem rfl hM) | exact .inl rfl | skip))
    | (with_reducible intro _)
    | split

theorem State.tryArm_only {M : List Part} {s0 : State} (a0) (hM : Within [.power, .host, .journal, .store, .codec, .render, .lines, .pos, .heads, .ring, .evt, .hb, .out] M) (h0 : Only M s0 a0) : Only M s0 ((@State.tryArm a0)) := by
  unfold State.tryArm
  try dsimp only
  repeat' first
    | with_reducible assumption
    | exact Within.of rfl hM
    | with_reducible apply State.armByFirmware_only
    | with_reducible apply State.hbIrq_only
    | with_reducible apply State.startLegacy_only
    | (with_reducible apply Only.foldl; intro _ _ _)
    | (simp only [Only.written]; apply Written.mk' <;> (first | exact .inr (Within.mem rfl hM) | exact .inl rfl | skip))
    | (with_reducible intro _)
    | split

theorem State.sendHalyard_only {M : List Part} {s0 : State} (a0) (a1) (a2) (a3) (hM : Within [.out] M) (h0 : Only M s0 a0) : Only M s0 ((@State.sendHalyard a0 a1 a2 a3)) := by
  unfold State.sendHalyard
  try dsimp only
  repeat' first
    | with_reducible assumption
    | exact Within.of rfl hM
    | with_reducible apply State.emit_only
    | (with_reducible apply Only.foldl; intro _ _ _)
    | (with_reducible intro _)
    | split

theorem State.adaptLanes_only {M : List Part} {s0 : State} (a0) (a1) (hM : Within [.ring, .free] M) (h0 : Only M s0 a0) : Only M s0 ((@State.adaptLanes a0 a1)) := by
  unfold State.adaptLanes
  try dsimp only
  repeat' first
    | with_reducible assumption
    | exact Within.of rfl hM
    | with_reducible apply State.updHalyard_only
    | (with_reducible apply Only.foldl; intro _ _ _)
    | (simp only [Only.written]; apply Written.mk' <;> (first | exact .inr (Within.mem rfl hM) | exact .inl rfl | skip))
    | (with_reducible intro _)
    | split

theorem State.chooseCtle_only {M : List Part} {s0 : State} (a0) (a1) (hM : Within [.ring, .free] M) (h0 : Only M s0 a0) : Only M s0 ((@State.chooseCtle a0 a1)) := by
  unfold State.chooseCtle
  try dsimp only
  repeat' first
    | with_reducible assumption
    | exact Within.of rfl hM
    | with_reducible apply State.updHalyard_only
    | (with_reducible apply Only.foldl; intro _ _ _)
    | (simp only [Only.written]; apply Written.mk' <;> (first | exact .inr (Within.mem rfl hM) | exact .inl rfl | skip))
    | (with_reducible intro _)
    | split

theorem State.retransmit_only {M : List Part} {s0 : State} (a0) (a1) (a2) (a3) (hM : Within [.out] M) (h0 : Only M s0 a0) : Only M s0 ((@State.retransmit a0 a1 a2 a3)) := by
  unfold State.retransmit
  try dsimp only
  repeat' first
    | with_reducible assumption
    | exact Within.of rfl hM
    | with_reducible apply State.sendHalyard_only
    | (with_reducible apply Only.foldl; intro _ _ _)
    | (with_reducible intro _)
    | split

theorem State.beginTraining_only {M : List Part} {s0 : State} (a0) (a1) (a2) (hM : Within [.ring, .out, .free] M) (h0 : Only M s0 a0) : Only M s0 ((@State.beginTraining a0 a1 a2)) := by
  unfold State.beginTraining
  try dsimp only
  repeat' first
    | with_reducible assumption
    | exact Within.of rfl hM
    | with_reducible apply State.freeBytes_only
    | with_reducible apply State.updHalyard_only
    | with_reducible apply State.sendHalyard_only
    | (with_reducible apply Only.foldl; intro _ _ _)
    | (with_reducible intro _)
    | split

theorem State.trainLinks_only {M : List Part} {s0 : State} (a0) (hM : Within [.ring, .out, .free] M) (h0 : Only M s0 a0) : Only M s0 ((@State.trainLinks a0)) := by
  unfold State.trainLinks
  try dsimp only
  repeat' first
    | with_reducible assumption
    | exact Within.of rfl hM
    | with_reducible apply State.beginTraining_only
    | (with_reducible apply Only.foldl; intro _ _ _)
    | (with_reducible intro _)
    | split

theorem State.askDelay_only {M : List Part} {s0 : State} (a0) (a1) (hM : Within [.ring, .out] M) (h0 : Only M s0 a0) : Only M s0 ((@State.askDelay a0 a1)) := by
  unfold State.askDelay
  try dsimp only
  repeat' first
    | with_reducible assumption
    | exact Within.of rfl hM
    | with_reducible apply State.updHalyard_only
    | with_reducible apply State.sendHalyard_only
    | (with_reducible apply Only.foldl; intro _ _ _)
    | (with_reducible intro _)
    | split

theorem State.endReset_only {M : List Part} {s0 : State} (a0) (a1) (a2) (a3) (hM : Within [.host, .journal, .out] M) (h0 : Only M s0 a0) : Only M s0 ((@State.endReset a0 a1 a2 a3)) := by
  unfold State.endReset
  try dsimp only
  repeat' first
    | with_reducible assumption
    | exact Within.of rfl hM
    | with_reducible apply State.finish_only
    | (with_reducible apply Only.foldl; intro _ _ _)
    | (with_reducible intro _)
    | split

theorem State.endHalyardReset_only {M : List Part} {s0 : State} (a0) (a1) (a2) (hM : Within [.host, .journal, .ring, .out] M) (h0 : Only M s0 a0) : Only M s0 ((@State.endHalyardReset a0 a1 a2)) := by
  unfold State.endHalyardReset
  try dsimp only
  repeat' first
    | with_reducible assumption
    | exact Within.of rfl hM
    | with_reducible apply State.updHalyard_only
    | with_reducible apply State.endReset_only
    | (with_reducible apply Only.foldl; intro _ _ _)
    | (with_reducible intro _)
    | split

theorem State.tryShadow_only {M : List Part} {s0 : State} (a0) (a1) (hM : Within [.ring] M) (h0 : Only M s0 a0) : Only M s0 ((@State.tryShadow a0 a1)) := by
  unfold State.tryShadow
  try dsimp only
  repeat' first
    | with_reducible assumption
    | exact Within.of rfl hM
    | with_reducible apply State.updHalyard_only
    | (with_reducible apply Only.foldl; intro _ _ _)
    | (with_reducible intro _)
    | split

theorem State.shadowStep_only {M : List Part} {s0 : State} (a0) (a1) (hM : Within [.host, .journal, .ring, .out] M) (h0 : Only M s0 a0) : Only M s0 ((@State.shadowStep a0 a1)) := by
  unfold State.shadowStep
  try dsimp only
  repeat' first
    | with_reducible assumption
    | exact Within.of rfl hM
    | with_reducible apply State.updHalyard_only
    | with_reducible apply State.endHalyardReset_only
    | (with_reducible apply Only.foldl; intro _ _ _)
    | (with_reducible intro _)
    | split

theorem State.countLoopback_only {M : List Part} {s0 : State} (a0) (a1) (hM : Within [.ring, .free] M) (h0 : Only M s0 a0) : Only M s0 ((@State.countLoopback a0 a1)) := by
  unfold State.countLoopback
  try dsimp only
  repeat' first
    | with_reducible assumption
    | exact Within.of rfl hM
    | with_reducible apply State.freeNat_only
    | with_reducible apply State.updHalyard_only
    | (with_reducible apply Only.foldl; intro _ _ _)
    | (with_reducible intro _)
    | split

theorem State.countHeadLoopbacks_only {M : List Part} {s0 : State} (a0) (hM : Within [.heads, .free] M) (h0 : Only M s0 a0) : Only M s0 ((@State.countHeadLoopbacks a0)) := by
  unfold State.countHeadLoopbacks
  try dsimp only
  repeat' first
    | with_reducible assumption
    | exact Within.of rfl hM
    | (with_reducible apply Only.foldl; intro _ _ _)
    | (simp only [Only.written]; apply Written.mk' <;> (first | exact .inr (Within.mem rfl hM) | exact .inl rfl | skip))
    | (with_reducible intro _)
    | split

theorem State.linkTick_only {M : List Part} {s0 : State} (a0) (a1) (hM : Within [.host, .journal, .ring, .out, .free] M) (h0 : Only M s0 a0) : Only M s0 ((@State.linkTick a0 a1)) := by
  unfold State.linkTick
  try dsimp only
  repeat' first
    | with_reducible assumption
    | exact Within.of rfl hM
    | with_reducible apply State.adaptLanes_only
    | with_reducible apply State.shadowStep_only
    | with_reducible apply State.countLoopback_only
    | (with_reducible apply Only.foldl; intro _ _ _)
    | (with_reducible intro _)
    | split

theorem State.reportSelf_only {M : List Part} {s0 : State} (a0) (hM : Within [.ring, .out] M) (h0 : Only M s0 a0) : Only M s0 ((@State.reportSelf a0)) := by
  unfold State.reportSelf
  try dsimp only
  repeat' first
    | with_reducible assumption
    | exact Within.of rfl hM
    | with_reducible apply State.tellManager_only
    | (with_reducible apply Only.foldl; intro _ _ _)
    | (simp only [Only.written]; apply Written.mk' <;> (first | exact .inr (Within.mem rfl hM) | exact .inl rfl | skip))
    | (with_reducible intro _)
    | split

theorem State.linksTick_only {M : List Part} {s0 : State} (a0) (hM : Within [.power, .host, .journal, .store, .render, .lines, .pos, .heads, .ring, .axes, .flt, .evt, .out, .free] M) (h0 : Only M s0 a0) : Only M s0 ((@State.linksTick a0)) := by
  unfold State.linksTick
  try dsimp only
  repeat' first
    | with_reducible assumption
    | exact Within.of rfl hM
    | with_reducible apply State.postV_only
    | with_reducible apply State.feedShots_only
    | with_reducible apply State.countHeadLoopbacks_only
    | with_reducible apply State.linkTick_only
    | with_reducible apply State.reportSelf_only
    | (with_reducible apply Only.foldl; intro _ _ _)
    | (with_reducible intro _)
    | split

theorem State.bothOut_only {M : List Part} {s0 : State} (a0) (hM : Within [.power, .host, .journal, .store, .render, .lines, .pos, .ring, .axes, .flt, .evt, .out, .free] M) (h0 : Only M s0 a0) : Only M s0 ((@State.bothOut a0)) := by
  unfold State.bothOut
  try dsimp only
  repeat' first
    | with_reducible assumption
    | exact Within.of rfl hM
    | with_reducible apply State.detect_only
    | (with_reducible apply Only.foldl; intro _ _ _)
    | (with_reducible intro _)
    | split

theorem State.linkFailed_only {M : List Part} {s0 : State} (a0) (a1) (a2) (hM : Within [.power, .host, .journal, .store, .render, .lines, .pos, .ring, .axes, .flt, .evt, .out, .free] M) (h0 : Only M s0 a0) : Only M s0 ((@State.linkFailed a0 a1 a2)) := by
  unfold State.linkFailed
  try dsimp only
  repeat' first
    | with_reducible assumption
    | exact Within.of rfl hM
    | with_reducible apply State.updHalyard_only
    | with_reducible apply State.detect_only
    | with_reducible apply State.unlessShadowed_only
    | with_reducible apply State.beginTraining_only
    | with_reducible apply State.bothOut_only
    | (with_reducible apply Only.foldl; intro _ _ _)
    | (with_reducible intro _)
    | split

theorem State.bootImage_only {M : List Part} {s0 : State} (a0) (hM : Within [.flash, .power] M) (h0 : Only M s0 a0) : Only M s0 ((@State.bootImage a0)) := by
  unfold State.bootImage
  try dsimp only
  repeat' first
    | with_reducible assumption
    | exact Within.of rfl hM
    | (with_reducible apply Only.foldl; intro _ _ _)
    | (simp only [Only.written]; apply Written.mk' <;> (first | exact .inr (Within.mem rfl hM) | exact .inl rfl | skip))
    | (with_reducible intro _)
    | split

theorem State.readConfigBlock_only {M : List Part} {s0 : State} (a0) (hM : Within [.host, .dmc, .evt, .out] M) (h0 : Only M s0 a0) : Only M s0 ((@State.readConfigBlock a0)) := by
  unfold State.readConfigBlock
  try dsimp only
  repeat' first
    | with_reducible assumption
    | exact Within.of rfl hM
    | with_reducible apply State.info_only
    | (with_reducible apply Only.foldl; intro _ _ _)
    | (simp only [Only.written]; apply Written.mk' <;> (first | exact .inr (Within.mem rfl hM) | exact .inl rfl | skip))
    | (with_reducible intro _)
    | split

theorem State.cold_only {M : List Part} {s0 : State} (a0) (hM : Within [.now, .flash, .power, .host, .journal, .store, .codec, .render, .lines, .pos, .heads, .loop, .ring, .axes, .axisCycle, .dmc, .flt, .evt, .cal, .hb] M) (h0 : Only M s0 a0) : Only M s0 ((@State.cold a0)) := by
  unfold State.cold
  try dsimp only
  repeat' first
    | with_reducible assumption
    | exact Within.of rfl hM
    | (with_reducible apply Only.foldl; intro _ _ _)
    | (simp only [Only.written]; apply Written.mk' <;> (first | exact .inr (Within.mem rfl hM) | exact .inl rfl | skip))
    | (with_reducible intro _)
    | split

theorem State.resumeEvents_only {M : List Part} {s0 : State} (a0) (hM : Within [.host, .evt, .out] M) (h0 : Only M s0 a0) : Only M s0 ((@State.resumeEvents a0)) := by
  unfold State.resumeEvents
  try dsimp only
  repeat' first
    | with_reducible assumption
    | exact Within.of rfl hM
    | with_reducible apply State.info_only
    | (with_reducible apply Only.foldl; intro _ _ _)
    | (simp only [Only.written]; apply Written.mk' <;> (first | exact .inr (Within.mem rfl hM) | exact .inl rfl | skip))
    | (with_reducible intro _)
    | split

theorem State.restoreCal_only {M : List Part} {s0 : State} (a0) (hM : Within [.host, .ring, .evt, .cal, .out] M) (h0 : Only M s0 a0) : Only M s0 ((@State.restoreCal a0)) := by
  unfold State.restoreCal
  try dsimp only
  repeat' first
    | with_reducible assumption
    | exact Within.of rfl hM
    | with_reducible apply State.info_only
    | with_reducible apply State.fuseDefaults_only
    | (with_reducible apply Only.foldl; intro _ _ _)
    | (simp only [Only.written]; apply Written.mk' <;> (first | exact .inr (Within.mem rfl hM) | exact .inl rfl | skip))
    | (with_reducible intro _)
    | split

theorem State.setCodes_only {M : List Part} {s0 : State} (a0) (a1) (a2) (hM : Within [.cal] M) (h0 : Only M s0 a0) : Only M s0 ((@State.setCodes a0 a1 a2)) := by
  unfold State.setCodes
  try dsimp only
  repeat' first
    | with_reducible assumption
    | exact Within.of rfl hM
    | with_reducible apply State.updElement_only
    | (with_reducible apply Only.foldl; intro _ _ _)
    | (with_reducible intro _)
    | split

theorem State.powerUpCal_only {M : List Part} {s0 : State} (a0) (a1) (a2) (hM : Within [.power, .host, .journal, .store, .render, .lines, .pos, .ring, .axes, .flt, .evt, .cal, .out, .free] M) (h0 : Only M s0 a0) : Only M s0 ((@State.powerUpCal a0 a1 a2)) := by
  unfold State.powerUpCal
  try dsimp only
  repeat' first
    | with_reducible assumption
    | exact Within.of rfl hM
    | with_reducible apply State.episodeOpen_only
    | with_reducible apply State.episodeClose_only
    | with_reducible apply State.detect_only
    | with_reducible apply State.fuseDefaults_only
    | with_reducible apply State.setCodes_only
    | (with_reducible apply Only.foldl; intro _ _ _)
    | (simp only [Only.written]; apply Written.mk' <;> (first | exact .inr (Within.mem rfl hM) | exact .inl rfl | skip))
    | (with_reducible intro _)
    | split

theorem State.sense_only {M : List Part} {s0 : State} (a0) (a1) (a2) (hM : Within [.power, .cal] M) (h0 : Only M s0 a0) : Only M s0 ((@State.sense a0 a1 a2)) := by
  unfold State.sense
  try dsimp only
  repeat' first
    | with_reducible assumption
    | exact Within.of rfl hM
    | (with_reducible apply Only.foldl; intro _ _ _)
    | (simp only [Only.written]; apply Written.mk' <;> (first | exact .inr (Within.mem rfl hM) | exact .inl rfl | skip))
    | (with_reducible intro _)
    | split

theorem State.trainedWith_only {M : List Part} {s0 : State} (a0) (a1) (a2) (hM : Within [.host, .store, .dmc, .evt, .cal, .out] M) (h0 : Only M s0 a0) : Only M s0 ((@State.trainedWith a0 a1 a2)) := by
  unfold State.trainedWith
  try dsimp only
  repeat' first
    | with_reducible assumption
    | exact Within.of rfl hM
    | with_reducible apply State.info_only
    | with_reducible apply State.setCodes_only
    | (with_reducible apply Only.foldl; intro _ _ _)
    | (simp only [Only.written]; apply Written.mk' <;> (first | exact .inr (Within.mem rfl hM) | exact .inl rfl | skip))
    | (with_reducible intro _)
    | split

theorem State.copyImage_only {M : List Part} {s0 : State} (a0) (hM : Within [.power, .dmc] M) (h0 : Only M s0 a0) : Only M s0 ((@State.copyImage a0)) := by
  unfold State.copyImage
  try dsimp only
  repeat' first
    | with_reducible assumption
    | exact Within.of rfl hM
    | (with_reducible apply Only.foldl; intro _ _ _)
    | (simp only [Only.written]; apply Written.mk' <;> (first | exact .inr (Within.mem rfl hM) | exact .inl rfl | skip))
    | (with_reducible intro _)
    | split

theorem State.reloadImage_only {M : List Part} {s0 : State} (a0) (hM : Within [.flash, .power, .dmc] M) (h0 : Only M s0 a0) : Only M s0 ((@State.reloadImage a0)) := by
  unfold State.reloadImage
  try dsimp only
  repeat' first
    | with_reducible assumption
    | exact Within.of rfl hM
    | with_reducible apply State.bootImage_only
    | with_reducible apply State.copyImage_only
    | (with_reducible apply Only.foldl; intro _ _ _)
    | (simp only [Only.written]; apply Written.mk' <;> (first | exact .inr (Within.mem rfl hM) | exact .inl rfl | skip))
    | (with_reducible intro _)
    | split

theorem State.cacheChanged_only {M : List Part} {s0 : State} (a0) (hM : Within [.cal] M) (h0 : Only M s0 a0) : Only M s0 ((@State.cacheChanged a0)) := by
  unfold State.cacheChanged
  try dsimp only
  repeat' first
    | with_reducible assumption
    | exact Within.of rfl hM
    | with_reducible apply State.calDirty_only
    | (with_reducible apply Only.foldl; intro _ _ _)
    | (with_reducible intro _)
    | split

theorem State.defaultSettings_only {M : List Part} {s0 : State} (a0) (hM : Within [.store, .render, .lines, .pos, .heads, .loop, .ring] M) (h0 : Only M s0 a0) : Only M s0 ((@State.defaultSettings a0)) := by
  unfold State.defaultSettings
  try dsimp only
  repeat' first
    | with_reducible assumption
    | exact Within.of rfl hM
    | (with_reducible apply Only.foldl; intro _ _ _)
    | (simp only [Only.written]; apply Written.mk' <;> (first | exact .inr (Within.mem rfl hM) | exact .inl rfl | skip))
    | (with_reducible intro _)
    | split

theorem State.dropPages_only {M : List Part} {s0 : State} (a0) (hM : Within [.host, .journal, .store, .out] M) (h0 : Only M s0 a0) : Only M s0 ((@State.dropPages a0)) := by
  unfold State.dropPages
  try dsimp only
  repeat' first
    | with_reducible assumption
    | exact Within.of rfl hM
    | with_reducible apply State.finish_only
    | (with_reducible apply Only.foldl; intro _ _ _)
    | (simp only [Only.written]; apply Written.mk' <;> (first | exact .inr (Within.mem rfl hM) | exact .inl rfl | skip))
    | (with_reducible intro _)
    | split

theorem State.changeMode_only {M : List Part} {s0 : State} (a0) (a1) (hM : Within [.power, .host, .journal, .store, .render, .lines, .pos, .heads, .loop, .ring, .evt, .cal, .hb, .out] M) (h0 : Only M s0 a0) : Only M s0 ((@State.changeMode a0 a1)) := by
  unfold State.changeMode
  try dsimp only
  repeat' first
    | with_reducible assumption
    | exact Within.of rfl hM
    | with_reducible apply State.info_only
    | with_reducible apply State.hbSetup_only
    | with_reducible apply State.defaultSettings_only
    | with_reducible apply State.dropPages_only
    | (with_reducible apply Only.foldl; intro _ _ _)
    | (simp only [Only.written]; apply Written.mk' <;> (first | exact .inr (Within.mem rfl hM) | exact .inl rfl | skip))
    | (with_reducible intro _)
    | split

theorem State.linkBack_only {M : List Part} {s0 : State} (a0) (hM : Within [.power, .host] M) (h0 : Only M s0 a0) : Only M s0 ((@State.linkBack a0)) := by
  unfold State.linkBack
  try dsimp only
  repeat' first
    | with_reducible assumption
    | exact Within.of rfl hM
    | (with_reducible apply Only.foldl; intro _ _ _)
    | (simp only [Only.written]; apply Written.mk' <;> (first | exact .inr (Within.mem rfl hM) | exact .inl rfl | skip))
    | (with_reducible intro _)
    | split

theorem State.cancelEntry_only {M : List Part} {s0 : State} (a0) (a1) (a2) (hM : Within [.host, .journal, .out] M) (h0 : Only M s0 a0) : Only M s0 ((@State.cancelEntry a0 a1 a2)) := by
  unfold State.cancelEntry
  try dsimp only
  repeat' first
    | with_reducible assumption
    | exact Within.of rfl hM
    | with_reducible apply State.finish_only
    | with_reducible apply State.finishAxis_only
    | (with_reducible apply Only.foldl; intro _ _ _)
    | (with_reducible intro _)
    | split

theorem State.resolveEntry_only {M : List Part} {s0 : State} (a0) (a1) (hM : Within [.power, .host, .journal, .store, .render, .ring, .out] M) (h0 : Only M s0 a0) : Only M s0 ((@State.resolveEntry a0 a1)) := by
  unfold State.resolveEntry
  try dsimp only
  repeat' first
    | with_reducible assumption
    | exact Within.of rfl hM
    | with_reducible apply State.finish_only
    | with_reducible apply State.releaseAs_only
    | with_reducible apply State.cancelEntry_only
    | (with_reducible apply Only.foldl; intro _ _ _)
    | (simp only [Only.written]; apply Written.mk' <;> (first | exact .inr (Within.mem rfl hM) | exact .inl rfl | skip))
    | (with_reducible intro _)
    | split

theorem State.recoverPages_only {M : List Part} {s0 : State} (a0) (hM : Within [.host, .journal, .store, .ring, .evt, .out] M) (h0 : Only M s0 a0) : Only M s0 ((@State.recoverPages a0)) := by
  unfold State.recoverPages
  try dsimp only
  repeat' first
    | with_reducible assumption
    | exact Within.of rfl hM
    | with_reducible apply State.spoilPrinting_only
    | (with_reducible apply Only.foldl; intro _ _ _)
    | (simp only [Only.written]; apply Written.mk' <;> (first | exact .inr (Within.mem rfl hM) | exact .inl rfl | skip))
    | (with_reducible intro _)
    | split

theorem State.resumePorts_only {M : List Part} {s0 : State} (a0) (hM : Within [.heads, .out] M) (h0 : Only M s0 a0) : Only M s0 ((@State.resumePorts a0)) := by
  unfold State.resumePorts
  try dsimp only
  repeat' first
    | with_reducible assumption
    | exact Within.of rfl hM
    | with_reducible apply State.updPort_only
    | with_reducible apply State.sendSync_only
    | with_reducible apply State.startBringup_only
    | (with_reducible apply Only.foldl; intro _ _ _)
    | (with_reducible intro _)
    | split

theorem State.hbRecover_only {M : List Part} {s0 : State} (a0) (hM : Within [.store, .codec, .hb, .out] M) (h0 : Only M s0 a0) : Only M s0 ((@State.hbRecover a0)) := by
  unfold State.hbRecover
  try dsimp only
  repeat' first
    | with_reducible assumption
    | exact Within.of rfl hM
    | with_reducible apply State.hbErr_only
    | with_reducible apply State.fifoWrite_only
    | (with_reducible apply Only.foldl; intro _ _ _)
    | (simp only [Only.written]; apply Written.mk' <;> (first | exact .inr (Within.mem rfl hM) | exact .inl rfl | skip))
    | (with_reducible intro _)
    | split

theorem State.linkLost_only {M : List Part} {s0 : State} (a0) (hM : Within [.host, .journal, .store, .codec, .render, .lines, .pos, .heads, .loop, .ring, .axes, .flt, .evt, .cal, .hb, .out] M) (h0 : Only M s0 a0) : Only M s0 ((@State.linkLost a0)) := by
  unfold State.linkLost
  try dsimp only
  repeat' first
    | with_reducible assumption
    | exact Within.of rfl hM
    | with_reducible apply State.hostInterfaceReset_only
    | (with_reducible apply Only.foldl; intro _ _ _)
    | (simp only [Only.written]; apply Written.mk' <;> (first | exact .inr (Within.mem rfl hM) | exact .inl rfl | skip))
    | (with_reducible intro _)
    | split

theorem State.updPennant_only {M : List Part} {s0 : State} (a0) (a1) (a2) (hM : Within [.render] M) (h0 : Only M s0 a0) : Only M s0 ((@State.updPennant a0 a1 a2)) := by
  unfold State.updPennant
  try dsimp only
  repeat' first
    | with_reducible assumption
    | exact Within.of rfl hM
    | (with_reducible apply Only.foldl; intro _ _ _)
    | (simp only [Only.written]; apply Written.mk' <;> (first | exact .inr (Within.mem rfl hM) | exact .inl rfl | skip))
    | (with_reducible intro _)
    | split

theorem State.updHoist_only {M : List Part} {s0 : State} (a0) (a1) (a2) (hM : Within [.render] M) (h0 : Only M s0 a0) : Only M s0 ((@State.updHoist a0 a1 a2)) := by
  unfold State.updHoist
  try dsimp only
  repeat' first
    | with_reducible assumption
    | exact Within.of rfl hM
    | (with_reducible apply Only.foldl; intro _ _ _)
    | (simp only [Only.written]; apply Written.mk' <;> (first | exact .inr (Within.mem rfl hM) | exact .inl rfl | skip))
    | (with_reducible intro _)
    | split

theorem State.queueFrames_only {M : List Part} {s0 : State} (a0) (a1) (a2) (a3) (hM : Within [.codec] M) (h0 : Only M s0 a0) : Only M s0 ((@State.queueFrames a0 a1 a2 a3)) := by
  unfold State.queueFrames
  try dsimp only
  repeat' first
    | with_reducible assumption
    | exact Within.of rfl hM
    | (with_reducible apply Only.foldl; intro _ _ _)
    | (simp only [Only.written]; apply Written.mk' <;> (first | exact .inr (Within.mem rfl hM) | exact .inl rfl | skip))
    | (with_reducible intro _)
    | split

theorem State.giveWork_only {M : List Part} {s0 : State} (a0) (a1) (a2) (a3) (a4) (hM : Within [.codec, .render] M) (h0 : Only M s0 a0) : Only M s0 ((@State.giveWork a0 a1 a2 a3 a4)) := by
  unfold State.giveWork
  try dsimp only
  repeat' first
    | with_reducible assumption
    | exact Within.of rfl hM
    | with_reducible apply State.updPennant_only
    | with_reducible apply State.queueFrames_only
    | (with_reducible apply Only.foldl; intro _ _ _)
    | (with_reducible intro _)
    | split

theorem State.dropAudits_only {M : List Part} {s0 : State} (a0) (a1) (hM : Within [.codec, .render] M) (h0 : Only M s0 a0) : Only M s0 ((@State.dropAudits a0 a1)) := by
  unfold State.dropAudits
  try dsimp only
  repeat' first
    | with_reducible assumption
    | exact Within.of rfl hM
    | (with_reducible apply Only.foldl; intro _ _ _)
    | (simp only [Only.written]; apply Written.mk' <;> (first | exact .inr (Within.mem rfl hM) | exact .inl rfl | skip))
    | (with_reducible intro _)
    | split

theorem State.freePennant_only {M : List Part} {s0 : State} (a0) (a1) (hM : Within [.codec, .render] M) (h0 : Only M s0 a0) : Only M s0 ((@State.freePennant a0 a1)) := by
  unfold State.freePennant
  try dsimp only
  repeat' first
    | with_reducible assumption
    | exact Within.of rfl hM
    | with_reducible apply State.dropAudits_only
    | (with_reducible apply Only.foldl; intro _ _ _)
    | (with_reducible intro _)
    | split

theorem State.giveReplay_only {M : List Part} {s0 : State} (a0) (a1) (a2) (a3) (hM : Within [.codec, .render] M) (h0 : Only M s0 a0) : Only M s0 ((@State.giveReplay a0 a1 a2 a3)) := by
  unfold State.giveReplay
  try dsimp only
  repeat' first
    | with_reducible assumption
    | exact Within.of rfl hM
    | with_reducible apply State.giveWork_only
    | with_reducible apply State.freePennant_only
    | (with_reducible apply Only.foldl; intro _ _ _)
    | (with_reducible intro _)
    | split

theorem State.placeOrphans_only {M : List Part} {s0 : State} (hM : Within [.codec, .render] M) : ∀ (n : Nat) (s : State), Only M s0 s → Only M s0 (State.placeOrphans n s)
  | 0, _, h => h
  | n + 1, s, h => by
    unfold State.placeOrphans
    dsimp only
    split
    · split
      · exact h
      · refine State.placeOrphans_only hM n _ (State.giveReplay_only _ _ _ _ (Within.of rfl hM) ?_)
        repeat' first
          | with_reducible assumption
          | exact Within.of rfl hM
          | with_reducible apply State.updPennant_only
          | with_reducible apply State.updHoist_only
          | split
    · exact h

theorem State.orphans_only {M : List Part} {s0 : State} (a0) (hM : Within [.codec, .render] M) (h0 : Only M s0 a0) : Only M s0 ((@State.orphans a0)) := by
  unfold State.orphans
  try dsimp only
  repeat' first
    | with_reducible assumption
    | exact Within.of rfl hM
    | with_reducible apply State.placeOrphans_only
    | (with_reducible apply Only.foldl; intro _ _ _)
    | (with_reducible intro _)
    | split

theorem State.resplit_only {M : List Part} {s0 : State} (a0) (hM : Within [.power, .host, .journal, .store, .render, .lines, .pos, .ring, .axes, .flt, .evt, .out, .free] M) (h0 : Only M s0 a0) : Only M s0 ((@State.resplit a0)) := by
  unfold State.resplit
  try dsimp only
  repeat' first
    | with_reducible assumption
    | exact Within.of rfl hM
    | with_reducible apply State.fault_only
    | (with_reducible apply Only.foldl; intro _ _ _)
    | (simp only [Only.written]; apply Written.mk' <;> (first | exact .inr (Within.mem rfl hM) | exact .inl rfl | skip))
    | (with_reducible intro _)
    | split

theorem State.takeover_only {M : List Part} {s0 : State} (a0) (a1) (hM : Within [.power, .host, .journal, .store, .codec, .render, .lines, .pos, .ring, .axes, .flt, .evt, .out, .free] M) (h0 : Only M s0 a0) : Only M s0 ((@State.takeover a0 a1)) := by
  unfold State.takeover
  try dsimp only
  repeat' first
    | with_reducible assumption
    | exact Within.of rfl hM
    | with_reducible apply State.updPennant_only
    | with_reducible apply State.freePennant_only
    | with_reducible apply State.resplit_only
    | (with_reducible apply Only.foldl; intro _ _ _)
    | (simp only [Only.written]; apply Written.mk' <;> (first | exact .inr (Within.mem rfl hM) | exact .inl rfl | skip))
    | (with_reducible intro _)
    | split

theorem State.replay_only {M : List Part} {s0 : State} (a0) (a1) (a2) (hM : Within [.codec, .render] M) (h0 : Only M s0 a0) : Only M s0 ((@State.replay a0 a1 a2)) := by
  unfold State.replay
  try dsimp only
  repeat' first
    | with_reducible assumption
    | exact Within.of rfl hM
    | with_reducible apply State.updHoist_only
    | with_reducible apply State.giveReplay_only
    | with_reducible apply State.orphans_only
    | (with_reducible apply Only.foldl; intro _ _ _)
    | (with_reducible intro _)
    | split

theorem State.loseCopies_only {M : List Part} {s0 : State} (a0) (a1) (hM : Within [.codec, .render] M) (h0 : Only M s0 a0) : Only M s0 ((@State.loseCopies a0 a1)) := by
  unfold State.loseCopies
  try dsimp only
  repeat' first
    | with_reducible assumption
    | exact Within.of rfl hM
    | with_reducible apply State.queueFrames_only
    | (with_reducible apply Only.foldl; intro _ _ _)
    | (simp only [Only.written]; apply Written.mk' <;> (first | exact .inr (Within.mem rfl hM) | exact .inl rfl | skip))
    | (with_reducible intro _)
    | split

theorem State.fencePennant_only {M : List Part} {s0 : State} (a0) (a1) (a2) (hM : Within [.power, .host, .journal, .store, .codec, .render, .lines, .pos, .ring, .axes, .flt, .evt, .out, .free] M) (h0 : Only M s0 a0) : Only M s0 ((@State.fencePennant a0 a1 a2)) := by
  unfold State.fencePennant
  try dsimp only
  repeat' first
    | with_reducible assumption
    | exact Within.of rfl hM
    | with_reducible apply State.endReset_only
    | with_reducible apply State.updPennant_only
    | with_reducible apply State.freePennant_only
    | with_reducible apply State.takeover_only
    | with_reducible apply State.replay_only
    | with_reducible apply State.loseCopies_only
    | (with_reducible apply Only.foldl; intro _ _ _)
    | (with_reducible intro _)
    | split

theorem State.pennantFailedAs_only {M : List Part} {s0 : State} (a0) (a1) (hM : Within [.power, .host, .journal, .store, .codec, .render, .lines, .pos, .ring, .axes, .flt, .evt, .out, .free] M) (h0 : Only M s0 a0) : Only M s0 ((@State.pennantFailedAs a0 a1)) := by
  unfold State.pennantFailedAs
  try dsimp only
  repeat' first
    | with_reducible assumption
    | exact Within.of rfl hM
    | with_reducible apply State.detect_only
    | with_reducible apply State.unlessShadowed_only
    | with_reducible apply State.fencePennant_only
    | (with_reducible apply Only.foldl; intro _ _ _)
    | (with_reducible intro _)
    | split

theorem State.pennantFailed_only {M : List Part} {s0 : State} (a0) (a1) (a2) (hM : Within [.power, .host, .journal, .store, .codec, .render, .lines, .pos, .ring, .axes, .flt, .evt, .out, .free] M) (h0 : Only M s0 a0) : Only M s0 ((@State.pennantFailed a0 a1 a2)) := by
  unfold State.pennantFailed
  try dsimp only
  repeat' first
    | with_reducible assumption
    | exact Within.of rfl hM
    | with_reducible apply State.pennantFailedAs_only
    | (with_reducible apply Only.foldl; intro _ _ _)
    | (with_reducible intro _)
    | split

theorem State.lateSources_only {M : List Part} {s0 : State} (a0) (a1) (hM : Within [.codec, .render] M) (h0 : Only M s0 a0) : Only M s0 ((@State.lateSources a0 a1)) := by
  unfold State.lateSources
  try dsimp only
  repeat' first
    | with_reducible assumption
    | exact Within.of rfl hM
    | with_reducible apply State.queueFrames_only
    | (with_reducible apply Only.foldl; intro _ _ _)
    | (simp only [Only.written]; apply Written.mk' <;> (first | exact .inr (Within.mem rfl hM) | exact .inl rfl | skip))
    | (with_reducible intro _)
    | split

theorem State.writeSlices_only {M : List Part} {s0 : State} (a0) (a1) (hM : Within [.codec, .render] M) (h0 : Only M s0 a0) : Only M s0 ((@State.writeSlices a0 a1)) := by
  unfold State.writeSlices
  try dsimp only
  repeat' first
    | with_reducible assumption
    | exact Within.of rfl hM
    | with_reducible apply State.lateSources_only
    | (with_reducible apply Only.foldl; intro _ _ _)
    | (simp only [Only.written]; apply Written.mk' <;> (first | exact .inr (Within.mem rfl hM) | exact .inl rfl | skip))
    | (with_reducible intro _)
    | split

theorem State.inflowSlices_only {M : List Part} {s0 : State} (a0) (hM : Within [.codec, .render] M) (h0 : Only M s0 a0) : Only M s0 ((@State.inflowSlices a0)) := by
  unfold State.inflowSlices
  try dsimp only
  repeat' first
    | with_reducible assumption
    | exact Within.of rfl hM
    | with_reducible apply State.writeSlices_only
    | (with_reducible apply Only.foldl; intro _ _ _)
    | (with_reducible intro _)
    | split

theorem State.freeSlices_only {M : List Part} {s0 : State} (a0) (a1) (hM : Within [.render] M) (h0 : Only M s0 a0) : Only M s0 ((@State.freeSlices a0 a1)) := by
  unfold State.freeSlices
  try dsimp only
  repeat' first
    | with_reducible assumption
    | exact Within.of rfl hM
    | (with_reducible apply Only.foldl; intro _ _ _)
    | (simp only [Only.written]; apply Written.mk' <;> (first | exact .inr (Within.mem rfl hM) | exact .inl rfl | skip))
    | (with_reducible intro _)
    | split

theorem State.mapAudit_only {M : List Part} {s0 : State} (a0) (a1) (a2) (hM : Within [.render] M) (h0 : Only M s0 a0) : Only M s0 ((@State.mapAudit a0 a1 a2)) := by
  unfold State.mapAudit
  try dsimp only
  repeat' first
    | with_reducible assumption
    | exact Within.of rfl hM
    | (with_reducible apply Only.foldl; intro _ _ _)
    | (simp only [Only.written]; apply Written.mk' <;> (first | exact .inr (Within.mem rfl hM) | exact .inl rfl | skip))
    | (with_reducible intro _)
    | split

theorem State.endAudit_only {M : List Part} {s0 : State} (a0) (a1) (hM : Within [.codec, .render] M) (h0 : Only M s0 a0) : Only M s0 ((@State.endAudit a0 a1)) := by
  unfold State.endAudit
  try dsimp only
  repeat' first
    | with_reducible assumption
    | exact Within.of rfl hM
    | with_reducible apply State.dropAudits_only
    | (with_reducible apply Only.foldl; intro _ _ _)
    | (with_reducible intro _)
    | split

theorem State.auditThird_only {M : List Part} {s0 : State} (a0) (a1) (a2) (hM : Within [.codec, .render] M) (h0 : Only M s0 a0) : Only M s0 ((@State.auditThird a0 a1 a2)) := by
  unfold State.auditThird
  try dsimp only
  repeat' first
    | with_reducible assumption
    | exact Within.of rfl hM
    | with_reducible apply State.giveWork_only
    | with_reducible apply State.mapAudit_only
    | (with_reducible apply Only.foldl; intro _ _ _)
    | (with_reducible intro _)
    | split

theorem State.judgeAudit_only {M : List Part} {s0 : State} (a0) (a1) (hM : Within [.power, .host, .journal, .store, .codec, .render, .lines, .pos, .ring, .axes, .flt, .evt, .out, .free] M) (h0 : Only M s0 a0) : Only M s0 ((@State.judgeAudit a0 a1)) := by
  unfold State.judgeAudit
  try dsimp only
  repeat' first
    | with_reducible assumption
    | exact Within.of rfl hM
    | with_reducible apply State.updHoist_only
    | with_reducible apply State.replay_only
    | with_reducible apply State.pennantFailed_only
    | with_reducible apply State.endAudit_only
    | with_reducible apply State.auditThird_only
    | (with_reducible apply Only.foldl; intro _ _ _)
    | (with_reducible intro _)
    | split

theorem State.judgeAudits_only {M : List Part} {s0 : State} (a0) (hM : Within [.power, .host, .journal, .store, .codec, .render, .lines, .pos, .ring, .axes, .flt, .evt, .out, .free] M) (h0 : Only M s0 a0) : Only M s0 ((@State.judgeAudits a0)) := by
  unfold State.judgeAudits
  try dsimp only
  repeat' first
    | with_reducible assumption
    | exact Within.of rfl hM
    | with_reducible apply State.judgeAudit_only
    | (with_reducible apply Only.foldl; intro _ _ _)
    | (with_reducible intro _)
    | split

theorem State.startAudit_only {M : List Part} {s0 : State} (a0) (a1) (hM : Within [.codec, .render] M) (h0 : Only M s0 a0) : Only M s0 ((@State.startAudit a0 a1)) := by
  unfold State.startAudit
  try dsimp only
  repeat' first
    | with_reducible assumption
    | exact Within.of rfl hM
    | with_reducible apply State.giveWork_only
    | (with_reducible apply Only.foldl; intro _ _ _)
    | (simp only [Only.written]; apply Written.mk' <;> (first | exact .inr (Within.mem rfl hM) | exact .inl rfl | skip))
    | (with_reducible intro _)
    | split

theorem State.pennantMismatchAs_only {M : List Part} {s0 : State} (a0) (a1) (hM : Within [.power, .host, .journal, .store, .render, .lines, .pos, .ring, .axes, .flt, .evt, .out, .free] M) (h0 : Only M s0 a0) : Only M s0 ((@State.pennantMismatchAs a0 a1)) := by
  unfold State.pennantMismatchAs
  try dsimp only
  repeat' first
    | with_reducible assumption
    | exact Within.of rfl hM
    | with_reducible apply State.detect_only
    | with_reducible apply State.unlessShadowed_only
    | with_reducible apply State.endReset_only
    | with_reducible apply State.updPennant_only
    | (with_reducible apply Only.foldl; intro _ _ _)
    | (with_reducible intro _)
    | split

theorem State.pennantMismatch_only {M : List Part} {s0 : State} (a0) (a1) (hM : Within [.power, .host, .journal, .store, .render, .lines, .pos, .ring, .axes, .flt, .evt, .out, .free] M) (h0 : Only M s0 a0) : Only M s0 ((@State.pennantMismatch a0 a1)) := by
  unfold State.pennantMismatch
  try dsimp only
  repeat' first
    | with_reducible assumption
    | exact Within.of rfl hM
    | with_reducible apply State.pennantMismatchAs_only
    | (with_reducible apply Only.foldl; intro _ _ _)
    | (with_reducible intro _)
    | split

theorem State.judgeWord_only {M : List Part} {s0 : State} (a0) (a1) (a2) (hM : Within [.power, .host, .journal, .store, .render, .lines, .pos, .ring, .axes, .flt, .evt, .out, .free] M) (h1 : Only M s0 a1) : Only M s0 ((@State.judgeWord a0 a1 a2)) := by
  unfold State.judgeWord
  try dsimp only
  repeat' first
    | with_reducible assumption
    | exact Within.of rfl hM
    | with_reducible apply State.updPennant_only
    | with_reducible apply State.pennantMismatch_only
    | (with_reducible apply Only.foldl; intro _ _ _)
    | (with_reducible intro _)
    | split

theorem State.judgeShadow_only {M : List Part} {s0 : State} (a0) (a1) (hM : Within [.power, .host, .journal, .store, .render, .lines, .pos, .ring, .axes, .flt, .evt, .out, .free] M) (h0 : Only M s0 a0) : Only M s0 ((@State.judgeShadow a0 a1)) := by
  unfold State.judgeShadow
  try dsimp only
  repeat' first
    | with_reducible assumption
    | exact Within.of rfl hM
    | with_reducible apply State.judgeWord_only
    | (with_reducible apply Only.foldl; intro _ _ _)
    | (with_reducible intro _)
    | split

theorem State.judgeShadows_only {M : List Part} {s0 : State} (a0) (hM : Within [.power, .host, .journal, .store, .render, .lines, .pos, .ring, .axes, .flt, .evt, .out, .free] M) (h0 : Only M s0 a0) : Only M s0 ((@State.judgeShadows a0)) := by
  unfold State.judgeShadows
  try dsimp only
  repeat' first
    | with_reducible assumption
    | exact Within.of rfl hM
    | with_reducible apply State.judgeShadow_only
    | (with_reducible apply Only.foldl; intro _ _ _)
    | (with_reducible intro _)
    | split

theorem State.startShadowWork_only {M : List Part} {s0 : State} (a0) (a1) (hM : Within [.codec, .render, .free] M) (h0 : Only M s0 a0) : Only M s0 ((@State.startShadowWork a0 a1)) := by
  unfold State.startShadowWork
  try dsimp only
  repeat' first
    | with_reducible assumption
    | exact Within.of rfl hM
    | with_reducible apply State.giveWork_only
    | (with_reducible apply Only.foldl; intro _ _ _)
    | (simp only [Only.written]; apply Written.mk' <;> (first | exact .inr (Within.mem rfl hM) | exact .inl rfl | skip))
    | (with_reducible intro _)
    | split

theorem State.spoilPending_only {M : List Part} {s0 : State} (a0) (a1) (hM : Within [.host, .journal, .store, .ring, .evt, .out] M) (h0 : Only M s0 a0) : Only M s0 ((@State.spoilPending a0 a1)) := by
  unfold State.spoilPending
  try dsimp only
  repeat' first
    | with_reducible assumption
    | exact Within.of rfl hM
    | with_reducible apply State.spoilAt_only
    | (with_reducible apply Only.foldl; intro _ _ _)
    | (with_reducible intro _)
    | split

theorem State.openHoist_only {M : List Part} {s0 : State} (a0) (a1) (hM : Within [.host, .journal, .store, .codec, .render, .loop, .ring, .evt, .out] M) (h0 : Only M s0 a0) : Only M s0 ((@State.openHoist a0 a1)) := by
  unfold State.openHoist
  try dsimp only
  repeat' first
    | with_reducible assumption
    | exact Within.of rfl hM
    | with_reducible apply State.writeSlices_only
    | with_reducible apply State.freeSlices_only
    | with_reducible apply State.spoilPending_only
    | (with_reducible apply Only.foldl; intro _ _ _)
    | (simp only [Only.written]; apply Written.mk' <;> (first | exact .inr (Within.mem rfl hM) | exact .inl rfl | skip))
    | (with_reducible intro _)
    | split

theorem State.commitStripe_only {M : List Part} {s0 : State} (a0) (a1) (a2) (hM : Within [.render] M) (h0 : Only M s0 a0) : Only M s0 ((@State.commitStripe a0 a1 a2)) := by
  unfold State.commitStripe
  try dsimp only
  repeat' first
    | with_reducible assumption
    | exact Within.of rfl hM
    | with_reducible apply State.updHoist_only
    | (with_reducible apply Only.foldl; intro _ _ _)
    | (with_reducible intro _)
    | split

theorem State.badWord_only {M : List Part} {s0 : State} (a0) (a1) (a2) (a3) (hM : Within [.power, .host, .journal, .store, .render, .lines, .pos, .loop, .ring, .axes, .flt, .evt, .hb, .out, .free] M) (h0 : Only M s0 a0) : Only M s0 ((@State.badWord a0 a1 a2 a3)) := by
  unfold State.badWord
  try dsimp only
  repeat' first
    | with_reducible assumption
    | exact Within.of rfl hM
    | with_reducible apply State.spoilLine_only
    | with_reducible apply State.fault_only
    | with_reducible apply State.hbErr_only
    | with_reducible apply State.blankEntries_only
    | (with_reducible apply Only.foldl; intro _ _ _)
    | (simp only [Only.written]; apply Written.mk' <;> (first | exact .inr (Within.mem rfl hM) | exact .inl rfl | skip))
    | (with_reducible intro _)
    | split

theorem State.delayShot_only {M : List Part} {s0 : State} (a0) (a1) (a2) (hM : Within [.power, .host, .journal, .store, .render, .lines, .pos, .loop, .ring, .axes, .flt, .evt, .hb, .out, .free] M) (h0 : Only M s0 a0) : Only M s0 ((@State.delayShot a0 a1 a2)) := by
  unfold State.delayShot
  try dsimp only
  repeat' first
    | with_reducible assumption
    | exact Within.of rfl hM
    | with_reducible apply State.fault_only
    | with_reducible apply State.badWord_only
    | (with_reducible apply Only.foldl; intro _ _ _)
    | (with_reducible intro _)
    | split

theorem State.replayBand_only {M : List Part} {s0 : State} (a0) (a1) (a2) (hM : Within [.codec, .render] M) (h0 : Only M s0 a0) : Only M s0 ((@State.replayBand a0 a1 a2)) := by
  unfold State.replayBand
  try dsimp only
  repeat' first
    | with_reducible assumption
    | exact Within.of rfl hM
    | with_reducible apply State.updHoist_only
    | with_reducible apply State.giveReplay_only
    | with_reducible apply State.orphans_only
    | (with_reducible apply Only.foldl; intro _ _ _)
    | (with_reducible intro _)
    | split

theorem State.spoilBlank_only {M : List Part} {s0 : State} (a0) (a1) (a2) (a3) (hM : Within [.power, .host, .journal, .store, .render, .lines, .pos, .ring, .axes, .flt, .evt, .hb, .out, .free] M) (h0 : Only M s0 a0) : Only M s0 ((@State.spoilBlank a0 a1 a2 a3)) := by
  unfold State.spoilBlank
  try dsimp only
  repeat' first
    | with_reducible assumption
    | exact Within.of rfl hM
    | with_reducible apply State.info_only
    | with_reducible apply State.mapPage_only
    | with_reducible apply State.spoilAt_only
    | with_reducible apply State.detect_only
    | with_reducible apply State.hbErr_only
    | (with_reducible apply Only.foldl; intro _ _ _)
    | (with_reducible intro _)
    | split

theorem State.blankRow_only {M : List Part} {s0 : State} (a0) (a1) (a2) (a3) (a4) (hM : Within [.lines, .loop] M) (h3 : Only M s0 a3) : Only M s0 ((@State.blankRow a0 a1 a2 a3 a4)) := by
  unfold State.blankRow
  try dsimp only
  repeat' first
    | with_reducible assumption
    | exact Within.of rfl hM
    | with_reducible apply State.blankEntries_only
    | (with_reducible apply Only.foldl; intro _ _ _)
    | (simp only [Only.written]; apply Written.mk' <;> (first | exact .inr (Within.mem rfl hM) | exact .inl rfl | skip))
    | (with_reducible intro _)
    | split

theorem State.blankStripe_only {M : List Part} {s0 : State} (a0) (a1) (a2) (a3) (hM : Within [.lines, .loop] M) (h2 : Only M s0 a2) : Only M s0 ((@State.blankStripe a0 a1 a2 a3)) := by
  unfold State.blankStripe
  try dsimp only
  repeat' first
    | with_reducible assumption
    | exact Within.of rfl hM
    | with_reducible apply State.blankRow_only
    | (with_reducible apply Only.foldl; intro _ _ _)
    | (with_reducible intro _)
    | split

theorem State.selectAgain_only {M : List Part} {s0 : State} (a0) (a1) (hM : Within [.power, .host, .journal, .store, .render, .lines, .pos, .loop, .ring, .axes, .flt, .evt, .hb, .out, .free] M) (h0 : Only M s0 a0) : Only M s0 ((@State.selectAgain a0 a1)) := by
  unfold State.selectAgain
  try dsimp only
  repeat' first
    | with_reducible assumption
    | exact Within.of rfl hM
    | with_reducible apply State.updHoist_only
    | with_reducible apply State.spoilBlank_only
    | with_reducible apply State.blankStripe_only
    | (with_reducible apply Only.foldl; intro _ _ _)
    | (with_reducible intro _)
    | split

theorem State.lineStoreError_only {M : List Part} {s0 : State} (a0) (a1) (hM : Within [.power, .host, .journal, .store, .codec, .render, .lines, .pos, .loop, .ring, .axes, .flt, .evt, .hb, .out, .free] M) (h0 : Only M s0 a0) : Only M s0 ((@State.lineStoreError a0 a1)) := by
  unfold State.lineStoreError
  try dsimp only
  repeat' first
    | with_reducible assumption
    | exact Within.of rfl hM
    | with_reducible apply State.fault_only
    | with_reducible apply State.badWord_only
    | with_reducible apply State.replayBand_only
    | with_reducible apply State.selectAgain_only
    | (with_reducible apply Only.foldl; intro _ _ _)
    | (with_reducible intro _)
    | split

theorem State.storeShot_only {M : List Part} {s0 : State} (a0) (a1) (a2) (hM : Within [.power, .host, .journal, .store, .codec, .render, .lines, .pos, .loop, .ring, .axes, .flt, .evt, .hb, .out, .free] M) (h0 : Only M s0 a0) : Only M s0 ((@State.storeShot a0 a1 a2)) := by
  unfold State.storeShot
  try dsimp only
  repeat' first
    | with_reducible assumption
    | exact Within.of rfl hM
    | with_reducible apply State.lineStoreError_only
    | (with_reducible apply Only.foldl; intro _ _ _)
    | (with_reducible intro _)
    | split

theorem State.deliver_only {M : List Part} {s0 : State} (a0) (a1) (a2) (a3) (a4) (a5) (hM : Within [.flash, .power, .host, .journal, .store, .codec, .render, .lines, .pos, .heads, .loop, .ring, .axes, .flt, .evt, .hb, .out, .free] M) (h0 : Only M s0 a0) : Only M s0 ((@State.deliver a0 a1 a2 a3 a4 a5)) := by
  unfold State.deliver
  try dsimp only
  repeat' first
    | with_reducible assumption
    | exact Within.of rfl hM
    | with_reducible apply State.fault_only
    | with_reducible apply State.sendReady_only
    | with_reducible apply State.updPennant_only
    | with_reducible apply State.orphans_only
    | with_reducible apply State.pennantFailed_only
    | with_reducible apply State.mapAudit_only
    | with_reducible apply State.judgeAudits_only
    | with_reducible apply State.judgeShadow_only
    | with_reducible apply State.commitStripe_only
    | with_reducible apply State.storeShot_only
    | (with_reducible apply Only.foldl; intro _ _ _)
    | (with_reducible intro _)
    | split

theorem State.updUnit_only {M : List Part} {s0 : State} (a0) (a1) (a2) (hM : Within [.codec] M) (h0 : Only M s0 a0) : Only M s0 ((@State.updUnit a0 a1 a2)) := by
  unfold State.updUnit
  try dsimp only
  repeat' first
    | with_reducible assumption
    | exact Within.of rfl hM
    | (with_reducible apply Only.foldl; intro _ _ _)
    | (simp only [Only.written]; apply Written.mk' <;> (first | exact .inr (Within.mem rfl hM) | exact .inl rfl | skip))
    | (with_reducible intro _)
    | split

theorem State.updLane_only {M : List Part} {s0 : State} (a0) (a1) (a2) (hM : Within [.codec] M) (h0 : Only M s0 a0) : Only M s0 ((@State.updLane a0 a1 a2)) := by
  unfold State.updLane
  try dsimp only
  repeat' first
    | with_reducible assumption
    | exact Within.of rfl hM
    | (with_reducible apply Only.foldl; intro _ _ _)
    | (simp only [Only.written]; apply Written.mk' <;> (first | exact .inr (Within.mem rfl hM) | exact .inl rfl | skip))
    | (with_reducible intro _)
    | split

theorem State.fenceUnit_only {M : List Part} {s0 : State} (a0) (a1) (a2) (hM : Within [.host, .journal, .store, .codec, .out] M) (h0 : Only M s0 a0) : Only M s0 ((@State.fenceUnit a0 a1 a2)) := by
  unfold State.fenceUnit
  try dsimp only
  repeat' first
    | with_reducible assumption
    | exact Within.of rfl hM
    | with_reducible apply State.mapPage_only
    | with_reducible apply State.endReset_only
    | with_reducible apply State.updUnit_only
    | (with_reducible apply Only.foldl; intro _ _ _)
    | (simp only [Only.written]; apply Written.mk' <;> (first | exact .inr (Within.mem rfl hM) | exact .inl rfl | skip))
    | (with_reducible intro _)
    | split

theorem State.fenceLane_only {M : List Part} {s0 : State} (a0) (a1) (a2) (hM : Within [.codec] M) (h0 : Only M s0 a0) : Only M s0 ((@State.fenceLane a0 a1 a2)) := by
  unfold State.fenceLane
  try dsimp only
  repeat' first
    | with_reducible assumption
    | exact Within.of rfl hM
    | with_reducible apply State.assignLanes_only
    | with_reducible apply State.updLane_only
    | (with_reducible apply Only.foldl; intro _ _ _)
    | (simp only [Only.written]; apply Written.mk' <;> (first | exact .inr (Within.mem rfl hM) | exact .inl rfl | skip))
    | (with_reducible intro _)
    | split

theorem State.unitFailedAs_only {M : List Part} {s0 : State} (a0) (a1) (hM : Within [.power, .host, .journal, .store, .codec, .render, .lines, .pos, .ring, .axes, .flt, .evt, .out, .free] M) (h0 : Only M s0 a0) : Only M s0 ((@State.unitFailedAs a0 a1)) := by
  unfold State.unitFailedAs
  try dsimp only
  repeat' first
    | with_reducible assumption
    | exact Within.of rfl hM
    | with_reducible apply State.detect_only
    | with_reducible apply State.unlessShadowed_only
    | with_reducible apply State.fenceUnit_only
    | (with_reducible apply Only.foldl; intro _ _ _)
    | (with_reducible intro _)
    | split

theorem State.laneFailedAs_only {M : List Part} {s0 : State} (a0) (a1) (hM : Within [.power, .host, .journal, .store, .codec, .render, .lines, .pos, .ring, .axes, .flt, .evt, .out, .free] M) (h0 : Only M s0 a0) : Only M s0 ((@State.laneFailedAs a0 a1)) := by
  unfold State.laneFailedAs
  try dsimp only
  repeat' first
    | with_reducible assumption
    | exact Within.of rfl hM
    | with_reducible apply State.detect_only
    | with_reducible apply State.unlessShadowed_only
    | with_reducible apply State.fenceLane_only
    | (with_reducible apply Only.foldl; intro _ _ _)
    | (with_reducible intro _)
    | split

theorem State.issueReset_only {M : List Part} {s0 : State} (a0) (a1) (a2) (a3) (a4) (hM : Within [.host, .journal, .flt, .out] M) (h0 : Only M s0 a0) : Only M s0 ((@State.issueReset a0 a1 a2 a3 a4)) := by
  unfold State.issueReset
  try dsimp only
  repeat' first
    | with_reducible assumption
    | exact Within.of rfl hM
    | with_reducible apply State.openWindow_only
    | with_reducible apply State.dropInjections_only
    | (with_reducible apply Only.foldl; intro _ _ _)
    | (with_reducible intro _)
    | split

theorem State.resetPennant_only {M : List Part} {s0 : State} (a0) (a1) (a2) (hM : Within [.host, .journal, .render, .flt, .out] M) (h0 : Only M s0 a0) : Only M s0 ((@State.resetPennant a0 a1 a2)) := by
  unfold State.resetPennant
  try dsimp only
  repeat' first
    | with_reducible assumption
    | exact Within.of rfl hM
    | with_reducible apply State.updPennant_only
    | with_reducible apply State.issueReset_only
    | (with_reducible apply Only.foldl; intro _ _ _)
    | (with_reducible intro _)
    | split

theorem State.resetDecompressor_only {M : List Part} {s0 : State} (a0) (a1) (a2) (hM : Within [.host, .journal, .codec, .flt, .out] M) (h0 : Only M s0 a0) : Only M s0 ((@State.resetDecompressor a0 a1 a2)) := by
  unfold State.resetDecompressor
  try dsimp only
  repeat' first
    | with_reducible assumption
    | exact Within.of rfl hM
    | with_reducible apply State.updUnit_only
    | with_reducible apply State.issueReset_only
    | (with_reducible apply Only.foldl; intro _ _ _)
    | (with_reducible intro _)
    | split

theorem State.resetLane_only {M : List Part} {s0 : State} (a0) (a1) (a2) (hM : Within [.host, .journal, .codec, .flt, .out] M) (h0 : Only M s0 a0) : Only M s0 ((@State.resetLane a0 a1 a2)) := by
  unfold State.resetLane
  try dsimp only
  repeat' first
    | with_reducible assumption
    | exact Within.of rfl hM
    | with_reducible apply State.updLane_only
    | with_reducible apply State.issueReset_only
    | (with_reducible apply Only.foldl; intro _ _ _)
    | (with_reducible intro _)
    | split

theorem State.blockReset_only {M : List Part} {s0 : State} (a0) (a1) (hM : Within [.host, .journal, .codec, .render, .axes, .out] M) (h0 : Only M s0 a0) : Only M s0 ((@State.blockReset a0 a1)) := by
  unfold State.blockReset
  try dsimp only
  repeat' first
    | with_reducible assumption
    | exact Within.of rfl hM
    | with_reducible apply State.updAxis_only
    | with_reducible apply State.endReset_only
    | with_reducible apply State.updPennant_only
    | with_reducible apply State.updUnit_only
    | with_reducible apply State.updLane_only
    | (with_reducible apply Only.foldl; intro _ _ _)
    | (with_reducible intro _)
    | split

theorem State.unitMismatchAs_only {M : List Part} {s0 : State} (a0) (a1) (hM : Within [.power, .host, .journal, .store, .codec, .render, .lines, .pos, .ring, .axes, .flt, .evt, .out, .free] M) (h0 : Only M s0 a0) : Only M s0 ((@State.unitMismatchAs a0 a1)) := by
  unfold State.unitMismatchAs
  try dsimp only
  repeat' first
    | with_reducible assumption
    | exact Within.of rfl hM
    | with_reducible apply State.detect_only
    | with_reducible apply State.unlessShadowed_only
    | with_reducible apply State.endReset_only
    | with_reducible apply State.updUnit_only
    | (with_reducible apply Only.foldl; intro _ _ _)
    | (with_reducible intro _)
    | split

theorem State.laneMismatchAs_only {M : List Part} {s0 : State} (a0) (a1) (hM : Within [.power, .host, .journal, .store, .codec, .render, .lines, .pos, .ring, .axes, .flt, .evt, .out, .free] M) (h0 : Only M s0 a0) : Only M s0 ((@State.laneMismatchAs a0 a1)) := by
  unfold State.laneMismatchAs
  try dsimp only
  repeat' first
    | with_reducible assumption
    | exact Within.of rfl hM
    | with_reducible apply State.detect_only
    | with_reducible apply State.unlessShadowed_only
    | with_reducible apply State.updLane_only
    | (with_reducible apply Only.foldl; intro _ _ _)
    | (with_reducible intro _)
    | split

theorem State.joinPennant_only {M : List Part} {s0 : State} (a0) (a1) (hM : Within [.host, .journal, .render, .out] M) (h0 : Only M s0 a0) : Only M s0 ((@State.joinPennant a0 a1)) := by
  unfold State.joinPennant
  try dsimp only
  repeat' first
    | with_reducible assumption
    | exact Within.of rfl hM
    | with_reducible apply State.endReset_only
    | with_reducible apply State.updPennant_only
    | (with_reducible apply Only.foldl; intro _ _ _)
    | (with_reducible intro _)
    | split

theorem State.joinUnit_only {M : List Part} {s0 : State} (a0) (a1) (hM : Within [.host, .journal, .codec, .out] M) (h0 : Only M s0 a0) : Only M s0 ((@State.joinUnit a0 a1)) := by
  unfold State.joinUnit
  try dsimp only
  repeat' first
    | with_reducible assumption
    | exact Within.of rfl hM
    | with_reducible apply State.endReset_only
    | with_reducible apply State.updUnit_only
    | (with_reducible apply Only.foldl; intro _ _ _)
    | (with_reducible intro _)
    | split

theorem State.joinLane_only {M : List Part} {s0 : State} (a0) (a1) (hM : Within [.codec] M) (h0 : Only M s0 a0) : Only M s0 ((@State.joinLane a0 a1)) := by
  unfold State.joinLane
  try dsimp only
  repeat' first
    | with_reducible assumption
    | exact Within.of rfl hM
    | with_reducible apply State.assignLanes_only
    | with_reducible apply State.updLane_only
    | (with_reducible apply Only.foldl; intro _ _ _)
    | (with_reducible intro _)
    | split

theorem State.shadowTick_only {M : List Part} {s0 : State} (a0) (hM : Within [.host, .journal, .codec, .render, .out] M) (h0 : Only M s0 a0) : Only M s0 ((@State.shadowTick a0)) := by
  unfold State.shadowTick
  try dsimp only
  repeat' first
    | with_reducible assumption
    | exact Within.of rfl hM
    | with_reducible apply State.joinPennant_only
    | with_reducible apply State.joinUnit_only
    | with_reducible apply State.joinLane_only
    | (with_reducible apply Only.foldl; intro _ _ _)
    | (simp only [Only.written]; apply Written.mk' <;> (first | exact .inr (Within.mem rfl hM) | exact .inl rfl | skip))
    | (with_reducible intro _)
    | split

theorem State.dueHoist_only {M : List Part} {s0 : State} (a0) (a1) (hM : Within [.power, .host, .journal, .store, .codec, .render, .lines, .pos, .ring, .axes, .flt, .evt, .hb, .out, .free] M) (h0 : Only M s0 a0) : Only M s0 ((@State.dueHoist a0 a1)) := by
  unfold State.dueHoist
  try dsimp only
  repeat' first
    | with_reducible assumption
    | exact Within.of rfl hM
    | with_reducible apply State.updHoist_only
    | with_reducible apply State.dropAudits_only
    | with_reducible apply State.spoilBlank_only
    | (with_reducible apply Only.foldl; intro _ _ _)
    | (simp only [Only.written]; apply Written.mk' <;> (first | exact .inr (Within.mem rfl hM) | exact .inl rfl | skip))
    | (with_reducible intro _)
    | split

theorem State.resolveDelays_only {M : List Part} {s0 : State} (a0) (hM : Within [.lines] M) (h0 : Only M s0 a0) : Only M s0 ((@State.resolveDelays a0)) := by
  unfold State.resolveDelays
  try dsimp only
  repeat' first
    | with_reducible assumption
    | exact Within.of rfl hM
    | (with_reducible apply Only.foldl; intro _ _ _)
    | (simp only [Only.written]; apply Written.mk' <;> (first | exact .inr (Within.mem rfl hM) | exact .inl rfl | skip))
    | (with_reducible intro _)
    | split

theorem State.foldChanges_only {M : List Part} {s0 : State} (hM : Within [.lines] M) : ∀ (n : Nat) (s : State), Only M s0 s → Only M s0 (State.foldChanges n s)
  | 0, _, h => h
  | n + 1, s, h => by
    unfold State.foldChanges
    split
    · exact h
    · split
      · refine State.foldChanges_only hM n _ ?_
        (simp only [Only.written]; refine Written.mk' ?_ (by first | exact .inl rfl | exact .inr (Within.mem rfl hM)) (by first | exact .inl rfl | exact .inr (Within.mem rfl hM)) (by first | exact .inl rfl | exact .inr (Within.mem rfl hM)) (by first | exact .inl rfl | exact .inr (Within.mem rfl hM)) (by first | exact .inl rfl | exact .inr (Within.mem rfl hM)) (by first | exact .inl rfl | exact .inr (Within.mem rfl hM)) (by first | exact .inl rfl | exact .inr (Within.mem rfl hM)) (by first | exact .inl rfl | exact .inr (Within.mem rfl hM)) (by first | exact .inl rfl | exact .inr (Within.mem rfl hM)) (by first | exact .inl rfl | exact .inr (Within.mem rfl hM)) (by first | exact .inl rfl | exact .inr (Within.mem rfl hM)) (by first | exact .inl rfl | exact .inr (Within.mem rfl hM)) (by first | exact .inl rfl | exact .inr (Within.mem rfl hM)) (by first | exact .inl rfl | exact .inr (Within.mem rfl hM)) (by first | exact .inl rfl | exact .inr (Within.mem rfl hM)) (by first | exact .inl rfl | exact .inr (Within.mem rfl hM)) (by first | exact .inl rfl | exact .inr (Within.mem rfl hM)) (by first | exact .inl rfl | exact .inr (Within.mem rfl hM)) (by first | exact .inl rfl | exact .inr (Within.mem rfl hM)) (by first | exact .inl rfl | exact .inr (Within.mem rfl hM)) (by first | exact .inl rfl | exact .inr (Within.mem rfl hM)) (by first | exact .inl rfl | exact .inr (Within.mem rfl hM)) (by first | exact .inl rfl | exact .inr (Within.mem rfl hM)) (by first | exact .inl rfl | exact .inr (Within.mem rfl hM)); exact h)
      · exact h

theorem State.settleDelays_only {M : List Part} {s0 : State} (a0) (hM : Within [.host, .journal, .lines, .out] M) (h0 : Only M s0 a0) : Only M s0 ((@State.settleDelays a0)) := by
  unfold State.settleDelays
  try dsimp only
  repeat' first
    | with_reducible assumption
    | exact Within.of rfl hM
    | with_reducible apply State.finish_only
    | with_reducible apply State.foldChanges_only
    | (with_reducible apply Only.foldl; intro _ _ _)
    | (with_reducible intro _)
    | split

theorem State.changeDelays_only {M : List Part} {s0 : State} (a0) (a1) (a2) (a3) (a4) (hM : Within [.host, .journal, .lines, .out] M) (h0 : Only M s0 a0) : Only M s0 ((@State.changeDelays a0 a1 a2 a3 a4)) := by
  unfold State.changeDelays
  try dsimp only
  repeat' first
    | with_reducible assumption
    | exact Within.of rfl hM
    | with_reducible apply State.finish_only
    | with_reducible apply State.recomputeDelays_only
    | with_reducible apply State.resolveDelays_only
    | (with_reducible apply Only.foldl; intro _ _ _)
    | (simp only [Only.written]; apply Written.mk' <;> (first | exact .inr (Within.mem rfl hM) | exact .inl rfl | skip))
    | (with_reducible intro _)
    | split

theorem State.raiseLead_only {M : List Part} {s0 : State} (a0) (a1) (hM : Within [.render] M) (h0 : Only M s0 a0) : Only M s0 ((@State.raiseLead a0 a1)) := by
  unfold State.raiseLead
  try dsimp only
  repeat' first
    | with_reducible assumption
    | exact Within.of rfl hM
    | (with_reducible apply Only.foldl; intro _ _ _)
    | (simp only [Only.written]; apply Written.mk' <;> (first | exact .inr (Within.mem rfl hM) | exact .inl rfl | skip))
    | (with_reducible intro _)
    | split

theorem State.forget_only {M : List Part} {s0 : State} (a0) (a1) (a2) (hM : Within [.pos, .heads] M) (h0 : Only M s0 a0) : Only M s0 ((@State.forget a0 a1 a2)) := by
  unfold State.forget
  try dsimp only
  repeat' first
    | with_reducible assumption
    | exact Within.of rfl hM
    | with_reducible apply State.updPort_only
    | (with_reducible apply Only.foldl; intro _ _ _)
    | (simp only [Only.written]; apply Written.mk' <;> (first | exact .inr (Within.mem rfl hM) | exact .inl rfl | skip))
    | (with_reducible intro _)
    | split

theorem State.slowEvents_only {M : List Part} {s0 : State} (a0) (a1) (a2) (a3) (hM : Within [.host, .evt, .out] M) (h0 : Only M s0 a0) : Only M s0 ((@State.slowEvents a0 a1 a2 a3)) := by
  unfold State.slowEvents
  try dsimp only
  repeat' first
    | with_reducible assumption
    | exact Within.of rfl hM
    | with_reducible apply State.info_only
    | (with_reducible apply Only.foldl; intro _ _ _)
    | (with_reducible intro _)
    | split

theorem State.missRow_only {M : List Part} {s0 : State} (a0) (a1) (hM : Within [.host, .journal, .store, .pos, .heads, .ring, .evt, .out] M) (h0 : Only M s0 a0) : Only M s0 ((@State.missRow a0 a1)) := by
  unfold State.missRow
  try dsimp only
  repeat' first
    | with_reducible assumption
    | exact Within.of rfl hM
    | with_reducible apply State.spoilLine_only
    | with_reducible apply State.forget_only
    | with_reducible apply State.slowEvents_only
    | (with_reducible apply Only.foldl; intro _ _ _)
    | (with_reducible intro _)
    | split

theorem State.missPassed_only {M : List Part} {s0 : State} (a0) (hM : Within [.host, .journal, .store, .pos, .heads, .ring, .evt, .out] M) (h0 : Only M s0 a0) : Only M s0 ((@State.missPassed a0)) := by
  unfold State.missPassed
  try dsimp only
  repeat' first
    | with_reducible assumption
    | exact Within.of rfl hM
    | with_reducible apply State.missRow_only
    | (with_reducible apply Only.foldl; intro _ _ _)
    | (with_reducible intro _)
    | split

theorem State.tellEnded_only {M : List Part} {s0 : State} (a0) (hM : Within [.host, .store, .evt, .out] M) (h0 : Only M s0 a0) : Only M s0 ((@State.tellEnded a0)) := by
  unfold State.tellEnded
  try dsimp only
  repeat' first
    | with_reducible assumption
    | exact Within.of rfl hM
    | with_reducible apply State.tellGathered_only
    | with_reducible apply State.tellPage_only
    | (with_reducible apply Only.foldl; intro _ _ _)
    | (with_reducible intro _)
    | split

theorem State.writeDelay_only {M : List Part} {s0 : State} (a0) (a1) (a2) (hM : Within [.lines] M) (h0 : Only M s0 a0) : Only M s0 ((@State.writeDelay a0 a1 a2)) := by
  unfold State.writeDelay
  try dsimp only
  repeat' first
    | with_reducible assumption
    | exact Within.of rfl hM
    | (with_reducible apply Only.foldl; intro _ _ _)
    | (simp only [Only.written]; apply Written.mk' <;> (first | exact .inr (Within.mem rfl hM) | exact .inl rfl | skip))
    | (with_reducible intro _)
    | split

theorem State.skipLine_only {M : List Part} {s0 : State} (a0) (a1) (a2) (a3) (hM : Within [.host, .journal, .store, .loop, .ring, .evt, .out] M) (h0 : Only M s0 a0) : Only M s0 ((@State.skipLine a0 a1 a2 a3)) := by
  unfold State.skipLine
  try dsimp only
  repeat' first
    | with_reducible assumption
    | exact Within.of rfl hM
    | with_reducible apply State.spoilLine_only
    | with_reducible apply State.blankEntries_only
    | (with_reducible apply Only.foldl; intro _ _ _)
    | (with_reducible intro _)
    | split

theorem State.queueRow_only {M : List Part} {s0 : State} (a0) (a1) (a2) (a3) (hM : Within [.flash, .power, .host, .journal, .store, .render, .lines, .pos, .heads, .loop, .ring, .axes, .flt, .evt, .hb, .out, .free] M) (h0 : Only M s0 a0) : Only M s0 ((@State.queueRow a0 a1 a2 a3)) := by
  unfold State.queueRow
  try dsimp only
  repeat' first
    | with_reducible assumption
    | exact Within.of rfl hM
    | with_reducible apply State.readOut_only
    | (with_reducible apply Only.foldl; intro _ _ _)
    | (simp only [Only.written]; apply Written.mk' <;> (first | exact .inr (Within.mem rfl hM) | exact .inl rfl | skip))
    | (with_reducible intro _)
    | split

theorem State.stepRow_only {M : List Part} {s0 : State} (a0) (a1) (a2) (a3) (hM : Within [.flash, .power, .host, .journal, .store, .render, .lines, .pos, .heads, .loop, .ring, .axes, .flt, .evt, .hb, .out, .free] M) (h0 : Only M s0 a0) : Only M s0 ((@State.stepRow a0 a1 a2 a3)) := by
  unfold State.stepRow
  try dsimp only
  repeat' first
    | with_reducible assumption
    | exact Within.of rfl hM
    | with_reducible apply State.badWord_only
    | with_reducible apply State.delayShot_only
    | with_reducible apply State.writeDelay_only
    | with_reducible apply State.skipLine_only
    | with_reducible apply State.queueRow_only
    | (with_reducible apply Only.foldl; intro _ _ _)
    | (with_reducible intro _)
    | split

theorem State.passLegacy_only {M : List Part} {s0 : State} (a0) (hM : Within [.hb, .out] M) (h0 : Only M s0 a0) : Only M s0 ((@State.passLegacy a0)) := by
  unfold State.passLegacy
  try dsimp only
  repeat' first
    | with_reducible assumption
    | exact Within.of rfl hM
    | with_reducible apply State.hbIrq_only
    | (with_reducible apply Only.foldl; intro _ _ _)
    | (simp only [Only.written]; apply Written.mk' <;> (first | exact .inr (Within.mem rfl hM) | exact .inl rfl | skip))
    | (with_reducible intro _)
    | split

theorem State.settleWeb_only {M : List Part} {s0 : State} (a0) (hM : Within [.power, .host, .journal, .store, .codec, .render, .lines, .pos, .heads, .dmc, .flt, .evt, .hb, .out] M) (h0 : Only M s0 a0) : Only M s0 ((@State.settleWeb a0)) := by
  unfold State.settleWeb
  try dsimp only
  repeat' first
    | with_reducible assumption
    | exact Within.of rfl hM
    | with_reducible apply State.settleFired_only
    | with_reducible apply State.settleDisarm_only
    | with_reducible apply State.settleRetire_only
    | with_reducible apply State.startHeadResets_only
    | with_reducible apply State.retryWaiting_only
    | with_reducible apply State.settleShutdown_only
    | with_reducible apply State.placeLines_only
    | with_reducible apply State.settleDelays_only
    | with_reducible apply State.tellEnded_only
    | (with_reducible apply Only.foldl; intro _ _ _)
    | (with_reducible intro _)
    | split

theorem State.sendFire_only {M : List Part} {s0 : State} (a0) (a1) (a2) (a3) (a4) (hM : Within [.heads, .out] M) (h0 : Only M s0 a0) : Only M s0 ((@State.sendFire a0 a1 a2 a3 a4)) := by
  unfold State.sendFire
  try dsimp only
  repeat' first
    | with_reducible assumption
    | exact Within.of rfl hM
    | with_reducible apply State.emit_only
    | with_reducible apply State.updPort_only
    | with_reducible apply State.sendHead_only
    | (with_reducible apply Only.foldl; intro _ _ _)
    | (with_reducible intro _)
    | split

theorem State.commit_only {M : List Part} {s0 : State} (a0) (a1) (a2) (hM : Within [.pos, .heads, .out] M) (h0 : Only M s0 a0) : Only M s0 ((@State.commit a0 a1 a2)) := by
  unfold State.commit
  try dsimp only
  repeat' first
    | with_reducible assumption
    | exact Within.of rfl hM
    | with_reducible apply State.sendFire_only
    | (with_reducible apply Only.foldl; intro _ _ _)
    | (simp only [Only.written]; apply Written.mk' <;> (first | exact .inr (Within.mem rfl hM) | exact .inl rfl | skip))
    | (with_reducible intro _)
    | split

theorem State.fireRow_only {M : List Part} {s0 : State} (a0) (a1) (hM : Within [.power, .host, .journal, .store, .render, .lines, .pos, .heads, .ring, .axes, .flt, .evt, .out, .free] M) (h0 : Only M s0 a0) : Only M s0 ((@State.fireRow a0 a1)) := by
  unfold State.fireRow
  try dsimp only
  repeat' first
    | with_reducible assumption
    | exact Within.of rfl hM
    | with_reducible apply State.fault_only
    | with_reducible apply State.updPort_only
    | with_reducible apply State.forget_only
    | (with_reducible apply Only.foldl; intro _ _ _)
    | (with_reducible intro _)
    | split

theorem State.sendTick_only {M : List Part} {s0 : State} (a0) (a1) (a2) (hM : Within [.power, .host, .journal, .store, .render, .lines, .pos, .heads, .ring, .axes, .flt, .evt, .hb, .out, .free] M) (h0 : Only M s0 a0) : Only M s0 ((@State.sendTick a0 a1 a2)) := by
  unfold State.sendTick
  try dsimp only
  repeat' first
    | with_reducible assumption
    | exact Within.of rfl hM
    | with_reducible apply State.updPort_only
    | with_reducible apply State.sendHead_only
    | with_reducible apply State.fencePort_only
    | (with_reducible apply Only.foldl; intro _ _ _)
    | (with_reducible intro _)
    | split

theorem State.switchWave_only {M : List Part} {s0 : State} (a0) (a1) (hM : Within [.host, .journal, .heads, .out] M) (h0 : Only M s0 a0) : Only M s0 ((@State.switchWave a0 a1)) := by
  unfold State.switchWave
  try dsimp only
  repeat' first
    | with_reducible assumption
    | exact Within.of rfl hM
    | with_reducible apply State.finish_only
    | with_reducible apply State.updPort_only
    | (with_reducible apply Only.foldl; intro _ _ _)
    | (with_reducible intro _)
    | split

theorem State.legacyTemp_only {M : List Part} {s0 : State} (a0) (a1) (hM : Within [.heads, .out] M) (h0 : Only M s0 a0) : Only M s0 ((@State.legacyTemp a0 a1)) := by
  unfold State.legacyTemp
  try dsimp only
  repeat' first
    | with_reducible assumption
    | exact Within.of rfl hM
    | with_reducible apply State.updPort_only
    | with_reducible apply State.drive_only
    | (with_reducible apply Only.foldl; intro _ _ _)
    | (with_reducible intro _)
    | split

theorem State.settleHeadResets_only {M : List Part} {s0 : State} (a0) (hM : Within [.host, .journal, .heads, .out] M) (h0 : Only M s0 a0) : Only M s0 ((@State.settleHeadResets a0)) := by
  unfold State.settleHeadResets
  try dsimp only
  repeat' first
    | with_reducible assumption
    | exact Within.of rfl hM
    | with_reducible apply State.updPort_only
    | with_reducible apply State.endReset_only
    | (with_reducible apply Only.foldl; intro _ _ _)
    | (with_reducible intro _)
    | split

theorem State.joinPort_only {M : List Part} {s0 : State} (a0) (a1) (hM : Within [.host, .journal, .heads, .out] M) (h0 : Only M s0 a0) : Only M s0 ((@State.joinPort a0 a1)) := by
  unfold State.joinPort
  try dsimp only
  repeat' first
    | with_reducible assumption
    | exact Within.of rfl hM
    | with_reducible apply State.updPort_only
    | with_reducible apply State.serve_only
    | (with_reducible apply Only.foldl; intro _ _ _)
    | (with_reducible intro _)
    | split

theorem State.portTick_only {M : List Part} {s0 : State} (a0) (a1) (a2) (hM : Within [.power, .host, .journal, .store, .render, .lines, .pos, .heads, .ring, .axes, .flt, .evt, .hb, .out, .free] M) (h0 : Only M s0 a0) : Only M s0 ((@State.portTick a0 a1 a2)) := by
  unfold State.portTick
  try dsimp only
  repeat' first
    | with_reducible assumption
    | exact Within.of rfl hM
    | with_reducible apply State.updPort_only
    | with_reducible apply State.joinShadow_only
    | with_reducible apply State.tickPredictor_only
    | with_reducible apply State.sendTick_only
    | with_reducible apply State.switchWave_only
    | with_reducible apply State.legacyTemp_only
    | with_reducible apply State.joinPort_only
    | (with_reducible apply Only.foldl; intro _ _ _)
    | (with_reducible intro _)
    | split

theorem State.closePeriod_only {M : List Part} {s0 : State} (a0) (a1) (a2) (hM : Within [.loop, .dmc] M) (h0 : Only M s0 a0) : Only M s0 ((@State.closePeriod a0 a1 a2)) := by
  unfold State.closePeriod
  try dsimp only
  repeat' first
    | with_reducible assumption
    | exact Within.of rfl hM
    | with_reducible apply State.sdramRequests_only
    | (with_reducible apply Only.foldl; intro _ _ _)
    | (simp only [Only.written]; apply Written.mk' <;> (first | exact .inr (Within.mem rfl hM) | exact .inl rfl | skip))
    | (with_reducible intro _)
    | split

theorem State.losePeriod_only {M : List Part} {s0 : State} (a0) (a1) (hM : Within [.loop] M) (h0 : Only M s0 a0) : Only M s0 ((@State.losePeriod a0 a1)) := by
  unfold State.losePeriod
  try dsimp only
  repeat' first
    | with_reducible assumption
    | exact Within.of rfl hM
    | (with_reducible apply Only.foldl; intro _ _ _)
    | (simp only [Only.written]; apply Written.mk' <;> (first | exact .inr (Within.mem rfl hM) | exact .inl rfl | skip))
    | (with_reducible intro _)
    | split

theorem State.openPeriod_only {M : List Part} {s0 : State} (a0) (a1) (a2) (hM : Within [.loop] M) (h0 : Only M s0 a0) : Only M s0 ((@State.openPeriod a0 a1 a2)) := by
  unfold State.openPeriod
  try dsimp only
  repeat' first
    | with_reducible assumption
    | exact Within.of rfl hM
    | (with_reducible apply Only.foldl; intro _ _ _)
    | (simp only [Only.written]; apply Written.mk' <;> (first | exact .inr (Within.mem rfl hM) | exact .inl rfl | skip))
    | (with_reducible intro _)
    | split

theorem State.blankHoist_only {M : List Part} {s0 : State} (a0) (a1) (hM : Within [.lines, .loop] M) (h0 : Only M s0 a0) : Only M s0 ((@State.blankHoist a0 a1)) := by
  unfold State.blankHoist
  try dsimp only
  repeat' first
    | with_reducible assumption
    | exact Within.of rfl hM
    | with_reducible apply State.blankStripe_only
    | (with_reducible apply Only.foldl; intro _ _ _)
    | (with_reducible intro _)
    | split

theorem State.tickHoists_only {M : List Part} {s0 : State} (a0) (a1) (hM : Within [.flash, .power, .host, .journal, .store, .codec, .render, .lines, .pos, .heads, .loop, .ring, .axes, .flt, .evt, .hb, .out, .free] M) (h0 : Only M s0 a0) : Only M s0 ((@State.tickHoists a0 a1)) := by
  unfold State.tickHoists
  try dsimp only
  repeat' first
    | with_reducible assumption
    | exact Within.of rfl hM
    | with_reducible apply State.sendReady_only
    | with_reducible apply State.judgeShadows_only
    | with_reducible apply State.openHoist_only
    | with_reducible apply State.dueHoist_only
    | with_reducible apply State.blankHoist_only
    | (with_reducible apply Only.foldl; intro _ _ _)
    | (simp only [Only.written]; apply Written.mk' <;> (first | exact .inr (Within.mem rfl hM) | exact .inl rfl | skip))
    | (with_reducible intro _)
    | split

theorem State.tickWork_only {M : List Part} {s0 : State} (a0) (a1) (hM : Within [.flash, .power, .host, .journal, .store, .codec, .render, .lines, .pos, .heads, .loop, .ring, .axes, .dmc, .flt, .evt, .hb, .out, .free] M) (h0 : Only M s0 a0) : Only M s0 ((@State.tickWork a0 a1)) := by
  unfold State.tickWork
  try dsimp only
  repeat' first
    | with_reducible assumption
    | exact Within.of rfl hM
    | with_reducible apply State.govern_only
    | with_reducible apply State.linksTick_only
    | with_reducible apply State.shadowTick_only
    | with_reducible apply State.resolveDelays_only
    | with_reducible apply State.settleWeb_only
    | with_reducible apply State.settleHeadResets_only
    | with_reducible apply State.portTick_only
    | with_reducible apply State.closePeriod_only
    | with_reducible apply State.losePeriod_only
    | with_reducible apply State.openPeriod_only
    | with_reducible apply State.tickHoists_only
    | (with_reducible apply Only.foldl; intro _ _ _)
    | (simp only [Only.written]; apply Written.mk' <;> (first | exact .inr (Within.mem rfl hM) | exact .inl rfl | skip))
    | (with_reducible intro _)
    | split

theorem State.zeroTick_only {M : List Part} {s0 : State} (a0) (hM : Within [.flash, .power, .host, .journal, .store, .codec, .render, .lines, .pos, .heads, .loop, .ring, .axes, .dmc, .flt, .evt, .hb, .out, .free] M) (h0 : Only M s0 a0) : Only M s0 ((@State.zeroTick a0)) := by
  unfold State.zeroTick
  try dsimp only
  repeat' first
    | with_reducible assumption
    | exact Within.of rfl hM
    | with_reducible apply State.tickWork_only
    | (with_reducible apply Only.foldl; intro _ _ _)
    | (simp only [Only.written]; apply Written.mk' <;> (first | exact .inr (Within.mem rfl hM) | exact .inl rfl | skip))
    | (with_reducible intro _)
    | split

theorem State.checkPrintPosition_only {M : List Part} {s0 : State} (a0) (hM : Within [.power, .host, .journal, .store, .render, .lines, .pos, .ring, .axes, .flt, .evt, .out, .free] M) (h0 : Only M s0 a0) : Only M s0 ((@State.checkPrintPosition a0)) := by
  unfold State.checkPrintPosition
  try dsimp only
  repeat' first
    | with_reducible assumption
    | exact Within.of rfl hM
    | with_reducible apply State.disarmNow_only
    | with_reducible apply State.settleDisarm_only
    | with_reducible apply State.fault_only
    | (with_reducible apply Only.foldl; intro _ _ _)
    | (with_reducible intro _)
    | split

theorem State.afterEdge_only {M : List Part} {s0 : State} (a0) (hM : Within [.power, .host, .journal, .store, .codec, .render, .lines, .pos, .heads, .ring, .axes, .flt, .evt, .hb, .out, .free] M) (h0 : Only M s0 a0) : Only M s0 ((@State.afterEdge a0)) := by
  unfold State.afterEdge
  try dsimp only
  repeat' first
    | with_reducible assumption
    | exact Within.of rfl hM
    | with_reducible apply State.advance_only
    | with_reducible apply State.checkOverspeed_only
    | with_reducible apply State.checkHeadRate_only
    | with_reducible apply State.predictAll_only
    | with_reducible apply State.tryArm_only
    | with_reducible apply State.tellEnded_only
    | (with_reducible apply Only.foldl; intro _ _ _)
    | (with_reducible intro _)
    | split

theorem State.countIllegal_only {M : List Part} {s0 : State} (a0) (hM : Within [.power, .host, .journal, .store, .render, .lines, .pos, .ring, .axes, .flt, .evt, .hb, .out, .free] M) (h0 : Only M s0 a0) : Only M s0 ((@State.countIllegal a0)) := by
  unfold State.countIllegal
  try dsimp only
  repeat' first
    | with_reducible assumption
    | exact Within.of rfl hM
    | with_reducible apply State.fault_only
    | with_reducible apply State.stopFiring_only
    | with_reducible apply State.hbErr_only
    | (with_reducible apply Only.foldl; intro _ _ _)
    | (simp only [Only.written]; apply Written.mk' <;> (first | exact .inr (Within.mem rfl hM) | exact .inl rfl | skip))
    | (with_reducible intro _)
    | split

theorem State.updCmp_only {M : List Part} {s0 : State} (a0) (a1) (a2) (hM : Within [.pos] M) (h0 : Only M s0 a0) : Only M s0 ((@State.updCmp a0 a1 a2)) := by
  unfold State.updCmp
  try dsimp only
  repeat' first
    | with_reducible assumption
    | exact Within.of rfl hM
    | (with_reducible apply Only.foldl; intro _ _ _)
    | (simp only [Only.written]; apply Written.mk' <;> (first | exact .inr (Within.mem rfl hM) | exact .inl rfl | skip))
    | (with_reducible intro _)
    | split

theorem State.setPin_only {M : List Part} {s0 : State} (a0) (a1) (hM : Within [.pos, .out] M) (h0 : Only M s0 a0) : Only M s0 ((@State.setPin a0 a1)) := by
  unfold State.setPin
  try dsimp only
  repeat' first
    | with_reducible assumption
    | exact Within.of rfl hM
    | with_reducible apply State.emit_only
    | (with_reducible apply Only.foldl; intro _ _ _)
    | (simp only [Only.written]; apply Written.mk' <;> (first | exact .inr (Within.mem rfl hM) | exact .inl rfl | skip))
    | (with_reducible intro _)
    | split

theorem State.placeTied_only {M : List Part} {s0 : State} (a0) (a1) (hM : Within [.host, .journal, .store, .ring, .evt, .out] M) (h0 : Only M s0 a0) : Only M s0 ((@State.placeTied a0 a1)) := by
  unfold State.placeTied
  try dsimp only
  repeat' first
    | with_reducible assumption
    | exact Within.of rfl hM
    | with_reducible apply State.placeCompare_only
    | (with_reducible apply Only.foldl; intro _ _ _)
    | (with_reducible intro _)
    | split

theorem State.takeSetting_only {M : List Part} {s0 : State} (a0) (a1) (a2) (hM : Within [.host, .journal, .store, .pos, .ring, .evt, .out] M) (h0 : Only M s0 a0) : Only M s0 ((@State.takeSetting a0 a1 a2)) := by
  unfold State.takeSetting
  try dsimp only
  repeat' first
    | with_reducible assumption
    | exact Within.of rfl hM
    | with_reducible apply State.interrupt_only
    | with_reducible apply State.finish_only
    | with_reducible apply State.setRunning_only
    | with_reducible apply State.updCmp_only
    | with_reducible apply State.setPin_only
    | with_reducible apply State.placeTied_only
    | (with_reducible apply Only.foldl; intro _ _ _)
    | (with_reducible intro _)
    | split

theorem State.takeNext_only {M : List Part} {s0 : State} (hM : Within [.host, .journal, .store, .pos, .ring, .evt, .out] M) : ∀ (n : Nat) (s : State) (u : Nat), Only M s0 s → Only M s0 (State.takeNext n s u)
  | 0, _, _, h => h
  | n + 1, s, u, h => by
    unfold State.takeNext
    split
    · exact h
    · split
      · exact h
      · exact State.takeNext_only hM n _ u (State.takeSetting_only _ _ _ (Within.of rfl hM) (State.updCmp_only _ _ _ (Within.of rfl hM) h))

theorem State.pulse_only {M : List Part} {s0 : State} (a0) (a1) (hM : Within [.pos, .out, .free] M) (h0 : Only M s0 a0) : Only M s0 ((@State.pulse a0 a1)) := by
  unfold State.pulse
  try dsimp only
  repeat' first
    | with_reducible assumption
    | exact Within.of rfl hM
    | with_reducible apply State.freeBit_only
    | with_reducible apply State.emit_only
    | (with_reducible apply Only.foldl; intro _ _ _)
    | (simp only [Only.written]; apply Written.mk' <;> (first | exact .inr (Within.mem rfl hM) | exact .inl rfl | skip))
    | (with_reducible intro _)
    | split

theorem State.fireUnit_only {M : List Part} {s0 : State} (a0) (a1) (hM : Within [.host, .journal, .store, .pos, .ring, .evt, .out, .free] M) (h0 : Only M s0 a0) : Only M s0 ((@State.fireUnit a0 a1)) := by
  unfold State.fireUnit
  try dsimp only
  repeat' first
    | with_reducible assumption
    | exact Within.of rfl hM
    | with_reducible apply State.interrupt_only
    | with_reducible apply State.finish_only
    | with_reducible apply State.updCmp_only
    | with_reducible apply State.placeTied_only
    | with_reducible apply State.takeNext_only
    | with_reducible apply State.pulse_only
    | (with_reducible apply Only.foldl; intro _ _ _)
    | (with_reducible intro _)
    | split

theorem State.beginMotion_only {M : List Part} {s0 : State} (a0) (a1) (a2) (hM : Within [.host, .journal, .axes, .out] M) (h0 : Only M s0 a0) : Only M s0 ((@State.beginMotion a0 a1 a2)) := by
  unfold State.beginMotion
  try dsimp only
  repeat' first
    | with_reducible assumption
    | exact Within.of rfl hM
    | with_reducible apply State.updAxis_only
    | with_reducible apply State.finishAxis_only
    | (with_reducible apply Only.foldl; intro _ _ _)
    | (with_reducible intro _)
    | split

theorem State.homeStop_only {M : List Part} {s0 : State} (a0) (a1) (a2) (hM : Within [.axes] M) (h0 : Only M s0 a0) : Only M s0 ((@State.homeStop a0 a1 a2)) := by
  unfold State.homeStop
  try dsimp only
  repeat' first
    | with_reducible assumption
    | exact Within.of rfl hM
    | with_reducible apply State.updAxis_only
    | (with_reducible apply Only.foldl; intro _ _ _)
    | (with_reducible intro _)
    | split

theorem State.takeStaged_only {M : List Part} {s0 : State} (a0) (a1) (hM : Within [.axes] M) (h0 : Only M s0 a0) : Only M s0 ((@State.takeStaged a0 a1)) := by
  unfold State.takeStaged
  try dsimp only
  repeat' first
    | with_reducible assumption
    | exact Within.of rfl hM
    | with_reducible apply State.updAxis_only
    | with_reducible apply State.rampStop_only
    | (with_reducible apply Only.foldl; intro _ _ _)
    | (with_reducible intro _)
    | split

theorem State.foundHome_only {M : List Part} {s0 : State} (a0) (a1) (a2) (hM : Within [.axes] M) (h0 : Only M s0 a0) : Only M s0 ((@State.foundHome a0 a1 a2)) := by
  unfold State.foundHome
  try dsimp only
  repeat' first
    | with_reducible assumption
    | exact Within.of rfl hM
    | with_reducible apply State.updAxis_only
    | with_reducible apply State.homeStop_only
    | (with_reducible apply Only.foldl; intro _ _ _)
    | (with_reducible intro _)
    | split

theorem State.beginSearch_only {M : List Part} {s0 : State} (a0) (a1) (a2) (hM : Within [.host, .journal, .axes, .out] M) (h0 : Only M s0 a0) : Only M s0 ((@State.beginSearch a0 a1 a2)) := by
  unfold State.beginSearch
  try dsimp only
  repeat' first
    | with_reducible assumption
    | exact Within.of rfl hM
    | with_reducible apply State.beginMotion_only
    | with_reducible apply State.foundHome_only
    | (with_reducible apply Only.foldl; intro _ _ _)
    | (with_reducible intro _)
    | split

theorem State.motionDone_only {M : List Part} {s0 : State} (a0) (a1) (a2) (hM : Within [.host, .journal, .axes, .out] M) (h0 : Only M s0 a0) : Only M s0 ((@State.motionDone a0 a1 a2)) := by
  unfold State.motionDone
  try dsimp only
  repeat' first
    | with_reducible assumption
    | exact Within.of rfl hM
    | with_reducible apply State.updAxis_only
    | with_reducible apply State.endMotion_only
    | with_reducible apply State.takeStaged_only
    | with_reducible apply State.beginSearch_only
    | (with_reducible apply Only.foldl; intro _ _ _)
    | (with_reducible intro _)
    | split

theorem State.axisFaultAs_only {M : List Part} {s0 : State} (a0) (a1) (hM : Within [.power, .host, .journal, .store, .render, .lines, .pos, .ring, .axes, .flt, .evt, .out, .free] M) (h0 : Only M s0 a0) : Only M s0 ((@State.axisFaultAs a0 a1)) := by
  unfold State.axisFaultAs
  try dsimp only
  repeat' first
    | with_reducible assumption
    | exact Within.of rfl hM
    | with_reducible apply State.updAxis_only
    | with_reducible apply State.rampStop_only
    | with_reducible apply State.detect_only
    | with_reducible apply State.unlessShadowed_only
    | with_reducible apply State.checkPrintPosition_only
    | (with_reducible apply Only.foldl; intro _ _ _)
    | (with_reducible intro _)
    | split

theorem State.axisFault_only {M : List Part} {s0 : State} (a0) (a1) (a2) (hM : Within [.power, .host, .journal, .store, .render, .lines, .pos, .ring, .axes, .flt, .evt, .out, .free] M) (h0 : Only M s0 a0) : Only M s0 ((@State.axisFault a0 a1 a2)) := by
  unfold State.axisFault
  try dsimp only
  repeat' first
    | with_reducible assumption
    | exact Within.of rfl hM
    | with_reducible apply State.axisFaultAs_only
    | (with_reducible apply Only.foldl; intro _ _ _)
    | (with_reducible intro _)
    | split

theorem State.applyLimit_only {M : List Part} {s0 : State} (a0) (a1) (hM : Within [.host, .journal, .axes, .out] M) (h0 : Only M s0 a0) : Only M s0 ((@State.applyLimit a0 a1)) := by
  unfold State.applyLimit
  try dsimp only
  repeat' first
    | with_reducible assumption
    | exact Within.of rfl hM
    | with_reducible apply State.rampStop_only
    | with_reducible apply State.hardStop_only
    | (with_reducible apply Only.foldl; intro _ _ _)
    | (with_reducible intro _)
    | split

theorem State.checkFollowing_only {M : List Part} {s0 : State} (a0) (a1) (hM : Within [.power, .host, .journal, .store, .render, .lines, .pos, .ring, .axes, .flt, .evt, .out, .free] M) (h0 : Only M s0 a0) : Only M s0 ((@State.checkFollowing a0 a1)) := by
  unfold State.checkFollowing
  try dsimp only
  repeat' first
    | with_reducible assumption
    | exact Within.of rfl hM
    | with_reducible apply State.updAxis_only
    | with_reducible apply State.axisFault_only
    | (with_reducible apply Only.foldl; intro _ _ _)
    | (with_reducible intro _)
    | split

theorem State.nextSetPoint_only {M : List Part} {s0 : State} (a0) (a1) (hM : Within [.axes] M) (h0 : Only M s0 a0) : Only M s0 ((@State.nextSetPoint a0 a1)) := by
  unfold State.nextSetPoint
  try dsimp only
  repeat' first
    | with_reducible assumption
    | exact Within.of rfl hM
    | with_reducible apply State.updAxis_only
    | (with_reducible apply Only.foldl; intro _ _ _)
    | (with_reducible intro _)
    | split

theorem State.servoTick_only {M : List Part} {s0 : State} (a0) (a1) (hM : Within [.power, .host, .journal, .store, .render, .lines, .pos, .ring, .axes, .flt, .evt, .out, .free] M) (h0 : Only M s0 a0) : Only M s0 ((@State.servoTick a0 a1)) := by
  unfold State.servoTick
  try dsimp only
  repeat' first
    | with_reducible assumption
    | exact Within.of rfl hM
    | with_reducible apply State.takeStaged_only
    | with_reducible apply State.motionDone_only
    | with_reducible apply State.applyLimit_only
    | with_reducible apply State.checkFollowing_only
    | with_reducible apply State.nextSetPoint_only
    | (with_reducible apply Only.foldl; intro _ _ _)
    | (with_reducible intro _)
    | split

theorem State.sendSlot_only {M : List Part} {s0 : State} (a0) (a1) (a2) (hM : Within [.axes, .out] M) (h0 : Only M s0 a0) : Only M s0 ((@State.sendSlot a0 a1 a2)) := by
  unfold State.sendSlot
  try dsimp only
  repeat' first
    | with_reducible assumption
    | exact Within.of rfl hM
    | with_reducible apply State.emit_only
    | with_reducible apply State.updAxis_only
    | (with_reducible apply Only.foldl; intro _ _ _)
    | (with_reducible intro _)
    | split

theorem State.cycleAxis_only {M : List Part} {s0 : State} (a0) (a1) (hM : Within [.power, .host, .journal, .store, .render, .lines, .pos, .ring, .axes, .flt, .evt, .out, .free] M) (h0 : Only M s0 a0) : Only M s0 ((@State.cycleAxis a0 a1)) := by
  unfold State.cycleAxis
  try dsimp only
  repeat' first
    | with_reducible assumption
    | exact Within.of rfl hM
    | with_reducible apply State.updAxis_only
    | with_reducible apply State.servoTick_only
    | with_reducible apply State.sendSlot_only
    | (with_reducible apply Only.foldl; intro _ _ _)
    | (with_reducible intro _)
    | split

theorem State.badAxisReply_only {M : List Part} {s0 : State} (a0) (a1) (hM : Within [.power, .host, .journal, .store, .render, .lines, .pos, .ring, .axes, .flt, .evt, .out, .free] M) (h0 : Only M s0 a0) : Only M s0 ((@State.badAxisReply a0 a1)) := by
  unfold State.badAxisReply
  try dsimp only
  repeat' first
    | with_reducible assumption
    | exact Within.of rfl hM
    | with_reducible apply State.updAxis_only
    | with_reducible apply State.countShot_only
    | with_reducible apply State.axisFault_only
    | (with_reducible apply Only.foldl; intro _ _ _)
    | (with_reducible intro _)
    | split

theorem State.startMotion_only {M : List Part} {s0 : State} (a0) (a1) (a2) (a3) (a4) (hM : Within [.host, .journal, .axes, .out] M) (h0 : Only M s0 a0) : Only M s0 ((@State.startMotion a0 a1 a2 a3 a4)) := by
  unfold State.startMotion
  try dsimp only
  repeat' first
    | with_reducible assumption
    | exact Within.of rfl hM
    | with_reducible apply State.finishAxis_only
    | with_reducible apply State.beginMotion_only
    | (with_reducible apply Only.foldl; intro _ _ _)
    | (with_reducible intro _)
    | split

theorem State.stopAxis_only {M : List Part} {s0 : State} (a0) (a1) (a2) (hM : Within [.axes] M) (h0 : Only M s0 a0) : Only M s0 ((@State.stopAxis a0 a1 a2)) := by
  unfold State.stopAxis
  try dsimp only
  repeat' first
    | with_reducible assumption
    | exact Within.of rfl hM
    | with_reducible apply State.updAxis_only
    | with_reducible apply State.rampStop_only
    | (with_reducible apply Only.foldl; intro _ _ _)
    | (with_reducible intro _)
    | split

theorem State.sdramError_only {M : List Part} {s0 : State} (a0) (a1) (a2) (hM : Within [.power, .host, .journal, .store, .render, .lines, .pos, .ring, .axes, .dmc, .flt, .evt, .out, .free] M) (h0 : Only M s0 a0) : Only M s0 ((@State.sdramError a0 a1 a2)) := by
  unfold State.sdramError
  try dsimp only
  repeat' first
    | with_reducible assumption
    | exact Within.of rfl hM
    | with_reducible apply State.fault_only
    | with_reducible apply State.sdramRequests_only
    | (with_reducible apply Only.foldl; intro _ _ _)
    | (simp only [Only.written]; apply Written.mk' <;> (first | exact .inr (Within.mem rfl hM) | exact .inl rfl | skip))
    | (with_reducible intro _)
    | split

theorem State.dropSpill_only {M : List Part} {s0 : State} (a0) (a1) (hM : Within [.host, .evt, .out] M) (h0 : Only M s0 a0) : Only M s0 ((@State.dropSpill a0 a1)) := by
  unfold State.dropSpill
  try dsimp only
  repeat' first
    | with_reducible assumption
    | exact Within.of rfl hM
    | with_reducible apply State.overflowed_only
    | (with_reducible apply Only.foldl; intro _ _ _)
    | (simp only [Only.written]; apply Written.mk' <;> (first | exact .inr (Within.mem rfl hM) | exact .inl rfl | skip))
    | (with_reducible intro _)
    | split

theorem State.loseHistory_only {M : List Part} {s0 : State} (a0) (a1) (hM : Within [.loop] M) (h0 : Only M s0 a0) : Only M s0 ((@State.loseHistory a0 a1)) := by
  unfold State.loseHistory
  try dsimp only
  repeat' first
    | with_reducible assumption
    | exact Within.of rfl hM
    | (with_reducible apply Only.foldl; intro _ _ _)
    | (simp only [Only.written]; apply Written.mk' <;> (first | exact .inr (Within.mem rfl hM) | exact .inl rfl | skip))
    | (with_reducible intro _)
    | split

theorem State.dropItem_only {M : List Part} {s0 : State} (a0) (a1) (hM : Within [.host, .journal, .codec, .evt, .hb, .out, .free] M) (h0 : Only M s0 a0) : Only M s0 ((@State.dropItem a0 a1)) := by
  unfold State.dropItem
  try dsimp only
  repeat' first
    | with_reducible assumption
    | exact Within.of rfl hM
    | with_reducible apply State.info_only
    | with_reducible apply State.finish_only
    | with_reducible apply State.freeFailure_only
    | with_reducible apply State.hbErr_only
    | (with_reducible apply Only.foldl; intro _ _ _)
    | (simp only [Only.written]; apply Written.mk' <;> (first | exact .inr (Within.mem rfl hM) | exact .inl rfl | skip))
    | (with_reducible intro _)
    | split

theorem State.dropBulk_only {M : List Part} {s0 : State} (a0) (hM : Within [.host, .journal, .codec, .evt, .hb, .out, .free] M) (h0 : Only M s0 a0) : Only M s0 ((@State.dropBulk a0)) := by
  unfold State.dropBulk
  try dsimp only
  repeat' first
    | with_reducible assumption
    | exact Within.of rfl hM
    | with_reducible apply State.dropItem_only
    | (with_reducible apply Only.foldl; intro _ _ _)
    | (simp only [Only.written]; apply Written.mk' <;> (first | exact .inr (Within.mem rfl hM) | exact .inl rfl | skip))
    | (with_reducible intro _)
    | split

theorem State.tearEntry_only {M : List Part} {s0 : State} (a0) (a1) (hM : Within [.journal, .free] M) (h0 : Only M s0 a0) : Only M s0 ((@State.tearEntry a0 a1)) := by
  unfold State.tearEntry
  try dsimp only
  repeat' first
    | with_reducible assumption
    | exact Within.of rfl hM
    | (with_reducible apply Only.foldl; intro _ _ _)
    | (simp only [Only.written]; apply Written.mk' <;> (first | exact .inr (Within.mem rfl hM) | exact .inl rfl | skip))
    | (with_reducible intro _)
    | split

theorem State.readFrame_only {M : List Part} {s0 : State} (a0) (a1) (a2) (a3) (a4) (a5) (hM : Within [.power, .host, .journal, .store, .render, .lines, .pos, .ring, .axes, .dmc, .flt, .evt, .out, .free] M) (h0 : Only M s0 a0) : Only M s0 ((@State.readFrame a0 a1 a2 a3 a4 a5)) := by
  unfold State.readFrame
  try dsimp only
  repeat' first
    | with_reducible assumption
    | exact Within.of rfl hM
    | with_reducible apply State.pageTraffic_only
    | with_reducible apply State.sdramError_only
    | (with_reducible apply Only.foldl; intro _ _ _)
    | (with_reducible intro _)
    | split

theorem State.slicesArrived_only {M : List Part} {s0 : State} (a0) (a1) (hM : Within [.render] M) (h0 : Only M s0 a0) (h1 : Only M s0 a1) : Only M s0 ((@State.slicesArrived a0 a1)) := by
  unfold State.slicesArrived
  try dsimp only
  repeat' first
    | with_reducible assumption
    | exact Within.of rfl hM
    | (with_reducible apply Only.foldl; intro _ _ _)
    | (simp only [Only.written]; apply Written.mk' <;> (first | exact .inr (Within.mem rfl hM) | exact .inl rfl | skip))
    | (with_reducible intro _)
    | split

theorem State.decodeArrived_only {M : List Part} {s0 : State} (a0) (a1) (a2) (hM : Within [.render] M) (h0 : Only M s0 a0) : Only M s0 ((@State.decodeArrived a0 a1 a2)) := by
  unfold State.decodeArrived
  try dsimp only
  repeat' first
    | with_reducible assumption
    | exact Within.of rfl hM
    | (with_reducible apply Only.foldl; intro _ _ _)
    | (simp only [Only.written]; apply Written.mk' <;> (first | exact .inr (Within.mem rfl hM) | exact .inl rfl | skip))
    | (with_reducible intro _)
    | split

theorem State.takeRows_only {M : List Part} {s0 : State} (a0) (a1) (a2) (a3) (hM : Within [.store] M) (h0 : Only M s0 a0) : Only M s0 ((@State.takeRows a0 a1 a2 a3)) := by
  unfold State.takeRows
  try dsimp only
  repeat' first
    | with_reducible assumption
    | exact Within.of rfl hM
    | with_reducible apply State.mapPage_only
    | (with_reducible apply Only.foldl; intro _ _ _)
    | (with_reducible intro _)
    | split

theorem State.failInflow_only {M : List Part} {s0 : State} (a0) (a1) (a2) (a3) (hM : Within [.host, .journal, .store, .render, .ring, .evt, .out, .free] M) (h0 : Only M s0 a0) : Only M s0 ((@State.failInflow a0 a1 a2 a3)) := by
  unfold State.failInflow
  try dsimp only
  repeat' first
    | with_reducible assumption
    | exact Within.of rfl hM
    | with_reducible apply State.mapPage_only
    | with_reducible apply State.noteFailure_only
    | with_reducible apply State.release_only
    | (with_reducible apply Only.foldl; intro _ _ _)
    | (with_reducible intro _)
    | split

theorem State.dropReplay_only {M : List Part} {s0 : State} (a0) (a1) (a2) (hM : Within [.codec, .render] M) (h0 : Only M s0 a0) : Only M s0 ((@State.dropReplay a0 a1 a2)) := by
  unfold State.dropReplay
  try dsimp only
  repeat' first
    | with_reducible assumption
    | exact Within.of rfl hM
    | (with_reducible apply Only.foldl; intro _ _ _)
    | (simp only [Only.written]; apply Written.mk' <;> (first | exact .inr (Within.mem rfl hM) | exact .inl rfl | skip))
    | (with_reducible intro _)
    | split

theorem State.endStream_only {M : List Part} {s0 : State} (a0) (a1) (hM : Within [.codec] M) (h0 : Only M s0 a0) : Only M s0 ((@State.endStream a0 a1)) := by
  unfold State.endStream
  try dsimp only
  repeat' first
    | with_reducible assumption
    | exact Within.of rfl hM
    | (with_reducible apply Only.foldl; intro _ _ _)
    | (simp only [Only.written]; apply Written.mk' <;> (first | exact .inr (Within.mem rfl hM) | exact .inl rfl | skip))
    | (with_reducible intro _)
    | split

theorem State.mapStream_only {M : List Part} {s0 : State} (a0) (a1) (a2) (hM : Within [.codec] M) (h0 : Only M s0 a0) : Only M s0 ((@State.mapStream a0 a1 a2)) := by
  unfold State.mapStream
  try dsimp only
  repeat' first
    | with_reducible assumption
    | exact Within.of rfl hM
    | (with_reducible apply Only.foldl; intro _ _ _)
    | (simp only [Only.written]; apply Written.mk' <;> (first | exact .inr (Within.mem rfl hM) | exact .inl rfl | skip))
    | (with_reducible intro _)
    | split

theorem State.jobFrame_only {M : List Part} {s0 : State} (a0) (a1) (a2) (hM : Within [.host, .journal, .codec, .evt, .out, .free] M) (h0 : Only M s0 a0) : Only M s0 ((@State.jobFrame a0 a1 a2)) := by
  unfold State.jobFrame
  try dsimp only
  repeat' first
    | with_reducible assumption
    | exact Within.of rfl hM
    | with_reducible apply State.emit_only
    | with_reducible apply State.finish_only
    | with_reducible apply State.noteFailure_only
    | with_reducible apply State.endStream_only
    | with_reducible apply State.mapStream_only
    | (with_reducible apply Only.foldl; intro _ _ _)
    | (with_reducible intro _)
    | split

theorem State.startCompress_only {M : List Part} {s0 : State} (a0) (a1) (a2) (a3) (a4) (a5) (hM : Within [.codec] M) (h0 : Only M s0 a0) : Only M s0 ((@State.startCompress a0 a1 a2 a3 a4 a5)) := by
  unfold State.startCompress
  try dsimp only
  repeat' first
    | with_reducible assumption
    | exact Within.of rfl hM
    | with_reducible apply State.assignLanes_only
    | (with_reducible apply Only.foldl; intro _ _ _)
    | (simp only [Only.written]; apply Written.mk' <;> (first | exact .inr (Within.mem rfl hM) | exact .inl rfl | skip))
    | (with_reducible intro _)
    | split

theorem State.endCompress_only {M : List Part} {s0 : State} (a0) (a1) (a2) (hM : Within [.host, .journal, .store, .codec, .dmc, .out, .free] M) (h0 : Only M s0 a0) : Only M s0 ((@State.endCompress a0 a1 a2)) := by
  unfold State.endCompress
  try dsimp only
  repeat' first
    | with_reducible assumption
    | exact Within.of rfl hM
    | with_reducible apply State.emit_only
    | with_reducible apply State.finish_only
    | with_reducible apply State.mapPage_only
    | with_reducible apply State.pageTraffic_only
    | with_reducible apply State.bulkTraffic_only
    | with_reducible apply State.endStream_only
    | (with_reducible apply Only.foldl; intro _ _ _)
    | (with_reducible intro _)
    | split

theorem State.writeHostWord_only {M : List Part} {s0 : State} (a0) (a1) (a2) (hM : Within [.host, .out] M) (h0 : Only M s0 a0) : Only M s0 ((@State.writeHostWord a0 a1 a2)) := by
  unfold State.writeHostWord
  try dsimp only
  repeat' first
    | with_reducible assumption
    | exact Within.of rfl hM
    | with_reducible apply State.sendPending_only
    | (with_reducible apply Only.foldl; intro _ _ _)
    | (simp only [Only.written]; apply Written.mk' <;> (first | exact .inr (Within.mem rfl hM) | exact .inl rfl | skip))
    | (with_reducible intro _)
    | split

theorem State.writeWord_only {M : List Part} {s0 : State} (a0) (a1) (a2) (hM : Within [.host, .journal, .flt, .evt, .hb, .out] M) (h0 : Only M s0 a0) : Only M s0 ((@State.writeWord a0 a1 a2)) := by
  unfold State.writeWord
  try dsimp only
  repeat' first
    | with_reducible assumption
    | exact Within.of rfl hM
    | with_reducible apply State.hbWrite_only
    | with_reducible apply State.writeHostWord_only
    | (with_reducible apply Only.foldl; intro _ _ _)
    | (simp only [Only.written]; apply Written.mk' <;> (first | exact .inr (Within.mem rfl hM) | exact .inl rfl | skip))
    | (with_reducible intro _)
    | split

theorem State.streamOut_only {M : List Part} {s0 : State} (a0) (a1) (a2) (a3) (a4) (a5) (hM : Within [.host, .journal, .codec, .out] M) (h0 : Only M s0 a0) : Only M s0 ((@State.streamOut a0 a1 a2 a3 a4 a5)) := by
  unfold State.streamOut
  try dsimp only
  repeat' first
    | with_reducible assumption
    | exact Within.of rfl hM
    | with_reducible apply State.finish_only
    | with_reducible apply State.startCompress_only
    | (with_reducible apply Only.foldl; intro _ _ _)
    | (with_reducible intro _)
    | split

theorem State.stepCalendar_only {M : List Part} {s0 : State} (a0) (a1) (a2) (hM : Within [.host, .ring, .evt, .out] M) (h0 : Only M s0 a0) : Only M s0 ((@State.stepCalendar a0 a1 a2)) := by
  unfold State.stepCalendar
  try dsimp only
  repeat' first
    | with_reducible assumption
    | exact Within.of rfl hM
    | with_reducible apply State.note_only
    | (with_reducible apply Only.foldl; intro _ _ _)
    | (simp only [Only.written]; apply Written.mk' <;> (first | exact .inr (Within.mem rfl hM) | exact .inl rfl | skip))
    | (with_reducible intro _)
    | split

theorem State.managerStep_only {M : List Part} {s0 : State} (a0) (a1) (a2) (hM : Within [.host, .journal, .ring, .evt, .out] M) (h0 : Only M s0 a0) : Only M s0 ((@State.managerStep a0 a1 a2)) := by
  unfold State.managerStep
  try dsimp only
  repeat' first
    | with_reducible assumption
    | exact Within.of rfl hM
    | with_reducible apply State.transact_only
    | with_reducible apply State.stepCalendar_only
    | (with_reducible apply Only.foldl; intro _ _ _)
    | (with_reducible intro _)
    | split

theorem State.calendarValid_only {M : List Part} {s0 : State} (a0) (hM : Within [.host, .ring, .evt, .out] M) (h0 : Only M s0 a0) : Only M s0 ((@State.calendarValid a0)) := by
  unfold State.calendarValid
  try dsimp only
  repeat' first
    | with_reducible assumption
    | exact Within.of rfl hM
    | with_reducible apply State.stepCalendar_only
    | (with_reducible apply Only.foldl; intro _ _ _)
    | (with_reducible intro _)
    | split

theorem State.offsetTime_only {M : List Part} {s0 : State} (a0) (a1) (a2) (hM : Within [.host, .journal, .ring, .evt, .out] M) (h0 : Only M s0 a0) : Only M s0 ((@State.offsetTime a0 a1 a2)) := by
  unfold State.offsetTime
  try dsimp only
  repeat' first
    | with_reducible assumption
    | exact Within.of rfl hM
    | with_reducible apply State.finish_only
    | with_reducible apply State.stepCalendar_only
    | with_reducible apply State.calendarValid_only
    | (with_reducible apply Only.foldl; intro _ _ _)
    | (simp only [Only.written]; apply Written.mk' <;> (first | exact .inr (Within.mem rfl hM) | exact .inl rfl | skip))
    | (with_reducible intro _)
    | split

theorem State.markForShutdown_only {M : List Part} {s0 : State} (a0) (hM : Within [.flash, .cal] M) (h0 : Only M s0 a0) : Only M s0 ((@State.markForShutdown a0)) := by
  unfold State.markForShutdown
  try dsimp only
  repeat' first
    | with_reducible assumption
    | exact Within.of rfl hM
    | with_reducible apply State.calDirty_only
    | (with_reducible apply Only.foldl; intro _ _ _)
    | (simp only [Only.written]; apply Written.mk' <;> (first | exact .inr (Within.mem rfl hM) | exact .inl rfl | skip))
    | (with_reducible intro _)
    | split

theorem State.abandonUpdate_only {M : List Part} {s0 : State} (a0) (hM : Within [.journal] M) (h0 : Only M s0 a0) : Only M s0 ((@State.abandonUpdate a0)) := by
  unfold State.abandonUpdate
  try dsimp only
  repeat' first
    | with_reducible assumption
    | exact Within.of rfl hM
    | (with_reducible apply Only.foldl; intro _ _ _)
    | (simp only [Only.written]; apply Written.mk' <;> (first | exact .inr (Within.mem rfl hM) | exact .inl rfl | skip))
    | (with_reducible intro _)
    | split

theorem State.activate_only {M : List Part} {s0 : State} (a0) (a1) (hM : Within [.flash] M) (h0 : Only M s0 a0) : Only M s0 ((@State.activate a0 a1)) := by
  unfold State.activate
  try dsimp only
  repeat' first
    | with_reducible assumption
    | exact Within.of rfl hM
    | (with_reducible apply Only.foldl; intro _ _ _)
    | (simp only [Only.written]; apply Written.mk' <;> (first | exact .inr (Within.mem rfl hM) | exact .inl rfl | skip))
    | (with_reducible intro _)
    | split

theorem State.enterLoopback_only {M : List Part} {s0 : State} (a0) (a1) (a2) (hM : Within [.ring, .out] M) (h0 : Only M s0 a0) : Only M s0 ((@State.enterLoopback a0 a1 a2)) := by
  unfold State.enterLoopback
  try dsimp only
  repeat' first
    | with_reducible assumption
    | exact Within.of rfl hM
    | with_reducible apply State.emit_only
    | with_reducible apply State.updHalyard_only
    | with_reducible apply State.sendHalyard_only
    | (with_reducible apply Only.foldl; intro _ _ _)
    | (with_reducible intro _)
    | split

theorem State.leaveLoopback_only {M : List Part} {s0 : State} (a0) (a1) (hM : Within [.ring, .out, .free] M) (h0 : Only M s0 a0) : Only M s0 ((@State.leaveLoopback a0 a1)) := by
  unfold State.leaveLoopback
  try dsimp only
  repeat' first
    | with_reducible assumption
    | exact Within.of rfl hM
    | with_reducible apply State.emit_only
    | with_reducible apply State.sendHalyard_only
    | with_reducible apply State.beginTraining_only
    | (with_reducible apply Only.foldl; intro _ _ _)
    | (with_reducible intro _)
    | split

theorem State.flagNozzle_only {M : List Part} {s0 : State} (a0) (a1) (a2) (hM : Within [.flash, .lines, .loop] M) (h0 : Only M s0 a0) : Only M s0 ((@State.flagNozzle a0 a1 a2)) := by
  unfold State.flagNozzle
  try dsimp only
  repeat' first
    | with_reducible assumption
    | exact Within.of rfl hM
    | with_reducible apply State.setNozzle_only
    | with_reducible apply State.headDirty_only
    | (with_reducible apply Only.foldl; intro _ _ _)
    | (simp only [Only.written]; apply Written.mk' <;> (first | exact .inr (Within.mem rfl hM) | exact .inl rfl | skip))
    | (with_reducible intro _)
    | split

theorem State.judgeWindow_only {M : List Part} {s0 : State} (a0) (a1) (hM : Within [.flash, .lines, .loop] M) (h0 : Only M s0 a0) : Only M s0 ((@State.judgeWindow a0 a1)) := by
  unfold State.judgeWindow
  try dsimp only
  repeat' first
    | with_reducible assumption
    | exact Within.of rfl hM
    | with_reducible apply State.flagNozzle_only
    | (with_reducible apply Only.foldl; intro _ _ _)
    | (with_reducible intro _)
    | split

theorem State.testResult_only {M : List Part} {s0 : State} (a0) (a1) (a2) (hM : Within [.flash, .lines, .loop] M) (h0 : Only M s0 a0) : Only M s0 ((@State.testResult a0 a1 a2)) := by
  unfold State.testResult
  try dsimp only
  repeat' first
    | with_reducible assumption
    | exact Within.of rfl hM
    | with_reducible apply State.flagNozzle_only
    | with_reducible apply State.judgeWindow_only
    | (with_reducible apply Only.foldl; intro _ _ _)
    | (simp only [Only.written]; apply Written.mk' <;> (first | exact .inr (Within.mem rfl hM) | exact .inl rfl | skip))
    | (with_reducible intro _)
    | split

theorem State.nextPhase_only {M : List Part} {s0 : State} (a0) (a1) (hM : Within [.lines, .loop] M) (h0 : Only M s0 a0) : Only M s0 ((@State.nextPhase a0 a1)) := by
  unfold State.nextPhase
  try dsimp only
  repeat' first
    | with_reducible assumption
    | exact Within.of rfl hM
    | with_reducible apply State.setOut_only
    | with_reducible apply State.endProbe_only
    | (with_reducible apply Only.foldl; intro _ _ _)
    | (simp only [Only.written]; apply Written.mk' <;> (first | exact .inr (Within.mem rfl hM) | exact .inl rfl | skip))
    | (with_reducible intro _)
    | split

theorem State.endPhase_only {M : List Part} {s0 : State} (a0) (a1) (a2) (a3) (hM : Within [.lines, .loop] M) (h0 : Only M s0 a0) : Only M s0 ((@State.endPhase a0 a1 a2 a3)) := by
  unfold State.endPhase
  try dsimp only
  repeat' first
    | with_reducible assumption
    | exact Within.of rfl hM
    | with_reducible apply State.nextPhase_only
    | (with_reducible apply Only.foldl; intro _ _ _)
    | (simp only [Only.written]; apply Written.mk' <;> (first | exact .inr (Within.mem rfl hM) | exact .inl rfl | skip))
    | (with_reducible intro _)
    | split

theorem State.startProbe_only {M : List Part} {s0 : State} (a0) (a1) (a2) (a3) (a4) (hM : Within [.lines, .loop] M) (h0 : Only M s0 a0) : Only M s0 ((@State.startProbe a0 a1 a2 a3 a4)) := by
  unfold State.startProbe
  try dsimp only
  repeat' first
    | with_reducible assumption
    | exact Within.of rfl hM
    | with_reducible apply State.nextPhase_only
    | (with_reducible apply Only.foldl; intro _ _ _)
    | (with_reducible intro _)
    | split

theorem State.columnDirty_only {M : List Part} {s0 : State} (a0) (a1) (hM : Within [.flash] M) (h0 : Only M s0 a0) : Only M s0 ((@State.columnDirty a0 a1)) := by
  unfold State.columnDirty
  try dsimp only
  repeat' first
    | with_reducible assumption
    | exact Within.of rfl hM
    | with_reducible apply State.headDirty_only
    | (with_reducible apply Only.foldl; intro _ _ _)
    | (with_reducible intro _)
    | split

theorem State.gainEntry_only {M : List Part} {s0 : State} (a0) (a1) (a2) (hM : Within [.flash, .loop] M) (h0 : Only M s0 a0) : Only M s0 ((@State.gainEntry a0 a1 a2)) := by
  unfold State.gainEntry
  try dsimp only
  repeat' first
    | with_reducible assumption
    | exact Within.of rfl hM
    | with_reducible apply State.columnDirty_only
    | (with_reducible apply Only.foldl; intro _ _ _)
    | (simp only [Only.written]; apply Written.mk' <;> (first | exact .inr (Within.mem rfl hM) | exact .inl rfl | skip))
    | (with_reducible intro _)
    | split

theorem State.offsetEntry_only {M : List Part} {s0 : State} (a0) (a1) (a2) (hM : Within [.flash, .loop] M) (h0 : Only M s0 a0) : Only M s0 ((@State.offsetEntry a0 a1 a2)) := by
  unfold State.offsetEntry
  try dsimp only
  repeat' first
    | with_reducible assumption
    | exact Within.of rfl hM
    | with_reducible apply State.columnDirty_only
    | (with_reducible apply Only.foldl; intro _ _ _)
    | (simp only [Only.written]; apply Written.mk' <;> (first | exact .inr (Within.mem rfl hM) | exact .inl rfl | skip))
    | (with_reducible intro _)
    | split

theorem State.judgeColumn_only {M : List Part} {s0 : State} (a0) (a1) (a2) (a3) (a4) (a5) (hM : Within [.flash, .lines, .loop] M) (h0 : Only M s0 a0) : Only M s0 ((@State.judgeColumn a0 a1 a2 a3 a4 a5).1) := by
  unfold State.judgeColumn
  try dsimp only
  repeat' first
    | with_reducible assumption
    | exact Within.of rfl hM
    | with_reducible apply State.judgeWindow_only
    | with_reducible apply State.nextPhase_only
    | with_reducible apply State.endPhase_only
    | with_reducible apply State.startProbe_only
    | with_reducible apply State.gainEntry_only
    | with_reducible apply State.offsetEntry_only
    | (with_reducible apply Only.foldl; intro _ _ _)
    | (simp only [Only.written]; apply Written.mk' <;> (first | exact .inr (Within.mem rfl hM) | exact .inl rfl | skip))
    | (with_reducible intro _)
    | split

theorem State.judgeColumns_only {M : List Part} {s0 : State} (s : State) (ts : TableSet) (p : Profile) (hM : Within [.flash, .lines, .loop] M) (h : Only M s0 s) : Only M s0 (s.judgeColumns ts p).1 := by
  unfold State.judgeColumns
  have key : ∀ (l : List Nat) (r : State × Findings), Only M s0 r.1 → Only M s0 (l.foldl (fun r c =>
      match s.evidence ts p c, p.sample c with
      | some l, some delta => r.1.judgeColumn p c r.2 delta l
      | _, _ => r) r).1 := by
    intro l
    induction l with
    | nil => exact fun _ hr => hr
    | cons c t ih =>
      intro r hr
      refine ih _ ?_
      dsimp only
      split
      · exact State.judgeColumn_only _ _ _ _ _ _ (Within.of rfl hM) hr
      · exact hr
  exact key _ (s, {}) h

theorem State.endProfile_only {M : List Part} {s0 : State} (a0) (a1) (a2) (a3) (hM : Within [.host, .journal, .ring, .out] M) (h0 : Only M s0 a0) : Only M s0 ((@State.endProfile a0 a1 a2 a3)) := by
  unfold State.endProfile
  try dsimp only
  repeat' first
    | with_reducible assumption
    | exact Within.of rfl hM
    | with_reducible apply State.finish_only
    | with_reducible apply State.ringSend_only
    | (with_reducible apply Only.foldl; intro _ _ _)
    | (with_reducible intro _)
    | split

theorem State.acceptProfile_only {M : List Part} {s0 : State} (a0) (a1) (hM : Within [.host, .journal, .loop, .ring, .out] M) (h0 : Only M s0 a0) : Only M s0 ((@State.acceptProfile a0 a1)) := by
  unfold State.acceptProfile
  try dsimp only
  repeat' first
    | with_reducible assumption
    | exact Within.of rfl hM
    | with_reducible apply State.endProfile_only
    | (with_reducible apply Only.foldl; intro _ _ _)
    | (simp only [Only.written]; apply Written.mk' <;> (first | exact .inr (Within.mem rfl hM) | exact .inl rfl | skip))
    | (with_reducible intro _)
    | split

theorem State.forwardProfile_only {M : List Part} {s0 : State} (a0) (a1) (a2) (hM : Within [.host, .journal, .ring, .out] M) (h0 : Only M s0 a0) : Only M s0 ((@State.forwardProfile a0 a1 a2)) := by
  unfold State.forwardProfile
  try dsimp only
  repeat' first
    | with_reducible assumption
    | exact Within.of rfl hM
    | with_reducible apply State.setRunning_only
    | with_reducible apply State.takeSq_only
    | with_reducible apply State.sendNumbered_only
    | (with_reducible apply Only.foldl; intro _ _ _)
    | (simp only [Only.written]; apply Written.mk' <;> (first | exact .inr (Within.mem rfl hM) | exact .inl rfl | skip))
    | (with_reducible intro _)
    | split

theorem State.takePolicy_only {M : List Part} {s0 : State} (a0) (a1) (hM : Within [.lines, .loop] M) (h0 : Only M s0 a0) : Only M s0 ((@State.takePolicy a0 a1)) := by
  unfold State.takePolicy
  try dsimp only
  repeat' first
    | with_reducible assumption
    | exact Within.of rfl hM
    | with_reducible apply State.endProbe_only
    | (with_reducible apply Only.foldl; intro _ _ _)
    | (simp only [Only.written]; apply Written.mk' <;> (first | exact .inr (Within.mem rfl hM) | exact .inl rfl | skip))
    | (with_reducible intro _)
    | split

theorem State.override_only {M : List Part} {s0 : State} (a0) (a1) (a2) (hM : Within [.flash, .lines, .loop] M) (h0 : Only M s0 a0) : Only M s0 ((@State.override a0 a1 a2)) := by
  unfold State.override
  try dsimp only
  repeat' first
    | with_reducible assumption
    | exact Within.of rfl hM
    | with_reducible apply State.setNozzle_only
    | with_reducible apply State.endProbe_only
    | with_reducible apply State.headDirty_only
    | (with_reducible apply Only.foldl; intro _ _ _)
    | (simp only [Only.written]; apply Written.mk' <;> (first | exact .inr (Within.mem rfl hM) | exact .inl rfl | skip))
    | (with_reducible intro _)
    | split

theorem State.resetColumn_only {M : List Part} {s0 : State} (a0) (a1) (hM : Within [.flash, .loop] M) (h0 : Only M s0 a0) : Only M s0 ((@State.resetColumn a0 a1)) := by
  unfold State.resetColumn
  try dsimp only
  repeat' first
    | with_reducible assumption
    | exact Within.of rfl hM
    | with_reducible apply State.columnDirty_only
    | (with_reducible apply Only.foldl; intro _ _ _)
    | (simp only [Only.written]; apply Written.mk' <;> (first | exact .inr (Within.mem rfl hM) | exact .inl rfl | skip))
    | (with_reducible intro _)
    | split

theorem State.retireAtOnce_only {M : List Part} {s0 : State} (a0) (a1) (a2) (a3) (hM : Within [.host, .journal, .store, .pos, .ring, .evt, .out] M) (h0 : Only M s0 a0) : Only M s0 ((@State.retireAtOnce a0 a1 a2 a3).1) := by
  unfold State.retireAtOnce
  try dsimp only
  repeat' first
    | with_reducible assumption
    | exact Within.of rfl hM
    | with_reducible apply State.spoilLosses_only
    | with_reducible apply State.dropHead_only
    | (with_reducible apply Only.foldl; intro _ _ _)
    | (with_reducible intro _)
    | split

theorem State.supersede_only {M : List Part} {s0 : State} (a0) (a1) (hM : Within [.host, .journal, .heads, .out] M) (h0 : Only M s0 a0) : Only M s0 ((@State.supersede a0 a1)) := by
  unfold State.supersede
  try dsimp only
  repeat' first
    | with_reducible assumption
    | exact Within.of rfl hM
    | with_reducible apply State.finish_only
    | with_reducible apply State.updPort_only
    | (with_reducible apply Only.foldl; intro _ _ _)
    | (with_reducible intro _)
    | split

theorem State.atPort_only {M : List Part} {s0 : State} (a0) (a1) (hM : Within [.host, .journal, .heads, .out] M) (h0 : Only M s0 a0) (h1 : ∀ s, Only M s0 s → Only M s0 ((a1 s))) : Only M s0 ((@State.atPort a0 a1)) := by
  unfold State.atPort
  try dsimp only
  repeat' first
    | with_reducible assumption
    | exact Within.of rfl hM
    | with_reducible apply h1
    | with_reducible apply State.settleHeadResets_only
    | (with_reducible apply Only.foldl; intro _ _ _)
    | (with_reducible intro _)
    | split

theorem State.sendPings_only {M : List Part} {s0 : State} (a0) (a1) (hM : Within [.out] M) (h0 : Only M s0 a0) : Only M s0 ((@State.sendPings a0 a1)) := by
  unfold State.sendPings
  try dsimp only
  repeat' first
    | with_reducible assumption
    | exact Within.of rfl hM
    | with_reducible apply State.sendHead_only
    | (with_reducible apply Only.foldl; intro _ _ _)
    | (with_reducible intro _)
    | split

theorem State.startSync_only {M : List Part} {s0 : State} (a0) (a1) (hM : Within [.heads, .out] M) (h0 : Only M s0 a0) : Only M s0 ((@State.startSync a0 a1)) := by
  unfold State.startSync
  try dsimp only
  repeat' first
    | with_reducible assumption
    | exact Within.of rfl hM
    | with_reducible apply State.updPort_only
    | with_reducible apply State.sendSync_only
    | (with_reducible apply Only.foldl; intro _ _ _)
    | (with_reducible intro _)
    | split

theorem State.afterPings_only {M : List Part} {s0 : State} (a0) (a1) (hM : Within [.heads, .out] M) (h0 : Only M s0 a0) : Only M s0 ((@State.afterPings a0 a1)) := by
  unfold State.afterPings
  try dsimp only
  repeat' first
    | with_reducible assumption
    | exact Within.of rfl hM
    | with_reducible apply State.updPort_only
    | with_reducible apply State.sendHead_only
    | with_reducible apply State.startSync_only
    | (with_reducible apply Only.foldl; intro _ _ _)
    | (with_reducible intro _)
    | split

theorem State.rateFallback_only {M : List Part} {s0 : State} (a0) (a1) (hM : Within [.host, .heads, .evt, .out] M) (h0 : Only M s0 a0) : Only M s0 ((@State.rateFallback a0 a1)) := by
  unfold State.rateFallback
  try dsimp only
  repeat' first
    | with_reducible assumption
    | exact Within.of rfl hM
    | with_reducible apply State.info_only
    | with_reducible apply State.updPort_only
    | with_reducible apply State.startSync_only
    | (with_reducible apply Only.foldl; intro _ _ _)
    | (with_reducible intro _)
    | split

theorem State.attemptFailed_only {M : List Part} {s0 : State} (a0) (a1) (hM : Within [.host, .journal, .heads, .evt, .out] M) (h0 : Only M s0 a0) : Only M s0 ((@State.attemptFailed a0 a1)) := by
  unfold State.attemptFailed
  try dsimp only
  repeat' first
    | with_reducible assumption
    | exact Within.of rfl hM
    | with_reducible apply State.info_only
    | with_reducible apply State.updPort_only
    | with_reducible apply State.bringupFailed_only
    | (with_reducible apply Only.foldl; intro _ _ _)
    | (with_reducible intro _)
    | split

theorem State.driveStatus_only {M : List Part} {s0 : State} (a0) (a1) (a2) (hM : Within [.power, .host, .journal, .store, .render, .lines, .pos, .heads, .ring, .axes, .flt, .evt, .hb, .out, .free] M) (h0 : Only M s0 a0) : Only M s0 ((@State.driveStatus a0 a1 a2)) := by
  unfold State.driveStatus
  try dsimp only
  repeat' first
    | with_reducible assumption
    | exact Within.of rfl hM
    | with_reducible apply State.updPort_only
    | with_reducible apply State.fencePort_only
    | (with_reducible apply Only.foldl; intro _ _ _)
    | (with_reducible intro _)
    | split

theorem State.shadowMismatchAs_only {M : List Part} {s0 : State} (a0) (a1) (hM : Within [.power, .host, .journal, .store, .render, .lines, .pos, .heads, .ring, .axes, .flt, .evt, .hb, .out, .free] M) (h0 : Only M s0 a0) : Only M s0 ((@State.shadowMismatchAs a0 a1)) := by
  unfold State.shadowMismatchAs
  try dsimp only
  repeat' first
    | with_reducible assumption
    | exact Within.of rfl hM
    | with_reducible apply State.unlessShadowed_only
    | with_reducible apply State.updPort_only
    | with_reducible apply State.fencePortAs_only
    | (with_reducible apply Only.foldl; intro _ _ _)
    | (with_reducible intro _)
    | split

theorem State.shadowMismatch_only {M : List Part} {s0 : State} (a0) (a1) (hM : Within [.power, .host, .journal, .store, .render, .lines, .pos, .heads, .ring, .axes, .flt, .evt, .hb, .out, .free] M) (h0 : Only M s0 a0) : Only M s0 ((@State.shadowMismatch a0 a1)) := by
  unfold State.shadowMismatch
  try dsimp only
  repeat' first
    | with_reducible assumption
    | exact Within.of rfl hM
    | with_reducible apply State.shadowMismatchAs_only
    | (with_reducible apply Only.foldl; intro _ _ _)
    | (with_reducible intro _)
    | split

theorem State.loseLine_only {M : List Part} {s0 : State} (a0) (a1) (a2) (hM : Within [.power, .host, .journal, .store, .render, .lines, .pos, .heads, .loop, .ring, .axes, .flt, .evt, .hb, .out, .free] M) (h0 : Only M s0 a0) : Only M s0 ((@State.loseLine a0 a1 a2)) := by
  unfold State.loseLine
  try dsimp only
  repeat' first
    | with_reducible assumption
    | exact Within.of rfl hM
    | with_reducible apply State.spoilLine_only
    | with_reducible apply State.fault_only
    | with_reducible apply State.updPort_only
    | with_reducible apply State.hbErr_only
    | with_reducible apply State.fencePort_only
    | with_reducible apply State.blankEntries_only
    | with_reducible apply State.forget_only
    | (with_reducible apply Only.foldl; intro _ _ _)
    | (simp only [Only.written]; apply Written.mk' <;> (first | exact .inr (Within.mem rfl hM) | exact .inl rfl | skip))
    | (with_reducible intro _)
    | split

theorem State.waveAcked_only {M : List Part} {s0 : State} (a0) (a1) (a2) (hM : Within [.host, .journal, .heads, .out] M) (h0 : Only M s0 a0) : Only M s0 ((@State.waveAcked a0 a1 a2)) := by
  unfold State.waveAcked
  try dsimp only
  repeat' first
    | with_reducible assumption
    | exact Within.of rfl hM
    | with_reducible apply State.updPort_only
    | with_reducible apply State.sendHead_only
    | with_reducible apply State.enterService_only
    | (with_reducible apply Only.foldl; intro _ _ _)
    | (with_reducible intro _)
    | split

theorem State.headLinkLost_only {M : List Part} {s0 : State} (a0) (a1) (hM : Within [.power, .host, .journal, .store, .render, .lines, .pos, .heads, .ring, .axes, .flt, .evt, .hb, .out, .free] M) (h0 : Only M s0 a0) : Only M s0 ((@State.headLinkLost a0 a1)) := by
  unfold State.headLinkLost
  try dsimp only
  repeat' first
    | with_reducible assumption
    | exact Within.of rfl hM
    | with_reducible apply State.updPort_only
    | with_reducible apply State.fencePort_only
    | with_reducible apply State.atPort_only
    | (with_reducible apply Only.foldl; intro _ _ _)
    | (with_reducible intro _)
    | split

theorem State.putService_only {M : List Part} {s0 : State} (a0) (a1) (hM : Within [.host, .evt, .out] M) (h0 : Only M s0 a0) : Only M s0 ((@State.putService a0 a1)) := by
  unfold State.putService
  try dsimp only
  repeat' first
    | with_reducible assumption
    | exact Within.of rfl hM
    | with_reducible apply State.interrupt_only
    | with_reducible apply State.info_only
    | (with_reducible apply Only.foldl; intro _ _ _)
    | (simp only [Only.written]; apply Written.mk' <;> (first | exact .inr (Within.mem rfl hM) | exact .inl rfl | skip))
    | (with_reducible intro _)
    | split

theorem State.commitFault_only {M : List Part} {s0 : State} (a0) (a1) (hM : Within [.power, .host, .journal, .store, .render, .lines, .pos, .ring, .axes, .flt, .evt, .out, .free] M) (h0 : Only M s0 a0) : Only M s0 ((@State.commitFault a0 a1)) := by
  unfold State.commitFault
  try dsimp only
  repeat' first
    | with_reducible assumption
    | exact Within.of rfl hM
    | with_reducible apply State.fault_only
    | (with_reducible apply Only.foldl; intro _ _ _)
    | (with_reducible intro _)
    | split

theorem State.commitRecord_only {M : List Part} {s0 : State} (a0) (a1) (a2) (hM : Within [.power, .host, .journal, .store, .render, .lines, .pos, .ring, .axes, .flt, .evt, .out, .free] M) (h0 : Only M s0 a0) : Only M s0 ((@State.commitRecord a0 a1 a2)) := by
  unfold State.commitRecord
  try dsimp only
  repeat' first
    | with_reducible assumption
    | exact Within.of rfl hM
    | with_reducible apply State.overflowed_only
    | with_reducible apply State.putService_only
    | with_reducible apply State.commitFault_only
    | (with_reducible apply Only.foldl; intro _ _ _)
    | (simp only [Only.written]; apply Written.mk' <;> (first | exact .inr (Within.mem rfl hM) | exact .inl rfl | skip))
    | (with_reducible intro _)
    | split

theorem State.noteFirst_only {M : List Part} {s0 : State} (a0) (a1) (hM : Within [.host, .evt, .out] M) (h0 : Only M s0 a0) : Only M s0 ((@State.noteFirst a0 a1)) := by
  unfold State.noteFirst
  try dsimp only
  repeat' first
    | with_reducible assumption
    | exact Within.of rfl hM
    | with_reducible apply State.note_only
    | (with_reducible apply Only.foldl; intro _ _ _)
    | (simp only [Only.written]; apply Written.mk' <;> (first | exact .inr (Within.mem rfl hM) | exact .inl rfl | skip))
    | (with_reducible intro _)
    | split

theorem State.dropFront_only {M : List Part} {s0 : State} (a0) (hM : Within [.host, .evt, .out] M) (h0 : Only M s0 a0) : Only M s0 ((@State.dropFront a0)) := by
  unfold State.dropFront
  try dsimp only
  repeat' first
    | with_reducible assumption
    | exact Within.of rfl hM
    | with_reducible apply State.overflowed_only
    | (with_reducible apply Only.foldl; intro _ _ _)
    | (simp only [Only.written]; apply Written.mk' <;> (first | exact .inr (Within.mem rfl hM) | exact .inl rfl | skip))
    | (with_reducible intro _)
    | split

theorem State.pathFault_only {M : List Part} {s0 : State} (a0) (a1) (hM : Within [.power, .host, .journal, .store, .render, .lines, .pos, .heads, .loop, .ring, .axes, .flt, .evt, .hb, .out, .free] M) (h0 : Only M s0 a0) : Only M s0 ((@State.pathFault a0 a1)) := by
  unfold State.pathFault
  try dsimp only
  repeat' first
    | with_reducible assumption
    | exact Within.of rfl hM
    | with_reducible apply State.detect_only
    | with_reducible apply State.updPort_only
    | with_reducible apply State.rowLineFault_only
    | (with_reducible apply Only.foldl; intro _ _ _)
    | (with_reducible intro _)
    | split

theorem State.detectAndReact_only {M : List Part} {s0 : State} (a0) (a1) (hM : Within [.power, .host, .journal, .store, .codec, .render, .lines, .pos, .heads, .loop, .ring, .axes, .dmc, .flt, .evt, .cal, .hb, .out, .free] M) (h0 : Only M s0 a0) : Only M s0 ((@State.detectAndReact a0 a1)) := by
  unfold State.detectAndReact
  try dsimp only
  repeat' first
    | with_reducible assumption
    | exact Within.of rfl hM
    | with_reducible apply State.disarmNow_only
    | with_reducible apply State.detect_only
    | with_reducible apply State.stopFiring_only
    | with_reducible apply State.fencePortAs_only
    | with_reducible apply State.hostInterfaceReset_only
    | with_reducible apply State.warmReset_only
    | with_reducible apply State.linkFailed_only
    | with_reducible apply State.fencePennant_only
    | with_reducible apply State.pennantFailedAs_only
    | with_reducible apply State.pennantMismatchAs_only
    | with_reducible apply State.fenceUnit_only
    | with_reducible apply State.fenceLane_only
    | with_reducible apply State.unitFailedAs_only
    | with_reducible apply State.laneFailedAs_only
    | with_reducible apply State.unitMismatchAs_only
    | with_reducible apply State.laneMismatchAs_only
    | with_reducible apply State.axisFaultAs_only
    | with_reducible apply State.shadowMismatchAs_only
    | with_reducible apply State.dropFront_only
    | with_reducible apply State.pathFault_only
    | (with_reducible apply Only.foldl; intro _ _ _)
    | (with_reducible intro _)
    | split

theorem State.takeDetection_only {M : List Part} {s0 : State} (a0) (a1) (hM : Within [.now, .power, .host, .journal, .store, .codec, .render, .lines, .pos, .heads, .loop, .ring, .axes, .dmc, .flt, .evt, .cal, .hb, .out, .free] M) (h0 : Only M s0 a0) : Only M s0 ((@State.takeDetection a0 a1)) := by
  unfold State.takeDetection
  try dsimp only
  repeat' first
    | with_reducible assumption
    | exact Within.of rfl hM
    | with_reducible apply State.settleDisarm_only
    | with_reducible apply State.detect_only
    | with_reducible apply State.settleShutdown_only
    | with_reducible apply State.detectAndReact_only
    | (with_reducible apply Only.foldl; intro _ _ _)
    | (simp only [Only.written]; apply Written.mk' <;> (first | exact .inr (Within.mem rfl hM) | exact .inl rfl | skip))
    | (with_reducible intro _)
    | split

theorem State.takeCycle_only {M : List Part} {s0 : State} (a0) (a1) (hM : Within [.now, .power, .host, .journal, .store, .codec, .render, .lines, .pos, .heads, .loop, .ring, .axes, .dmc, .flt, .evt, .cal, .hb, .out, .free] M) (h0 : Only M s0 a0) : Only M s0 ((@State.takeCycle a0 a1)) := by
  unfold State.takeCycle
  try dsimp only
  repeat' first
    | with_reducible assumption
    | exact Within.of rfl hM
    | with_reducible apply State.takeDetection_only
    | (with_reducible apply Only.foldl; intro _ _ _)
    | (simp only [Only.written]; apply Written.mk' <;> (first | exact .inr (Within.mem rfl hM) | exact .inl rfl | skip))
    | (with_reducible intro _)
    | split

theorem State.cancelPage_only {M : List Part} {s0 : State} (a0) (a1) (a2) (hM : Within [.host, .journal, .store, .render, .ring, .evt, .out] M) (h0 : Only M s0 a0) : Only M s0 ((@State.cancelPage a0 a1 a2)) := by
  unfold State.cancelPage
  try dsimp only
  repeat' first
    | with_reducible assumption
    | exact Within.of rfl hM
    | with_reducible apply State.finish_only
    | with_reducible apply State.mapPage_only
    | with_reducible apply State.mapJob_only
    | with_reducible apply State.settleJob_only
    | with_reducible apply State.release_only
    | with_reducible apply State.tellPage_only
    | (with_reducible apply Only.foldl; intro _ _ _)
    | (with_reducible intro _)
    | split

theorem State.refuseFull_only {M : List Part} {s0 : State} (a0) (a1) (a2) (hM : Within [.host, .journal, .evt, .out] M) (h0 : Only M s0 a0) : Only M s0 ((@State.refuseFull a0 a1 a2)) := by
  unfold State.refuseFull
  try dsimp only
  repeat' first
    | with_reducible assumption
    | exact Within.of rfl hM
    | with_reducible apply State.refuse_only
    | (with_reducible apply Only.foldl; intro _ _ _)
    | (with_reducible intro _)
    | split

theorem State.settleSubmit_only {M : List Part} {s0 : State} (a0) (a1) (hM : Within [.host, .journal, .store, .ring, .out] M) (h0 : Only M s0 a0) : Only M s0 ((@State.settleSubmit a0 a1)) := by
  unfold State.settleSubmit
  try dsimp only
  repeat' first
    | with_reducible assumption
    | exact Within.of rfl hM
    | with_reducible apply State.settleJob_only
    | (with_reducible apply Only.foldl; intro _ _ _)
    | (with_reducible intro _)
    | split

theorem State.recordStored_only {M : List Part} {s0 : State} (a0) (a1) (hM : Within [.heads] M) (h0 : Only M s0 a0) : Only M s0 ((@State.recordStored a0 a1)) := by
  unfold State.recordStored
  try dsimp only
  repeat' first
    | with_reducible assumption
    | exact Within.of rfl hM
    | (with_reducible apply Only.foldl; intro _ _ _)
    | (simp only [Only.written]; apply Written.mk' <;> (first | exact .inr (Within.mem rfl hM) | exact .inl rfl | skip))
    | (with_reducible intro _)
    | split

theorem State.pageDmaError_only {M : List Part} {s0 : State} (a0) (a1) (a2) (hM : Within [.host, .journal, .store, .ring, .evt, .out] M) (h0 : Only M s0 a0) : Only M s0 ((@State.pageDmaError a0 a1 a2)) := by
  unfold State.pageDmaError
  try dsimp only
  repeat' first
    | with_reducible assumption
    | exact Within.of rfl hM
    | with_reducible apply State.refuse_only
    | with_reducible apply State.mapJob_only
    | with_reducible apply State.settleJob_only
    | (with_reducible apply Only.foldl; intro _ _ _)
    | (simp only [Only.written]; apply Written.mk' <;> (first | exact .inr (Within.mem rfl hM) | exact .inl rfl | skip))
    | (with_reducible intro _)
    | split

theorem State.updCq_only {M : List Part} {s0 : State} (a0) (a1) (a2) (hM : Within [.host] M) (h0 : Only M s0 a0) : Only M s0 ((@State.updCq a0 a1 a2)) := by
  unfold State.updCq
  try dsimp only
  repeat' first
    | with_reducible assumption
    | exact Within.of rfl hM
    | (with_reducible apply Only.foldl; intro _ _ _)
    | (simp only [Only.written]; apply Written.mk' <;> (first | exact .inr (Within.mem rfl hM) | exact .inl rfl | skip))
    | (with_reducible intro _)
    | split

theorem State.updCc_only {M : List Part} {s0 : State} (a0) (a1) (a2) (hM : Within [.host] M) (h0 : Only M s0 a0) : Only M s0 ((@State.updCc a0 a1 a2)) := by
  unfold State.updCc
  try dsimp only
  repeat' first
    | with_reducible assumption
    | exact Within.of rfl hM
    | (with_reducible apply Only.foldl; intro _ _ _)
    | (simp only [Only.written]; apply Written.mk' <;> (first | exact .inr (Within.mem rfl hM) | exact .inl rfl | skip))
    | (with_reducible intro _)
    | split

theorem State.journalEntry_only {M : List Part} {s0 : State} (a0) (a1) (hM : Within [.journal, .dmc] M) (h0 : Only M s0 a0) : Only M s0 ((@State.journalEntry a0 a1)) := by
  unfold State.journalEntry
  try dsimp only
  repeat' first
    | with_reducible assumption
    | exact Within.of rfl hM
    | with_reducible apply State.sdramRequests_only
    | (with_reducible apply Only.foldl; intro _ _ _)
    | (simp only [Only.written]; apply Written.mk' <;> (first | exact .inr (Within.mem rfl hM) | exact .inl rfl | skip))
    | (with_reducible intro _)
    | split

theorem State.acceptEntry_only {M : List Part} {s0 : State} (a0) (a1) (a2) (hM : Within [.host, .journal, .dmc, .out] M) (h0 : Only M s0 a0) : Only M s0 ((@State.acceptEntry a0 a1 a2)) := by
  unfold State.acceptEntry
  try dsimp only
  repeat' first
    | with_reducible assumption
    | exact Within.of rfl hM
    | with_reducible apply State.emit_only
    | with_reducible apply State.finish_only
    | with_reducible apply State.updCq_only
    | with_reducible apply State.journalEntry_only
    | (with_reducible apply Only.foldl; intro _ _ _)
    | (simp only [Only.written]; apply Written.mk' <;> (first | exact .inr (Within.mem rfl hM) | exact .inl rfl | skip))
    | (with_reducible intro _)
    | split

theorem State.dbgStep_only {M : List Part} {s0 : State} (a0) (a1) (hM : Within [.host, .evt, .out] M) (h0 : Only M s0 a0) : Only M s0 ((@State.dbgStep a0 a1)) := by
  unfold State.dbgStep
  try dsimp only
  repeat' first
    | with_reducible assumption
    | exact Within.of rfl hM
    | with_reducible apply State.interrupt_only
    | with_reducible apply State.info_only
    | (with_reducible apply Only.foldl; intro _ _ _)
    | (simp only [Only.written]; apply Written.mk' <;> (first | exact .inr (Within.mem rfl hM) | exact .inl rfl | skip))
    | (with_reducible intro _)
    | split

theorem State.settleRing_only {M : List Part} {s0 : State} (a0) (hM : Within [.host, .ring, .out] M) (h0 : Only M s0 a0) : Only M s0 ((@State.settleRing a0)) := by
  unfold State.settleRing
  try dsimp only
  repeat' first
    | with_reducible assumption
    | exact Within.of rfl hM
    | with_reducible apply State.postV_only
    | (with_reducible apply Only.foldl; intro _ _ _)
    | (simp only [Only.written]; apply Written.mk' <;> (first | exact .inr (Within.mem rfl hM) | exact .inl rfl | skip))
    | (with_reducible intro _)
    | split

theorem State.sendElect_only {M : List Part} {s0 : State} (a0) (a1) (a2) (a3) (hM : Within [.ring, .out] M) (h0 : Only M s0 a0) : Only M s0 ((@State.sendElect a0 a1 a2 a3)) := by
  unfold State.sendElect
  try dsimp only
  repeat' first
    | with_reducible assumption
    | exact Within.of rfl hM
    | with_reducible apply State.sendCounted_only
    | (with_reducible apply Only.foldl; intro _ _ _)
    | (with_reducible intro _)
    | split

theorem State.sendBeacon_only {M : List Part} {s0 : State} (a0) (hM : Within [.ring, .out] M) (h0 : Only M s0 a0) : Only M s0 ((@State.sendBeacon a0)) := by
  unfold State.sendBeacon
  try dsimp only
  repeat' first
    | with_reducible assumption
    | exact Within.of rfl hM
    | with_reducible apply State.sendCounted_only
    | (with_reducible apply Only.foldl; intro _ _ _)
    | (simp only [Only.written]; apply Written.mk' <;> (first | exact .inr (Within.mem rfl hM) | exact .inl rfl | skip))
    | (with_reducible intro _)
    | split

theorem State.measureOffset_only {M : List Part} {s0 : State} (a0) (hM : Within [.ring] M) (h0 : Only M s0 a0) : Only M s0 ((@State.measureOffset a0)) := by
  unfold State.measureOffset
  try dsimp only
  repeat' first
    | with_reducible assumption
    | exact Within.of rfl hM
    | (with_reducible apply Only.foldl; intro _ _ _)
    | (simp only [Only.written]; apply Written.mk' <;> (first | exact .inr (Within.mem rfl hM) | exact .inl rfl | skip))
    | (with_reducible intro _)
    | split

theorem State.appoint_only {M : List Part} {s0 : State} (a0) (a1) (hM : Within [.ring, .out] M) (h0 : Only M s0 a0) : Only M s0 ((@State.appoint a0 a1)) := by
  unfold State.appoint
  try dsimp only
  repeat' first
    | with_reducible assumption
    | exact Within.of rfl hM
    | with_reducible apply State.sendMirror_only
    | (with_reducible apply Only.foldl; intro _ _ _)
    | (simp only [Only.written]; apply Written.mk' <;> (first | exact .inr (Within.mem rfl hM) | exact .inl rfl | skip))
    | (with_reducible intro _)
    | split

theorem State.seekStandby_only {M : List Part} {s0 : State} (a0) (a1) (hM : Within [.ring, .out] M) (h0 : Only M s0 a0) : Only M s0 ((@State.seekStandby a0 a1)) := by
  unfold State.seekStandby
  try dsimp only
  repeat' first
    | with_reducible assumption
    | exact Within.of rfl hM
    | with_reducible apply State.appoint_only
    | (with_reducible apply Only.foldl; intro _ _ _)
    | (with_reducible intro _)
    | split

theorem State.offerStandby_only {M : List Part} {s0 : State} (a0) (a1) (hM : Within [.ring, .out] M) (h0 : Only M s0 a0) : Only M s0 ((@State.offerStandby a0 a1)) := by
  unfold State.offerStandby
  try dsimp only
  repeat' first
    | with_reducible assumption
    | exact Within.of rfl hM
    | with_reducible apply State.appoint_only
    | (with_reducible apply Only.foldl; intro _ _ _)
    | (with_reducible intro _)
    | split

theorem State.runTransactions_only {M : List Part} {s0 : State} (a0) (hM : Within [.host, .journal, .ring, .out] M) (h0 : Only M s0 a0) : Only M s0 ((@State.runTransactions a0)) := by
  unfold State.runTransactions
  try dsimp only
  repeat' first
    | with_reducible assumption
    | exact Within.of rfl hM
    | with_reducible apply State.runTransaction_only
    | (with_reducible apply Only.foldl; intro _ _ _)
    | (simp only [Only.written]; apply Written.mk' <;> (first | exact .inr (Within.mem rfl hM) | exact .inl rfl | skip))
    | (with_reducible intro _)
    | split

theorem State.loseStandby_only {M : List Part} {s0 : State} (a0) (a1) (hM : Within [.host, .journal, .ring, .evt, .out] M) (h0 : Only M s0 a0) : Only M s0 ((@State.loseStandby a0 a1)) := by
  unfold State.loseStandby
  try dsimp only
  repeat' first
    | with_reducible assumption
    | exact Within.of rfl hM
    | with_reducible apply State.info_only
    | with_reducible apply State.seekStandby_only
    | with_reducible apply State.runTransactions_only
    | (with_reducible apply Only.foldl; intro _ _ _)
    | (simp only [Only.written]; apply Written.mk' <;> (first | exact .inr (Within.mem rfl hM) | exact .inl rfl | skip))
    | (with_reducible intro _)
    | split

theorem State.appointed_only {M : List Part} {s0 : State} (a0) (a1) (hM : Within [.host, .journal, .ring, .out] M) (h0 : Only M s0 a0) : Only M s0 ((@State.appointed a0 a1)) := by
  unfold State.appointed
  try dsimp only
  repeat' first
    | with_reducible assumption
    | exact Within.of rfl hM
    | with_reducible apply State.transact_only
    | (with_reducible apply Only.foldl; intro _ _ _)
    | (simp only [Only.written]; apply Written.mk' <;> (first | exact .inr (Within.mem rfl hM) | exact .inl rfl | skip))
    | (with_reducible intro _)
    | split

theorem State.admitChip_only {M : List Part} {s0 : State} (a0) (a1) (hM : Within [.ring, .cal, .free] M) (h0 : Only M s0 a0) : Only M s0 ((@State.admitChip a0 a1).1) := by
  unfold State.admitChip
  try dsimp only
  repeat' first
    | with_reducible assumption
    | exact Within.of rfl hM
    | with_reducible apply State.rosterChanged_only
    | (with_reducible apply Only.foldl; intro _ _ _)
    | (simp only [Only.written]; apply Written.mk' <;> (first | exact .inr (Within.mem rfl hM) | exact .inl rfl | skip))
    | (with_reducible intro _)
    | split

theorem State.autoAdmit_only {M : List Part} {s0 : State} (a0) (a1) (a2) (a3) (hM : Within [.host, .journal, .ring, .cal, .out, .free] M) (h0 : Only M s0 a0) : Only M s0 ((@State.autoAdmit a0 a1 a2 a3)) := by
  unfold State.autoAdmit
  try dsimp only
  repeat' first
    | with_reducible assumption
    | exact Within.of rfl hM
    | with_reducible apply State.transact_only
    | with_reducible apply State.offerStandby_only
    | with_reducible apply State.admitChip_only
    | (with_reducible apply Only.foldl; intro _ _ _)
    | (with_reducible intro _)
    | split

theorem State.enrol_only {M : List Part} {s0 : State} (a0) (hM : Within [.ring] M) (h0 : Only M s0 a0) : Only M s0 ((@State.enrol a0)) := by
  unfold State.enrol
  try dsimp only
  repeat' first
    | with_reducible assumption
    | exact Within.of rfl hM
    | (with_reducible apply Only.foldl; intro _ _ _)
    | (simp only [Only.written]; apply Written.mk' <;> (first | exact .inr (Within.mem rfl hM) | exact .inl rfl | skip))
    | (with_reducible intro _)
    | split

theorem State.adoptHeard_only {M : List Part} {s0 : State} (a0) (hM : Within [.ring, .free] M) (h0 : Only M s0 a0) : Only M s0 ((@State.adoptHeard a0)) := by
  unfold State.adoptHeard
  try dsimp only
  repeat' first
    | with_reducible assumption
    | exact Within.of rfl hM
    | (with_reducible apply Only.foldl; intro _ _ _)
    | (simp only [Only.written]; apply Written.mk' <;> (first | exact .inr (Within.mem rfl hM) | exact .inl rfl | skip))
    | (with_reducible intro _)
    | split

theorem State.becomeManager_only {M : List Part} {s0 : State} (a0) (a1) (hM : Within [.host, .journal, .ring, .evt, .cal, .out] M) (h0 : Only M s0 a0) : Only M s0 ((@State.becomeManager a0 a1)) := by
  unfold State.becomeManager
  try dsimp only
  repeat' first
    | with_reducible assumption
    | exact Within.of rfl hM
    | with_reducible apply State.info_only
    | with_reducible apply State.transact_only
    | with_reducible apply State.recordLimit_only
    | with_reducible apply State.rosterChanged_only
    | with_reducible apply State.sendBeacon_only
    | with_reducible apply State.enrol_only
    | (with_reducible apply Only.foldl; intro _ _ _)
    | (simp only [Only.written]; apply Written.mk' <;> (first | exact .inr (Within.mem rfl hM) | exact .inl rfl | skip))
    | (with_reducible intro _)
    | split

theorem State.holdCopy_only {M : List Part} {s0 : State} (a0) (a1) (a2) (hM : Within [.host, .store, .evt, .out] M) (h0 : Only M s0 a0) : Only M s0 ((@State.holdCopy a0 a1 a2)) := by
  unfold State.holdCopy
  try dsimp only
  repeat' first
    | with_reducible assumption
    | exact Within.of rfl hM
    | with_reducible apply State.info_only
    | with_reducible apply State.mapPage_only
    | (with_reducible apply Only.foldl; intro _ _ _)
    | (with_reducible intro _)
    | split

theorem State.requestReprint_only {M : List Part} {s0 : State} (a0) (a1) (a2) (a3) (hM : Within [.host, .journal, .store, .ring, .evt, .out, .free] M) (h0 : Only M s0 a0) : Only M s0 ((@State.requestReprint a0 a1 a2 a3).1) := by
  unfold State.requestReprint
  try dsimp only
  repeat' first
    | with_reducible assumption
    | exact Within.of rfl hM
    | with_reducible apply State.markReprint_only
    | with_reducible apply State.placeForeign_only
    | with_reducible apply State.holdCopy_only
    | (with_reducible apply Only.foldl; intro _ _ _)
    | (with_reducible intro _)
    | split

theorem State.profileTaken_only {M : List Part} {s0 : State} (a0) (a1) (hM : Within [.ring] M) (h0 : Only M s0 a0) : Only M s0 ((@State.profileTaken a0 a1)) := by
  unfold State.profileTaken
  try dsimp only
  repeat' first
    | with_reducible assumption
    | exact Within.of rfl hM
    | (with_reducible apply Only.foldl; intro _ _ _)
    | (simp only [Only.written]; apply Written.mk' <;> (first | exact .inr (Within.mem rfl hM) | exact .inl rfl | skip))
    | (with_reducible intro _)
    | split

theorem State.endForwarded_only {M : List Part} {s0 : State} (a0) (a1) (a2) (a3) (hM : Within [.host, .journal, .ring, .out] M) (h0 : Only M s0 a0) : Only M s0 ((@State.endForwarded a0 a1 a2 a3)) := by
  unfold State.endForwarded
  try dsimp only
  repeat' first
    | with_reducible assumption
    | exact Within.of rfl hM
    | with_reducible apply State.finish_only
    | (with_reducible apply Only.foldl; intro _ _ _)
    | (simp only [Only.written]; apply Written.mk' <;> (first | exact .inr (Within.mem rfl hM) | exact .inl rfl | skip))
    | (with_reducible intro _)
    | split

theorem State.managerTold_only {M : List Part} {s0 : State} (a0) (a1) (a2) (hM : Within [.ring, .cal] M) (h0 : Only M s0 a0) : Only M s0 ((@State.managerTold a0 a1 a2).1) := by
  unfold State.managerTold
  try dsimp only
  repeat' first
    | with_reducible assumption
    | exact Within.of rfl hM
    | with_reducible apply State.rosterChanged_only
    | (with_reducible apply Only.foldl; intro _ _ _)
    | (simp only [Only.written]; apply Written.mk' <;> (first | exact .inr (Within.mem rfl hM) | exact .inl rfl | skip))
    | (with_reducible intro _)
    | split

theorem State.processRole_only {M : List Part} {s0 : State} (a0) (a1) (a2) (a3) (hM : Within [.host, .journal, .store, .ring, .evt, .cal, .out, .free] M) (h0 : Only M s0 a0) : Only M s0 ((@State.processRole a0 a1 a2 a3)) := by
  unfold State.processRole
  try dsimp only
  repeat' first
    | with_reducible assumption
    | exact Within.of rfl hM
    | with_reducible apply State.transact_only
    | with_reducible apply State.recordLimit_only
    | with_reducible apply State.managerReady_only
    | with_reducible apply State.placeForeign_only
    | with_reducible apply State.requestReprint_only
    | with_reducible apply State.profileTaken_only
    | with_reducible apply State.endForwarded_only
    | with_reducible apply State.managerTold_only
    | (with_reducible apply Only.foldl; intro _ _ _)
    | (with_reducible intro _)
    | split

theorem State.setDelivery_only {M : List Part} {s0 : State} (a0) (a1) (hM : Within [.ring] M) (h0 : Only M s0 a0) : Only M s0 ((@State.setDelivery a0 a1)) := by
  unfold State.setDelivery
  try dsimp only
  repeat' first
    | with_reducible assumption
    | exact Within.of rfl hM
    | (with_reducible apply Only.foldl; intro _ _ _)
    | (simp only [Only.written]; apply Written.mk' <;> (first | exact .inr (Within.mem rfl hM) | exact .inl rfl | skip))
    | (with_reducible intro _)
    | split

theorem State.drain_only {M : List Part} {s0 : State} (hM : Within [.ring] M) (a0 : State → Nat → Payload ⊕ MirrorMsg → State) (a1 a2 : Nat)
    (h0 : ∀ s y0 y1, Only M s0 s → Only M s0 (a0 s y0 y1)) : ∀ (n : Nat) (s : State), Only M s0 s → Only M s0 (State.drain a0 a1 a2 n s)
  | 0, _, h => h
  | n + 1, s, h => by
    unfold State.drain
    split
    · exact h
    · split
      · exact h
      · exact State.drain_only hM a0 a1 a2 h0 n _ (h0 _ _ _ (State.setDelivery_only _ _ (Within.of rfl hM) h))

theorem State.acceptPacket_only {M : List Part} {s0 : State} (a0) (a1) (a2) (a3) (hM : Within [.ring, .out] M) (h0 : Only M s0 a0) (h1 : ∀ s y0 y1, Only M s0 s → Only M s0 ((a1 s y0 y1))) : Only M s0 ((@State.acceptPacket a0 a1 a2 a3)) := by
  unfold State.acceptPacket
  try dsimp only
  repeat' first
    | with_reducible assumption
    | exact Within.of rfl hM
    | with_reducible apply h1
    | with_reducible apply State.acknowledge_only
    | with_reducible apply State.setDelivery_only
    | with_reducible apply State.drain_only
    | (with_reducible apply Only.foldl; intro _ _ _)
    | (with_reducible intro _)
    | split

theorem State.raiseSq_only {M : List Part} {s0 : State} (a0) (a1) (a2) (a3) (hM : Within [.ring] M) (h0 : Only M s0 a0) : Only M s0 ((@State.raiseSq a0 a1 a2 a3)) := by
  unfold State.raiseSq
  try dsimp only
  repeat' first
    | with_reducible assumption
    | exact Within.of rfl hM
    | (with_reducible apply Only.foldl; intro _ _ _)
    | (simp only [Only.written]; apply Written.mk' <;> (first | exact .inr (Within.mem rfl hM) | exact .inl rfl | skip))
    | (with_reducible intro _)
    | split

theorem State.coverRole_only {M : List Part} {s0 : State} (a0) (a1) (a2) (hM : Within [.ring] M) (h0 : Only M s0 a0) : Only M s0 ((@State.coverRole a0 a1 a2)) := by
  unfold State.coverRole
  try dsimp only
  repeat' first
    | with_reducible assumption
    | exact Within.of rfl hM
    | with_reducible apply State.setDelivery_only
    | (with_reducible apply Only.foldl; intro _ _ _)
    | (with_reducible intro _)
    | split

theorem State.coverFrom_only {M : List Part} {s0 : State} (a0) (a1) (a2) (a3) (hM : Within [.ring] M) (h0 : Only M s0 a0) : Only M s0 ((@State.coverFrom a0 a1 a2 a3)) := by
  unfold State.coverFrom
  try dsimp only
  repeat' first
    | with_reducible assumption
    | exact Within.of rfl hM
    | with_reducible apply State.setDelivery_only
    | with_reducible apply State.coverRole_only
    | (with_reducible apply Only.foldl; intro _ _ _)
    | (with_reducible intro _)
    | split

theorem State.recordRole_only {M : List Part} {s0 : State} (a0) (a1) (a2) (hM : Within [.ring] M) (h0 : Only M s0 a0) : Only M s0 ((@State.recordRole a0 a1 a2)) := by
  unfold State.recordRole
  try dsimp only
  repeat' first
    | with_reducible assumption
    | exact Within.of rfl hM
    | with_reducible apply State.setDelivery_only
    | with_reducible apply State.raiseSq_only
    | (with_reducible apply Only.foldl; intro _ _ _)
    | (with_reducible intro _)
    | split

theorem State.recordAck_only {M : List Part} {s0 : State} (a0) (a1) (a2) (hM : Within [.ring] M) (h0 : Only M s0 a0) : Only M s0 ((@State.recordAck a0 a1 a2)) := by
  unfold State.recordAck
  try dsimp only
  repeat' first
    | with_reducible assumption
    | exact Within.of rfl hM
    | with_reducible apply State.raiseSq_only
    | with_reducible apply State.coverRole_only
    | (with_reducible apply Only.foldl; intro _ _ _)
    | (simp only [Only.written]; apply Written.mk' <;> (first | exact .inr (Within.mem rfl hM) | exact .inl rfl | skip))
    | (with_reducible intro _)
    | split

theorem State.takeMirror_only {M : List Part} {s0 : State} (a0) (a1) (hM : Within [.ring, .cal] M) (h0 : Only M s0 a0) : Only M s0 ((@State.takeMirror a0 a1)) := by
  unfold State.takeMirror
  try dsimp only
  repeat' first
    | with_reducible assumption
    | exact Within.of rfl hM
    | with_reducible apply State.calDirty_only
    | with_reducible apply State.raiseSq_only
    | with_reducible apply State.coverRole_only
    | with_reducible apply State.coverFrom_only
    | (with_reducible apply Only.foldl; intro _ _ _)
    | (simp only [Only.written]; apply Written.mk' <;> (first | exact .inr (Within.mem rfl hM) | exact .inl rfl | skip))
    | (with_reducible intro _)
    | split

theorem State.controlMessage_only {M : List Part} {s0 : State} (a0) (a1) (hM : Within [.host, .journal, .store, .render, .lines, .pos, .ring, .evt, .out] M) (h0 : Only M s0 a0) : Only M s0 ((@State.controlMessage a0 a1)) := by
  unfold State.controlMessage
  try dsimp only
  repeat' first
    | with_reducible assumption
    | exact Within.of rfl hM
    | with_reducible apply State.disarmAtEnd_only
    | with_reducible apply State.settleDisarm_only
    | with_reducible apply State.checkCalMark_only
    | with_reducible apply State.stepCalendar_only
    | with_reducible apply State.measureOffset_only
    | (with_reducible apply Only.foldl; intro _ _ _)
    | (simp only [Only.written]; apply Written.mk' <;> (first | exact .inr (Within.mem rfl hM) | exact .inl rfl | skip))
    | (with_reducible intro _)
    | split

theorem State.takeProfile_only {M : List Part} {s0 : State} (a0) (a1) (a2) (hM : Within [.host, .journal, .loop, .ring, .dmc, .out] M) (h0 : Only M s0 a0) : Only M s0 ((@State.takeProfile a0 a1 a2)) := by
  unfold State.takeProfile
  try dsimp only
  repeat' first
    | with_reducible assumption
    | exact Within.of rfl hM
    | with_reducible apply State.finish_only
    | with_reducible apply State.ringSend_only
    | with_reducible apply State.acceptProfile_only
    | with_reducible apply State.journalEntry_only
    | (with_reducible apply Only.foldl; intro _ _ _)
    | (with_reducible intro _)
    | split

theorem State.takeChunk_only {M : List Part} {s0 : State} (a0) (a1) (a2) (hM : Within [.host, .journal, .loop, .ring, .dmc, .out] M) (h0 : Only M s0 a0) : Only M s0 ((@State.takeChunk a0 a1 a2)) := by
  unfold State.takeChunk
  try dsimp only
  repeat' first
    | with_reducible assumption
    | exact Within.of rfl hM
    | with_reducible apply State.takeProfile_only
    | (with_reducible apply Only.foldl; intro _ _ _)
    | (simp only [Only.written]; apply Written.mk' <;> (first | exact .inr (Within.mem rfl hM) | exact .inl rfl | skip))
    | (with_reducible intro _)
    | split

theorem State.takeHeld_only {M : List Part} {s0 : State} (a0) (a1) (a2) (a3) (hM : Within [.ring] M) (h0 : Only M s0 a0) (h1 : ∀ s y0, Only M s0 s → Only M s0 ((a1 s y0))) : Only M s0 ((@State.takeHeld a0 a1 a2 a3)) := by
  unfold State.takeHeld
  try dsimp only
  repeat' first
    | with_reducible assumption
    | exact Within.of rfl hM
    | with_reducible apply h1
    | with_reducible apply State.setDelivery_only
    | (with_reducible apply Only.foldl; intro _ _ _)
    | (with_reducible intro _)
    | split

theorem State.rechain_only {M : List Part} {s0 : State} (a0) (a1) (hM : Within [.ring] M) (h0 : Only M s0 a0) : Only M s0 ((@State.rechain a0 a1)) := by
  unfold State.rechain
  try dsimp only
  repeat' first
    | with_reducible assumption
    | exact Within.of rfl hM
    | (with_reducible apply Only.foldl; intro _ _ _)
    | (simp only [Only.written]; apply Written.mk' <;> (first | exact .inr (Within.mem rfl hM) | exact .inl rfl | skip))
    | (with_reducible intro _)
    | split

theorem State.takeOver_only {M : List Part} {s0 : State} (a0) (a1) (hM : Within [.host, .journal, .store, .ring, .evt, .cal, .out, .free] M) (h0 : Only M s0 a0) (h1 : ∀ s y0, Only M s0 s → Only M s0 ((a1 s y0))) : Only M s0 ((@State.takeOver a0 a1)) := by
  unfold State.takeOver
  try dsimp only
  repeat' first
    | with_reducible assumption
    | exact Within.of rfl hM
    | with_reducible apply h1
    | with_reducible apply State.info_only
    | with_reducible apply State.sendNumbered_only
    | with_reducible apply State.acknowledge_only
    | with_reducible apply State.seekStandby_only
    | with_reducible apply State.becomeManager_only
    | with_reducible apply State.processRole_only
    | with_reducible apply State.drain_only
    | with_reducible apply State.takeHeld_only
    | with_reducible apply State.rechain_only
    | (with_reducible apply Only.foldl; intro _ _ _)
    | (simp only [Only.written]; apply Written.mk' <;> (first | exact .inr (Within.mem rfl hM) | exact .inl rfl | skip))
    | (with_reducible intro _)
    | split

theorem State.processPlain_only {M : List Part} {s0 : State} (a0) (a1) (hM : Within [.host, .journal, .store, .render, .lines, .pos, .loop, .ring, .dmc, .evt, .cal, .out] M) (h0 : Only M s0 a0) : Only M s0 ((@State.processPlain a0 a1)) := by
  unfold State.processPlain
  try dsimp only
  repeat' first
    | with_reducible assumption
    | exact Within.of rfl hM
    | with_reducible apply State.syncPlaceLocal_only
    | with_reducible apply State.holdCopy_only
    | with_reducible apply State.takeMirror_only
    | with_reducible apply State.controlMessage_only
    | with_reducible apply State.takeChunk_only
    | (with_reducible apply Only.foldl; intro _ _ _)
    | (with_reducible intro _)
    | split

theorem State.processNode_only {M : List Part} {s0 : State} (a0) (a1) (hM : Within [.host, .journal, .store, .render, .lines, .pos, .loop, .ring, .dmc, .evt, .cal, .out, .free] M) (h0 : Only M s0 a0) : Only M s0 ((@State.processNode a0 a1)) := by
  unfold State.processNode
  try dsimp only
  repeat' first
    | with_reducible assumption
    | exact Within.of rfl hM
    | with_reducible apply State.takeOver_only
    | with_reducible apply State.processPlain_only
    | (with_reducible apply Only.foldl; intro _ _ _)
    | (with_reducible intro _)
    | split

theorem State.forwardOn_only {M : List Part} {s0 : State} (a0) (a1) (a2) (a3) (hM : Within [.out] M) (h0 : Only M s0 a0) : Only M s0 ((@State.forwardOn a0 a1 a2 a3)) := by
  unfold State.forwardOn
  try dsimp only
  repeat' first
    | with_reducible assumption
    | exact Within.of rfl hM
    | with_reducible apply State.emit_only
    | (with_reducible apply Only.foldl; intro _ _ _)
    | (with_reducible intro _)
    | split

theorem State.crcFailed_only {M : List Part} {s0 : State} (a0) (a1) (hM : Within [.power, .host, .journal, .store, .render, .lines, .pos, .ring, .axes, .flt, .evt, .out, .free] M) (h0 : Only M s0 a0) : Only M s0 ((@State.crcFailed a0 a1)) := by
  unfold State.crcFailed
  try dsimp only
  repeat' first
    | with_reducible assumption
    | exact Within.of rfl hM
    | with_reducible apply State.updHalyard_only
    | with_reducible apply State.unlessShadowed_only
    | (with_reducible apply Only.foldl; intro _ _ _)
    | (with_reducible intro _)
    | split

theorem State.receive_only {M : List Part} {s0 : State} (a0) (a1) (a2) (a3) (a4) (a5) (hM : Within [.power, .host, .journal, .store, .render, .lines, .pos, .ring, .axes, .flt, .evt, .out, .free] M) (h0 : Only M s0 a0) (h4 : ∀ s, Only M s0 s → Only M s0 ((a4 s))) (h5 : ∀ s, Only M s0 s → Only M s0 ((a5 s))) : Only M s0 ((@State.receive a0 a1 a2 a3 a4 a5)) := by
  unfold State.receive
  try dsimp only
  repeat' first
    | with_reducible assumption
    | exact Within.of rfl hM
    | with_reducible apply h4
    | with_reducible apply h5
    | with_reducible apply State.emit_only
    | with_reducible apply State.countShot_only
    | with_reducible apply State.forwardOn_only
    | with_reducible apply State.crcFailed_only
    | (with_reducible apply Only.foldl; intro _ _ _)
    | (with_reducible intro _)
    | split

theorem State.receiveBody_only {M : List Part} {s0 : State} (a0) (a1) (a2) (a3) (hM : Within [.power, .host, .journal, .store, .render, .lines, .pos, .loop, .ring, .axes, .dmc, .flt, .evt, .cal, .out, .free] M) (h0 : Only M s0 a0) : Only M s0 ((@State.receiveBody a0 a1 a2 a3)) := by
  unfold State.receiveBody
  try dsimp only
  repeat' first
    | with_reducible assumption
    | exact Within.of rfl hM
    | with_reducible apply State.acknowledge_only
    | with_reducible apply State.processRole_only
    | with_reducible apply State.acceptPacket_only
    | with_reducible apply State.recordRole_only
    | with_reducible apply State.processNode_only
    | with_reducible apply State.receive_only
    | (with_reducible apply Only.foldl; intro _ _ _)
    | (with_reducible intro _)
    | split

theorem State.firstCopy_only {M : List Part} {s0 : State} (a0) (a1) (a2) (a3) (a4) (hM : Within [.ring] M) (h0 : Only M s0 a0) (h4 : ∀ s, Only M s0 s → Only M s0 ((a4 s))) : Only M s0 ((@State.firstCopy a0 a1 a2 a3 a4)) := by
  unfold State.firstCopy
  try dsimp only
  repeat' first
    | with_reducible assumption
    | exact Within.of rfl hM
    | with_reducible apply h4
    | (with_reducible apply Only.foldl; intro _ _ _)
    | (simp only [Only.written]; apply Written.mk' <;> (first | exact .inr (Within.mem rfl hM) | exact .inl rfl | skip))
    | (with_reducible intro _)
    | split

theorem State.steer_only {M : List Part} {s0 : State} (a0) (a1) (hM : Within [.host, .ring, .evt, .out, .free] M) (h0 : Only M s0 a0) : Only M s0 ((@State.steer a0 a1)) := by
  unfold State.steer
  try dsimp only
  repeat' first
    | with_reducible assumption
    | exact Within.of rfl hM
    | with_reducible apply State.stepCalendar_only
    | (with_reducible apply Only.foldl; intro _ _ _)
    | (simp only [Only.written]; apply Written.mk' <;> (first | exact .inr (Within.mem rfl hM) | exact .inl rfl | skip))
    | (with_reducible intro _)
    | split

theorem State.demote_only {M : List Part} {s0 : State} (a0) (a1) (hM : Within [.host, .journal, .ring, .out] M) (h0 : Only M s0 a0) : Only M s0 ((@State.demote a0 a1)) := by
  unfold State.demote
  try dsimp only
  repeat' first
    | with_reducible assumption
    | exact Within.of rfl hM
    | with_reducible apply State.finish_only
    | (with_reducible apply Only.foldl; intro _ _ _)
    | (simp only [Only.written]; apply Written.mk' <;> (first | exact .inr (Within.mem rfl hM) | exact .inl rfl | skip))
    | (with_reducible intro _)
    | split

theorem State.takeBeacon_only {M : List Part} {s0 : State} (a0) (a1) (hM : Within [.host, .journal, .ring, .out] M) (h0 : Only M s0 a0) : Only M s0 ((@State.takeBeacon a0 a1)) := by
  unfold State.takeBeacon
  try dsimp only
  repeat' first
    | with_reducible assumption
    | exact Within.of rfl hM
    | with_reducible apply State.demote_only
    | (with_reducible apply Only.foldl; intro _ _ _)
    | (simp only [Only.written]; apply Written.mk' <;> (first | exact .inr (Within.mem rfl hM) | exact .inl rfl | skip))
    | (with_reducible intro _)
    | split

theorem State.hearCopy_only {M : List Part} {s0 : State} (a0) (a1) (a2) (hM : Within [.ring] M) (h0 : Only M s0 a0) : Only M s0 ((@State.hearCopy a0 a1 a2)) := by
  unfold State.hearCopy
  try dsimp only
  repeat' first
    | with_reducible assumption
    | exact Within.of rfl hM
    | (with_reducible apply Only.foldl; intro _ _ _)
    | (simp only [Only.written]; apply Written.mk' <;> (first | exact .inr (Within.mem rfl hM) | exact .inl rfl | skip))
    | (with_reducible intro _)
    | split

theorem State.rosterFollows_only {M : List Part} {s0 : State} (a0) (a1) (hM : Within [.host, .journal, .ring, .evt, .cal, .out] M) (h0 : Only M s0 a0) : Only M s0 ((@State.rosterFollows a0 a1)) := by
  unfold State.rosterFollows
  try dsimp only
  repeat' first
    | with_reducible assumption
    | exact Within.of rfl hM
    | with_reducible apply State.rosterChanged_only
    | with_reducible apply State.loseStandby_only
    | (with_reducible apply Only.foldl; intro _ _ _)
    | (simp only [Only.written]; apply Written.mk' <;> (first | exact .inr (Within.mem rfl hM) | exact .inl rfl | skip))
    | (with_reducible intro _)
    | split

theorem State.nodeAtManager_only {M : List Part} {s0 : State} (a0) (a1) (hM : Within [.host, .journal, .ring, .evt, .cal, .out, .free] M) (h0 : Only M s0 a0) : Only M s0 ((@State.nodeAtManager a0 a1)) := by
  unfold State.nodeAtManager
  try dsimp only
  repeat' first
    | with_reducible assumption
    | exact Within.of rfl hM
    | with_reducible apply State.seekStandby_only
    | with_reducible apply State.autoAdmit_only
    | with_reducible apply State.rosterFollows_only
    | (with_reducible apply Only.foldl; intro _ _ _)
    | (with_reducible intro _)
    | split

theorem State.probe_only {M : List Part} {s0 : State} (a0) (hM : Within [.ring, .out] M) (h0 : Only M s0 a0) : Only M s0 ((@State.probe a0)) := by
  unfold State.probe
  try dsimp only
  repeat' first
    | with_reducible assumption
    | exact Within.of rfl hM
    | with_reducible apply State.sendElect_only
    | (with_reducible apply Only.foldl; intro _ _ _)
    | (simp only [Only.written]; apply Written.mk' <;> (first | exact .inr (Within.mem rfl hM) | exact .inl rfl | skip))
    | (with_reducible intro _)
    | split

theorem State.takeAck_only {M : List Part} {s0 : State} (a0) (a1) (a2) (hM : Within [.host, .journal, .ring, .out] M) (h0 : Only M s0 a0) : Only M s0 ((@State.takeAck a0 a1 a2)) := by
  unfold State.takeAck
  try dsimp only
  repeat' first
    | with_reducible assumption
    | exact Within.of rfl hM
    | with_reducible apply State.runTransaction_only
    | with_reducible apply State.appointed_only
    | (with_reducible apply Only.foldl; intro _ _ _)
    | (simp only [Only.written]; apply Written.mk' <;> (first | exact .inr (Within.mem rfl hM) | exact .inl rfl | skip))
    | (with_reducible intro _)
    | split

theorem State.packetFailed_only {M : List Part} {s0 : State} (a0) (a1) (hM : Within [.host, .journal, .ring, .evt, .out] M) (h0 : Only M s0 a0) : Only M s0 ((@State.packetFailed a0 a1)) := by
  unfold State.packetFailed
  try dsimp only
  repeat' first
    | with_reducible assumption
    | exact Within.of rfl hM
    | with_reducible apply State.finish_only
    | with_reducible apply State.loseStandby_only
    | with_reducible apply State.endForwarded_only
    | (with_reducible apply Only.foldl; intro _ _ _)
    | (simp only [Only.written]; apply Written.mk' <;> (first | exact .inr (Within.mem rfl hM) | exact .inl rfl | skip))
    | (with_reducible intro _)
    | split

theorem State.unaccepted_only {M : List Part} {s0 : State} (a0) (a1) (hM : Within [.host, .journal, .ring, .out] M) (h0 : Only M s0 a0) : Only M s0 ((@State.unaccepted a0 a1)) := by
  unfold State.unaccepted
  try dsimp only
  repeat' first
    | with_reducible assumption
    | exact Within.of rfl hM
    | with_reducible apply State.endForwarded_only
    | (with_reducible apply Only.foldl; intro _ _ _)
    | (with_reducible intro _)
    | split

theorem State.dropNode_only {M : List Part} {s0 : State} (a0) (a1) (hM : Within [.host, .journal, .ring, .evt, .cal, .out] M) (h0 : Only M s0 a0) : Only M s0 ((@State.dropNode a0 a1)) := by
  unfold State.dropNode
  try dsimp only
  repeat' first
    | with_reducible assumption
    | exact Within.of rfl hM
    | with_reducible apply State.postV_only
    | with_reducible apply State.rosterChanged_only
    | with_reducible apply State.loseStandby_only
    | (with_reducible apply Only.foldl; intro _ _ _)
    | (simp only [Only.written]; apply Written.mk' <;> (first | exact .inr (Within.mem rfl hM) | exact .inl rfl | skip))
    | (with_reducible intro _)
    | split

theorem State.setRole_only {M : List Part} {s0 : State} (a0) (a1) (hM : Within [.ring, .cal] M) (h0 : Only M s0 a0) : Only M s0 ((@State.setRole a0 a1)) := by
  unfold State.setRole
  try dsimp only
  repeat' first
    | with_reducible assumption
    | exact Within.of rfl hM
    | with_reducible apply State.ownEntry_only
    | (with_reducible apply Only.foldl; intro _ _ _)
    | (simp only [Only.written]; apply Written.mk' <;> (first | exact .inr (Within.mem rfl hM) | exact .inl rfl | skip))
    | (with_reducible intro _)
    | split

theorem State.handOver_only {M : List Part} {s0 : State} (a0) (a1) (hM : Within [.host, .journal, .ring, .out] M) (h0 : Only M s0 a0) : Only M s0 ((@State.handOver a0 a1)) := by
  unfold State.handOver
  try dsimp only
  repeat' first
    | with_reducible assumption
    | exact Within.of rfl hM
    | with_reducible apply State.finish_only
    | with_reducible apply State.takeSq_only
    | with_reducible apply State.sendNumbered_only
    | with_reducible apply State.runTransactions_only
    | (with_reducible apply Only.foldl; intro _ _ _)
    | (simp only [Only.written]; apply Written.mk' <;> (first | exact .inr (Within.mem rfl hM) | exact .inl rfl | skip))
    | (with_reducible intro _)
    | split

theorem State.setSpeedPolicy_only {M : List Part} {s0 : State} (a0) (a1) (a2) (hM : Within [.store, .heads, .ring] M) (h0 : Only M s0 a0) : Only M s0 ((@State.setSpeedPolicy a0 a1 a2)) := by
  unfold State.setSpeedPolicy
  try dsimp only
  repeat' first
    | with_reducible assumption
    | exact Within.of rfl hM
    | (with_reducible apply Only.foldl; intro _ _ _)
    | (simp only [Only.written]; apply Written.mk' <;> (first | exact .inr (Within.mem rfl hM) | exact .inl rfl | skip))
    | (with_reducible intro _)
    | split

theorem State.replaceReset_only {M : List Part} {s0 : State} (a0) (a1) (hM : Within [.host, .journal, .out] M) (h0 : Only M s0 a0) : Only M s0 ((@State.replaceReset a0 a1)) := by
  unfold State.replaceReset
  try dsimp only
  repeat' first
    | with_reducible assumption
    | exact Within.of rfl hM
    | with_reducible apply State.finish_only
    | (with_reducible apply Only.foldl; intro _ _ _)
    | (with_reducible intro _)
    | split

theorem State.hostResetPennant_only {M : List Part} {s0 : State} (a0) (a1) (a2) (hM : Within [.power, .host, .journal, .store, .codec, .render, .lines, .pos, .ring, .axes, .flt, .evt, .out, .free] M) (h0 : Only M s0 a0) : Only M s0 ((@State.hostResetPennant a0 a1 a2)) := by
  unfold State.hostResetPennant
  try dsimp only
  repeat' first
    | with_reducible assumption
    | exact Within.of rfl hM
    | with_reducible apply State.updPennant_only
    | with_reducible apply State.fencePennant_only
    | with_reducible apply State.resetPennant_only
    | with_reducible apply State.replaceReset_only
    | (with_reducible apply Only.foldl; intro _ _ _)
    | (with_reducible intro _)
    | split

theorem State.hostResetUnit_only {M : List Part} {s0 : State} (a0) (a1) (a2) (hM : Within [.host, .journal, .store, .codec, .flt, .out] M) (h0 : Only M s0 a0) : Only M s0 ((@State.hostResetUnit a0 a1 a2)) := by
  unfold State.hostResetUnit
  try dsimp only
  repeat' first
    | with_reducible assumption
    | exact Within.of rfl hM
    | with_reducible apply State.updUnit_only
    | with_reducible apply State.fenceUnit_only
    | with_reducible apply State.resetDecompressor_only
    | with_reducible apply State.replaceReset_only
    | (with_reducible apply Only.foldl; intro _ _ _)
    | (with_reducible intro _)
    | split

theorem State.hostResetPort_only {M : List Part} {s0 : State} (a0) (a1) (a2) (hM : Within [.host, .journal, .store, .pos, .heads, .ring, .flt, .evt, .out] M) (h0 : Only M s0 a0) : Only M s0 ((@State.hostResetPort a0 a1 a2)) := by
  unfold State.hostResetPort
  try dsimp only
  repeat' first
    | with_reducible assumption
    | exact Within.of rfl hM
    | with_reducible apply State.finish_only
    | with_reducible apply State.updPort_only
    | with_reducible apply State.retirePort_only
    | with_reducible apply State.settleRetire_only
    | with_reducible apply State.startHeadResets_only
    | with_reducible apply State.retireAtOnce_only
    | with_reducible apply State.replaceReset_only
    | (with_reducible apply Only.foldl; intro _ _ _)
    | (with_reducible intro _)
    | split

theorem State.hostResetHalyard_only {M : List Part} {s0 : State} (a0) (a1) (a2) (hM : Within [.power, .host, .journal, .store, .render, .lines, .pos, .ring, .axes, .flt, .evt, .out, .free] M) (h0 : Only M s0 a0) : Only M s0 ((@State.hostResetHalyard a0 a1 a2)) := by
  unfold State.hostResetHalyard
  try dsimp only
  repeat' first
    | with_reducible assumption
    | exact Within.of rfl hM
    | with_reducible apply State.updHalyard_only
    | with_reducible apply State.openWindow_only
    | with_reducible apply State.dropInjections_only
    | with_reducible apply State.beginTraining_only
    | with_reducible apply State.bothOut_only
    | with_reducible apply State.replaceReset_only
    | (with_reducible apply Only.foldl; intro _ _ _)
    | (with_reducible intro _)
    | split

theorem State.hostResetAxis_only {M : List Part} {s0 : State} (a0) (a1) (a2) (hM : Within [.power, .host, .journal, .store, .render, .lines, .pos, .ring, .axes, .flt, .evt, .out, .free] M) (h0 : Only M s0 a0) : Only M s0 ((@State.hostResetAxis a0 a1 a2)) := by
  unfold State.hostResetAxis
  try dsimp only
  repeat' first
    | with_reducible assumption
    | exact Within.of rfl hM
    | with_reducible apply State.updAxis_only
    | with_reducible apply State.endMotion_only
    | with_reducible apply State.openWindow_only
    | with_reducible apply State.dropInjections_only
    | with_reducible apply State.checkPrintPosition_only
    | with_reducible apply State.replaceReset_only
    | (with_reducible apply Only.foldl; intro _ _ _)
    | (with_reducible intro _)
    | split

theorem State.withFetchWord_only {M : List Part} {s0 : State} (a0) (a1) (a2) (hM : Within [.pending] M) (h0 : Only M s0 a0) : Only M s0 ((@State.withFetchWord a0 a1 a2)) := by
  unfold State.withFetchWord
  try dsimp only
  repeat' first
    | with_reducible assumption
    | exact Within.of rfl hM
    | (with_reducible apply Only.foldl; intro _ _ _)
    | (simp only [Only.written]; apply Written.mk' <;> (first | exact .inr (Within.mem rfl hM) | exact .inl rfl | skip))
    | (with_reducible intro _)
    | split

end Sys2Proof.Machine
end

