-- ==== Sys2Proof/Laws/Commands.lean ====
section
/-!
SUPPORT. Laws/Commands.lean: what the shared operations of a host command do to the journal: starting an entry, ending it, and the FENCEs that
end with it; and that a command that runs is its effect.
-/

set_option linter.all false

namespace Sys2Proof.Machine

open Sys2Proof.Safety

/-- No FENCE under way stands under a sequence. -/
abbrev State.noFence (s : State) (seq : Nat) : Prop := s.journal.fences.all (fun w => w.seq != seq) = true

theorem State.entry?_seq {s : State} {seq : Nat} {e : JEntry} (h : s.entry? seq = some e) : e.seq = seq := by
  simpa using List.find?_some h

theorem State.entry?_congr {s t : State} (h : t.journal = s.journal) (seq : Nat) : t.entry? seq = s.entry? seq := by
  unfold State.entry?; rw [h]

theorem State.mapEntry_entry? (s : State) (seq q : Nat) (f : JEntry → JEntry) (hf : ∀ e, (f e).seq = e.seq) :
    (s.mapEntry seq f).entry? q = (s.entry? q).map fun e => if e.seq == seq then f e else e := by
  unfold State.mapEntry State.entry?
  simp only [List.find?_map]
  congr 2
  funext e
  simp only [Function.comp]
  split
  · rw [hf]
  · rfl

theorem State.mapEntry_fences (s : State) (seq : Nat) (f : JEntry → JEntry) : (s.mapEntry seq f).journal.fences = s.journal.fences := rfl

theorem State.post_journal_eq (s : State) (n : Nat) (c : Completion) : (s.post n c).journal = s.journal :=
  State.post_only s n c (Within.refl _) (Only.refl _ s) .journal (by decide)

theorem State.setJState_entry? (s : State) (seq q : Nat) (st : JState) :
    (s.setJState seq st).entry? q = (s.entry? q).map fun e => if e.seq == seq then { e with
      state := st, timesValid := s.stamp.1, stateTime := s.stamp.2, acceptTime := s.acceptStamp e
      readableUntil := if st.final && !s.inRing e then some (s.now + 10000000000) else e.readableUntil } else e := by
  unfold State.setJState State.writeEntry
  split
  · exact State.mapEntry_entry? s seq q _ fun _ => rfl
  · rename_i x _
    exact State.mapEntry_entry? { s with journal := { s.journal with writes := (s.entryAddress x, s.now) :: s.journal.writes } } seq q _ fun _ => rfl

theorem State.setJState_fences (s : State) (seq : Nat) (st : JState) : (s.setJState seq st).journal.fences = s.journal.fences := by
  unfold State.setJState State.writeEntry
  split <;> rfl

/-- Ending an entry leaves every other entry as it was, and the list of FENCEs. -/
theorem State.settleEntry_entry?_ne (s : State) (seq q : Nat) (st : Status) (d r0 r1 r2 r3 : BitVec 32) (hq : seq ≠ q) :
    (s.settleEntry seq st d r0 r1 r2 r3).entry? q = s.entry? q := by
  have key : ∀ f g : JEntry → JEntry, ((s.entry? q).map fun e => if e.seq == seq then f e else e).map (fun e => if e.seq == seq then g e else e) = s.entry? q := by
    intro f g
    cases h : s.entry? q with
    | none => rfl
    | some e =>
      have he := State.entry?_seq h
      have : ¬ e.seq = seq := by omega
      simp [this]
  unfold State.settleEntry
  split
  · rfl
  · dsimp only
    split
    · rw [State.entry?_congr (State.post_journal_eq _ _ _), State.mapEntry_entry? _ _ _ _ (by intro _; rfl), State.setJState_entry?]
      exact key _ _
    · rw [State.mapEntry_entry? _ _ _ _ (by intro _; rfl), State.setJState_entry?]
      exact key _ _

theorem State.settleEntry_fences (s : State) (seq : Nat) (st : Status) (d r0 r1 r2 r3 : BitVec 32) :
    (s.settleEntry seq st d r0 r1 r2 r3).journal.fences = s.journal.fences := by
  unfold State.settleEntry
  split
  · rfl
  · dsimp only
    split
    · rw [State.post_journal_eq, State.mapEntry_fences, State.setJState_fences]
    · rw [State.mapEntry_fences, State.setJState_fences]

/-- An entry that is ended reads its status, detail and result words. -/
theorem State.settleEntry_ended {s : State} {seq : Nat} {e : JEntry} (h : s.entry? seq = some e) (st : Status) (d r0 r1 r2 r3 : BitVec 32) :
    Ended (s.settleEntry seq st d r0 r1 r2 r3) seq st d r0 r1 r2 r3 := by
  have he := State.entry?_seq h
  unfold Ended State.settleEntry
  rw [h]
  dsimp only
  split
  · rw [State.entry?_congr (State.post_journal_eq _ _ _), State.mapEntry_entry? _ _ _ _ (by intro _; rfl), State.setJState_entry?, h]
    simp [he, Safety.outcomeOf]
  · rw [State.mapEntry_entry? _ _ _ _ (by intro _; rfl), State.setJState_entry?, h]
    simp [he, Safety.outcomeOf]

/-- The FENCEs that end leave an entry alone that is none of them. -/
theorem State.settleFences_entry? (q : Nat) : ∀ (n : Nat) (s : State), s.noFence q →
    (State.settleFences n s).entry? q = s.entry? q ∧ (State.settleFences n s).noFence q
  | 0, _, h => ⟨rfl, h⟩
  | n + 1, s, h => by
    unfold State.settleFences
    split
    · exact ⟨rfl, h⟩
    · rename_i w hw
      have hne : w.seq ≠ q := by
        have := List.all_eq_true.1 h w (List.mem_of_find?_eq_some hw)
        simpa using this
      have hn : State.noFence (State.settleEntry { s with journal := { s.journal with fences := s.journal.fences.filter fun x => x.seq != w.seq } }
          w.seq .ok 0 (w32 w.count) (w32 w.highest) 0 0) q := by
        unfold State.noFence
        rw [State.settleEntry_fences]
        exact List.all_eq_true.2 fun x hx => List.all_eq_true.1 h x ((List.mem_filter.1 hx).1)
      have ih := State.settleFences_entry? q n _ hn
      refine ⟨ih.1.trans ?_, ih.2⟩
      rw [State.settleEntry_entry?_ne _ _ _ _ _ _ _ _ _ hne]
      rfl

theorem State.fences_entry? {s : State} {q : Nat} (h : s.noFence q) : s.fences.entry? q = s.entry? q ∧ s.fences.noFence q :=
  State.settleFences_entry? q _ s h

/-- A command that ends reads so in the journal. -/
theorem State.finish_ended {s : State} {seq : Nat} {e : JEntry} (h : s.entry? seq = some e) (hs : e.state.final = false) (hf : s.noFence seq)
    (st : Status) (d r0 r1 r2 r3 : BitVec 32) : Ended (s.finish seq st d r0 r1 r2 r3) seq st d r0 r1 r2 r3 := by
  unfold State.finish
  rw [h]
  simp only [hs]
  have hn : (s.settleEntry seq st d r0 r1 r2 r3).noFence seq := by unfold State.noFence; rw [State.settleEntry_fences]; exact hf
  have hk := (State.fences_entry? hn).1
  simp only [Bool.false_eq_true, if_false]
  unfold Ended
  rw [hk]
  exact State.settleEntry_ended h st d r0 r1 r2 r3

/-- Ending a command leaves every other entry that is no FENCE under way. -/
theorem State.finish_entry?_ne {s : State} {seq q : Nat} (hq : seq ≠ q) (hf : s.noFence q) (st : Status) (d r0 r1 r2 r3 : BitVec 32) :
    (s.finish seq st d r0 r1 r2 r3).entry? q = s.entry? q := by
  unfold State.finish
  split
  · rfl
  · split
    · rfl
    · have hn : (s.settleEntry seq st d r0 r1 r2 r3).noFence q := by unfold State.noFence; rw [State.settleEntry_fences]; exact hf
      rw [(State.fences_entry? hn).1]
      exact State.settleEntry_entry?_ne _ _ _ _ _ _ _ _ _ hq

/-- A command that enters the running state. -/
theorem State.setRunning_entry? {s : State} {seq : Nat} {e : JEntry} (h : s.entry? seq = some e) (hf : s.noFence seq) :
    (s.setRunning seq).entry? seq = some { e with state := .running, timesValid := s.stamp.1, stateTime := s.stamp.2, acceptTime := s.acceptStamp e } ∧ (s.setRunning seq).noFence seq := by
  have he := State.entry?_seq h
  unfold State.setRunning
  have hn : (s.setJState seq .running).noFence seq := by unfold State.noFence; rw [State.setJState_fences]; exact hf
  refine ⟨?_, (State.fences_entry? hn).2⟩
  rw [(State.fences_entry? hn).1, State.setJState_entry?, h]
  simp [he, JState.final]

/-- A command that has started: its entry, with every operand of it as it was. -/
theorem State.start_entry? {s : State} {seq : Nat} {e : JEntry} (h : s.entry? seq = some e) (hf : s.noFence seq) (r : Bool) :
    (∃ e', (s.start seq r).entry? seq = some e' ∧ e'.state = (if r then .running else e.state) ∧ e'.params = e.params ∧ e'.tag = e.tag ∧
      e'.opcode = e.opcode ∧ e'.flags = e.flags ∧ e'.queue = e.queue) ∧ (s.start seq r).noFence seq := by
  have he := State.entry?_seq h
  have h1 : (s.mapEntry seq fun e => { e with started := true, waitsSince := none }).entry? seq = some { e with started := true, waitsSince := none } := by
    rw [State.mapEntry_entry? _ _ _ _ (by intro _; rfl), h]; simp [he]
  have hf1 : (s.mapEntry seq fun e => { e with started := true, waitsSince := none }).noFence seq := hf
  unfold State.start
  dsimp only
  cases r with
  | false => exact ⟨⟨_, h1, rfl, rfl, rfl, rfl, rfl, rfl⟩, hf⟩
  | true =>
    have h2 := State.setRunning_entry? h1 hf1
    exact ⟨⟨_, h2.1, rfl, rfl, rfl, rfl, rfl, rfl⟩, h2.2⟩

/-- What a startable command's entry is. -/
theorem State.startable_some {s : State} {seq op : Nat} {e : JEntry} (h : s.startable seq op = some e) :
    s.entry? seq = some e ∧ e.opcode = op ∧ e.state = .accepted ∧ e.started = false ∧ s.firmwareRuns = true ∧ s.mayStart e = true := by
  unfold State.startable at h
  split at h
  · split at h
    · rename_i e' he hc
      cases h
      simp only [Bool.and_eq_true, beq_iff_eq, Bool.not_eq_true'] at hc
      exact ⟨he, hc.1.1.1.1, hc.1.1.1.2, hc.1.1.2, hc.1.2, hc.2⟩
    · cases h
  · cases h

theorem State.tick_entry? (s : State) (t seq : Nat) : (s.tick t).entry? seq = s.entry? seq := rfl

end Sys2Proof.Machine

namespace Sys2Proof.Safety

open Sys2Proof.Machine

/-- The entry of a command that has started, and that it has not ended. -/
theorem Runs.started {s : State} {t seq op : Nat} {dma : Bool} {e : JEntry} (h : Runs s t seq op dma e) (r : Bool) :
    ∃ e', ((s.tick t).start seq r).entry? seq = some e' ∧ e'.state.final = false ∧ ((s.tick t).start seq r).noFence seq ∧
      (r = true → e'.state = .running) := by
  obtain ⟨he, _, ha, _⟩ := State.startable_some h.1
  obtain ⟨⟨e', h1, h2, _⟩, h3⟩ := State.start_entry? (s := s.tick t) he h.2.1 r
  refine ⟨e', h1, ?_, h3, ?_⟩
  · rw [h2, ha]; cases r <;> rfl
  · intro hr; rw [h2, hr]; rfl

/-- The checks that a command's own conditions pass, with the general ones. -/
theorem Runs.verdict {s : State} {t seq op : Nat} {dma : Bool} {e : JEntry} (h : Runs s t seq op dma e) {c : Checks}
    (hc : c.verdict = none) : (generalChecks (s.tick t) op (e.p8 0) c).verdict = none := by
  obtain ⟨_, _, _, hm, hf, hs⟩ := h
  have h1 : (s.flt.faultState && !faultAllows op (e.p8 0)) = false := by
    cases hx : s.flt.faultState <;> simp_all
  have h2 : (s.journal.shutDown && !shutdownAllows op (e.p8 0)) = false := by
    cases hx : s.journal.shutDown <;> simp_all
  have : generalChecks (s.tick t) op (e.p8 0) c = c := by
    unfold generalChecks
    have e1 : (s.tick t).power.mode = s.power.mode := rfl
    have e2 : (s.tick t).flt.faultState = s.flt.faultState := rfl
    have e3 : (s.tick t).journal.shutDown = s.journal.shutDown := rfl
    rw [e1, e2, e3, hm, h1, h2]
    simp
  rw [this]; exact hc

/-- A command that runs is its effect on the state in which it has started. -/
theorem Runs.command {s : State} {t seq op : Nat} {dma : Bool} {e : JEntry} (h : Runs s t seq op dma e) (r : Bool)
    {c : State → JEntry → Checks} (f : State → JEntry → State) (hc : (c (s.tick t) e).verdict = none) :
    s.command t seq op dma r c f = f ((s.tick t).start seq r) e := by
  have hd : (dma && !(s.tick t).canSend) = false := by
    cases hx : dma <;> simp
    exact h.2.2.1 hx
  unfold State.command
  dsimp only
  rw [h.1]
  simp only [hd, Bool.false_eq_true, if_false, h.verdict hc]

/-- A command that ends at once: its effect, then its end. -/
theorem Runs.commandOk {s : State} {t seq op : Nat} {dma : Bool} {e : JEntry} (h : Runs s t seq op dma e)
    {c : State → JEntry → Checks} (f : State → JEntry → State) (d : State → JEntry → BitVec 32) (w : State → JEntry → BitVec 32 × BitVec 32 × BitVec 32 × BitVec 32)
    (hc : (c (s.tick t) e).verdict = none) :
    s.commandOk t seq op dma c f d w = (f ((s.tick t).start seq true) e).finish seq .ok (d (f ((s.tick t).start seq true) e) e)
      (w (f ((s.tick t).start seq true) e) e).1 (w (f ((s.tick t).start seq true) e) e).2.1 (w (f ((s.tick t).start seq true) e) e).2.2.1
      (w (f ((s.tick t).start seq true) e) e).2.2.2 := by
  unfold State.commandOk
  rw [h.command true _ hc]

/-- The end of a command whose effect left the journal alone. -/
theorem Runs.ended {s : State} {t seq op : Nat} {dma : Bool} {e : JEntry} (h : Runs s t seq op dma e) {r : Bool} {u : State}
    (hu : u.journal = ((s.tick t).start seq r).journal) (st : Status) (d r0 r1 r2 r3 : BitVec 32) :
    Ended (u.finish seq st d r0 r1 r2 r3) seq st d r0 r1 r2 r3 := by
  obtain ⟨e', h1, h2, h3, _⟩ := h.started r
  refine State.finish_ended (e := e') ?_ h2 ?_ st d r0 r1 r2 r3
  · rw [State.entry?_congr hu]; exact h1
  · unfold State.noFence; rw [hu]; exact h3

/-- A command whose effect left the journal alone runs on. -/
theorem Runs.inProgress {s : State} {t seq op : Nat} {dma : Bool} {e : JEntry} (h : Runs s t seq op dma e) {u : State}
    (hu : u.journal = ((s.tick t).start seq true).journal) : InProgress u seq := by
  obtain ⟨e', h1, _, _, h4⟩ := h.started true
  unfold InProgress
  rw [State.entry?_congr hu, h1]
  simp [h4 rfl]

end Sys2Proof.Safety
end

