-- ==== Sys2Proof/Laws/Keeps.lean ====
section
/-!
SUPPORT. Laws/Keeps.lean: for each shared operation, that it keeps the fuses and the queue, the places of the event recorder and the counts that
stop (`Safety.Keeps`).
-/

set_option linter.all false

set_option maxRecDepth 4000

namespace Sys2Proof.Machine

open Sys2Proof.Safety

theorem Keeps.mk_ {fu : Fuses} {qu : List Instr} {s : State} {now flash power host journal store codec render lines pos heads loop ring axes axisCycle dmc cal hb out free} :
  Keeps fu qu (State.mk now s.fuses flash power host journal store codec render lines pos heads loop ring axes axisCycle dmc s.flt s.evt cal hb out free s.pending) = Keeps fu qu s :=
  propext ⟨fun h => ⟨h.1, h.2, h.3, h.4⟩, fun h => ⟨h.1, h.2, h.3, h.4⟩⟩

theorem Keeps.foldl {α : Type} {fu : Fuses} {qu : List Instr} {g : State → α → State} (hg : ∀ s x, Keeps fu qu s → Keeps fu qu (g s x)) :
  ∀ {l : List α} {s : State}, Keeps fu qu s → Keeps fu qu (l.foldl g s)
  | [], _, h => h
  | _ :: t, _, h => Keeps.foldl hg (l := t) (hg _ _ h)

theorem Keeps.ite {fu : Fuses} {qu : List Instr} {c : Prop} [Decidable c] {a b : State} (ha : Keeps fu qu a) (hb : Keeps fu qu b) :
    Keeps fu qu (if c then a else b) := by split <;> assumption

theorem State.tick_keeps {fu : Fuses} {qu : List Instr} (a0) (a1) (h0 : Keeps fu qu a0) : Keeps fu qu ((@State.tick a0 a1)) := by
  unfold State.tick
  try dsimp only
  repeat' first
    | with_reducible assumption
    | (with_reducible apply Keeps.foldl; intro _ _ _)
    | simp only [Keeps.mk_]
    | intro _
    | split

theorem State.freeBit_keeps {fu : Fuses} {qu : List Instr} (a0) (h0 : Keeps fu qu a0) : Keeps fu qu ((@State.freeBit a0).2) := by
  unfold State.freeBit
  try dsimp only
  repeat' first
    | with_reducible assumption
    | (with_reducible apply Keeps.foldl; intro _ _ _)
    | simp only [Keeps.mk_]
    | intro _
    | split

theorem State.freeByte_keeps {fu : Fuses} {qu : List Instr} (a0) (h0 : Keeps fu qu a0) : Keeps fu qu ((@State.freeByte a0).2) := by
  unfold State.freeByte
  try dsimp only
  repeat' first
    | with_reducible assumption
    | (with_reducible apply Keeps.foldl; intro _ _ _)
    | simp only [Keeps.mk_]
    | intro _
    | split

theorem State.freeBytes_keeps {fu : Fuses} {qu : List Instr} : ∀ (n : Nat) (s : State), Keeps fu qu s → Keeps fu qu (State.freeBytes n s).2
  | 0, _, h => h
  | n + 1, s, h => by
    unfold State.freeBytes
    exact State.freeBytes_keeps n _ (by simp only [Keeps.mk_]; exact h)

theorem State.freeNat_keeps {fu : Fuses} {qu : List Instr} (a0) (h0 : Keeps fu qu a0) : Keeps fu qu ((@State.freeNat a0).2) := by
  unfold State.freeNat
  try dsimp only
  repeat' first
    | with_reducible assumption
    | (with_reducible apply Keeps.foldl; intro _ _ _)
    | simp only [Keeps.mk_]
    | intro _
    | split

theorem State.emit_keeps {fu : Fuses} {qu : List Instr} (a0) (a1) (h0 : Keeps fu qu a0) : Keeps fu qu ((@State.emit a0 a1)) := by
  unfold State.emit
  try dsimp only
  repeat' first
    | with_reducible assumption
    | (with_reducible apply Keeps.foldl; intro _ _ _)
    | simp only [Keeps.mk_]
    | intro _
    | split

theorem State.interrupt_keeps {fu : Fuses} {qu : List Instr} (a0) (a1) (h0 : Keeps fu qu a0) : Keeps fu qu ((@State.interrupt a0 a1)) := by
  unfold State.interrupt
  try dsimp only
  repeat' first
    | with_reducible assumption
    | with_reducible apply State.emit_keeps
    | (with_reducible apply Keeps.foldl; intro _ _ _)
    | simp only [Keeps.mk_]
    | intro _
    | split

theorem State.sendPending_keeps {fu : Fuses} {qu : List Instr} (a0) (h0 : Keeps fu qu a0) : Keeps fu qu ((@State.sendPending a0)) := by
  unfold State.sendPending
  try dsimp only
  repeat' first
    | with_reducible assumption
    | with_reducible apply State.emit_keeps
    | (with_reducible apply Keeps.foldl; intro _ _ _)
    | simp only [Keeps.mk_]
    | intro _
    | split

theorem State.overflowed_keeps {fu : Fuses} {qu : List Instr} (s : State) (h : Keeps fu qu s) : Keeps fu qu s.overflowed := by
  have h1 : Keeps fu qu { s with evt := { s.evt with
      overflow := min (s.evt.overflow + 1) 0xFFFFFFFF, overflowArmed := false
      overflowDirty := some (s.evt.overflowDirty.getD s.now) } } :=
    ⟨h.1, h.2, h.3, ⟨Nat.min_le_right _ _, h.4.2⟩⟩
  unfold State.overflowed
  dsimp only
  split
  · exact State.interrupt_keeps _ _ h1
  · exact h1

theorem State.bufferRecord_keeps {fu : Fuses} {qu : List Instr} (s : State) (r : Record) (h : Keeps fu qu s) (hl : s.evt.buffer.length < 2048) :
    Keeps fu qu (s.bufferRecord r) := by
  obtain ⟨h1, h2, ⟨_, r2, r3, r4, r5⟩, h4⟩ := h
  have hb : ∀ x : Buffered, (s.evt.buffer ++ [x]).length ≤ 2048 := fun x => by
    simp only [List.length_append, List.length_cons, List.length_nil]; omega
  have hs : (if s.dmc.trained then spillPut s.evt.spill r else s.evt.spill).length ≤ 524288 := by
    split
    · exact List.length_take_le _ _
    · exact r2
  unfold State.bufferRecord
  refine Keeps.ite (State.interrupt_keeps _ _ ?_) ?_ <;> exact ⟨h1, h2, ⟨hb _, hs, r3, r4, r5⟩, h4⟩

theorem keeps_displace {l b : List Buffered} (h : displace l = some b) : b.length + 1 = l.length := by
  unfold displace at h
  split at h
  · rename_i i hi
    have hlt := (List.findIdx?_eq_some_iff_findIdx_eq.1 hi).1
    simp only [List.length_reverse] at hlt
    cases h
    rw [List.length_eraseIdx]
    split <;> omega
  · cases h

theorem State.noteAt_keeps {fu : Fuses} {qu : List Instr} (s : State) (n : Note) (st : Bool × BitVec 64) (h : Keeps fu qu s) :
    Keeps fu qu (s.noteAt n st) := by
  have key : ∀ {t : State} (b : Bool), Keeps fu qu t → Keeps fu qu (if b then t.interrupt 9 else t) := by
    intro t b ht
    split
    · exact State.interrupt_keeps _ _ ht
    · exact ht
  unfold State.noteAt
  refine key _ ?_
  have h1 : Keeps fu qu { s with evt := { s.evt with newest := (s.recordOf n st).seq, wrap := (s.recordOf n st).wrap } } := ⟨h.1, h.2, h.3, h.4⟩
  dsimp only
  split
  · exact State.bufferRecord_keeps _ _ h1 (by assumption)
  · split
    · split
      · rename_i b hb
        have hb' := keeps_displace hb
        have := h.3.1
        refine State.overflowed_keeps _ (State.bufferRecord_keeps _ _ ?_ ?_)
        · refine ⟨h.1, h.2, ⟨?_, h.3.2⟩, h.4⟩
          dsimp only at hb' ⊢; omega
        · dsimp only at hb' ⊢; omega
      · exact State.overflowed_keeps _ h1
    · exact State.overflowed_keeps _ h1

theorem State.note_keeps {fu : Fuses} {qu : List Instr} (a0) (a1) (h0 : Keeps fu qu a0) : Keeps fu qu ((@State.note a0 a1)) := by
  unfold State.note
  try dsimp only
  repeat' first
    | with_reducible assumption
    | with_reducible apply State.noteAt_keeps
    | (with_reducible apply Keeps.foldl; intro _ _ _)
    | simp only [Keeps.mk_]
    | intro _
    | split

theorem State.info_keeps {fu : Fuses} {qu : List Instr} (a0) (a1) (a2) (a3) (a4) (a5) (h0 : Keeps fu qu a0) : Keeps fu qu ((@State.info a0 a1 a2 a3 a4 a5)) := by
  unfold State.info
  try dsimp only
  repeat' first
    | with_reducible assumption
    | with_reducible apply State.note_keeps
    | (with_reducible apply Keeps.foldl; intro _ _ _)
    | simp only [Keeps.mk_]
    | intro _
    | split

theorem State.episodeOpen_keeps {fu : Fuses} {qu : List Instr} (s : State) (a1 : Nat) (a2 : BitVec 32) (h : Keeps fu qu s) : Keeps fu qu (s.episodeOpen a1 a2) :=
  State.info_keeps _ _ _ _ _ _ ⟨h.1, h.2, h.3, h.4⟩

theorem State.episodeClose_keeps {fu : Fuses} {qu : List Instr} (s : State) (a1 : Nat) (a2 : BitVec 32) (h : Keeps fu qu s) : Keeps fu qu (s.episodeClose a1 a2) := by
  unfold State.episodeClose
  dsimp only
  split
  · exact h
  · split
    · exact ⟨h.1, h.2, h.3, h.4⟩
    · have h1 := State.info_keeps s 0x8202 0 (w32 a1) a2 0 h
      exact ⟨h1.1, h1.2, h1.3, h1.4⟩

theorem State.writeCompletion_keeps {fu : Fuses} {qu : List Instr} (a0) (a1) (a2) (h0 : Keeps fu qu a0) : Keeps fu qu ((@State.writeCompletion a0 a1 a2)) := by
  unfold State.writeCompletion
  try dsimp only
  repeat' first
    | with_reducible assumption
    | with_reducible apply State.emit_keeps
    | with_reducible apply State.interrupt_keeps
    | (with_reducible apply Keeps.foldl; intro _ _ _)
    | simp only [Keeps.mk_]
    | intro _
    | split

theorem State.holdCompletion_keeps {fu : Fuses} {qu : List Instr} (a0) (a1) (a2) (h0 : Keeps fu qu a0) : Keeps fu qu ((@State.holdCompletion a0 a1 a2)) := by
  unfold State.holdCompletion
  try dsimp only
  repeat' first
    | with_reducible assumption
    | (with_reducible apply Keeps.foldl; intro _ _ _)
    | simp only [Keeps.mk_]
    | intro _
    | split

theorem State.post_keeps {fu : Fuses} {qu : List Instr} (a0) (a1) (a2) (h0 : Keeps fu qu a0) : Keeps fu qu ((@State.post a0 a1 a2)) := by
  unfold State.post
  try dsimp only
  repeat' first
    | with_reducible assumption
    | with_reducible apply State.writeCompletion_keeps
    | with_reducible apply State.holdCompletion_keeps
    | (with_reducible apply Keeps.foldl; intro _ _ _)
    | simp only [Keeps.mk_]
    | intro _
    | split

theorem State.postHeld_keeps {fu : Fuses} {qu : List Instr} : ∀ (n : Nat) (s : State) (i : Nat), Keeps fu qu s → Keeps fu qu (State.postHeld n s i)
  | 0, _, _, h => h
  | n + 1, s, i, h => by
    unfold State.postHeld
    dsimp only
    split
    · exact h
    · split
      · exact h
      · exact State.postHeld_keeps n _ i (State.writeCompletion_keeps _ _ _ (by simp only [Keeps.mk_]; exact h))

theorem State.postAllHeld_keeps {fu : Fuses} {qu : List Instr} (a0) (h0 : Keeps fu qu a0) : Keeps fu qu ((@State.postAllHeld a0)) := by
  unfold State.postAllHeld
  try dsimp only
  repeat' first
    | with_reducible assumption
    | with_reducible apply State.postHeld_keeps
    | (with_reducible apply Keeps.foldl; intro _ _ _)
    | simp only [Keeps.mk_]
    | intro _
    | split

theorem State.mapEntry_keeps {fu : Fuses} {qu : List Instr} (a0) (a1) (a2) (h0 : Keeps fu qu a0) : Keeps fu qu ((@State.mapEntry a0 a1 a2)) := by
  unfold State.mapEntry
  try dsimp only
  repeat' first
    | with_reducible assumption
    | (with_reducible apply Keeps.foldl; intro _ _ _)
    | simp only [Keeps.mk_]
    | intro _
    | split

theorem State.writeEntry_keeps {fu : Fuses} {qu : List Instr} (a0) (a1) (h0 : Keeps fu qu a0) : Keeps fu qu ((@State.writeEntry a0 a1)) := by
  unfold State.writeEntry
  try dsimp only
  repeat' first
    | with_reducible assumption
    | (with_reducible apply Keeps.foldl; intro _ _ _)
    | simp only [Keeps.mk_]
    | intro _
    | split

theorem State.setJState_keeps {fu : Fuses} {qu : List Instr} (a0) (a1) (a2) (h0 : Keeps fu qu a0) : Keeps fu qu ((@State.setJState a0 a1 a2)) := by
  unfold State.setJState
  try dsimp only
  repeat' first
    | with_reducible assumption
    | with_reducible apply State.mapEntry_keeps
    | with_reducible apply State.writeEntry_keeps
    | (with_reducible apply Keeps.foldl; intro _ _ _)
    | simp only [Keeps.mk_]
    | intro _
    | split

theorem State.settleEntry_keeps {fu : Fuses} {qu : List Instr} (a0) (a1) (a2) (a3) (a4) (a5) (a6) (a7) (h0 : Keeps fu qu a0) : Keeps fu qu ((@State.settleEntry a0 a1 a2 a3 a4 a5 a6 a7)) := by
  unfold State.settleEntry
  try dsimp only
  repeat' first
    | with_reducible assumption
    | with_reducible apply State.post_keeps
    | with_reducible apply State.mapEntry_keeps
    | with_reducible apply State.setJState_keeps
    | (with_reducible apply Keeps.foldl; intro _ _ _)
    | simp only [Keeps.mk_]
    | intro _
    | split

theorem State.settleFences_keeps {fu : Fuses} {qu : List Instr} : ∀ (n : Nat) (s : State), Keeps fu qu s → Keeps fu qu (State.settleFences n s)
  | 0, _, h => h
  | n + 1, s, h => by
    unfold State.settleFences
    split
    · exact h
    · exact State.settleFences_keeps n _ (State.settleEntry_keeps _ _ _ _ _ _ _ _ (by simp only [Keeps.mk_]; exact h))

theorem State.fences_keeps {fu : Fuses} {qu : List Instr} (a0) (h0 : Keeps fu qu a0) : Keeps fu qu ((@State.fences a0)) := by
  unfold State.fences
  try dsimp only
  repeat' first
    | with_reducible assumption
    | with_reducible apply State.settleFences_keeps
    | (with_reducible apply Keeps.foldl; intro _ _ _)
    | simp only [Keeps.mk_]
    | intro _
    | split

theorem State.finish_keeps {fu : Fuses} {qu : List Instr} (a0) (a1) (a2) (a3) (a4) (a5) (a6) (a7) (h0 : Keeps fu qu a0) : Keeps fu qu ((@State.finish a0 a1 a2 a3 a4 a5 a6 a7)) := by
  unfold State.finish
  try dsimp only
  repeat' first
    | with_reducible assumption
    | with_reducible apply State.settleEntry_keeps
    | with_reducible apply State.fences_keeps
    | (with_reducible apply Keeps.foldl; intro _ _ _)
    | simp only [Keeps.mk_]
    | intro _
    | split

theorem State.setRunning_keeps {fu : Fuses} {qu : List Instr} (a0) (a1) (h0 : Keeps fu qu a0) : Keeps fu qu ((@State.setRunning a0 a1)) := by
  unfold State.setRunning
  try dsimp only
  repeat' first
    | with_reducible assumption
    | with_reducible apply State.setJState_keeps
    | with_reducible apply State.fences_keeps
    | (with_reducible apply Keeps.foldl; intro _ _ _)
    | simp only [Keeps.mk_]
    | intro _
    | split

theorem State.start_keeps {fu : Fuses} {qu : List Instr} (a0) (a1) (a2) (h0 : Keeps fu qu a0) : Keeps fu qu ((@State.start a0 a1 a2)) := by
  unfold State.start
  try dsimp only
  repeat' first
    | with_reducible assumption
    | with_reducible apply State.mapEntry_keeps
    | with_reducible apply State.setRunning_keeps
    | (with_reducible apply Keeps.foldl; intro _ _ _)
    | simp only [Keeps.mk_]
    | intro _
    | split

theorem State.updChan_keeps {fu : Fuses} {qu : List Instr} (a0) (a1) (a2) (h0 : Keeps fu qu a0) : Keeps fu qu ((@State.updChan a0 a1 a2)) := by
  unfold State.updChan
  try dsimp only
  repeat' first
    | with_reducible assumption
    | (with_reducible apply Keeps.foldl; intro _ _ _)
    | simp only [Keeps.mk_]
    | intro _
    | split

theorem State.advance_keeps {fu : Fuses} {qu : List Instr} (a0) (h0 : Keeps fu qu a0) : Keeps fu qu ((@State.advance a0)) := by
  unfold State.advance
  try dsimp only
  repeat' first
    | with_reducible assumption
    | (with_reducible apply Keeps.foldl; intro _ _ _)
    | simp only [Keeps.mk_]
    | intro _
    | split

theorem State.refuse_keeps {fu : Fuses} {qu : List Instr} (a0) (a1) (a2) (a3) (h0 : Keeps fu qu a0) : Keeps fu qu ((@State.refuse a0 a1 a2 a3)) := by
  unfold State.refuse
  try dsimp only
  repeat' first
    | with_reducible assumption
    | with_reducible apply State.info_keeps
    | with_reducible apply State.finish_keeps
    | (with_reducible apply Keeps.foldl; intro _ _ _)
    | simp only [Keeps.mk_]
    | intro _
    | split

theorem State.command_keeps {fu : Fuses} {qu : List Instr} (a0) (a1) (a2) (a3) (a4) (a5) (a6) (a7) (h0 : Keeps fu qu a0) (h7 : ∀ s y0, Keeps fu qu s → Keeps fu qu ((a7 s y0))) : Keeps fu qu ((@State.command a0 a1 a2 a3 a4 a5 a6 a7)) := by
  unfold State.command
  try dsimp only
  repeat' first
    | with_reducible assumption
    | with_reducible apply h7
    | with_reducible apply State.tick_keeps
    | with_reducible apply State.mapEntry_keeps
    | with_reducible apply State.start_keeps
    | with_reducible apply State.refuse_keeps
    | (with_reducible apply Keeps.foldl; intro _ _ _)
    | simp only [Keeps.mk_]
    | intro _
    | split

theorem State.commandOk_keeps {fu : Fuses} {qu : List Instr} (a0) (a1) (a2) (a3) (a4) (a5) (a6) (a7) (a8) (h0 : Keeps fu qu a0) (h6 : ∀ s y0, Keeps fu qu s → Keeps fu qu ((a6 s y0))) : Keeps fu qu ((@State.commandOk a0 a1 a2 a3 a4 a5 a6 a7 a8)) := by
  unfold State.commandOk
  try dsimp only
  repeat' first
    | with_reducible assumption
    | with_reducible apply h6
    | with_reducible apply State.finish_keeps
    | with_reducible apply State.command_keeps
    | (with_reducible apply Keeps.foldl; intro _ _ _)
    | simp only [Keeps.mk_]
    | intro _
    | split

theorem State.updHalyard_keeps {fu : Fuses} {qu : List Instr} (a0) (a1) (a2) (h0 : Keeps fu qu a0) : Keeps fu qu ((@State.updHalyard a0 a1 a2)) := by
  unfold State.updHalyard
  try dsimp only
  repeat' first
    | with_reducible assumption
    | (with_reducible apply Keeps.foldl; intro _ _ _)
    | simp only [Keeps.mk_]
    | intro _
    | split

theorem State.sendOn_keeps {fu : Fuses} {qu : List Instr} (a0) (a1) (a2) (h0 : Keeps fu qu a0) : Keeps fu qu ((@State.sendOn a0 a1 a2)) := by
  unfold State.sendOn
  try dsimp only
  repeat' first
    | with_reducible assumption
    | with_reducible apply State.emit_keeps
    | (with_reducible apply Keeps.foldl; intro _ _ _)
    | simp only [Keeps.mk_]
    | intro _
    | split

theorem State.sendBoth_keeps {fu : Fuses} {qu : List Instr} (a0) (a1) (h0 : Keeps fu qu a0) : Keeps fu qu ((@State.sendBoth a0 a1)) := by
  unfold State.sendBoth
  try dsimp only
  repeat' first
    | with_reducible assumption
    | with_reducible apply State.sendOn_keeps
    | (with_reducible apply Keeps.foldl; intro _ _ _)
    | simp only [Keeps.mk_]
    | intro _
    | split

theorem State.emitPacket_keeps {fu : Fuses} {qu : List Instr} (a0) (a1) (h0 : Keeps fu qu a0) : Keeps fu qu ((@State.emitPacket a0 a1)) := by
  unfold State.emitPacket
  try dsimp only
  repeat' first
    | with_reducible assumption
    | with_reducible apply State.sendBoth_keeps
    | (with_reducible apply Keeps.foldl; intro _ _ _)
    | simp only [Keeps.mk_]
    | intro _
    | split

theorem State.sendCounted_keeps {fu : Fuses} {qu : List Instr} (a0) (a1) (h0 : Keeps fu qu a0) : Keeps fu qu ((@State.sendCounted a0 a1)) := by
  unfold State.sendCounted
  try dsimp only
  repeat' first
    | with_reducible assumption
    | with_reducible apply State.sendBoth_keeps
    | (with_reducible apply Keeps.foldl; intro _ _ _)
    | simp only [Keeps.mk_]
    | intro _
    | split

theorem State.takeSq_keeps {fu : Fuses} {qu : List Instr} (a0) (a1) (a2) (h0 : Keeps fu qu a0) : Keeps fu qu ((@State.takeSq a0 a1 a2).2) := by
  unfold State.takeSq
  try dsimp only
  repeat' first
    | with_reducible assumption
    | (with_reducible apply Keeps.foldl; intro _ _ _)
    | simp only [Keeps.mk_]
    | intro _
    | split

theorem State.sendNumbered_keeps {fu : Fuses} {qu : List Instr} (a0) (a1) (a2) (a3) (a4) (h0 : Keeps fu qu a0) : Keeps fu qu ((@State.sendNumbered a0 a1 a2 a3 a4)) := by
  unfold State.sendNumbered
  try dsimp only
  repeat' first
    | with_reducible assumption
    | with_reducible apply State.emitPacket_keeps
    | (with_reducible apply Keeps.foldl; intro _ _ _)
    | simp only [Keeps.mk_]
    | intro _
    | split

theorem State.ringSend_keeps {fu : Fuses} {qu : List Instr} (a0) (a1) (a2) (h0 : Keeps fu qu a0) : Keeps fu qu ((@State.ringSend a0 a1 a2)) := by
  unfold State.ringSend
  try dsimp only
  repeat' first
    | with_reducible assumption
    | with_reducible apply State.takeSq_keeps
    | with_reducible apply State.sendNumbered_keeps
    | (with_reducible apply Keeps.foldl; intro _ _ _)
    | simp only [Keeps.mk_]
    | intro _
    | split

theorem State.tellManager_keeps {fu : Fuses} {qu : List Instr} (a0) (a1) (h0 : Keeps fu qu a0) : Keeps fu qu ((@State.tellManager a0 a1)) := by
  unfold State.tellManager
  try dsimp only
  repeat' first
    | with_reducible assumption
    | with_reducible apply State.ringSend_keeps
    | (with_reducible apply Keeps.foldl; intro _ _ _)
    | simp only [Keeps.mk_]
    | intro _
    | split

theorem State.acknowledge_keeps {fu : Fuses} {qu : List Instr} (a0) (a1) (a2) (a3) (h0 : Keeps fu qu a0) : Keeps fu qu ((@State.acknowledge a0 a1 a2 a3)) := by
  unfold State.acknowledge
  try dsimp only
  repeat' first
    | with_reducible assumption
    | with_reducible apply State.sendCounted_keeps
    | (with_reducible apply Keeps.foldl; intro _ _ _)
    | simp only [Keeps.mk_]
    | intro _
    | split

theorem numberPackets_keeps {fu : Fuses} {qu : List Instr} : ∀ (s : State) (l : List (Nat × Payload)), Keeps fu qu s → Keeps fu qu (numberPackets s l).2
  | _, [], h => h
  | s, (d, _) :: t, h => by
    unfold numberPackets
    exact numberPackets_keeps _ t (State.takeSq_keeps s 0xFD d h)

theorem State.runTransaction_keeps {fu : Fuses} {qu : List Instr} (a0) (a1) (h0 : Keeps fu qu a0) : Keeps fu qu ((@State.runTransaction a0 a1)) := by
  unfold State.runTransaction
  try dsimp only
  repeat' first
    | with_reducible assumption
    | with_reducible apply State.finish_keeps
    | with_reducible apply State.sendNumbered_keeps
    | with_reducible apply State.acknowledge_keeps
    | (with_reducible apply Keeps.foldl; intro _ _ _)
    | simp only [Keeps.mk_]
    | intro _
    | split

theorem State.sendMirror_keeps {fu : Fuses} {qu : List Instr} (a0) (a1) (a2) (a3) (a4) (a5) (h0 : Keeps fu qu a0) : Keeps fu qu ((@State.sendMirror a0 a1 a2 a3 a4 a5).2) := by
  unfold State.sendMirror
  try dsimp only
  repeat' first
    | with_reducible assumption
    | with_reducible apply State.takeSq_keeps
    | with_reducible apply State.sendNumbered_keeps
    | (with_reducible apply Keeps.foldl; intro _ _ _)
    | simp only [Keeps.mk_]
    | intro _
    | split

theorem State.transact_keeps {fu : Fuses} {qu : List Instr} (a0) (a1) (a2) (a3) (a4) (h0 : Keeps fu qu a0) : Keeps fu qu ((@State.transact a0 a1 a2 a3 a4)) := by
  unfold State.transact
  try dsimp only
  repeat' first
    | with_reducible assumption
    | with_reducible apply numberPackets_keeps
    | with_reducible apply State.runTransaction_keeps
    | with_reducible apply State.sendMirror_keeps
    | (with_reducible apply Keeps.foldl; intro _ _ _)
    | simp only [Keeps.mk_]
    | intro _
    | split

theorem State.postRoute_keeps {fu : Fuses} {qu : List Instr} (a0) (a1) (a2) (a3) (h0 : Keeps fu qu a0) : Keeps fu qu ((@State.postRoute a0 a1 a2 a3)) := by
  unfold State.postRoute
  try dsimp only
  repeat' first
    | with_reducible assumption
    | with_reducible apply State.post_keeps
    | (with_reducible apply Keeps.foldl; intro _ _ _)
    | simp only [Keeps.mk_]
    | intro _
    | split

theorem State.postV_keeps {fu : Fuses} {qu : List Instr} (a0) (h0 : Keeps fu qu a0) : Keeps fu qu ((@State.postV a0)) := by
  unfold State.postV
  try dsimp only
  repeat' first
    | with_reducible assumption
    | with_reducible apply State.postRoute_keeps
    | (with_reducible apply Keeps.foldl; intro _ _ _)
    | simp only [Keeps.mk_]
    | intro _
    | split

theorem State.recordLimit_keeps {fu : Fuses} {qu : List Instr} (a0) (a1) (a2) (a3) (h0 : Keeps fu qu a0) : Keeps fu qu ((@State.recordLimit a0 a1 a2 a3)) := by
  unfold State.recordLimit
  try dsimp only
  repeat' first
    | with_reducible assumption
    | with_reducible apply State.postV_keeps
    | (with_reducible apply Keeps.foldl; intro _ _ _)
    | simp only [Keeps.mk_]
    | intro _
    | split

theorem State.publish_keeps {fu : Fuses} {qu : List Instr} (a0) (a1) (a2) (h0 : Keeps fu qu a0) : Keeps fu qu ((@State.publish a0 a1 a2)) := by
  unfold State.publish
  try dsimp only
  repeat' first
    | with_reducible assumption
    | with_reducible apply State.ringSend_keeps
    | with_reducible apply State.transact_keeps
    | with_reducible apply State.postRoute_keeps
    | with_reducible apply State.recordLimit_keeps
    | (with_reducible apply Keeps.foldl; intro _ _ _)
    | simp only [Keeps.mk_]
    | intro _
    | split

theorem State.mapPage_keeps {fu : Fuses} {qu : List Instr} (a0) (a1) (a2) (h0 : Keeps fu qu a0) : Keeps fu qu ((@State.mapPage a0 a1 a2)) := by
  unfold State.mapPage
  try dsimp only
  repeat' first
    | with_reducible assumption
    | (with_reducible apply Keeps.foldl; intro _ _ _)
    | simp only [Keeps.mk_]
    | intro _
    | split

theorem State.mapJob_keeps {fu : Fuses} {qu : List Instr} (a0) (a1) (a2) (h0 : Keeps fu qu a0) : Keeps fu qu ((@State.mapJob a0 a1 a2)) := by
  unfold State.mapJob
  try dsimp only
  repeat' first
    | with_reducible assumption
    | (with_reducible apply Keeps.foldl; intro _ _ _)
    | simp only [Keeps.mk_]
    | intro _
    | split

theorem State.settleJob_keeps {fu : Fuses} {qu : List Instr} (a0) (a1) (h0 : Keeps fu qu a0) : Keeps fu qu ((@State.settleJob a0 a1)) := by
  unfold State.settleJob
  try dsimp only
  repeat' first
    | with_reducible assumption
    | with_reducible apply State.finish_keeps
    | (with_reducible apply Keeps.foldl; intro _ _ _)
    | simp only [Keeps.mk_]
    | intro _
    | split

theorem State.noteFailure_keeps {fu : Fuses} {qu : List Instr} (a0) (a1) (a2) (h0 : Keeps fu qu a0) : Keeps fu qu ((@State.noteFailure a0 a1 a2)) := by
  unfold State.noteFailure
  try dsimp only
  repeat' first
    | with_reducible assumption
    | with_reducible apply State.info_keeps
    | (with_reducible apply Keeps.foldl; intro _ _ _)
    | simp only [Keeps.mk_]
    | intro _
    | split

theorem State.releaseAs_keeps {fu : Fuses} {qu : List Instr} (a0) (a1) (a2) (a3) (h0 : Keeps fu qu a0) : Keeps fu qu ((@State.releaseAs a0 a1 a2 a3)) := by
  unfold State.releaseAs
  try dsimp only
  repeat' first
    | with_reducible assumption
    | with_reducible apply State.finish_keeps
    | with_reducible apply State.mapJob_keeps
    | with_reducible apply State.settleJob_keeps
    | (with_reducible apply Keeps.foldl; intro _ _ _)
    | simp only [Keeps.mk_]
    | intro _
    | split

theorem State.release_keeps {fu : Fuses} {qu : List Instr} (a0) (a1) (h0 : Keeps fu qu a0) : Keeps fu qu ((@State.release a0 a1)) := by
  unfold State.release
  try dsimp only
  repeat' first
    | with_reducible assumption
    | with_reducible apply State.releaseAs_keeps
    | (with_reducible apply Keeps.foldl; intro _ _ _)
    | simp only [Keeps.mk_]
    | intro _
    | split

theorem State.hold_keeps {fu : Fuses} {qu : List Instr} (a0) (a1) (a2) (a3) (h0 : Keeps fu qu a0) : Keeps fu qu ((@State.hold a0 a1 a2 a3)) := by
  unfold State.hold
  try dsimp only
  repeat' first
    | with_reducible assumption
    | with_reducible apply State.mapPage_keeps
    | (with_reducible apply Keeps.foldl; intro _ _ _)
    | simp only [Keeps.mk_]
    | intro _
    | split

theorem State.markReprint_keeps {fu : Fuses} {qu : List Instr} (a0) (a1) (a2) (h0 : Keeps fu qu a0) : Keeps fu qu ((@State.markReprint a0 a1 a2).1) := by
  unfold State.markReprint
  try dsimp only
  repeat' first
    | with_reducible assumption
    | (with_reducible apply Keeps.foldl; intro _ _ _)
    | simp only [Keeps.mk_]
    | intro _
    | split

theorem State.sendReprint_keeps {fu : Fuses} {qu : List Instr} (a0) (a1) (a2) (h0 : Keeps fu qu a0) : Keeps fu qu ((@State.sendReprint a0 a1 a2)) := by
  unfold State.sendReprint
  try dsimp only
  repeat' first
    | with_reducible assumption
    | with_reducible apply State.ringSend_keeps
    | with_reducible apply State.transact_keeps
    | with_reducible apply State.markReprint_keeps
    | (with_reducible apply Keeps.foldl; intro _ _ _)
    | simp only [Keeps.mk_]
    | intro _
    | split

theorem State.tellLoss_keeps {fu : Fuses} {qu : List Instr} (a0) (a1) (a2) (h0 : Keeps fu qu a0) : Keeps fu qu ((@State.tellLoss a0 a1 a2)) := by
  unfold State.tellLoss
  try dsimp only
  repeat' first
    | with_reducible assumption
    | with_reducible apply State.info_keeps
    | (with_reducible apply Keeps.foldl; intro _ _ _)
    | simp only [Keeps.mk_]
    | intro _
    | split

theorem State.spoil_keeps {fu : Fuses} {qu : List Instr} (a0) (a1) (a2) (a3) (a4) (h0 : Keeps fu qu a0) : Keeps fu qu ((@State.spoil a0 a1 a2 a3 a4)) := by
  unfold State.spoil
  try dsimp only
  repeat' first
    | with_reducible assumption
    | with_reducible apply State.mapPage_keeps
    | with_reducible apply State.hold_keeps
    | with_reducible apply State.sendReprint_keeps
    | with_reducible apply State.tellLoss_keeps
    | (with_reducible apply Keeps.foldl; intro _ _ _)
    | simp only [Keeps.mk_]
    | intro _
    | split

theorem State.tellGathered_keeps {fu : Fuses} {qu : List Instr} (a0) (a1) (a2) (h0 : Keeps fu qu a0) : Keeps fu qu ((@State.tellGathered a0 a1 a2)) := by
  unfold State.tellGathered
  try dsimp only
  repeat' first
    | with_reducible assumption
    | with_reducible apply State.mapPage_keeps
    | with_reducible apply State.tellLoss_keeps
    | (with_reducible apply Keeps.foldl; intro _ _ _)
    | simp only [Keeps.mk_]
    | intro _
    | split

theorem State.tellPage_keeps {fu : Fuses} {qu : List Instr} (a0) (a1) (h0 : Keeps fu qu a0) : Keeps fu qu ((@State.tellPage a0 a1)) := by
  unfold State.tellPage
  try dsimp only
  repeat' first
    | with_reducible assumption
    | with_reducible apply State.tellGathered_keeps
    | (with_reducible apply Keeps.foldl; intro _ _ _)
    | simp only [Keeps.mk_]
    | intro _
    | split

theorem State.spoilAt_keeps {fu : Fuses} {qu : List Instr} (a0) (a1) (a2) (a3) (a4) (a5) (h0 : Keeps fu qu a0) : Keeps fu qu ((@State.spoilAt a0 a1 a2 a3 a4 a5)) := by
  unfold State.spoilAt
  try dsimp only
  repeat' first
    | with_reducible assumption
    | with_reducible apply State.spoil_keeps
    | (with_reducible apply Keeps.foldl; intro _ _ _)
    | simp only [Keeps.mk_]
    | intro _
    | split

theorem State.spoilRest_keeps {fu : Fuses} {qu : List Instr} (a0) (a1) (a2) (a3) (h0 : Keeps fu qu a0) : Keeps fu qu ((@State.spoilRest a0 a1 a2 a3)) := by
  unfold State.spoilRest
  try dsimp only
  repeat' first
    | with_reducible assumption
    | with_reducible apply State.spoilAt_keeps
    | (with_reducible apply Keeps.foldl; intro _ _ _)
    | simp only [Keeps.mk_]
    | intro _
    | split

theorem State.spoilPrinting_keeps {fu : Fuses} {qu : List Instr} (a0) (a1) (a2) (h0 : Keeps fu qu a0) : Keeps fu qu ((@State.spoilPrinting a0 a1 a2)) := by
  unfold State.spoilPrinting
  try dsimp only
  repeat' first
    | with_reducible assumption
    | with_reducible apply State.spoilRest_keeps
    | (with_reducible apply Keeps.foldl; intro _ _ _)
    | simp only [Keeps.mk_]
    | intro _
    | split

theorem State.spoilLine_keeps {fu : Fuses} {qu : List Instr} (a0) (a1) (a2) (a3) (a4) (a5) (a6) (a7) (a8) (h0 : Keeps fu qu a0) : Keeps fu qu ((@State.spoilLine a0 a1 a2 a3 a4 a5 a6 a7 a8)) := by
  unfold State.spoilLine
  try dsimp only
  repeat' first
    | with_reducible assumption
    | with_reducible apply State.spoilAt_keeps
    | (with_reducible apply Keeps.foldl; intro _ _ _)
    | simp only [Keeps.mk_]
    | intro _
    | split

theorem State.notThere_keeps {fu : Fuses} {qu : List Instr} (a0) (a1) (h0 : Keeps fu qu a0) : Keeps fu qu ((@State.notThere a0 a1)) := by
  unfold State.notThere
  try dsimp only
  repeat' first
    | with_reducible assumption
    | with_reducible apply State.mapPage_keeps
    | (with_reducible apply Keeps.foldl; intro _ _ _)
    | simp only [Keeps.mk_]
    | intro _
    | split

theorem State.lateStart_keeps {fu : Fuses} {qu : List Instr} (a0) (a1) (a2) (h0 : Keeps fu qu a0) : Keeps fu qu ((@State.lateStart a0 a1 a2)) := by
  unfold State.lateStart
  try dsimp only
  repeat' first
    | with_reducible assumption
    | with_reducible apply State.info_keeps
    | with_reducible apply State.mapPage_keeps
    | with_reducible apply State.spoil_keeps
    | with_reducible apply State.notThere_keeps
    | (with_reducible apply Keeps.foldl; intro _ _ _)
    | simp only [Keeps.mk_]
    | intro _
    | split

theorem State.notePlace_keeps {fu : Fuses} {qu : List Instr} (a0) (a1) (a2) (h0 : Keeps fu qu a0) : Keeps fu qu ((@State.notePlace a0 a1 a2)) := by
  unfold State.notePlace
  try dsimp only
  repeat' first
    | with_reducible assumption
    | with_reducible apply State.mapJob_keeps
    | (with_reducible apply Keeps.foldl; intro _ _ _)
    | simp only [Keeps.mk_]
    | intro _
    | split

theorem State.fix_keeps {fu : Fuses} {qu : List Instr} (a0) (a1) (a2) (a3) (h0 : Keeps fu qu a0) : Keeps fu qu ((@State.fix a0 a1 a2 a3)) := by
  unfold State.fix
  try dsimp only
  repeat' first
    | with_reducible assumption
    | with_reducible apply State.mapPage_keeps
    | with_reducible apply State.lateStart_keeps
    | with_reducible apply State.notePlace_keeps
    | (with_reducible apply Keeps.foldl; intro _ _ _)
    | simp only [Keeps.mk_]
    | intro _
    | split

theorem State.placeFollow_keeps {fu : Fuses} {qu : List Instr} (a0) (a1) (h0 : Keeps fu qu a0) : Keeps fu qu ((@State.placeFollow a0 a1)) := by
  unfold State.placeFollow
  try dsimp only
  repeat' first
    | with_reducible assumption
    | with_reducible apply State.fix_keeps
    | (with_reducible apply Keeps.foldl; intro _ _ _)
    | simp only [Keeps.mk_]
    | intro _
    | split

theorem State.placeCompare_keeps {fu : Fuses} {qu : List Instr} (a0) (a1) (a2) (h0 : Keeps fu qu a0) : Keeps fu qu ((@State.placeCompare a0 a1 a2)) := by
  unfold State.placeCompare
  try dsimp only
  repeat' first
    | with_reducible assumption
    | with_reducible apply State.info_keeps
    | with_reducible apply State.mapPage_keeps
    | with_reducible apply State.lateStart_keeps
    | with_reducible apply State.notePlace_keeps
    | with_reducible apply State.fix_keeps
    | (with_reducible apply Keeps.foldl; intro _ _ _)
    | simp only [Keeps.mk_]
    | intro _
    | split

theorem State.keepPlacement_keeps {fu : Fuses} {qu : List Instr} (a0) (a1) (a2) (a3) (h0 : Keeps fu qu a0) : Keeps fu qu ((@State.keepPlacement a0 a1 a2 a3)) := by
  unfold State.keepPlacement
  try dsimp only
  repeat' first
    | with_reducible assumption
    | (with_reducible apply Keeps.foldl; intro _ _ _)
    | simp only [Keeps.mk_]
    | intro _
    | split

theorem State.syncPlaceLocal_keeps {fu : Fuses} {qu : List Instr} (a0) (a1) (a2) (a3) (h0 : Keeps fu qu a0) : Keeps fu qu ((@State.syncPlaceLocal a0 a1 a2 a3)) := by
  unfold State.syncPlaceLocal
  try dsimp only
  repeat' first
    | with_reducible assumption
    | with_reducible apply State.mapPage_keeps
    | with_reducible apply State.spoil_keeps
    | with_reducible apply State.notThere_keeps
    | with_reducible apply State.keepPlacement_keeps
    | (with_reducible apply Keeps.foldl; intro _ _ _)
    | simp only [Keeps.mk_]
    | intro _
    | split

theorem State.placeKept_keeps {fu : Fuses} {qu : List Instr} (a0) (a1) (a2) (h0 : Keeps fu qu a0) : Keeps fu qu ((@State.placeKept a0 a1 a2)) := by
  unfold State.placeKept
  try dsimp only
  repeat' first
    | with_reducible assumption
    | with_reducible apply State.syncPlaceLocal_keeps
    | (with_reducible apply Keeps.foldl; intro _ _ _)
    | simp only [Keeps.mk_]
    | intro _
    | split

theorem State.managerPlace_keeps {fu : Fuses} {qu : List Instr} (a0) (a1) (a2) (h0 : Keeps fu qu a0) : Keeps fu qu ((@State.managerPlace a0 a1 a2).1) := by
  unfold State.managerPlace
  try dsimp only
  repeat' first
    | with_reducible assumption
    | with_reducible apply State.info_keeps
    | with_reducible apply State.syncPlaceLocal_keeps
    | (with_reducible apply Keeps.foldl; intro _ _ _)
    | simp only [Keeps.mk_]
    | intro _
    | split

theorem State.managerReady_keeps {fu : Fuses} {qu : List Instr} (a0) (a1) (a2) (a3) (a4) (h0 : Keeps fu qu a0) : Keeps fu qu ((@State.managerReady a0 a1 a2 a3 a4).1) := by
  unfold State.managerReady
  try dsimp only
  repeat' first
    | with_reducible assumption
    | with_reducible apply State.managerPlace_keeps
    | (with_reducible apply Keeps.foldl; intro _ _ _)
    | simp only [Keeps.mk_]
    | intro _
    | split

theorem State.placeForeign_keeps {fu : Fuses} {qu : List Instr} (a0) (a1) (h0 : Keeps fu qu a0) : Keeps fu qu ((@State.placeForeign a0 a1).1) := by
  unfold State.placeForeign
  have key : ∀ (l : List SyncPage) (r : State × List (Nat × Payload)), Keeps fu qu r.1 → Keeps fu qu (l.foldl (fun r x =>
      ((r.1.managerPlace a1 x.page).1, r.2 ++ (r.1.managerPlace a1 x.page).2)) r).1 := by
    intro l
    induction l with
    | nil => exact fun _ hr => hr
    | cons c t ih => exact fun r hr => ih _ (State.managerPlace_keeps _ _ _ hr)
  dsimp only
  split
  · exact h0
  · exact key _ (a0, []) h0

theorem State.memberReady_keeps {fu : Fuses} {qu : List Instr} (a0) (a1) (h0 : Keeps fu qu a0) : Keeps fu qu ((@State.memberReady a0 a1)) := by
  unfold State.memberReady
  try dsimp only
  repeat' first
    | with_reducible assumption
    | with_reducible apply State.ringSend_keeps
    | with_reducible apply State.transact_keeps
    | with_reducible apply State.managerReady_keeps
    | with_reducible apply State.placeForeign_keeps
    | (with_reducible apply Keeps.foldl; intro _ _ _)
    | simp only [Keeps.mk_]
    | intro _
    | split

theorem State.storePage_keeps {fu : Fuses} {qu : List Instr} (a0) (a1) (h0 : Keeps fu qu a0) : Keeps fu qu ((@State.storePage a0 a1)) := by
  unfold State.storePage
  try dsimp only
  repeat' first
    | with_reducible assumption
    | with_reducible apply State.setRunning_keeps
    | with_reducible apply State.mapPage_keeps
    | with_reducible apply State.lateStart_keeps
    | with_reducible apply State.placeFollow_keeps
    | with_reducible apply State.placeCompare_keeps
    | with_reducible apply State.placeKept_keeps
    | with_reducible apply State.memberReady_keeps
    | (with_reducible apply Keeps.foldl; intro _ _ _)
    | simp only [Keeps.mk_]
    | intro _
    | split

theorem State.placeReprint_keeps {fu : Fuses} {qu : List Instr} (a0) (a1) (h0 : Keeps fu qu a0) : Keeps fu qu ((@State.placeReprint a0 a1)) := by
  unfold State.placeReprint
  try dsimp only
  repeat' first
    | with_reducible assumption
    | with_reducible apply State.mapPage_keeps
    | with_reducible apply State.mapJob_keeps
    | with_reducible apply State.tellPage_keeps
    | (with_reducible apply Keeps.foldl; intro _ _ _)
    | simp only [Keeps.mk_]
    | intro _
    | split

theorem State.settleFired_keeps {fu : Fuses} {qu : List Instr} (a0) (h0 : Keeps fu qu a0) : Keeps fu qu ((@State.settleFired a0)) := by
  unfold State.settleFired
  try dsimp only
  repeat' first
    | with_reducible assumption
    | (with_reducible apply Keeps.foldl; intro _ _ _)
    | simp only [Keeps.mk_]
    | intro _
    | split

theorem State.clearPrinting_keeps {fu : Fuses} {qu : List Instr} (a0) (h0 : Keeps fu qu a0) : Keeps fu qu ((@State.clearPrinting a0)) := by
  unfold State.clearPrinting
  try dsimp only
  repeat' first
    | with_reducible assumption
    | with_reducible apply State.finish_keeps
    | with_reducible apply State.tellPage_keeps
    | (with_reducible apply Keeps.foldl; intro _ _ _)
    | simp only [Keeps.mk_]
    | intro _
    | split

theorem State.spoilOld_keeps {fu : Fuses} {qu : List Instr} (a0) (a1) (a2) (h0 : Keeps fu qu a0) : Keeps fu qu ((@State.spoilOld a0 a1 a2)) := by
  unfold State.spoilOld
  try dsimp only
  repeat' first
    | with_reducible assumption
    | with_reducible apply State.spoilAt_keeps
    | (with_reducible apply Keeps.foldl; intro _ _ _)
    | simp only [Keeps.mk_]
    | intro _
    | split

theorem State.disarmPages_keeps {fu : Fuses} {qu : List Instr} (a0) (a1) (h0 : Keeps fu qu a0) : Keeps fu qu ((@State.disarmPages a0 a1)) := by
  unfold State.disarmPages
  try dsimp only
  repeat' first
    | with_reducible assumption
    | with_reducible apply State.mapPage_keeps
    | with_reducible apply State.spoilRest_keeps
    | with_reducible apply State.spoilOld_keeps
    | (with_reducible apply Keeps.foldl; intro _ _ _)
    | simp only [Keeps.mk_]
    | intro _
    | split

theorem State.disarmNow_keeps {fu : Fuses} {qu : List Instr} (a0) (a1) (h0 : Keeps fu qu a0) : Keeps fu qu ((@State.disarmNow a0 a1)) := by
  unfold State.disarmNow
  try dsimp only
  repeat' first
    | with_reducible assumption
    | with_reducible apply State.clearPrinting_keeps
    | with_reducible apply State.disarmPages_keeps
    | (with_reducible apply Keeps.foldl; intro _ _ _)
    | simp only [Keeps.mk_]
    | intro _
    | split

theorem State.disarmAtEnd_keeps {fu : Fuses} {qu : List Instr} (a0) (h0 : Keeps fu qu a0) : Keeps fu qu ((@State.disarmAtEnd a0)) := by
  unfold State.disarmAtEnd
  try dsimp only
  repeat' first
    | with_reducible assumption
    | (with_reducible apply Keeps.foldl; intro _ _ _)
    | simp only [Keeps.mk_]
    | intro _
    | split

theorem State.endDisarm_keeps {fu : Fuses} {qu : List Instr} (a0) (h0 : Keeps fu qu a0) : Keeps fu qu ((@State.endDisarm a0)) := by
  unfold State.endDisarm
  try dsimp only
  repeat' first
    | with_reducible assumption
    | with_reducible apply State.finish_keeps
    | with_reducible apply State.clearPrinting_keeps
    | (with_reducible apply Keeps.foldl; intro _ _ _)
    | simp only [Keeps.mk_]
    | intro _
    | split

theorem State.settleLateDisarms_keeps {fu : Fuses} {qu : List Instr} (a0) (h0 : Keeps fu qu a0) : Keeps fu qu ((@State.settleLateDisarms a0)) := by
  unfold State.settleLateDisarms
  try dsimp only
  repeat' first
    | with_reducible assumption
    | with_reducible apply State.finish_keeps
    | (with_reducible apply Keeps.foldl; intro _ _ _)
    | simp only [Keeps.mk_]
    | intro _
    | split

theorem State.settleDisarm_keeps {fu : Fuses} {qu : List Instr} (a0) (h0 : Keeps fu qu a0) : Keeps fu qu ((@State.settleDisarm a0)) := by
  unfold State.settleDisarm
  try dsimp only
  repeat' first
    | with_reducible assumption
    | with_reducible apply State.endDisarm_keeps
    | with_reducible apply State.settleLateDisarms_keeps
    | (with_reducible apply Keeps.foldl; intro _ _ _)
    | simp only [Keeps.mk_]
    | intro _
    | split

theorem State.updAxis_keeps {fu : Fuses} {qu : List Instr} (a0) (a1) (a2) (h0 : Keeps fu qu a0) : Keeps fu qu ((@State.updAxis a0 a1 a2)) := by
  unfold State.updAxis
  try dsimp only
  repeat' first
    | with_reducible assumption
    | (with_reducible apply Keeps.foldl; intro _ _ _)
    | simp only [Keeps.mk_]
    | intro _
    | split

theorem State.finishAxis_keeps {fu : Fuses} {qu : List Instr} (a0) (a1) (a2) (a3) (a4) (h0 : Keeps fu qu a0) : Keeps fu qu ((@State.finishAxis a0 a1 a2 a3 a4)) := by
  unfold State.finishAxis
  try dsimp only
  repeat' first
    | with_reducible assumption
    | with_reducible apply State.finish_keeps
    | (with_reducible apply Keeps.foldl; intro _ _ _)
    | simp only [Keeps.mk_]
    | intro _
    | split

theorem State.settleStops_keeps {fu : Fuses} {qu : List Instr} (a0) (a1) (h0 : Keeps fu qu a0) : Keeps fu qu ((@State.settleStops a0 a1)) := by
  unfold State.settleStops
  try dsimp only
  repeat' first
    | with_reducible assumption
    | with_reducible apply State.updAxis_keeps
    | with_reducible apply State.finishAxis_keeps
    | (with_reducible apply Keeps.foldl; intro _ _ _)
    | simp only [Keeps.mk_]
    | intro _
    | split

theorem State.endMotion_keeps {fu : Fuses} {qu : List Instr} (a0) (a1) (a2) (a3) (h0 : Keeps fu qu a0) : Keeps fu qu ((@State.endMotion a0 a1 a2 a3)) := by
  unfold State.endMotion
  try dsimp only
  repeat' first
    | with_reducible assumption
    | with_reducible apply State.updAxis_keeps
    | with_reducible apply State.finishAxis_keeps
    | with_reducible apply State.settleStops_keeps
    | (with_reducible apply Keeps.foldl; intro _ _ _)
    | simp only [Keeps.mk_]
    | intro _
    | split

theorem State.rampStop_keeps {fu : Fuses} {qu : List Instr} (a0) (a1) (a2) (a3) (a4) (h0 : Keeps fu qu a0) : Keeps fu qu ((@State.rampStop a0 a1 a2 a3 a4)) := by
  unfold State.rampStop
  try dsimp only
  repeat' first
    | with_reducible assumption
    | with_reducible apply State.updAxis_keeps
    | (with_reducible apply Keeps.foldl; intro _ _ _)
    | simp only [Keeps.mk_]
    | intro _
    | split

theorem State.hardStop_keeps {fu : Fuses} {qu : List Instr} (a0) (a1) (a2) (a3) (h0 : Keeps fu qu a0) : Keeps fu qu ((@State.hardStop a0 a1 a2 a3)) := by
  unfold State.hardStop
  try dsimp only
  repeat' first
    | with_reducible assumption
    | with_reducible apply State.endMotion_keeps
    | (with_reducible apply Keeps.foldl; intro _ _ _)
    | simp only [Keeps.mk_]
    | intro _
    | split

theorem State.stopAxes_keeps {fu : Fuses} {qu : List Instr} (a0) (a1) (a2) (a3) (h0 : Keeps fu qu a0) : Keeps fu qu ((@State.stopAxes a0 a1 a2 a3)) := by
  unfold State.stopAxes
  try dsimp only
  repeat' first
    | with_reducible assumption
    | with_reducible apply State.rampStop_keeps
    | (with_reducible apply Keeps.foldl; intro _ _ _)
    | simp only [Keeps.mk_]
    | intro _
    | split

theorem State.openWindow_keeps {fu : Fuses} {qu : List Instr} (s : State) (b : ResetBlock) (p : Nat) (h : Keeps fu qu s) : Keeps fu qu (s.openWindow b p) :=
  ⟨h.1, h.2, h.3, h.4.1, h.4.2.1, h.4.2.2.1, h.4.2.2.2.1, h.4.2.2.2.2.1, Nat.zero_le _, h.4.2.2.2.2.2.2⟩

theorem State.endInjection_keeps {fu : Fuses} {qu : List Instr} (a0) (a1) (h0 : Keeps fu qu a0) : Keeps fu qu ((@State.endInjection a0 a1)) := by
  unfold State.endInjection
  try dsimp only
  repeat' first
    | with_reducible assumption
    | with_reducible apply State.finish_keeps
    | (with_reducible apply Keeps.foldl; intro _ _ _)
    | simp only [Keeps.mk_]
    | intro _
    | split

theorem State.shotFed_keeps {fu : Fuses} {qu : List Instr} (s : State) (c : Nat) (h : Keeps fu qu s) : Keeps fu qu (s.shotFed c) := by
  unfold State.shotFed
  dsimp only
  split
  · exact h
  · split
    · exact State.endInjection_keeps _ _ ⟨h.1, h.2, h.3, h.4⟩
    · exact ⟨h.1, h.2, h.3, h.4⟩

theorem State.countShot_keeps {fu : Fuses} {qu : List Instr} (a0) (a1) (a2) (h0 : Keeps fu qu a0) : Keeps fu qu ((@State.countShot a0 a1 a2)) := by
  unfold State.countShot
  try dsimp only
  repeat' first
    | with_reducible assumption
    | with_reducible apply State.shotFed_keeps
    | (with_reducible apply Keeps.foldl; intro _ _ _)
    | simp only [Keeps.mk_]
    | intro _
    | split

theorem State.dropInjections_keeps {fu : Fuses} {qu : List Instr} (s : State) (p : Injection → Bool) (h : Keeps fu qu s) : Keeps fu qu (s.dropInjections p) :=
  Keeps.foldl (fun _ _ hs => State.endInjection_keeps _ _ hs) ⟨h.1, h.2, h.3, h.4⟩

theorem State.faultParams_keeps {fu : Fuses} {qu : List Instr} (a0) (a1) (h0 : Keeps fu qu a0) : Keeps fu qu ((@State.faultParams a0 a1).2) := by
  unfold State.faultParams
  try dsimp only
  repeat' first
    | with_reducible assumption
    | (with_reducible apply Keeps.foldl; intro _ _ _)
    | simp only [Keeps.mk_]
    | intro _
    | split

theorem State.setThrottle_keeps {fu : Fuses} {qu : List Instr} (s : State) (a : Throttle) (h : Keeps fu qu s) : Keeps fu qu (s.setThrottle a) :=
  ⟨h.1, h.2, h.3, h.4⟩

theorem State.recordFault_keeps {fu : Fuses} {qu : List Instr} (a0) (a1) (a2) (a3) (a4) (h0 : Keeps fu qu a0) : Keeps fu qu ((@State.recordFault a0 a1 a2 a3 a4).1) := by
  unfold State.recordFault
  try dsimp only
  repeat' first
    | with_reducible assumption
    | with_reducible apply State.note_keeps
    | with_reducible apply State.setThrottle_keeps
    | (with_reducible apply Keeps.foldl; intro _ _ _)
    | simp only [Keeps.mk_]
    | intro _
    | split

theorem keeps_Flt_count {f : Flt} (c : Nat) (h : f.count0 ≤ 255 ∧ f.count1 ≤ 255 ∧ f.count2 ≤ 255 ∧ f.count3 ≤ 255 ∧ f.shadowHits ≤ 255 ∧ f.resets ≤ 255) :
    (f.count c).count0 ≤ 255 ∧ (f.count c).count1 ≤ 255 ∧ (f.count c).count2 ≤ 255 ∧ (f.count c).count3 ≤ 255 ∧ (f.count c).shadowHits ≤ 255 ∧ (f.count c).resets ≤ 255 := by
  unfold Flt.count
  split <;> (dsimp only; omega)

theorem State.latch_keeps {fu : Fuses} {qu : List Instr} (s : State) (d : Detection) (q : BitVec 32 × BitVec 32 × Nat) (cls : Nat) (i m : Bool) (p : BitVec 32)
    (h : Keeps fu qu s) : Keeps fu qu (s.latch d q cls i m p) := by
  have hc := keeps_Flt_count cls h.4.2
  unfold State.latch
  dsimp only
  split
  · exact ⟨h.1, h.2, h.3, h.4.1, hc⟩
  · split
    · exact ⟨h.1, h.2, h.3, h.4.1, hc⟩
    · exact ⟨h.1, h.2, h.3, h.4.1, hc⟩

theorem State.haltStaff_keeps {fu : Fuses} {qu : List Instr} (s : State) (c : Nat) (h : Keeps fu qu s) : Keeps fu qu (s.haltStaff c) := ⟨h.1, h.2, h.3, h.4⟩

theorem State.enterFaultState_keeps {fu : Fuses} {qu : List Instr} (s : State) (c : Nat) (h : Keeps fu qu s) : Keeps fu qu (s.enterFaultState c) :=
  State.stopAxes_keeps _ _ _ _ (State.disarmNow_keeps _ _ ⟨h.1, h.2, h.3, h.4⟩)

theorem State.classEffects_keeps {fu : Fuses} {qu : List Instr} (s : State) (d : Detection) (c : Nat) (h : Keeps fu qu s) : Keeps fu qu (s.classEffects d c) := by
  unfold State.classEffects
  dsimp only
  have h1 : Keeps fu qu ({ s with flt := { s.flt with pulseEnd := some (s.now + 20000) } }.interrupt 8) := State.interrupt_keeps _ _ ⟨h.1, h.2, h.3, h.4⟩
  split
  · exact h
  · split
    · exact h1
    · split
      · exact State.haltStaff_keeps _ _ h1
      · exact State.haltStaff_keeps _ _ (State.enterFaultState_keeps _ _ h1)

theorem State.shadowHit_keeps {fu : Fuses} {qu : List Instr} (s : State) (w : Window) (d : Detection) (i : Bool) (h : Keeps fu qu s) : Keeps fu qu (s.shadowHit w d i) := by
  have h1 : ∀ n, Keeps fu qu (s.note n) := fun n => State.note_keeps s n h
  exact ⟨(h1 _).1, (h1 _).2, (h1 _).3, (h1 _).4.1, (h1 _).4.2.1, (h1 _).4.2.2.1, (h1 _).4.2.2.2.1, (h1 _).4.2.2.2.2.1, Nat.min_le_right _ _, (h1 _).4.2.2.2.2.2.2⟩

theorem State.newFault_keeps {fu : Fuses} {qu : List Instr} (a0) (a1) (a2) (h0 : Keeps fu qu a0) : Keeps fu qu ((@State.newFault a0 a1 a2)) := by
  unfold State.newFault
  try dsimp only
  repeat' first
    | with_reducible assumption
    | with_reducible apply State.faultParams_keeps
    | with_reducible apply State.recordFault_keeps
    | with_reducible apply State.latch_keeps
    | with_reducible apply State.classEffects_keeps
    | (with_reducible apply Keeps.foldl; intro _ _ _)
    | simp only [Keeps.mk_]
    | intro _
    | split

theorem State.detect_keeps {fu : Fuses} {qu : List Instr} (s : State) (d : Detection) (h : Keeps fu qu s) : Keeps fu qu (s.detect d) := by
  have hit : ∀ (s1 : State) (b : Bool), Keeps fu qu s1 → Keeps fu qu (if b then s1.shotFed d.code else s1) := by
    intro s1 b h1
    split
    · exact State.shotFed_keeps _ _ h1
    · exact h1
  unfold State.detect
  dsimp only
  split
  · exact h
  · refine hit _ _ ?_
    split
    · exact State.shadowHit_keeps _ _ _ _ h
    · exact State.newFault_keeps _ _ _ h

theorem State.unlessShadowed_keeps {fu : Fuses} {qu : List Instr} (a0) (a1) (a2) (h0 : Keeps fu qu a0) (h2 : ∀ s, Keeps fu qu s → Keeps fu qu ((a2 s))) : Keeps fu qu ((@State.unlessShadowed a0 a1 a2)) := by
  unfold State.unlessShadowed
  try dsimp only
  repeat' first
    | with_reducible assumption
    | with_reducible apply h2
    | with_reducible apply State.detect_keeps
    | (with_reducible apply Keeps.foldl; intro _ _ _)
    | simp only [Keeps.mk_]
    | intro _
    | split

theorem State.fault_keeps {fu : Fuses} {qu : List Instr} (a0) (a1) (a2) (h0 : Keeps fu qu a0) : Keeps fu qu ((@State.fault a0 a1 a2)) := by
  unfold State.fault
  try dsimp only
  repeat' first
    | with_reducible assumption
    | with_reducible apply State.detect_keeps
    | (with_reducible apply Keeps.foldl; intro _ _ _)
    | simp only [Keeps.mk_]
    | intro _
    | split

theorem State.shotOut_keeps {fu : Fuses} {qu : List Instr} (s : State) (h : Keeps fu qu s) : Keeps fu qu s.shotOut := ⟨h.1, h.2, h.3, h.4⟩

theorem State.feedUpTo_keeps {fu : Fuses} {qu : List Instr} : ∀ (n : Nat) (s : State), Keeps fu qu s → Keeps fu qu (State.feedUpTo n s)
  | 0, _, h => h
  | n + 1, s, h => by
    unfold State.feedUpTo
    split
    · exact h
    · split
      · exact State.feedUpTo_keeps n _ (State.fault_keeps _ _ _ h)
      · exact h

theorem State.feedShots_keeps {fu : Fuses} {qu : List Instr} (a0) (h0 : Keeps fu qu a0) : Keeps fu qu ((@State.feedShots a0)) := by
  unfold State.feedShots
  try dsimp only
  repeat' first
    | with_reducible assumption
    | with_reducible apply State.feedUpTo_keeps
    | (with_reducible apply Keeps.foldl; intro _ _ _)
    | simp only [Keeps.mk_]
    | intro _
    | split

theorem State.live_keeps {fu : Fuses} {qu : List Instr} (s : State) (b : Nat) (o : Bool) (h : Keeps fu qu s) : Keeps fu qu (s.live b o) :=
  ⟨h.1, h.2, h.3, h.4⟩

theorem State.stopFiring_keeps {fu : Fuses} {qu : List Instr} (a0) (a1) (h0 : Keeps fu qu a0) : Keeps fu qu ((@State.stopFiring a0 a1)) := by
  unfold State.stopFiring
  try dsimp only
  repeat' first
    | with_reducible assumption
    | with_reducible apply State.spoilPrinting_keeps
    | (with_reducible apply Keeps.foldl; intro _ _ _)
    | simp only [Keeps.mk_]
    | intro _
    | split

theorem State.sdramRequests_keeps {fu : Fuses} {qu : List Instr} (a0) (a1) (h0 : Keeps fu qu a0) : Keeps fu qu ((@State.sdramRequests a0 a1)) := by
  unfold State.sdramRequests
  try dsimp only
  repeat' first
    | with_reducible assumption
    | (with_reducible apply Keeps.foldl; intro _ _ _)
    | simp only [Keeps.mk_]
    | intro _
    | split

theorem State.pageTraffic_keeps {fu : Fuses} {qu : List Instr} (a0) (a1) (a2) (a3) (a4) (h0 : Keeps fu qu a0) : Keeps fu qu ((@State.pageTraffic a0 a1 a2 a3 a4)) := by
  unfold State.pageTraffic
  try dsimp only
  repeat' first
    | with_reducible assumption
    | with_reducible apply State.sdramRequests_keeps
    | (with_reducible apply Keeps.foldl; intro _ _ _)
    | simp only [Keeps.mk_]
    | intro _
    | split

theorem State.bulkTraffic_keeps {fu : Fuses} {qu : List Instr} (a0) (a1) (h0 : Keeps fu qu a0) : Keeps fu qu ((@State.bulkTraffic a0 a1)) := by
  unfold State.bulkTraffic
  try dsimp only
  repeat' first
    | with_reducible assumption
    | with_reducible apply State.sdramRequests_keeps
    | (with_reducible apply Keeps.foldl; intro _ _ _)
    | simp only [Keeps.mk_]
    | intro _
    | split

theorem State.updElement_keeps {fu : Fuses} {qu : List Instr} (a0) (a1) (a2) (h0 : Keeps fu qu a0) : Keeps fu qu ((@State.updElement a0 a1 a2)) := by
  unfold State.updElement
  try dsimp only
  repeat' first
    | with_reducible assumption
    | (with_reducible apply Keeps.foldl; intro _ _ _)
    | simp only [Keeps.mk_]
    | intro _
    | split

theorem State.fuseDefaults_keeps {fu : Fuses} {qu : List Instr} (a0) (h0 : Keeps fu qu a0) : Keeps fu qu ((@State.fuseDefaults a0)) := by
  unfold State.fuseDefaults
  try dsimp only
  repeat' first
    | with_reducible assumption
    | (with_reducible apply Keeps.foldl; intro _ _ _)
    | simp only [Keeps.mk_]
    | intro _
    | split

theorem State.endPass_keeps {fu : Fuses} {qu : List Instr} (a0) (a1) (h0 : Keeps fu qu a0) : Keeps fu qu ((@State.endPass a0 a1)) := by
  unfold State.endPass
  try dsimp only
  repeat' first
    | with_reducible assumption
    | with_reducible apply State.episodeClose_keeps
    | with_reducible apply State.finish_keeps
    | (with_reducible apply Keeps.foldl; intro _ _ _)
    | simp only [Keeps.mk_]
    | intro _
    | split

theorem State.advancePass_keeps {fu : Fuses} {qu : List Instr} (a0) (h0 : Keeps fu qu a0) : Keeps fu qu ((@State.advancePass a0)) := by
  unfold State.advancePass
  try dsimp only
  repeat' first
    | with_reducible assumption
    | with_reducible apply State.endPass_keeps
    | (with_reducible apply Keeps.foldl; intro _ _ _)
    | simp only [Keeps.mk_]
    | intro _
    | split

theorem State.startPass_keeps {fu : Fuses} {qu : List Instr} (a0) (a1) (a2) (a3) (h0 : Keeps fu qu a0) : Keeps fu qu ((@State.startPass a0 a1 a2 a3)) := by
  unfold State.startPass
  try dsimp only
  repeat' first
    | with_reducible assumption
    | with_reducible apply State.detect_keeps
    | with_reducible apply State.fuseDefaults_keeps
    | with_reducible apply State.endPass_keeps
    | (with_reducible apply Keeps.foldl; intro _ _ _)
    | simp only [Keeps.mk_]
    | intro _
    | split

theorem State.measure_keeps {fu : Fuses} {qu : List Instr} (a0) (a1) (a2) (h0 : Keeps fu qu a0) : Keeps fu qu ((@State.measure a0 a1 a2)) := by
  unfold State.measure
  try dsimp only
  repeat' first
    | with_reducible assumption
    | with_reducible apply State.detect_keeps
    | with_reducible apply State.updElement_keeps
    | (with_reducible apply Keeps.foldl; intro _ _ _)
    | simp only [Keeps.mk_]
    | intro _
    | split

theorem State.switchMoment_keeps {fu : Fuses} {qu : List Instr} (a0) (a1) (h0 : Keeps fu qu a0) : Keeps fu qu ((@State.switchMoment a0 a1)) := by
  unfold State.switchMoment
  try dsimp only
  repeat' first
    | with_reducible assumption
    | with_reducible apply State.updElement_keeps
    | with_reducible apply State.advancePass_keeps
    | (with_reducible apply Keeps.foldl; intro _ _ _)
    | simp only [Keeps.mk_]
    | intro _
    | split

theorem State.switchSerial_keeps {fu : Fuses} {qu : List Instr} (a0) (h0 : Keeps fu qu a0) : Keeps fu qu ((@State.switchSerial a0)) := by
  unfold State.switchSerial
  try dsimp only
  repeat' first
    | with_reducible assumption
    | with_reducible apply State.switchMoment_keeps
    | (with_reducible apply Keeps.foldl; intro _ _ _)
    | simp only [Keeps.mk_]
    | intro _
    | split

theorem State.switchSdram_keeps {fu : Fuses} {qu : List Instr} (a0) (a1) (h0 : Keeps fu qu a0) : Keeps fu qu ((@State.switchSdram a0 a1)) := by
  unfold State.switchSdram
  try dsimp only
  repeat' first
    | with_reducible assumption
    | with_reducible apply State.switchMoment_keeps
    | (with_reducible apply Keeps.foldl; intro _ _ _)
    | simp only [Keeps.mk_]
    | intro _
    | split

theorem State.calDirty_keeps {fu : Fuses} {qu : List Instr} (a0) (h0 : Keeps fu qu a0) : Keeps fu qu ((@State.calDirty a0)) := by
  unfold State.calDirty
  try dsimp only
  repeat' first
    | with_reducible assumption
    | (with_reducible apply Keeps.foldl; intro _ _ _)
    | simp only [Keeps.mk_]
    | intro _
    | split

theorem State.freeFailure_keeps {fu : Fuses} {qu : List Instr} (a0) (h0 : Keeps fu qu a0) : Keeps fu qu ((@State.freeFailure a0).2) := by
  unfold State.freeFailure
  try dsimp only
  repeat' first
    | with_reducible assumption
    | (with_reducible apply Keeps.foldl; intro _ _ _)
    | simp only [Keeps.mk_]
    | intro _
    | split

theorem State.writeCalSet_keeps {fu : Fuses} {qu : List Instr} (a0) (a1) (h0 : Keeps fu qu a0) : Keeps fu qu ((@State.writeCalSet a0 a1)) := by
  unfold State.writeCalSet
  try dsimp only
  repeat' first
    | with_reducible assumption
    | (with_reducible apply Keeps.foldl; intro _ _ _)
    | simp only [Keeps.mk_]
    | intro _
    | split

theorem State.clearCalMark_keeps {fu : Fuses} {qu : List Instr} (a0) (h0 : Keeps fu qu a0) : Keeps fu qu ((@State.clearCalMark a0)) := by
  unfold State.clearCalMark
  try dsimp only
  repeat' first
    | with_reducible assumption
    | (with_reducible apply Keeps.foldl; intro _ _ _)
    | simp only [Keeps.mk_]
    | intro _
    | split

theorem State.updPort_keeps {fu : Fuses} {qu : List Instr} (a0) (a1) (a2) (h0 : Keeps fu qu a0) : Keeps fu qu ((@State.updPort a0 a1 a2)) := by
  unfold State.updPort
  try dsimp only
  repeat' first
    | with_reducible assumption
    | (with_reducible apply Keeps.foldl; intro _ _ _)
    | simp only [Keeps.mk_]
    | intro _
    | split

theorem State.drive_keeps {fu : Fuses} {qu : List Instr} (a0) (a1) (h0 : Keeps fu qu a0) : Keeps fu qu ((@State.drive a0 a1)) := by
  unfold State.drive
  try dsimp only
  repeat' first
    | with_reducible assumption
    | with_reducible apply State.emit_keeps
    | (with_reducible apply Keeps.foldl; intro _ _ _)
    | simp only [Keeps.mk_]
    | intro _
    | split

theorem State.sendHead_keeps {fu : Fuses} {qu : List Instr} (a0) (a1) (a2) (a3) (h0 : Keeps fu qu a0) : Keeps fu qu ((@State.sendHead a0 a1 a2 a3)) := by
  unfold State.sendHead
  try dsimp only
  repeat' first
    | with_reducible assumption
    | with_reducible apply State.drive_keeps
    | (with_reducible apply Keeps.foldl; intro _ _ _)
    | simp only [Keeps.mk_]
    | intro _
    | split

theorem State.sendSync_keeps {fu : Fuses} {qu : List Instr} (a0) (a1) (h0 : Keeps fu qu a0) : Keeps fu qu ((@State.sendSync a0 a1)) := by
  unfold State.sendSync
  try dsimp only
  repeat' first
    | with_reducible assumption
    | with_reducible apply State.updPort_keeps
    | with_reducible apply State.sendHead_keeps
    | (with_reducible apply Keeps.foldl; intro _ _ _)
    | simp only [Keeps.mk_]
    | intro _
    | split

theorem State.sendLimits_keeps {fu : Fuses} {qu : List Instr} (a0) (a1) (h0 : Keeps fu qu a0) : Keeps fu qu ((@State.sendLimits a0 a1)) := by
  unfold State.sendLimits
  try dsimp only
  repeat' first
    | with_reducible assumption
    | with_reducible apply State.sendHead_keeps
    | (with_reducible apply Keeps.foldl; intro _ _ _)
    | simp only [Keeps.mk_]
    | intro _
    | split

theorem State.hbErr_keeps {fu : Fuses} {qu : List Instr} (a0) (a1) (h0 : Keeps fu qu a0) : Keeps fu qu ((@State.hbErr a0 a1)) := by
  unfold State.hbErr
  try dsimp only
  repeat' first
    | with_reducible assumption
    | with_reducible apply State.emit_keeps
    | (with_reducible apply Keeps.foldl; intro _ _ _)
    | simp only [Keeps.mk_]
    | intro _
    | split

theorem State.spoilLosses_keeps {fu : Fuses} {qu : List Instr} (a0) (a1) (a2) (h0 : Keeps fu qu a0) : Keeps fu qu ((@State.spoilLosses a0 a1 a2)) := by
  unfold State.spoilLosses
  try dsimp only
  repeat' first
    | with_reducible assumption
    | with_reducible apply State.spoil_keeps
    | (with_reducible apply Keeps.foldl; intro _ _ _)
    | simp only [Keeps.mk_]
    | intro _
    | split

theorem State.dropHead_keeps {fu : Fuses} {qu : List Instr} (a0) (a1) (a2) (h0 : Keeps fu qu a0) : Keeps fu qu ((@State.dropHead a0 a1 a2)) := by
  unfold State.dropHead
  try dsimp only
  repeat' first
    | with_reducible assumption
    | (with_reducible apply Keeps.foldl; intro _ _ _)
    | simp only [Keeps.mk_]
    | intro _
    | split

theorem State.failPortCommands_keeps {fu : Fuses} {qu : List Instr} (a0) (a1) (a2) (h0 : Keeps fu qu a0) : Keeps fu qu ((@State.failPortCommands a0 a1 a2)) := by
  unfold State.failPortCommands
  try dsimp only
  repeat' first
    | with_reducible assumption
    | with_reducible apply State.finish_keeps
    | (with_reducible apply Keeps.foldl; intro _ _ _)
    | simp only [Keeps.mk_]
    | intro _
    | split

theorem State.endTest_keeps {fu : Fuses} {qu : List Instr} (a0) (a1) (h0 : Keeps fu qu a0) : Keeps fu qu ((@State.endTest a0 a1)) := by
  unfold State.endTest
  try dsimp only
  repeat' first
    | with_reducible assumption
    | with_reducible apply State.emit_keeps
    | with_reducible apply State.mapEntry_keeps
    | with_reducible apply State.finish_keeps
    | with_reducible apply State.updPort_keeps
    | (with_reducible apply Keeps.foldl; intro _ _ _)
    | simp only [Keeps.mk_]
    | intro _
    | split

theorem State.endTests_keeps {fu : Fuses} {qu : List Instr} (a0) (h0 : Keeps fu qu a0) : Keeps fu qu ((@State.endTests a0)) := by
  unfold State.endTests
  try dsimp only
  repeat' first
    | with_reducible assumption
    | with_reducible apply State.endTest_keeps
    | (with_reducible apply Keeps.foldl; intro _ _ _)
    | simp only [Keeps.mk_]
    | intro _
    | split

theorem State.fencePortAs_keeps {fu : Fuses} {qu : List Instr} (a0) (a1) (a2) (a3) (h0 : Keeps fu qu a0) : Keeps fu qu ((@State.fencePortAs a0 a1 a2 a3)) := by
  unfold State.fencePortAs
  try dsimp only
  repeat' first
    | with_reducible assumption
    | with_reducible apply State.detect_keeps
    | with_reducible apply State.unlessShadowed_keeps
    | with_reducible apply State.updPort_keeps
    | with_reducible apply State.hbErr_keeps
    | with_reducible apply State.spoilLosses_keeps
    | with_reducible apply State.dropHead_keeps
    | with_reducible apply State.failPortCommands_keeps
    | (with_reducible apply Keeps.foldl; intro _ _ _)
    | simp only [Keeps.mk_]
    | intro _
    | split

theorem State.fencePort_keeps {fu : Fuses} {qu : List Instr} (a0) (a1) (a2) (a3) (a4) (h0 : Keeps fu qu a0) : Keeps fu qu ((@State.fencePort a0 a1 a2 a3 a4)) := by
  unfold State.fencePort
  try dsimp only
  repeat' first
    | with_reducible assumption
    | with_reducible apply State.fencePortAs_keeps
    | (with_reducible apply Keeps.foldl; intro _ _ _)
    | simp only [Keeps.mk_]
    | intro _
    | split

theorem State.releaseThermal_keeps {fu : Fuses} {qu : List Instr} (a0) (a1) (h0 : Keeps fu qu a0) : Keeps fu qu ((@State.releaseThermal a0 a1)) := by
  unfold State.releaseThermal
  try dsimp only
  repeat' first
    | with_reducible assumption
    | (with_reducible apply Keeps.foldl; intro _ _ _)
    | simp only [Keeps.mk_]
    | intro _
    | split

theorem State.retirePort_keeps {fu : Fuses} {qu : List Instr} (a0) (a1) (h0 : Keeps fu qu a0) : Keeps fu qu ((@State.retirePort a0 a1)) := by
  unfold State.retirePort
  try dsimp only
  repeat' first
    | with_reducible assumption
    | with_reducible apply State.updPort_keeps
    | with_reducible apply State.failPortCommands_keeps
    | (with_reducible apply Keeps.foldl; intro _ _ _)
    | simp only [Keeps.mk_]
    | intro _
    | split

theorem State.settleRetire_keeps {fu : Fuses} {qu : List Instr} (a0) (h0 : Keeps fu qu a0) : Keeps fu qu ((@State.settleRetire a0)) := by
  unfold State.settleRetire
  try dsimp only
  repeat' first
    | with_reducible assumption
    | with_reducible apply State.dropHead_keeps
    | with_reducible apply State.releaseThermal_keeps
    | with_reducible apply State.retirePort_keeps
    | (with_reducible apply Keeps.foldl; intro _ _ _)
    | simp only [Keeps.mk_]
    | intro _
    | split

theorem State.sendData_keeps {fu : Fuses} {qu : List Instr} (a0) (a1) (a2) (h0 : Keeps fu qu a0) : Keeps fu qu ((@State.sendData a0 a1 a2)) := by
  unfold State.sendData
  try dsimp only
  repeat' first
    | with_reducible assumption
    | with_reducible apply State.drive_keeps
    | (with_reducible apply Keeps.foldl; intro _ _ _)
    | simp only [Keeps.mk_]
    | intro _
    | split

theorem State.loadWave_keeps {fu : Fuses} {qu : List Instr} (a0) (a1) (a2) (a3) (a4) (h0 : Keeps fu qu a0) : Keeps fu qu ((@State.loadWave a0 a1 a2 a3 a4)) := by
  unfold State.loadWave
  try dsimp only
  repeat' first
    | with_reducible assumption
    | with_reducible apply State.updPort_keeps
    | with_reducible apply State.sendHead_keeps
    | with_reducible apply State.sendData_keeps
    | (with_reducible apply Keeps.foldl; intro _ _ _)
    | simp only [Keeps.mk_]
    | intro _
    | split

theorem State.setNozzle_keeps {fu : Fuses} {qu : List Instr} (a0) (a1) (a2) (h0 : Keeps fu qu a0) : Keeps fu qu ((@State.setNozzle a0 a1 a2)) := by
  unfold State.setNozzle
  try dsimp only
  repeat' first
    | with_reducible assumption
    | (with_reducible apply Keeps.foldl; intro _ _ _)
    | simp only [Keeps.mk_]
    | intro _
    | split

theorem State.setOut_keeps {fu : Fuses} {qu : List Instr} (a0) (a1) (a2) (h0 : Keeps fu qu a0) : Keeps fu qu ((@State.setOut a0 a1 a2)) := by
  unfold State.setOut
  try dsimp only
  repeat' first
    | with_reducible assumption
    | with_reducible apply State.setNozzle_keeps
    | (with_reducible apply Keeps.foldl; intro _ _ _)
    | simp only [Keeps.mk_]
    | intro _
    | split

theorem State.endProbe_keeps {fu : Fuses} {qu : List Instr} (a0) (a1) (h0 : Keeps fu qu a0) : Keeps fu qu ((@State.endProbe a0 a1)) := by
  unfold State.endProbe
  try dsimp only
  repeat' first
    | with_reducible assumption
    | with_reducible apply State.setOut_keeps
    | (with_reducible apply Keeps.foldl; intro _ _ _)
    | simp only [Keeps.mk_]
    | intro _
    | split

theorem State.restoreColumns_keeps {fu : Fuses} {qu : List Instr} (a0) (a1) (h0 : Keeps fu qu a0) : Keeps fu qu ((@State.restoreColumns a0 a1)) := by
  unfold State.restoreColumns
  try dsimp only
  repeat' first
    | with_reducible assumption
    | (with_reducible apply Keeps.foldl; intro _ _ _)
    | simp only [Keeps.mk_]
    | intro _
    | split

theorem State.endHeadProbes_keeps {fu : Fuses} {qu : List Instr} (a0) (a1) (h0 : Keeps fu qu a0) : Keeps fu qu ((@State.endHeadProbes a0 a1)) := by
  unfold State.endHeadProbes
  try dsimp only
  repeat' first
    | with_reducible assumption
    | with_reducible apply State.endProbe_keeps
    | (with_reducible apply Keeps.foldl; intro _ _ _)
    | simp only [Keeps.mk_]
    | intro _
    | split

theorem State.restoreHead_keeps {fu : Fuses} {qu : List Instr} (a0) (a1) (a2) (h0 : Keeps fu qu a0) : Keeps fu qu ((@State.restoreHead a0 a1 a2)) := by
  unfold State.restoreHead
  try dsimp only
  repeat' first
    | with_reducible assumption
    | with_reducible apply State.updPort_keeps
    | with_reducible apply State.restoreColumns_keeps
    | with_reducible apply State.endHeadProbes_keeps
    | (with_reducible apply Keeps.foldl; intro _ _ _)
    | simp only [Keeps.mk_]
    | intro _
    | split

theorem State.enterDirectory_keeps {fu : Fuses} {qu : List Instr} (a0) (a1) (h0 : Keeps fu qu a0) : Keeps fu qu ((@State.enterDirectory a0 a1)) := by
  unfold State.enterDirectory
  try dsimp only
  repeat' first
    | with_reducible assumption
    | with_reducible apply State.calDirty_keeps
    | (with_reducible apply Keeps.foldl; intro _ _ _)
    | simp only [Keeps.mk_]
    | intro _
    | split

theorem State.headDirty_keeps {fu : Fuses} {qu : List Instr} (a0) (a1) (a2) (h0 : Keeps fu qu a0) : Keeps fu qu ((@State.headDirty a0 a1 a2)) := by
  unfold State.headDirty
  try dsimp only
  repeat' first
    | with_reducible assumption
    | (with_reducible apply Keeps.foldl; intro _ _ _)
    | simp only [Keeps.mk_]
    | intro _
    | split

theorem State.checkCalMark_keeps {fu : Fuses} {qu : List Instr} (a0) (h0 : Keeps fu qu a0) : Keeps fu qu ((@State.checkCalMark a0)) := by
  unfold State.checkCalMark
  try dsimp only
  repeat' first
    | with_reducible assumption
    | with_reducible apply State.clearCalMark_keeps
    | (with_reducible apply Keeps.foldl; intro _ _ _)
    | simp only [Keeps.mk_]
    | intro _
    | split

theorem State.sendTraining_keeps {fu : Fuses} {qu : List Instr} (a0) (a1) (h0 : Keeps fu qu a0) : Keeps fu qu ((@State.sendTraining a0 a1)) := by
  unfold State.sendTraining
  try dsimp only
  repeat' first
    | with_reducible assumption
    | with_reducible apply State.sendHead_keeps
    | (with_reducible apply Keeps.foldl; intro _ _ _)
    | simp only [Keeps.mk_]
    | intro _
    | split

theorem State.startBringup_keeps {fu : Fuses} {qu : List Instr} (a0) (a1) (a2) (a3) (h0 : Keeps fu qu a0) : Keeps fu qu ((@State.startBringup a0 a1 a2 a3)) := by
  unfold State.startBringup
  try dsimp only
  repeat' first
    | with_reducible assumption
    | with_reducible apply State.updPort_keeps
    | with_reducible apply State.sendTraining_keeps
    | (with_reducible apply Keeps.foldl; intro _ _ _)
    | simp only [Keeps.mk_]
    | intro _
    | split

theorem State.startHeadResets_keeps {fu : Fuses} {qu : List Instr} (a0) (h0 : Keeps fu qu a0) : Keeps fu qu ((@State.startHeadResets a0)) := by
  unfold State.startHeadResets
  try dsimp only
  repeat' first
    | with_reducible assumption
    | with_reducible apply State.openWindow_keeps
    | with_reducible apply State.dropInjections_keeps
    | with_reducible apply State.updPort_keeps
    | with_reducible apply State.startBringup_keeps
    | (with_reducible apply Keeps.foldl; intro _ _ _)
    | simp only [Keeps.mk_]
    | intro _
    | split

theorem State.bringupFailed_keeps {fu : Fuses} {qu : List Instr} (a0) (a1) (h0 : Keeps fu qu a0) : Keeps fu qu ((@State.bringupFailed a0 a1)) := by
  unfold State.bringupFailed
  try dsimp only
  repeat' first
    | with_reducible assumption
    | with_reducible apply State.finish_keeps
    | with_reducible apply State.updPort_keeps
    | (with_reducible apply Keeps.foldl; intro _ _ _)
    | simp only [Keeps.mk_]
    | intro _
    | split

theorem State.bringupOk_keeps {fu : Fuses} {qu : List Instr} (a0) (a1) (h0 : Keeps fu qu a0) : Keeps fu qu ((@State.bringupOk a0 a1)) := by
  unfold State.bringupOk
  try dsimp only
  repeat' first
    | with_reducible assumption
    | with_reducible apply State.finish_keeps
    | with_reducible apply State.updPort_keeps
    | (with_reducible apply Keeps.foldl; intro _ _ _)
    | simp only [Keeps.mk_]
    | intro _
    | split

theorem State.serve_keeps {fu : Fuses} {qu : List Instr} (a0) (a1) (h0 : Keeps fu qu a0) : Keeps fu qu ((@State.serve a0 a1)) := by
  unfold State.serve
  try dsimp only
  repeat' first
    | with_reducible assumption
    | with_reducible apply State.updPort_keeps
    | with_reducible apply State.releaseThermal_keeps
    | with_reducible apply State.bringupOk_keeps
    | (with_reducible apply Keeps.foldl; intro _ _ _)
    | simp only [Keeps.mk_]
    | intro _
    | split

theorem State.enterService_keeps {fu : Fuses} {qu : List Instr} (a0) (a1) (h0 : Keeps fu qu a0) : Keeps fu qu ((@State.enterService a0 a1)) := by
  unfold State.enterService
  try dsimp only
  repeat' first
    | with_reducible assumption
    | with_reducible apply State.updPort_keeps
    | with_reducible apply State.serve_keeps
    | (with_reducible apply Keeps.foldl; intro _ _ _)
    | simp only [Keeps.mk_]
    | intro _
    | split

theorem State.joinShadow_keeps {fu : Fuses} {qu : List Instr} (a0) (a1) (a2) (h0 : Keeps fu qu a0) : Keeps fu qu ((@State.joinShadow a0 a1 a2)) := by
  unfold State.joinShadow
  try dsimp only
  repeat' first
    | with_reducible assumption
    | with_reducible apply State.updPort_keeps
    | with_reducible apply State.serve_keeps
    | (with_reducible apply Keeps.foldl; intro _ _ _)
    | simp only [Keeps.mk_]
    | intro _
    | split

theorem State.applyHeadRows_keeps {fu : Fuses} {qu : List Instr} (a0) (a1) (h0 : Keeps fu qu a0) : Keeps fu qu ((@State.applyHeadRows a0 a1)) := by
  unfold State.applyHeadRows
  try dsimp only
  repeat' first
    | with_reducible assumption
    | (with_reducible apply Keeps.foldl; intro _ _ _)
    | simp only [Keeps.mk_]
    | intro _
    | split

theorem State.stepSeven_keeps {fu : Fuses} {qu : List Instr} (a0) (a1) (h0 : Keeps fu qu a0) : Keeps fu qu ((@State.stepSeven a0 a1)) := by
  unfold State.stepSeven
  try dsimp only
  repeat' first
    | with_reducible assumption
    | with_reducible apply State.finish_keeps
    | with_reducible apply State.updPort_keeps
    | with_reducible apply State.sendLimits_keeps
    | with_reducible apply State.loadWave_keeps
    | with_reducible apply State.applyHeadRows_keeps
    | (with_reducible apply Keeps.foldl; intro _ _ _)
    | simp only [Keeps.mk_]
    | intro _
    | split

theorem State.retryWaiting_keeps {fu : Fuses} {qu : List Instr} (a0) (h0 : Keeps fu qu a0) : Keeps fu qu ((@State.retryWaiting a0)) := by
  unfold State.retryWaiting
  try dsimp only
  repeat' first
    | with_reducible assumption
    | with_reducible apply State.stepSeven_keeps
    | (with_reducible apply Keeps.foldl; intro _ _ _)
    | simp only [Keeps.mk_]
    | intro _
    | split

theorem State.takeRecord_keeps {fu : Fuses} {qu : List Instr} (a0) (a1) (a2) (a3) (h0 : Keeps fu qu a0) : Keeps fu qu ((@State.takeRecord a0 a1 a2 a3)) := by
  unfold State.takeRecord
  try dsimp only
  repeat' first
    | with_reducible assumption
    | with_reducible apply State.updPort_keeps
    | with_reducible apply State.restoreHead_keeps
    | with_reducible apply State.enterDirectory_keeps
    | with_reducible apply State.headDirty_keeps
    | with_reducible apply State.checkCalMark_keeps
    | (with_reducible apply Keeps.foldl; intro _ _ _)
    | simp only [Keeps.mk_]
    | intro _
    | split

theorem State.withoutRecord_keeps {fu : Fuses} {qu : List Instr} (a0) (a1) (h0 : Keeps fu qu a0) : Keeps fu qu ((@State.withoutRecord a0 a1)) := by
  unfold State.withoutRecord
  try dsimp only
  repeat' first
    | with_reducible assumption
    | with_reducible apply State.updPort_keeps
    | (with_reducible apply Keeps.foldl; intro _ _ _)
    | simp only [Keeps.mk_]
    | intro _
    | split

theorem State.readTwoWire_keeps {fu : Fuses} {qu : List Instr} (a0) (a1) (h0 : Keeps fu qu a0) : Keeps fu qu ((@State.readTwoWire a0 a1)) := by
  unfold State.readTwoWire
  try dsimp only
  repeat' first
    | with_reducible assumption
    | with_reducible apply State.updPort_keeps
    | with_reducible apply State.drive_keeps
    | (with_reducible apply Keeps.foldl; intro _ _ _)
    | simp only [Keeps.mk_]
    | intro _
    | split

theorem State.acceptEdge_keeps {fu : Fuses} {qu : List Instr} (a0) (a1) (a2) (a3) (h0 : Keeps fu qu a0) : Keeps fu qu ((@State.acceptEdge a0 a1 a2 a3)) := by
  unfold State.acceptEdge
  try dsimp only
  repeat' first
    | with_reducible assumption
    | with_reducible apply State.interrupt_keeps
    | with_reducible apply State.updChan_keeps
    | (with_reducible apply Keeps.foldl; intro _ _ _)
    | simp only [Keeps.mk_]
    | intro _
    | split

theorem State.checkOverspeed_keeps {fu : Fuses} {qu : List Instr} (a0) (h0 : Keeps fu qu a0) : Keeps fu qu ((@State.checkOverspeed a0)) := by
  unfold State.checkOverspeed
  try dsimp only
  repeat' first
    | with_reducible assumption
    | with_reducible apply State.fault_keeps
    | with_reducible apply State.hbErr_keeps
    | (with_reducible apply Keeps.foldl; intro _ _ _)
    | simp only [Keeps.mk_]
    | intro _
    | split

theorem State.checkHeadRate_keeps {fu : Fuses} {qu : List Instr} (a0) (h0 : Keeps fu qu a0) : Keeps fu qu ((@State.checkHeadRate a0)) := by
  unfold State.checkHeadRate
  try dsimp only
  repeat' first
    | with_reducible assumption
    | with_reducible apply State.detect_keeps
    | with_reducible apply State.updPort_keeps
    | with_reducible apply State.hbErr_keeps
    | (with_reducible apply Keeps.foldl; intro _ _ _)
    | simp only [Keeps.mk_]
    | intro _
    | split

theorem State.commitUnits_keeps {fu : Fuses} {qu : List Instr} (a0) (h0 : Keeps fu qu a0) : Keeps fu qu ((@State.commitUnits a0)) := by
  unfold State.commitUnits
  try dsimp only
  repeat' first
    | with_reducible assumption
    | (with_reducible apply Keeps.foldl; intro _ _ _)
    | simp only [Keeps.mk_]
    | intro _
    | split

theorem State.forgetUnits_keeps {fu : Fuses} {qu : List Instr} (a0) (h0 : Keeps fu qu a0) : Keeps fu qu ((@State.forgetUnits a0)) := by
  unfold State.forgetUnits
  try dsimp only
  repeat' first
    | with_reducible assumption
    | (with_reducible apply Keeps.foldl; intro _ _ _)
    | simp only [Keeps.mk_]
    | intro _
    | split

theorem State.predictAll_keeps {fu : Fuses} {qu : List Instr} (a0) (h0 : Keeps fu qu a0) : Keeps fu qu ((@State.predictAll a0)) := by
  unfold State.predictAll
  try dsimp only
  repeat' first
    | with_reducible assumption
    | (with_reducible apply Keeps.foldl; intro _ _ _)
    | simp only [Keeps.mk_]
    | intro _
    | split

theorem State.placeAtArm_keeps {fu : Fuses} {qu : List Instr} (a0) (h0 : Keeps fu qu a0) : Keeps fu qu ((@State.placeAtArm a0)) := by
  unfold State.placeAtArm
  try dsimp only
  repeat' first
    | with_reducible assumption
    | with_reducible apply State.spoil_keeps
    | with_reducible apply State.notThere_keeps
    | with_reducible apply State.lateStart_keeps
    | with_reducible apply State.notePlace_keeps
    | with_reducible apply State.placeFollow_keeps
    | with_reducible apply State.placeCompare_keeps
    | with_reducible apply State.placeReprint_keeps
    | (with_reducible apply Keeps.foldl; intro _ _ _)
    | simp only [Keeps.mk_]
    | intro _
    | split

theorem State.arm_keeps {fu : Fuses} {qu : List Instr} (a0) (h0 : Keeps fu qu a0) : Keeps fu qu ((@State.arm a0)) := by
  unfold State.arm
  try dsimp only
  repeat' first
    | with_reducible assumption
    | with_reducible apply State.syncPlaceLocal_keeps
    | with_reducible apply State.placeAtArm_keeps
    | (with_reducible apply Keeps.foldl; intro _ _ _)
    | simp only [Keeps.mk_]
    | intro _
    | split

theorem State.armByFirmware_keeps {fu : Fuses} {qu : List Instr} (a0) (h0 : Keeps fu qu a0) : Keeps fu qu ((@State.armByFirmware a0)) := by
  unfold State.armByFirmware
  try dsimp only
  repeat' first
    | with_reducible assumption
    | with_reducible apply State.arm_keeps
    | (with_reducible apply Keeps.foldl; intro _ _ _)
    | simp only [Keeps.mk_]
    | intro _
    | split

theorem State.restartReference_keeps {fu : Fuses} {qu : List Instr} (a0) (h0 : Keeps fu qu a0) : Keeps fu qu ((@State.restartReference a0)) := by
  unfold State.restartReference
  try dsimp only
  repeat' first
    | with_reducible assumption
    | (with_reducible apply Keeps.foldl; intro _ _ _)
    | simp only [Keeps.mk_]
    | intro _
    | split

theorem State.applyEncoder_keeps {fu : Fuses} {qu : List Instr} (a0) (a1) (a2) (h0 : Keeps fu qu a0) : Keeps fu qu ((@State.applyEncoder a0 a1 a2)) := by
  unfold State.applyEncoder
  try dsimp only
  repeat' first
    | with_reducible assumption
    | with_reducible apply State.updChan_keeps
    | with_reducible apply State.advance_keeps
    | with_reducible apply State.updAxis_keeps
    | with_reducible apply State.commitUnits_keeps
    | with_reducible apply State.forgetUnits_keeps
    | with_reducible apply State.restartReference_keeps
    | (with_reducible apply Keeps.foldl; intro _ _ _)
    | simp only [Keeps.mk_]
    | intro _
    | split

theorem State.recomputeDelays_keeps {fu : Fuses} {qu : List Instr} (a0) (h0 : Keeps fu qu a0) : Keeps fu qu ((@State.recomputeDelays a0)) := by
  unfold State.recomputeDelays
  try dsimp only
  repeat' first
    | with_reducible assumption
    | (with_reducible apply Keeps.foldl; intro _ _ _)
    | simp only [Keeps.mk_]
    | intro _
    | split

theorem State.rosterChanged_keeps {fu : Fuses} {qu : List Instr} (a0) (h0 : Keeps fu qu a0) : Keeps fu qu ((@State.rosterChanged a0)) := by
  unfold State.rosterChanged
  try dsimp only
  repeat' first
    | with_reducible assumption
    | with_reducible apply State.calDirty_keeps
    | (with_reducible apply Keeps.foldl; intro _ _ _)
    | simp only [Keeps.mk_]
    | intro _
    | split

theorem State.ownEntry_keeps {fu : Fuses} {qu : List Instr} (a0) (a1) (h0 : Keeps fu qu a0) : Keeps fu qu ((@State.ownEntry a0 a1)) := by
  unfold State.ownEntry
  try dsimp only
  repeat' first
    | with_reducible assumption
    | with_reducible apply State.rosterChanged_keeps
    | (with_reducible apply Keeps.foldl; intro _ _ _)
    | simp only [Keeps.mk_]
    | intro _
    | split

theorem State.takePitch_keeps {fu : Fuses} {qu : List Instr} (a0) (a1) (h0 : Keeps fu qu a0) : Keeps fu qu ((@State.takePitch a0 a1)) := by
  unfold State.takePitch
  try dsimp only
  repeat' first
    | with_reducible assumption
    | with_reducible apply State.updChan_keeps
    | with_reducible apply State.advance_keeps
    | with_reducible apply State.transact_keeps
    | with_reducible apply State.commitUnits_keeps
    | with_reducible apply State.ownEntry_keeps
    | (with_reducible apply Keeps.foldl; intro _ _ _)
    | simp only [Keeps.mk_]
    | intro _
    | split

theorem State.pitchDelays_keeps {fu : Fuses} {qu : List Instr} (a0) (a1) (h0 : Keeps fu qu a0) : Keeps fu qu ((@State.pitchDelays a0 a1)) := by
  unfold State.pitchDelays
  try dsimp only
  repeat' first
    | with_reducible assumption
    | with_reducible apply State.recomputeDelays_keeps
    | (with_reducible apply Keeps.foldl; intro _ _ _)
    | simp only [Keeps.mk_]
    | intro _
    | split

theorem State.applyPitch_keeps {fu : Fuses} {qu : List Instr} (a0) (a1) (h0 : Keeps fu qu a0) : Keeps fu qu ((@State.applyPitch a0 a1)) := by
  unfold State.applyPitch
  try dsimp only
  repeat' first
    | with_reducible assumption
    | with_reducible apply State.forgetUnits_keeps
    | with_reducible apply State.restartReference_keeps
    | with_reducible apply State.takePitch_keeps
    | with_reducible apply State.pitchDelays_keeps
    | (with_reducible apply Keeps.foldl; intro _ _ _)
    | simp only [Keeps.mk_]
    | intro _
    | split

theorem State.hbApplyEncoder_keeps {fu : Fuses} {qu : List Instr} (a0) (h0 : Keeps fu qu a0) : Keeps fu qu ((@State.hbApplyEncoder a0)) := by
  unfold State.hbApplyEncoder
  try dsimp only
  repeat' first
    | with_reducible assumption
    | with_reducible apply State.hbErr_keeps
    | with_reducible apply State.applyEncoder_keeps
    | (with_reducible apply Keeps.foldl; intro _ _ _)
    | simp only [Keeps.mk_]
    | intro _
    | split

theorem State.hbSetup_keeps {fu : Fuses} {qu : List Instr} (a0) (h0 : Keeps fu qu a0) : Keeps fu qu ((@State.hbSetup a0)) := by
  unfold State.hbSetup
  try dsimp only
  repeat' first
    | with_reducible assumption
    | with_reducible apply State.updChan_keeps
    | with_reducible apply State.hbErr_keeps
    | with_reducible apply State.forgetUnits_keeps
    | with_reducible apply State.takePitch_keeps
    | with_reducible apply State.pitchDelays_keeps
    | (with_reducible apply Keeps.foldl; intro _ _ _)
    | simp only [Keeps.mk_]
    | intro _
    | split

theorem State.hbTakeHeld_keeps {fu : Fuses} {qu : List Instr} (a0) (h0 : Keeps fu qu a0) : Keeps fu qu ((@State.hbTakeHeld a0)) := by
  unfold State.hbTakeHeld
  try dsimp only
  repeat' first
    | with_reducible assumption
    | with_reducible apply State.applyPitch_keeps
    | with_reducible apply State.hbApplyEncoder_keeps
    | (with_reducible apply Keeps.foldl; intro _ _ _)
    | simp only [Keeps.mk_]
    | intro _
    | split

theorem State.assignLanes_keeps {fu : Fuses} {qu : List Instr} (a0) (h0 : Keeps fu qu a0) : Keeps fu qu ((@State.assignLanes a0)) := by
  unfold State.assignLanes
  try dsimp only
  repeat' first
    | with_reducible assumption
    | (with_reducible apply Keeps.foldl; intro _ _ _)
    | simp only [Keeps.mk_]
    | intro _
    | split

theorem State.hbDiscard_keeps {fu : Fuses} {qu : List Instr} (a0) (h0 : Keeps fu qu a0) : Keeps fu qu ((@State.hbDiscard a0)) := by
  unfold State.hbDiscard
  try dsimp only
  repeat' first
    | with_reducible assumption
    | (with_reducible apply Keeps.foldl; intro _ _ _)
    | simp only [Keeps.mk_]
    | intro _
    | split

theorem State.hbDisable_keeps {fu : Fuses} {qu : List Instr} (a0) (h0 : Keeps fu qu a0) : Keeps fu qu ((@State.hbDisable a0)) := by
  unfold State.hbDisable
  try dsimp only
  repeat' first
    | with_reducible assumption
    | with_reducible apply State.disarmNow_keeps
    | with_reducible apply State.hbTakeHeld_keeps
    | with_reducible apply State.hbDiscard_keeps
    | (with_reducible apply Keeps.foldl; intro _ _ _)
    | simp only [Keeps.mk_]
    | intro _
    | split

theorem State.hbReset_keeps {fu : Fuses} {qu : List Instr} (a0) (h0 : Keeps fu qu a0) : Keeps fu qu ((@State.hbReset a0)) := by
  unfold State.hbReset
  try dsimp only
  repeat' first
    | with_reducible assumption
    | with_reducible apply State.disarmNow_keeps
    | with_reducible apply State.applyPitch_keeps
    | with_reducible apply State.hbApplyEncoder_keeps
    | with_reducible apply State.hbDiscard_keeps
    | (with_reducible apply Keeps.foldl; intro _ _ _)
    | simp only [Keeps.mk_]
    | intro _
    | split

theorem State.closeDebug_keeps {fu : Fuses} {qu : List Instr} (a0) (h0 : Keeps fu qu a0) : Keeps fu qu ((@State.closeDebug a0)) := by
  unfold State.closeDebug
  try dsimp only
  repeat' first
    | with_reducible assumption
    | with_reducible apply State.info_keeps
    | (with_reducible apply Keeps.foldl; intro _ _ _)
    | simp only [Keeps.mk_]
    | intro _
    | split

theorem State.resetMailboxes_keeps {fu : Fuses} {qu : List Instr} (a0) (a1) (h0 : Keeps fu qu a0) : Keeps fu qu ((@State.resetMailboxes a0 a1)) := by
  unfold State.resetMailboxes
  try dsimp only
  repeat' first
    | with_reducible assumption
    | (with_reducible apply Keeps.foldl; intro _ _ _)
    | simp only [Keeps.mk_]
    | intro _
    | split

theorem State.cancelDma_keeps {fu : Fuses} {qu : List Instr} (a0) (a1) (a2) (h0 : Keeps fu qu a0) : Keeps fu qu ((@State.cancelDma a0 a1 a2)) := by
  unfold State.cancelDma
  try dsimp only
  repeat' first
    | with_reducible assumption
    | with_reducible apply State.finish_keeps
    | with_reducible apply State.releaseAs_keeps
    | (with_reducible apply Keeps.foldl; intro _ _ _)
    | simp only [Keeps.mk_]
    | intro _
    | split

theorem State.hostInterfaceReset_keeps {fu : Fuses} {qu : List Instr} (a0) (a1) (h0 : Keeps fu qu a0) : Keeps fu qu ((@State.hostInterfaceReset a0 a1)) := by
  unfold State.hostInterfaceReset
  try dsimp only
  repeat' first
    | with_reducible assumption
    | with_reducible apply State.info_keeps
    | with_reducible apply State.dropInjections_keeps
    | with_reducible apply State.hbReset_keeps
    | with_reducible apply State.closeDebug_keeps
    | with_reducible apply State.resetMailboxes_keeps
    | with_reducible apply State.cancelDma_keeps
    | (with_reducible apply Keeps.foldl; intro _ _ _)
    | simp only [Keeps.mk_]
    | intro _
    | split

theorem State.releaseHolds_keeps {fu : Fuses} {qu : List Instr} (a0) (h0 : Keeps fu qu a0) : Keeps fu qu ((@State.releaseHolds a0)) := by
  unfold State.releaseHolds
  try dsimp only
  repeat' first
    | with_reducible assumption
    | (with_reducible apply Keeps.foldl; intro _ _ _)
    | simp only [Keeps.mk_]
    | intro _
    | split

theorem State.dropPrinting_keeps {fu : Fuses} {qu : List Instr} (a0) (h0 : Keeps fu qu a0) : Keeps fu qu ((@State.dropPrinting a0)) := by
  unfold State.dropPrinting
  try dsimp only
  repeat' first
    | with_reducible assumption
    | (with_reducible apply Keeps.foldl; intro _ _ _)
    | simp only [Keeps.mk_]
    | intro _
    | split

theorem State.closeEpisodes_keeps {fu : Fuses} {qu : List Instr} (a0) (h0 : Keeps fu qu a0) : Keeps fu qu ((@State.closeEpisodes a0)) := by
  unfold State.closeEpisodes
  try dsimp only
  repeat' first
    | with_reducible assumption
    | with_reducible apply State.episodeClose_keeps
    | (with_reducible apply Keeps.foldl; intro _ _ _)
    | simp only [Keeps.mk_]
    | intro _
    | split

theorem State.warmReset_keeps {fu : Fuses} {qu : List Instr} (s : State) (k : Nat) (h : Keeps fu qu s) : Keeps fu qu (s.warmReset k) := by
  have h1 := State.releaseHolds_keeps _ (State.dropPrinting_keeps _ (State.resetMailboxes_keeps _ k (State.closeDebug_keeps _
    (State.closeEpisodes_keeps _ (State.info_keeps s 0x8C02 0 (w32 k) 0 0 h)))))
  exact ⟨h1.1, h1.2, h1.3, h1.4⟩

theorem State.enterStandby_keeps {fu : Fuses} {qu : List Instr} (a0) (h0 : Keeps fu qu a0) : Keeps fu qu ((@State.enterStandby a0)) := by
  unfold State.enterStandby
  try dsimp only
  repeat' first
    | with_reducible assumption
    | (with_reducible apply Keeps.foldl; intro _ _ _)
    | simp only [Keeps.mk_]
    | intro _
    | split

theorem State.settleShutdown_keeps {fu : Fuses} {qu : List Instr} (a0) (h0 : Keeps fu qu a0) : Keeps fu qu ((@State.settleShutdown a0)) := by
  unfold State.settleShutdown
  try dsimp only
  repeat' first
    | with_reducible assumption
    | with_reducible apply State.finish_keeps
    | with_reducible apply State.enterStandby_keeps
    | (with_reducible apply Keeps.foldl; intro _ _ _)
    | simp only [Keeps.mk_]
    | intro _
    | split

theorem State.derate_keeps {fu : Fuses} {qu : List Instr} (a0) (a1) (a2) (h0 : Keeps fu qu a0) : Keeps fu qu ((@State.derate a0 a1 a2)) := by
  unfold State.derate
  try dsimp only
  repeat' first
    | with_reducible assumption
    | with_reducible apply State.info_keeps
    | with_reducible apply State.updPort_keeps
    | (with_reducible apply Keeps.foldl; intro _ _ _)
    | simp only [Keeps.mk_]
    | intro _
    | split

theorem State.forecast_keeps {fu : Fuses} {qu : List Instr} (a0) (a1) (a2) (h0 : Keeps fu qu a0) : Keeps fu qu ((@State.forecast a0 a1 a2)) := by
  unfold State.forecast
  try dsimp only
  repeat' first
    | with_reducible assumption
    | with_reducible apply State.updPort_keeps
    | with_reducible apply State.derate_keeps
    | (with_reducible apply Keeps.foldl; intro _ _ _)
    | simp only [Keeps.mk_]
    | intro _
    | split

theorem State.settlePredictor_keeps {fu : Fuses} {qu : List Instr} (a0) (a1) (a2) (a3) (h0 : Keeps fu qu a0) : Keeps fu qu ((@State.settlePredictor a0 a1 a2 a3)) := by
  unfold State.settlePredictor
  try dsimp only
  repeat' first
    | with_reducible assumption
    | with_reducible apply State.updPort_keeps
    | with_reducible apply State.forecast_keeps
    | (with_reducible apply Keeps.foldl; intro _ _ _)
    | simp only [Keeps.mk_]
    | intro _
    | split

theorem State.settleMissing_keeps {fu : Fuses} {qu : List Instr} (a0) (h0 : Keeps fu qu a0) : Keeps fu qu ((@State.settleMissing a0)) := by
  unfold State.settleMissing
  try dsimp only
  repeat' first
    | with_reducible assumption
    | with_reducible apply State.settlePredictor_keeps
    | (with_reducible apply Keeps.foldl; intro _ _ _)
    | simp only [Keeps.mk_]
    | intro _
    | split

theorem State.tickPredictor_keeps {fu : Fuses} {qu : List Instr} (a0) (a1) (a2) (h0 : Keeps fu qu a0) : Keeps fu qu ((@State.tickPredictor a0 a1 a2)) := by
  unfold State.tickPredictor
  try dsimp only
  repeat' first
    | with_reducible assumption
    | with_reducible apply State.updPort_keeps
    | with_reducible apply State.settlePredictor_keeps
    | (with_reducible apply Keeps.foldl; intro _ _ _)
    | simp only [Keeps.mk_]
    | intro _
    | split

theorem State.thermalRecord_keeps {fu : Fuses} {qu : List Instr} (s : State) (n old : Nat) (h : Keeps fu qu s) : Keeps fu qu (s.thermalRecord n old) := by
  unfold State.thermalRecord
  dsimp only
  split
  · split
    · exact State.detect_keeps _ _ h
    · refine State.classEffects_keeps _ _ _ (State.latch_keeps _ _ _ _ _ _ _ ⟨h.1, h.2, ⟨?_, ?_, h.3.2.2⟩, h.4⟩)
      · simpa only [List.length_map] using h.3.1
      · simpa only [List.length_map] using h.3.2.1
  · exact State.detect_keeps _ _ h

theorem State.fenceThermal_keeps {fu : Fuses} {qu : List Instr} (a0) (a1) (h0 : Keeps fu qu a0) : Keeps fu qu ((@State.fenceThermal a0 a1)) := by
  unfold State.fenceThermal
  try dsimp only
  repeat' first
    | with_reducible assumption
    | with_reducible apply State.updPort_keeps
    | with_reducible apply State.hbErr_keeps
    | with_reducible apply State.thermalRecord_keeps
    | (with_reducible apply Keeps.foldl; intro _ _ _)
    | simp only [Keeps.mk_]
    | intro _
    | split

theorem State.judgeTemperature_keeps {fu : Fuses} {qu : List Instr} (a0) (a1) (h0 : Keeps fu qu a0) : Keeps fu qu ((@State.judgeTemperature a0 a1)) := by
  unfold State.judgeTemperature
  try dsimp only
  repeat' first
    | with_reducible assumption
    | with_reducible apply State.updPort_keeps
    | with_reducible apply State.fencePort_keeps
    | with_reducible apply State.derate_keeps
    | with_reducible apply State.fenceThermal_keeps
    | (with_reducible apply Keeps.foldl; intro _ _ _)
    | simp only [Keeps.mk_]
    | intro _
    | split

theorem State.govern_keeps {fu : Fuses} {qu : List Instr} (a0) (h0 : Keeps fu qu a0) : Keeps fu qu ((@State.govern a0)) := by
  unfold State.govern
  try dsimp only
  repeat' first
    | with_reducible assumption
    | with_reducible apply State.publish_keeps
    | (with_reducible apply Keeps.foldl; intro _ _ _)
    | simp only [Keeps.mk_]
    | intro _
    | split

theorem State.blankEntries_keeps {fu : Fuses} {qu : List Instr} (a0) (a1) (a2) (a3) (a4) (h0 : Keeps fu qu a0) : Keeps fu qu ((@State.blankEntries a0 a1 a2 a3 a4)) := by
  unfold State.blankEntries
  try dsimp only
  repeat' first
    | with_reducible assumption
    | (with_reducible apply Keeps.foldl; intro _ _ _)
    | simp only [Keeps.mk_]
    | intro _
    | split

theorem State.countDrops_keeps {fu : Fuses} {qu : List Instr} (a0) (a1) (a2) (a3) (h0 : Keeps fu qu a0) : Keeps fu qu ((@State.countDrops a0 a1 a2 a3)) := by
  unfold State.countDrops
  try dsimp only
  repeat' first
    | with_reducible assumption
    | (with_reducible apply Keeps.foldl; intro _ _ _)
    | simp only [Keeps.mk_]
    | intro _
    | split

theorem State.sendBlocks_keeps {fu : Fuses} {qu : List Instr} (a0) (a1) (a2) (a3) (a4) (a5) (h0 : Keeps fu qu a0) : Keeps fu qu ((@State.sendBlocks a0 a1 a2 a3 a4 a5)) := by
  unfold State.sendBlocks
  try dsimp only
  repeat' first
    | with_reducible assumption
    | with_reducible apply State.shotOut_keeps
    | with_reducible apply State.sendHead_keeps
    | with_reducible apply State.sendData_keeps
    | (with_reducible apply Keeps.foldl; intro _ _ _)
    | simp only [Keeps.mk_]
    | intro _
    | split

theorem State.sendLine_keeps {fu : Fuses} {qu : List Instr} (a0) (a1) (a2) (a3) (h0 : Keeps fu qu a0) : Keeps fu qu ((@State.sendLine a0 a1 a2 a3)) := by
  unfold State.sendLine
  try dsimp only
  repeat' first
    | with_reducible assumption
    | with_reducible apply State.updPort_keeps
    | with_reducible apply State.sendData_keeps
    | with_reducible apply State.sendBlocks_keeps
    | (with_reducible apply Keeps.foldl; intro _ _ _)
    | simp only [Keeps.mk_]
    | intro _
    | split

theorem State.rowLineFault_keeps {fu : Fuses} {qu : List Instr} (a0) (a1) (a2) (a3) (h0 : Keeps fu qu a0) : Keeps fu qu ((@State.rowLineFault a0 a1 a2 a3)) := by
  unfold State.rowLineFault
  try dsimp only
  repeat' first
    | with_reducible assumption
    | with_reducible apply State.spoilLine_keeps
    | with_reducible apply State.detect_keeps
    | with_reducible apply State.hbErr_keeps
    | with_reducible apply State.blankEntries_keeps
    | (with_reducible apply Keeps.foldl; intro _ _ _)
    | simp only [Keeps.mk_]
    | intro _
    | split

theorem State.pathShot_keeps {fu : Fuses} {qu : List Instr} (a0) (a1) (a2) (a3) (h0 : Keeps fu qu a0) : Keeps fu qu ((@State.pathShot a0 a1 a2 a3).1) := by
  unfold State.pathShot
  try dsimp only
  repeat' first
    | with_reducible assumption
    | with_reducible apply State.rowLineFault_keeps
    | (with_reducible apply Keeps.foldl; intro _ _ _)
    | simp only [Keeps.mk_]
    | intro _
    | split

theorem State.readOut_keeps {fu : Fuses} {qu : List Instr} (a0) (a1) (a2) (a3) (h0 : Keeps fu qu a0) : Keeps fu qu ((@State.readOut a0 a1 a2 a3)) := by
  unfold State.readOut
  try dsimp only
  repeat' first
    | with_reducible assumption
    | with_reducible apply State.headDirty_keeps
    | with_reducible apply State.countDrops_keeps
    | with_reducible apply State.sendLine_keeps
    | with_reducible apply State.pathShot_keeps
    | (with_reducible apply Keeps.foldl; intro _ _ _)
    | simp only [Keeps.mk_]
    | intro _
    | split

theorem State.sendReady_keeps {fu : Fuses} {qu : List Instr} (a0) (h0 : Keeps fu qu a0) : Keeps fu qu ((@State.sendReady a0)) := by
  unfold State.sendReady
  try dsimp only
  repeat' first
    | with_reducible assumption
    | with_reducible apply State.readOut_keeps
    | (with_reducible apply Keeps.foldl; intro _ _ _)
    | simp only [Keeps.mk_]
    | intro _
    | split

theorem State.hbIrq_keeps {fu : Fuses} {qu : List Instr} (a0) (h0 : Keeps fu qu a0) : Keeps fu qu ((@State.hbIrq a0)) := by
  unfold State.hbIrq
  try dsimp only
  repeat' first
    | with_reducible assumption
    | with_reducible apply State.emit_keeps
    | (with_reducible apply Keeps.foldl; intro _ _ _)
    | simp only [Keeps.mk_]
    | intro _
    | split

theorem State.hbWrite_keeps {fu : Fuses} {qu : List Instr} (a0) (a1) (a2) (h0 : Keeps fu qu a0) : Keeps fu qu ((@State.hbWrite a0 a1 a2)) := by
  unfold State.hbWrite
  try dsimp only
  repeat' first
    | with_reducible assumption
    | with_reducible apply State.hbIrq_keeps
    | (with_reducible apply Keeps.foldl; intro _ _ _)
    | simp only [Keeps.mk_]
    | intro _
    | split

theorem State.closeLegacy_keeps {fu : Fuses} {qu : List Instr} (a0) (h0 : Keeps fu qu a0) : Keeps fu qu ((@State.closeLegacy a0)) := by
  unfold State.closeLegacy
  try dsimp only
  repeat' first
    | with_reducible assumption
    | with_reducible apply State.assignLanes_keeps
    | (with_reducible apply Keeps.foldl; intro _ _ _)
    | simp only [Keeps.mk_]
    | intro _
    | split

theorem State.placeLegacy_keeps {fu : Fuses} {qu : List Instr} (a0) (a1) (a2) (h0 : Keeps fu qu a0) : Keeps fu qu ((@State.placeLegacy a0 a1 a2).1) := by
  unfold State.placeLegacy
  try dsimp only
  repeat' first
    | with_reducible assumption
    | with_reducible apply State.hbErr_keeps
    | with_reducible apply State.closeLegacy_keeps
    | (with_reducible apply Keeps.foldl; intro _ _ _)
    | simp only [Keeps.mk_]
    | intro _
    | split

theorem State.placeWaiting_keeps {fu : Fuses} {qu : List Instr} : ∀ (n : Nat) (s : State), Keeps fu qu s → Keeps fu qu (State.placeWaiting n s)
  | 0, _, h => h
  | n + 1, s, h => by
    unfold State.placeWaiting
    dsimp only
    split
    · split
      · exact h
      · refine State.placeWaiting_keeps n _ ?_
        simp only [Keeps.mk_]
        exact State.placeLegacy_keeps _ _ _ h
    · exact h

theorem State.placeLines_keeps {fu : Fuses} {qu : List Instr} (a0) (h0 : Keeps fu qu a0) : Keeps fu qu ((@State.placeLines a0)) := by
  unfold State.placeLines
  try dsimp only
  repeat' first
    | with_reducible assumption
    | with_reducible apply State.placeWaiting_keeps
    | (with_reducible apply Keeps.foldl; intro _ _ _)
    | simp only [Keeps.mk_]
    | intro _
    | split

theorem State.acceptLine_keeps {fu : Fuses} {qu : List Instr} (a0) (a1) (h0 : Keeps fu qu a0) : Keeps fu qu ((@State.acceptLine a0 a1)) := by
  unfold State.acceptLine
  try dsimp only
  repeat' first
    | with_reducible assumption
    | with_reducible apply State.hbErr_keeps
    | with_reducible apply State.placeLines_keeps
    | (with_reducible apply Keeps.foldl; intro _ _ _)
    | simp only [Keeps.mk_]
    | intro _
    | split

theorem State.appendRaster_keeps {fu : Fuses} {qu : List Instr} : ∀ (n : Nat) (s : State), Keeps fu qu s → Keeps fu qu (State.appendRaster n s)
  | 0, _, h => h
  | n + 1, s, h => by
    unfold State.appendRaster
    dsimp only
    split
    · exact h
    · exact State.appendRaster_keeps n _ (State.acceptLine_keeps _ _ (by simp only [Keeps.mk_]; exact h))

theorem State.fifoWrite_keeps {fu : Fuses} {qu : List Instr} (a0) (a1) (h0 : Keeps fu qu a0) : Keeps fu qu ((@State.fifoWrite a0 a1)) := by
  unfold State.fifoWrite
  try dsimp only
  repeat' first
    | with_reducible assumption
    | with_reducible apply State.hbIrq_keeps
    | with_reducible apply State.appendRaster_keeps
    | (with_reducible apply Keeps.foldl; intro _ _ _)
    | simp only [Keeps.mk_]
    | intro _
    | split

theorem State.startLegacy_keeps {fu : Fuses} {qu : List Instr} (a0) (h0 : Keeps fu qu a0) : Keeps fu qu ((@State.startLegacy a0)) := by
  unfold State.startLegacy
  try dsimp only
  repeat' first
    | with_reducible assumption
    | with_reducible apply State.placeLines_keeps
    | (with_reducible apply Keeps.foldl; intro _ _ _)
    | simp only [Keeps.mk_]
    | intro _
    | split

theorem State.tryArm_keeps {fu : Fuses} {qu : List Instr} (a0) (h0 : Keeps fu qu a0) : Keeps fu qu ((@State.tryArm a0)) := by
  unfold State.tryArm
  try dsimp only
  repeat' first
    | with_reducible assumption
    | with_reducible apply State.armByFirmware_keeps
    | with_reducible apply State.hbIrq_keeps
    | with_reducible apply State.startLegacy_keeps
    | (with_reducible apply Keeps.foldl; intro _ _ _)
    | simp only [Keeps.mk_]
    | intro _
    | split

theorem State.sendHalyard_keeps {fu : Fuses} {qu : List Instr} (a0) (a1) (a2) (a3) (h0 : Keeps fu qu a0) : Keeps fu qu ((@State.sendHalyard a0 a1 a2 a3)) := by
  unfold State.sendHalyard
  try dsimp only
  repeat' first
    | with_reducible assumption
    | with_reducible apply State.emit_keeps
    | (with_reducible apply Keeps.foldl; intro _ _ _)
    | simp only [Keeps.mk_]
    | intro _
    | split

theorem State.adaptLanes_keeps {fu : Fuses} {qu : List Instr} (a0) (a1) (h0 : Keeps fu qu a0) : Keeps fu qu ((@State.adaptLanes a0 a1)) := by
  unfold State.adaptLanes
  try dsimp only
  repeat' first
    | with_reducible assumption
    | with_reducible apply State.updHalyard_keeps
    | (with_reducible apply Keeps.foldl; intro _ _ _)
    | simp only [Keeps.mk_]
    | intro _
    | split

theorem State.chooseCtle_keeps {fu : Fuses} {qu : List Instr} (a0) (a1) (h0 : Keeps fu qu a0) : Keeps fu qu ((@State.chooseCtle a0 a1)) := by
  unfold State.chooseCtle
  try dsimp only
  repeat' first
    | with_reducible assumption
    | with_reducible apply State.updHalyard_keeps
    | (with_reducible apply Keeps.foldl; intro _ _ _)
    | simp only [Keeps.mk_]
    | intro _
    | split

theorem State.retransmit_keeps {fu : Fuses} {qu : List Instr} (a0) (a1) (a2) (a3) (h0 : Keeps fu qu a0) : Keeps fu qu ((@State.retransmit a0 a1 a2 a3)) := by
  unfold State.retransmit
  try dsimp only
  repeat' first
    | with_reducible assumption
    | with_reducible apply State.sendHalyard_keeps
    | (with_reducible apply Keeps.foldl; intro _ _ _)
    | simp only [Keeps.mk_]
    | intro _
    | split

theorem State.beginTraining_keeps {fu : Fuses} {qu : List Instr} (a0) (a1) (a2) (h0 : Keeps fu qu a0) : Keeps fu qu ((@State.beginTraining a0 a1 a2)) := by
  unfold State.beginTraining
  try dsimp only
  repeat' first
    | with_reducible assumption
    | with_reducible apply State.freeBytes_keeps
    | with_reducible apply State.updHalyard_keeps
    | with_reducible apply State.sendHalyard_keeps
    | (with_reducible apply Keeps.foldl; intro _ _ _)
    | simp only [Keeps.mk_]
    | intro _
    | split

theorem State.trainLinks_keeps {fu : Fuses} {qu : List Instr} (a0) (h0 : Keeps fu qu a0) : Keeps fu qu ((@State.trainLinks a0)) := by
  unfold State.trainLinks
  try dsimp only
  repeat' first
    | with_reducible assumption
    | with_reducible apply State.beginTraining_keeps
    | (with_reducible apply Keeps.foldl; intro _ _ _)
    | simp only [Keeps.mk_]
    | intro _
    | split

theorem State.askDelay_keeps {fu : Fuses} {qu : List Instr} (a0) (a1) (h0 : Keeps fu qu a0) : Keeps fu qu ((@State.askDelay a0 a1)) := by
  unfold State.askDelay
  try dsimp only
  repeat' first
    | with_reducible assumption
    | with_reducible apply State.updHalyard_keeps
    | with_reducible apply State.sendHalyard_keeps
    | (with_reducible apply Keeps.foldl; intro _ _ _)
    | simp only [Keeps.mk_]
    | intro _
    | split

theorem State.endReset_keeps {fu : Fuses} {qu : List Instr} (a0) (a1) (a2) (a3) (h0 : Keeps fu qu a0) : Keeps fu qu ((@State.endReset a0 a1 a2 a3)) := by
  unfold State.endReset
  try dsimp only
  repeat' first
    | with_reducible assumption
    | with_reducible apply State.finish_keeps
    | (with_reducible apply Keeps.foldl; intro _ _ _)
    | simp only [Keeps.mk_]
    | intro _
    | split

theorem State.endHalyardReset_keeps {fu : Fuses} {qu : List Instr} (a0) (a1) (a2) (h0 : Keeps fu qu a0) : Keeps fu qu ((@State.endHalyardReset a0 a1 a2)) := by
  unfold State.endHalyardReset
  try dsimp only
  repeat' first
    | with_reducible assumption
    | with_reducible apply State.updHalyard_keeps
    | with_reducible apply State.endReset_keeps
    | (with_reducible apply Keeps.foldl; intro _ _ _)
    | simp only [Keeps.mk_]
    | intro _
    | split

theorem State.tryShadow_keeps {fu : Fuses} {qu : List Instr} (a0) (a1) (h0 : Keeps fu qu a0) : Keeps fu qu ((@State.tryShadow a0 a1)) := by
  unfold State.tryShadow
  try dsimp only
  repeat' first
    | with_reducible assumption
    | with_reducible apply State.updHalyard_keeps
    | (with_reducible apply Keeps.foldl; intro _ _ _)
    | simp only [Keeps.mk_]
    | intro _
    | split

theorem State.shadowStep_keeps {fu : Fuses} {qu : List Instr} (a0) (a1) (h0 : Keeps fu qu a0) : Keeps fu qu ((@State.shadowStep a0 a1)) := by
  unfold State.shadowStep
  try dsimp only
  repeat' first
    | with_reducible assumption
    | with_reducible apply State.updHalyard_keeps
    | with_reducible apply State.endHalyardReset_keeps
    | (with_reducible apply Keeps.foldl; intro _ _ _)
    | simp only [Keeps.mk_]
    | intro _
    | split

theorem State.countLoopback_keeps {fu : Fuses} {qu : List Instr} (a0) (a1) (h0 : Keeps fu qu a0) : Keeps fu qu ((@State.countLoopback a0 a1)) := by
  unfold State.countLoopback
  try dsimp only
  repeat' first
    | with_reducible assumption
    | with_reducible apply State.freeNat_keeps
    | with_reducible apply State.updHalyard_keeps
    | (with_reducible apply Keeps.foldl; intro _ _ _)
    | simp only [Keeps.mk_]
    | intro _
    | split

theorem State.countHeadLoopbacks_keeps {fu : Fuses} {qu : List Instr} (a0) (h0 : Keeps fu qu a0) : Keeps fu qu ((@State.countHeadLoopbacks a0)) := by
  unfold State.countHeadLoopbacks
  try dsimp only
  repeat' first
    | with_reducible assumption
    | (with_reducible apply Keeps.foldl; intro _ _ _)
    | simp only [Keeps.mk_]
    | intro _
    | split

theorem State.linkTick_keeps {fu : Fuses} {qu : List Instr} (a0) (a1) (h0 : Keeps fu qu a0) : Keeps fu qu ((@State.linkTick a0 a1)) := by
  unfold State.linkTick
  try dsimp only
  repeat' first
    | with_reducible assumption
    | with_reducible apply State.adaptLanes_keeps
    | with_reducible apply State.shadowStep_keeps
    | with_reducible apply State.countLoopback_keeps
    | (with_reducible apply Keeps.foldl; intro _ _ _)
    | simp only [Keeps.mk_]
    | intro _
    | split

theorem State.reportSelf_keeps {fu : Fuses} {qu : List Instr} (a0) (h0 : Keeps fu qu a0) : Keeps fu qu ((@State.reportSelf a0)) := by
  unfold State.reportSelf
  try dsimp only
  repeat' first
    | with_reducible assumption
    | with_reducible apply State.tellManager_keeps
    | (with_reducible apply Keeps.foldl; intro _ _ _)
    | simp only [Keeps.mk_]
    | intro _
    | split

theorem State.linksTick_keeps {fu : Fuses} {qu : List Instr} (a0) (h0 : Keeps fu qu a0) : Keeps fu qu ((@State.linksTick a0)) := by
  unfold State.linksTick
  try dsimp only
  repeat' first
    | with_reducible assumption
    | with_reducible apply State.postV_keeps
    | with_reducible apply State.feedShots_keeps
    | with_reducible apply State.countHeadLoopbacks_keeps
    | with_reducible apply State.linkTick_keeps
    | with_reducible apply State.reportSelf_keeps
    | (with_reducible apply Keeps.foldl; intro _ _ _)
    | simp only [Keeps.mk_]
    | intro _
    | split

theorem State.bothOut_keeps {fu : Fuses} {qu : List Instr} (a0) (h0 : Keeps fu qu a0) : Keeps fu qu ((@State.bothOut a0)) := by
  unfold State.bothOut
  try dsimp only
  repeat' first
    | with_reducible assumption
    | with_reducible apply State.detect_keeps
    | (with_reducible apply Keeps.foldl; intro _ _ _)
    | simp only [Keeps.mk_]
    | intro _
    | split

theorem State.linkFailed_keeps {fu : Fuses} {qu : List Instr} (a0) (a1) (a2) (h0 : Keeps fu qu a0) : Keeps fu qu ((@State.linkFailed a0 a1 a2)) := by
  unfold State.linkFailed
  try dsimp only
  repeat' first
    | with_reducible assumption
    | with_reducible apply State.updHalyard_keeps
    | with_reducible apply State.detect_keeps
    | with_reducible apply State.unlessShadowed_keeps
    | with_reducible apply State.beginTraining_keeps
    | with_reducible apply State.bothOut_keeps
    | (with_reducible apply Keeps.foldl; intro _ _ _)
    | simp only [Keeps.mk_]
    | intro _
    | split

theorem State.bootImage_keeps {fu : Fuses} {qu : List Instr} (a0) (h0 : Keeps fu qu a0) : Keeps fu qu ((@State.bootImage a0)) := by
  unfold State.bootImage
  try dsimp only
  repeat' first
    | with_reducible assumption
    | (with_reducible apply Keeps.foldl; intro _ _ _)
    | simp only [Keeps.mk_]
    | intro _
    | split

theorem State.readConfigBlock_keeps {fu : Fuses} {qu : List Instr} (a0) (h0 : Keeps fu qu a0) : Keeps fu qu ((@State.readConfigBlock a0)) := by
  unfold State.readConfigBlock
  try dsimp only
  repeat' first
    | with_reducible assumption
    | with_reducible apply State.info_keeps
    | (with_reducible apply Keeps.foldl; intro _ _ _)
    | simp only [Keeps.mk_]
    | intro _
    | split

theorem State.cold_keeps {fu : Fuses} {qu : List Instr} (s : State) (h : Keeps fu qu s) : Keeps fu qu s.cold :=
  ⟨h.1, h.2, ⟨Nat.zero_le _, Nat.zero_le _, h.3.2.2⟩, Nat.zero_le _, Nat.zero_le _, Nat.zero_le _, Nat.zero_le _, Nat.zero_le _, Nat.zero_le _, Nat.zero_le _⟩

theorem State.resumeEvents_keeps {fu : Fuses} {qu : List Instr} (s : State) (h : Keeps fu qu s) : Keeps fu qu s.resumeEvents := by
  unfold State.resumeEvents
  dsimp only
  split
  · exact State.info_keeps _ _ _ _ _ _ h
  · exact State.info_keeps _ _ _ _ _ _ ⟨h.1, h.2, h.3, h.4⟩

theorem State.restoreCal_keeps {fu : Fuses} {qu : List Instr} (s : State) (h : Keeps fu qu s) : Keeps fu qu s.restoreCal := by
  unfold State.restoreCal
  dsimp only
  split
  · exact State.info_keeps _ _ _ _ _ _ (State.fuseDefaults_keeps _ (by simp only [Keeps.mk_]; exact h))
  · have h1 : ∀ (ring : Ring) (cal : Cal) (o : Nat), Keeps fu qu { s with evt := { s.evt with overflow := min o 0xFFFFFFFF }, ring := ring, cal := cal } :=
      fun _ _ _ => ⟨h.1, h.2, h.3, Nat.min_le_right _ _, h.4.2⟩
    split
    · exact h1 _ _ _
    · exact State.fuseDefaults_keeps _ (h1 _ _ _)

theorem State.setCodes_keeps {fu : Fuses} {qu : List Instr} (a0) (a1) (a2) (h0 : Keeps fu qu a0) : Keeps fu qu ((@State.setCodes a0 a1 a2)) := by
  unfold State.setCodes
  try dsimp only
  repeat' first
    | with_reducible assumption
    | with_reducible apply State.updElement_keeps
    | (with_reducible apply Keeps.foldl; intro _ _ _)
    | simp only [Keeps.mk_]
    | intro _
    | split

theorem State.powerUpCal_keeps {fu : Fuses} {qu : List Instr} (a0) (a1) (a2) (h0 : Keeps fu qu a0) : Keeps fu qu ((@State.powerUpCal a0 a1 a2)) := by
  unfold State.powerUpCal
  try dsimp only
  repeat' first
    | with_reducible assumption
    | with_reducible apply State.episodeOpen_keeps
    | with_reducible apply State.episodeClose_keeps
    | with_reducible apply State.detect_keeps
    | with_reducible apply State.fuseDefaults_keeps
    | with_reducible apply State.setCodes_keeps
    | (with_reducible apply Keeps.foldl; intro _ _ _)
    | simp only [Keeps.mk_]
    | intro _
    | split

theorem State.sense_keeps {fu : Fuses} {qu : List Instr} (a0) (a1) (a2) (h0 : Keeps fu qu a0) : Keeps fu qu ((@State.sense a0 a1 a2)) := by
  unfold State.sense
  try dsimp only
  repeat' first
    | with_reducible assumption
    | (with_reducible apply Keeps.foldl; intro _ _ _)
    | simp only [Keeps.mk_]
    | intro _
    | split

theorem keeps_spill (t : List Buffered) : ∀ (l : List Record), l.length ≤ 524288 → (t.foldl (fun l b => spillPut l b.record) l).length ≤ 524288 := by
  induction t with
  | nil => exact fun _ h => h
  | cons b t ih => exact fun l _ => ih _ (List.length_take_le _ _)

theorem State.trainedWith_keeps {fu : Fuses} {qu : List Instr} (s : State) (tr : Training) (sl : Bool) (h : Keeps fu qu s) : Keeps fu qu (s.trainedWith tr sl) := by
  have told : ∀ (b : Bool) (s1 : State), Keeps fu qu s1 → Keeps fu qu (if b then s1.info 0x8B02 else s1) := by
    intro b s1 h1
    split
    · exact State.info_keeps _ _ _ _ _ _ h1
    · exact h1
  unfold State.trainedWith
  dsimp only
  refine told _ _ ?_
  have h1 : ∀ (dmc : Dmc) (store : PageStore) (w : List (Nat × Nat)), Keeps fu qu { s with
      dmc := dmc, store := store
      evt := { s.evt with
        spill := s.evt.buffer.foldl (fun l b => spillPut l b.record) s.evt.spill
        writes := w
        buffer := s.evt.buffer.map fun b => { b with spilled := true } } } := by
    intro _ _ _
    refine ⟨h.1, h.2, ⟨?_, keeps_spill _ _ h.3.2.1, h.3.2.2⟩, h.4⟩
    simpa only [List.length_map] using h.3.1
  split
  · exact h1 _ _ _
  · exact State.setCodes_keeps _ (groupElements 0x4) tr.codes (h1 _ _ _)

theorem State.copyImage_keeps {fu : Fuses} {qu : List Instr} (a0) (h0 : Keeps fu qu a0) : Keeps fu qu ((@State.copyImage a0)) := by
  unfold State.copyImage
  try dsimp only
  repeat' first
    | with_reducible assumption
    | (with_reducible apply Keeps.foldl; intro _ _ _)
    | simp only [Keeps.mk_]
    | intro _
    | split

theorem State.reloadImage_keeps {fu : Fuses} {qu : List Instr} (a0) (h0 : Keeps fu qu a0) : Keeps fu qu ((@State.reloadImage a0)) := by
  unfold State.reloadImage
  try dsimp only
  repeat' first
    | with_reducible assumption
    | with_reducible apply State.bootImage_keeps
    | with_reducible apply State.copyImage_keeps
    | (with_reducible apply Keeps.foldl; intro _ _ _)
    | simp only [Keeps.mk_]
    | intro _
    | split

theorem State.cacheChanged_keeps {fu : Fuses} {qu : List Instr} (a0) (h0 : Keeps fu qu a0) : Keeps fu qu ((@State.cacheChanged a0)) := by
  unfold State.cacheChanged
  try dsimp only
  repeat' first
    | with_reducible assumption
    | with_reducible apply State.calDirty_keeps
    | (with_reducible apply Keeps.foldl; intro _ _ _)
    | simp only [Keeps.mk_]
    | intro _
    | split

theorem State.defaultSettings_keeps {fu : Fuses} {qu : List Instr} (a0) (h0 : Keeps fu qu a0) : Keeps fu qu ((@State.defaultSettings a0)) := by
  unfold State.defaultSettings
  try dsimp only
  repeat' first
    | with_reducible assumption
    | (with_reducible apply Keeps.foldl; intro _ _ _)
    | simp only [Keeps.mk_]
    | intro _
    | split

theorem State.dropPages_keeps {fu : Fuses} {qu : List Instr} (a0) (h0 : Keeps fu qu a0) : Keeps fu qu ((@State.dropPages a0)) := by
  unfold State.dropPages
  try dsimp only
  repeat' first
    | with_reducible assumption
    | with_reducible apply State.finish_keeps
    | (with_reducible apply Keeps.foldl; intro _ _ _)
    | simp only [Keeps.mk_]
    | intro _
    | split

theorem State.changeMode_keeps {fu : Fuses} {qu : List Instr} (a0) (a1) (h0 : Keeps fu qu a0) : Keeps fu qu ((@State.changeMode a0 a1)) := by
  unfold State.changeMode
  try dsimp only
  repeat' first
    | with_reducible assumption
    | with_reducible apply State.info_keeps
    | with_reducible apply State.hbSetup_keeps
    | with_reducible apply State.defaultSettings_keeps
    | with_reducible apply State.dropPages_keeps
    | (with_reducible apply Keeps.foldl; intro _ _ _)
    | simp only [Keeps.mk_]
    | intro _
    | split

theorem State.linkBack_keeps {fu : Fuses} {qu : List Instr} (a0) (h0 : Keeps fu qu a0) : Keeps fu qu ((@State.linkBack a0)) := by
  unfold State.linkBack
  try dsimp only
  repeat' first
    | with_reducible assumption
    | (with_reducible apply Keeps.foldl; intro _ _ _)
    | simp only [Keeps.mk_]
    | intro _
    | split

theorem State.cancelEntry_keeps {fu : Fuses} {qu : List Instr} (a0) (a1) (a2) (h0 : Keeps fu qu a0) : Keeps fu qu ((@State.cancelEntry a0 a1 a2)) := by
  unfold State.cancelEntry
  try dsimp only
  repeat' first
    | with_reducible assumption
    | with_reducible apply State.finish_keeps
    | with_reducible apply State.finishAxis_keeps
    | (with_reducible apply Keeps.foldl; intro _ _ _)
    | simp only [Keeps.mk_]
    | intro _
    | split

theorem State.resolveEntry_keeps {fu : Fuses} {qu : List Instr} (a0) (a1) (h0 : Keeps fu qu a0) : Keeps fu qu ((@State.resolveEntry a0 a1)) := by
  unfold State.resolveEntry
  try dsimp only
  repeat' first
    | with_reducible assumption
    | with_reducible apply State.finish_keeps
    | with_reducible apply State.releaseAs_keeps
    | with_reducible apply State.cancelEntry_keeps
    | (with_reducible apply Keeps.foldl; intro _ _ _)
    | simp only [Keeps.mk_]
    | intro _
    | split

theorem State.recoverPages_keeps {fu : Fuses} {qu : List Instr} (a0) (h0 : Keeps fu qu a0) : Keeps fu qu ((@State.recoverPages a0)) := by
  unfold State.recoverPages
  try dsimp only
  repeat' first
    | with_reducible assumption
    | with_reducible apply State.spoilPrinting_keeps
    | (with_reducible apply Keeps.foldl; intro _ _ _)
    | simp only [Keeps.mk_]
    | intro _
    | split

theorem State.resumePorts_keeps {fu : Fuses} {qu : List Instr} (a0) (h0 : Keeps fu qu a0) : Keeps fu qu ((@State.resumePorts a0)) := by
  unfold State.resumePorts
  try dsimp only
  repeat' first
    | with_reducible assumption
    | with_reducible apply State.updPort_keeps
    | with_reducible apply State.sendSync_keeps
    | with_reducible apply State.startBringup_keeps
    | (with_reducible apply Keeps.foldl; intro _ _ _)
    | simp only [Keeps.mk_]
    | intro _
    | split

theorem State.hbRecover_keeps {fu : Fuses} {qu : List Instr} (a0) (h0 : Keeps fu qu a0) : Keeps fu qu ((@State.hbRecover a0)) := by
  unfold State.hbRecover
  try dsimp only
  repeat' first
    | with_reducible assumption
    | with_reducible apply State.hbErr_keeps
    | with_reducible apply State.fifoWrite_keeps
    | (with_reducible apply Keeps.foldl; intro _ _ _)
    | simp only [Keeps.mk_]
    | intro _
    | split

theorem State.linkLost_keeps {fu : Fuses} {qu : List Instr} (a0) (h0 : Keeps fu qu a0) : Keeps fu qu ((@State.linkLost a0)) := by
  unfold State.linkLost
  try dsimp only
  repeat' first
    | with_reducible assumption
    | with_reducible apply State.hostInterfaceReset_keeps
    | (with_reducible apply Keeps.foldl; intro _ _ _)
    | simp only [Keeps.mk_]
    | intro _
    | split

theorem State.updPennant_keeps {fu : Fuses} {qu : List Instr} (a0) (a1) (a2) (h0 : Keeps fu qu a0) : Keeps fu qu ((@State.updPennant a0 a1 a2)) := by
  unfold State.updPennant
  try dsimp only
  repeat' first
    | with_reducible assumption
    | (with_reducible apply Keeps.foldl; intro _ _ _)
    | simp only [Keeps.mk_]
    | intro _
    | split

theorem State.updHoist_keeps {fu : Fuses} {qu : List Instr} (a0) (a1) (a2) (h0 : Keeps fu qu a0) : Keeps fu qu ((@State.updHoist a0 a1 a2)) := by
  unfold State.updHoist
  try dsimp only
  repeat' first
    | with_reducible assumption
    | (with_reducible apply Keeps.foldl; intro _ _ _)
    | simp only [Keeps.mk_]
    | intro _
    | split

theorem State.queueFrames_keeps {fu : Fuses} {qu : List Instr} (a0) (a1) (a2) (a3) (h0 : Keeps fu qu a0) : Keeps fu qu ((@State.queueFrames a0 a1 a2 a3)) := by
  unfold State.queueFrames
  try dsimp only
  repeat' first
    | with_reducible assumption
    | (with_reducible apply Keeps.foldl; intro _ _ _)
    | simp only [Keeps.mk_]
    | intro _
    | split

theorem State.giveWork_keeps {fu : Fuses} {qu : List Instr} (a0) (a1) (a2) (a3) (a4) (h0 : Keeps fu qu a0) : Keeps fu qu ((@State.giveWork a0 a1 a2 a3 a4)) := by
  unfold State.giveWork
  try dsimp only
  repeat' first
    | with_reducible assumption
    | with_reducible apply State.updPennant_keeps
    | with_reducible apply State.queueFrames_keeps
    | (with_reducible apply Keeps.foldl; intro _ _ _)
    | simp only [Keeps.mk_]
    | intro _
    | split

theorem State.dropAudits_keeps {fu : Fuses} {qu : List Instr} (a0) (a1) (h0 : Keeps fu qu a0) : Keeps fu qu ((@State.dropAudits a0 a1)) := by
  unfold State.dropAudits
  try dsimp only
  repeat' first
    | with_reducible assumption
    | (with_reducible apply Keeps.foldl; intro _ _ _)
    | simp only [Keeps.mk_]
    | intro _
    | split

theorem State.freePennant_keeps {fu : Fuses} {qu : List Instr} (a0) (a1) (h0 : Keeps fu qu a0) : Keeps fu qu ((@State.freePennant a0 a1)) := by
  unfold State.freePennant
  try dsimp only
  repeat' first
    | with_reducible assumption
    | with_reducible apply State.dropAudits_keeps
    | (with_reducible apply Keeps.foldl; intro _ _ _)
    | simp only [Keeps.mk_]
    | intro _
    | split

theorem State.giveReplay_keeps {fu : Fuses} {qu : List Instr} (a0) (a1) (a2) (a3) (h0 : Keeps fu qu a0) : Keeps fu qu ((@State.giveReplay a0 a1 a2 a3)) := by
  unfold State.giveReplay
  try dsimp only
  repeat' first
    | with_reducible assumption
    | with_reducible apply State.giveWork_keeps
    | with_reducible apply State.freePennant_keeps
    | (with_reducible apply Keeps.foldl; intro _ _ _)
    | simp only [Keeps.mk_]
    | intro _
    | split

theorem State.placeOrphans_keeps {fu : Fuses} {qu : List Instr} : ∀ (n : Nat) (s : State), Keeps fu qu s → Keeps fu qu (State.placeOrphans n s)
  | 0, _, h => h
  | n + 1, s, h => by
    unfold State.placeOrphans
    dsimp only
    split
    · split
      · exact h
      · refine State.placeOrphans_keeps n _ (State.giveReplay_keeps _ _ _ _ ?_)
        split
        · exact State.updPennant_keeps _ _ _ (State.updHoist_keeps _ _ _ h)
        · exact State.updHoist_keeps _ _ _ h
    · exact h

theorem State.orphans_keeps {fu : Fuses} {qu : List Instr} (a0) (h0 : Keeps fu qu a0) : Keeps fu qu ((@State.orphans a0)) := by
  unfold State.orphans
  try dsimp only
  repeat' first
    | with_reducible assumption
    | with_reducible apply State.placeOrphans_keeps
    | (with_reducible apply Keeps.foldl; intro _ _ _)
    | simp only [Keeps.mk_]
    | intro _
    | split

theorem State.resplit_keeps {fu : Fuses} {qu : List Instr} (a0) (h0 : Keeps fu qu a0) : Keeps fu qu ((@State.resplit a0)) := by
  unfold State.resplit
  try dsimp only
  repeat' first
    | with_reducible assumption
    | with_reducible apply State.fault_keeps
    | (with_reducible apply Keeps.foldl; intro _ _ _)
    | simp only [Keeps.mk_]
    | intro _
    | split

theorem State.takeover_keeps {fu : Fuses} {qu : List Instr} (a0) (a1) (h0 : Keeps fu qu a0) : Keeps fu qu ((@State.takeover a0 a1)) := by
  unfold State.takeover
  try dsimp only
  repeat' first
    | with_reducible assumption
    | with_reducible apply State.updPennant_keeps
    | with_reducible apply State.freePennant_keeps
    | with_reducible apply State.resplit_keeps
    | (with_reducible apply Keeps.foldl; intro _ _ _)
    | simp only [Keeps.mk_]
    | intro _
    | split

theorem State.replay_keeps {fu : Fuses} {qu : List Instr} (a0) (a1) (a2) (h0 : Keeps fu qu a0) : Keeps fu qu ((@State.replay a0 a1 a2)) := by
  unfold State.replay
  try dsimp only
  repeat' first
    | with_reducible assumption
    | with_reducible apply State.updHoist_keeps
    | with_reducible apply State.giveReplay_keeps
    | with_reducible apply State.orphans_keeps
    | (with_reducible apply Keeps.foldl; intro _ _ _)
    | simp only [Keeps.mk_]
    | intro _
    | split

theorem State.loseCopies_keeps {fu : Fuses} {qu : List Instr} (a0) (a1) (h0 : Keeps fu qu a0) : Keeps fu qu ((@State.loseCopies a0 a1)) := by
  unfold State.loseCopies
  try dsimp only
  repeat' first
    | with_reducible assumption
    | with_reducible apply State.queueFrames_keeps
    | (with_reducible apply Keeps.foldl; intro _ _ _)
    | simp only [Keeps.mk_]
    | intro _
    | split

theorem State.fencePennant_keeps {fu : Fuses} {qu : List Instr} (a0) (a1) (a2) (h0 : Keeps fu qu a0) : Keeps fu qu ((@State.fencePennant a0 a1 a2)) := by
  unfold State.fencePennant
  try dsimp only
  repeat' first
    | with_reducible assumption
    | with_reducible apply State.endReset_keeps
    | with_reducible apply State.updPennant_keeps
    | with_reducible apply State.freePennant_keeps
    | with_reducible apply State.takeover_keeps
    | with_reducible apply State.replay_keeps
    | with_reducible apply State.loseCopies_keeps
    | (with_reducible apply Keeps.foldl; intro _ _ _)
    | simp only [Keeps.mk_]
    | intro _
    | split

theorem State.pennantFailedAs_keeps {fu : Fuses} {qu : List Instr} (a0) (a1) (h0 : Keeps fu qu a0) : Keeps fu qu ((@State.pennantFailedAs a0 a1)) := by
  unfold State.pennantFailedAs
  try dsimp only
  repeat' first
    | with_reducible assumption
    | with_reducible apply State.detect_keeps
    | with_reducible apply State.unlessShadowed_keeps
    | with_reducible apply State.fencePennant_keeps
    | (with_reducible apply Keeps.foldl; intro _ _ _)
    | simp only [Keeps.mk_]
    | intro _
    | split

theorem State.pennantFailed_keeps {fu : Fuses} {qu : List Instr} (a0) (a1) (a2) (h0 : Keeps fu qu a0) : Keeps fu qu ((@State.pennantFailed a0 a1 a2)) := by
  unfold State.pennantFailed
  try dsimp only
  repeat' first
    | with_reducible assumption
    | with_reducible apply State.pennantFailedAs_keeps
    | (with_reducible apply Keeps.foldl; intro _ _ _)
    | simp only [Keeps.mk_]
    | intro _
    | split

theorem State.lateSources_keeps {fu : Fuses} {qu : List Instr} (a0) (a1) (h0 : Keeps fu qu a0) : Keeps fu qu ((@State.lateSources a0 a1)) := by
  unfold State.lateSources
  try dsimp only
  repeat' first
    | with_reducible assumption
    | with_reducible apply State.queueFrames_keeps
    | (with_reducible apply Keeps.foldl; intro _ _ _)
    | simp only [Keeps.mk_]
    | intro _
    | split

theorem State.writeSlices_keeps {fu : Fuses} {qu : List Instr} (a0) (a1) (h0 : Keeps fu qu a0) : Keeps fu qu ((@State.writeSlices a0 a1)) := by
  unfold State.writeSlices
  try dsimp only
  repeat' first
    | with_reducible assumption
    | with_reducible apply State.lateSources_keeps
    | (with_reducible apply Keeps.foldl; intro _ _ _)
    | simp only [Keeps.mk_]
    | intro _
    | split

theorem State.inflowSlices_keeps {fu : Fuses} {qu : List Instr} (a0) (h0 : Keeps fu qu a0) : Keeps fu qu ((@State.inflowSlices a0)) := by
  unfold State.inflowSlices
  try dsimp only
  repeat' first
    | with_reducible assumption
    | with_reducible apply State.writeSlices_keeps
    | (with_reducible apply Keeps.foldl; intro _ _ _)
    | simp only [Keeps.mk_]
    | intro _
    | split

theorem State.freeSlices_keeps {fu : Fuses} {qu : List Instr} (a0) (a1) (h0 : Keeps fu qu a0) : Keeps fu qu ((@State.freeSlices a0 a1)) := by
  unfold State.freeSlices
  try dsimp only
  repeat' first
    | with_reducible assumption
    | (with_reducible apply Keeps.foldl; intro _ _ _)
    | simp only [Keeps.mk_]
    | intro _
    | split

theorem State.mapAudit_keeps {fu : Fuses} {qu : List Instr} (a0) (a1) (a2) (h0 : Keeps fu qu a0) : Keeps fu qu ((@State.mapAudit a0 a1 a2)) := by
  unfold State.mapAudit
  try dsimp only
  repeat' first
    | with_reducible assumption
    | (with_reducible apply Keeps.foldl; intro _ _ _)
    | simp only [Keeps.mk_]
    | intro _
    | split

theorem State.endAudit_keeps {fu : Fuses} {qu : List Instr} (a0) (a1) (h0 : Keeps fu qu a0) : Keeps fu qu ((@State.endAudit a0 a1)) := by
  unfold State.endAudit
  try dsimp only
  repeat' first
    | with_reducible assumption
    | with_reducible apply State.dropAudits_keeps
    | (with_reducible apply Keeps.foldl; intro _ _ _)
    | simp only [Keeps.mk_]
    | intro _
    | split

theorem State.auditThird_keeps {fu : Fuses} {qu : List Instr} (a0) (a1) (a2) (h0 : Keeps fu qu a0) : Keeps fu qu ((@State.auditThird a0 a1 a2)) := by
  unfold State.auditThird
  try dsimp only
  repeat' first
    | with_reducible assumption
    | with_reducible apply State.giveWork_keeps
    | with_reducible apply State.mapAudit_keeps
    | (with_reducible apply Keeps.foldl; intro _ _ _)
    | simp only [Keeps.mk_]
    | intro _
    | split

theorem State.judgeAudit_keeps {fu : Fuses} {qu : List Instr} (a0) (a1) (h0 : Keeps fu qu a0) : Keeps fu qu ((@State.judgeAudit a0 a1)) := by
  unfold State.judgeAudit
  try dsimp only
  repeat' first
    | with_reducible assumption
    | with_reducible apply State.updHoist_keeps
    | with_reducible apply State.replay_keeps
    | with_reducible apply State.pennantFailed_keeps
    | with_reducible apply State.endAudit_keeps
    | with_reducible apply State.auditThird_keeps
    | (with_reducible apply Keeps.foldl; intro _ _ _)
    | simp only [Keeps.mk_]
    | intro _
    | split

theorem State.judgeAudits_keeps {fu : Fuses} {qu : List Instr} (a0) (h0 : Keeps fu qu a0) : Keeps fu qu ((@State.judgeAudits a0)) := by
  unfold State.judgeAudits
  try dsimp only
  repeat' first
    | with_reducible assumption
    | with_reducible apply State.judgeAudit_keeps
    | (with_reducible apply Keeps.foldl; intro _ _ _)
    | simp only [Keeps.mk_]
    | intro _
    | split

theorem State.startAudit_keeps {fu : Fuses} {qu : List Instr} (a0) (a1) (h0 : Keeps fu qu a0) : Keeps fu qu ((@State.startAudit a0 a1)) := by
  unfold State.startAudit
  try dsimp only
  repeat' first
    | with_reducible assumption
    | with_reducible apply State.giveWork_keeps
    | (with_reducible apply Keeps.foldl; intro _ _ _)
    | simp only [Keeps.mk_]
    | intro _
    | split

theorem State.pennantMismatchAs_keeps {fu : Fuses} {qu : List Instr} (a0) (a1) (h0 : Keeps fu qu a0) : Keeps fu qu ((@State.pennantMismatchAs a0 a1)) := by
  unfold State.pennantMismatchAs
  try dsimp only
  repeat' first
    | with_reducible assumption
    | with_reducible apply State.detect_keeps
    | with_reducible apply State.unlessShadowed_keeps
    | with_reducible apply State.endReset_keeps
    | with_reducible apply State.updPennant_keeps
    | (with_reducible apply Keeps.foldl; intro _ _ _)
    | simp only [Keeps.mk_]
    | intro _
    | split

theorem State.pennantMismatch_keeps {fu : Fuses} {qu : List Instr} (a0) (a1) (h0 : Keeps fu qu a0) : Keeps fu qu ((@State.pennantMismatch a0 a1)) := by
  unfold State.pennantMismatch
  try dsimp only
  repeat' first
    | with_reducible assumption
    | with_reducible apply State.pennantMismatchAs_keeps
    | (with_reducible apply Keeps.foldl; intro _ _ _)
    | simp only [Keeps.mk_]
    | intro _
    | split

theorem State.judgeWord_keeps {fu : Fuses} {qu : List Instr} (a0) (a1) (a2) (h1 : Keeps fu qu a1) : Keeps fu qu ((@State.judgeWord a0 a1 a2)) := by
  unfold State.judgeWord
  try dsimp only
  repeat' first
    | with_reducible assumption
    | with_reducible apply State.updPennant_keeps
    | with_reducible apply State.pennantMismatch_keeps
    | (with_reducible apply Keeps.foldl; intro _ _ _)
    | simp only [Keeps.mk_]
    | intro _
    | split

theorem State.judgeShadow_keeps {fu : Fuses} {qu : List Instr} (a0) (a1) (h0 : Keeps fu qu a0) : Keeps fu qu ((@State.judgeShadow a0 a1)) := by
  unfold State.judgeShadow
  try dsimp only
  repeat' first
    | with_reducible assumption
    | with_reducible apply State.judgeWord_keeps
    | (with_reducible apply Keeps.foldl; intro _ _ _)
    | simp only [Keeps.mk_]
    | intro _
    | split

theorem State.judgeShadows_keeps {fu : Fuses} {qu : List Instr} (a0) (h0 : Keeps fu qu a0) : Keeps fu qu ((@State.judgeShadows a0)) := by
  unfold State.judgeShadows
  try dsimp only
  repeat' first
    | with_reducible assumption
    | with_reducible apply State.judgeShadow_keeps
    | (with_reducible apply Keeps.foldl; intro _ _ _)
    | simp only [Keeps.mk_]
    | intro _
    | split

theorem State.startShadowWork_keeps {fu : Fuses} {qu : List Instr} (a0) (a1) (h0 : Keeps fu qu a0) : Keeps fu qu ((@State.startShadowWork a0 a1)) := by
  unfold State.startShadowWork
  try dsimp only
  repeat' first
    | with_reducible assumption
    | with_reducible apply State.giveWork_keeps
    | (with_reducible apply Keeps.foldl; intro _ _ _)
    | simp only [Keeps.mk_]
    | intro _
    | split

theorem State.spoilPending_keeps {fu : Fuses} {qu : List Instr} (a0) (a1) (h0 : Keeps fu qu a0) : Keeps fu qu ((@State.spoilPending a0 a1)) := by
  unfold State.spoilPending
  try dsimp only
  repeat' first
    | with_reducible assumption
    | with_reducible apply State.spoilAt_keeps
    | (with_reducible apply Keeps.foldl; intro _ _ _)
    | simp only [Keeps.mk_]
    | intro _
    | split

theorem State.openHoist_keeps {fu : Fuses} {qu : List Instr} (a0) (a1) (h0 : Keeps fu qu a0) : Keeps fu qu ((@State.openHoist a0 a1)) := by
  unfold State.openHoist
  try dsimp only
  repeat' first
    | with_reducible assumption
    | with_reducible apply State.writeSlices_keeps
    | with_reducible apply State.freeSlices_keeps
    | with_reducible apply State.spoilPending_keeps
    | (with_reducible apply Keeps.foldl; intro _ _ _)
    | simp only [Keeps.mk_]
    | intro _
    | split

theorem State.commitStripe_keeps {fu : Fuses} {qu : List Instr} (a0) (a1) (a2) (h0 : Keeps fu qu a0) : Keeps fu qu ((@State.commitStripe a0 a1 a2)) := by
  unfold State.commitStripe
  try dsimp only
  repeat' first
    | with_reducible assumption
    | with_reducible apply State.updHoist_keeps
    | (with_reducible apply Keeps.foldl; intro _ _ _)
    | simp only [Keeps.mk_]
    | intro _
    | split

theorem State.badWord_keeps {fu : Fuses} {qu : List Instr} (a0) (a1) (a2) (a3) (h0 : Keeps fu qu a0) : Keeps fu qu ((@State.badWord a0 a1 a2 a3)) := by
  unfold State.badWord
  try dsimp only
  repeat' first
    | with_reducible assumption
    | with_reducible apply State.spoilLine_keeps
    | with_reducible apply State.fault_keeps
    | with_reducible apply State.hbErr_keeps
    | with_reducible apply State.blankEntries_keeps
    | (with_reducible apply Keeps.foldl; intro _ _ _)
    | simp only [Keeps.mk_]
    | intro _
    | split

theorem State.delayShot_keeps {fu : Fuses} {qu : List Instr} (a0) (a1) (a2) (h0 : Keeps fu qu a0) : Keeps fu qu ((@State.delayShot a0 a1 a2)) := by
  unfold State.delayShot
  try dsimp only
  repeat' first
    | with_reducible assumption
    | with_reducible apply State.fault_keeps
    | with_reducible apply State.badWord_keeps
    | (with_reducible apply Keeps.foldl; intro _ _ _)
    | simp only [Keeps.mk_]
    | intro _
    | split

theorem State.replayBand_keeps {fu : Fuses} {qu : List Instr} (a0) (a1) (a2) (h0 : Keeps fu qu a0) : Keeps fu qu ((@State.replayBand a0 a1 a2)) := by
  unfold State.replayBand
  try dsimp only
  repeat' first
    | with_reducible assumption
    | with_reducible apply State.updHoist_keeps
    | with_reducible apply State.giveReplay_keeps
    | with_reducible apply State.orphans_keeps
    | (with_reducible apply Keeps.foldl; intro _ _ _)
    | simp only [Keeps.mk_]
    | intro _
    | split

theorem State.spoilBlank_keeps {fu : Fuses} {qu : List Instr} (a0) (a1) (a2) (a3) (h0 : Keeps fu qu a0) : Keeps fu qu ((@State.spoilBlank a0 a1 a2 a3)) := by
  unfold State.spoilBlank
  try dsimp only
  repeat' first
    | with_reducible assumption
    | with_reducible apply State.info_keeps
    | with_reducible apply State.mapPage_keeps
    | with_reducible apply State.spoilAt_keeps
    | with_reducible apply State.detect_keeps
    | with_reducible apply State.hbErr_keeps
    | (with_reducible apply Keeps.foldl; intro _ _ _)
    | simp only [Keeps.mk_]
    | intro _
    | split

theorem State.blankRow_keeps {fu : Fuses} {qu : List Instr} (a0) (a1) (a2) (a3) (a4) (h3 : Keeps fu qu a3) : Keeps fu qu ((@State.blankRow a0 a1 a2 a3 a4)) := by
  unfold State.blankRow
  try dsimp only
  repeat' first
    | with_reducible assumption
    | with_reducible apply State.blankEntries_keeps
    | (with_reducible apply Keeps.foldl; intro _ _ _)
    | simp only [Keeps.mk_]
    | intro _
    | split

theorem State.blankStripe_keeps {fu : Fuses} {qu : List Instr} (a0) (a1) (a2) (a3) (h2 : Keeps fu qu a2) : Keeps fu qu ((@State.blankStripe a0 a1 a2 a3)) := by
  unfold State.blankStripe
  try dsimp only
  repeat' first
    | with_reducible assumption
    | with_reducible apply State.blankRow_keeps
    | (with_reducible apply Keeps.foldl; intro _ _ _)
    | simp only [Keeps.mk_]
    | intro _
    | split

theorem State.selectAgain_keeps {fu : Fuses} {qu : List Instr} (a0) (a1) (h0 : Keeps fu qu a0) : Keeps fu qu ((@State.selectAgain a0 a1)) := by
  unfold State.selectAgain
  try dsimp only
  repeat' first
    | with_reducible assumption
    | with_reducible apply State.updHoist_keeps
    | with_reducible apply State.spoilBlank_keeps
    | with_reducible apply State.blankStripe_keeps
    | (with_reducible apply Keeps.foldl; intro _ _ _)
    | simp only [Keeps.mk_]
    | intro _
    | split

theorem State.lineStoreError_keeps {fu : Fuses} {qu : List Instr} (a0) (a1) (h0 : Keeps fu qu a0) : Keeps fu qu ((@State.lineStoreError a0 a1)) := by
  unfold State.lineStoreError
  try dsimp only
  repeat' first
    | with_reducible assumption
    | with_reducible apply State.fault_keeps
    | with_reducible apply State.badWord_keeps
    | with_reducible apply State.replayBand_keeps
    | with_reducible apply State.selectAgain_keeps
    | (with_reducible apply Keeps.foldl; intro _ _ _)
    | simp only [Keeps.mk_]
    | intro _
    | split

theorem State.storeShot_keeps {fu : Fuses} {qu : List Instr} (a0) (a1) (a2) (h0 : Keeps fu qu a0) : Keeps fu qu ((@State.storeShot a0 a1 a2)) := by
  unfold State.storeShot
  try dsimp only
  repeat' first
    | with_reducible assumption
    | with_reducible apply State.lineStoreError_keeps
    | (with_reducible apply Keeps.foldl; intro _ _ _)
    | simp only [Keeps.mk_]
    | intro _
    | split

theorem State.deliver_keeps {fu : Fuses} {qu : List Instr} (a0) (a1) (a2) (a3) (a4) (a5) (h0 : Keeps fu qu a0) : Keeps fu qu ((@State.deliver a0 a1 a2 a3 a4 a5)) := by
  unfold State.deliver
  try dsimp only
  repeat' first
    | with_reducible assumption
    | with_reducible apply State.fault_keeps
    | with_reducible apply State.sendReady_keeps
    | with_reducible apply State.updPennant_keeps
    | with_reducible apply State.orphans_keeps
    | with_reducible apply State.pennantFailed_keeps
    | with_reducible apply State.mapAudit_keeps
    | with_reducible apply State.judgeAudits_keeps
    | with_reducible apply State.judgeShadow_keeps
    | with_reducible apply State.commitStripe_keeps
    | with_reducible apply State.storeShot_keeps
    | (with_reducible apply Keeps.foldl; intro _ _ _)
    | simp only [Keeps.mk_]
    | intro _
    | split

theorem State.updUnit_keeps {fu : Fuses} {qu : List Instr} (a0) (a1) (a2) (h0 : Keeps fu qu a0) : Keeps fu qu ((@State.updUnit a0 a1 a2)) := by
  unfold State.updUnit
  try dsimp only
  repeat' first
    | with_reducible assumption
    | (with_reducible apply Keeps.foldl; intro _ _ _)
    | simp only [Keeps.mk_]
    | intro _
    | split

theorem State.updLane_keeps {fu : Fuses} {qu : List Instr} (a0) (a1) (a2) (h0 : Keeps fu qu a0) : Keeps fu qu ((@State.updLane a0 a1 a2)) := by
  unfold State.updLane
  try dsimp only
  repeat' first
    | with_reducible assumption
    | (with_reducible apply Keeps.foldl; intro _ _ _)
    | simp only [Keeps.mk_]
    | intro _
    | split

theorem State.fenceUnit_keeps {fu : Fuses} {qu : List Instr} (a0) (a1) (a2) (h0 : Keeps fu qu a0) : Keeps fu qu ((@State.fenceUnit a0 a1 a2)) := by
  unfold State.fenceUnit
  try dsimp only
  repeat' first
    | with_reducible assumption
    | with_reducible apply State.mapPage_keeps
    | with_reducible apply State.endReset_keeps
    | with_reducible apply State.updUnit_keeps
    | (with_reducible apply Keeps.foldl; intro _ _ _)
    | simp only [Keeps.mk_]
    | intro _
    | split

theorem State.fenceLane_keeps {fu : Fuses} {qu : List Instr} (a0) (a1) (a2) (h0 : Keeps fu qu a0) : Keeps fu qu ((@State.fenceLane a0 a1 a2)) := by
  unfold State.fenceLane
  try dsimp only
  repeat' first
    | with_reducible assumption
    | with_reducible apply State.assignLanes_keeps
    | with_reducible apply State.updLane_keeps
    | (with_reducible apply Keeps.foldl; intro _ _ _)
    | simp only [Keeps.mk_]
    | intro _
    | split

theorem State.unitFailedAs_keeps {fu : Fuses} {qu : List Instr} (a0) (a1) (h0 : Keeps fu qu a0) : Keeps fu qu ((@State.unitFailedAs a0 a1)) := by
  unfold State.unitFailedAs
  try dsimp only
  repeat' first
    | with_reducible assumption
    | with_reducible apply State.detect_keeps
    | with_reducible apply State.unlessShadowed_keeps
    | with_reducible apply State.fenceUnit_keeps
    | (with_reducible apply Keeps.foldl; intro _ _ _)
    | simp only [Keeps.mk_]
    | intro _
    | split

theorem State.laneFailedAs_keeps {fu : Fuses} {qu : List Instr} (a0) (a1) (h0 : Keeps fu qu a0) : Keeps fu qu ((@State.laneFailedAs a0 a1)) := by
  unfold State.laneFailedAs
  try dsimp only
  repeat' first
    | with_reducible assumption
    | with_reducible apply State.detect_keeps
    | with_reducible apply State.unlessShadowed_keeps
    | with_reducible apply State.fenceLane_keeps
    | (with_reducible apply Keeps.foldl; intro _ _ _)
    | simp only [Keeps.mk_]
    | intro _
    | split

theorem State.issueReset_keeps {fu : Fuses} {qu : List Instr} (a0) (a1) (a2) (a3) (a4) (h0 : Keeps fu qu a0) : Keeps fu qu ((@State.issueReset a0 a1 a2 a3 a4)) := by
  unfold State.issueReset
  try dsimp only
  repeat' first
    | with_reducible assumption
    | with_reducible apply State.openWindow_keeps
    | with_reducible apply State.dropInjections_keeps
    | (with_reducible apply Keeps.foldl; intro _ _ _)
    | simp only [Keeps.mk_]
    | intro _
    | split

theorem State.resetPennant_keeps {fu : Fuses} {qu : List Instr} (a0) (a1) (a2) (h0 : Keeps fu qu a0) : Keeps fu qu ((@State.resetPennant a0 a1 a2)) := by
  unfold State.resetPennant
  try dsimp only
  repeat' first
    | with_reducible assumption
    | with_reducible apply State.updPennant_keeps
    | with_reducible apply State.issueReset_keeps
    | (with_reducible apply Keeps.foldl; intro _ _ _)
    | simp only [Keeps.mk_]
    | intro _
    | split

theorem State.resetDecompressor_keeps {fu : Fuses} {qu : List Instr} (a0) (a1) (a2) (h0 : Keeps fu qu a0) : Keeps fu qu ((@State.resetDecompressor a0 a1 a2)) := by
  unfold State.resetDecompressor
  try dsimp only
  repeat' first
    | with_reducible assumption
    | with_reducible apply State.updUnit_keeps
    | with_reducible apply State.issueReset_keeps
    | (with_reducible apply Keeps.foldl; intro _ _ _)
    | simp only [Keeps.mk_]
    | intro _
    | split

theorem State.resetLane_keeps {fu : Fuses} {qu : List Instr} (a0) (a1) (a2) (h0 : Keeps fu qu a0) : Keeps fu qu ((@State.resetLane a0 a1 a2)) := by
  unfold State.resetLane
  try dsimp only
  repeat' first
    | with_reducible assumption
    | with_reducible apply State.updLane_keeps
    | with_reducible apply State.issueReset_keeps
    | (with_reducible apply Keeps.foldl; intro _ _ _)
    | simp only [Keeps.mk_]
    | intro _
    | split

theorem State.blockReset_keeps {fu : Fuses} {qu : List Instr} (a0) (a1) (h0 : Keeps fu qu a0) : Keeps fu qu ((@State.blockReset a0 a1)) := by
  unfold State.blockReset
  try dsimp only
  repeat' first
    | with_reducible assumption
    | with_reducible apply State.updAxis_keeps
    | with_reducible apply State.endReset_keeps
    | with_reducible apply State.updPennant_keeps
    | with_reducible apply State.updUnit_keeps
    | with_reducible apply State.updLane_keeps
    | (with_reducible apply Keeps.foldl; intro _ _ _)
    | simp only [Keeps.mk_]
    | intro _
    | split

theorem State.unitMismatchAs_keeps {fu : Fuses} {qu : List Instr} (a0) (a1) (h0 : Keeps fu qu a0) : Keeps fu qu ((@State.unitMismatchAs a0 a1)) := by
  unfold State.unitMismatchAs
  try dsimp only
  repeat' first
    | with_reducible assumption
    | with_reducible apply State.detect_keeps
    | with_reducible apply State.unlessShadowed_keeps
    | with_reducible apply State.endReset_keeps
    | with_reducible apply State.updUnit_keeps
    | (with_reducible apply Keeps.foldl; intro _ _ _)
    | simp only [Keeps.mk_]
    | intro _
    | split

theorem State.laneMismatchAs_keeps {fu : Fuses} {qu : List Instr} (a0) (a1) (h0 : Keeps fu qu a0) : Keeps fu qu ((@State.laneMismatchAs a0 a1)) := by
  unfold State.laneMismatchAs
  try dsimp only
  repeat' first
    | with_reducible assumption
    | with_reducible apply State.detect_keeps
    | with_reducible apply State.unlessShadowed_keeps
    | with_reducible apply State.updLane_keeps
    | (with_reducible apply Keeps.foldl; intro _ _ _)
    | simp only [Keeps.mk_]
    | intro _
    | split

theorem State.joinPennant_keeps {fu : Fuses} {qu : List Instr} (a0) (a1) (h0 : Keeps fu qu a0) : Keeps fu qu ((@State.joinPennant a0 a1)) := by
  unfold State.joinPennant
  try dsimp only
  repeat' first
    | with_reducible assumption
    | with_reducible apply State.endReset_keeps
    | with_reducible apply State.updPennant_keeps
    | (with_reducible apply Keeps.foldl; intro _ _ _)
    | simp only [Keeps.mk_]
    | intro _
    | split

theorem State.joinUnit_keeps {fu : Fuses} {qu : List Instr} (a0) (a1) (h0 : Keeps fu qu a0) : Keeps fu qu ((@State.joinUnit a0 a1)) := by
  unfold State.joinUnit
  try dsimp only
  repeat' first
    | with_reducible assumption
    | with_reducible apply State.endReset_keeps
    | with_reducible apply State.updUnit_keeps
    | (with_reducible apply Keeps.foldl; intro _ _ _)
    | simp only [Keeps.mk_]
    | intro _
    | split

theorem State.joinLane_keeps {fu : Fuses} {qu : List Instr} (a0) (a1) (h0 : Keeps fu qu a0) : Keeps fu qu ((@State.joinLane a0 a1)) := by
  unfold State.joinLane
  try dsimp only
  repeat' first
    | with_reducible assumption
    | with_reducible apply State.assignLanes_keeps
    | with_reducible apply State.updLane_keeps
    | (with_reducible apply Keeps.foldl; intro _ _ _)
    | simp only [Keeps.mk_]
    | intro _
    | split

theorem State.shadowTick_keeps {fu : Fuses} {qu : List Instr} (a0) (h0 : Keeps fu qu a0) : Keeps fu qu ((@State.shadowTick a0)) := by
  unfold State.shadowTick
  try dsimp only
  repeat' first
    | with_reducible assumption
    | with_reducible apply State.joinPennant_keeps
    | with_reducible apply State.joinUnit_keeps
    | with_reducible apply State.joinLane_keeps
    | (with_reducible apply Keeps.foldl; intro _ _ _)
    | simp only [Keeps.mk_]
    | intro _
    | split

theorem State.dueHoist_keeps {fu : Fuses} {qu : List Instr} (a0) (a1) (h0 : Keeps fu qu a0) : Keeps fu qu ((@State.dueHoist a0 a1)) := by
  unfold State.dueHoist
  try dsimp only
  repeat' first
    | with_reducible assumption
    | with_reducible apply State.updHoist_keeps
    | with_reducible apply State.dropAudits_keeps
    | with_reducible apply State.spoilBlank_keeps
    | (with_reducible apply Keeps.foldl; intro _ _ _)
    | simp only [Keeps.mk_]
    | intro _
    | split

theorem State.resolveDelays_keeps {fu : Fuses} {qu : List Instr} (a0) (h0 : Keeps fu qu a0) : Keeps fu qu ((@State.resolveDelays a0)) := by
  unfold State.resolveDelays
  try dsimp only
  repeat' first
    | with_reducible assumption
    | (with_reducible apply Keeps.foldl; intro _ _ _)
    | simp only [Keeps.mk_]
    | intro _
    | split

theorem State.foldChanges_keeps {fu : Fuses} {qu : List Instr} : ∀ (n : Nat) (s : State), Keeps fu qu s → Keeps fu qu (State.foldChanges n s)
  | 0, _, h => h
  | n + 1, s, h => by
    unfold State.foldChanges
    split
    · exact h
    · split
      · exact State.foldChanges_keeps n _ (by simp only [Keeps.mk_]; exact h)
      · exact h

theorem State.settleDelays_keeps {fu : Fuses} {qu : List Instr} (a0) (h0 : Keeps fu qu a0) : Keeps fu qu ((@State.settleDelays a0)) := by
  unfold State.settleDelays
  try dsimp only
  repeat' first
    | with_reducible assumption
    | with_reducible apply State.finish_keeps
    | with_reducible apply State.foldChanges_keeps
    | (with_reducible apply Keeps.foldl; intro _ _ _)
    | simp only [Keeps.mk_]
    | intro _
    | split

theorem State.changeDelays_keeps {fu : Fuses} {qu : List Instr} (a0) (a1) (a2) (a3) (a4) (h0 : Keeps fu qu a0) : Keeps fu qu ((@State.changeDelays a0 a1 a2 a3 a4)) := by
  unfold State.changeDelays
  try dsimp only
  repeat' first
    | with_reducible assumption
    | with_reducible apply State.finish_keeps
    | with_reducible apply State.recomputeDelays_keeps
    | with_reducible apply State.resolveDelays_keeps
    | (with_reducible apply Keeps.foldl; intro _ _ _)
    | simp only [Keeps.mk_]
    | intro _
    | split

theorem State.raiseLead_keeps {fu : Fuses} {qu : List Instr} (a0) (a1) (h0 : Keeps fu qu a0) : Keeps fu qu ((@State.raiseLead a0 a1)) := by
  unfold State.raiseLead
  try dsimp only
  repeat' first
    | with_reducible assumption
    | (with_reducible apply Keeps.foldl; intro _ _ _)
    | simp only [Keeps.mk_]
    | intro _
    | split

theorem State.forget_keeps {fu : Fuses} {qu : List Instr} (a0) (a1) (a2) (h0 : Keeps fu qu a0) : Keeps fu qu ((@State.forget a0 a1 a2)) := by
  unfold State.forget
  try dsimp only
  repeat' first
    | with_reducible assumption
    | with_reducible apply State.updPort_keeps
    | (with_reducible apply Keeps.foldl; intro _ _ _)
    | simp only [Keeps.mk_]
    | intro _
    | split

theorem State.slowEvents_keeps {fu : Fuses} {qu : List Instr} (a0) (a1) (a2) (a3) (h0 : Keeps fu qu a0) : Keeps fu qu ((@State.slowEvents a0 a1 a2 a3)) := by
  unfold State.slowEvents
  try dsimp only
  repeat' first
    | with_reducible assumption
    | with_reducible apply State.info_keeps
    | (with_reducible apply Keeps.foldl; intro _ _ _)
    | simp only [Keeps.mk_]
    | intro _
    | split

theorem State.missRow_keeps {fu : Fuses} {qu : List Instr} (a0) (a1) (h0 : Keeps fu qu a0) : Keeps fu qu ((@State.missRow a0 a1)) := by
  unfold State.missRow
  try dsimp only
  repeat' first
    | with_reducible assumption
    | with_reducible apply State.spoilLine_keeps
    | with_reducible apply State.forget_keeps
    | with_reducible apply State.slowEvents_keeps
    | (with_reducible apply Keeps.foldl; intro _ _ _)
    | simp only [Keeps.mk_]
    | intro _
    | split

theorem State.missPassed_keeps {fu : Fuses} {qu : List Instr} (a0) (h0 : Keeps fu qu a0) : Keeps fu qu ((@State.missPassed a0)) := by
  unfold State.missPassed
  try dsimp only
  repeat' first
    | with_reducible assumption
    | with_reducible apply State.missRow_keeps
    | (with_reducible apply Keeps.foldl; intro _ _ _)
    | simp only [Keeps.mk_]
    | intro _
    | split

theorem State.tellEnded_keeps {fu : Fuses} {qu : List Instr} (a0) (h0 : Keeps fu qu a0) : Keeps fu qu ((@State.tellEnded a0)) := by
  unfold State.tellEnded
  try dsimp only
  repeat' first
    | with_reducible assumption
    | with_reducible apply State.tellGathered_keeps
    | with_reducible apply State.tellPage_keeps
    | (with_reducible apply Keeps.foldl; intro _ _ _)
    | simp only [Keeps.mk_]
    | intro _
    | split

theorem State.writeDelay_keeps {fu : Fuses} {qu : List Instr} (a0) (a1) (a2) (h0 : Keeps fu qu a0) : Keeps fu qu ((@State.writeDelay a0 a1 a2)) := by
  unfold State.writeDelay
  try dsimp only
  repeat' first
    | with_reducible assumption
    | (with_reducible apply Keeps.foldl; intro _ _ _)
    | simp only [Keeps.mk_]
    | intro _
    | split

theorem State.skipLine_keeps {fu : Fuses} {qu : List Instr} (a0) (a1) (a2) (a3) (h0 : Keeps fu qu a0) : Keeps fu qu ((@State.skipLine a0 a1 a2 a3)) := by
  unfold State.skipLine
  try dsimp only
  repeat' first
    | with_reducible assumption
    | with_reducible apply State.spoilLine_keeps
    | with_reducible apply State.blankEntries_keeps
    | (with_reducible apply Keeps.foldl; intro _ _ _)
    | simp only [Keeps.mk_]
    | intro _
    | split

theorem State.queueRow_keeps {fu : Fuses} {qu : List Instr} (a0) (a1) (a2) (a3) (h0 : Keeps fu qu a0) : Keeps fu qu ((@State.queueRow a0 a1 a2 a3)) := by
  unfold State.queueRow
  try dsimp only
  repeat' first
    | with_reducible assumption
    | with_reducible apply State.readOut_keeps
    | (with_reducible apply Keeps.foldl; intro _ _ _)
    | simp only [Keeps.mk_]
    | intro _
    | split

theorem State.stepRow_keeps {fu : Fuses} {qu : List Instr} (a0) (a1) (a2) (a3) (h0 : Keeps fu qu a0) : Keeps fu qu ((@State.stepRow a0 a1 a2 a3)) := by
  unfold State.stepRow
  try dsimp only
  repeat' first
    | with_reducible assumption
    | with_reducible apply State.badWord_keeps
    | with_reducible apply State.delayShot_keeps
    | with_reducible apply State.writeDelay_keeps
    | with_reducible apply State.skipLine_keeps
    | with_reducible apply State.queueRow_keeps
    | (with_reducible apply Keeps.foldl; intro _ _ _)
    | simp only [Keeps.mk_]
    | intro _
    | split

theorem State.passLegacy_keeps {fu : Fuses} {qu : List Instr} (a0) (h0 : Keeps fu qu a0) : Keeps fu qu ((@State.passLegacy a0)) := by
  unfold State.passLegacy
  try dsimp only
  repeat' first
    | with_reducible assumption
    | with_reducible apply State.hbIrq_keeps
    | (with_reducible apply Keeps.foldl; intro _ _ _)
    | simp only [Keeps.mk_]
    | intro _
    | split

theorem State.settleWeb_keeps {fu : Fuses} {qu : List Instr} (a0) (h0 : Keeps fu qu a0) : Keeps fu qu ((@State.settleWeb a0)) := by
  unfold State.settleWeb
  try dsimp only
  repeat' first
    | with_reducible assumption
    | with_reducible apply State.settleFired_keeps
    | with_reducible apply State.settleDisarm_keeps
    | with_reducible apply State.settleRetire_keeps
    | with_reducible apply State.startHeadResets_keeps
    | with_reducible apply State.retryWaiting_keeps
    | with_reducible apply State.settleShutdown_keeps
    | with_reducible apply State.placeLines_keeps
    | with_reducible apply State.settleDelays_keeps
    | with_reducible apply State.tellEnded_keeps
    | (with_reducible apply Keeps.foldl; intro _ _ _)
    | simp only [Keeps.mk_]
    | intro _
    | split

theorem State.sendFire_keeps {fu : Fuses} {qu : List Instr} (a0) (a1) (a2) (a3) (a4) (h0 : Keeps fu qu a0) : Keeps fu qu ((@State.sendFire a0 a1 a2 a3 a4)) := by
  unfold State.sendFire
  try dsimp only
  repeat' first
    | with_reducible assumption
    | with_reducible apply State.emit_keeps
    | with_reducible apply State.updPort_keeps
    | with_reducible apply State.sendHead_keeps
    | (with_reducible apply Keeps.foldl; intro _ _ _)
    | simp only [Keeps.mk_]
    | intro _
    | split

theorem State.commit_keeps {fu : Fuses} {qu : List Instr} (a0) (a1) (a2) (h0 : Keeps fu qu a0) : Keeps fu qu ((@State.commit a0 a1 a2)) := by
  unfold State.commit
  try dsimp only
  repeat' first
    | with_reducible assumption
    | with_reducible apply State.sendFire_keeps
    | (with_reducible apply Keeps.foldl; intro _ _ _)
    | simp only [Keeps.mk_]
    | intro _
    | split

theorem State.fireRow_keeps {fu : Fuses} {qu : List Instr} (a0) (a1) (h0 : Keeps fu qu a0) : Keeps fu qu ((@State.fireRow a0 a1)) := by
  unfold State.fireRow
  try dsimp only
  repeat' first
    | with_reducible assumption
    | with_reducible apply State.fault_keeps
    | with_reducible apply State.updPort_keeps
    | with_reducible apply State.forget_keeps
    | (with_reducible apply Keeps.foldl; intro _ _ _)
    | simp only [Keeps.mk_]
    | intro _
    | split

theorem State.sendTick_keeps {fu : Fuses} {qu : List Instr} (a0) (a1) (a2) (h0 : Keeps fu qu a0) : Keeps fu qu ((@State.sendTick a0 a1 a2)) := by
  unfold State.sendTick
  try dsimp only
  repeat' first
    | with_reducible assumption
    | with_reducible apply State.updPort_keeps
    | with_reducible apply State.sendHead_keeps
    | with_reducible apply State.fencePort_keeps
    | (with_reducible apply Keeps.foldl; intro _ _ _)
    | simp only [Keeps.mk_]
    | intro _
    | split

theorem State.switchWave_keeps {fu : Fuses} {qu : List Instr} (a0) (a1) (h0 : Keeps fu qu a0) : Keeps fu qu ((@State.switchWave a0 a1)) := by
  unfold State.switchWave
  try dsimp only
  repeat' first
    | with_reducible assumption
    | with_reducible apply State.finish_keeps
    | with_reducible apply State.updPort_keeps
    | (with_reducible apply Keeps.foldl; intro _ _ _)
    | simp only [Keeps.mk_]
    | intro _
    | split

theorem State.legacyTemp_keeps {fu : Fuses} {qu : List Instr} (a0) (a1) (h0 : Keeps fu qu a0) : Keeps fu qu ((@State.legacyTemp a0 a1)) := by
  unfold State.legacyTemp
  try dsimp only
  repeat' first
    | with_reducible assumption
    | with_reducible apply State.updPort_keeps
    | with_reducible apply State.drive_keeps
    | (with_reducible apply Keeps.foldl; intro _ _ _)
    | simp only [Keeps.mk_]
    | intro _
    | split

theorem State.settleHeadResets_keeps {fu : Fuses} {qu : List Instr} (a0) (h0 : Keeps fu qu a0) : Keeps fu qu ((@State.settleHeadResets a0)) := by
  unfold State.settleHeadResets
  try dsimp only
  repeat' first
    | with_reducible assumption
    | with_reducible apply State.updPort_keeps
    | with_reducible apply State.endReset_keeps
    | (with_reducible apply Keeps.foldl; intro _ _ _)
    | simp only [Keeps.mk_]
    | intro _
    | split

theorem State.joinPort_keeps {fu : Fuses} {qu : List Instr} (a0) (a1) (h0 : Keeps fu qu a0) : Keeps fu qu ((@State.joinPort a0 a1)) := by
  unfold State.joinPort
  try dsimp only
  repeat' first
    | with_reducible assumption
    | with_reducible apply State.updPort_keeps
    | with_reducible apply State.serve_keeps
    | (with_reducible apply Keeps.foldl; intro _ _ _)
    | simp only [Keeps.mk_]
    | intro _
    | split

theorem State.portTick_keeps {fu : Fuses} {qu : List Instr} (a0) (a1) (a2) (h0 : Keeps fu qu a0) : Keeps fu qu ((@State.portTick a0 a1 a2)) := by
  unfold State.portTick
  try dsimp only
  repeat' first
    | with_reducible assumption
    | with_reducible apply State.updPort_keeps
    | with_reducible apply State.joinShadow_keeps
    | with_reducible apply State.tickPredictor_keeps
    | with_reducible apply State.sendTick_keeps
    | with_reducible apply State.switchWave_keeps
    | with_reducible apply State.legacyTemp_keeps
    | with_reducible apply State.joinPort_keeps
    | (with_reducible apply Keeps.foldl; intro _ _ _)
    | simp only [Keeps.mk_]
    | intro _
    | split

theorem State.closePeriod_keeps {fu : Fuses} {qu : List Instr} (a0) (a1) (a2) (h0 : Keeps fu qu a0) : Keeps fu qu ((@State.closePeriod a0 a1 a2)) := by
  unfold State.closePeriod
  try dsimp only
  repeat' first
    | with_reducible assumption
    | with_reducible apply State.sdramRequests_keeps
    | (with_reducible apply Keeps.foldl; intro _ _ _)
    | simp only [Keeps.mk_]
    | intro _
    | split

theorem State.losePeriod_keeps {fu : Fuses} {qu : List Instr} (a0) (a1) (h0 : Keeps fu qu a0) : Keeps fu qu ((@State.losePeriod a0 a1)) := by
  unfold State.losePeriod
  try dsimp only
  repeat' first
    | with_reducible assumption
    | (with_reducible apply Keeps.foldl; intro _ _ _)
    | simp only [Keeps.mk_]
    | intro _
    | split

theorem State.openPeriod_keeps {fu : Fuses} {qu : List Instr} (a0) (a1) (a2) (h0 : Keeps fu qu a0) : Keeps fu qu ((@State.openPeriod a0 a1 a2)) := by
  unfold State.openPeriod
  try dsimp only
  repeat' first
    | with_reducible assumption
    | (with_reducible apply Keeps.foldl; intro _ _ _)
    | simp only [Keeps.mk_]
    | intro _
    | split

theorem State.blankHoist_keeps {fu : Fuses} {qu : List Instr} (a0) (a1) (h0 : Keeps fu qu a0) : Keeps fu qu ((@State.blankHoist a0 a1)) := by
  unfold State.blankHoist
  try dsimp only
  repeat' first
    | with_reducible assumption
    | with_reducible apply State.blankStripe_keeps
    | (with_reducible apply Keeps.foldl; intro _ _ _)
    | simp only [Keeps.mk_]
    | intro _
    | split

theorem State.tickHoists_keeps {fu : Fuses} {qu : List Instr} (a0) (a1) (h0 : Keeps fu qu a0) : Keeps fu qu ((@State.tickHoists a0 a1)) := by
  unfold State.tickHoists
  try dsimp only
  repeat' first
    | with_reducible assumption
    | with_reducible apply State.sendReady_keeps
    | with_reducible apply State.judgeShadows_keeps
    | with_reducible apply State.openHoist_keeps
    | with_reducible apply State.dueHoist_keeps
    | with_reducible apply State.blankHoist_keeps
    | (with_reducible apply Keeps.foldl; intro _ _ _)
    | simp only [Keeps.mk_]
    | intro _
    | split

theorem State.tickWork_keeps {fu : Fuses} {qu : List Instr} (a0) (a1) (h0 : Keeps fu qu a0) : Keeps fu qu ((@State.tickWork a0 a1)) := by
  unfold State.tickWork
  try dsimp only
  repeat' first
    | with_reducible assumption
    | with_reducible apply State.govern_keeps
    | with_reducible apply State.linksTick_keeps
    | with_reducible apply State.shadowTick_keeps
    | with_reducible apply State.resolveDelays_keeps
    | with_reducible apply State.settleWeb_keeps
    | with_reducible apply State.settleHeadResets_keeps
    | with_reducible apply State.portTick_keeps
    | with_reducible apply State.closePeriod_keeps
    | with_reducible apply State.losePeriod_keeps
    | with_reducible apply State.openPeriod_keeps
    | with_reducible apply State.tickHoists_keeps
    | (with_reducible apply Keeps.foldl; intro _ _ _)
    | simp only [Keeps.mk_]
    | intro _
    | split

theorem State.zeroTick_keeps {fu : Fuses} {qu : List Instr} (a0) (h0 : Keeps fu qu a0) : Keeps fu qu ((@State.zeroTick a0)) := by
  unfold State.zeroTick
  try dsimp only
  repeat' first
    | with_reducible assumption
    | with_reducible apply State.tickWork_keeps
    | (with_reducible apply Keeps.foldl; intro _ _ _)
    | simp only [Keeps.mk_]
    | intro _
    | split

theorem State.checkPrintPosition_keeps {fu : Fuses} {qu : List Instr} (a0) (h0 : Keeps fu qu a0) : Keeps fu qu ((@State.checkPrintPosition a0)) := by
  unfold State.checkPrintPosition
  try dsimp only
  repeat' first
    | with_reducible assumption
    | with_reducible apply State.disarmNow_keeps
    | with_reducible apply State.settleDisarm_keeps
    | with_reducible apply State.fault_keeps
    | (with_reducible apply Keeps.foldl; intro _ _ _)
    | simp only [Keeps.mk_]
    | intro _
    | split

theorem State.afterEdge_keeps {fu : Fuses} {qu : List Instr} (a0) (h0 : Keeps fu qu a0) : Keeps fu qu ((@State.afterEdge a0)) := by
  unfold State.afterEdge
  try dsimp only
  repeat' first
    | with_reducible assumption
    | with_reducible apply State.advance_keeps
    | with_reducible apply State.checkOverspeed_keeps
    | with_reducible apply State.checkHeadRate_keeps
    | with_reducible apply State.predictAll_keeps
    | with_reducible apply State.tryArm_keeps
    | with_reducible apply State.tellEnded_keeps
    | (with_reducible apply Keeps.foldl; intro _ _ _)
    | simp only [Keeps.mk_]
    | intro _
    | split

theorem State.countIllegal_keeps {fu : Fuses} {qu : List Instr} (a0) (h0 : Keeps fu qu a0) : Keeps fu qu ((@State.countIllegal a0)) := by
  unfold State.countIllegal
  try dsimp only
  repeat' first
    | with_reducible assumption
    | with_reducible apply State.fault_keeps
    | with_reducible apply State.stopFiring_keeps
    | with_reducible apply State.hbErr_keeps
    | (with_reducible apply Keeps.foldl; intro _ _ _)
    | simp only [Keeps.mk_]
    | intro _
    | split

theorem State.updCmp_keeps {fu : Fuses} {qu : List Instr} (a0) (a1) (a2) (h0 : Keeps fu qu a0) : Keeps fu qu ((@State.updCmp a0 a1 a2)) := by
  unfold State.updCmp
  try dsimp only
  repeat' first
    | with_reducible assumption
    | (with_reducible apply Keeps.foldl; intro _ _ _)
    | simp only [Keeps.mk_]
    | intro _
    | split

theorem State.setPin_keeps {fu : Fuses} {qu : List Instr} (a0) (a1) (h0 : Keeps fu qu a0) : Keeps fu qu ((@State.setPin a0 a1)) := by
  unfold State.setPin
  try dsimp only
  repeat' first
    | with_reducible assumption
    | with_reducible apply State.emit_keeps
    | (with_reducible apply Keeps.foldl; intro _ _ _)
    | simp only [Keeps.mk_]
    | intro _
    | split

theorem State.placeTied_keeps {fu : Fuses} {qu : List Instr} (a0) (a1) (h0 : Keeps fu qu a0) : Keeps fu qu ((@State.placeTied a0 a1)) := by
  unfold State.placeTied
  try dsimp only
  repeat' first
    | with_reducible assumption
    | with_reducible apply State.placeCompare_keeps
    | (with_reducible apply Keeps.foldl; intro _ _ _)
    | simp only [Keeps.mk_]
    | intro _
    | split

theorem State.takeSetting_keeps {fu : Fuses} {qu : List Instr} (a0) (a1) (a2) (h0 : Keeps fu qu a0) : Keeps fu qu ((@State.takeSetting a0 a1 a2)) := by
  unfold State.takeSetting
  try dsimp only
  repeat' first
    | with_reducible assumption
    | with_reducible apply State.interrupt_keeps
    | with_reducible apply State.finish_keeps
    | with_reducible apply State.setRunning_keeps
    | with_reducible apply State.updCmp_keeps
    | with_reducible apply State.setPin_keeps
    | with_reducible apply State.placeTied_keeps
    | (with_reducible apply Keeps.foldl; intro _ _ _)
    | simp only [Keeps.mk_]
    | intro _
    | split

theorem State.takeNext_keeps {fu : Fuses} {qu : List Instr} : ∀ (n : Nat) (s : State) (u : Nat), Keeps fu qu s → Keeps fu qu (State.takeNext n s u)
  | 0, _, _, h => h
  | n + 1, s, u, h => by
    unfold State.takeNext
    split
    · exact h
    · split
      · exact h
      · exact State.takeNext_keeps n _ u (State.takeSetting_keeps _ _ _ (State.updCmp_keeps _ _ _ h))

theorem State.pulse_keeps {fu : Fuses} {qu : List Instr} (a0) (a1) (h0 : Keeps fu qu a0) : Keeps fu qu ((@State.pulse a0 a1)) := by
  unfold State.pulse
  try dsimp only
  repeat' first
    | with_reducible assumption
    | with_reducible apply State.freeBit_keeps
    | with_reducible apply State.emit_keeps
    | (with_reducible apply Keeps.foldl; intro _ _ _)
    | simp only [Keeps.mk_]
    | intro _
    | split

theorem State.fireUnit_keeps {fu : Fuses} {qu : List Instr} (a0) (a1) (h0 : Keeps fu qu a0) : Keeps fu qu ((@State.fireUnit a0 a1)) := by
  unfold State.fireUnit
  try dsimp only
  repeat' first
    | with_reducible assumption
    | with_reducible apply State.interrupt_keeps
    | with_reducible apply State.finish_keeps
    | with_reducible apply State.updCmp_keeps
    | with_reducible apply State.placeTied_keeps
    | with_reducible apply State.takeNext_keeps
    | with_reducible apply State.pulse_keeps
    | (with_reducible apply Keeps.foldl; intro _ _ _)
    | simp only [Keeps.mk_]
    | intro _
    | split

theorem State.beginMotion_keeps {fu : Fuses} {qu : List Instr} (a0) (a1) (a2) (h0 : Keeps fu qu a0) : Keeps fu qu ((@State.beginMotion a0 a1 a2)) := by
  unfold State.beginMotion
  try dsimp only
  repeat' first
    | with_reducible assumption
    | with_reducible apply State.updAxis_keeps
    | with_reducible apply State.finishAxis_keeps
    | (with_reducible apply Keeps.foldl; intro _ _ _)
    | simp only [Keeps.mk_]
    | intro _
    | split

theorem State.homeStop_keeps {fu : Fuses} {qu : List Instr} (a0) (a1) (a2) (h0 : Keeps fu qu a0) : Keeps fu qu ((@State.homeStop a0 a1 a2)) := by
  unfold State.homeStop
  try dsimp only
  repeat' first
    | with_reducible assumption
    | with_reducible apply State.updAxis_keeps
    | (with_reducible apply Keeps.foldl; intro _ _ _)
    | simp only [Keeps.mk_]
    | intro _
    | split

theorem State.takeStaged_keeps {fu : Fuses} {qu : List Instr} (a0) (a1) (h0 : Keeps fu qu a0) : Keeps fu qu ((@State.takeStaged a0 a1)) := by
  unfold State.takeStaged
  try dsimp only
  repeat' first
    | with_reducible assumption
    | with_reducible apply State.updAxis_keeps
    | with_reducible apply State.rampStop_keeps
    | (with_reducible apply Keeps.foldl; intro _ _ _)
    | simp only [Keeps.mk_]
    | intro _
    | split

theorem State.foundHome_keeps {fu : Fuses} {qu : List Instr} (a0) (a1) (a2) (h0 : Keeps fu qu a0) : Keeps fu qu ((@State.foundHome a0 a1 a2)) := by
  unfold State.foundHome
  try dsimp only
  repeat' first
    | with_reducible assumption
    | with_reducible apply State.updAxis_keeps
    | with_reducible apply State.homeStop_keeps
    | (with_reducible apply Keeps.foldl; intro _ _ _)
    | simp only [Keeps.mk_]
    | intro _
    | split

theorem State.beginSearch_keeps {fu : Fuses} {qu : List Instr} (a0) (a1) (a2) (h0 : Keeps fu qu a0) : Keeps fu qu ((@State.beginSearch a0 a1 a2)) := by
  unfold State.beginSearch
  try dsimp only
  repeat' first
    | with_reducible assumption
    | with_reducible apply State.beginMotion_keeps
    | with_reducible apply State.foundHome_keeps
    | (with_reducible apply Keeps.foldl; intro _ _ _)
    | simp only [Keeps.mk_]
    | intro _
    | split

theorem State.motionDone_keeps {fu : Fuses} {qu : List Instr} (a0) (a1) (a2) (h0 : Keeps fu qu a0) : Keeps fu qu ((@State.motionDone a0 a1 a2)) := by
  unfold State.motionDone
  try dsimp only
  repeat' first
    | with_reducible assumption
    | with_reducible apply State.updAxis_keeps
    | with_reducible apply State.endMotion_keeps
    | with_reducible apply State.takeStaged_keeps
    | with_reducible apply State.beginSearch_keeps
    | (with_reducible apply Keeps.foldl; intro _ _ _)
    | simp only [Keeps.mk_]
    | intro _
    | split

theorem State.axisFaultAs_keeps {fu : Fuses} {qu : List Instr} (a0) (a1) (h0 : Keeps fu qu a0) : Keeps fu qu ((@State.axisFaultAs a0 a1)) := by
  unfold State.axisFaultAs
  try dsimp only
  repeat' first
    | with_reducible assumption
    | with_reducible apply State.updAxis_keeps
    | with_reducible apply State.rampStop_keeps
    | with_reducible apply State.detect_keeps
    | with_reducible apply State.unlessShadowed_keeps
    | with_reducible apply State.checkPrintPosition_keeps
    | (with_reducible apply Keeps.foldl; intro _ _ _)
    | simp only [Keeps.mk_]
    | intro _
    | split

theorem State.axisFault_keeps {fu : Fuses} {qu : List Instr} (a0) (a1) (a2) (h0 : Keeps fu qu a0) : Keeps fu qu ((@State.axisFault a0 a1 a2)) := by
  unfold State.axisFault
  try dsimp only
  repeat' first
    | with_reducible assumption
    | with_reducible apply State.axisFaultAs_keeps
    | (with_reducible apply Keeps.foldl; intro _ _ _)
    | simp only [Keeps.mk_]
    | intro _
    | split

theorem State.applyLimit_keeps {fu : Fuses} {qu : List Instr} (a0) (a1) (h0 : Keeps fu qu a0) : Keeps fu qu ((@State.applyLimit a0 a1)) := by
  unfold State.applyLimit
  try dsimp only
  repeat' first
    | with_reducible assumption
    | with_reducible apply State.rampStop_keeps
    | with_reducible apply State.hardStop_keeps
    | (with_reducible apply Keeps.foldl; intro _ _ _)
    | simp only [Keeps.mk_]
    | intro _
    | split

theorem State.checkFollowing_keeps {fu : Fuses} {qu : List Instr} (a0) (a1) (h0 : Keeps fu qu a0) : Keeps fu qu ((@State.checkFollowing a0 a1)) := by
  unfold State.checkFollowing
  try dsimp only
  repeat' first
    | with_reducible assumption
    | with_reducible apply State.updAxis_keeps
    | with_reducible apply State.axisFault_keeps
    | (with_reducible apply Keeps.foldl; intro _ _ _)
    | simp only [Keeps.mk_]
    | intro _
    | split

theorem State.nextSetPoint_keeps {fu : Fuses} {qu : List Instr} (a0) (a1) (h0 : Keeps fu qu a0) : Keeps fu qu ((@State.nextSetPoint a0 a1)) := by
  unfold State.nextSetPoint
  try dsimp only
  repeat' first
    | with_reducible assumption
    | with_reducible apply State.updAxis_keeps
    | (with_reducible apply Keeps.foldl; intro _ _ _)
    | simp only [Keeps.mk_]
    | intro _
    | split

theorem State.servoTick_keeps {fu : Fuses} {qu : List Instr} (a0) (a1) (h0 : Keeps fu qu a0) : Keeps fu qu ((@State.servoTick a0 a1)) := by
  unfold State.servoTick
  try dsimp only
  repeat' first
    | with_reducible assumption
    | with_reducible apply State.takeStaged_keeps
    | with_reducible apply State.motionDone_keeps
    | with_reducible apply State.applyLimit_keeps
    | with_reducible apply State.checkFollowing_keeps
    | with_reducible apply State.nextSetPoint_keeps
    | (with_reducible apply Keeps.foldl; intro _ _ _)
    | simp only [Keeps.mk_]
    | intro _
    | split

theorem State.sendSlot_keeps {fu : Fuses} {qu : List Instr} (a0) (a1) (a2) (h0 : Keeps fu qu a0) : Keeps fu qu ((@State.sendSlot a0 a1 a2)) := by
  unfold State.sendSlot
  try dsimp only
  repeat' first
    | with_reducible assumption
    | with_reducible apply State.emit_keeps
    | with_reducible apply State.updAxis_keeps
    | (with_reducible apply Keeps.foldl; intro _ _ _)
    | simp only [Keeps.mk_]
    | intro _
    | split

theorem State.cycleAxis_keeps {fu : Fuses} {qu : List Instr} (a0) (a1) (h0 : Keeps fu qu a0) : Keeps fu qu ((@State.cycleAxis a0 a1)) := by
  unfold State.cycleAxis
  try dsimp only
  repeat' first
    | with_reducible assumption
    | with_reducible apply State.updAxis_keeps
    | with_reducible apply State.servoTick_keeps
    | with_reducible apply State.sendSlot_keeps
    | (with_reducible apply Keeps.foldl; intro _ _ _)
    | simp only [Keeps.mk_]
    | intro _
    | split

theorem State.badAxisReply_keeps {fu : Fuses} {qu : List Instr} (a0) (a1) (h0 : Keeps fu qu a0) : Keeps fu qu ((@State.badAxisReply a0 a1)) := by
  unfold State.badAxisReply
  try dsimp only
  repeat' first
    | with_reducible assumption
    | with_reducible apply State.updAxis_keeps
    | with_reducible apply State.countShot_keeps
    | with_reducible apply State.axisFault_keeps
    | (with_reducible apply Keeps.foldl; intro _ _ _)
    | simp only [Keeps.mk_]
    | intro _
    | split

theorem State.startMotion_keeps {fu : Fuses} {qu : List Instr} (a0) (a1) (a2) (a3) (a4) (h0 : Keeps fu qu a0) : Keeps fu qu ((@State.startMotion a0 a1 a2 a3 a4)) := by
  unfold State.startMotion
  try dsimp only
  repeat' first
    | with_reducible assumption
    | with_reducible apply State.finishAxis_keeps
    | with_reducible apply State.beginMotion_keeps
    | (with_reducible apply Keeps.foldl; intro _ _ _)
    | simp only [Keeps.mk_]
    | intro _
    | split

theorem State.stopAxis_keeps {fu : Fuses} {qu : List Instr} (a0) (a1) (a2) (h0 : Keeps fu qu a0) : Keeps fu qu ((@State.stopAxis a0 a1 a2)) := by
  unfold State.stopAxis
  try dsimp only
  repeat' first
    | with_reducible assumption
    | with_reducible apply State.updAxis_keeps
    | with_reducible apply State.rampStop_keeps
    | (with_reducible apply Keeps.foldl; intro _ _ _)
    | simp only [Keeps.mk_]
    | intro _
    | split

theorem State.sdramError_keeps {fu : Fuses} {qu : List Instr} (a0) (a1) (a2) (h0 : Keeps fu qu a0) : Keeps fu qu ((@State.sdramError a0 a1 a2)) := by
  unfold State.sdramError
  try dsimp only
  repeat' first
    | with_reducible assumption
    | with_reducible apply State.fault_keeps
    | with_reducible apply State.sdramRequests_keeps
    | (with_reducible apply Keeps.foldl; intro _ _ _)
    | simp only [Keeps.mk_]
    | intro _
    | split

theorem State.dropSpill_keeps {fu : Fuses} {qu : List Instr} (s : State) (k : Nat) (h : Keeps fu qu s) : Keeps fu qu (s.dropSpill k) := by
  unfold State.dropSpill
  dsimp only
  split
  · exact h
  · have h1 : ∀ (b : List Buffered) (l : List Record), b.length ≤ s.evt.buffer.length → l.length ≤ s.evt.spill.length →
        Keeps fu qu { s with evt := { s.evt with spill := l, buffer := b } } := fun b l hb hl =>
      ⟨h.1, h.2, ⟨Nat.le_trans hb h.3.1, Nat.le_trans hl h.3.2.1, h.3.2.2⟩, h.4⟩
    split
    · exact State.overflowed_keeps _ (h1 _ _ (List.length_filter_le _ _) (List.length_filter_le _ _))
    · exact h1 _ _ (List.length_filter_le _ _) (List.length_filter_le _ _)

theorem State.loseHistory_keeps {fu : Fuses} {qu : List Instr} (a0) (a1) (h0 : Keeps fu qu a0) : Keeps fu qu ((@State.loseHistory a0 a1)) := by
  unfold State.loseHistory
  try dsimp only
  repeat' first
    | with_reducible assumption
    | (with_reducible apply Keeps.foldl; intro _ _ _)
    | simp only [Keeps.mk_]
    | intro _
    | split

theorem State.dropItem_keeps {fu : Fuses} {qu : List Instr} (a0) (a1) (h0 : Keeps fu qu a0) : Keeps fu qu ((@State.dropItem a0 a1)) := by
  unfold State.dropItem
  try dsimp only
  repeat' first
    | with_reducible assumption
    | with_reducible apply State.info_keeps
    | with_reducible apply State.finish_keeps
    | with_reducible apply State.freeFailure_keeps
    | with_reducible apply State.hbErr_keeps
    | (with_reducible apply Keeps.foldl; intro _ _ _)
    | simp only [Keeps.mk_]
    | intro _
    | split

theorem State.dropBulk_keeps {fu : Fuses} {qu : List Instr} (a0) (h0 : Keeps fu qu a0) : Keeps fu qu ((@State.dropBulk a0)) := by
  unfold State.dropBulk
  try dsimp only
  repeat' first
    | with_reducible assumption
    | with_reducible apply State.dropItem_keeps
    | (with_reducible apply Keeps.foldl; intro _ _ _)
    | simp only [Keeps.mk_]
    | intro _
    | split

theorem State.tearEntry_keeps {fu : Fuses} {qu : List Instr} (a0) (a1) (h0 : Keeps fu qu a0) : Keeps fu qu ((@State.tearEntry a0 a1)) := by
  unfold State.tearEntry
  try dsimp only
  repeat' first
    | with_reducible assumption
    | (with_reducible apply Keeps.foldl; intro _ _ _)
    | simp only [Keeps.mk_]
    | intro _
    | split

theorem State.readFrame_keeps {fu : Fuses} {qu : List Instr} (a0) (a1) (a2) (a3) (a4) (a5) (h0 : Keeps fu qu a0) : Keeps fu qu ((@State.readFrame a0 a1 a2 a3 a4 a5)) := by
  unfold State.readFrame
  try dsimp only
  repeat' first
    | with_reducible assumption
    | with_reducible apply State.pageTraffic_keeps
    | with_reducible apply State.sdramError_keeps
    | (with_reducible apply Keeps.foldl; intro _ _ _)
    | simp only [Keeps.mk_]
    | intro _
    | split

theorem State.slicesArrived_keeps {fu : Fuses} {qu : List Instr} (a0) (a1) (h0 : Keeps fu qu a0) (h1 : Keeps fu qu a1) : Keeps fu qu ((@State.slicesArrived a0 a1)) := by
  unfold State.slicesArrived
  try dsimp only
  repeat' first
    | with_reducible assumption
    | (with_reducible apply Keeps.foldl; intro _ _ _)
    | simp only [Keeps.mk_]
    | intro _
    | split

theorem State.decodeArrived_keeps {fu : Fuses} {qu : List Instr} (a0) (a1) (a2) (h0 : Keeps fu qu a0) : Keeps fu qu ((@State.decodeArrived a0 a1 a2)) := by
  unfold State.decodeArrived
  try dsimp only
  repeat' first
    | with_reducible assumption
    | (with_reducible apply Keeps.foldl; intro _ _ _)
    | simp only [Keeps.mk_]
    | intro _
    | split

theorem State.takeRows_keeps {fu : Fuses} {qu : List Instr} (a0) (a1) (a2) (a3) (h0 : Keeps fu qu a0) : Keeps fu qu ((@State.takeRows a0 a1 a2 a3)) := by
  unfold State.takeRows
  try dsimp only
  repeat' first
    | with_reducible assumption
    | with_reducible apply State.mapPage_keeps
    | (with_reducible apply Keeps.foldl; intro _ _ _)
    | simp only [Keeps.mk_]
    | intro _
    | split

theorem State.failInflow_keeps {fu : Fuses} {qu : List Instr} (a0) (a1) (a2) (a3) (h0 : Keeps fu qu a0) : Keeps fu qu ((@State.failInflow a0 a1 a2 a3)) := by
  unfold State.failInflow
  try dsimp only
  repeat' first
    | with_reducible assumption
    | with_reducible apply State.mapPage_keeps
    | with_reducible apply State.noteFailure_keeps
    | with_reducible apply State.release_keeps
    | (with_reducible apply Keeps.foldl; intro _ _ _)
    | simp only [Keeps.mk_]
    | intro _
    | split

theorem State.dropReplay_keeps {fu : Fuses} {qu : List Instr} (a0) (a1) (a2) (h0 : Keeps fu qu a0) : Keeps fu qu ((@State.dropReplay a0 a1 a2)) := by
  unfold State.dropReplay
  try dsimp only
  repeat' first
    | with_reducible assumption
    | (with_reducible apply Keeps.foldl; intro _ _ _)
    | simp only [Keeps.mk_]
    | intro _
    | split

theorem State.endStream_keeps {fu : Fuses} {qu : List Instr} (a0) (a1) (h0 : Keeps fu qu a0) : Keeps fu qu ((@State.endStream a0 a1)) := by
  unfold State.endStream
  try dsimp only
  repeat' first
    | with_reducible assumption
    | (with_reducible apply Keeps.foldl; intro _ _ _)
    | simp only [Keeps.mk_]
    | intro _
    | split

theorem State.mapStream_keeps {fu : Fuses} {qu : List Instr} (a0) (a1) (a2) (h0 : Keeps fu qu a0) : Keeps fu qu ((@State.mapStream a0 a1 a2)) := by
  unfold State.mapStream
  try dsimp only
  repeat' first
    | with_reducible assumption
    | (with_reducible apply Keeps.foldl; intro _ _ _)
    | simp only [Keeps.mk_]
    | intro _
    | split

theorem State.jobFrame_keeps {fu : Fuses} {qu : List Instr} (a0) (a1) (a2) (h0 : Keeps fu qu a0) : Keeps fu qu ((@State.jobFrame a0 a1 a2)) := by
  unfold State.jobFrame
  try dsimp only
  repeat' first
    | with_reducible assumption
    | with_reducible apply State.emit_keeps
    | with_reducible apply State.finish_keeps
    | with_reducible apply State.noteFailure_keeps
    | with_reducible apply State.endStream_keeps
    | with_reducible apply State.mapStream_keeps
    | (with_reducible apply Keeps.foldl; intro _ _ _)
    | simp only [Keeps.mk_]
    | intro _
    | split

theorem State.startCompress_keeps {fu : Fuses} {qu : List Instr} (a0) (a1) (a2) (a3) (a4) (a5) (h0 : Keeps fu qu a0) : Keeps fu qu ((@State.startCompress a0 a1 a2 a3 a4 a5)) := by
  unfold State.startCompress
  try dsimp only
  repeat' first
    | with_reducible assumption
    | with_reducible apply State.assignLanes_keeps
    | (with_reducible apply Keeps.foldl; intro _ _ _)
    | simp only [Keeps.mk_]
    | intro _
    | split

theorem State.endCompress_keeps {fu : Fuses} {qu : List Instr} (a0) (a1) (a2) (h0 : Keeps fu qu a0) : Keeps fu qu ((@State.endCompress a0 a1 a2)) := by
  unfold State.endCompress
  try dsimp only
  repeat' first
    | with_reducible assumption
    | with_reducible apply State.emit_keeps
    | with_reducible apply State.finish_keeps
    | with_reducible apply State.mapPage_keeps
    | with_reducible apply State.pageTraffic_keeps
    | with_reducible apply State.bulkTraffic_keeps
    | with_reducible apply State.endStream_keeps
    | (with_reducible apply Keeps.foldl; intro _ _ _)
    | simp only [Keeps.mk_]
    | intro _
    | split

theorem State.writeHostWord_keeps {fu : Fuses} {qu : List Instr} (a0) (a1) (a2) (h0 : Keeps fu qu a0) : Keeps fu qu ((@State.writeHostWord a0 a1 a2)) := by
  unfold State.writeHostWord
  try dsimp only
  repeat' first
    | with_reducible assumption
    | with_reducible apply State.sendPending_keeps
    | (with_reducible apply Keeps.foldl; intro _ _ _)
    | simp only [Keeps.mk_]
    | intro _
    | split

theorem State.writeWord_keeps {fu : Fuses} {qu : List Instr} (s : State) (o : Nat) (v : BitVec 32) (h : Keeps fu qu s) : Keeps fu qu (s.writeWord o v) := by
  unfold State.writeWord
  split
  · exact State.writeHostWord_keeps _ _ _ h
  · split
    · exact ⟨h.1, h.2, h.3, h.4⟩
    · split
      · exact ⟨h.1, h.2, h.3, h.4⟩
      · split
        · simp only [Keeps.mk_]; exact h
        · split
          · split
            · exact State.hbWrite_keeps _ _ _ h
            · exact h
          · exact h

theorem State.streamOut_keeps {fu : Fuses} {qu : List Instr} (a0) (a1) (a2) (a3) (a4) (a5) (h0 : Keeps fu qu a0) : Keeps fu qu ((@State.streamOut a0 a1 a2 a3 a4 a5)) := by
  unfold State.streamOut
  try dsimp only
  repeat' first
    | with_reducible assumption
    | with_reducible apply State.finish_keeps
    | with_reducible apply State.startCompress_keeps
    | (with_reducible apply Keeps.foldl; intro _ _ _)
    | simp only [Keeps.mk_]
    | intro _
    | split

theorem State.stepCalendar_keeps {fu : Fuses} {qu : List Instr} (a0) (a1) (a2) (h0 : Keeps fu qu a0) : Keeps fu qu ((@State.stepCalendar a0 a1 a2)) := by
  unfold State.stepCalendar
  try dsimp only
  repeat' first
    | with_reducible assumption
    | with_reducible apply State.note_keeps
    | (with_reducible apply Keeps.foldl; intro _ _ _)
    | simp only [Keeps.mk_]
    | intro _
    | split

theorem State.managerStep_keeps {fu : Fuses} {qu : List Instr} (a0) (a1) (a2) (h0 : Keeps fu qu a0) : Keeps fu qu ((@State.managerStep a0 a1 a2)) := by
  unfold State.managerStep
  try dsimp only
  repeat' first
    | with_reducible assumption
    | with_reducible apply State.transact_keeps
    | with_reducible apply State.stepCalendar_keeps
    | (with_reducible apply Keeps.foldl; intro _ _ _)
    | simp only [Keeps.mk_]
    | intro _
    | split

theorem State.calendarValid_keeps {fu : Fuses} {qu : List Instr} (a0) (h0 : Keeps fu qu a0) : Keeps fu qu ((@State.calendarValid a0)) := by
  unfold State.calendarValid
  try dsimp only
  repeat' first
    | with_reducible assumption
    | with_reducible apply State.stepCalendar_keeps
    | (with_reducible apply Keeps.foldl; intro _ _ _)
    | simp only [Keeps.mk_]
    | intro _
    | split

theorem State.offsetTime_keeps {fu : Fuses} {qu : List Instr} (a0) (a1) (a2) (h0 : Keeps fu qu a0) : Keeps fu qu ((@State.offsetTime a0 a1 a2)) := by
  unfold State.offsetTime
  try dsimp only
  repeat' first
    | with_reducible assumption
    | with_reducible apply State.finish_keeps
    | with_reducible apply State.stepCalendar_keeps
    | with_reducible apply State.calendarValid_keeps
    | (with_reducible apply Keeps.foldl; intro _ _ _)
    | simp only [Keeps.mk_]
    | intro _
    | split

theorem State.markForShutdown_keeps {fu : Fuses} {qu : List Instr} (a0) (h0 : Keeps fu qu a0) : Keeps fu qu ((@State.markForShutdown a0)) := by
  unfold State.markForShutdown
  try dsimp only
  repeat' first
    | with_reducible assumption
    | with_reducible apply State.calDirty_keeps
    | (with_reducible apply Keeps.foldl; intro _ _ _)
    | simp only [Keeps.mk_]
    | intro _
    | split

theorem State.abandonUpdate_keeps {fu : Fuses} {qu : List Instr} (a0) (h0 : Keeps fu qu a0) : Keeps fu qu ((@State.abandonUpdate a0)) := by
  unfold State.abandonUpdate
  try dsimp only
  repeat' first
    | with_reducible assumption
    | (with_reducible apply Keeps.foldl; intro _ _ _)
    | simp only [Keeps.mk_]
    | intro _
    | split

theorem State.activate_keeps {fu : Fuses} {qu : List Instr} (a0) (a1) (h0 : Keeps fu qu a0) : Keeps fu qu ((@State.activate a0 a1)) := by
  unfold State.activate
  try dsimp only
  repeat' first
    | with_reducible assumption
    | (with_reducible apply Keeps.foldl; intro _ _ _)
    | simp only [Keeps.mk_]
    | intro _
    | split

theorem State.enterLoopback_keeps {fu : Fuses} {qu : List Instr} (a0) (a1) (a2) (h0 : Keeps fu qu a0) : Keeps fu qu ((@State.enterLoopback a0 a1 a2)) := by
  unfold State.enterLoopback
  try dsimp only
  repeat' first
    | with_reducible assumption
    | with_reducible apply State.emit_keeps
    | with_reducible apply State.updHalyard_keeps
    | with_reducible apply State.sendHalyard_keeps
    | (with_reducible apply Keeps.foldl; intro _ _ _)
    | simp only [Keeps.mk_]
    | intro _
    | split

theorem State.leaveLoopback_keeps {fu : Fuses} {qu : List Instr} (a0) (a1) (h0 : Keeps fu qu a0) : Keeps fu qu ((@State.leaveLoopback a0 a1)) := by
  unfold State.leaveLoopback
  try dsimp only
  repeat' first
    | with_reducible assumption
    | with_reducible apply State.emit_keeps
    | with_reducible apply State.sendHalyard_keeps
    | with_reducible apply State.beginTraining_keeps
    | (with_reducible apply Keeps.foldl; intro _ _ _)
    | simp only [Keeps.mk_]
    | intro _
    | split

theorem State.flagNozzle_keeps {fu : Fuses} {qu : List Instr} (a0) (a1) (a2) (h0 : Keeps fu qu a0) : Keeps fu qu ((@State.flagNozzle a0 a1 a2)) := by
  unfold State.flagNozzle
  try dsimp only
  repeat' first
    | with_reducible assumption
    | with_reducible apply State.setNozzle_keeps
    | with_reducible apply State.headDirty_keeps
    | (with_reducible apply Keeps.foldl; intro _ _ _)
    | simp only [Keeps.mk_]
    | intro _
    | split

theorem State.judgeWindow_keeps {fu : Fuses} {qu : List Instr} (a0) (a1) (h0 : Keeps fu qu a0) : Keeps fu qu ((@State.judgeWindow a0 a1)) := by
  unfold State.judgeWindow
  try dsimp only
  repeat' first
    | with_reducible assumption
    | with_reducible apply State.flagNozzle_keeps
    | (with_reducible apply Keeps.foldl; intro _ _ _)
    | simp only [Keeps.mk_]
    | intro _
    | split

theorem State.testResult_keeps {fu : Fuses} {qu : List Instr} (a0) (a1) (a2) (h0 : Keeps fu qu a0) : Keeps fu qu ((@State.testResult a0 a1 a2)) := by
  unfold State.testResult
  try dsimp only
  repeat' first
    | with_reducible assumption
    | with_reducible apply State.flagNozzle_keeps
    | with_reducible apply State.judgeWindow_keeps
    | (with_reducible apply Keeps.foldl; intro _ _ _)
    | simp only [Keeps.mk_]
    | intro _
    | split

theorem State.nextPhase_keeps {fu : Fuses} {qu : List Instr} (a0) (a1) (h0 : Keeps fu qu a0) : Keeps fu qu ((@State.nextPhase a0 a1)) := by
  unfold State.nextPhase
  try dsimp only
  repeat' first
    | with_reducible assumption
    | with_reducible apply State.setOut_keeps
    | with_reducible apply State.endProbe_keeps
    | (with_reducible apply Keeps.foldl; intro _ _ _)
    | simp only [Keeps.mk_]
    | intro _
    | split

theorem State.endPhase_keeps {fu : Fuses} {qu : List Instr} (a0) (a1) (a2) (a3) (h0 : Keeps fu qu a0) : Keeps fu qu ((@State.endPhase a0 a1 a2 a3)) := by
  unfold State.endPhase
  try dsimp only
  repeat' first
    | with_reducible assumption
    | with_reducible apply State.nextPhase_keeps
    | (with_reducible apply Keeps.foldl; intro _ _ _)
    | simp only [Keeps.mk_]
    | intro _
    | split

theorem State.startProbe_keeps {fu : Fuses} {qu : List Instr} (a0) (a1) (a2) (a3) (a4) (h0 : Keeps fu qu a0) : Keeps fu qu ((@State.startProbe a0 a1 a2 a3 a4)) := by
  unfold State.startProbe
  try dsimp only
  repeat' first
    | with_reducible assumption
    | with_reducible apply State.nextPhase_keeps
    | (with_reducible apply Keeps.foldl; intro _ _ _)
    | simp only [Keeps.mk_]
    | intro _
    | split

theorem State.columnDirty_keeps {fu : Fuses} {qu : List Instr} (a0) (a1) (h0 : Keeps fu qu a0) : Keeps fu qu ((@State.columnDirty a0 a1)) := by
  unfold State.columnDirty
  try dsimp only
  repeat' first
    | with_reducible assumption
    | with_reducible apply State.headDirty_keeps
    | (with_reducible apply Keeps.foldl; intro _ _ _)
    | simp only [Keeps.mk_]
    | intro _
    | split

theorem State.gainEntry_keeps {fu : Fuses} {qu : List Instr} (a0) (a1) (a2) (h0 : Keeps fu qu a0) : Keeps fu qu ((@State.gainEntry a0 a1 a2)) := by
  unfold State.gainEntry
  try dsimp only
  repeat' first
    | with_reducible assumption
    | with_reducible apply State.columnDirty_keeps
    | (with_reducible apply Keeps.foldl; intro _ _ _)
    | simp only [Keeps.mk_]
    | intro _
    | split

theorem State.offsetEntry_keeps {fu : Fuses} {qu : List Instr} (a0) (a1) (a2) (h0 : Keeps fu qu a0) : Keeps fu qu ((@State.offsetEntry a0 a1 a2)) := by
  unfold State.offsetEntry
  try dsimp only
  repeat' first
    | with_reducible assumption
    | with_reducible apply State.columnDirty_keeps
    | (with_reducible apply Keeps.foldl; intro _ _ _)
    | simp only [Keeps.mk_]
    | intro _
    | split

theorem State.judgeColumn_keeps {fu : Fuses} {qu : List Instr} (a0) (a1) (a2) (a3) (a4) (a5) (h0 : Keeps fu qu a0) : Keeps fu qu ((@State.judgeColumn a0 a1 a2 a3 a4 a5).1) := by
  unfold State.judgeColumn
  try dsimp only
  repeat' first
    | with_reducible assumption
    | with_reducible apply State.judgeWindow_keeps
    | with_reducible apply State.nextPhase_keeps
    | with_reducible apply State.endPhase_keeps
    | with_reducible apply State.startProbe_keeps
    | with_reducible apply State.gainEntry_keeps
    | with_reducible apply State.offsetEntry_keeps
    | (with_reducible apply Keeps.foldl; intro _ _ _)
    | simp only [Keeps.mk_]
    | intro _
    | split

theorem State.judgeColumns_keeps {fu : Fuses} {qu : List Instr} (s : State) (ts : TableSet) (p : Profile) (h : Keeps fu qu s) : Keeps fu qu (s.judgeColumns ts p).1 := by
  unfold State.judgeColumns
  have key : ∀ (l : List Nat) (r : State × Findings), Keeps fu qu r.1 → Keeps fu qu (l.foldl (fun r c =>
      match s.evidence ts p c, p.sample c with
      | some l, some delta => r.1.judgeColumn p c r.2 delta l
      | _, _ => r) r).1 := by
    intro l
    induction l with
    | nil => exact fun _ hr => hr
    | cons c t ih =>
      intro r hr
      refine ih _ ?_
      dsimp only
      split
      · exact State.judgeColumn_keeps _ _ _ _ _ _ hr
      · exact hr
  exact key _ (s, {}) h

theorem State.endProfile_keeps {fu : Fuses} {qu : List Instr} (a0) (a1) (a2) (a3) (h0 : Keeps fu qu a0) : Keeps fu qu ((@State.endProfile a0 a1 a2 a3)) := by
  unfold State.endProfile
  try dsimp only
  repeat' first
    | with_reducible assumption
    | with_reducible apply State.finish_keeps
    | with_reducible apply State.ringSend_keeps
    | (with_reducible apply Keeps.foldl; intro _ _ _)
    | simp only [Keeps.mk_]
    | intro _
    | split

theorem State.acceptProfile_keeps {fu : Fuses} {qu : List Instr} (a0) (a1) (h0 : Keeps fu qu a0) : Keeps fu qu ((@State.acceptProfile a0 a1)) := by
  unfold State.acceptProfile
  try dsimp only
  repeat' first
    | with_reducible assumption
    | with_reducible apply State.endProfile_keeps
    | (with_reducible apply Keeps.foldl; intro _ _ _)
    | simp only [Keeps.mk_]
    | intro _
    | split

theorem State.forwardProfile_keeps {fu : Fuses} {qu : List Instr} (a0) (a1) (a2) (h0 : Keeps fu qu a0) : Keeps fu qu ((@State.forwardProfile a0 a1 a2)) := by
  unfold State.forwardProfile
  try dsimp only
  repeat' first
    | with_reducible assumption
    | with_reducible apply State.setRunning_keeps
    | with_reducible apply State.takeSq_keeps
    | with_reducible apply State.sendNumbered_keeps
    | (with_reducible apply Keeps.foldl; intro _ _ _)
    | simp only [Keeps.mk_]
    | intro _
    | split

theorem State.takePolicy_keeps {fu : Fuses} {qu : List Instr} (a0) (a1) (h0 : Keeps fu qu a0) : Keeps fu qu ((@State.takePolicy a0 a1)) := by
  unfold State.takePolicy
  try dsimp only
  repeat' first
    | with_reducible assumption
    | with_reducible apply State.endProbe_keeps
    | (with_reducible apply Keeps.foldl; intro _ _ _)
    | simp only [Keeps.mk_]
    | intro _
    | split

theorem State.override_keeps {fu : Fuses} {qu : List Instr} (a0) (a1) (a2) (h0 : Keeps fu qu a0) : Keeps fu qu ((@State.override a0 a1 a2)) := by
  unfold State.override
  try dsimp only
  repeat' first
    | with_reducible assumption
    | with_reducible apply State.setNozzle_keeps
    | with_reducible apply State.endProbe_keeps
    | with_reducible apply State.headDirty_keeps
    | (with_reducible apply Keeps.foldl; intro _ _ _)
    | simp only [Keeps.mk_]
    | intro _
    | split

theorem State.resetColumn_keeps {fu : Fuses} {qu : List Instr} (a0) (a1) (h0 : Keeps fu qu a0) : Keeps fu qu ((@State.resetColumn a0 a1)) := by
  unfold State.resetColumn
  try dsimp only
  repeat' first
    | with_reducible assumption
    | with_reducible apply State.columnDirty_keeps
    | (with_reducible apply Keeps.foldl; intro _ _ _)
    | simp only [Keeps.mk_]
    | intro _
    | split

theorem State.retireAtOnce_keeps {fu : Fuses} {qu : List Instr} (a0) (a1) (a2) (a3) (h0 : Keeps fu qu a0) : Keeps fu qu ((@State.retireAtOnce a0 a1 a2 a3).1) := by
  unfold State.retireAtOnce
  try dsimp only
  repeat' first
    | with_reducible assumption
    | with_reducible apply State.spoilLosses_keeps
    | with_reducible apply State.dropHead_keeps
    | (with_reducible apply Keeps.foldl; intro _ _ _)
    | simp only [Keeps.mk_]
    | intro _
    | split

theorem State.supersede_keeps {fu : Fuses} {qu : List Instr} (a0) (a1) (h0 : Keeps fu qu a0) : Keeps fu qu ((@State.supersede a0 a1)) := by
  unfold State.supersede
  try dsimp only
  repeat' first
    | with_reducible assumption
    | with_reducible apply State.finish_keeps
    | with_reducible apply State.updPort_keeps
    | (with_reducible apply Keeps.foldl; intro _ _ _)
    | simp only [Keeps.mk_]
    | intro _
    | split

theorem State.atPort_keeps {fu : Fuses} {qu : List Instr} (a0) (a1) (h0 : Keeps fu qu a0) (h1 : ∀ s, Keeps fu qu s → Keeps fu qu ((a1 s))) : Keeps fu qu ((@State.atPort a0 a1)) := by
  unfold State.atPort
  try dsimp only
  repeat' first
    | with_reducible assumption
    | with_reducible apply h1
    | with_reducible apply State.settleHeadResets_keeps
    | (with_reducible apply Keeps.foldl; intro _ _ _)
    | simp only [Keeps.mk_]
    | intro _
    | split

theorem State.sendPings_keeps {fu : Fuses} {qu : List Instr} (a0) (a1) (h0 : Keeps fu qu a0) : Keeps fu qu ((@State.sendPings a0 a1)) := by
  unfold State.sendPings
  try dsimp only
  repeat' first
    | with_reducible assumption
    | with_reducible apply State.sendHead_keeps
    | (with_reducible apply Keeps.foldl; intro _ _ _)
    | simp only [Keeps.mk_]
    | intro _
    | split

theorem State.startSync_keeps {fu : Fuses} {qu : List Instr} (a0) (a1) (h0 : Keeps fu qu a0) : Keeps fu qu ((@State.startSync a0 a1)) := by
  unfold State.startSync
  try dsimp only
  repeat' first
    | with_reducible assumption
    | with_reducible apply State.updPort_keeps
    | with_reducible apply State.sendSync_keeps
    | (with_reducible apply Keeps.foldl; intro _ _ _)
    | simp only [Keeps.mk_]
    | intro _
    | split

theorem State.afterPings_keeps {fu : Fuses} {qu : List Instr} (a0) (a1) (h0 : Keeps fu qu a0) : Keeps fu qu ((@State.afterPings a0 a1)) := by
  unfold State.afterPings
  try dsimp only
  repeat' first
    | with_reducible assumption
    | with_reducible apply State.updPort_keeps
    | with_reducible apply State.sendHead_keeps
    | with_reducible apply State.startSync_keeps
    | (with_reducible apply Keeps.foldl; intro _ _ _)
    | simp only [Keeps.mk_]
    | intro _
    | split

theorem State.rateFallback_keeps {fu : Fuses} {qu : List Instr} (a0) (a1) (h0 : Keeps fu qu a0) : Keeps fu qu ((@State.rateFallback a0 a1)) := by
  unfold State.rateFallback
  try dsimp only
  repeat' first
    | with_reducible assumption
    | with_reducible apply State.info_keeps
    | with_reducible apply State.updPort_keeps
    | with_reducible apply State.startSync_keeps
    | (with_reducible apply Keeps.foldl; intro _ _ _)
    | simp only [Keeps.mk_]
    | intro _
    | split

theorem State.attemptFailed_keeps {fu : Fuses} {qu : List Instr} (a0) (a1) (h0 : Keeps fu qu a0) : Keeps fu qu ((@State.attemptFailed a0 a1)) := by
  unfold State.attemptFailed
  try dsimp only
  repeat' first
    | with_reducible assumption
    | with_reducible apply State.info_keeps
    | with_reducible apply State.updPort_keeps
    | with_reducible apply State.bringupFailed_keeps
    | (with_reducible apply Keeps.foldl; intro _ _ _)
    | simp only [Keeps.mk_]
    | intro _
    | split

theorem State.driveStatus_keeps {fu : Fuses} {qu : List Instr} (a0) (a1) (a2) (h0 : Keeps fu qu a0) : Keeps fu qu ((@State.driveStatus a0 a1 a2)) := by
  unfold State.driveStatus
  try dsimp only
  repeat' first
    | with_reducible assumption
    | with_reducible apply State.updPort_keeps
    | with_reducible apply State.fencePort_keeps
    | (with_reducible apply Keeps.foldl; intro _ _ _)
    | simp only [Keeps.mk_]
    | intro _
    | split

theorem State.shadowMismatchAs_keeps {fu : Fuses} {qu : List Instr} (a0) (a1) (h0 : Keeps fu qu a0) : Keeps fu qu ((@State.shadowMismatchAs a0 a1)) := by
  unfold State.shadowMismatchAs
  try dsimp only
  repeat' first
    | with_reducible assumption
    | with_reducible apply State.unlessShadowed_keeps
    | with_reducible apply State.updPort_keeps
    | with_reducible apply State.fencePortAs_keeps
    | (with_reducible apply Keeps.foldl; intro _ _ _)
    | simp only [Keeps.mk_]
    | intro _
    | split

theorem State.shadowMismatch_keeps {fu : Fuses} {qu : List Instr} (a0) (a1) (h0 : Keeps fu qu a0) : Keeps fu qu ((@State.shadowMismatch a0 a1)) := by
  unfold State.shadowMismatch
  try dsimp only
  repeat' first
    | with_reducible assumption
    | with_reducible apply State.shadowMismatchAs_keeps
    | (with_reducible apply Keeps.foldl; intro _ _ _)
    | simp only [Keeps.mk_]
    | intro _
    | split

theorem State.loseLine_keeps {fu : Fuses} {qu : List Instr} (a0) (a1) (a2) (h0 : Keeps fu qu a0) : Keeps fu qu ((@State.loseLine a0 a1 a2)) := by
  unfold State.loseLine
  try dsimp only
  repeat' first
    | with_reducible assumption
    | with_reducible apply State.spoilLine_keeps
    | with_reducible apply State.fault_keeps
    | with_reducible apply State.updPort_keeps
    | with_reducible apply State.hbErr_keeps
    | with_reducible apply State.fencePort_keeps
    | with_reducible apply State.blankEntries_keeps
    | with_reducible apply State.forget_keeps
    | (with_reducible apply Keeps.foldl; intro _ _ _)
    | simp only [Keeps.mk_]
    | intro _
    | split

theorem State.waveAcked_keeps {fu : Fuses} {qu : List Instr} (a0) (a1) (a2) (h0 : Keeps fu qu a0) : Keeps fu qu ((@State.waveAcked a0 a1 a2)) := by
  unfold State.waveAcked
  try dsimp only
  repeat' first
    | with_reducible assumption
    | with_reducible apply State.updPort_keeps
    | with_reducible apply State.sendHead_keeps
    | with_reducible apply State.enterService_keeps
    | (with_reducible apply Keeps.foldl; intro _ _ _)
    | simp only [Keeps.mk_]
    | intro _
    | split

theorem State.headLinkLost_keeps {fu : Fuses} {qu : List Instr} (a0) (a1) (h0 : Keeps fu qu a0) : Keeps fu qu ((@State.headLinkLost a0 a1)) := by
  unfold State.headLinkLost
  try dsimp only
  repeat' first
    | with_reducible assumption
    | with_reducible apply State.updPort_keeps
    | with_reducible apply State.fencePort_keeps
    | with_reducible apply State.atPort_keeps
    | (with_reducible apply Keeps.foldl; intro _ _ _)
    | simp only [Keeps.mk_]
    | intro _
    | split

theorem State.putService_keeps {fu : Fuses} {qu : List Instr} (s : State) (r : Record) (h : Keeps fu qu s) (hl : s.evt.service.length < serviceSize) :
    Keeps fu qu (s.putService r) := by
  have h1 : Keeps fu qu { s with evt := { s.evt with service := s.evt.service ++ [r] } } := by
    refine ⟨h.1, h.2, ⟨h.3.1, h.3.2.1, ?_, h.3.2.2.2⟩, h.4⟩
    unfold serviceSize at hl
    simp only [List.length_append, List.length_cons, List.length_nil]; omega
  unfold State.putService
  dsimp only
  split
  · exact h1
  · exact State.info_keeps _ _ _ _ _ _ (State.interrupt_keeps _ _ ⟨h1.1, h1.2, h1.3, h1.4⟩)

theorem State.commitFault_keeps {fu : Fuses} {qu : List Instr} (a0) (a1) (h0 : Keeps fu qu a0) : Keeps fu qu ((@State.commitFault a0 a1)) := by
  unfold State.commitFault
  try dsimp only
  repeat' first
    | with_reducible assumption
    | with_reducible apply State.fault_keeps
    | (with_reducible apply Keeps.foldl; intro _ _ _)
    | simp only [Keeps.mk_]
    | intro _
    | split

theorem keeps_putEpisode {e : Evt} (b : Buffered) (h : recorderFits e) : recorderFits (e.putEpisode b) := by
  obtain ⟨h1, h2, h3, h4, h5⟩ := h
  unfold Evt.putEpisode
  split
  · exact ⟨h1, h2, h3, by dsimp only [List.length]; omega, by dsimp only [List.length]; omega⟩
  · split
    · refine ⟨h1, h2, h3, ?_, h5⟩
      simp only [List.length_append, List.length_cons, List.length_nil]; omega
    · refine ⟨h1, h2, h3, h4, ?_⟩
      simp only [List.length_append, List.length_cons, List.length_nil]
      split
      · omega
      · simp only [List.length_drop]; omega

theorem keeps_putEpisode_rest (e : Evt) (b : Buffered) : (e.putEpisode b).overflow = e.overflow ∧ (e.putEpisode b).service = e.service := by
  unfold Evt.putEpisode
  split
  · exact ⟨rfl, rfl⟩
  · split <;> exact ⟨rfl, rfl⟩

theorem State.commitRecord_keeps {fu : Fuses} {qu : List Instr} (s : State) (b : Buffered) (fl : CommitResult) (h : Keeps fu qu s) :
    Keeps fu qu (s.commitRecord b fl) := by
  unfold State.commitRecord
  dsimp only
  split
  · exact State.overflowed_keeps _ h
  · split
    · exact State.overflowed_keeps _ h
    · have h1 : Keeps fu qu (if b.toEpisode && fl.episode then { s with evt := s.evt.putEpisode b } else s) ∧
          (if b.toEpisode && fl.episode then { s with evt := s.evt.putEpisode b } else s).evt.service = s.evt.service := by
        split
        · have hr := keeps_putEpisode_rest s.evt b
          exact ⟨⟨h.1, h.2, keeps_putEpisode b h.3, by rw [show ({ s with evt := s.evt.putEpisode b } : State).evt.overflow = s.evt.overflow from hr.1]; exact h.4.1, h.4.2⟩, hr.2⟩
        · exact ⟨h, rfl⟩
      have h2 : ∀ c : Bool, (c = true → s.evt.service.length < serviceSize) →
          Keeps fu qu (if c then (if b.toEpisode && fl.episode then { s with evt := s.evt.putEpisode b } else s).putService b.record
            else (if b.toEpisode && fl.episode then { s with evt := s.evt.putEpisode b } else s)) := by
        intro c hc
        split
        · exact State.putService_keeps _ _ h1.1 (by rw [h1.2]; exact hc (by assumption))
        · exact h1.1
      have h3 := h2 (b.toService && decide (s.evt.service.length < serviceSize) && fl.service) (by simp only [Bool.and_eq_true, decide_eq_true_eq]; exact fun x => x.1.2)
      have h4 := fun x y => State.commitFault_keeps _ x (State.commitFault_keeps _ y h3)
      split
      · exact h4 _ _
      · exact State.overflowed_keeps _ (h4 _ _)

theorem State.noteFirst_keeps {fu : Fuses} {qu : List Instr} (s : State) (n : Note) (h : Keeps fu qu s) : Keeps fu qu (s.noteFirst n) := by
  have h1 : Keeps fu qu (s.note n) := State.note_keeps s n h
  unfold State.noteFirst
  dsimp only
  refine ⟨h1.1, h1.2, ⟨?_, h1.3.2⟩, h1.4⟩
  dsimp only
  have hb := h1.3.1
  split
  · split
    · rw [List.length_cons, List.length_dropLast]; omega
    · exact hb
  · exact Nat.zero_le _

theorem State.dropFront_keeps {fu : Fuses} {qu : List Instr} (s : State) (h : Keeps fu qu s) : Keeps fu qu s.dropFront := by
  unfold State.dropFront
  split
  · exact h
  · rename_i rest hr
    have := h.3.1
    rw [hr] at this
    simp only [List.length_cons] at this
    exact State.overflowed_keeps _ ⟨h.1, h.2, ⟨by dsimp only; omega, h.3.2⟩, h.4⟩

theorem State.pathFault_keeps {fu : Fuses} {qu : List Instr} (a0) (a1) (h0 : Keeps fu qu a0) : Keeps fu qu ((@State.pathFault a0 a1)) := by
  unfold State.pathFault
  try dsimp only
  repeat' first
    | with_reducible assumption
    | with_reducible apply State.detect_keeps
    | with_reducible apply State.updPort_keeps
    | with_reducible apply State.rowLineFault_keeps
    | (with_reducible apply Keeps.foldl; intro _ _ _)
    | simp only [Keeps.mk_]
    | intro _
    | split

theorem State.detectAndReact_keeps {fu : Fuses} {qu : List Instr} (a0) (a1) (h0 : Keeps fu qu a0) : Keeps fu qu ((@State.detectAndReact a0 a1)) := by
  unfold State.detectAndReact
  try dsimp only
  repeat' first
    | with_reducible assumption
    | with_reducible apply State.disarmNow_keeps
    | with_reducible apply State.detect_keeps
    | with_reducible apply State.stopFiring_keeps
    | with_reducible apply State.fencePortAs_keeps
    | with_reducible apply State.hostInterfaceReset_keeps
    | with_reducible apply State.warmReset_keeps
    | with_reducible apply State.linkFailed_keeps
    | with_reducible apply State.fencePennant_keeps
    | with_reducible apply State.pennantFailedAs_keeps
    | with_reducible apply State.pennantMismatchAs_keeps
    | with_reducible apply State.fenceUnit_keeps
    | with_reducible apply State.fenceLane_keeps
    | with_reducible apply State.unitFailedAs_keeps
    | with_reducible apply State.laneFailedAs_keeps
    | with_reducible apply State.unitMismatchAs_keeps
    | with_reducible apply State.laneMismatchAs_keeps
    | with_reducible apply State.axisFaultAs_keeps
    | with_reducible apply State.shadowMismatchAs_keeps
    | with_reducible apply State.dropFront_keeps
    | with_reducible apply State.pathFault_keeps
    | (with_reducible apply Keeps.foldl; intro _ _ _)
    | simp only [Keeps.mk_]
    | intro _
    | split

theorem State.takeDetection_keeps {fu : Fuses} {qu : List Instr} (a0) (a1) (h0 : Keeps fu qu a0) : Keeps fu qu ((@State.takeDetection a0 a1)) := by
  unfold State.takeDetection
  try dsimp only
  repeat' first
    | with_reducible assumption
    | with_reducible apply State.settleDisarm_keeps
    | with_reducible apply State.detect_keeps
    | with_reducible apply State.settleShutdown_keeps
    | with_reducible apply State.detectAndReact_keeps
    | (with_reducible apply Keeps.foldl; intro _ _ _)
    | simp only [Keeps.mk_]
    | intro _
    | split

theorem State.takeCycle_keeps {fu : Fuses} {qu : List Instr} (a0) (a1) (h0 : Keeps fu qu a0) : Keeps fu qu ((@State.takeCycle a0 a1)) := by
  unfold State.takeCycle
  try dsimp only
  repeat' first
    | with_reducible assumption
    | with_reducible apply State.takeDetection_keeps
    | (with_reducible apply Keeps.foldl; intro _ _ _)
    | simp only [Keeps.mk_]
    | intro _
    | split

theorem State.cancelPage_keeps {fu : Fuses} {qu : List Instr} (a0) (a1) (a2) (h0 : Keeps fu qu a0) : Keeps fu qu ((@State.cancelPage a0 a1 a2)) := by
  unfold State.cancelPage
  try dsimp only
  repeat' first
    | with_reducible assumption
    | with_reducible apply State.finish_keeps
    | with_reducible apply State.mapPage_keeps
    | with_reducible apply State.mapJob_keeps
    | with_reducible apply State.settleJob_keeps
    | with_reducible apply State.release_keeps
    | with_reducible apply State.tellPage_keeps
    | (with_reducible apply Keeps.foldl; intro _ _ _)
    | simp only [Keeps.mk_]
    | intro _
    | split

theorem State.refuseFull_keeps {fu : Fuses} {qu : List Instr} (a0) (a1) (a2) (h0 : Keeps fu qu a0) : Keeps fu qu ((@State.refuseFull a0 a1 a2)) := by
  unfold State.refuseFull
  try dsimp only
  repeat' first
    | with_reducible assumption
    | with_reducible apply State.refuse_keeps
    | (with_reducible apply Keeps.foldl; intro _ _ _)
    | simp only [Keeps.mk_]
    | intro _
    | split

theorem State.settleSubmit_keeps {fu : Fuses} {qu : List Instr} (a0) (a1) (h0 : Keeps fu qu a0) : Keeps fu qu ((@State.settleSubmit a0 a1)) := by
  unfold State.settleSubmit
  try dsimp only
  repeat' first
    | with_reducible assumption
    | with_reducible apply State.settleJob_keeps
    | (with_reducible apply Keeps.foldl; intro _ _ _)
    | simp only [Keeps.mk_]
    | intro _
    | split

theorem State.recordStored_keeps {fu : Fuses} {qu : List Instr} (a0) (a1) (h0 : Keeps fu qu a0) : Keeps fu qu ((@State.recordStored a0 a1)) := by
  unfold State.recordStored
  try dsimp only
  repeat' first
    | with_reducible assumption
    | (with_reducible apply Keeps.foldl; intro _ _ _)
    | simp only [Keeps.mk_]
    | intro _
    | split

theorem State.pageDmaError_keeps {fu : Fuses} {qu : List Instr} (a0) (a1) (a2) (h0 : Keeps fu qu a0) : Keeps fu qu ((@State.pageDmaError a0 a1 a2)) := by
  unfold State.pageDmaError
  try dsimp only
  repeat' first
    | with_reducible assumption
    | with_reducible apply State.refuse_keeps
    | with_reducible apply State.mapJob_keeps
    | with_reducible apply State.settleJob_keeps
    | (with_reducible apply Keeps.foldl; intro _ _ _)
    | simp only [Keeps.mk_]
    | intro _
    | split

theorem State.updCq_keeps {fu : Fuses} {qu : List Instr} (a0) (a1) (a2) (h0 : Keeps fu qu a0) : Keeps fu qu ((@State.updCq a0 a1 a2)) := by
  unfold State.updCq
  try dsimp only
  repeat' first
    | with_reducible assumption
    | (with_reducible apply Keeps.foldl; intro _ _ _)
    | simp only [Keeps.mk_]
    | intro _
    | split

theorem State.updCc_keeps {fu : Fuses} {qu : List Instr} (a0) (a1) (a2) (h0 : Keeps fu qu a0) : Keeps fu qu ((@State.updCc a0 a1 a2)) := by
  unfold State.updCc
  try dsimp only
  repeat' first
    | with_reducible assumption
    | (with_reducible apply Keeps.foldl; intro _ _ _)
    | simp only [Keeps.mk_]
    | intro _
    | split

theorem State.journalEntry_keeps {fu : Fuses} {qu : List Instr} (a0) (a1) (h0 : Keeps fu qu a0) : Keeps fu qu ((@State.journalEntry a0 a1)) := by
  unfold State.journalEntry
  try dsimp only
  repeat' first
    | with_reducible assumption
    | with_reducible apply State.sdramRequests_keeps
    | (with_reducible apply Keeps.foldl; intro _ _ _)
    | simp only [Keeps.mk_]
    | intro _
    | split

theorem State.acceptEntry_keeps {fu : Fuses} {qu : List Instr} (a0) (a1) (a2) (h0 : Keeps fu qu a0) : Keeps fu qu ((@State.acceptEntry a0 a1 a2)) := by
  unfold State.acceptEntry
  try dsimp only
  repeat' first
    | with_reducible assumption
    | with_reducible apply State.emit_keeps
    | with_reducible apply State.finish_keeps
    | with_reducible apply State.updCq_keeps
    | with_reducible apply State.journalEntry_keeps
    | (with_reducible apply Keeps.foldl; intro _ _ _)
    | simp only [Keeps.mk_]
    | intro _
    | split

theorem State.dbgStep_keeps {fu : Fuses} {qu : List Instr} (a0) (a1) (h0 : Keeps fu qu a0) : Keeps fu qu ((@State.dbgStep a0 a1)) := by
  unfold State.dbgStep
  try dsimp only
  repeat' first
    | with_reducible assumption
    | with_reducible apply State.interrupt_keeps
    | with_reducible apply State.info_keeps
    | (with_reducible apply Keeps.foldl; intro _ _ _)
    | simp only [Keeps.mk_]
    | intro _
    | split

theorem State.settleRing_keeps {fu : Fuses} {qu : List Instr} (a0) (h0 : Keeps fu qu a0) : Keeps fu qu ((@State.settleRing a0)) := by
  unfold State.settleRing
  try dsimp only
  repeat' first
    | with_reducible assumption
    | with_reducible apply State.postV_keeps
    | (with_reducible apply Keeps.foldl; intro _ _ _)
    | simp only [Keeps.mk_]
    | intro _
    | split

theorem State.sendElect_keeps {fu : Fuses} {qu : List Instr} (a0) (a1) (a2) (a3) (h0 : Keeps fu qu a0) : Keeps fu qu ((@State.sendElect a0 a1 a2 a3)) := by
  unfold State.sendElect
  try dsimp only
  repeat' first
    | with_reducible assumption
    | with_reducible apply State.sendCounted_keeps
    | (with_reducible apply Keeps.foldl; intro _ _ _)
    | simp only [Keeps.mk_]
    | intro _
    | split

theorem State.sendBeacon_keeps {fu : Fuses} {qu : List Instr} (a0) (h0 : Keeps fu qu a0) : Keeps fu qu ((@State.sendBeacon a0)) := by
  unfold State.sendBeacon
  try dsimp only
  repeat' first
    | with_reducible assumption
    | with_reducible apply State.sendCounted_keeps
    | (with_reducible apply Keeps.foldl; intro _ _ _)
    | simp only [Keeps.mk_]
    | intro _
    | split

theorem State.measureOffset_keeps {fu : Fuses} {qu : List Instr} (a0) (h0 : Keeps fu qu a0) : Keeps fu qu ((@State.measureOffset a0)) := by
  unfold State.measureOffset
  try dsimp only
  repeat' first
    | with_reducible assumption
    | (with_reducible apply Keeps.foldl; intro _ _ _)
    | simp only [Keeps.mk_]
    | intro _
    | split

theorem State.appoint_keeps {fu : Fuses} {qu : List Instr} (a0) (a1) (h0 : Keeps fu qu a0) : Keeps fu qu ((@State.appoint a0 a1)) := by
  unfold State.appoint
  try dsimp only
  repeat' first
    | with_reducible assumption
    | with_reducible apply State.sendMirror_keeps
    | (with_reducible apply Keeps.foldl; intro _ _ _)
    | simp only [Keeps.mk_]
    | intro _
    | split

theorem State.seekStandby_keeps {fu : Fuses} {qu : List Instr} (a0) (a1) (h0 : Keeps fu qu a0) : Keeps fu qu ((@State.seekStandby a0 a1)) := by
  unfold State.seekStandby
  try dsimp only
  repeat' first
    | with_reducible assumption
    | with_reducible apply State.appoint_keeps
    | (with_reducible apply Keeps.foldl; intro _ _ _)
    | simp only [Keeps.mk_]
    | intro _
    | split

theorem State.offerStandby_keeps {fu : Fuses} {qu : List Instr} (a0) (a1) (h0 : Keeps fu qu a0) : Keeps fu qu ((@State.offerStandby a0 a1)) := by
  unfold State.offerStandby
  try dsimp only
  repeat' first
    | with_reducible assumption
    | with_reducible apply State.appoint_keeps
    | (with_reducible apply Keeps.foldl; intro _ _ _)
    | simp only [Keeps.mk_]
    | intro _
    | split

theorem State.runTransactions_keeps {fu : Fuses} {qu : List Instr} (a0) (h0 : Keeps fu qu a0) : Keeps fu qu ((@State.runTransactions a0)) := by
  unfold State.runTransactions
  try dsimp only
  repeat' first
    | with_reducible assumption
    | with_reducible apply State.runTransaction_keeps
    | (with_reducible apply Keeps.foldl; intro _ _ _)
    | simp only [Keeps.mk_]
    | intro _
    | split

theorem State.loseStandby_keeps {fu : Fuses} {qu : List Instr} (a0) (a1) (h0 : Keeps fu qu a0) : Keeps fu qu ((@State.loseStandby a0 a1)) := by
  unfold State.loseStandby
  try dsimp only
  repeat' first
    | with_reducible assumption
    | with_reducible apply State.info_keeps
    | with_reducible apply State.seekStandby_keeps
    | with_reducible apply State.runTransactions_keeps
    | (with_reducible apply Keeps.foldl; intro _ _ _)
    | simp only [Keeps.mk_]
    | intro _
    | split

theorem State.appointed_keeps {fu : Fuses} {qu : List Instr} (a0) (a1) (h0 : Keeps fu qu a0) : Keeps fu qu ((@State.appointed a0 a1)) := by
  unfold State.appointed
  try dsimp only
  repeat' first
    | with_reducible assumption
    | with_reducible apply State.transact_keeps
    | (with_reducible apply Keeps.foldl; intro _ _ _)
    | simp only [Keeps.mk_]
    | intro _
    | split

theorem State.admitChip_keeps {fu : Fuses} {qu : List Instr} (a0) (a1) (h0 : Keeps fu qu a0) : Keeps fu qu ((@State.admitChip a0 a1).1) := by
  unfold State.admitChip
  try dsimp only
  repeat' first
    | with_reducible assumption
    | with_reducible apply State.rosterChanged_keeps
    | (with_reducible apply Keeps.foldl; intro _ _ _)
    | simp only [Keeps.mk_]
    | intro _
    | split

theorem State.autoAdmit_keeps {fu : Fuses} {qu : List Instr} (a0) (a1) (a2) (a3) (h0 : Keeps fu qu a0) : Keeps fu qu ((@State.autoAdmit a0 a1 a2 a3)) := by
  unfold State.autoAdmit
  try dsimp only
  repeat' first
    | with_reducible assumption
    | with_reducible apply State.transact_keeps
    | with_reducible apply State.offerStandby_keeps
    | with_reducible apply State.admitChip_keeps
    | (with_reducible apply Keeps.foldl; intro _ _ _)
    | simp only [Keeps.mk_]
    | intro _
    | split

theorem State.enrol_keeps {fu : Fuses} {qu : List Instr} (a0) (h0 : Keeps fu qu a0) : Keeps fu qu ((@State.enrol a0)) := by
  unfold State.enrol
  try dsimp only
  repeat' first
    | with_reducible assumption
    | (with_reducible apply Keeps.foldl; intro _ _ _)
    | simp only [Keeps.mk_]
    | intro _
    | split

theorem State.adoptHeard_keeps {fu : Fuses} {qu : List Instr} (a0) (h0 : Keeps fu qu a0) : Keeps fu qu ((@State.adoptHeard a0)) := by
  unfold State.adoptHeard
  try dsimp only
  repeat' first
    | with_reducible assumption
    | (with_reducible apply Keeps.foldl; intro _ _ _)
    | simp only [Keeps.mk_]
    | intro _
    | split

theorem State.becomeManager_keeps {fu : Fuses} {qu : List Instr} (a0) (a1) (h0 : Keeps fu qu a0) : Keeps fu qu ((@State.becomeManager a0 a1)) := by
  unfold State.becomeManager
  try dsimp only
  repeat' first
    | with_reducible assumption
    | with_reducible apply State.info_keeps
    | with_reducible apply State.transact_keeps
    | with_reducible apply State.recordLimit_keeps
    | with_reducible apply State.rosterChanged_keeps
    | with_reducible apply State.sendBeacon_keeps
    | with_reducible apply State.enrol_keeps
    | (with_reducible apply Keeps.foldl; intro _ _ _)
    | simp only [Keeps.mk_]
    | intro _
    | split

theorem State.holdCopy_keeps {fu : Fuses} {qu : List Instr} (a0) (a1) (a2) (h0 : Keeps fu qu a0) : Keeps fu qu ((@State.holdCopy a0 a1 a2)) := by
  unfold State.holdCopy
  try dsimp only
  repeat' first
    | with_reducible assumption
    | with_reducible apply State.info_keeps
    | with_reducible apply State.mapPage_keeps
    | (with_reducible apply Keeps.foldl; intro _ _ _)
    | simp only [Keeps.mk_]
    | intro _
    | split

theorem State.requestReprint_keeps {fu : Fuses} {qu : List Instr} (a0) (a1) (a2) (a3) (h0 : Keeps fu qu a0) : Keeps fu qu ((@State.requestReprint a0 a1 a2 a3).1) := by
  unfold State.requestReprint
  try dsimp only
  repeat' first
    | with_reducible assumption
    | with_reducible apply State.markReprint_keeps
    | with_reducible apply State.placeForeign_keeps
    | with_reducible apply State.holdCopy_keeps
    | (with_reducible apply Keeps.foldl; intro _ _ _)
    | simp only [Keeps.mk_]
    | intro _
    | split

theorem State.profileTaken_keeps {fu : Fuses} {qu : List Instr} (a0) (a1) (h0 : Keeps fu qu a0) : Keeps fu qu ((@State.profileTaken a0 a1)) := by
  unfold State.profileTaken
  try dsimp only
  repeat' first
    | with_reducible assumption
    | (with_reducible apply Keeps.foldl; intro _ _ _)
    | simp only [Keeps.mk_]
    | intro _
    | split

theorem State.endForwarded_keeps {fu : Fuses} {qu : List Instr} (a0) (a1) (a2) (a3) (h0 : Keeps fu qu a0) : Keeps fu qu ((@State.endForwarded a0 a1 a2 a3)) := by
  unfold State.endForwarded
  try dsimp only
  repeat' first
    | with_reducible assumption
    | with_reducible apply State.finish_keeps
    | (with_reducible apply Keeps.foldl; intro _ _ _)
    | simp only [Keeps.mk_]
    | intro _
    | split

theorem State.managerTold_keeps {fu : Fuses} {qu : List Instr} (a0) (a1) (a2) (h0 : Keeps fu qu a0) : Keeps fu qu ((@State.managerTold a0 a1 a2).1) := by
  unfold State.managerTold
  try dsimp only
  repeat' first
    | with_reducible assumption
    | with_reducible apply State.rosterChanged_keeps
    | (with_reducible apply Keeps.foldl; intro _ _ _)
    | simp only [Keeps.mk_]
    | intro _
    | split

theorem State.processRole_keeps {fu : Fuses} {qu : List Instr} (a0) (a1) (a2) (a3) (h0 : Keeps fu qu a0) : Keeps fu qu ((@State.processRole a0 a1 a2 a3)) := by
  unfold State.processRole
  try dsimp only
  repeat' first
    | with_reducible assumption
    | with_reducible apply State.transact_keeps
    | with_reducible apply State.recordLimit_keeps
    | with_reducible apply State.managerReady_keeps
    | with_reducible apply State.placeForeign_keeps
    | with_reducible apply State.requestReprint_keeps
    | with_reducible apply State.profileTaken_keeps
    | with_reducible apply State.endForwarded_keeps
    | with_reducible apply State.managerTold_keeps
    | (with_reducible apply Keeps.foldl; intro _ _ _)
    | simp only [Keeps.mk_]
    | intro _
    | split

theorem State.setDelivery_keeps {fu : Fuses} {qu : List Instr} (a0) (a1) (h0 : Keeps fu qu a0) : Keeps fu qu ((@State.setDelivery a0 a1)) := by
  unfold State.setDelivery
  try dsimp only
  repeat' first
    | with_reducible assumption
    | (with_reducible apply Keeps.foldl; intro _ _ _)
    | simp only [Keeps.mk_]
    | intro _
    | split

theorem State.drain_keeps {fu : Fuses} {qu : List Instr} (a0 : State → Nat → Payload ⊕ MirrorMsg → State) (a1 a2 : Nat)
    (h0 : ∀ s y0 y1, Keeps fu qu s → Keeps fu qu (a0 s y0 y1)) : ∀ (n : Nat) (s : State), Keeps fu qu s → Keeps fu qu (State.drain a0 a1 a2 n s)
  | 0, _, h => h
  | n + 1, s, h => by
    unfold State.drain
    split
    · exact h
    · split
      · exact h
      · exact State.drain_keeps a0 a1 a2 h0 n _ (h0 _ _ _ (State.setDelivery_keeps _ _ h))

theorem State.acceptPacket_keeps {fu : Fuses} {qu : List Instr} (a0) (a1) (a2) (a3) (h0 : Keeps fu qu a0) (h1 : ∀ s y0 y1, Keeps fu qu s → Keeps fu qu ((a1 s y0 y1))) : Keeps fu qu ((@State.acceptPacket a0 a1 a2 a3)) := by
  unfold State.acceptPacket
  try dsimp only
  repeat' first
    | with_reducible assumption
    | with_reducible apply h1
    | with_reducible apply State.acknowledge_keeps
    | with_reducible apply State.setDelivery_keeps
    | with_reducible apply State.drain_keeps
    | (with_reducible apply Keeps.foldl; intro _ _ _)
    | simp only [Keeps.mk_]
    | intro _
    | split

theorem State.raiseSq_keeps {fu : Fuses} {qu : List Instr} (a0) (a1) (a2) (a3) (h0 : Keeps fu qu a0) : Keeps fu qu ((@State.raiseSq a0 a1 a2 a3)) := by
  unfold State.raiseSq
  try dsimp only
  repeat' first
    | with_reducible assumption
    | (with_reducible apply Keeps.foldl; intro _ _ _)
    | simp only [Keeps.mk_]
    | intro _
    | split

theorem State.coverRole_keeps {fu : Fuses} {qu : List Instr} (a0) (a1) (a2) (h0 : Keeps fu qu a0) : Keeps fu qu ((@State.coverRole a0 a1 a2)) := by
  unfold State.coverRole
  try dsimp only
  repeat' first
    | with_reducible assumption
    | with_reducible apply State.setDelivery_keeps
    | (with_reducible apply Keeps.foldl; intro _ _ _)
    | simp only [Keeps.mk_]
    | intro _
    | split

theorem State.coverFrom_keeps {fu : Fuses} {qu : List Instr} (a0) (a1) (a2) (a3) (h0 : Keeps fu qu a0) : Keeps fu qu ((@State.coverFrom a0 a1 a2 a3)) := by
  unfold State.coverFrom
  try dsimp only
  repeat' first
    | with_reducible assumption
    | with_reducible apply State.setDelivery_keeps
    | with_reducible apply State.coverRole_keeps
    | (with_reducible apply Keeps.foldl; intro _ _ _)
    | simp only [Keeps.mk_]
    | intro _
    | split

theorem State.recordRole_keeps {fu : Fuses} {qu : List Instr} (a0) (a1) (a2) (h0 : Keeps fu qu a0) : Keeps fu qu ((@State.recordRole a0 a1 a2)) := by
  unfold State.recordRole
  try dsimp only
  repeat' first
    | with_reducible assumption
    | with_reducible apply State.setDelivery_keeps
    | with_reducible apply State.raiseSq_keeps
    | (with_reducible apply Keeps.foldl; intro _ _ _)
    | simp only [Keeps.mk_]
    | intro _
    | split

theorem State.recordAck_keeps {fu : Fuses} {qu : List Instr} (a0) (a1) (a2) (h0 : Keeps fu qu a0) : Keeps fu qu ((@State.recordAck a0 a1 a2)) := by
  unfold State.recordAck
  try dsimp only
  repeat' first
    | with_reducible assumption
    | with_reducible apply State.raiseSq_keeps
    | with_reducible apply State.coverRole_keeps
    | (with_reducible apply Keeps.foldl; intro _ _ _)
    | simp only [Keeps.mk_]
    | intro _
    | split

theorem State.takeMirror_keeps {fu : Fuses} {qu : List Instr} (a0) (a1) (h0 : Keeps fu qu a0) : Keeps fu qu ((@State.takeMirror a0 a1)) := by
  unfold State.takeMirror
  try dsimp only
  repeat' first
    | with_reducible assumption
    | with_reducible apply State.calDirty_keeps
    | with_reducible apply State.raiseSq_keeps
    | with_reducible apply State.coverRole_keeps
    | with_reducible apply State.coverFrom_keeps
    | (with_reducible apply Keeps.foldl; intro _ _ _)
    | simp only [Keeps.mk_]
    | intro _
    | split

theorem State.controlMessage_keeps {fu : Fuses} {qu : List Instr} (a0) (a1) (h0 : Keeps fu qu a0) : Keeps fu qu ((@State.controlMessage a0 a1)) := by
  unfold State.controlMessage
  try dsimp only
  repeat' first
    | with_reducible assumption
    | with_reducible apply State.disarmAtEnd_keeps
    | with_reducible apply State.settleDisarm_keeps
    | with_reducible apply State.checkCalMark_keeps
    | with_reducible apply State.stepCalendar_keeps
    | with_reducible apply State.measureOffset_keeps
    | (with_reducible apply Keeps.foldl; intro _ _ _)
    | simp only [Keeps.mk_]
    | intro _
    | split

theorem State.takeProfile_keeps {fu : Fuses} {qu : List Instr} (a0) (a1) (a2) (h0 : Keeps fu qu a0) : Keeps fu qu ((@State.takeProfile a0 a1 a2)) := by
  unfold State.takeProfile
  try dsimp only
  repeat' first
    | with_reducible assumption
    | with_reducible apply State.finish_keeps
    | with_reducible apply State.ringSend_keeps
    | with_reducible apply State.acceptProfile_keeps
    | with_reducible apply State.journalEntry_keeps
    | (with_reducible apply Keeps.foldl; intro _ _ _)
    | simp only [Keeps.mk_]
    | intro _
    | split

theorem State.takeChunk_keeps {fu : Fuses} {qu : List Instr} (a0) (a1) (a2) (h0 : Keeps fu qu a0) : Keeps fu qu ((@State.takeChunk a0 a1 a2)) := by
  unfold State.takeChunk
  try dsimp only
  repeat' first
    | with_reducible assumption
    | with_reducible apply State.takeProfile_keeps
    | (with_reducible apply Keeps.foldl; intro _ _ _)
    | simp only [Keeps.mk_]
    | intro _
    | split

theorem State.takeHeld_keeps {fu : Fuses} {qu : List Instr} (a0) (a1) (a2) (a3) (h0 : Keeps fu qu a0) (h1 : ∀ s y0, Keeps fu qu s → Keeps fu qu ((a1 s y0))) : Keeps fu qu ((@State.takeHeld a0 a1 a2 a3)) := by
  unfold State.takeHeld
  try dsimp only
  repeat' first
    | with_reducible assumption
    | with_reducible apply h1
    | with_reducible apply State.setDelivery_keeps
    | (with_reducible apply Keeps.foldl; intro _ _ _)
    | simp only [Keeps.mk_]
    | intro _
    | split

theorem State.rechain_keeps {fu : Fuses} {qu : List Instr} (a0) (a1) (h0 : Keeps fu qu a0) : Keeps fu qu ((@State.rechain a0 a1)) := by
  unfold State.rechain
  try dsimp only
  repeat' first
    | with_reducible assumption
    | (with_reducible apply Keeps.foldl; intro _ _ _)
    | simp only [Keeps.mk_]
    | intro _
    | split

theorem State.takeOver_keeps {fu : Fuses} {qu : List Instr} (a0) (a1) (h0 : Keeps fu qu a0) (h1 : ∀ s y0, Keeps fu qu s → Keeps fu qu ((a1 s y0))) : Keeps fu qu ((@State.takeOver a0 a1)) := by
  unfold State.takeOver
  try dsimp only
  repeat' first
    | with_reducible assumption
    | with_reducible apply h1
    | with_reducible apply State.info_keeps
    | with_reducible apply State.sendNumbered_keeps
    | with_reducible apply State.acknowledge_keeps
    | with_reducible apply State.seekStandby_keeps
    | with_reducible apply State.becomeManager_keeps
    | with_reducible apply State.processRole_keeps
    | with_reducible apply State.drain_keeps
    | with_reducible apply State.takeHeld_keeps
    | with_reducible apply State.rechain_keeps
    | (with_reducible apply Keeps.foldl; intro _ _ _)
    | simp only [Keeps.mk_]
    | intro _
    | split

theorem State.processPlain_keeps {fu : Fuses} {qu : List Instr} (a0) (a1) (h0 : Keeps fu qu a0) : Keeps fu qu ((@State.processPlain a0 a1)) := by
  unfold State.processPlain
  try dsimp only
  repeat' first
    | with_reducible assumption
    | with_reducible apply State.syncPlaceLocal_keeps
    | with_reducible apply State.holdCopy_keeps
    | with_reducible apply State.takeMirror_keeps
    | with_reducible apply State.controlMessage_keeps
    | with_reducible apply State.takeChunk_keeps
    | (with_reducible apply Keeps.foldl; intro _ _ _)
    | simp only [Keeps.mk_]
    | intro _
    | split

theorem State.processNode_keeps {fu : Fuses} {qu : List Instr} (a0) (a1) (h0 : Keeps fu qu a0) : Keeps fu qu ((@State.processNode a0 a1)) := by
  unfold State.processNode
  try dsimp only
  repeat' first
    | with_reducible assumption
    | with_reducible apply State.takeOver_keeps
    | with_reducible apply State.processPlain_keeps
    | (with_reducible apply Keeps.foldl; intro _ _ _)
    | simp only [Keeps.mk_]
    | intro _
    | split

theorem State.forwardOn_keeps {fu : Fuses} {qu : List Instr} (a0) (a1) (a2) (a3) (h0 : Keeps fu qu a0) : Keeps fu qu ((@State.forwardOn a0 a1 a2 a3)) := by
  unfold State.forwardOn
  try dsimp only
  repeat' first
    | with_reducible assumption
    | with_reducible apply State.emit_keeps
    | (with_reducible apply Keeps.foldl; intro _ _ _)
    | simp only [Keeps.mk_]
    | intro _
    | split

theorem State.crcFailed_keeps {fu : Fuses} {qu : List Instr} (a0) (a1) (h0 : Keeps fu qu a0) : Keeps fu qu ((@State.crcFailed a0 a1)) := by
  unfold State.crcFailed
  try dsimp only
  repeat' first
    | with_reducible assumption
    | with_reducible apply State.updHalyard_keeps
    | with_reducible apply State.unlessShadowed_keeps
    | (with_reducible apply Keeps.foldl; intro _ _ _)
    | simp only [Keeps.mk_]
    | intro _
    | split

theorem State.receive_keeps {fu : Fuses} {qu : List Instr} (a0) (a1) (a2) (a3) (a4) (a5) (h0 : Keeps fu qu a0) (h4 : ∀ s, Keeps fu qu s → Keeps fu qu ((a4 s))) (h5 : ∀ s, Keeps fu qu s → Keeps fu qu ((a5 s))) : Keeps fu qu ((@State.receive a0 a1 a2 a3 a4 a5)) := by
  unfold State.receive
  try dsimp only
  repeat' first
    | with_reducible assumption
    | with_reducible apply h4
    | with_reducible apply h5
    | with_reducible apply State.emit_keeps
    | with_reducible apply State.countShot_keeps
    | with_reducible apply State.forwardOn_keeps
    | with_reducible apply State.crcFailed_keeps
    | (with_reducible apply Keeps.foldl; intro _ _ _)
    | simp only [Keeps.mk_]
    | intro _
    | split

theorem State.receiveBody_keeps {fu : Fuses} {qu : List Instr} (a0) (a1) (a2) (a3) (h0 : Keeps fu qu a0) : Keeps fu qu ((@State.receiveBody a0 a1 a2 a3)) := by
  unfold State.receiveBody
  try dsimp only
  repeat' first
    | with_reducible assumption
    | with_reducible apply State.acknowledge_keeps
    | with_reducible apply State.processRole_keeps
    | with_reducible apply State.acceptPacket_keeps
    | with_reducible apply State.recordRole_keeps
    | with_reducible apply State.processNode_keeps
    | with_reducible apply State.receive_keeps
    | (with_reducible apply Keeps.foldl; intro _ _ _)
    | simp only [Keeps.mk_]
    | intro _
    | split

theorem State.firstCopy_keeps {fu : Fuses} {qu : List Instr} (a0) (a1) (a2) (a3) (a4) (h0 : Keeps fu qu a0) (h4 : ∀ s, Keeps fu qu s → Keeps fu qu ((a4 s))) : Keeps fu qu ((@State.firstCopy a0 a1 a2 a3 a4)) := by
  unfold State.firstCopy
  try dsimp only
  repeat' first
    | with_reducible assumption
    | with_reducible apply h4
    | (with_reducible apply Keeps.foldl; intro _ _ _)
    | simp only [Keeps.mk_]
    | intro _
    | split

theorem State.steer_keeps {fu : Fuses} {qu : List Instr} (a0) (a1) (h0 : Keeps fu qu a0) : Keeps fu qu ((@State.steer a0 a1)) := by
  unfold State.steer
  try dsimp only
  repeat' first
    | with_reducible assumption
    | with_reducible apply State.stepCalendar_keeps
    | (with_reducible apply Keeps.foldl; intro _ _ _)
    | simp only [Keeps.mk_]
    | intro _
    | split

theorem State.demote_keeps {fu : Fuses} {qu : List Instr} (a0) (a1) (h0 : Keeps fu qu a0) : Keeps fu qu ((@State.demote a0 a1)) := by
  unfold State.demote
  try dsimp only
  repeat' first
    | with_reducible assumption
    | with_reducible apply State.finish_keeps
    | (with_reducible apply Keeps.foldl; intro _ _ _)
    | simp only [Keeps.mk_]
    | intro _
    | split

theorem State.takeBeacon_keeps {fu : Fuses} {qu : List Instr} (a0) (a1) (h0 : Keeps fu qu a0) : Keeps fu qu ((@State.takeBeacon a0 a1)) := by
  unfold State.takeBeacon
  try dsimp only
  repeat' first
    | with_reducible assumption
    | with_reducible apply State.demote_keeps
    | (with_reducible apply Keeps.foldl; intro _ _ _)
    | simp only [Keeps.mk_]
    | intro _
    | split

theorem State.hearCopy_keeps {fu : Fuses} {qu : List Instr} (a0) (a1) (a2) (h0 : Keeps fu qu a0) : Keeps fu qu ((@State.hearCopy a0 a1 a2)) := by
  unfold State.hearCopy
  try dsimp only
  repeat' first
    | with_reducible assumption
    | (with_reducible apply Keeps.foldl; intro _ _ _)
    | simp only [Keeps.mk_]
    | intro _
    | split

theorem State.rosterFollows_keeps {fu : Fuses} {qu : List Instr} (a0) (a1) (h0 : Keeps fu qu a0) : Keeps fu qu ((@State.rosterFollows a0 a1)) := by
  unfold State.rosterFollows
  try dsimp only
  repeat' first
    | with_reducible assumption
    | with_reducible apply State.rosterChanged_keeps
    | with_reducible apply State.loseStandby_keeps
    | (with_reducible apply Keeps.foldl; intro _ _ _)
    | simp only [Keeps.mk_]
    | intro _
    | split

theorem State.nodeAtManager_keeps {fu : Fuses} {qu : List Instr} (a0) (a1) (h0 : Keeps fu qu a0) : Keeps fu qu ((@State.nodeAtManager a0 a1)) := by
  unfold State.nodeAtManager
  try dsimp only
  repeat' first
    | with_reducible assumption
    | with_reducible apply State.seekStandby_keeps
    | with_reducible apply State.autoAdmit_keeps
    | with_reducible apply State.rosterFollows_keeps
    | (with_reducible apply Keeps.foldl; intro _ _ _)
    | simp only [Keeps.mk_]
    | intro _
    | split

theorem State.probe_keeps {fu : Fuses} {qu : List Instr} (a0) (h0 : Keeps fu qu a0) : Keeps fu qu ((@State.probe a0)) := by
  unfold State.probe
  try dsimp only
  repeat' first
    | with_reducible assumption
    | with_reducible apply State.sendElect_keeps
    | (with_reducible apply Keeps.foldl; intro _ _ _)
    | simp only [Keeps.mk_]
    | intro _
    | split

theorem State.takeAck_keeps {fu : Fuses} {qu : List Instr} (a0) (a1) (a2) (h0 : Keeps fu qu a0) : Keeps fu qu ((@State.takeAck a0 a1 a2)) := by
  unfold State.takeAck
  try dsimp only
  repeat' first
    | with_reducible assumption
    | with_reducible apply State.runTransaction_keeps
    | with_reducible apply State.appointed_keeps
    | (with_reducible apply Keeps.foldl; intro _ _ _)
    | simp only [Keeps.mk_]
    | intro _
    | split

theorem State.packetFailed_keeps {fu : Fuses} {qu : List Instr} (a0) (a1) (h0 : Keeps fu qu a0) : Keeps fu qu ((@State.packetFailed a0 a1)) := by
  unfold State.packetFailed
  try dsimp only
  repeat' first
    | with_reducible assumption
    | with_reducible apply State.finish_keeps
    | with_reducible apply State.loseStandby_keeps
    | with_reducible apply State.endForwarded_keeps
    | (with_reducible apply Keeps.foldl; intro _ _ _)
    | simp only [Keeps.mk_]
    | intro _
    | split

theorem State.unaccepted_keeps {fu : Fuses} {qu : List Instr} (a0) (a1) (h0 : Keeps fu qu a0) : Keeps fu qu ((@State.unaccepted a0 a1)) := by
  unfold State.unaccepted
  try dsimp only
  repeat' first
    | with_reducible assumption
    | with_reducible apply State.endForwarded_keeps
    | (with_reducible apply Keeps.foldl; intro _ _ _)
    | simp only [Keeps.mk_]
    | intro _
    | split

theorem State.dropNode_keeps {fu : Fuses} {qu : List Instr} (a0) (a1) (h0 : Keeps fu qu a0) : Keeps fu qu ((@State.dropNode a0 a1)) := by
  unfold State.dropNode
  try dsimp only
  repeat' first
    | with_reducible assumption
    | with_reducible apply State.postV_keeps
    | with_reducible apply State.rosterChanged_keeps
    | with_reducible apply State.loseStandby_keeps
    | (with_reducible apply Keeps.foldl; intro _ _ _)
    | simp only [Keeps.mk_]
    | intro _
    | split

theorem State.setRole_keeps {fu : Fuses} {qu : List Instr} (a0) (a1) (h0 : Keeps fu qu a0) : Keeps fu qu ((@State.setRole a0 a1)) := by
  unfold State.setRole
  try dsimp only
  repeat' first
    | with_reducible assumption
    | with_reducible apply State.ownEntry_keeps
    | (with_reducible apply Keeps.foldl; intro _ _ _)
    | simp only [Keeps.mk_]
    | intro _
    | split

theorem State.handOver_keeps {fu : Fuses} {qu : List Instr} (a0) (a1) (h0 : Keeps fu qu a0) : Keeps fu qu ((@State.handOver a0 a1)) := by
  unfold State.handOver
  try dsimp only
  repeat' first
    | with_reducible assumption
    | with_reducible apply State.finish_keeps
    | with_reducible apply State.takeSq_keeps
    | with_reducible apply State.sendNumbered_keeps
    | with_reducible apply State.runTransactions_keeps
    | (with_reducible apply Keeps.foldl; intro _ _ _)
    | simp only [Keeps.mk_]
    | intro _
    | split

theorem State.setSpeedPolicy_keeps {fu : Fuses} {qu : List Instr} (a0) (a1) (a2) (h0 : Keeps fu qu a0) : Keeps fu qu ((@State.setSpeedPolicy a0 a1 a2)) := by
  unfold State.setSpeedPolicy
  try dsimp only
  repeat' first
    | with_reducible assumption
    | (with_reducible apply Keeps.foldl; intro _ _ _)
    | simp only [Keeps.mk_]
    | intro _
    | split

theorem State.replaceReset_keeps {fu : Fuses} {qu : List Instr} (a0) (a1) (h0 : Keeps fu qu a0) : Keeps fu qu ((@State.replaceReset a0 a1)) := by
  unfold State.replaceReset
  try dsimp only
  repeat' first
    | with_reducible assumption
    | with_reducible apply State.finish_keeps
    | (with_reducible apply Keeps.foldl; intro _ _ _)
    | simp only [Keeps.mk_]
    | intro _
    | split

theorem State.hostResetPennant_keeps {fu : Fuses} {qu : List Instr} (a0) (a1) (a2) (h0 : Keeps fu qu a0) : Keeps fu qu ((@State.hostResetPennant a0 a1 a2)) := by
  unfold State.hostResetPennant
  try dsimp only
  repeat' first
    | with_reducible assumption
    | with_reducible apply State.updPennant_keeps
    | with_reducible apply State.fencePennant_keeps
    | with_reducible apply State.resetPennant_keeps
    | with_reducible apply State.replaceReset_keeps
    | (with_reducible apply Keeps.foldl; intro _ _ _)
    | simp only [Keeps.mk_]
    | intro _
    | split

theorem State.hostResetUnit_keeps {fu : Fuses} {qu : List Instr} (a0) (a1) (a2) (h0 : Keeps fu qu a0) : Keeps fu qu ((@State.hostResetUnit a0 a1 a2)) := by
  unfold State.hostResetUnit
  try dsimp only
  repeat' first
    | with_reducible assumption
    | with_reducible apply State.updUnit_keeps
    | with_reducible apply State.fenceUnit_keeps
    | with_reducible apply State.resetDecompressor_keeps
    | with_reducible apply State.replaceReset_keeps
    | (with_reducible apply Keeps.foldl; intro _ _ _)
    | simp only [Keeps.mk_]
    | intro _
    | split

theorem State.hostResetPort_keeps {fu : Fuses} {qu : List Instr} (a0) (a1) (a2) (h0 : Keeps fu qu a0) : Keeps fu qu ((@State.hostResetPort a0 a1 a2)) := by
  unfold State.hostResetPort
  try dsimp only
  repeat' first
    | with_reducible assumption
    | with_reducible apply State.finish_keeps
    | with_reducible apply State.updPort_keeps
    | with_reducible apply State.retirePort_keeps
    | with_reducible apply State.settleRetire_keeps
    | with_reducible apply State.startHeadResets_keeps
    | with_reducible apply State.retireAtOnce_keeps
    | with_reducible apply State.replaceReset_keeps
    | (with_reducible apply Keeps.foldl; intro _ _ _)
    | simp only [Keeps.mk_]
    | intro _
    | split

theorem State.hostResetHalyard_keeps {fu : Fuses} {qu : List Instr} (a0) (a1) (a2) (h0 : Keeps fu qu a0) : Keeps fu qu ((@State.hostResetHalyard a0 a1 a2)) := by
  unfold State.hostResetHalyard
  try dsimp only
  repeat' first
    | with_reducible assumption
    | with_reducible apply State.updHalyard_keeps
    | with_reducible apply State.openWindow_keeps
    | with_reducible apply State.dropInjections_keeps
    | with_reducible apply State.beginTraining_keeps
    | with_reducible apply State.bothOut_keeps
    | with_reducible apply State.replaceReset_keeps
    | (with_reducible apply Keeps.foldl; intro _ _ _)
    | simp only [Keeps.mk_]
    | intro _
    | split

theorem State.hostResetAxis_keeps {fu : Fuses} {qu : List Instr} (a0) (a1) (a2) (h0 : Keeps fu qu a0) : Keeps fu qu ((@State.hostResetAxis a0 a1 a2)) := by
  unfold State.hostResetAxis
  try dsimp only
  repeat' first
    | with_reducible assumption
    | with_reducible apply State.updAxis_keeps
    | with_reducible apply State.endMotion_keeps
    | with_reducible apply State.openWindow_keeps
    | with_reducible apply State.dropInjections_keeps
    | with_reducible apply State.checkPrintPosition_keeps
    | with_reducible apply State.replaceReset_keeps
    | (with_reducible apply Keeps.foldl; intro _ _ _)
    | simp only [Keeps.mk_]
    | intro _
    | split

theorem State.withFetchWord_keeps {fu : Fuses} {qu : List Instr} (s : State) (a b : Nat) (h : Keeps fu qu s) : Keeps fu qu (s.withFetchWord a b) := h

end Sys2Proof.Machine
end

