-- ==== Sys2Proof/Laws/Memory.lean ====
section
/-!
SUPPORT. Laws/Memory.lean: the byte memory of the nozzle states (R133). Every operation on it keeps the canonical form, a byte that is
written reads back, and a write leaves every other byte as it is.
-/

namespace Sys2Proof.Machine

variable {α : Type} [DecidableEq α] {d : α}

/-- The canonical form, said with the standard library's words: keys strictly rise, and no value is the default. -/
theorem SMap.wf_iff {m : List (Nat × α)} : SMap.wf d m = true ↔ m.Pairwise (fun a b => a.1 < b.1) ∧ ∀ e ∈ m, e.2 ≠ d := by
  induction m with
  | nil => simp [SMap.wf]
  | cons e t ih =>
    obtain ⟨j, v⟩ := e
    cases t with
    | nil => simp [SMap.wf]
    | cons e' t' =>
      obtain ⟨k, w⟩ := e'
      rw [SMap.wf, Bool.and_eq_true, Bool.and_eq_true, ih, List.pairwise_cons (a := (j, v))]
      simp only [decide_eq_true_eq, List.mem_cons, forall_eq_or_imp, List.pairwise_cons]
      constructor
      · rintro ⟨⟨h1, h2⟩, ⟨h3, h4⟩, h5, h6⟩
        exact ⟨⟨⟨h2, fun a ha => Nat.lt_trans h2 (h3 a ha)⟩, h3, h4⟩, h1, h5, h6⟩
      · rintro ⟨⟨⟨h2, _⟩, h3, h4⟩, h1, h5, h6⟩
        exact ⟨⟨h1, h2⟩, ⟨h3, h4⟩, h5, h6⟩

theorem SMap.wf_filter {m : List (Nat × α)} (p : Nat × α → Bool) (h : SMap.wf d m = true) : SMap.wf d (m.filter p) = true := by
  rw [SMap.wf_iff] at *
  exact ⟨h.1.filter p, fun e he => h.2 e (List.mem_filter.1 he).1⟩

theorem SMap.wf_erase {m : List (Nat × α)} (k : Nat) (h : SMap.wf d m = true) : SMap.wf d (SMap.erase k m) = true := SMap.wf_filter _ h

omit [DecidableEq α] in
theorem SMap.mem_insert {m : List (Nat × α)} {k : Nat} {v : α} {e : Nat × α} : e ∈ SMap.insert k v m ↔ e = (k, v) ∨ e ∈ m := by
  induction m with
  | nil => simp [SMap.insert]
  | cons c t ih =>
    unfold SMap.insert
    split
    · simp
    · simp only [List.mem_cons, ih]; exact or_left_comm

theorem SMap.wf_insert {m : List (Nat × α)} {k : Nat} {v : α} (hv : v ≠ d) (hk : ∀ e ∈ m, e.1 ≠ k) (h : SMap.wf d m = true) :
    SMap.wf d (SMap.insert k v m) = true := by
  rw [SMap.wf_iff] at *
  refine ⟨?_, fun e he => ?_⟩
  · induction m with
    | nil => simp [SMap.insert]
    | cons c t ih =>
      have hc := List.pairwise_cons.1 h.1
      have ht := ih (fun e he => hk e (List.mem_cons_of_mem _ he)) ⟨hc.2, fun e he => h.2 e (List.mem_cons_of_mem _ he)⟩
      unfold SMap.insert
      split
      · rename_i hlt
        refine List.pairwise_cons.2 ⟨fun e he => ?_, h.1⟩
        rcases List.mem_cons.1 he with rfl | he
        · exact hlt
        · exact Nat.lt_trans hlt (hc.1 e he)
      · rename_i hlt
        have hne := hk c List.mem_cons_self
        refine List.pairwise_cons.2 ⟨fun e he => ?_, ht⟩
        rcases SMap.mem_insert.1 he with rfl | he
        · show c.1 < k; omega
        · exact hc.1 e he
  · rcases SMap.mem_insert.1 he with rfl | he
    · exact hv
    · exact h.2 e he

/-- Setting a key keeps the canonical form. -/
theorem SMap.wf_set {m : List (Nat × α)} (k : Nat) (v : α) (h : SMap.wf d m = true) : SMap.wf d (SMap.set d m k v) = true := by
  unfold SMap.set
  split
  · exact SMap.wf_erase k h
  · rename_i hv
    exact SMap.wf_insert hv (fun e he => by simpa using (List.mem_filter.1 he).2) (SMap.wf_erase k h)

omit [DecidableEq α] in
theorem SMap.find?_erase (k j : Nat) (m : List (Nat × α)) : SMap.find? j (SMap.erase k m) = if j = k then none else SMap.find? j m := by
  induction m with
  | nil => simp [SMap.erase, SMap.find?]
  | cons c t ih =>
    unfold SMap.erase at *
    by_cases hc : c.1 = k
    · simp only [hc, bne_self_eq_false, Bool.false_eq_true, not_false_eq_true, List.filter_cons_of_neg, ih, SMap.find?]
      grind
    · simp only [bne_iff_ne, ne_eq, hc, not_false_eq_true, List.filter_cons_of_pos, SMap.find?, ih]
      grind

omit [DecidableEq α] in
theorem SMap.find?_insert (k j : Nat) (v : α) (m : List (Nat × α)) (hk : SMap.find? k m = none) :
    SMap.find? j (SMap.insert k v m) = if j = k then some v else SMap.find? j m := by
  induction m with
  | nil => simp [SMap.insert, SMap.find?, eq_comm]
  | cons c t ih =>
    simp only [SMap.find?] at hk
    unfold SMap.insert
    split
    · simp only [SMap.find?, eq_comm]
    · simp only [SMap.find?]
      grind

/-- What is set reads back. -/
theorem SMap.get_set_self (m : List (Nat × α)) (k : Nat) (v : α) : SMap.get d (SMap.set d m k v) k = v := by
  unfold SMap.get SMap.set
  split
  · rename_i h; simp [SMap.find?_erase, h]
  · rw [SMap.find?_insert _ _ _ _ (by simp [SMap.find?_erase])]; simp

/-- Setting a key leaves every other key as it is. -/
theorem SMap.get_set_ne (m : List (Nat × α)) {k j : Nat} (v : α) (h : j ≠ k) : SMap.get d (SMap.set d m k v) j = SMap.get d m j := by
  unfold SMap.get SMap.set
  split
  · simp [SMap.find?_erase, h]
  · rw [SMap.find?_insert _ _ _ _ (by simp [SMap.find?_erase])]; simp [SMap.find?_erase, h]

/-- A byte written reads back. -/
theorem Memory.read_write_self (m : List Host.Cell) (a : Nat) (v : Byte) : Memory.read (Memory.write m a v) a = v := SMap.get_set_self m a v

/-- A write leaves every other byte as it is. -/
theorem Memory.read_write_ne (m : List Host.Cell) {a b : Nat} (v : Byte) (h : b ≠ a) : Memory.read (Memory.write m a v) b = Memory.read m b :=
  SMap.get_set_ne m v h

/-- A write keeps the canonical form. -/
theorem Memory.write_wf {m : List Host.Cell} (a : Nat) (v : Byte) (h : Memory.wf m = true) : Memory.wf (Memory.write m a v) = true :=
  SMap.wf_set a v h

/-- Writes in order keep the canonical form. -/
theorem Memory.writeAll_wf {m : List Host.Cell} (l : List Host.Cell) (h : Memory.wf m = true) : Memory.wf (Memory.writeAll m l) = true := by
  unfold Memory.writeAll
  induction l generalizing m with
  | nil => exact h
  | cons c t ih => exact ih (Memory.write_wf c.1 c.2 h)

/-- Taking out the nozzles of a head keeps the canonical form. -/
theorem Memory.clearHead_wf {m : List Host.Cell} (n size : Nat) (h : Memory.wf m = true) : Memory.wf (clearHead n size m) = true :=
  SMap.wf_filter _ h

/-- Placing the states of a head keeps the canonical form. -/
theorem Memory.placeAt_wf {m : List Host.Cell} (base : Nat) (l : List Host.Cell) (h : Memory.wf m = true) :
    Memory.wf (placeAt Memory.empty base m l) = true := by
  unfold placeAt
  induction l generalizing m with
  | nil => exact h
  | cons c t ih => exact ih (Memory.write_wf (base + c.1) c.2 h)

/-- The nozzle table at reset is in canonical form. -/
theorem Memory.reset_wf : Memory.wf State.reset.lines.nozzles = true := rfl

end Sys2Proof.Machine
end

