-- ==== Sys2Proof/Laws/State.lean ====
section
/-!
SUPPORT. Laws/State.lean: for each update of the state that commands share, the parts that it leaves as they were, one lemma per part.
-/

set_option linter.all false

namespace Sys2Proof.Machine

open Sys2Proof.Safety

@[simp] theorem State.tick_now (s : State) (t : Nat) : (s.tick t).now = max s.now t := rfl
@[simp] theorem State.emit_out (s : State) (o : Out) : (s.emit o).out = o :: s.out := rfl
@[simp] theorem State.mapEntry_entries (s : State) (seq : Nat) (f : JEntry → JEntry) :
    (s.mapEntry seq f).journal.entries = s.journal.entries.map fun e => if e.seq == seq then f e else e := rfl

/-! ### tick -/

@[simp] theorem State.tick_fuses (s : State) (x1) : ((@State.tick s x1)).fuses = s.fuses :=
  State.tick_only s x1 (Within.refl _) (Only.refl _ s) .fuses (by decide)
@[simp] theorem State.tick_flash (s : State) (x1) : ((@State.tick s x1)).flash = s.flash :=
  State.tick_only s x1 (Within.refl _) (Only.refl _ s) .flash (by decide)
@[simp] theorem State.tick_power (s : State) (x1) : ((@State.tick s x1)).power = s.power :=
  State.tick_only s x1 (Within.refl _) (Only.refl _ s) .power (by decide)
@[simp] theorem State.tick_host (s : State) (x1) : ((@State.tick s x1)).host = s.host :=
  State.tick_only s x1 (Within.refl _) (Only.refl _ s) .host (by decide)
@[simp] theorem State.tick_journal (s : State) (x1) : ((@State.tick s x1)).journal = s.journal :=
  State.tick_only s x1 (Within.refl _) (Only.refl _ s) .journal (by decide)
@[simp] theorem State.tick_store (s : State) (x1) : ((@State.tick s x1)).store = s.store :=
  State.tick_only s x1 (Within.refl _) (Only.refl _ s) .store (by decide)
@[simp] theorem State.tick_codec (s : State) (x1) : ((@State.tick s x1)).codec = s.codec :=
  State.tick_only s x1 (Within.refl _) (Only.refl _ s) .codec (by decide)
@[simp] theorem State.tick_render (s : State) (x1) : ((@State.tick s x1)).render = s.render :=
  State.tick_only s x1 (Within.refl _) (Only.refl _ s) .render (by decide)
@[simp] theorem State.tick_lines (s : State) (x1) : ((@State.tick s x1)).lines = s.lines :=
  State.tick_only s x1 (Within.refl _) (Only.refl _ s) .lines (by decide)
@[simp] theorem State.tick_pos (s : State) (x1) : ((@State.tick s x1)).pos = s.pos :=
  State.tick_only s x1 (Within.refl _) (Only.refl _ s) .pos (by decide)
@[simp] theorem State.tick_heads (s : State) (x1) : ((@State.tick s x1)).heads = s.heads :=
  State.tick_only s x1 (Within.refl _) (Only.refl _ s) .heads (by decide)
@[simp] theorem State.tick_loop (s : State) (x1) : ((@State.tick s x1)).loop = s.loop :=
  State.tick_only s x1 (Within.refl _) (Only.refl _ s) .loop (by decide)
@[simp] theorem State.tick_ring (s : State) (x1) : ((@State.tick s x1)).ring = s.ring :=
  State.tick_only s x1 (Within.refl _) (Only.refl _ s) .ring (by decide)
@[simp] theorem State.tick_axes (s : State) (x1) : ((@State.tick s x1)).axes = s.axes :=
  State.tick_only s x1 (Within.refl _) (Only.refl _ s) .axes (by decide)
@[simp] theorem State.tick_axisCycle (s : State) (x1) : ((@State.tick s x1)).axisCycle = s.axisCycle :=
  State.tick_only s x1 (Within.refl _) (Only.refl _ s) .axisCycle (by decide)
@[simp] theorem State.tick_dmc (s : State) (x1) : ((@State.tick s x1)).dmc = s.dmc :=
  State.tick_only s x1 (Within.refl _) (Only.refl _ s) .dmc (by decide)
@[simp] theorem State.tick_flt (s : State) (x1) : ((@State.tick s x1)).flt = s.flt :=
  State.tick_only s x1 (Within.refl _) (Only.refl _ s) .flt (by decide)
@[simp] theorem State.tick_evt (s : State) (x1) : ((@State.tick s x1)).evt = s.evt :=
  State.tick_only s x1 (Within.refl _) (Only.refl _ s) .evt (by decide)
@[simp] theorem State.tick_cal (s : State) (x1) : ((@State.tick s x1)).cal = s.cal :=
  State.tick_only s x1 (Within.refl _) (Only.refl _ s) .cal (by decide)
@[simp] theorem State.tick_hb (s : State) (x1) : ((@State.tick s x1)).hb = s.hb :=
  State.tick_only s x1 (Within.refl _) (Only.refl _ s) .hb (by decide)
@[simp] theorem State.tick_out (s : State) (x1) : ((@State.tick s x1)).out = s.out :=
  State.tick_only s x1 (Within.refl _) (Only.refl _ s) .out (by decide)
@[simp] theorem State.tick_free (s : State) (x1) : ((@State.tick s x1)).free = s.free :=
  State.tick_only s x1 (Within.refl _) (Only.refl _ s) .free (by decide)
@[simp] theorem State.tick_pending (s : State) (x1) : ((@State.tick s x1)).pending = s.pending :=
  State.tick_only s x1 (Within.refl _) (Only.refl _ s) .pending (by decide)

/-! ### emit -/

@[simp] theorem State.emit_now (s : State) (x1) : ((@State.emit s x1)).now = s.now :=
  State.emit_only s x1 (Within.refl _) (Only.refl _ s) .now (by decide)
@[simp] theorem State.emit_fuses (s : State) (x1) : ((@State.emit s x1)).fuses = s.fuses :=
  State.emit_only s x1 (Within.refl _) (Only.refl _ s) .fuses (by decide)
@[simp] theorem State.emit_flash (s : State) (x1) : ((@State.emit s x1)).flash = s.flash :=
  State.emit_only s x1 (Within.refl _) (Only.refl _ s) .flash (by decide)
@[simp] theorem State.emit_power (s : State) (x1) : ((@State.emit s x1)).power = s.power :=
  State.emit_only s x1 (Within.refl _) (Only.refl _ s) .power (by decide)
@[simp] theorem State.emit_host (s : State) (x1) : ((@State.emit s x1)).host = s.host :=
  State.emit_only s x1 (Within.refl _) (Only.refl _ s) .host (by decide)
@[simp] theorem State.emit_journal (s : State) (x1) : ((@State.emit s x1)).journal = s.journal :=
  State.emit_only s x1 (Within.refl _) (Only.refl _ s) .journal (by decide)
@[simp] theorem State.emit_store (s : State) (x1) : ((@State.emit s x1)).store = s.store :=
  State.emit_only s x1 (Within.refl _) (Only.refl _ s) .store (by decide)
@[simp] theorem State.emit_codec (s : State) (x1) : ((@State.emit s x1)).codec = s.codec :=
  State.emit_only s x1 (Within.refl _) (Only.refl _ s) .codec (by decide)
@[simp] theorem State.emit_render (s : State) (x1) : ((@State.emit s x1)).render = s.render :=
  State.emit_only s x1 (Within.refl _) (Only.refl _ s) .render (by decide)
@[simp] theorem State.emit_lines (s : State) (x1) : ((@State.emit s x1)).lines = s.lines :=
  State.emit_only s x1 (Within.refl _) (Only.refl _ s) .lines (by decide)
@[simp] theorem State.emit_pos (s : State) (x1) : ((@State.emit s x1)).pos = s.pos :=
  State.emit_only s x1 (Within.refl _) (Only.refl _ s) .pos (by decide)
@[simp] theorem State.emit_heads (s : State) (x1) : ((@State.emit s x1)).heads = s.heads :=
  State.emit_only s x1 (Within.refl _) (Only.refl _ s) .heads (by decide)
@[simp] theorem State.emit_loop (s : State) (x1) : ((@State.emit s x1)).loop = s.loop :=
  State.emit_only s x1 (Within.refl _) (Only.refl _ s) .loop (by decide)
@[simp] theorem State.emit_ring (s : State) (x1) : ((@State.emit s x1)).ring = s.ring :=
  State.emit_only s x1 (Within.refl _) (Only.refl _ s) .ring (by decide)
@[simp] theorem State.emit_axes (s : State) (x1) : ((@State.emit s x1)).axes = s.axes :=
  State.emit_only s x1 (Within.refl _) (Only.refl _ s) .axes (by decide)
@[simp] theorem State.emit_axisCycle (s : State) (x1) : ((@State.emit s x1)).axisCycle = s.axisCycle :=
  State.emit_only s x1 (Within.refl _) (Only.refl _ s) .axisCycle (by decide)
@[simp] theorem State.emit_dmc (s : State) (x1) : ((@State.emit s x1)).dmc = s.dmc :=
  State.emit_only s x1 (Within.refl _) (Only.refl _ s) .dmc (by decide)
@[simp] theorem State.emit_flt (s : State) (x1) : ((@State.emit s x1)).flt = s.flt :=
  State.emit_only s x1 (Within.refl _) (Only.refl _ s) .flt (by decide)
@[simp] theorem State.emit_evt (s : State) (x1) : ((@State.emit s x1)).evt = s.evt :=
  State.emit_only s x1 (Within.refl _) (Only.refl _ s) .evt (by decide)
@[simp] theorem State.emit_cal (s : State) (x1) : ((@State.emit s x1)).cal = s.cal :=
  State.emit_only s x1 (Within.refl _) (Only.refl _ s) .cal (by decide)
@[simp] theorem State.emit_hb (s : State) (x1) : ((@State.emit s x1)).hb = s.hb :=
  State.emit_only s x1 (Within.refl _) (Only.refl _ s) .hb (by decide)
@[simp] theorem State.emit_free (s : State) (x1) : ((@State.emit s x1)).free = s.free :=
  State.emit_only s x1 (Within.refl _) (Only.refl _ s) .free (by decide)
@[simp] theorem State.emit_pending (s : State) (x1) : ((@State.emit s x1)).pending = s.pending :=
  State.emit_only s x1 (Within.refl _) (Only.refl _ s) .pending (by decide)

/-! ### interrupt -/

@[simp] theorem State.interrupt_now (s : State) (x1) : ((@State.interrupt s x1)).now = s.now :=
  State.interrupt_only s x1 (Within.refl _) (Only.refl _ s) .now (by decide)
@[simp] theorem State.interrupt_fuses (s : State) (x1) : ((@State.interrupt s x1)).fuses = s.fuses :=
  State.interrupt_only s x1 (Within.refl _) (Only.refl _ s) .fuses (by decide)
@[simp] theorem State.interrupt_flash (s : State) (x1) : ((@State.interrupt s x1)).flash = s.flash :=
  State.interrupt_only s x1 (Within.refl _) (Only.refl _ s) .flash (by decide)
@[simp] theorem State.interrupt_power (s : State) (x1) : ((@State.interrupt s x1)).power = s.power :=
  State.interrupt_only s x1 (Within.refl _) (Only.refl _ s) .power (by decide)
@[simp] theorem State.interrupt_journal (s : State) (x1) : ((@State.interrupt s x1)).journal = s.journal :=
  State.interrupt_only s x1 (Within.refl _) (Only.refl _ s) .journal (by decide)
@[simp] theorem State.interrupt_store (s : State) (x1) : ((@State.interrupt s x1)).store = s.store :=
  State.interrupt_only s x1 (Within.refl _) (Only.refl _ s) .store (by decide)
@[simp] theorem State.interrupt_codec (s : State) (x1) : ((@State.interrupt s x1)).codec = s.codec :=
  State.interrupt_only s x1 (Within.refl _) (Only.refl _ s) .codec (by decide)
@[simp] theorem State.interrupt_render (s : State) (x1) : ((@State.interrupt s x1)).render = s.render :=
  State.interrupt_only s x1 (Within.refl _) (Only.refl _ s) .render (by decide)
@[simp] theorem State.interrupt_lines (s : State) (x1) : ((@State.interrupt s x1)).lines = s.lines :=
  State.interrupt_only s x1 (Within.refl _) (Only.refl _ s) .lines (by decide)
@[simp] theorem State.interrupt_pos (s : State) (x1) : ((@State.interrupt s x1)).pos = s.pos :=
  State.interrupt_only s x1 (Within.refl _) (Only.refl _ s) .pos (by decide)
@[simp] theorem State.interrupt_heads (s : State) (x1) : ((@State.interrupt s x1)).heads = s.heads :=
  State.interrupt_only s x1 (Within.refl _) (Only.refl _ s) .heads (by decide)
@[simp] theorem State.interrupt_loop (s : State) (x1) : ((@State.interrupt s x1)).loop = s.loop :=
  State.interrupt_only s x1 (Within.refl _) (Only.refl _ s) .loop (by decide)
@[simp] theorem State.interrupt_ring (s : State) (x1) : ((@State.interrupt s x1)).ring = s.ring :=
  State.interrupt_only s x1 (Within.refl _) (Only.refl _ s) .ring (by decide)
@[simp] theorem State.interrupt_axes (s : State) (x1) : ((@State.interrupt s x1)).axes = s.axes :=
  State.interrupt_only s x1 (Within.refl _) (Only.refl _ s) .axes (by decide)
@[simp] theorem State.interrupt_axisCycle (s : State) (x1) : ((@State.interrupt s x1)).axisCycle = s.axisCycle :=
  State.interrupt_only s x1 (Within.refl _) (Only.refl _ s) .axisCycle (by decide)
@[simp] theorem State.interrupt_dmc (s : State) (x1) : ((@State.interrupt s x1)).dmc = s.dmc :=
  State.interrupt_only s x1 (Within.refl _) (Only.refl _ s) .dmc (by decide)
@[simp] theorem State.interrupt_flt (s : State) (x1) : ((@State.interrupt s x1)).flt = s.flt :=
  State.interrupt_only s x1 (Within.refl _) (Only.refl _ s) .flt (by decide)
@[simp] theorem State.interrupt_evt (s : State) (x1) : ((@State.interrupt s x1)).evt = s.evt :=
  State.interrupt_only s x1 (Within.refl _) (Only.refl _ s) .evt (by decide)
@[simp] theorem State.interrupt_cal (s : State) (x1) : ((@State.interrupt s x1)).cal = s.cal :=
  State.interrupt_only s x1 (Within.refl _) (Only.refl _ s) .cal (by decide)
@[simp] theorem State.interrupt_hb (s : State) (x1) : ((@State.interrupt s x1)).hb = s.hb :=
  State.interrupt_only s x1 (Within.refl _) (Only.refl _ s) .hb (by decide)
@[simp] theorem State.interrupt_free (s : State) (x1) : ((@State.interrupt s x1)).free = s.free :=
  State.interrupt_only s x1 (Within.refl _) (Only.refl _ s) .free (by decide)
@[simp] theorem State.interrupt_pending (s : State) (x1) : ((@State.interrupt s x1)).pending = s.pending :=
  State.interrupt_only s x1 (Within.refl _) (Only.refl _ s) .pending (by decide)

/-! ### mapEntry -/

@[simp] theorem State.mapEntry_now (s : State) (x1) (x2) : ((@State.mapEntry s x1 x2)).now = s.now :=
  State.mapEntry_only s x1 x2 (Within.refl _) (Only.refl _ s) .now (by decide)
@[simp] theorem State.mapEntry_fuses (s : State) (x1) (x2) : ((@State.mapEntry s x1 x2)).fuses = s.fuses :=
  State.mapEntry_only s x1 x2 (Within.refl _) (Only.refl _ s) .fuses (by decide)
@[simp] theorem State.mapEntry_flash (s : State) (x1) (x2) : ((@State.mapEntry s x1 x2)).flash = s.flash :=
  State.mapEntry_only s x1 x2 (Within.refl _) (Only.refl _ s) .flash (by decide)
@[simp] theorem State.mapEntry_power (s : State) (x1) (x2) : ((@State.mapEntry s x1 x2)).power = s.power :=
  State.mapEntry_only s x1 x2 (Within.refl _) (Only.refl _ s) .power (by decide)
@[simp] theorem State.mapEntry_host (s : State) (x1) (x2) : ((@State.mapEntry s x1 x2)).host = s.host :=
  State.mapEntry_only s x1 x2 (Within.refl _) (Only.refl _ s) .host (by decide)
@[simp] theorem State.mapEntry_store (s : State) (x1) (x2) : ((@State.mapEntry s x1 x2)).store = s.store :=
  State.mapEntry_only s x1 x2 (Within.refl _) (Only.refl _ s) .store (by decide)
@[simp] theorem State.mapEntry_codec (s : State) (x1) (x2) : ((@State.mapEntry s x1 x2)).codec = s.codec :=
  State.mapEntry_only s x1 x2 (Within.refl _) (Only.refl _ s) .codec (by decide)
@[simp] theorem State.mapEntry_render (s : State) (x1) (x2) : ((@State.mapEntry s x1 x2)).render = s.render :=
  State.mapEntry_only s x1 x2 (Within.refl _) (Only.refl _ s) .render (by decide)
@[simp] theorem State.mapEntry_lines (s : State) (x1) (x2) : ((@State.mapEntry s x1 x2)).lines = s.lines :=
  State.mapEntry_only s x1 x2 (Within.refl _) (Only.refl _ s) .lines (by decide)
@[simp] theorem State.mapEntry_pos (s : State) (x1) (x2) : ((@State.mapEntry s x1 x2)).pos = s.pos :=
  State.mapEntry_only s x1 x2 (Within.refl _) (Only.refl _ s) .pos (by decide)
@[simp] theorem State.mapEntry_heads (s : State) (x1) (x2) : ((@State.mapEntry s x1 x2)).heads = s.heads :=
  State.mapEntry_only s x1 x2 (Within.refl _) (Only.refl _ s) .heads (by decide)
@[simp] theorem State.mapEntry_loop (s : State) (x1) (x2) : ((@State.mapEntry s x1 x2)).loop = s.loop :=
  State.mapEntry_only s x1 x2 (Within.refl _) (Only.refl _ s) .loop (by decide)
@[simp] theorem State.mapEntry_ring (s : State) (x1) (x2) : ((@State.mapEntry s x1 x2)).ring = s.ring :=
  State.mapEntry_only s x1 x2 (Within.refl _) (Only.refl _ s) .ring (by decide)
@[simp] theorem State.mapEntry_axes (s : State) (x1) (x2) : ((@State.mapEntry s x1 x2)).axes = s.axes :=
  State.mapEntry_only s x1 x2 (Within.refl _) (Only.refl _ s) .axes (by decide)
@[simp] theorem State.mapEntry_axisCycle (s : State) (x1) (x2) : ((@State.mapEntry s x1 x2)).axisCycle = s.axisCycle :=
  State.mapEntry_only s x1 x2 (Within.refl _) (Only.refl _ s) .axisCycle (by decide)
@[simp] theorem State.mapEntry_dmc (s : State) (x1) (x2) : ((@State.mapEntry s x1 x2)).dmc = s.dmc :=
  State.mapEntry_only s x1 x2 (Within.refl _) (Only.refl _ s) .dmc (by decide)
@[simp] theorem State.mapEntry_flt (s : State) (x1) (x2) : ((@State.mapEntry s x1 x2)).flt = s.flt :=
  State.mapEntry_only s x1 x2 (Within.refl _) (Only.refl _ s) .flt (by decide)
@[simp] theorem State.mapEntry_evt (s : State) (x1) (x2) : ((@State.mapEntry s x1 x2)).evt = s.evt :=
  State.mapEntry_only s x1 x2 (Within.refl _) (Only.refl _ s) .evt (by decide)
@[simp] theorem State.mapEntry_cal (s : State) (x1) (x2) : ((@State.mapEntry s x1 x2)).cal = s.cal :=
  State.mapEntry_only s x1 x2 (Within.refl _) (Only.refl _ s) .cal (by decide)
@[simp] theorem State.mapEntry_hb (s : State) (x1) (x2) : ((@State.mapEntry s x1 x2)).hb = s.hb :=
  State.mapEntry_only s x1 x2 (Within.refl _) (Only.refl _ s) .hb (by decide)
@[simp] theorem State.mapEntry_out (s : State) (x1) (x2) : ((@State.mapEntry s x1 x2)).out = s.out :=
  State.mapEntry_only s x1 x2 (Within.refl _) (Only.refl _ s) .out (by decide)
@[simp] theorem State.mapEntry_free (s : State) (x1) (x2) : ((@State.mapEntry s x1 x2)).free = s.free :=
  State.mapEntry_only s x1 x2 (Within.refl _) (Only.refl _ s) .free (by decide)
@[simp] theorem State.mapEntry_pending (s : State) (x1) (x2) : ((@State.mapEntry s x1 x2)).pending = s.pending :=
  State.mapEntry_only s x1 x2 (Within.refl _) (Only.refl _ s) .pending (by decide)

/-! ### setJState -/

@[simp] theorem State.setJState_now (s : State) (x1) (x2) : ((@State.setJState s x1 x2)).now = s.now :=
  State.setJState_only s x1 x2 (Within.refl _) (Only.refl _ s) .now (by decide)
@[simp] theorem State.setJState_fuses (s : State) (x1) (x2) : ((@State.setJState s x1 x2)).fuses = s.fuses :=
  State.setJState_only s x1 x2 (Within.refl _) (Only.refl _ s) .fuses (by decide)
@[simp] theorem State.setJState_flash (s : State) (x1) (x2) : ((@State.setJState s x1 x2)).flash = s.flash :=
  State.setJState_only s x1 x2 (Within.refl _) (Only.refl _ s) .flash (by decide)
@[simp] theorem State.setJState_power (s : State) (x1) (x2) : ((@State.setJState s x1 x2)).power = s.power :=
  State.setJState_only s x1 x2 (Within.refl _) (Only.refl _ s) .power (by decide)
@[simp] theorem State.setJState_host (s : State) (x1) (x2) : ((@State.setJState s x1 x2)).host = s.host :=
  State.setJState_only s x1 x2 (Within.refl _) (Only.refl _ s) .host (by decide)
@[simp] theorem State.setJState_store (s : State) (x1) (x2) : ((@State.setJState s x1 x2)).store = s.store :=
  State.setJState_only s x1 x2 (Within.refl _) (Only.refl _ s) .store (by decide)
@[simp] theorem State.setJState_codec (s : State) (x1) (x2) : ((@State.setJState s x1 x2)).codec = s.codec :=
  State.setJState_only s x1 x2 (Within.refl _) (Only.refl _ s) .codec (by decide)
@[simp] theorem State.setJState_render (s : State) (x1) (x2) : ((@State.setJState s x1 x2)).render = s.render :=
  State.setJState_only s x1 x2 (Within.refl _) (Only.refl _ s) .render (by decide)
@[simp] theorem State.setJState_lines (s : State) (x1) (x2) : ((@State.setJState s x1 x2)).lines = s.lines :=
  State.setJState_only s x1 x2 (Within.refl _) (Only.refl _ s) .lines (by decide)
@[simp] theorem State.setJState_pos (s : State) (x1) (x2) : ((@State.setJState s x1 x2)).pos = s.pos :=
  State.setJState_only s x1 x2 (Within.refl _) (Only.refl _ s) .pos (by decide)
@[simp] theorem State.setJState_heads (s : State) (x1) (x2) : ((@State.setJState s x1 x2)).heads = s.heads :=
  State.setJState_only s x1 x2 (Within.refl _) (Only.refl _ s) .heads (by decide)
@[simp] theorem State.setJState_loop (s : State) (x1) (x2) : ((@State.setJState s x1 x2)).loop = s.loop :=
  State.setJState_only s x1 x2 (Within.refl _) (Only.refl _ s) .loop (by decide)
@[simp] theorem State.setJState_ring (s : State) (x1) (x2) : ((@State.setJState s x1 x2)).ring = s.ring :=
  State.setJState_only s x1 x2 (Within.refl _) (Only.refl _ s) .ring (by decide)
@[simp] theorem State.setJState_axes (s : State) (x1) (x2) : ((@State.setJState s x1 x2)).axes = s.axes :=
  State.setJState_only s x1 x2 (Within.refl _) (Only.refl _ s) .axes (by decide)
@[simp] theorem State.setJState_axisCycle (s : State) (x1) (x2) : ((@State.setJState s x1 x2)).axisCycle = s.axisCycle :=
  State.setJState_only s x1 x2 (Within.refl _) (Only.refl _ s) .axisCycle (by decide)
@[simp] theorem State.setJState_dmc (s : State) (x1) (x2) : ((@State.setJState s x1 x2)).dmc = s.dmc :=
  State.setJState_only s x1 x2 (Within.refl _) (Only.refl _ s) .dmc (by decide)
@[simp] theorem State.setJState_flt (s : State) (x1) (x2) : ((@State.setJState s x1 x2)).flt = s.flt :=
  State.setJState_only s x1 x2 (Within.refl _) (Only.refl _ s) .flt (by decide)
@[simp] theorem State.setJState_evt (s : State) (x1) (x2) : ((@State.setJState s x1 x2)).evt = s.evt :=
  State.setJState_only s x1 x2 (Within.refl _) (Only.refl _ s) .evt (by decide)
@[simp] theorem State.setJState_cal (s : State) (x1) (x2) : ((@State.setJState s x1 x2)).cal = s.cal :=
  State.setJState_only s x1 x2 (Within.refl _) (Only.refl _ s) .cal (by decide)
@[simp] theorem State.setJState_hb (s : State) (x1) (x2) : ((@State.setJState s x1 x2)).hb = s.hb :=
  State.setJState_only s x1 x2 (Within.refl _) (Only.refl _ s) .hb (by decide)
@[simp] theorem State.setJState_out (s : State) (x1) (x2) : ((@State.setJState s x1 x2)).out = s.out :=
  State.setJState_only s x1 x2 (Within.refl _) (Only.refl _ s) .out (by decide)
@[simp] theorem State.setJState_free (s : State) (x1) (x2) : ((@State.setJState s x1 x2)).free = s.free :=
  State.setJState_only s x1 x2 (Within.refl _) (Only.refl _ s) .free (by decide)
@[simp] theorem State.setJState_pending (s : State) (x1) (x2) : ((@State.setJState s x1 x2)).pending = s.pending :=
  State.setJState_only s x1 x2 (Within.refl _) (Only.refl _ s) .pending (by decide)

/-! ### setRunning -/

@[simp] theorem State.setRunning_now (s : State) (x1) : ((@State.setRunning s x1)).now = s.now :=
  State.setRunning_only s x1 (Within.refl _) (Only.refl _ s) .now (by decide)
@[simp] theorem State.setRunning_fuses (s : State) (x1) : ((@State.setRunning s x1)).fuses = s.fuses :=
  State.setRunning_only s x1 (Within.refl _) (Only.refl _ s) .fuses (by decide)
@[simp] theorem State.setRunning_flash (s : State) (x1) : ((@State.setRunning s x1)).flash = s.flash :=
  State.setRunning_only s x1 (Within.refl _) (Only.refl _ s) .flash (by decide)
@[simp] theorem State.setRunning_power (s : State) (x1) : ((@State.setRunning s x1)).power = s.power :=
  State.setRunning_only s x1 (Within.refl _) (Only.refl _ s) .power (by decide)
@[simp] theorem State.setRunning_store (s : State) (x1) : ((@State.setRunning s x1)).store = s.store :=
  State.setRunning_only s x1 (Within.refl _) (Only.refl _ s) .store (by decide)
@[simp] theorem State.setRunning_codec (s : State) (x1) : ((@State.setRunning s x1)).codec = s.codec :=
  State.setRunning_only s x1 (Within.refl _) (Only.refl _ s) .codec (by decide)
@[simp] theorem State.setRunning_render (s : State) (x1) : ((@State.setRunning s x1)).render = s.render :=
  State.setRunning_only s x1 (Within.refl _) (Only.refl _ s) .render (by decide)
@[simp] theorem State.setRunning_lines (s : State) (x1) : ((@State.setRunning s x1)).lines = s.lines :=
  State.setRunning_only s x1 (Within.refl _) (Only.refl _ s) .lines (by decide)
@[simp] theorem State.setRunning_pos (s : State) (x1) : ((@State.setRunning s x1)).pos = s.pos :=
  State.setRunning_only s x1 (Within.refl _) (Only.refl _ s) .pos (by decide)
@[simp] theorem State.setRunning_heads (s : State) (x1) : ((@State.setRunning s x1)).heads = s.heads :=
  State.setRunning_only s x1 (Within.refl _) (Only.refl _ s) .heads (by decide)
@[simp] theorem State.setRunning_loop (s : State) (x1) : ((@State.setRunning s x1)).loop = s.loop :=
  State.setRunning_only s x1 (Within.refl _) (Only.refl _ s) .loop (by decide)
@[simp] theorem State.setRunning_ring (s : State) (x1) : ((@State.setRunning s x1)).ring = s.ring :=
  State.setRunning_only s x1 (Within.refl _) (Only.refl _ s) .ring (by decide)
@[simp] theorem State.setRunning_axes (s : State) (x1) : ((@State.setRunning s x1)).axes = s.axes :=
  State.setRunning_only s x1 (Within.refl _) (Only.refl _ s) .axes (by decide)
@[simp] theorem State.setRunning_axisCycle (s : State) (x1) : ((@State.setRunning s x1)).axisCycle = s.axisCycle :=
  State.setRunning_only s x1 (Within.refl _) (Only.refl _ s) .axisCycle (by decide)
@[simp] theorem State.setRunning_dmc (s : State) (x1) : ((@State.setRunning s x1)).dmc = s.dmc :=
  State.setRunning_only s x1 (Within.refl _) (Only.refl _ s) .dmc (by decide)
@[simp] theorem State.setRunning_flt (s : State) (x1) : ((@State.setRunning s x1)).flt = s.flt :=
  State.setRunning_only s x1 (Within.refl _) (Only.refl _ s) .flt (by decide)
@[simp] theorem State.setRunning_evt (s : State) (x1) : ((@State.setRunning s x1)).evt = s.evt :=
  State.setRunning_only s x1 (Within.refl _) (Only.refl _ s) .evt (by decide)
@[simp] theorem State.setRunning_cal (s : State) (x1) : ((@State.setRunning s x1)).cal = s.cal :=
  State.setRunning_only s x1 (Within.refl _) (Only.refl _ s) .cal (by decide)
@[simp] theorem State.setRunning_hb (s : State) (x1) : ((@State.setRunning s x1)).hb = s.hb :=
  State.setRunning_only s x1 (Within.refl _) (Only.refl _ s) .hb (by decide)
@[simp] theorem State.setRunning_free (s : State) (x1) : ((@State.setRunning s x1)).free = s.free :=
  State.setRunning_only s x1 (Within.refl _) (Only.refl _ s) .free (by decide)
@[simp] theorem State.setRunning_pending (s : State) (x1) : ((@State.setRunning s x1)).pending = s.pending :=
  State.setRunning_only s x1 (Within.refl _) (Only.refl _ s) .pending (by decide)

/-! ### start -/

@[simp] theorem State.start_now (s : State) (x1) (x2) : ((@State.start s x1 x2)).now = s.now :=
  State.start_only s x1 x2 (Within.refl _) (Only.refl _ s) .now (by decide)
@[simp] theorem State.start_fuses (s : State) (x1) (x2) : ((@State.start s x1 x2)).fuses = s.fuses :=
  State.start_only s x1 x2 (Within.refl _) (Only.refl _ s) .fuses (by decide)
@[simp] theorem State.start_flash (s : State) (x1) (x2) : ((@State.start s x1 x2)).flash = s.flash :=
  State.start_only s x1 x2 (Within.refl _) (Only.refl _ s) .flash (by decide)
@[simp] theorem State.start_power (s : State) (x1) (x2) : ((@State.start s x1 x2)).power = s.power :=
  State.start_only s x1 x2 (Within.refl _) (Only.refl _ s) .power (by decide)
@[simp] theorem State.start_store (s : State) (x1) (x2) : ((@State.start s x1 x2)).store = s.store :=
  State.start_only s x1 x2 (Within.refl _) (Only.refl _ s) .store (by decide)
@[simp] theorem State.start_codec (s : State) (x1) (x2) : ((@State.start s x1 x2)).codec = s.codec :=
  State.start_only s x1 x2 (Within.refl _) (Only.refl _ s) .codec (by decide)
@[simp] theorem State.start_render (s : State) (x1) (x2) : ((@State.start s x1 x2)).render = s.render :=
  State.start_only s x1 x2 (Within.refl _) (Only.refl _ s) .render (by decide)
@[simp] theorem State.start_lines (s : State) (x1) (x2) : ((@State.start s x1 x2)).lines = s.lines :=
  State.start_only s x1 x2 (Within.refl _) (Only.refl _ s) .lines (by decide)
@[simp] theorem State.start_pos (s : State) (x1) (x2) : ((@State.start s x1 x2)).pos = s.pos :=
  State.start_only s x1 x2 (Within.refl _) (Only.refl _ s) .pos (by decide)
@[simp] theorem State.start_heads (s : State) (x1) (x2) : ((@State.start s x1 x2)).heads = s.heads :=
  State.start_only s x1 x2 (Within.refl _) (Only.refl _ s) .heads (by decide)
@[simp] theorem State.start_loop (s : State) (x1) (x2) : ((@State.start s x1 x2)).loop = s.loop :=
  State.start_only s x1 x2 (Within.refl _) (Only.refl _ s) .loop (by decide)
@[simp] theorem State.start_ring (s : State) (x1) (x2) : ((@State.start s x1 x2)).ring = s.ring :=
  State.start_only s x1 x2 (Within.refl _) (Only.refl _ s) .ring (by decide)
@[simp] theorem State.start_axes (s : State) (x1) (x2) : ((@State.start s x1 x2)).axes = s.axes :=
  State.start_only s x1 x2 (Within.refl _) (Only.refl _ s) .axes (by decide)
@[simp] theorem State.start_axisCycle (s : State) (x1) (x2) : ((@State.start s x1 x2)).axisCycle = s.axisCycle :=
  State.start_only s x1 x2 (Within.refl _) (Only.refl _ s) .axisCycle (by decide)
@[simp] theorem State.start_dmc (s : State) (x1) (x2) : ((@State.start s x1 x2)).dmc = s.dmc :=
  State.start_only s x1 x2 (Within.refl _) (Only.refl _ s) .dmc (by decide)
@[simp] theorem State.start_flt (s : State) (x1) (x2) : ((@State.start s x1 x2)).flt = s.flt :=
  State.start_only s x1 x2 (Within.refl _) (Only.refl _ s) .flt (by decide)
@[simp] theorem State.start_evt (s : State) (x1) (x2) : ((@State.start s x1 x2)).evt = s.evt :=
  State.start_only s x1 x2 (Within.refl _) (Only.refl _ s) .evt (by decide)
@[simp] theorem State.start_cal (s : State) (x1) (x2) : ((@State.start s x1 x2)).cal = s.cal :=
  State.start_only s x1 x2 (Within.refl _) (Only.refl _ s) .cal (by decide)
@[simp] theorem State.start_hb (s : State) (x1) (x2) : ((@State.start s x1 x2)).hb = s.hb :=
  State.start_only s x1 x2 (Within.refl _) (Only.refl _ s) .hb (by decide)
@[simp] theorem State.start_free (s : State) (x1) (x2) : ((@State.start s x1 x2)).free = s.free :=
  State.start_only s x1 x2 (Within.refl _) (Only.refl _ s) .free (by decide)
@[simp] theorem State.start_pending (s : State) (x1) (x2) : ((@State.start s x1 x2)).pending = s.pending :=
  State.start_only s x1 x2 (Within.refl _) (Only.refl _ s) .pending (by decide)

/-! ### settleEntry -/

@[simp] theorem State.settleEntry_now (s : State) (x1) (x2) (x3) (x4) (x5) (x6) (x7) : ((@State.settleEntry s x1 x2 x3 x4 x5 x6 x7)).now = s.now :=
  State.settleEntry_only s x1 x2 x3 x4 x5 x6 x7 (Within.refl _) (Only.refl _ s) .now (by decide)
@[simp] theorem State.settleEntry_fuses (s : State) (x1) (x2) (x3) (x4) (x5) (x6) (x7) : ((@State.settleEntry s x1 x2 x3 x4 x5 x6 x7)).fuses = s.fuses :=
  State.settleEntry_only s x1 x2 x3 x4 x5 x6 x7 (Within.refl _) (Only.refl _ s) .fuses (by decide)
@[simp] theorem State.settleEntry_flash (s : State) (x1) (x2) (x3) (x4) (x5) (x6) (x7) : ((@State.settleEntry s x1 x2 x3 x4 x5 x6 x7)).flash = s.flash :=
  State.settleEntry_only s x1 x2 x3 x4 x5 x6 x7 (Within.refl _) (Only.refl _ s) .flash (by decide)
@[simp] theorem State.settleEntry_power (s : State) (x1) (x2) (x3) (x4) (x5) (x6) (x7) : ((@State.settleEntry s x1 x2 x3 x4 x5 x6 x7)).power = s.power :=
  State.settleEntry_only s x1 x2 x3 x4 x5 x6 x7 (Within.refl _) (Only.refl _ s) .power (by decide)
@[simp] theorem State.settleEntry_store (s : State) (x1) (x2) (x3) (x4) (x5) (x6) (x7) : ((@State.settleEntry s x1 x2 x3 x4 x5 x6 x7)).store = s.store :=
  State.settleEntry_only s x1 x2 x3 x4 x5 x6 x7 (Within.refl _) (Only.refl _ s) .store (by decide)
@[simp] theorem State.settleEntry_codec (s : State) (x1) (x2) (x3) (x4) (x5) (x6) (x7) : ((@State.settleEntry s x1 x2 x3 x4 x5 x6 x7)).codec = s.codec :=
  State.settleEntry_only s x1 x2 x3 x4 x5 x6 x7 (Within.refl _) (Only.refl _ s) .codec (by decide)
@[simp] theorem State.settleEntry_render (s : State) (x1) (x2) (x3) (x4) (x5) (x6) (x7) : ((@State.settleEntry s x1 x2 x3 x4 x5 x6 x7)).render = s.render :=
  State.settleEntry_only s x1 x2 x3 x4 x5 x6 x7 (Within.refl _) (Only.refl _ s) .render (by decide)
@[simp] theorem State.settleEntry_lines (s : State) (x1) (x2) (x3) (x4) (x5) (x6) (x7) : ((@State.settleEntry s x1 x2 x3 x4 x5 x6 x7)).lines = s.lines :=
  State.settleEntry_only s x1 x2 x3 x4 x5 x6 x7 (Within.refl _) (Only.refl _ s) .lines (by decide)
@[simp] theorem State.settleEntry_pos (s : State) (x1) (x2) (x3) (x4) (x5) (x6) (x7) : ((@State.settleEntry s x1 x2 x3 x4 x5 x6 x7)).pos = s.pos :=
  State.settleEntry_only s x1 x2 x3 x4 x5 x6 x7 (Within.refl _) (Only.refl _ s) .pos (by decide)
@[simp] theorem State.settleEntry_heads (s : State) (x1) (x2) (x3) (x4) (x5) (x6) (x7) : ((@State.settleEntry s x1 x2 x3 x4 x5 x6 x7)).heads = s.heads :=
  State.settleEntry_only s x1 x2 x3 x4 x5 x6 x7 (Within.refl _) (Only.refl _ s) .heads (by decide)
@[simp] theorem State.settleEntry_loop (s : State) (x1) (x2) (x3) (x4) (x5) (x6) (x7) : ((@State.settleEntry s x1 x2 x3 x4 x5 x6 x7)).loop = s.loop :=
  State.settleEntry_only s x1 x2 x3 x4 x5 x6 x7 (Within.refl _) (Only.refl _ s) .loop (by decide)
@[simp] theorem State.settleEntry_ring (s : State) (x1) (x2) (x3) (x4) (x5) (x6) (x7) : ((@State.settleEntry s x1 x2 x3 x4 x5 x6 x7)).ring = s.ring :=
  State.settleEntry_only s x1 x2 x3 x4 x5 x6 x7 (Within.refl _) (Only.refl _ s) .ring (by decide)
@[simp] theorem State.settleEntry_axes (s : State) (x1) (x2) (x3) (x4) (x5) (x6) (x7) : ((@State.settleEntry s x1 x2 x3 x4 x5 x6 x7)).axes = s.axes :=
  State.settleEntry_only s x1 x2 x3 x4 x5 x6 x7 (Within.refl _) (Only.refl _ s) .axes (by decide)
@[simp] theorem State.settleEntry_axisCycle (s : State) (x1) (x2) (x3) (x4) (x5) (x6) (x7) : ((@State.settleEntry s x1 x2 x3 x4 x5 x6 x7)).axisCycle = s.axisCycle :=
  State.settleEntry_only s x1 x2 x3 x4 x5 x6 x7 (Within.refl _) (Only.refl _ s) .axisCycle (by decide)
@[simp] theorem State.settleEntry_dmc (s : State) (x1) (x2) (x3) (x4) (x5) (x6) (x7) : ((@State.settleEntry s x1 x2 x3 x4 x5 x6 x7)).dmc = s.dmc :=
  State.settleEntry_only s x1 x2 x3 x4 x5 x6 x7 (Within.refl _) (Only.refl _ s) .dmc (by decide)
@[simp] theorem State.settleEntry_flt (s : State) (x1) (x2) (x3) (x4) (x5) (x6) (x7) : ((@State.settleEntry s x1 x2 x3 x4 x5 x6 x7)).flt = s.flt :=
  State.settleEntry_only s x1 x2 x3 x4 x5 x6 x7 (Within.refl _) (Only.refl _ s) .flt (by decide)
@[simp] theorem State.settleEntry_evt (s : State) (x1) (x2) (x3) (x4) (x5) (x6) (x7) : ((@State.settleEntry s x1 x2 x3 x4 x5 x6 x7)).evt = s.evt :=
  State.settleEntry_only s x1 x2 x3 x4 x5 x6 x7 (Within.refl _) (Only.refl _ s) .evt (by decide)
@[simp] theorem State.settleEntry_cal (s : State) (x1) (x2) (x3) (x4) (x5) (x6) (x7) : ((@State.settleEntry s x1 x2 x3 x4 x5 x6 x7)).cal = s.cal :=
  State.settleEntry_only s x1 x2 x3 x4 x5 x6 x7 (Within.refl _) (Only.refl _ s) .cal (by decide)
@[simp] theorem State.settleEntry_hb (s : State) (x1) (x2) (x3) (x4) (x5) (x6) (x7) : ((@State.settleEntry s x1 x2 x3 x4 x5 x6 x7)).hb = s.hb :=
  State.settleEntry_only s x1 x2 x3 x4 x5 x6 x7 (Within.refl _) (Only.refl _ s) .hb (by decide)
@[simp] theorem State.settleEntry_free (s : State) (x1) (x2) (x3) (x4) (x5) (x6) (x7) : ((@State.settleEntry s x1 x2 x3 x4 x5 x6 x7)).free = s.free :=
  State.settleEntry_only s x1 x2 x3 x4 x5 x6 x7 (Within.refl _) (Only.refl _ s) .free (by decide)
@[simp] theorem State.settleEntry_pending (s : State) (x1) (x2) (x3) (x4) (x5) (x6) (x7) : ((@State.settleEntry s x1 x2 x3 x4 x5 x6 x7)).pending = s.pending :=
  State.settleEntry_only s x1 x2 x3 x4 x5 x6 x7 (Within.refl _) (Only.refl _ s) .pending (by decide)

/-! ### fences -/

@[simp] theorem State.fences_now (s : State) : ((@State.fences s)).now = s.now :=
  State.fences_only s (Within.refl _) (Only.refl _ s) .now (by decide)
@[simp] theorem State.fences_fuses (s : State) : ((@State.fences s)).fuses = s.fuses :=
  State.fences_only s (Within.refl _) (Only.refl _ s) .fuses (by decide)
@[simp] theorem State.fences_flash (s : State) : ((@State.fences s)).flash = s.flash :=
  State.fences_only s (Within.refl _) (Only.refl _ s) .flash (by decide)
@[simp] theorem State.fences_power (s : State) : ((@State.fences s)).power = s.power :=
  State.fences_only s (Within.refl _) (Only.refl _ s) .power (by decide)
@[simp] theorem State.fences_store (s : State) : ((@State.fences s)).store = s.store :=
  State.fences_only s (Within.refl _) (Only.refl _ s) .store (by decide)
@[simp] theorem State.fences_codec (s : State) : ((@State.fences s)).codec = s.codec :=
  State.fences_only s (Within.refl _) (Only.refl _ s) .codec (by decide)
@[simp] theorem State.fences_render (s : State) : ((@State.fences s)).render = s.render :=
  State.fences_only s (Within.refl _) (Only.refl _ s) .render (by decide)
@[simp] theorem State.fences_lines (s : State) : ((@State.fences s)).lines = s.lines :=
  State.fences_only s (Within.refl _) (Only.refl _ s) .lines (by decide)
@[simp] theorem State.fences_pos (s : State) : ((@State.fences s)).pos = s.pos :=
  State.fences_only s (Within.refl _) (Only.refl _ s) .pos (by decide)
@[simp] theorem State.fences_heads (s : State) : ((@State.fences s)).heads = s.heads :=
  State.fences_only s (Within.refl _) (Only.refl _ s) .heads (by decide)
@[simp] theorem State.fences_loop (s : State) : ((@State.fences s)).loop = s.loop :=
  State.fences_only s (Within.refl _) (Only.refl _ s) .loop (by decide)
@[simp] theorem State.fences_ring (s : State) : ((@State.fences s)).ring = s.ring :=
  State.fences_only s (Within.refl _) (Only.refl _ s) .ring (by decide)
@[simp] theorem State.fences_axes (s : State) : ((@State.fences s)).axes = s.axes :=
  State.fences_only s (Within.refl _) (Only.refl _ s) .axes (by decide)
@[simp] theorem State.fences_axisCycle (s : State) : ((@State.fences s)).axisCycle = s.axisCycle :=
  State.fences_only s (Within.refl _) (Only.refl _ s) .axisCycle (by decide)
@[simp] theorem State.fences_dmc (s : State) : ((@State.fences s)).dmc = s.dmc :=
  State.fences_only s (Within.refl _) (Only.refl _ s) .dmc (by decide)
@[simp] theorem State.fences_flt (s : State) : ((@State.fences s)).flt = s.flt :=
  State.fences_only s (Within.refl _) (Only.refl _ s) .flt (by decide)
@[simp] theorem State.fences_evt (s : State) : ((@State.fences s)).evt = s.evt :=
  State.fences_only s (Within.refl _) (Only.refl _ s) .evt (by decide)
@[simp] theorem State.fences_cal (s : State) : ((@State.fences s)).cal = s.cal :=
  State.fences_only s (Within.refl _) (Only.refl _ s) .cal (by decide)
@[simp] theorem State.fences_hb (s : State) : ((@State.fences s)).hb = s.hb :=
  State.fences_only s (Within.refl _) (Only.refl _ s) .hb (by decide)
@[simp] theorem State.fences_free (s : State) : ((@State.fences s)).free = s.free :=
  State.fences_only s (Within.refl _) (Only.refl _ s) .free (by decide)
@[simp] theorem State.fences_pending (s : State) : ((@State.fences s)).pending = s.pending :=
  State.fences_only s (Within.refl _) (Only.refl _ s) .pending (by decide)

/-! ### finish -/

@[simp] theorem State.finish_now (s : State) (x1) (x2) (x3) (x4) (x5) (x6) (x7) : ((@State.finish s x1 x2 x3 x4 x5 x6 x7)).now = s.now :=
  State.finish_only s x1 x2 x3 x4 x5 x6 x7 (Within.refl _) (Only.refl _ s) .now (by decide)
@[simp] theorem State.finish_fuses (s : State) (x1) (x2) (x3) (x4) (x5) (x6) (x7) : ((@State.finish s x1 x2 x3 x4 x5 x6 x7)).fuses = s.fuses :=
  State.finish_only s x1 x2 x3 x4 x5 x6 x7 (Within.refl _) (Only.refl _ s) .fuses (by decide)
@[simp] theorem State.finish_flash (s : State) (x1) (x2) (x3) (x4) (x5) (x6) (x7) : ((@State.finish s x1 x2 x3 x4 x5 x6 x7)).flash = s.flash :=
  State.finish_only s x1 x2 x3 x4 x5 x6 x7 (Within.refl _) (Only.refl _ s) .flash (by decide)
@[simp] theorem State.finish_power (s : State) (x1) (x2) (x3) (x4) (x5) (x6) (x7) : ((@State.finish s x1 x2 x3 x4 x5 x6 x7)).power = s.power :=
  State.finish_only s x1 x2 x3 x4 x5 x6 x7 (Within.refl _) (Only.refl _ s) .power (by decide)
@[simp] theorem State.finish_store (s : State) (x1) (x2) (x3) (x4) (x5) (x6) (x7) : ((@State.finish s x1 x2 x3 x4 x5 x6 x7)).store = s.store :=
  State.finish_only s x1 x2 x3 x4 x5 x6 x7 (Within.refl _) (Only.refl _ s) .store (by decide)
@[simp] theorem State.finish_codec (s : State) (x1) (x2) (x3) (x4) (x5) (x6) (x7) : ((@State.finish s x1 x2 x3 x4 x5 x6 x7)).codec = s.codec :=
  State.finish_only s x1 x2 x3 x4 x5 x6 x7 (Within.refl _) (Only.refl _ s) .codec (by decide)
@[simp] theorem State.finish_render (s : State) (x1) (x2) (x3) (x4) (x5) (x6) (x7) : ((@State.finish s x1 x2 x3 x4 x5 x6 x7)).render = s.render :=
  State.finish_only s x1 x2 x3 x4 x5 x6 x7 (Within.refl _) (Only.refl _ s) .render (by decide)
@[simp] theorem State.finish_lines (s : State) (x1) (x2) (x3) (x4) (x5) (x6) (x7) : ((@State.finish s x1 x2 x3 x4 x5 x6 x7)).lines = s.lines :=
  State.finish_only s x1 x2 x3 x4 x5 x6 x7 (Within.refl _) (Only.refl _ s) .lines (by decide)
@[simp] theorem State.finish_pos (s : State) (x1) (x2) (x3) (x4) (x5) (x6) (x7) : ((@State.finish s x1 x2 x3 x4 x5 x6 x7)).pos = s.pos :=
  State.finish_only s x1 x2 x3 x4 x5 x6 x7 (Within.refl _) (Only.refl _ s) .pos (by decide)
@[simp] theorem State.finish_heads (s : State) (x1) (x2) (x3) (x4) (x5) (x6) (x7) : ((@State.finish s x1 x2 x3 x4 x5 x6 x7)).heads = s.heads :=
  State.finish_only s x1 x2 x3 x4 x5 x6 x7 (Within.refl _) (Only.refl _ s) .heads (by decide)
@[simp] theorem State.finish_loop (s : State) (x1) (x2) (x3) (x4) (x5) (x6) (x7) : ((@State.finish s x1 x2 x3 x4 x5 x6 x7)).loop = s.loop :=
  State.finish_only s x1 x2 x3 x4 x5 x6 x7 (Within.refl _) (Only.refl _ s) .loop (by decide)
@[simp] theorem State.finish_ring (s : State) (x1) (x2) (x3) (x4) (x5) (x6) (x7) : ((@State.finish s x1 x2 x3 x4 x5 x6 x7)).ring = s.ring :=
  State.finish_only s x1 x2 x3 x4 x5 x6 x7 (Within.refl _) (Only.refl _ s) .ring (by decide)
@[simp] theorem State.finish_axes (s : State) (x1) (x2) (x3) (x4) (x5) (x6) (x7) : ((@State.finish s x1 x2 x3 x4 x5 x6 x7)).axes = s.axes :=
  State.finish_only s x1 x2 x3 x4 x5 x6 x7 (Within.refl _) (Only.refl _ s) .axes (by decide)
@[simp] theorem State.finish_axisCycle (s : State) (x1) (x2) (x3) (x4) (x5) (x6) (x7) : ((@State.finish s x1 x2 x3 x4 x5 x6 x7)).axisCycle = s.axisCycle :=
  State.finish_only s x1 x2 x3 x4 x5 x6 x7 (Within.refl _) (Only.refl _ s) .axisCycle (by decide)
@[simp] theorem State.finish_dmc (s : State) (x1) (x2) (x3) (x4) (x5) (x6) (x7) : ((@State.finish s x1 x2 x3 x4 x5 x6 x7)).dmc = s.dmc :=
  State.finish_only s x1 x2 x3 x4 x5 x6 x7 (Within.refl _) (Only.refl _ s) .dmc (by decide)
@[simp] theorem State.finish_flt (s : State) (x1) (x2) (x3) (x4) (x5) (x6) (x7) : ((@State.finish s x1 x2 x3 x4 x5 x6 x7)).flt = s.flt :=
  State.finish_only s x1 x2 x3 x4 x5 x6 x7 (Within.refl _) (Only.refl _ s) .flt (by decide)
@[simp] theorem State.finish_evt (s : State) (x1) (x2) (x3) (x4) (x5) (x6) (x7) : ((@State.finish s x1 x2 x3 x4 x5 x6 x7)).evt = s.evt :=
  State.finish_only s x1 x2 x3 x4 x5 x6 x7 (Within.refl _) (Only.refl _ s) .evt (by decide)
@[simp] theorem State.finish_cal (s : State) (x1) (x2) (x3) (x4) (x5) (x6) (x7) : ((@State.finish s x1 x2 x3 x4 x5 x6 x7)).cal = s.cal :=
  State.finish_only s x1 x2 x3 x4 x5 x6 x7 (Within.refl _) (Only.refl _ s) .cal (by decide)
@[simp] theorem State.finish_hb (s : State) (x1) (x2) (x3) (x4) (x5) (x6) (x7) : ((@State.finish s x1 x2 x3 x4 x5 x6 x7)).hb = s.hb :=
  State.finish_only s x1 x2 x3 x4 x5 x6 x7 (Within.refl _) (Only.refl _ s) .hb (by decide)
@[simp] theorem State.finish_free (s : State) (x1) (x2) (x3) (x4) (x5) (x6) (x7) : ((@State.finish s x1 x2 x3 x4 x5 x6 x7)).free = s.free :=
  State.finish_only s x1 x2 x3 x4 x5 x6 x7 (Within.refl _) (Only.refl _ s) .free (by decide)
@[simp] theorem State.finish_pending (s : State) (x1) (x2) (x3) (x4) (x5) (x6) (x7) : ((@State.finish s x1 x2 x3 x4 x5 x6 x7)).pending = s.pending :=
  State.finish_only s x1 x2 x3 x4 x5 x6 x7 (Within.refl _) (Only.refl _ s) .pending (by decide)

/-! ### post -/

@[simp] theorem State.post_now (s : State) (x1) (x2) : ((@State.post s x1 x2)).now = s.now :=
  State.post_only s x1 x2 (Within.refl _) (Only.refl _ s) .now (by decide)
@[simp] theorem State.post_fuses (s : State) (x1) (x2) : ((@State.post s x1 x2)).fuses = s.fuses :=
  State.post_only s x1 x2 (Within.refl _) (Only.refl _ s) .fuses (by decide)
@[simp] theorem State.post_flash (s : State) (x1) (x2) : ((@State.post s x1 x2)).flash = s.flash :=
  State.post_only s x1 x2 (Within.refl _) (Only.refl _ s) .flash (by decide)
@[simp] theorem State.post_power (s : State) (x1) (x2) : ((@State.post s x1 x2)).power = s.power :=
  State.post_only s x1 x2 (Within.refl _) (Only.refl _ s) .power (by decide)
@[simp] theorem State.post_journal (s : State) (x1) (x2) : ((@State.post s x1 x2)).journal = s.journal :=
  State.post_only s x1 x2 (Within.refl _) (Only.refl _ s) .journal (by decide)
@[simp] theorem State.post_store (s : State) (x1) (x2) : ((@State.post s x1 x2)).store = s.store :=
  State.post_only s x1 x2 (Within.refl _) (Only.refl _ s) .store (by decide)
@[simp] theorem State.post_codec (s : State) (x1) (x2) : ((@State.post s x1 x2)).codec = s.codec :=
  State.post_only s x1 x2 (Within.refl _) (Only.refl _ s) .codec (by decide)
@[simp] theorem State.post_render (s : State) (x1) (x2) : ((@State.post s x1 x2)).render = s.render :=
  State.post_only s x1 x2 (Within.refl _) (Only.refl _ s) .render (by decide)
@[simp] theorem State.post_lines (s : State) (x1) (x2) : ((@State.post s x1 x2)).lines = s.lines :=
  State.post_only s x1 x2 (Within.refl _) (Only.refl _ s) .lines (by decide)
@[simp] theorem State.post_pos (s : State) (x1) (x2) : ((@State.post s x1 x2)).pos = s.pos :=
  State.post_only s x1 x2 (Within.refl _) (Only.refl _ s) .pos (by decide)
@[simp] theorem State.post_heads (s : State) (x1) (x2) : ((@State.post s x1 x2)).heads = s.heads :=
  State.post_only s x1 x2 (Within.refl _) (Only.refl _ s) .heads (by decide)
@[simp] theorem State.post_loop (s : State) (x1) (x2) : ((@State.post s x1 x2)).loop = s.loop :=
  State.post_only s x1 x2 (Within.refl _) (Only.refl _ s) .loop (by decide)
@[simp] theorem State.post_ring (s : State) (x1) (x2) : ((@State.post s x1 x2)).ring = s.ring :=
  State.post_only s x1 x2 (Within.refl _) (Only.refl _ s) .ring (by decide)
@[simp] theorem State.post_axes (s : State) (x1) (x2) : ((@State.post s x1 x2)).axes = s.axes :=
  State.post_only s x1 x2 (Within.refl _) (Only.refl _ s) .axes (by decide)
@[simp] theorem State.post_axisCycle (s : State) (x1) (x2) : ((@State.post s x1 x2)).axisCycle = s.axisCycle :=
  State.post_only s x1 x2 (Within.refl _) (Only.refl _ s) .axisCycle (by decide)
@[simp] theorem State.post_dmc (s : State) (x1) (x2) : ((@State.post s x1 x2)).dmc = s.dmc :=
  State.post_only s x1 x2 (Within.refl _) (Only.refl _ s) .dmc (by decide)
@[simp] theorem State.post_flt (s : State) (x1) (x2) : ((@State.post s x1 x2)).flt = s.flt :=
  State.post_only s x1 x2 (Within.refl _) (Only.refl _ s) .flt (by decide)
@[simp] theorem State.post_evt (s : State) (x1) (x2) : ((@State.post s x1 x2)).evt = s.evt :=
  State.post_only s x1 x2 (Within.refl _) (Only.refl _ s) .evt (by decide)
@[simp] theorem State.post_cal (s : State) (x1) (x2) : ((@State.post s x1 x2)).cal = s.cal :=
  State.post_only s x1 x2 (Within.refl _) (Only.refl _ s) .cal (by decide)
@[simp] theorem State.post_hb (s : State) (x1) (x2) : ((@State.post s x1 x2)).hb = s.hb :=
  State.post_only s x1 x2 (Within.refl _) (Only.refl _ s) .hb (by decide)
@[simp] theorem State.post_free (s : State) (x1) (x2) : ((@State.post s x1 x2)).free = s.free :=
  State.post_only s x1 x2 (Within.refl _) (Only.refl _ s) .free (by decide)
@[simp] theorem State.post_pending (s : State) (x1) (x2) : ((@State.post s x1 x2)).pending = s.pending :=
  State.post_only s x1 x2 (Within.refl _) (Only.refl _ s) .pending (by decide)

/-! ### note -/

@[simp] theorem State.note_now (s : State) (x1) : ((@State.note s x1)).now = s.now :=
  State.note_only s x1 (Within.refl _) (Only.refl _ s) .now (by decide)
@[simp] theorem State.note_fuses (s : State) (x1) : ((@State.note s x1)).fuses = s.fuses :=
  State.note_only s x1 (Within.refl _) (Only.refl _ s) .fuses (by decide)
@[simp] theorem State.note_flash (s : State) (x1) : ((@State.note s x1)).flash = s.flash :=
  State.note_only s x1 (Within.refl _) (Only.refl _ s) .flash (by decide)
@[simp] theorem State.note_power (s : State) (x1) : ((@State.note s x1)).power = s.power :=
  State.note_only s x1 (Within.refl _) (Only.refl _ s) .power (by decide)
@[simp] theorem State.note_journal (s : State) (x1) : ((@State.note s x1)).journal = s.journal :=
  State.note_only s x1 (Within.refl _) (Only.refl _ s) .journal (by decide)
@[simp] theorem State.note_store (s : State) (x1) : ((@State.note s x1)).store = s.store :=
  State.note_only s x1 (Within.refl _) (Only.refl _ s) .store (by decide)
@[simp] theorem State.note_codec (s : State) (x1) : ((@State.note s x1)).codec = s.codec :=
  State.note_only s x1 (Within.refl _) (Only.refl _ s) .codec (by decide)
@[simp] theorem State.note_render (s : State) (x1) : ((@State.note s x1)).render = s.render :=
  State.note_only s x1 (Within.refl _) (Only.refl _ s) .render (by decide)
@[simp] theorem State.note_lines (s : State) (x1) : ((@State.note s x1)).lines = s.lines :=
  State.note_only s x1 (Within.refl _) (Only.refl _ s) .lines (by decide)
@[simp] theorem State.note_pos (s : State) (x1) : ((@State.note s x1)).pos = s.pos :=
  State.note_only s x1 (Within.refl _) (Only.refl _ s) .pos (by decide)
@[simp] theorem State.note_heads (s : State) (x1) : ((@State.note s x1)).heads = s.heads :=
  State.note_only s x1 (Within.refl _) (Only.refl _ s) .heads (by decide)
@[simp] theorem State.note_loop (s : State) (x1) : ((@State.note s x1)).loop = s.loop :=
  State.note_only s x1 (Within.refl _) (Only.refl _ s) .loop (by decide)
@[simp] theorem State.note_ring (s : State) (x1) : ((@State.note s x1)).ring = s.ring :=
  State.note_only s x1 (Within.refl _) (Only.refl _ s) .ring (by decide)
@[simp] theorem State.note_axes (s : State) (x1) : ((@State.note s x1)).axes = s.axes :=
  State.note_only s x1 (Within.refl _) (Only.refl _ s) .axes (by decide)
@[simp] theorem State.note_axisCycle (s : State) (x1) : ((@State.note s x1)).axisCycle = s.axisCycle :=
  State.note_only s x1 (Within.refl _) (Only.refl _ s) .axisCycle (by decide)
@[simp] theorem State.note_dmc (s : State) (x1) : ((@State.note s x1)).dmc = s.dmc :=
  State.note_only s x1 (Within.refl _) (Only.refl _ s) .dmc (by decide)
@[simp] theorem State.note_flt (s : State) (x1) : ((@State.note s x1)).flt = s.flt :=
  State.note_only s x1 (Within.refl _) (Only.refl _ s) .flt (by decide)
@[simp] theorem State.note_cal (s : State) (x1) : ((@State.note s x1)).cal = s.cal :=
  State.note_only s x1 (Within.refl _) (Only.refl _ s) .cal (by decide)
@[simp] theorem State.note_hb (s : State) (x1) : ((@State.note s x1)).hb = s.hb :=
  State.note_only s x1 (Within.refl _) (Only.refl _ s) .hb (by decide)
@[simp] theorem State.note_free (s : State) (x1) : ((@State.note s x1)).free = s.free :=
  State.note_only s x1 (Within.refl _) (Only.refl _ s) .free (by decide)
@[simp] theorem State.note_pending (s : State) (x1) : ((@State.note s x1)).pending = s.pending :=
  State.note_only s x1 (Within.refl _) (Only.refl _ s) .pending (by decide)

/-! ### info -/

@[simp] theorem State.info_now (s : State) (x1) (x2) (x3) (x4) (x5) : ((@State.info s x1 x2 x3 x4 x5)).now = s.now :=
  State.info_only s x1 x2 x3 x4 x5 (Within.refl _) (Only.refl _ s) .now (by decide)
@[simp] theorem State.info_fuses (s : State) (x1) (x2) (x3) (x4) (x5) : ((@State.info s x1 x2 x3 x4 x5)).fuses = s.fuses :=
  State.info_only s x1 x2 x3 x4 x5 (Within.refl _) (Only.refl _ s) .fuses (by decide)
@[simp] theorem State.info_flash (s : State) (x1) (x2) (x3) (x4) (x5) : ((@State.info s x1 x2 x3 x4 x5)).flash = s.flash :=
  State.info_only s x1 x2 x3 x4 x5 (Within.refl _) (Only.refl _ s) .flash (by decide)
@[simp] theorem State.info_power (s : State) (x1) (x2) (x3) (x4) (x5) : ((@State.info s x1 x2 x3 x4 x5)).power = s.power :=
  State.info_only s x1 x2 x3 x4 x5 (Within.refl _) (Only.refl _ s) .power (by decide)
@[simp] theorem State.info_journal (s : State) (x1) (x2) (x3) (x4) (x5) : ((@State.info s x1 x2 x3 x4 x5)).journal = s.journal :=
  State.info_only s x1 x2 x3 x4 x5 (Within.refl _) (Only.refl _ s) .journal (by decide)
@[simp] theorem State.info_store (s : State) (x1) (x2) (x3) (x4) (x5) : ((@State.info s x1 x2 x3 x4 x5)).store = s.store :=
  State.info_only s x1 x2 x3 x4 x5 (Within.refl _) (Only.refl _ s) .store (by decide)
@[simp] theorem State.info_codec (s : State) (x1) (x2) (x3) (x4) (x5) : ((@State.info s x1 x2 x3 x4 x5)).codec = s.codec :=
  State.info_only s x1 x2 x3 x4 x5 (Within.refl _) (Only.refl _ s) .codec (by decide)
@[simp] theorem State.info_render (s : State) (x1) (x2) (x3) (x4) (x5) : ((@State.info s x1 x2 x3 x4 x5)).render = s.render :=
  State.info_only s x1 x2 x3 x4 x5 (Within.refl _) (Only.refl _ s) .render (by decide)
@[simp] theorem State.info_lines (s : State) (x1) (x2) (x3) (x4) (x5) : ((@State.info s x1 x2 x3 x4 x5)).lines = s.lines :=
  State.info_only s x1 x2 x3 x4 x5 (Within.refl _) (Only.refl _ s) .lines (by decide)
@[simp] theorem State.info_pos (s : State) (x1) (x2) (x3) (x4) (x5) : ((@State.info s x1 x2 x3 x4 x5)).pos = s.pos :=
  State.info_only s x1 x2 x3 x4 x5 (Within.refl _) (Only.refl _ s) .pos (by decide)
@[simp] theorem State.info_heads (s : State) (x1) (x2) (x3) (x4) (x5) : ((@State.info s x1 x2 x3 x4 x5)).heads = s.heads :=
  State.info_only s x1 x2 x3 x4 x5 (Within.refl _) (Only.refl _ s) .heads (by decide)
@[simp] theorem State.info_loop (s : State) (x1) (x2) (x3) (x4) (x5) : ((@State.info s x1 x2 x3 x4 x5)).loop = s.loop :=
  State.info_only s x1 x2 x3 x4 x5 (Within.refl _) (Only.refl _ s) .loop (by decide)
@[simp] theorem State.info_ring (s : State) (x1) (x2) (x3) (x4) (x5) : ((@State.info s x1 x2 x3 x4 x5)).ring = s.ring :=
  State.info_only s x1 x2 x3 x4 x5 (Within.refl _) (Only.refl _ s) .ring (by decide)
@[simp] theorem State.info_axes (s : State) (x1) (x2) (x3) (x4) (x5) : ((@State.info s x1 x2 x3 x4 x5)).axes = s.axes :=
  State.info_only s x1 x2 x3 x4 x5 (Within.refl _) (Only.refl _ s) .axes (by decide)
@[simp] theorem State.info_axisCycle (s : State) (x1) (x2) (x3) (x4) (x5) : ((@State.info s x1 x2 x3 x4 x5)).axisCycle = s.axisCycle :=
  State.info_only s x1 x2 x3 x4 x5 (Within.refl _) (Only.refl _ s) .axisCycle (by decide)
@[simp] theorem State.info_dmc (s : State) (x1) (x2) (x3) (x4) (x5) : ((@State.info s x1 x2 x3 x4 x5)).dmc = s.dmc :=
  State.info_only s x1 x2 x3 x4 x5 (Within.refl _) (Only.refl _ s) .dmc (by decide)
@[simp] theorem State.info_flt (s : State) (x1) (x2) (x3) (x4) (x5) : ((@State.info s x1 x2 x3 x4 x5)).flt = s.flt :=
  State.info_only s x1 x2 x3 x4 x5 (Within.refl _) (Only.refl _ s) .flt (by decide)
@[simp] theorem State.info_cal (s : State) (x1) (x2) (x3) (x4) (x5) : ((@State.info s x1 x2 x3 x4 x5)).cal = s.cal :=
  State.info_only s x1 x2 x3 x4 x5 (Within.refl _) (Only.refl _ s) .cal (by decide)
@[simp] theorem State.info_hb (s : State) (x1) (x2) (x3) (x4) (x5) : ((@State.info s x1 x2 x3 x4 x5)).hb = s.hb :=
  State.info_only s x1 x2 x3 x4 x5 (Within.refl _) (Only.refl _ s) .hb (by decide)
@[simp] theorem State.info_free (s : State) (x1) (x2) (x3) (x4) (x5) : ((@State.info s x1 x2 x3 x4 x5)).free = s.free :=
  State.info_only s x1 x2 x3 x4 x5 (Within.refl _) (Only.refl _ s) .free (by decide)
@[simp] theorem State.info_pending (s : State) (x1) (x2) (x3) (x4) (x5) : ((@State.info s x1 x2 x3 x4 x5)).pending = s.pending :=
  State.info_only s x1 x2 x3 x4 x5 (Within.refl _) (Only.refl _ s) .pending (by decide)

/-! ### episodeOpen -/

@[simp] theorem State.episodeOpen_now (s : State) (x1) (x2) : ((@State.episodeOpen s x1 x2)).now = s.now :=
  State.episodeOpen_only s x1 x2 (Within.refl _) (Only.refl _ s) .now (by decide)
@[simp] theorem State.episodeOpen_fuses (s : State) (x1) (x2) : ((@State.episodeOpen s x1 x2)).fuses = s.fuses :=
  State.episodeOpen_only s x1 x2 (Within.refl _) (Only.refl _ s) .fuses (by decide)
@[simp] theorem State.episodeOpen_flash (s : State) (x1) (x2) : ((@State.episodeOpen s x1 x2)).flash = s.flash :=
  State.episodeOpen_only s x1 x2 (Within.refl _) (Only.refl _ s) .flash (by decide)
@[simp] theorem State.episodeOpen_power (s : State) (x1) (x2) : ((@State.episodeOpen s x1 x2)).power = s.power :=
  State.episodeOpen_only s x1 x2 (Within.refl _) (Only.refl _ s) .power (by decide)
@[simp] theorem State.episodeOpen_journal (s : State) (x1) (x2) : ((@State.episodeOpen s x1 x2)).journal = s.journal :=
  State.episodeOpen_only s x1 x2 (Within.refl _) (Only.refl _ s) .journal (by decide)
@[simp] theorem State.episodeOpen_store (s : State) (x1) (x2) : ((@State.episodeOpen s x1 x2)).store = s.store :=
  State.episodeOpen_only s x1 x2 (Within.refl _) (Only.refl _ s) .store (by decide)
@[simp] theorem State.episodeOpen_codec (s : State) (x1) (x2) : ((@State.episodeOpen s x1 x2)).codec = s.codec :=
  State.episodeOpen_only s x1 x2 (Within.refl _) (Only.refl _ s) .codec (by decide)
@[simp] theorem State.episodeOpen_render (s : State) (x1) (x2) : ((@State.episodeOpen s x1 x2)).render = s.render :=
  State.episodeOpen_only s x1 x2 (Within.refl _) (Only.refl _ s) .render (by decide)
@[simp] theorem State.episodeOpen_lines (s : State) (x1) (x2) : ((@State.episodeOpen s x1 x2)).lines = s.lines :=
  State.episodeOpen_only s x1 x2 (Within.refl _) (Only.refl _ s) .lines (by decide)
@[simp] theorem State.episodeOpen_pos (s : State) (x1) (x2) : ((@State.episodeOpen s x1 x2)).pos = s.pos :=
  State.episodeOpen_only s x1 x2 (Within.refl _) (Only.refl _ s) .pos (by decide)
@[simp] theorem State.episodeOpen_heads (s : State) (x1) (x2) : ((@State.episodeOpen s x1 x2)).heads = s.heads :=
  State.episodeOpen_only s x1 x2 (Within.refl _) (Only.refl _ s) .heads (by decide)
@[simp] theorem State.episodeOpen_loop (s : State) (x1) (x2) : ((@State.episodeOpen s x1 x2)).loop = s.loop :=
  State.episodeOpen_only s x1 x2 (Within.refl _) (Only.refl _ s) .loop (by decide)
@[simp] theorem State.episodeOpen_ring (s : State) (x1) (x2) : ((@State.episodeOpen s x1 x2)).ring = s.ring :=
  State.episodeOpen_only s x1 x2 (Within.refl _) (Only.refl _ s) .ring (by decide)
@[simp] theorem State.episodeOpen_axes (s : State) (x1) (x2) : ((@State.episodeOpen s x1 x2)).axes = s.axes :=
  State.episodeOpen_only s x1 x2 (Within.refl _) (Only.refl _ s) .axes (by decide)
@[simp] theorem State.episodeOpen_axisCycle (s : State) (x1) (x2) : ((@State.episodeOpen s x1 x2)).axisCycle = s.axisCycle :=
  State.episodeOpen_only s x1 x2 (Within.refl _) (Only.refl _ s) .axisCycle (by decide)
@[simp] theorem State.episodeOpen_dmc (s : State) (x1) (x2) : ((@State.episodeOpen s x1 x2)).dmc = s.dmc :=
  State.episodeOpen_only s x1 x2 (Within.refl _) (Only.refl _ s) .dmc (by decide)
@[simp] theorem State.episodeOpen_flt (s : State) (x1) (x2) : ((@State.episodeOpen s x1 x2)).flt = s.flt :=
  State.episodeOpen_only s x1 x2 (Within.refl _) (Only.refl _ s) .flt (by decide)
@[simp] theorem State.episodeOpen_cal (s : State) (x1) (x2) : ((@State.episodeOpen s x1 x2)).cal = s.cal :=
  State.episodeOpen_only s x1 x2 (Within.refl _) (Only.refl _ s) .cal (by decide)
@[simp] theorem State.episodeOpen_hb (s : State) (x1) (x2) : ((@State.episodeOpen s x1 x2)).hb = s.hb :=
  State.episodeOpen_only s x1 x2 (Within.refl _) (Only.refl _ s) .hb (by decide)
@[simp] theorem State.episodeOpen_free (s : State) (x1) (x2) : ((@State.episodeOpen s x1 x2)).free = s.free :=
  State.episodeOpen_only s x1 x2 (Within.refl _) (Only.refl _ s) .free (by decide)
@[simp] theorem State.episodeOpen_pending (s : State) (x1) (x2) : ((@State.episodeOpen s x1 x2)).pending = s.pending :=
  State.episodeOpen_only s x1 x2 (Within.refl _) (Only.refl _ s) .pending (by decide)

/-! ### episodeClose -/

@[simp] theorem State.episodeClose_now (s : State) (x1) (x2) : ((@State.episodeClose s x1 x2)).now = s.now :=
  State.episodeClose_only s x1 x2 (Within.refl _) (Only.refl _ s) .now (by decide)
@[simp] theorem State.episodeClose_fuses (s : State) (x1) (x2) : ((@State.episodeClose s x1 x2)).fuses = s.fuses :=
  State.episodeClose_only s x1 x2 (Within.refl _) (Only.refl _ s) .fuses (by decide)
@[simp] theorem State.episodeClose_flash (s : State) (x1) (x2) : ((@State.episodeClose s x1 x2)).flash = s.flash :=
  State.episodeClose_only s x1 x2 (Within.refl _) (Only.refl _ s) .flash (by decide)
@[simp] theorem State.episodeClose_power (s : State) (x1) (x2) : ((@State.episodeClose s x1 x2)).power = s.power :=
  State.episodeClose_only s x1 x2 (Within.refl _) (Only.refl _ s) .power (by decide)
@[simp] theorem State.episodeClose_journal (s : State) (x1) (x2) : ((@State.episodeClose s x1 x2)).journal = s.journal :=
  State.episodeClose_only s x1 x2 (Within.refl _) (Only.refl _ s) .journal (by decide)
@[simp] theorem State.episodeClose_store (s : State) (x1) (x2) : ((@State.episodeClose s x1 x2)).store = s.store :=
  State.episodeClose_only s x1 x2 (Within.refl _) (Only.refl _ s) .store (by decide)
@[simp] theorem State.episodeClose_codec (s : State) (x1) (x2) : ((@State.episodeClose s x1 x2)).codec = s.codec :=
  State.episodeClose_only s x1 x2 (Within.refl _) (Only.refl _ s) .codec (by decide)
@[simp] theorem State.episodeClose_render (s : State) (x1) (x2) : ((@State.episodeClose s x1 x2)).render = s.render :=
  State.episodeClose_only s x1 x2 (Within.refl _) (Only.refl _ s) .render (by decide)
@[simp] theorem State.episodeClose_lines (s : State) (x1) (x2) : ((@State.episodeClose s x1 x2)).lines = s.lines :=
  State.episodeClose_only s x1 x2 (Within.refl _) (Only.refl _ s) .lines (by decide)
@[simp] theorem State.episodeClose_pos (s : State) (x1) (x2) : ((@State.episodeClose s x1 x2)).pos = s.pos :=
  State.episodeClose_only s x1 x2 (Within.refl _) (Only.refl _ s) .pos (by decide)
@[simp] theorem State.episodeClose_heads (s : State) (x1) (x2) : ((@State.episodeClose s x1 x2)).heads = s.heads :=
  State.episodeClose_only s x1 x2 (Within.refl _) (Only.refl _ s) .heads (by decide)
@[simp] theorem State.episodeClose_loop (s : State) (x1) (x2) : ((@State.episodeClose s x1 x2)).loop = s.loop :=
  State.episodeClose_only s x1 x2 (Within.refl _) (Only.refl _ s) .loop (by decide)
@[simp] theorem State.episodeClose_ring (s : State) (x1) (x2) : ((@State.episodeClose s x1 x2)).ring = s.ring :=
  State.episodeClose_only s x1 x2 (Within.refl _) (Only.refl _ s) .ring (by decide)
@[simp] theorem State.episodeClose_axes (s : State) (x1) (x2) : ((@State.episodeClose s x1 x2)).axes = s.axes :=
  State.episodeClose_only s x1 x2 (Within.refl _) (Only.refl _ s) .axes (by decide)
@[simp] theorem State.episodeClose_axisCycle (s : State) (x1) (x2) : ((@State.episodeClose s x1 x2)).axisCycle = s.axisCycle :=
  State.episodeClose_only s x1 x2 (Within.refl _) (Only.refl _ s) .axisCycle (by decide)
@[simp] theorem State.episodeClose_dmc (s : State) (x1) (x2) : ((@State.episodeClose s x1 x2)).dmc = s.dmc :=
  State.episodeClose_only s x1 x2 (Within.refl _) (Only.refl _ s) .dmc (by decide)
@[simp] theorem State.episodeClose_flt (s : State) (x1) (x2) : ((@State.episodeClose s x1 x2)).flt = s.flt :=
  State.episodeClose_only s x1 x2 (Within.refl _) (Only.refl _ s) .flt (by decide)
@[simp] theorem State.episodeClose_cal (s : State) (x1) (x2) : ((@State.episodeClose s x1 x2)).cal = s.cal :=
  State.episodeClose_only s x1 x2 (Within.refl _) (Only.refl _ s) .cal (by decide)
@[simp] theorem State.episodeClose_hb (s : State) (x1) (x2) : ((@State.episodeClose s x1 x2)).hb = s.hb :=
  State.episodeClose_only s x1 x2 (Within.refl _) (Only.refl _ s) .hb (by decide)
@[simp] theorem State.episodeClose_free (s : State) (x1) (x2) : ((@State.episodeClose s x1 x2)).free = s.free :=
  State.episodeClose_only s x1 x2 (Within.refl _) (Only.refl _ s) .free (by decide)
@[simp] theorem State.episodeClose_pending (s : State) (x1) (x2) : ((@State.episodeClose s x1 x2)).pending = s.pending :=
  State.episodeClose_only s x1 x2 (Within.refl _) (Only.refl _ s) .pending (by decide)

/-! ### updPort -/

@[simp] theorem State.updPort_now (s : State) (x1) (x2) : ((@State.updPort s x1 x2)).now = s.now :=
  State.updPort_only s x1 x2 (Within.refl _) (Only.refl _ s) .now (by decide)
@[simp] theorem State.updPort_fuses (s : State) (x1) (x2) : ((@State.updPort s x1 x2)).fuses = s.fuses :=
  State.updPort_only s x1 x2 (Within.refl _) (Only.refl _ s) .fuses (by decide)
@[simp] theorem State.updPort_flash (s : State) (x1) (x2) : ((@State.updPort s x1 x2)).flash = s.flash :=
  State.updPort_only s x1 x2 (Within.refl _) (Only.refl _ s) .flash (by decide)
@[simp] theorem State.updPort_power (s : State) (x1) (x2) : ((@State.updPort s x1 x2)).power = s.power :=
  State.updPort_only s x1 x2 (Within.refl _) (Only.refl _ s) .power (by decide)
@[simp] theorem State.updPort_host (s : State) (x1) (x2) : ((@State.updPort s x1 x2)).host = s.host :=
  State.updPort_only s x1 x2 (Within.refl _) (Only.refl _ s) .host (by decide)
@[simp] theorem State.updPort_journal (s : State) (x1) (x2) : ((@State.updPort s x1 x2)).journal = s.journal :=
  State.updPort_only s x1 x2 (Within.refl _) (Only.refl _ s) .journal (by decide)
@[simp] theorem State.updPort_store (s : State) (x1) (x2) : ((@State.updPort s x1 x2)).store = s.store :=
  State.updPort_only s x1 x2 (Within.refl _) (Only.refl _ s) .store (by decide)
@[simp] theorem State.updPort_codec (s : State) (x1) (x2) : ((@State.updPort s x1 x2)).codec = s.codec :=
  State.updPort_only s x1 x2 (Within.refl _) (Only.refl _ s) .codec (by decide)
@[simp] theorem State.updPort_render (s : State) (x1) (x2) : ((@State.updPort s x1 x2)).render = s.render :=
  State.updPort_only s x1 x2 (Within.refl _) (Only.refl _ s) .render (by decide)
@[simp] theorem State.updPort_lines (s : State) (x1) (x2) : ((@State.updPort s x1 x2)).lines = s.lines :=
  State.updPort_only s x1 x2 (Within.refl _) (Only.refl _ s) .lines (by decide)
@[simp] theorem State.updPort_pos (s : State) (x1) (x2) : ((@State.updPort s x1 x2)).pos = s.pos :=
  State.updPort_only s x1 x2 (Within.refl _) (Only.refl _ s) .pos (by decide)
@[simp] theorem State.updPort_loop (s : State) (x1) (x2) : ((@State.updPort s x1 x2)).loop = s.loop :=
  State.updPort_only s x1 x2 (Within.refl _) (Only.refl _ s) .loop (by decide)
@[simp] theorem State.updPort_ring (s : State) (x1) (x2) : ((@State.updPort s x1 x2)).ring = s.ring :=
  State.updPort_only s x1 x2 (Within.refl _) (Only.refl _ s) .ring (by decide)
@[simp] theorem State.updPort_axes (s : State) (x1) (x2) : ((@State.updPort s x1 x2)).axes = s.axes :=
  State.updPort_only s x1 x2 (Within.refl _) (Only.refl _ s) .axes (by decide)
@[simp] theorem State.updPort_axisCycle (s : State) (x1) (x2) : ((@State.updPort s x1 x2)).axisCycle = s.axisCycle :=
  State.updPort_only s x1 x2 (Within.refl _) (Only.refl _ s) .axisCycle (by decide)
@[simp] theorem State.updPort_dmc (s : State) (x1) (x2) : ((@State.updPort s x1 x2)).dmc = s.dmc :=
  State.updPort_only s x1 x2 (Within.refl _) (Only.refl _ s) .dmc (by decide)
@[simp] theorem State.updPort_flt (s : State) (x1) (x2) : ((@State.updPort s x1 x2)).flt = s.flt :=
  State.updPort_only s x1 x2 (Within.refl _) (Only.refl _ s) .flt (by decide)
@[simp] theorem State.updPort_evt (s : State) (x1) (x2) : ((@State.updPort s x1 x2)).evt = s.evt :=
  State.updPort_only s x1 x2 (Within.refl _) (Only.refl _ s) .evt (by decide)
@[simp] theorem State.updPort_cal (s : State) (x1) (x2) : ((@State.updPort s x1 x2)).cal = s.cal :=
  State.updPort_only s x1 x2 (Within.refl _) (Only.refl _ s) .cal (by decide)
@[simp] theorem State.updPort_hb (s : State) (x1) (x2) : ((@State.updPort s x1 x2)).hb = s.hb :=
  State.updPort_only s x1 x2 (Within.refl _) (Only.refl _ s) .hb (by decide)
@[simp] theorem State.updPort_out (s : State) (x1) (x2) : ((@State.updPort s x1 x2)).out = s.out :=
  State.updPort_only s x1 x2 (Within.refl _) (Only.refl _ s) .out (by decide)
@[simp] theorem State.updPort_free (s : State) (x1) (x2) : ((@State.updPort s x1 x2)).free = s.free :=
  State.updPort_only s x1 x2 (Within.refl _) (Only.refl _ s) .free (by decide)
@[simp] theorem State.updPort_pending (s : State) (x1) (x2) : ((@State.updPort s x1 x2)).pending = s.pending :=
  State.updPort_only s x1 x2 (Within.refl _) (Only.refl _ s) .pending (by decide)

/-! ### updAxis -/

@[simp] theorem State.updAxis_now (s : State) (x1) (x2) : ((@State.updAxis s x1 x2)).now = s.now :=
  State.updAxis_only s x1 x2 (Within.refl _) (Only.refl _ s) .now (by decide)
@[simp] theorem State.updAxis_fuses (s : State) (x1) (x2) : ((@State.updAxis s x1 x2)).fuses = s.fuses :=
  State.updAxis_only s x1 x2 (Within.refl _) (Only.refl _ s) .fuses (by decide)
@[simp] theorem State.updAxis_flash (s : State) (x1) (x2) : ((@State.updAxis s x1 x2)).flash = s.flash :=
  State.updAxis_only s x1 x2 (Within.refl _) (Only.refl _ s) .flash (by decide)
@[simp] theorem State.updAxis_power (s : State) (x1) (x2) : ((@State.updAxis s x1 x2)).power = s.power :=
  State.updAxis_only s x1 x2 (Within.refl _) (Only.refl _ s) .power (by decide)
@[simp] theorem State.updAxis_host (s : State) (x1) (x2) : ((@State.updAxis s x1 x2)).host = s.host :=
  State.updAxis_only s x1 x2 (Within.refl _) (Only.refl _ s) .host (by decide)
@[simp] theorem State.updAxis_journal (s : State) (x1) (x2) : ((@State.updAxis s x1 x2)).journal = s.journal :=
  State.updAxis_only s x1 x2 (Within.refl _) (Only.refl _ s) .journal (by decide)
@[simp] theorem State.updAxis_store (s : State) (x1) (x2) : ((@State.updAxis s x1 x2)).store = s.store :=
  State.updAxis_only s x1 x2 (Within.refl _) (Only.refl _ s) .store (by decide)
@[simp] theorem State.updAxis_codec (s : State) (x1) (x2) : ((@State.updAxis s x1 x2)).codec = s.codec :=
  State.updAxis_only s x1 x2 (Within.refl _) (Only.refl _ s) .codec (by decide)
@[simp] theorem State.updAxis_render (s : State) (x1) (x2) : ((@State.updAxis s x1 x2)).render = s.render :=
  State.updAxis_only s x1 x2 (Within.refl _) (Only.refl _ s) .render (by decide)
@[simp] theorem State.updAxis_lines (s : State) (x1) (x2) : ((@State.updAxis s x1 x2)).lines = s.lines :=
  State.updAxis_only s x1 x2 (Within.refl _) (Only.refl _ s) .lines (by decide)
@[simp] theorem State.updAxis_pos (s : State) (x1) (x2) : ((@State.updAxis s x1 x2)).pos = s.pos :=
  State.updAxis_only s x1 x2 (Within.refl _) (Only.refl _ s) .pos (by decide)
@[simp] theorem State.updAxis_heads (s : State) (x1) (x2) : ((@State.updAxis s x1 x2)).heads = s.heads :=
  State.updAxis_only s x1 x2 (Within.refl _) (Only.refl _ s) .heads (by decide)
@[simp] theorem State.updAxis_loop (s : State) (x1) (x2) : ((@State.updAxis s x1 x2)).loop = s.loop :=
  State.updAxis_only s x1 x2 (Within.refl _) (Only.refl _ s) .loop (by decide)
@[simp] theorem State.updAxis_ring (s : State) (x1) (x2) : ((@State.updAxis s x1 x2)).ring = s.ring :=
  State.updAxis_only s x1 x2 (Within.refl _) (Only.refl _ s) .ring (by decide)
@[simp] theorem State.updAxis_axisCycle (s : State) (x1) (x2) : ((@State.updAxis s x1 x2)).axisCycle = s.axisCycle :=
  State.updAxis_only s x1 x2 (Within.refl _) (Only.refl _ s) .axisCycle (by decide)
@[simp] theorem State.updAxis_dmc (s : State) (x1) (x2) : ((@State.updAxis s x1 x2)).dmc = s.dmc :=
  State.updAxis_only s x1 x2 (Within.refl _) (Only.refl _ s) .dmc (by decide)
@[simp] theorem State.updAxis_flt (s : State) (x1) (x2) : ((@State.updAxis s x1 x2)).flt = s.flt :=
  State.updAxis_only s x1 x2 (Within.refl _) (Only.refl _ s) .flt (by decide)
@[simp] theorem State.updAxis_evt (s : State) (x1) (x2) : ((@State.updAxis s x1 x2)).evt = s.evt :=
  State.updAxis_only s x1 x2 (Within.refl _) (Only.refl _ s) .evt (by decide)
@[simp] theorem State.updAxis_cal (s : State) (x1) (x2) : ((@State.updAxis s x1 x2)).cal = s.cal :=
  State.updAxis_only s x1 x2 (Within.refl _) (Only.refl _ s) .cal (by decide)
@[simp] theorem State.updAxis_hb (s : State) (x1) (x2) : ((@State.updAxis s x1 x2)).hb = s.hb :=
  State.updAxis_only s x1 x2 (Within.refl _) (Only.refl _ s) .hb (by decide)
@[simp] theorem State.updAxis_out (s : State) (x1) (x2) : ((@State.updAxis s x1 x2)).out = s.out :=
  State.updAxis_only s x1 x2 (Within.refl _) (Only.refl _ s) .out (by decide)
@[simp] theorem State.updAxis_free (s : State) (x1) (x2) : ((@State.updAxis s x1 x2)).free = s.free :=
  State.updAxis_only s x1 x2 (Within.refl _) (Only.refl _ s) .free (by decide)
@[simp] theorem State.updAxis_pending (s : State) (x1) (x2) : ((@State.updAxis s x1 x2)).pending = s.pending :=
  State.updAxis_only s x1 x2 (Within.refl _) (Only.refl _ s) .pending (by decide)

/-! ### updChan -/

@[simp] theorem State.updChan_now (s : State) (x1) (x2) : ((@State.updChan s x1 x2)).now = s.now :=
  State.updChan_only s x1 x2 (Within.refl _) (Only.refl _ s) .now (by decide)
@[simp] theorem State.updChan_fuses (s : State) (x1) (x2) : ((@State.updChan s x1 x2)).fuses = s.fuses :=
  State.updChan_only s x1 x2 (Within.refl _) (Only.refl _ s) .fuses (by decide)
@[simp] theorem State.updChan_flash (s : State) (x1) (x2) : ((@State.updChan s x1 x2)).flash = s.flash :=
  State.updChan_only s x1 x2 (Within.refl _) (Only.refl _ s) .flash (by decide)
@[simp] theorem State.updChan_power (s : State) (x1) (x2) : ((@State.updChan s x1 x2)).power = s.power :=
  State.updChan_only s x1 x2 (Within.refl _) (Only.refl _ s) .power (by decide)
@[simp] theorem State.updChan_host (s : State) (x1) (x2) : ((@State.updChan s x1 x2)).host = s.host :=
  State.updChan_only s x1 x2 (Within.refl _) (Only.refl _ s) .host (by decide)
@[simp] theorem State.updChan_journal (s : State) (x1) (x2) : ((@State.updChan s x1 x2)).journal = s.journal :=
  State.updChan_only s x1 x2 (Within.refl _) (Only.refl _ s) .journal (by decide)
@[simp] theorem State.updChan_store (s : State) (x1) (x2) : ((@State.updChan s x1 x2)).store = s.store :=
  State.updChan_only s x1 x2 (Within.refl _) (Only.refl _ s) .store (by decide)
@[simp] theorem State.updChan_codec (s : State) (x1) (x2) : ((@State.updChan s x1 x2)).codec = s.codec :=
  State.updChan_only s x1 x2 (Within.refl _) (Only.refl _ s) .codec (by decide)
@[simp] theorem State.updChan_render (s : State) (x1) (x2) : ((@State.updChan s x1 x2)).render = s.render :=
  State.updChan_only s x1 x2 (Within.refl _) (Only.refl _ s) .render (by decide)
@[simp] theorem State.updChan_lines (s : State) (x1) (x2) : ((@State.updChan s x1 x2)).lines = s.lines :=
  State.updChan_only s x1 x2 (Within.refl _) (Only.refl _ s) .lines (by decide)
@[simp] theorem State.updChan_heads (s : State) (x1) (x2) : ((@State.updChan s x1 x2)).heads = s.heads :=
  State.updChan_only s x1 x2 (Within.refl _) (Only.refl _ s) .heads (by decide)
@[simp] theorem State.updChan_loop (s : State) (x1) (x2) : ((@State.updChan s x1 x2)).loop = s.loop :=
  State.updChan_only s x1 x2 (Within.refl _) (Only.refl _ s) .loop (by decide)
@[simp] theorem State.updChan_ring (s : State) (x1) (x2) : ((@State.updChan s x1 x2)).ring = s.ring :=
  State.updChan_only s x1 x2 (Within.refl _) (Only.refl _ s) .ring (by decide)
@[simp] theorem State.updChan_axes (s : State) (x1) (x2) : ((@State.updChan s x1 x2)).axes = s.axes :=
  State.updChan_only s x1 x2 (Within.refl _) (Only.refl _ s) .axes (by decide)
@[simp] theorem State.updChan_axisCycle (s : State) (x1) (x2) : ((@State.updChan s x1 x2)).axisCycle = s.axisCycle :=
  State.updChan_only s x1 x2 (Within.refl _) (Only.refl _ s) .axisCycle (by decide)
@[simp] theorem State.updChan_dmc (s : State) (x1) (x2) : ((@State.updChan s x1 x2)).dmc = s.dmc :=
  State.updChan_only s x1 x2 (Within.refl _) (Only.refl _ s) .dmc (by decide)
@[simp] theorem State.updChan_flt (s : State) (x1) (x2) : ((@State.updChan s x1 x2)).flt = s.flt :=
  State.updChan_only s x1 x2 (Within.refl _) (Only.refl _ s) .flt (by decide)
@[simp] theorem State.updChan_evt (s : State) (x1) (x2) : ((@State.updChan s x1 x2)).evt = s.evt :=
  State.updChan_only s x1 x2 (Within.refl _) (Only.refl _ s) .evt (by decide)
@[simp] theorem State.updChan_cal (s : State) (x1) (x2) : ((@State.updChan s x1 x2)).cal = s.cal :=
  State.updChan_only s x1 x2 (Within.refl _) (Only.refl _ s) .cal (by decide)
@[simp] theorem State.updChan_hb (s : State) (x1) (x2) : ((@State.updChan s x1 x2)).hb = s.hb :=
  State.updChan_only s x1 x2 (Within.refl _) (Only.refl _ s) .hb (by decide)
@[simp] theorem State.updChan_out (s : State) (x1) (x2) : ((@State.updChan s x1 x2)).out = s.out :=
  State.updChan_only s x1 x2 (Within.refl _) (Only.refl _ s) .out (by decide)
@[simp] theorem State.updChan_free (s : State) (x1) (x2) : ((@State.updChan s x1 x2)).free = s.free :=
  State.updChan_only s x1 x2 (Within.refl _) (Only.refl _ s) .free (by decide)
@[simp] theorem State.updChan_pending (s : State) (x1) (x2) : ((@State.updChan s x1 x2)).pending = s.pending :=
  State.updChan_only s x1 x2 (Within.refl _) (Only.refl _ s) .pending (by decide)

/-! ### updPennant -/

@[simp] theorem State.updPennant_now (s : State) (x1) (x2) : ((@State.updPennant s x1 x2)).now = s.now :=
  State.updPennant_only s x1 x2 (Within.refl _) (Only.refl _ s) .now (by decide)
@[simp] theorem State.updPennant_fuses (s : State) (x1) (x2) : ((@State.updPennant s x1 x2)).fuses = s.fuses :=
  State.updPennant_only s x1 x2 (Within.refl _) (Only.refl _ s) .fuses (by decide)
@[simp] theorem State.updPennant_flash (s : State) (x1) (x2) : ((@State.updPennant s x1 x2)).flash = s.flash :=
  State.updPennant_only s x1 x2 (Within.refl _) (Only.refl _ s) .flash (by decide)
@[simp] theorem State.updPennant_power (s : State) (x1) (x2) : ((@State.updPennant s x1 x2)).power = s.power :=
  State.updPennant_only s x1 x2 (Within.refl _) (Only.refl _ s) .power (by decide)
@[simp] theorem State.updPennant_host (s : State) (x1) (x2) : ((@State.updPennant s x1 x2)).host = s.host :=
  State.updPennant_only s x1 x2 (Within.refl _) (Only.refl _ s) .host (by decide)
@[simp] theorem State.updPennant_journal (s : State) (x1) (x2) : ((@State.updPennant s x1 x2)).journal = s.journal :=
  State.updPennant_only s x1 x2 (Within.refl _) (Only.refl _ s) .journal (by decide)
@[simp] theorem State.updPennant_store (s : State) (x1) (x2) : ((@State.updPennant s x1 x2)).store = s.store :=
  State.updPennant_only s x1 x2 (Within.refl _) (Only.refl _ s) .store (by decide)
@[simp] theorem State.updPennant_codec (s : State) (x1) (x2) : ((@State.updPennant s x1 x2)).codec = s.codec :=
  State.updPennant_only s x1 x2 (Within.refl _) (Only.refl _ s) .codec (by decide)
@[simp] theorem State.updPennant_lines (s : State) (x1) (x2) : ((@State.updPennant s x1 x2)).lines = s.lines :=
  State.updPennant_only s x1 x2 (Within.refl _) (Only.refl _ s) .lines (by decide)
@[simp] theorem State.updPennant_pos (s : State) (x1) (x2) : ((@State.updPennant s x1 x2)).pos = s.pos :=
  State.updPennant_only s x1 x2 (Within.refl _) (Only.refl _ s) .pos (by decide)
@[simp] theorem State.updPennant_heads (s : State) (x1) (x2) : ((@State.updPennant s x1 x2)).heads = s.heads :=
  State.updPennant_only s x1 x2 (Within.refl _) (Only.refl _ s) .heads (by decide)
@[simp] theorem State.updPennant_loop (s : State) (x1) (x2) : ((@State.updPennant s x1 x2)).loop = s.loop :=
  State.updPennant_only s x1 x2 (Within.refl _) (Only.refl _ s) .loop (by decide)
@[simp] theorem State.updPennant_ring (s : State) (x1) (x2) : ((@State.updPennant s x1 x2)).ring = s.ring :=
  State.updPennant_only s x1 x2 (Within.refl _) (Only.refl _ s) .ring (by decide)
@[simp] theorem State.updPennant_axes (s : State) (x1) (x2) : ((@State.updPennant s x1 x2)).axes = s.axes :=
  State.updPennant_only s x1 x2 (Within.refl _) (Only.refl _ s) .axes (by decide)
@[simp] theorem State.updPennant_axisCycle (s : State) (x1) (x2) : ((@State.updPennant s x1 x2)).axisCycle = s.axisCycle :=
  State.updPennant_only s x1 x2 (Within.refl _) (Only.refl _ s) .axisCycle (by decide)
@[simp] theorem State.updPennant_dmc (s : State) (x1) (x2) : ((@State.updPennant s x1 x2)).dmc = s.dmc :=
  State.updPennant_only s x1 x2 (Within.refl _) (Only.refl _ s) .dmc (by decide)
@[simp] theorem State.updPennant_flt (s : State) (x1) (x2) : ((@State.updPennant s x1 x2)).flt = s.flt :=
  State.updPennant_only s x1 x2 (Within.refl _) (Only.refl _ s) .flt (by decide)
@[simp] theorem State.updPennant_evt (s : State) (x1) (x2) : ((@State.updPennant s x1 x2)).evt = s.evt :=
  State.updPennant_only s x1 x2 (Within.refl _) (Only.refl _ s) .evt (by decide)
@[simp] theorem State.updPennant_cal (s : State) (x1) (x2) : ((@State.updPennant s x1 x2)).cal = s.cal :=
  State.updPennant_only s x1 x2 (Within.refl _) (Only.refl _ s) .cal (by decide)
@[simp] theorem State.updPennant_hb (s : State) (x1) (x2) : ((@State.updPennant s x1 x2)).hb = s.hb :=
  State.updPennant_only s x1 x2 (Within.refl _) (Only.refl _ s) .hb (by decide)
@[simp] theorem State.updPennant_out (s : State) (x1) (x2) : ((@State.updPennant s x1 x2)).out = s.out :=
  State.updPennant_only s x1 x2 (Within.refl _) (Only.refl _ s) .out (by decide)
@[simp] theorem State.updPennant_free (s : State) (x1) (x2) : ((@State.updPennant s x1 x2)).free = s.free :=
  State.updPennant_only s x1 x2 (Within.refl _) (Only.refl _ s) .free (by decide)
@[simp] theorem State.updPennant_pending (s : State) (x1) (x2) : ((@State.updPennant s x1 x2)).pending = s.pending :=
  State.updPennant_only s x1 x2 (Within.refl _) (Only.refl _ s) .pending (by decide)

/-! ### updHoist -/

@[simp] theorem State.updHoist_now (s : State) (x1) (x2) : ((@State.updHoist s x1 x2)).now = s.now :=
  State.updHoist_only s x1 x2 (Within.refl _) (Only.refl _ s) .now (by decide)
@[simp] theorem State.updHoist_fuses (s : State) (x1) (x2) : ((@State.updHoist s x1 x2)).fuses = s.fuses :=
  State.updHoist_only s x1 x2 (Within.refl _) (Only.refl _ s) .fuses (by decide)
@[simp] theorem State.updHoist_flash (s : State) (x1) (x2) : ((@State.updHoist s x1 x2)).flash = s.flash :=
  State.updHoist_only s x1 x2 (Within.refl _) (Only.refl _ s) .flash (by decide)
@[simp] theorem State.updHoist_power (s : State) (x1) (x2) : ((@State.updHoist s x1 x2)).power = s.power :=
  State.updHoist_only s x1 x2 (Within.refl _) (Only.refl _ s) .power (by decide)
@[simp] theorem State.updHoist_host (s : State) (x1) (x2) : ((@State.updHoist s x1 x2)).host = s.host :=
  State.updHoist_only s x1 x2 (Within.refl _) (Only.refl _ s) .host (by decide)
@[simp] theorem State.updHoist_journal (s : State) (x1) (x2) : ((@State.updHoist s x1 x2)).journal = s.journal :=
  State.updHoist_only s x1 x2 (Within.refl _) (Only.refl _ s) .journal (by decide)
@[simp] theorem State.updHoist_store (s : State) (x1) (x2) : ((@State.updHoist s x1 x2)).store = s.store :=
  State.updHoist_only s x1 x2 (Within.refl _) (Only.refl _ s) .store (by decide)
@[simp] theorem State.updHoist_codec (s : State) (x1) (x2) : ((@State.updHoist s x1 x2)).codec = s.codec :=
  State.updHoist_only s x1 x2 (Within.refl _) (Only.refl _ s) .codec (by decide)
@[simp] theorem State.updHoist_lines (s : State) (x1) (x2) : ((@State.updHoist s x1 x2)).lines = s.lines :=
  State.updHoist_only s x1 x2 (Within.refl _) (Only.refl _ s) .lines (by decide)
@[simp] theorem State.updHoist_pos (s : State) (x1) (x2) : ((@State.updHoist s x1 x2)).pos = s.pos :=
  State.updHoist_only s x1 x2 (Within.refl _) (Only.refl _ s) .pos (by decide)
@[simp] theorem State.updHoist_heads (s : State) (x1) (x2) : ((@State.updHoist s x1 x2)).heads = s.heads :=
  State.updHoist_only s x1 x2 (Within.refl _) (Only.refl _ s) .heads (by decide)
@[simp] theorem State.updHoist_loop (s : State) (x1) (x2) : ((@State.updHoist s x1 x2)).loop = s.loop :=
  State.updHoist_only s x1 x2 (Within.refl _) (Only.refl _ s) .loop (by decide)
@[simp] theorem State.updHoist_ring (s : State) (x1) (x2) : ((@State.updHoist s x1 x2)).ring = s.ring :=
  State.updHoist_only s x1 x2 (Within.refl _) (Only.refl _ s) .ring (by decide)
@[simp] theorem State.updHoist_axes (s : State) (x1) (x2) : ((@State.updHoist s x1 x2)).axes = s.axes :=
  State.updHoist_only s x1 x2 (Within.refl _) (Only.refl _ s) .axes (by decide)
@[simp] theorem State.updHoist_axisCycle (s : State) (x1) (x2) : ((@State.updHoist s x1 x2)).axisCycle = s.axisCycle :=
  State.updHoist_only s x1 x2 (Within.refl _) (Only.refl _ s) .axisCycle (by decide)
@[simp] theorem State.updHoist_dmc (s : State) (x1) (x2) : ((@State.updHoist s x1 x2)).dmc = s.dmc :=
  State.updHoist_only s x1 x2 (Within.refl _) (Only.refl _ s) .dmc (by decide)
@[simp] theorem State.updHoist_flt (s : State) (x1) (x2) : ((@State.updHoist s x1 x2)).flt = s.flt :=
  State.updHoist_only s x1 x2 (Within.refl _) (Only.refl _ s) .flt (by decide)
@[simp] theorem State.updHoist_evt (s : State) (x1) (x2) : ((@State.updHoist s x1 x2)).evt = s.evt :=
  State.updHoist_only s x1 x2 (Within.refl _) (Only.refl _ s) .evt (by decide)
@[simp] theorem State.updHoist_cal (s : State) (x1) (x2) : ((@State.updHoist s x1 x2)).cal = s.cal :=
  State.updHoist_only s x1 x2 (Within.refl _) (Only.refl _ s) .cal (by decide)
@[simp] theorem State.updHoist_hb (s : State) (x1) (x2) : ((@State.updHoist s x1 x2)).hb = s.hb :=
  State.updHoist_only s x1 x2 (Within.refl _) (Only.refl _ s) .hb (by decide)
@[simp] theorem State.updHoist_out (s : State) (x1) (x2) : ((@State.updHoist s x1 x2)).out = s.out :=
  State.updHoist_only s x1 x2 (Within.refl _) (Only.refl _ s) .out (by decide)
@[simp] theorem State.updHoist_free (s : State) (x1) (x2) : ((@State.updHoist s x1 x2)).free = s.free :=
  State.updHoist_only s x1 x2 (Within.refl _) (Only.refl _ s) .free (by decide)
@[simp] theorem State.updHoist_pending (s : State) (x1) (x2) : ((@State.updHoist s x1 x2)).pending = s.pending :=
  State.updHoist_only s x1 x2 (Within.refl _) (Only.refl _ s) .pending (by decide)

/-! ### updHalyard -/

@[simp] theorem State.updHalyard_now (s : State) (x1) (x2) : ((@State.updHalyard s x1 x2)).now = s.now :=
  State.updHalyard_only s x1 x2 (Within.refl _) (Only.refl _ s) .now (by decide)
@[simp] theorem State.updHalyard_fuses (s : State) (x1) (x2) : ((@State.updHalyard s x1 x2)).fuses = s.fuses :=
  State.updHalyard_only s x1 x2 (Within.refl _) (Only.refl _ s) .fuses (by decide)
@[simp] theorem State.updHalyard_flash (s : State) (x1) (x2) : ((@State.updHalyard s x1 x2)).flash = s.flash :=
  State.updHalyard_only s x1 x2 (Within.refl _) (Only.refl _ s) .flash (by decide)
@[simp] theorem State.updHalyard_power (s : State) (x1) (x2) : ((@State.updHalyard s x1 x2)).power = s.power :=
  State.updHalyard_only s x1 x2 (Within.refl _) (Only.refl _ s) .power (by decide)
@[simp] theorem State.updHalyard_host (s : State) (x1) (x2) : ((@State.updHalyard s x1 x2)).host = s.host :=
  State.updHalyard_only s x1 x2 (Within.refl _) (Only.refl _ s) .host (by decide)
@[simp] theorem State.updHalyard_journal (s : State) (x1) (x2) : ((@State.updHalyard s x1 x2)).journal = s.journal :=
  State.updHalyard_only s x1 x2 (Within.refl _) (Only.refl _ s) .journal (by decide)
@[simp] theorem State.updHalyard_store (s : State) (x1) (x2) : ((@State.updHalyard s x1 x2)).store = s.store :=
  State.updHalyard_only s x1 x2 (Within.refl _) (Only.refl _ s) .store (by decide)
@[simp] theorem State.updHalyard_codec (s : State) (x1) (x2) : ((@State.updHalyard s x1 x2)).codec = s.codec :=
  State.updHalyard_only s x1 x2 (Within.refl _) (Only.refl _ s) .codec (by decide)
@[simp] theorem State.updHalyard_render (s : State) (x1) (x2) : ((@State.updHalyard s x1 x2)).render = s.render :=
  State.updHalyard_only s x1 x2 (Within.refl _) (Only.refl _ s) .render (by decide)
@[simp] theorem State.updHalyard_lines (s : State) (x1) (x2) : ((@State.updHalyard s x1 x2)).lines = s.lines :=
  State.updHalyard_only s x1 x2 (Within.refl _) (Only.refl _ s) .lines (by decide)
@[simp] theorem State.updHalyard_pos (s : State) (x1) (x2) : ((@State.updHalyard s x1 x2)).pos = s.pos :=
  State.updHalyard_only s x1 x2 (Within.refl _) (Only.refl _ s) .pos (by decide)
@[simp] theorem State.updHalyard_heads (s : State) (x1) (x2) : ((@State.updHalyard s x1 x2)).heads = s.heads :=
  State.updHalyard_only s x1 x2 (Within.refl _) (Only.refl _ s) .heads (by decide)
@[simp] theorem State.updHalyard_loop (s : State) (x1) (x2) : ((@State.updHalyard s x1 x2)).loop = s.loop :=
  State.updHalyard_only s x1 x2 (Within.refl _) (Only.refl _ s) .loop (by decide)
@[simp] theorem State.updHalyard_axes (s : State) (x1) (x2) : ((@State.updHalyard s x1 x2)).axes = s.axes :=
  State.updHalyard_only s x1 x2 (Within.refl _) (Only.refl _ s) .axes (by decide)
@[simp] theorem State.updHalyard_axisCycle (s : State) (x1) (x2) : ((@State.updHalyard s x1 x2)).axisCycle = s.axisCycle :=
  State.updHalyard_only s x1 x2 (Within.refl _) (Only.refl _ s) .axisCycle (by decide)
@[simp] theorem State.updHalyard_dmc (s : State) (x1) (x2) : ((@State.updHalyard s x1 x2)).dmc = s.dmc :=
  State.updHalyard_only s x1 x2 (Within.refl _) (Only.refl _ s) .dmc (by decide)
@[simp] theorem State.updHalyard_flt (s : State) (x1) (x2) : ((@State.updHalyard s x1 x2)).flt = s.flt :=
  State.updHalyard_only s x1 x2 (Within.refl _) (Only.refl _ s) .flt (by decide)
@[simp] theorem State.updHalyard_evt (s : State) (x1) (x2) : ((@State.updHalyard s x1 x2)).evt = s.evt :=
  State.updHalyard_only s x1 x2 (Within.refl _) (Only.refl _ s) .evt (by decide)
@[simp] theorem State.updHalyard_cal (s : State) (x1) (x2) : ((@State.updHalyard s x1 x2)).cal = s.cal :=
  State.updHalyard_only s x1 x2 (Within.refl _) (Only.refl _ s) .cal (by decide)
@[simp] theorem State.updHalyard_hb (s : State) (x1) (x2) : ((@State.updHalyard s x1 x2)).hb = s.hb :=
  State.updHalyard_only s x1 x2 (Within.refl _) (Only.refl _ s) .hb (by decide)
@[simp] theorem State.updHalyard_out (s : State) (x1) (x2) : ((@State.updHalyard s x1 x2)).out = s.out :=
  State.updHalyard_only s x1 x2 (Within.refl _) (Only.refl _ s) .out (by decide)
@[simp] theorem State.updHalyard_free (s : State) (x1) (x2) : ((@State.updHalyard s x1 x2)).free = s.free :=
  State.updHalyard_only s x1 x2 (Within.refl _) (Only.refl _ s) .free (by decide)
@[simp] theorem State.updHalyard_pending (s : State) (x1) (x2) : ((@State.updHalyard s x1 x2)).pending = s.pending :=
  State.updHalyard_only s x1 x2 (Within.refl _) (Only.refl _ s) .pending (by decide)

/-! ### mapPage -/

@[simp] theorem State.mapPage_now (s : State) (x1) (x2) : ((@State.mapPage s x1 x2)).now = s.now :=
  State.mapPage_only s x1 x2 (Within.refl _) (Only.refl _ s) .now (by decide)
@[simp] theorem State.mapPage_fuses (s : State) (x1) (x2) : ((@State.mapPage s x1 x2)).fuses = s.fuses :=
  State.mapPage_only s x1 x2 (Within.refl _) (Only.refl _ s) .fuses (by decide)
@[simp] theorem State.mapPage_flash (s : State) (x1) (x2) : ((@State.mapPage s x1 x2)).flash = s.flash :=
  State.mapPage_only s x1 x2 (Within.refl _) (Only.refl _ s) .flash (by decide)
@[simp] theorem State.mapPage_power (s : State) (x1) (x2) : ((@State.mapPage s x1 x2)).power = s.power :=
  State.mapPage_only s x1 x2 (Within.refl _) (Only.refl _ s) .power (by decide)
@[simp] theorem State.mapPage_host (s : State) (x1) (x2) : ((@State.mapPage s x1 x2)).host = s.host :=
  State.mapPage_only s x1 x2 (Within.refl _) (Only.refl _ s) .host (by decide)
@[simp] theorem State.mapPage_journal (s : State) (x1) (x2) : ((@State.mapPage s x1 x2)).journal = s.journal :=
  State.mapPage_only s x1 x2 (Within.refl _) (Only.refl _ s) .journal (by decide)
@[simp] theorem State.mapPage_codec (s : State) (x1) (x2) : ((@State.mapPage s x1 x2)).codec = s.codec :=
  State.mapPage_only s x1 x2 (Within.refl _) (Only.refl _ s) .codec (by decide)
@[simp] theorem State.mapPage_render (s : State) (x1) (x2) : ((@State.mapPage s x1 x2)).render = s.render :=
  State.mapPage_only s x1 x2 (Within.refl _) (Only.refl _ s) .render (by decide)
@[simp] theorem State.mapPage_lines (s : State) (x1) (x2) : ((@State.mapPage s x1 x2)).lines = s.lines :=
  State.mapPage_only s x1 x2 (Within.refl _) (Only.refl _ s) .lines (by decide)
@[simp] theorem State.mapPage_pos (s : State) (x1) (x2) : ((@State.mapPage s x1 x2)).pos = s.pos :=
  State.mapPage_only s x1 x2 (Within.refl _) (Only.refl _ s) .pos (by decide)
@[simp] theorem State.mapPage_heads (s : State) (x1) (x2) : ((@State.mapPage s x1 x2)).heads = s.heads :=
  State.mapPage_only s x1 x2 (Within.refl _) (Only.refl _ s) .heads (by decide)
@[simp] theorem State.mapPage_loop (s : State) (x1) (x2) : ((@State.mapPage s x1 x2)).loop = s.loop :=
  State.mapPage_only s x1 x2 (Within.refl _) (Only.refl _ s) .loop (by decide)
@[simp] theorem State.mapPage_ring (s : State) (x1) (x2) : ((@State.mapPage s x1 x2)).ring = s.ring :=
  State.mapPage_only s x1 x2 (Within.refl _) (Only.refl _ s) .ring (by decide)
@[simp] theorem State.mapPage_axes (s : State) (x1) (x2) : ((@State.mapPage s x1 x2)).axes = s.axes :=
  State.mapPage_only s x1 x2 (Within.refl _) (Only.refl _ s) .axes (by decide)
@[simp] theorem State.mapPage_axisCycle (s : State) (x1) (x2) : ((@State.mapPage s x1 x2)).axisCycle = s.axisCycle :=
  State.mapPage_only s x1 x2 (Within.refl _) (Only.refl _ s) .axisCycle (by decide)
@[simp] theorem State.mapPage_dmc (s : State) (x1) (x2) : ((@State.mapPage s x1 x2)).dmc = s.dmc :=
  State.mapPage_only s x1 x2 (Within.refl _) (Only.refl _ s) .dmc (by decide)
@[simp] theorem State.mapPage_flt (s : State) (x1) (x2) : ((@State.mapPage s x1 x2)).flt = s.flt :=
  State.mapPage_only s x1 x2 (Within.refl _) (Only.refl _ s) .flt (by decide)
@[simp] theorem State.mapPage_evt (s : State) (x1) (x2) : ((@State.mapPage s x1 x2)).evt = s.evt :=
  State.mapPage_only s x1 x2 (Within.refl _) (Only.refl _ s) .evt (by decide)
@[simp] theorem State.mapPage_cal (s : State) (x1) (x2) : ((@State.mapPage s x1 x2)).cal = s.cal :=
  State.mapPage_only s x1 x2 (Within.refl _) (Only.refl _ s) .cal (by decide)
@[simp] theorem State.mapPage_hb (s : State) (x1) (x2) : ((@State.mapPage s x1 x2)).hb = s.hb :=
  State.mapPage_only s x1 x2 (Within.refl _) (Only.refl _ s) .hb (by decide)
@[simp] theorem State.mapPage_out (s : State) (x1) (x2) : ((@State.mapPage s x1 x2)).out = s.out :=
  State.mapPage_only s x1 x2 (Within.refl _) (Only.refl _ s) .out (by decide)
@[simp] theorem State.mapPage_free (s : State) (x1) (x2) : ((@State.mapPage s x1 x2)).free = s.free :=
  State.mapPage_only s x1 x2 (Within.refl _) (Only.refl _ s) .free (by decide)
@[simp] theorem State.mapPage_pending (s : State) (x1) (x2) : ((@State.mapPage s x1 x2)).pending = s.pending :=
  State.mapPage_only s x1 x2 (Within.refl _) (Only.refl _ s) .pending (by decide)

/-! ### mapJob -/

@[simp] theorem State.mapJob_now (s : State) (x1) (x2) : ((@State.mapJob s x1 x2)).now = s.now :=
  State.mapJob_only s x1 x2 (Within.refl _) (Only.refl _ s) .now (by decide)
@[simp] theorem State.mapJob_fuses (s : State) (x1) (x2) : ((@State.mapJob s x1 x2)).fuses = s.fuses :=
  State.mapJob_only s x1 x2 (Within.refl _) (Only.refl _ s) .fuses (by decide)
@[simp] theorem State.mapJob_flash (s : State) (x1) (x2) : ((@State.mapJob s x1 x2)).flash = s.flash :=
  State.mapJob_only s x1 x2 (Within.refl _) (Only.refl _ s) .flash (by decide)
@[simp] theorem State.mapJob_power (s : State) (x1) (x2) : ((@State.mapJob s x1 x2)).power = s.power :=
  State.mapJob_only s x1 x2 (Within.refl _) (Only.refl _ s) .power (by decide)
@[simp] theorem State.mapJob_host (s : State) (x1) (x2) : ((@State.mapJob s x1 x2)).host = s.host :=
  State.mapJob_only s x1 x2 (Within.refl _) (Only.refl _ s) .host (by decide)
@[simp] theorem State.mapJob_journal (s : State) (x1) (x2) : ((@State.mapJob s x1 x2)).journal = s.journal :=
  State.mapJob_only s x1 x2 (Within.refl _) (Only.refl _ s) .journal (by decide)
@[simp] theorem State.mapJob_codec (s : State) (x1) (x2) : ((@State.mapJob s x1 x2)).codec = s.codec :=
  State.mapJob_only s x1 x2 (Within.refl _) (Only.refl _ s) .codec (by decide)
@[simp] theorem State.mapJob_render (s : State) (x1) (x2) : ((@State.mapJob s x1 x2)).render = s.render :=
  State.mapJob_only s x1 x2 (Within.refl _) (Only.refl _ s) .render (by decide)
@[simp] theorem State.mapJob_lines (s : State) (x1) (x2) : ((@State.mapJob s x1 x2)).lines = s.lines :=
  State.mapJob_only s x1 x2 (Within.refl _) (Only.refl _ s) .lines (by decide)
@[simp] theorem State.mapJob_pos (s : State) (x1) (x2) : ((@State.mapJob s x1 x2)).pos = s.pos :=
  State.mapJob_only s x1 x2 (Within.refl _) (Only.refl _ s) .pos (by decide)
@[simp] theorem State.mapJob_heads (s : State) (x1) (x2) : ((@State.mapJob s x1 x2)).heads = s.heads :=
  State.mapJob_only s x1 x2 (Within.refl _) (Only.refl _ s) .heads (by decide)
@[simp] theorem State.mapJob_loop (s : State) (x1) (x2) : ((@State.mapJob s x1 x2)).loop = s.loop :=
  State.mapJob_only s x1 x2 (Within.refl _) (Only.refl _ s) .loop (by decide)
@[simp] theorem State.mapJob_ring (s : State) (x1) (x2) : ((@State.mapJob s x1 x2)).ring = s.ring :=
  State.mapJob_only s x1 x2 (Within.refl _) (Only.refl _ s) .ring (by decide)
@[simp] theorem State.mapJob_axes (s : State) (x1) (x2) : ((@State.mapJob s x1 x2)).axes = s.axes :=
  State.mapJob_only s x1 x2 (Within.refl _) (Only.refl _ s) .axes (by decide)
@[simp] theorem State.mapJob_axisCycle (s : State) (x1) (x2) : ((@State.mapJob s x1 x2)).axisCycle = s.axisCycle :=
  State.mapJob_only s x1 x2 (Within.refl _) (Only.refl _ s) .axisCycle (by decide)
@[simp] theorem State.mapJob_dmc (s : State) (x1) (x2) : ((@State.mapJob s x1 x2)).dmc = s.dmc :=
  State.mapJob_only s x1 x2 (Within.refl _) (Only.refl _ s) .dmc (by decide)
@[simp] theorem State.mapJob_flt (s : State) (x1) (x2) : ((@State.mapJob s x1 x2)).flt = s.flt :=
  State.mapJob_only s x1 x2 (Within.refl _) (Only.refl _ s) .flt (by decide)
@[simp] theorem State.mapJob_evt (s : State) (x1) (x2) : ((@State.mapJob s x1 x2)).evt = s.evt :=
  State.mapJob_only s x1 x2 (Within.refl _) (Only.refl _ s) .evt (by decide)
@[simp] theorem State.mapJob_cal (s : State) (x1) (x2) : ((@State.mapJob s x1 x2)).cal = s.cal :=
  State.mapJob_only s x1 x2 (Within.refl _) (Only.refl _ s) .cal (by decide)
@[simp] theorem State.mapJob_hb (s : State) (x1) (x2) : ((@State.mapJob s x1 x2)).hb = s.hb :=
  State.mapJob_only s x1 x2 (Within.refl _) (Only.refl _ s) .hb (by decide)
@[simp] theorem State.mapJob_out (s : State) (x1) (x2) : ((@State.mapJob s x1 x2)).out = s.out :=
  State.mapJob_only s x1 x2 (Within.refl _) (Only.refl _ s) .out (by decide)
@[simp] theorem State.mapJob_free (s : State) (x1) (x2) : ((@State.mapJob s x1 x2)).free = s.free :=
  State.mapJob_only s x1 x2 (Within.refl _) (Only.refl _ s) .free (by decide)
@[simp] theorem State.mapJob_pending (s : State) (x1) (x2) : ((@State.mapJob s x1 x2)).pending = s.pending :=
  State.mapJob_only s x1 x2 (Within.refl _) (Only.refl _ s) .pending (by decide)

/-! ### refuse -/

@[simp] theorem State.refuse_now (s : State) (x1) (x2) (x3) : ((@State.refuse s x1 x2 x3)).now = s.now :=
  State.refuse_only s x1 x2 x3 (Within.refl _) (Only.refl _ s) .now (by decide)
@[simp] theorem State.refuse_fuses (s : State) (x1) (x2) (x3) : ((@State.refuse s x1 x2 x3)).fuses = s.fuses :=
  State.refuse_only s x1 x2 x3 (Within.refl _) (Only.refl _ s) .fuses (by decide)
@[simp] theorem State.refuse_flash (s : State) (x1) (x2) (x3) : ((@State.refuse s x1 x2 x3)).flash = s.flash :=
  State.refuse_only s x1 x2 x3 (Within.refl _) (Only.refl _ s) .flash (by decide)
@[simp] theorem State.refuse_power (s : State) (x1) (x2) (x3) : ((@State.refuse s x1 x2 x3)).power = s.power :=
  State.refuse_only s x1 x2 x3 (Within.refl _) (Only.refl _ s) .power (by decide)
@[simp] theorem State.refuse_store (s : State) (x1) (x2) (x3) : ((@State.refuse s x1 x2 x3)).store = s.store :=
  State.refuse_only s x1 x2 x3 (Within.refl _) (Only.refl _ s) .store (by decide)
@[simp] theorem State.refuse_codec (s : State) (x1) (x2) (x3) : ((@State.refuse s x1 x2 x3)).codec = s.codec :=
  State.refuse_only s x1 x2 x3 (Within.refl _) (Only.refl _ s) .codec (by decide)
@[simp] theorem State.refuse_render (s : State) (x1) (x2) (x3) : ((@State.refuse s x1 x2 x3)).render = s.render :=
  State.refuse_only s x1 x2 x3 (Within.refl _) (Only.refl _ s) .render (by decide)
@[simp] theorem State.refuse_lines (s : State) (x1) (x2) (x3) : ((@State.refuse s x1 x2 x3)).lines = s.lines :=
  State.refuse_only s x1 x2 x3 (Within.refl _) (Only.refl _ s) .lines (by decide)
@[simp] theorem State.refuse_pos (s : State) (x1) (x2) (x3) : ((@State.refuse s x1 x2 x3)).pos = s.pos :=
  State.refuse_only s x1 x2 x3 (Within.refl _) (Only.refl _ s) .pos (by decide)
@[simp] theorem State.refuse_heads (s : State) (x1) (x2) (x3) : ((@State.refuse s x1 x2 x3)).heads = s.heads :=
  State.refuse_only s x1 x2 x3 (Within.refl _) (Only.refl _ s) .heads (by decide)
@[simp] theorem State.refuse_loop (s : State) (x1) (x2) (x3) : ((@State.refuse s x1 x2 x3)).loop = s.loop :=
  State.refuse_only s x1 x2 x3 (Within.refl _) (Only.refl _ s) .loop (by decide)
@[simp] theorem State.refuse_ring (s : State) (x1) (x2) (x3) : ((@State.refuse s x1 x2 x3)).ring = s.ring :=
  State.refuse_only s x1 x2 x3 (Within.refl _) (Only.refl _ s) .ring (by decide)
@[simp] theorem State.refuse_axes (s : State) (x1) (x2) (x3) : ((@State.refuse s x1 x2 x3)).axes = s.axes :=
  State.refuse_only s x1 x2 x3 (Within.refl _) (Only.refl _ s) .axes (by decide)
@[simp] theorem State.refuse_axisCycle (s : State) (x1) (x2) (x3) : ((@State.refuse s x1 x2 x3)).axisCycle = s.axisCycle :=
  State.refuse_only s x1 x2 x3 (Within.refl _) (Only.refl _ s) .axisCycle (by decide)
@[simp] theorem State.refuse_dmc (s : State) (x1) (x2) (x3) : ((@State.refuse s x1 x2 x3)).dmc = s.dmc :=
  State.refuse_only s x1 x2 x3 (Within.refl _) (Only.refl _ s) .dmc (by decide)
@[simp] theorem State.refuse_flt (s : State) (x1) (x2) (x3) : ((@State.refuse s x1 x2 x3)).flt = s.flt :=
  State.refuse_only s x1 x2 x3 (Within.refl _) (Only.refl _ s) .flt (by decide)
@[simp] theorem State.refuse_cal (s : State) (x1) (x2) (x3) : ((@State.refuse s x1 x2 x3)).cal = s.cal :=
  State.refuse_only s x1 x2 x3 (Within.refl _) (Only.refl _ s) .cal (by decide)
@[simp] theorem State.refuse_hb (s : State) (x1) (x2) (x3) : ((@State.refuse s x1 x2 x3)).hb = s.hb :=
  State.refuse_only s x1 x2 x3 (Within.refl _) (Only.refl _ s) .hb (by decide)
@[simp] theorem State.refuse_free (s : State) (x1) (x2) (x3) : ((@State.refuse s x1 x2 x3)).free = s.free :=
  State.refuse_only s x1 x2 x3 (Within.refl _) (Only.refl _ s) .free (by decide)
@[simp] theorem State.refuse_pending (s : State) (x1) (x2) (x3) : ((@State.refuse s x1 x2 x3)).pending = s.pending :=
  State.refuse_only s x1 x2 x3 (Within.refl _) (Only.refl _ s) .pending (by decide)

/-! ### freeBit -/

@[simp] theorem State.freeBit_now (s : State) : ((@State.freeBit s).2).now = s.now :=
  State.freeBit_only s (Within.refl _) (Only.refl _ s) .now (by decide)
@[simp] theorem State.freeBit_fuses (s : State) : ((@State.freeBit s).2).fuses = s.fuses :=
  State.freeBit_only s (Within.refl _) (Only.refl _ s) .fuses (by decide)
@[simp] theorem State.freeBit_flash (s : State) : ((@State.freeBit s).2).flash = s.flash :=
  State.freeBit_only s (Within.refl _) (Only.refl _ s) .flash (by decide)
@[simp] theorem State.freeBit_power (s : State) : ((@State.freeBit s).2).power = s.power :=
  State.freeBit_only s (Within.refl _) (Only.refl _ s) .power (by decide)
@[simp] theorem State.freeBit_host (s : State) : ((@State.freeBit s).2).host = s.host :=
  State.freeBit_only s (Within.refl _) (Only.refl _ s) .host (by decide)
@[simp] theorem State.freeBit_journal (s : State) : ((@State.freeBit s).2).journal = s.journal :=
  State.freeBit_only s (Within.refl _) (Only.refl _ s) .journal (by decide)
@[simp] theorem State.freeBit_store (s : State) : ((@State.freeBit s).2).store = s.store :=
  State.freeBit_only s (Within.refl _) (Only.refl _ s) .store (by decide)
@[simp] theorem State.freeBit_codec (s : State) : ((@State.freeBit s).2).codec = s.codec :=
  State.freeBit_only s (Within.refl _) (Only.refl _ s) .codec (by decide)
@[simp] theorem State.freeBit_render (s : State) : ((@State.freeBit s).2).render = s.render :=
  State.freeBit_only s (Within.refl _) (Only.refl _ s) .render (by decide)
@[simp] theorem State.freeBit_lines (s : State) : ((@State.freeBit s).2).lines = s.lines :=
  State.freeBit_only s (Within.refl _) (Only.refl _ s) .lines (by decide)
@[simp] theorem State.freeBit_pos (s : State) : ((@State.freeBit s).2).pos = s.pos :=
  State.freeBit_only s (Within.refl _) (Only.refl _ s) .pos (by decide)
@[simp] theorem State.freeBit_heads (s : State) : ((@State.freeBit s).2).heads = s.heads :=
  State.freeBit_only s (Within.refl _) (Only.refl _ s) .heads (by decide)
@[simp] theorem State.freeBit_loop (s : State) : ((@State.freeBit s).2).loop = s.loop :=
  State.freeBit_only s (Within.refl _) (Only.refl _ s) .loop (by decide)
@[simp] theorem State.freeBit_ring (s : State) : ((@State.freeBit s).2).ring = s.ring :=
  State.freeBit_only s (Within.refl _) (Only.refl _ s) .ring (by decide)
@[simp] theorem State.freeBit_axes (s : State) : ((@State.freeBit s).2).axes = s.axes :=
  State.freeBit_only s (Within.refl _) (Only.refl _ s) .axes (by decide)
@[simp] theorem State.freeBit_axisCycle (s : State) : ((@State.freeBit s).2).axisCycle = s.axisCycle :=
  State.freeBit_only s (Within.refl _) (Only.refl _ s) .axisCycle (by decide)
@[simp] theorem State.freeBit_dmc (s : State) : ((@State.freeBit s).2).dmc = s.dmc :=
  State.freeBit_only s (Within.refl _) (Only.refl _ s) .dmc (by decide)
@[simp] theorem State.freeBit_flt (s : State) : ((@State.freeBit s).2).flt = s.flt :=
  State.freeBit_only s (Within.refl _) (Only.refl _ s) .flt (by decide)
@[simp] theorem State.freeBit_evt (s : State) : ((@State.freeBit s).2).evt = s.evt :=
  State.freeBit_only s (Within.refl _) (Only.refl _ s) .evt (by decide)
@[simp] theorem State.freeBit_cal (s : State) : ((@State.freeBit s).2).cal = s.cal :=
  State.freeBit_only s (Within.refl _) (Only.refl _ s) .cal (by decide)
@[simp] theorem State.freeBit_hb (s : State) : ((@State.freeBit s).2).hb = s.hb :=
  State.freeBit_only s (Within.refl _) (Only.refl _ s) .hb (by decide)
@[simp] theorem State.freeBit_out (s : State) : ((@State.freeBit s).2).out = s.out :=
  State.freeBit_only s (Within.refl _) (Only.refl _ s) .out (by decide)
@[simp] theorem State.freeBit_pending (s : State) : ((@State.freeBit s).2).pending = s.pending :=
  State.freeBit_only s (Within.refl _) (Only.refl _ s) .pending (by decide)

/-! ### freeByte -/

@[simp] theorem State.freeByte_now (s : State) : ((@State.freeByte s).2).now = s.now :=
  State.freeByte_only s (Within.refl _) (Only.refl _ s) .now (by decide)
@[simp] theorem State.freeByte_fuses (s : State) : ((@State.freeByte s).2).fuses = s.fuses :=
  State.freeByte_only s (Within.refl _) (Only.refl _ s) .fuses (by decide)
@[simp] theorem State.freeByte_flash (s : State) : ((@State.freeByte s).2).flash = s.flash :=
  State.freeByte_only s (Within.refl _) (Only.refl _ s) .flash (by decide)
@[simp] theorem State.freeByte_power (s : State) : ((@State.freeByte s).2).power = s.power :=
  State.freeByte_only s (Within.refl _) (Only.refl _ s) .power (by decide)
@[simp] theorem State.freeByte_host (s : State) : ((@State.freeByte s).2).host = s.host :=
  State.freeByte_only s (Within.refl _) (Only.refl _ s) .host (by decide)
@[simp] theorem State.freeByte_journal (s : State) : ((@State.freeByte s).2).journal = s.journal :=
  State.freeByte_only s (Within.refl _) (Only.refl _ s) .journal (by decide)
@[simp] theorem State.freeByte_store (s : State) : ((@State.freeByte s).2).store = s.store :=
  State.freeByte_only s (Within.refl _) (Only.refl _ s) .store (by decide)
@[simp] theorem State.freeByte_codec (s : State) : ((@State.freeByte s).2).codec = s.codec :=
  State.freeByte_only s (Within.refl _) (Only.refl _ s) .codec (by decide)
@[simp] theorem State.freeByte_render (s : State) : ((@State.freeByte s).2).render = s.render :=
  State.freeByte_only s (Within.refl _) (Only.refl _ s) .render (by decide)
@[simp] theorem State.freeByte_lines (s : State) : ((@State.freeByte s).2).lines = s.lines :=
  State.freeByte_only s (Within.refl _) (Only.refl _ s) .lines (by decide)
@[simp] theorem State.freeByte_pos (s : State) : ((@State.freeByte s).2).pos = s.pos :=
  State.freeByte_only s (Within.refl _) (Only.refl _ s) .pos (by decide)
@[simp] theorem State.freeByte_heads (s : State) : ((@State.freeByte s).2).heads = s.heads :=
  State.freeByte_only s (Within.refl _) (Only.refl _ s) .heads (by decide)
@[simp] theorem State.freeByte_loop (s : State) : ((@State.freeByte s).2).loop = s.loop :=
  State.freeByte_only s (Within.refl _) (Only.refl _ s) .loop (by decide)
@[simp] theorem State.freeByte_ring (s : State) : ((@State.freeByte s).2).ring = s.ring :=
  State.freeByte_only s (Within.refl _) (Only.refl _ s) .ring (by decide)
@[simp] theorem State.freeByte_axes (s : State) : ((@State.freeByte s).2).axes = s.axes :=
  State.freeByte_only s (Within.refl _) (Only.refl _ s) .axes (by decide)
@[simp] theorem State.freeByte_axisCycle (s : State) : ((@State.freeByte s).2).axisCycle = s.axisCycle :=
  State.freeByte_only s (Within.refl _) (Only.refl _ s) .axisCycle (by decide)
@[simp] theorem State.freeByte_dmc (s : State) : ((@State.freeByte s).2).dmc = s.dmc :=
  State.freeByte_only s (Within.refl _) (Only.refl _ s) .dmc (by decide)
@[simp] theorem State.freeByte_flt (s : State) : ((@State.freeByte s).2).flt = s.flt :=
  State.freeByte_only s (Within.refl _) (Only.refl _ s) .flt (by decide)
@[simp] theorem State.freeByte_evt (s : State) : ((@State.freeByte s).2).evt = s.evt :=
  State.freeByte_only s (Within.refl _) (Only.refl _ s) .evt (by decide)
@[simp] theorem State.freeByte_cal (s : State) : ((@State.freeByte s).2).cal = s.cal :=
  State.freeByte_only s (Within.refl _) (Only.refl _ s) .cal (by decide)
@[simp] theorem State.freeByte_hb (s : State) : ((@State.freeByte s).2).hb = s.hb :=
  State.freeByte_only s (Within.refl _) (Only.refl _ s) .hb (by decide)
@[simp] theorem State.freeByte_out (s : State) : ((@State.freeByte s).2).out = s.out :=
  State.freeByte_only s (Within.refl _) (Only.refl _ s) .out (by decide)
@[simp] theorem State.freeByte_pending (s : State) : ((@State.freeByte s).2).pending = s.pending :=
  State.freeByte_only s (Within.refl _) (Only.refl _ s) .pending (by decide)

/-! ### freeNat -/

@[simp] theorem State.freeNat_now (s : State) : ((@State.freeNat s).2).now = s.now :=
  State.freeNat_only s (Within.refl _) (Only.refl _ s) .now (by decide)
@[simp] theorem State.freeNat_fuses (s : State) : ((@State.freeNat s).2).fuses = s.fuses :=
  State.freeNat_only s (Within.refl _) (Only.refl _ s) .fuses (by decide)
@[simp] theorem State.freeNat_flash (s : State) : ((@State.freeNat s).2).flash = s.flash :=
  State.freeNat_only s (Within.refl _) (Only.refl _ s) .flash (by decide)
@[simp] theorem State.freeNat_power (s : State) : ((@State.freeNat s).2).power = s.power :=
  State.freeNat_only s (Within.refl _) (Only.refl _ s) .power (by decide)
@[simp] theorem State.freeNat_host (s : State) : ((@State.freeNat s).2).host = s.host :=
  State.freeNat_only s (Within.refl _) (Only.refl _ s) .host (by decide)
@[simp] theorem State.freeNat_journal (s : State) : ((@State.freeNat s).2).journal = s.journal :=
  State.freeNat_only s (Within.refl _) (Only.refl _ s) .journal (by decide)
@[simp] theorem State.freeNat_store (s : State) : ((@State.freeNat s).2).store = s.store :=
  State.freeNat_only s (Within.refl _) (Only.refl _ s) .store (by decide)
@[simp] theorem State.freeNat_codec (s : State) : ((@State.freeNat s).2).codec = s.codec :=
  State.freeNat_only s (Within.refl _) (Only.refl _ s) .codec (by decide)
@[simp] theorem State.freeNat_render (s : State) : ((@State.freeNat s).2).render = s.render :=
  State.freeNat_only s (Within.refl _) (Only.refl _ s) .render (by decide)
@[simp] theorem State.freeNat_lines (s : State) : ((@State.freeNat s).2).lines = s.lines :=
  State.freeNat_only s (Within.refl _) (Only.refl _ s) .lines (by decide)
@[simp] theorem State.freeNat_pos (s : State) : ((@State.freeNat s).2).pos = s.pos :=
  State.freeNat_only s (Within.refl _) (Only.refl _ s) .pos (by decide)
@[simp] theorem State.freeNat_heads (s : State) : ((@State.freeNat s).2).heads = s.heads :=
  State.freeNat_only s (Within.refl _) (Only.refl _ s) .heads (by decide)
@[simp] theorem State.freeNat_loop (s : State) : ((@State.freeNat s).2).loop = s.loop :=
  State.freeNat_only s (Within.refl _) (Only.refl _ s) .loop (by decide)
@[simp] theorem State.freeNat_ring (s : State) : ((@State.freeNat s).2).ring = s.ring :=
  State.freeNat_only s (Within.refl _) (Only.refl _ s) .ring (by decide)
@[simp] theorem State.freeNat_axes (s : State) : ((@State.freeNat s).2).axes = s.axes :=
  State.freeNat_only s (Within.refl _) (Only.refl _ s) .axes (by decide)
@[simp] theorem State.freeNat_axisCycle (s : State) : ((@State.freeNat s).2).axisCycle = s.axisCycle :=
  State.freeNat_only s (Within.refl _) (Only.refl _ s) .axisCycle (by decide)
@[simp] theorem State.freeNat_dmc (s : State) : ((@State.freeNat s).2).dmc = s.dmc :=
  State.freeNat_only s (Within.refl _) (Only.refl _ s) .dmc (by decide)
@[simp] theorem State.freeNat_flt (s : State) : ((@State.freeNat s).2).flt = s.flt :=
  State.freeNat_only s (Within.refl _) (Only.refl _ s) .flt (by decide)
@[simp] theorem State.freeNat_evt (s : State) : ((@State.freeNat s).2).evt = s.evt :=
  State.freeNat_only s (Within.refl _) (Only.refl _ s) .evt (by decide)
@[simp] theorem State.freeNat_cal (s : State) : ((@State.freeNat s).2).cal = s.cal :=
  State.freeNat_only s (Within.refl _) (Only.refl _ s) .cal (by decide)
@[simp] theorem State.freeNat_hb (s : State) : ((@State.freeNat s).2).hb = s.hb :=
  State.freeNat_only s (Within.refl _) (Only.refl _ s) .hb (by decide)
@[simp] theorem State.freeNat_out (s : State) : ((@State.freeNat s).2).out = s.out :=
  State.freeNat_only s (Within.refl _) (Only.refl _ s) .out (by decide)
@[simp] theorem State.freeNat_pending (s : State) : ((@State.freeNat s).2).pending = s.pending :=
  State.freeNat_only s (Within.refl _) (Only.refl _ s) .pending (by decide)

/-! ### live -/

@[simp] theorem State.live_now (s : State) (x1) (x2) : ((@State.live s x1 x2)).now = s.now :=
  State.live_only s x1 x2 (Within.refl _) (Only.refl _ s) .now (by decide)
@[simp] theorem State.live_fuses (s : State) (x1) (x2) : ((@State.live s x1 x2)).fuses = s.fuses :=
  State.live_only s x1 x2 (Within.refl _) (Only.refl _ s) .fuses (by decide)
@[simp] theorem State.live_flash (s : State) (x1) (x2) : ((@State.live s x1 x2)).flash = s.flash :=
  State.live_only s x1 x2 (Within.refl _) (Only.refl _ s) .flash (by decide)
@[simp] theorem State.live_power (s : State) (x1) (x2) : ((@State.live s x1 x2)).power = s.power :=
  State.live_only s x1 x2 (Within.refl _) (Only.refl _ s) .power (by decide)
@[simp] theorem State.live_host (s : State) (x1) (x2) : ((@State.live s x1 x2)).host = s.host :=
  State.live_only s x1 x2 (Within.refl _) (Only.refl _ s) .host (by decide)
@[simp] theorem State.live_journal (s : State) (x1) (x2) : ((@State.live s x1 x2)).journal = s.journal :=
  State.live_only s x1 x2 (Within.refl _) (Only.refl _ s) .journal (by decide)
@[simp] theorem State.live_store (s : State) (x1) (x2) : ((@State.live s x1 x2)).store = s.store :=
  State.live_only s x1 x2 (Within.refl _) (Only.refl _ s) .store (by decide)
@[simp] theorem State.live_codec (s : State) (x1) (x2) : ((@State.live s x1 x2)).codec = s.codec :=
  State.live_only s x1 x2 (Within.refl _) (Only.refl _ s) .codec (by decide)
@[simp] theorem State.live_render (s : State) (x1) (x2) : ((@State.live s x1 x2)).render = s.render :=
  State.live_only s x1 x2 (Within.refl _) (Only.refl _ s) .render (by decide)
@[simp] theorem State.live_lines (s : State) (x1) (x2) : ((@State.live s x1 x2)).lines = s.lines :=
  State.live_only s x1 x2 (Within.refl _) (Only.refl _ s) .lines (by decide)
@[simp] theorem State.live_pos (s : State) (x1) (x2) : ((@State.live s x1 x2)).pos = s.pos :=
  State.live_only s x1 x2 (Within.refl _) (Only.refl _ s) .pos (by decide)
@[simp] theorem State.live_heads (s : State) (x1) (x2) : ((@State.live s x1 x2)).heads = s.heads :=
  State.live_only s x1 x2 (Within.refl _) (Only.refl _ s) .heads (by decide)
@[simp] theorem State.live_loop (s : State) (x1) (x2) : ((@State.live s x1 x2)).loop = s.loop :=
  State.live_only s x1 x2 (Within.refl _) (Only.refl _ s) .loop (by decide)
@[simp] theorem State.live_ring (s : State) (x1) (x2) : ((@State.live s x1 x2)).ring = s.ring :=
  State.live_only s x1 x2 (Within.refl _) (Only.refl _ s) .ring (by decide)
@[simp] theorem State.live_axes (s : State) (x1) (x2) : ((@State.live s x1 x2)).axes = s.axes :=
  State.live_only s x1 x2 (Within.refl _) (Only.refl _ s) .axes (by decide)
@[simp] theorem State.live_axisCycle (s : State) (x1) (x2) : ((@State.live s x1 x2)).axisCycle = s.axisCycle :=
  State.live_only s x1 x2 (Within.refl _) (Only.refl _ s) .axisCycle (by decide)
@[simp] theorem State.live_dmc (s : State) (x1) (x2) : ((@State.live s x1 x2)).dmc = s.dmc :=
  State.live_only s x1 x2 (Within.refl _) (Only.refl _ s) .dmc (by decide)
@[simp] theorem State.live_evt (s : State) (x1) (x2) : ((@State.live s x1 x2)).evt = s.evt :=
  State.live_only s x1 x2 (Within.refl _) (Only.refl _ s) .evt (by decide)
@[simp] theorem State.live_cal (s : State) (x1) (x2) : ((@State.live s x1 x2)).cal = s.cal :=
  State.live_only s x1 x2 (Within.refl _) (Only.refl _ s) .cal (by decide)
@[simp] theorem State.live_hb (s : State) (x1) (x2) : ((@State.live s x1 x2)).hb = s.hb :=
  State.live_only s x1 x2 (Within.refl _) (Only.refl _ s) .hb (by decide)
@[simp] theorem State.live_out (s : State) (x1) (x2) : ((@State.live s x1 x2)).out = s.out :=
  State.live_only s x1 x2 (Within.refl _) (Only.refl _ s) .out (by decide)
@[simp] theorem State.live_free (s : State) (x1) (x2) : ((@State.live s x1 x2)).free = s.free :=
  State.live_only s x1 x2 (Within.refl _) (Only.refl _ s) .free (by decide)
@[simp] theorem State.live_pending (s : State) (x1) (x2) : ((@State.live s x1 x2)).pending = s.pending :=
  State.live_only s x1 x2 (Within.refl _) (Only.refl _ s) .pending (by decide)

/-! ### restartReference -/

@[simp] theorem State.restartReference_now (s : State) : ((@State.restartReference s)).now = s.now :=
  State.restartReference_only s (Within.refl _) (Only.refl _ s) .now (by decide)
@[simp] theorem State.restartReference_fuses (s : State) : ((@State.restartReference s)).fuses = s.fuses :=
  State.restartReference_only s (Within.refl _) (Only.refl _ s) .fuses (by decide)
@[simp] theorem State.restartReference_flash (s : State) : ((@State.restartReference s)).flash = s.flash :=
  State.restartReference_only s (Within.refl _) (Only.refl _ s) .flash (by decide)
@[simp] theorem State.restartReference_power (s : State) : ((@State.restartReference s)).power = s.power :=
  State.restartReference_only s (Within.refl _) (Only.refl _ s) .power (by decide)
@[simp] theorem State.restartReference_host (s : State) : ((@State.restartReference s)).host = s.host :=
  State.restartReference_only s (Within.refl _) (Only.refl _ s) .host (by decide)
@[simp] theorem State.restartReference_journal (s : State) : ((@State.restartReference s)).journal = s.journal :=
  State.restartReference_only s (Within.refl _) (Only.refl _ s) .journal (by decide)
@[simp] theorem State.restartReference_store (s : State) : ((@State.restartReference s)).store = s.store :=
  State.restartReference_only s (Within.refl _) (Only.refl _ s) .store (by decide)
@[simp] theorem State.restartReference_codec (s : State) : ((@State.restartReference s)).codec = s.codec :=
  State.restartReference_only s (Within.refl _) (Only.refl _ s) .codec (by decide)
@[simp] theorem State.restartReference_render (s : State) : ((@State.restartReference s)).render = s.render :=
  State.restartReference_only s (Within.refl _) (Only.refl _ s) .render (by decide)
@[simp] theorem State.restartReference_lines (s : State) : ((@State.restartReference s)).lines = s.lines :=
  State.restartReference_only s (Within.refl _) (Only.refl _ s) .lines (by decide)
@[simp] theorem State.restartReference_axes (s : State) : ((@State.restartReference s)).axes = s.axes :=
  State.restartReference_only s (Within.refl _) (Only.refl _ s) .axes (by decide)
@[simp] theorem State.restartReference_axisCycle (s : State) : ((@State.restartReference s)).axisCycle = s.axisCycle :=
  State.restartReference_only s (Within.refl _) (Only.refl _ s) .axisCycle (by decide)
@[simp] theorem State.restartReference_dmc (s : State) : ((@State.restartReference s)).dmc = s.dmc :=
  State.restartReference_only s (Within.refl _) (Only.refl _ s) .dmc (by decide)
@[simp] theorem State.restartReference_flt (s : State) : ((@State.restartReference s)).flt = s.flt :=
  State.restartReference_only s (Within.refl _) (Only.refl _ s) .flt (by decide)
@[simp] theorem State.restartReference_evt (s : State) : ((@State.restartReference s)).evt = s.evt :=
  State.restartReference_only s (Within.refl _) (Only.refl _ s) .evt (by decide)
@[simp] theorem State.restartReference_cal (s : State) : ((@State.restartReference s)).cal = s.cal :=
  State.restartReference_only s (Within.refl _) (Only.refl _ s) .cal (by decide)
@[simp] theorem State.restartReference_hb (s : State) : ((@State.restartReference s)).hb = s.hb :=
  State.restartReference_only s (Within.refl _) (Only.refl _ s) .hb (by decide)
@[simp] theorem State.restartReference_out (s : State) : ((@State.restartReference s)).out = s.out :=
  State.restartReference_only s (Within.refl _) (Only.refl _ s) .out (by decide)
@[simp] theorem State.restartReference_free (s : State) : ((@State.restartReference s)).free = s.free :=
  State.restartReference_only s (Within.refl _) (Only.refl _ s) .free (by decide)
@[simp] theorem State.restartReference_pending (s : State) : ((@State.restartReference s)).pending = s.pending :=
  State.restartReference_only s (Within.refl _) (Only.refl _ s) .pending (by decide)

/-! ### recomputeDelays -/

@[simp] theorem State.recomputeDelays_now (s : State) : ((@State.recomputeDelays s)).now = s.now :=
  State.recomputeDelays_only s (Within.refl _) (Only.refl _ s) .now (by decide)
@[simp] theorem State.recomputeDelays_fuses (s : State) : ((@State.recomputeDelays s)).fuses = s.fuses :=
  State.recomputeDelays_only s (Within.refl _) (Only.refl _ s) .fuses (by decide)
@[simp] theorem State.recomputeDelays_flash (s : State) : ((@State.recomputeDelays s)).flash = s.flash :=
  State.recomputeDelays_only s (Within.refl _) (Only.refl _ s) .flash (by decide)
@[simp] theorem State.recomputeDelays_power (s : State) : ((@State.recomputeDelays s)).power = s.power :=
  State.recomputeDelays_only s (Within.refl _) (Only.refl _ s) .power (by decide)
@[simp] theorem State.recomputeDelays_host (s : State) : ((@State.recomputeDelays s)).host = s.host :=
  State.recomputeDelays_only s (Within.refl _) (Only.refl _ s) .host (by decide)
@[simp] theorem State.recomputeDelays_journal (s : State) : ((@State.recomputeDelays s)).journal = s.journal :=
  State.recomputeDelays_only s (Within.refl _) (Only.refl _ s) .journal (by decide)
@[simp] theorem State.recomputeDelays_store (s : State) : ((@State.recomputeDelays s)).store = s.store :=
  State.recomputeDelays_only s (Within.refl _) (Only.refl _ s) .store (by decide)
@[simp] theorem State.recomputeDelays_codec (s : State) : ((@State.recomputeDelays s)).codec = s.codec :=
  State.recomputeDelays_only s (Within.refl _) (Only.refl _ s) .codec (by decide)
@[simp] theorem State.recomputeDelays_render (s : State) : ((@State.recomputeDelays s)).render = s.render :=
  State.recomputeDelays_only s (Within.refl _) (Only.refl _ s) .render (by decide)
@[simp] theorem State.recomputeDelays_pos (s : State) : ((@State.recomputeDelays s)).pos = s.pos :=
  State.recomputeDelays_only s (Within.refl _) (Only.refl _ s) .pos (by decide)
@[simp] theorem State.recomputeDelays_heads (s : State) : ((@State.recomputeDelays s)).heads = s.heads :=
  State.recomputeDelays_only s (Within.refl _) (Only.refl _ s) .heads (by decide)
@[simp] theorem State.recomputeDelays_loop (s : State) : ((@State.recomputeDelays s)).loop = s.loop :=
  State.recomputeDelays_only s (Within.refl _) (Only.refl _ s) .loop (by decide)
@[simp] theorem State.recomputeDelays_ring (s : State) : ((@State.recomputeDelays s)).ring = s.ring :=
  State.recomputeDelays_only s (Within.refl _) (Only.refl _ s) .ring (by decide)
@[simp] theorem State.recomputeDelays_axes (s : State) : ((@State.recomputeDelays s)).axes = s.axes :=
  State.recomputeDelays_only s (Within.refl _) (Only.refl _ s) .axes (by decide)
@[simp] theorem State.recomputeDelays_axisCycle (s : State) : ((@State.recomputeDelays s)).axisCycle = s.axisCycle :=
  State.recomputeDelays_only s (Within.refl _) (Only.refl _ s) .axisCycle (by decide)
@[simp] theorem State.recomputeDelays_dmc (s : State) : ((@State.recomputeDelays s)).dmc = s.dmc :=
  State.recomputeDelays_only s (Within.refl _) (Only.refl _ s) .dmc (by decide)
@[simp] theorem State.recomputeDelays_flt (s : State) : ((@State.recomputeDelays s)).flt = s.flt :=
  State.recomputeDelays_only s (Within.refl _) (Only.refl _ s) .flt (by decide)
@[simp] theorem State.recomputeDelays_evt (s : State) : ((@State.recomputeDelays s)).evt = s.evt :=
  State.recomputeDelays_only s (Within.refl _) (Only.refl _ s) .evt (by decide)
@[simp] theorem State.recomputeDelays_cal (s : State) : ((@State.recomputeDelays s)).cal = s.cal :=
  State.recomputeDelays_only s (Within.refl _) (Only.refl _ s) .cal (by decide)
@[simp] theorem State.recomputeDelays_hb (s : State) : ((@State.recomputeDelays s)).hb = s.hb :=
  State.recomputeDelays_only s (Within.refl _) (Only.refl _ s) .hb (by decide)
@[simp] theorem State.recomputeDelays_out (s : State) : ((@State.recomputeDelays s)).out = s.out :=
  State.recomputeDelays_only s (Within.refl _) (Only.refl _ s) .out (by decide)
@[simp] theorem State.recomputeDelays_free (s : State) : ((@State.recomputeDelays s)).free = s.free :=
  State.recomputeDelays_only s (Within.refl _) (Only.refl _ s) .free (by decide)
@[simp] theorem State.recomputeDelays_pending (s : State) : ((@State.recomputeDelays s)).pending = s.pending :=
  State.recomputeDelays_only s (Within.refl _) (Only.refl _ s) .pending (by decide)

/-! ### retryWaiting -/

@[simp] theorem State.retryWaiting_now (s : State) : ((@State.retryWaiting s)).now = s.now :=
  State.retryWaiting_only s (Within.refl _) (Only.refl _ s) .now (by decide)
@[simp] theorem State.retryWaiting_fuses (s : State) : ((@State.retryWaiting s)).fuses = s.fuses :=
  State.retryWaiting_only s (Within.refl _) (Only.refl _ s) .fuses (by decide)
@[simp] theorem State.retryWaiting_flash (s : State) : ((@State.retryWaiting s)).flash = s.flash :=
  State.retryWaiting_only s (Within.refl _) (Only.refl _ s) .flash (by decide)
@[simp] theorem State.retryWaiting_power (s : State) : ((@State.retryWaiting s)).power = s.power :=
  State.retryWaiting_only s (Within.refl _) (Only.refl _ s) .power (by decide)
@[simp] theorem State.retryWaiting_store (s : State) : ((@State.retryWaiting s)).store = s.store :=
  State.retryWaiting_only s (Within.refl _) (Only.refl _ s) .store (by decide)
@[simp] theorem State.retryWaiting_codec (s : State) : ((@State.retryWaiting s)).codec = s.codec :=
  State.retryWaiting_only s (Within.refl _) (Only.refl _ s) .codec (by decide)
@[simp] theorem State.retryWaiting_render (s : State) : ((@State.retryWaiting s)).render = s.render :=
  State.retryWaiting_only s (Within.refl _) (Only.refl _ s) .render (by decide)
@[simp] theorem State.retryWaiting_pos (s : State) : ((@State.retryWaiting s)).pos = s.pos :=
  State.retryWaiting_only s (Within.refl _) (Only.refl _ s) .pos (by decide)
@[simp] theorem State.retryWaiting_loop (s : State) : ((@State.retryWaiting s)).loop = s.loop :=
  State.retryWaiting_only s (Within.refl _) (Only.refl _ s) .loop (by decide)
@[simp] theorem State.retryWaiting_ring (s : State) : ((@State.retryWaiting s)).ring = s.ring :=
  State.retryWaiting_only s (Within.refl _) (Only.refl _ s) .ring (by decide)
@[simp] theorem State.retryWaiting_axes (s : State) : ((@State.retryWaiting s)).axes = s.axes :=
  State.retryWaiting_only s (Within.refl _) (Only.refl _ s) .axes (by decide)
@[simp] theorem State.retryWaiting_axisCycle (s : State) : ((@State.retryWaiting s)).axisCycle = s.axisCycle :=
  State.retryWaiting_only s (Within.refl _) (Only.refl _ s) .axisCycle (by decide)
@[simp] theorem State.retryWaiting_dmc (s : State) : ((@State.retryWaiting s)).dmc = s.dmc :=
  State.retryWaiting_only s (Within.refl _) (Only.refl _ s) .dmc (by decide)
@[simp] theorem State.retryWaiting_flt (s : State) : ((@State.retryWaiting s)).flt = s.flt :=
  State.retryWaiting_only s (Within.refl _) (Only.refl _ s) .flt (by decide)
@[simp] theorem State.retryWaiting_evt (s : State) : ((@State.retryWaiting s)).evt = s.evt :=
  State.retryWaiting_only s (Within.refl _) (Only.refl _ s) .evt (by decide)
@[simp] theorem State.retryWaiting_cal (s : State) : ((@State.retryWaiting s)).cal = s.cal :=
  State.retryWaiting_only s (Within.refl _) (Only.refl _ s) .cal (by decide)
@[simp] theorem State.retryWaiting_hb (s : State) : ((@State.retryWaiting s)).hb = s.hb :=
  State.retryWaiting_only s (Within.refl _) (Only.refl _ s) .hb (by decide)
@[simp] theorem State.retryWaiting_free (s : State) : ((@State.retryWaiting s)).free = s.free :=
  State.retryWaiting_only s (Within.refl _) (Only.refl _ s) .free (by decide)
@[simp] theorem State.retryWaiting_pending (s : State) : ((@State.retryWaiting s)).pending = s.pending :=
  State.retryWaiting_only s (Within.refl _) (Only.refl _ s) .pending (by decide)

/-! ### sendPending -/

@[simp] theorem State.sendPending_now (s : State) : ((@State.sendPending s)).now = s.now :=
  State.sendPending_only s (Within.refl _) (Only.refl _ s) .now (by decide)
@[simp] theorem State.sendPending_fuses (s : State) : ((@State.sendPending s)).fuses = s.fuses :=
  State.sendPending_only s (Within.refl _) (Only.refl _ s) .fuses (by decide)
@[simp] theorem State.sendPending_flash (s : State) : ((@State.sendPending s)).flash = s.flash :=
  State.sendPending_only s (Within.refl _) (Only.refl _ s) .flash (by decide)
@[simp] theorem State.sendPending_power (s : State) : ((@State.sendPending s)).power = s.power :=
  State.sendPending_only s (Within.refl _) (Only.refl _ s) .power (by decide)
@[simp] theorem State.sendPending_journal (s : State) : ((@State.sendPending s)).journal = s.journal :=
  State.sendPending_only s (Within.refl _) (Only.refl _ s) .journal (by decide)
@[simp] theorem State.sendPending_store (s : State) : ((@State.sendPending s)).store = s.store :=
  State.sendPending_only s (Within.refl _) (Only.refl _ s) .store (by decide)
@[simp] theorem State.sendPending_codec (s : State) : ((@State.sendPending s)).codec = s.codec :=
  State.sendPending_only s (Within.refl _) (Only.refl _ s) .codec (by decide)
@[simp] theorem State.sendPending_render (s : State) : ((@State.sendPending s)).render = s.render :=
  State.sendPending_only s (Within.refl _) (Only.refl _ s) .render (by decide)
@[simp] theorem State.sendPending_lines (s : State) : ((@State.sendPending s)).lines = s.lines :=
  State.sendPending_only s (Within.refl _) (Only.refl _ s) .lines (by decide)
@[simp] theorem State.sendPending_pos (s : State) : ((@State.sendPending s)).pos = s.pos :=
  State.sendPending_only s (Within.refl _) (Only.refl _ s) .pos (by decide)
@[simp] theorem State.sendPending_heads (s : State) : ((@State.sendPending s)).heads = s.heads :=
  State.sendPending_only s (Within.refl _) (Only.refl _ s) .heads (by decide)
@[simp] theorem State.sendPending_loop (s : State) : ((@State.sendPending s)).loop = s.loop :=
  State.sendPending_only s (Within.refl _) (Only.refl _ s) .loop (by decide)
@[simp] theorem State.sendPending_ring (s : State) : ((@State.sendPending s)).ring = s.ring :=
  State.sendPending_only s (Within.refl _) (Only.refl _ s) .ring (by decide)
@[simp] theorem State.sendPending_axes (s : State) : ((@State.sendPending s)).axes = s.axes :=
  State.sendPending_only s (Within.refl _) (Only.refl _ s) .axes (by decide)
@[simp] theorem State.sendPending_axisCycle (s : State) : ((@State.sendPending s)).axisCycle = s.axisCycle :=
  State.sendPending_only s (Within.refl _) (Only.refl _ s) .axisCycle (by decide)
@[simp] theorem State.sendPending_dmc (s : State) : ((@State.sendPending s)).dmc = s.dmc :=
  State.sendPending_only s (Within.refl _) (Only.refl _ s) .dmc (by decide)
@[simp] theorem State.sendPending_flt (s : State) : ((@State.sendPending s)).flt = s.flt :=
  State.sendPending_only s (Within.refl _) (Only.refl _ s) .flt (by decide)
@[simp] theorem State.sendPending_evt (s : State) : ((@State.sendPending s)).evt = s.evt :=
  State.sendPending_only s (Within.refl _) (Only.refl _ s) .evt (by decide)
@[simp] theorem State.sendPending_cal (s : State) : ((@State.sendPending s)).cal = s.cal :=
  State.sendPending_only s (Within.refl _) (Only.refl _ s) .cal (by decide)
@[simp] theorem State.sendPending_hb (s : State) : ((@State.sendPending s)).hb = s.hb :=
  State.sendPending_only s (Within.refl _) (Only.refl _ s) .hb (by decide)
@[simp] theorem State.sendPending_free (s : State) : ((@State.sendPending s)).free = s.free :=
  State.sendPending_only s (Within.refl _) (Only.refl _ s) .free (by decide)
@[simp] theorem State.sendPending_pending (s : State) : ((@State.sendPending s)).pending = s.pending :=
  State.sendPending_only s (Within.refl _) (Only.refl _ s) .pending (by decide)

/-! ### postAllHeld -/

@[simp] theorem State.postAllHeld_now (s : State) : ((@State.postAllHeld s)).now = s.now :=
  State.postAllHeld_only s (Within.refl _) (Only.refl _ s) .now (by decide)
@[simp] theorem State.postAllHeld_fuses (s : State) : ((@State.postAllHeld s)).fuses = s.fuses :=
  State.postAllHeld_only s (Within.refl _) (Only.refl _ s) .fuses (by decide)
@[simp] theorem State.postAllHeld_flash (s : State) : ((@State.postAllHeld s)).flash = s.flash :=
  State.postAllHeld_only s (Within.refl _) (Only.refl _ s) .flash (by decide)
@[simp] theorem State.postAllHeld_power (s : State) : ((@State.postAllHeld s)).power = s.power :=
  State.postAllHeld_only s (Within.refl _) (Only.refl _ s) .power (by decide)
@[simp] theorem State.postAllHeld_journal (s : State) : ((@State.postAllHeld s)).journal = s.journal :=
  State.postAllHeld_only s (Within.refl _) (Only.refl _ s) .journal (by decide)
@[simp] theorem State.postAllHeld_store (s : State) : ((@State.postAllHeld s)).store = s.store :=
  State.postAllHeld_only s (Within.refl _) (Only.refl _ s) .store (by decide)
@[simp] theorem State.postAllHeld_codec (s : State) : ((@State.postAllHeld s)).codec = s.codec :=
  State.postAllHeld_only s (Within.refl _) (Only.refl _ s) .codec (by decide)
@[simp] theorem State.postAllHeld_render (s : State) : ((@State.postAllHeld s)).render = s.render :=
  State.postAllHeld_only s (Within.refl _) (Only.refl _ s) .render (by decide)
@[simp] theorem State.postAllHeld_lines (s : State) : ((@State.postAllHeld s)).lines = s.lines :=
  State.postAllHeld_only s (Within.refl _) (Only.refl _ s) .lines (by decide)
@[simp] theorem State.postAllHeld_pos (s : State) : ((@State.postAllHeld s)).pos = s.pos :=
  State.postAllHeld_only s (Within.refl _) (Only.refl _ s) .pos (by decide)
@[simp] theorem State.postAllHeld_heads (s : State) : ((@State.postAllHeld s)).heads = s.heads :=
  State.postAllHeld_only s (Within.refl _) (Only.refl _ s) .heads (by decide)
@[simp] theorem State.postAllHeld_loop (s : State) : ((@State.postAllHeld s)).loop = s.loop :=
  State.postAllHeld_only s (Within.refl _) (Only.refl _ s) .loop (by decide)
@[simp] theorem State.postAllHeld_ring (s : State) : ((@State.postAllHeld s)).ring = s.ring :=
  State.postAllHeld_only s (Within.refl _) (Only.refl _ s) .ring (by decide)
@[simp] theorem State.postAllHeld_axes (s : State) : ((@State.postAllHeld s)).axes = s.axes :=
  State.postAllHeld_only s (Within.refl _) (Only.refl _ s) .axes (by decide)
@[simp] theorem State.postAllHeld_axisCycle (s : State) : ((@State.postAllHeld s)).axisCycle = s.axisCycle :=
  State.postAllHeld_only s (Within.refl _) (Only.refl _ s) .axisCycle (by decide)
@[simp] theorem State.postAllHeld_dmc (s : State) : ((@State.postAllHeld s)).dmc = s.dmc :=
  State.postAllHeld_only s (Within.refl _) (Only.refl _ s) .dmc (by decide)
@[simp] theorem State.postAllHeld_flt (s : State) : ((@State.postAllHeld s)).flt = s.flt :=
  State.postAllHeld_only s (Within.refl _) (Only.refl _ s) .flt (by decide)
@[simp] theorem State.postAllHeld_evt (s : State) : ((@State.postAllHeld s)).evt = s.evt :=
  State.postAllHeld_only s (Within.refl _) (Only.refl _ s) .evt (by decide)
@[simp] theorem State.postAllHeld_cal (s : State) : ((@State.postAllHeld s)).cal = s.cal :=
  State.postAllHeld_only s (Within.refl _) (Only.refl _ s) .cal (by decide)
@[simp] theorem State.postAllHeld_hb (s : State) : ((@State.postAllHeld s)).hb = s.hb :=
  State.postAllHeld_only s (Within.refl _) (Only.refl _ s) .hb (by decide)
@[simp] theorem State.postAllHeld_free (s : State) : ((@State.postAllHeld s)).free = s.free :=
  State.postAllHeld_only s (Within.refl _) (Only.refl _ s) .free (by decide)
@[simp] theorem State.postAllHeld_pending (s : State) : ((@State.postAllHeld s)).pending = s.pending :=
  State.postAllHeld_only s (Within.refl _) (Only.refl _ s) .pending (by decide)

/-! ### changeDelays -/

@[simp] theorem State.changeDelays_now (s : State) (x1) (x2) (x3) (x4) : ((@State.changeDelays s x1 x2 x3 x4)).now = s.now :=
  State.changeDelays_only s x1 x2 x3 x4 (Within.refl _) (Only.refl _ s) .now (by decide)
@[simp] theorem State.changeDelays_fuses (s : State) (x1) (x2) (x3) (x4) : ((@State.changeDelays s x1 x2 x3 x4)).fuses = s.fuses :=
  State.changeDelays_only s x1 x2 x3 x4 (Within.refl _) (Only.refl _ s) .fuses (by decide)
@[simp] theorem State.changeDelays_flash (s : State) (x1) (x2) (x3) (x4) : ((@State.changeDelays s x1 x2 x3 x4)).flash = s.flash :=
  State.changeDelays_only s x1 x2 x3 x4 (Within.refl _) (Only.refl _ s) .flash (by decide)
@[simp] theorem State.changeDelays_power (s : State) (x1) (x2) (x3) (x4) : ((@State.changeDelays s x1 x2 x3 x4)).power = s.power :=
  State.changeDelays_only s x1 x2 x3 x4 (Within.refl _) (Only.refl _ s) .power (by decide)
@[simp] theorem State.changeDelays_store (s : State) (x1) (x2) (x3) (x4) : ((@State.changeDelays s x1 x2 x3 x4)).store = s.store :=
  State.changeDelays_only s x1 x2 x3 x4 (Within.refl _) (Only.refl _ s) .store (by decide)
@[simp] theorem State.changeDelays_codec (s : State) (x1) (x2) (x3) (x4) : ((@State.changeDelays s x1 x2 x3 x4)).codec = s.codec :=
  State.changeDelays_only s x1 x2 x3 x4 (Within.refl _) (Only.refl _ s) .codec (by decide)
@[simp] theorem State.changeDelays_render (s : State) (x1) (x2) (x3) (x4) : ((@State.changeDelays s x1 x2 x3 x4)).render = s.render :=
  State.changeDelays_only s x1 x2 x3 x4 (Within.refl _) (Only.refl _ s) .render (by decide)
@[simp] theorem State.changeDelays_pos (s : State) (x1) (x2) (x3) (x4) : ((@State.changeDelays s x1 x2 x3 x4)).pos = s.pos :=
  State.changeDelays_only s x1 x2 x3 x4 (Within.refl _) (Only.refl _ s) .pos (by decide)
@[simp] theorem State.changeDelays_heads (s : State) (x1) (x2) (x3) (x4) : ((@State.changeDelays s x1 x2 x3 x4)).heads = s.heads :=
  State.changeDelays_only s x1 x2 x3 x4 (Within.refl _) (Only.refl _ s) .heads (by decide)
@[simp] theorem State.changeDelays_loop (s : State) (x1) (x2) (x3) (x4) : ((@State.changeDelays s x1 x2 x3 x4)).loop = s.loop :=
  State.changeDelays_only s x1 x2 x3 x4 (Within.refl _) (Only.refl _ s) .loop (by decide)
@[simp] theorem State.changeDelays_ring (s : State) (x1) (x2) (x3) (x4) : ((@State.changeDelays s x1 x2 x3 x4)).ring = s.ring :=
  State.changeDelays_only s x1 x2 x3 x4 (Within.refl _) (Only.refl _ s) .ring (by decide)
@[simp] theorem State.changeDelays_axes (s : State) (x1) (x2) (x3) (x4) : ((@State.changeDelays s x1 x2 x3 x4)).axes = s.axes :=
  State.changeDelays_only s x1 x2 x3 x4 (Within.refl _) (Only.refl _ s) .axes (by decide)
@[simp] theorem State.changeDelays_axisCycle (s : State) (x1) (x2) (x3) (x4) : ((@State.changeDelays s x1 x2 x3 x4)).axisCycle = s.axisCycle :=
  State.changeDelays_only s x1 x2 x3 x4 (Within.refl _) (Only.refl _ s) .axisCycle (by decide)
@[simp] theorem State.changeDelays_dmc (s : State) (x1) (x2) (x3) (x4) : ((@State.changeDelays s x1 x2 x3 x4)).dmc = s.dmc :=
  State.changeDelays_only s x1 x2 x3 x4 (Within.refl _) (Only.refl _ s) .dmc (by decide)
@[simp] theorem State.changeDelays_flt (s : State) (x1) (x2) (x3) (x4) : ((@State.changeDelays s x1 x2 x3 x4)).flt = s.flt :=
  State.changeDelays_only s x1 x2 x3 x4 (Within.refl _) (Only.refl _ s) .flt (by decide)
@[simp] theorem State.changeDelays_evt (s : State) (x1) (x2) (x3) (x4) : ((@State.changeDelays s x1 x2 x3 x4)).evt = s.evt :=
  State.changeDelays_only s x1 x2 x3 x4 (Within.refl _) (Only.refl _ s) .evt (by decide)
@[simp] theorem State.changeDelays_cal (s : State) (x1) (x2) (x3) (x4) : ((@State.changeDelays s x1 x2 x3 x4)).cal = s.cal :=
  State.changeDelays_only s x1 x2 x3 x4 (Within.refl _) (Only.refl _ s) .cal (by decide)
@[simp] theorem State.changeDelays_hb (s : State) (x1) (x2) (x3) (x4) : ((@State.changeDelays s x1 x2 x3 x4)).hb = s.hb :=
  State.changeDelays_only s x1 x2 x3 x4 (Within.refl _) (Only.refl _ s) .hb (by decide)
@[simp] theorem State.changeDelays_free (s : State) (x1) (x2) (x3) (x4) : ((@State.changeDelays s x1 x2 x3 x4)).free = s.free :=
  State.changeDelays_only s x1 x2 x3 x4 (Within.refl _) (Only.refl _ s) .free (by decide)
@[simp] theorem State.changeDelays_pending (s : State) (x1) (x2) (x3) (x4) : ((@State.changeDelays s x1 x2 x3 x4)).pending = s.pending :=
  State.changeDelays_only s x1 x2 x3 x4 (Within.refl _) (Only.refl _ s) .pending (by decide)

/-! ### applyPitch -/

@[simp] theorem State.applyPitch_now (s : State) (x1) : ((@State.applyPitch s x1)).now = s.now :=
  State.applyPitch_only s x1 (Within.refl _) (Only.refl _ s) .now (by decide)
@[simp] theorem State.applyPitch_fuses (s : State) (x1) : ((@State.applyPitch s x1)).fuses = s.fuses :=
  State.applyPitch_only s x1 (Within.refl _) (Only.refl _ s) .fuses (by decide)
@[simp] theorem State.applyPitch_flash (s : State) (x1) : ((@State.applyPitch s x1)).flash = s.flash :=
  State.applyPitch_only s x1 (Within.refl _) (Only.refl _ s) .flash (by decide)
@[simp] theorem State.applyPitch_power (s : State) (x1) : ((@State.applyPitch s x1)).power = s.power :=
  State.applyPitch_only s x1 (Within.refl _) (Only.refl _ s) .power (by decide)
@[simp] theorem State.applyPitch_store (s : State) (x1) : ((@State.applyPitch s x1)).store = s.store :=
  State.applyPitch_only s x1 (Within.refl _) (Only.refl _ s) .store (by decide)
@[simp] theorem State.applyPitch_codec (s : State) (x1) : ((@State.applyPitch s x1)).codec = s.codec :=
  State.applyPitch_only s x1 (Within.refl _) (Only.refl _ s) .codec (by decide)
@[simp] theorem State.applyPitch_render (s : State) (x1) : ((@State.applyPitch s x1)).render = s.render :=
  State.applyPitch_only s x1 (Within.refl _) (Only.refl _ s) .render (by decide)
@[simp] theorem State.applyPitch_axes (s : State) (x1) : ((@State.applyPitch s x1)).axes = s.axes :=
  State.applyPitch_only s x1 (Within.refl _) (Only.refl _ s) .axes (by decide)
@[simp] theorem State.applyPitch_axisCycle (s : State) (x1) : ((@State.applyPitch s x1)).axisCycle = s.axisCycle :=
  State.applyPitch_only s x1 (Within.refl _) (Only.refl _ s) .axisCycle (by decide)
@[simp] theorem State.applyPitch_dmc (s : State) (x1) : ((@State.applyPitch s x1)).dmc = s.dmc :=
  State.applyPitch_only s x1 (Within.refl _) (Only.refl _ s) .dmc (by decide)
@[simp] theorem State.applyPitch_flt (s : State) (x1) : ((@State.applyPitch s x1)).flt = s.flt :=
  State.applyPitch_only s x1 (Within.refl _) (Only.refl _ s) .flt (by decide)
@[simp] theorem State.applyPitch_evt (s : State) (x1) : ((@State.applyPitch s x1)).evt = s.evt :=
  State.applyPitch_only s x1 (Within.refl _) (Only.refl _ s) .evt (by decide)
@[simp] theorem State.applyPitch_hb (s : State) (x1) : ((@State.applyPitch s x1)).hb = s.hb :=
  State.applyPitch_only s x1 (Within.refl _) (Only.refl _ s) .hb (by decide)
@[simp] theorem State.applyPitch_free (s : State) (x1) : ((@State.applyPitch s x1)).free = s.free :=
  State.applyPitch_only s x1 (Within.refl _) (Only.refl _ s) .free (by decide)
@[simp] theorem State.applyPitch_pending (s : State) (x1) : ((@State.applyPitch s x1)).pending = s.pending :=
  State.applyPitch_only s x1 (Within.refl _) (Only.refl _ s) .pending (by decide)

/-! ### applyEncoder -/

@[simp] theorem State.applyEncoder_now (s : State) (x1) (x2) : ((@State.applyEncoder s x1 x2)).now = s.now :=
  State.applyEncoder_only s x1 x2 (Within.refl _) (Only.refl _ s) .now (by decide)
@[simp] theorem State.applyEncoder_fuses (s : State) (x1) (x2) : ((@State.applyEncoder s x1 x2)).fuses = s.fuses :=
  State.applyEncoder_only s x1 x2 (Within.refl _) (Only.refl _ s) .fuses (by decide)
@[simp] theorem State.applyEncoder_flash (s : State) (x1) (x2) : ((@State.applyEncoder s x1 x2)).flash = s.flash :=
  State.applyEncoder_only s x1 x2 (Within.refl _) (Only.refl _ s) .flash (by decide)
@[simp] theorem State.applyEncoder_power (s : State) (x1) (x2) : ((@State.applyEncoder s x1 x2)).power = s.power :=
  State.applyEncoder_only s x1 x2 (Within.refl _) (Only.refl _ s) .power (by decide)
@[simp] theorem State.applyEncoder_host (s : State) (x1) (x2) : ((@State.applyEncoder s x1 x2)).host = s.host :=
  State.applyEncoder_only s x1 x2 (Within.refl _) (Only.refl _ s) .host (by decide)
@[simp] theorem State.applyEncoder_journal (s : State) (x1) (x2) : ((@State.applyEncoder s x1 x2)).journal = s.journal :=
  State.applyEncoder_only s x1 x2 (Within.refl _) (Only.refl _ s) .journal (by decide)
@[simp] theorem State.applyEncoder_store (s : State) (x1) (x2) : ((@State.applyEncoder s x1 x2)).store = s.store :=
  State.applyEncoder_only s x1 x2 (Within.refl _) (Only.refl _ s) .store (by decide)
@[simp] theorem State.applyEncoder_codec (s : State) (x1) (x2) : ((@State.applyEncoder s x1 x2)).codec = s.codec :=
  State.applyEncoder_only s x1 x2 (Within.refl _) (Only.refl _ s) .codec (by decide)
@[simp] theorem State.applyEncoder_render (s : State) (x1) (x2) : ((@State.applyEncoder s x1 x2)).render = s.render :=
  State.applyEncoder_only s x1 x2 (Within.refl _) (Only.refl _ s) .render (by decide)
@[simp] theorem State.applyEncoder_lines (s : State) (x1) (x2) : ((@State.applyEncoder s x1 x2)).lines = s.lines :=
  State.applyEncoder_only s x1 x2 (Within.refl _) (Only.refl _ s) .lines (by decide)
@[simp] theorem State.applyEncoder_axisCycle (s : State) (x1) (x2) : ((@State.applyEncoder s x1 x2)).axisCycle = s.axisCycle :=
  State.applyEncoder_only s x1 x2 (Within.refl _) (Only.refl _ s) .axisCycle (by decide)
@[simp] theorem State.applyEncoder_dmc (s : State) (x1) (x2) : ((@State.applyEncoder s x1 x2)).dmc = s.dmc :=
  State.applyEncoder_only s x1 x2 (Within.refl _) (Only.refl _ s) .dmc (by decide)
@[simp] theorem State.applyEncoder_flt (s : State) (x1) (x2) : ((@State.applyEncoder s x1 x2)).flt = s.flt :=
  State.applyEncoder_only s x1 x2 (Within.refl _) (Only.refl _ s) .flt (by decide)
@[simp] theorem State.applyEncoder_evt (s : State) (x1) (x2) : ((@State.applyEncoder s x1 x2)).evt = s.evt :=
  State.applyEncoder_only s x1 x2 (Within.refl _) (Only.refl _ s) .evt (by decide)
@[simp] theorem State.applyEncoder_cal (s : State) (x1) (x2) : ((@State.applyEncoder s x1 x2)).cal = s.cal :=
  State.applyEncoder_only s x1 x2 (Within.refl _) (Only.refl _ s) .cal (by decide)
@[simp] theorem State.applyEncoder_hb (s : State) (x1) (x2) : ((@State.applyEncoder s x1 x2)).hb = s.hb :=
  State.applyEncoder_only s x1 x2 (Within.refl _) (Only.refl _ s) .hb (by decide)
@[simp] theorem State.applyEncoder_out (s : State) (x1) (x2) : ((@State.applyEncoder s x1 x2)).out = s.out :=
  State.applyEncoder_only s x1 x2 (Within.refl _) (Only.refl _ s) .out (by decide)
@[simp] theorem State.applyEncoder_free (s : State) (x1) (x2) : ((@State.applyEncoder s x1 x2)).free = s.free :=
  State.applyEncoder_only s x1 x2 (Within.refl _) (Only.refl _ s) .free (by decide)
@[simp] theorem State.applyEncoder_pending (s : State) (x1) (x2) : ((@State.applyEncoder s x1 x2)).pending = s.pending :=
  State.applyEncoder_only s x1 x2 (Within.refl _) (Only.refl _ s) .pending (by decide)

/-! ### settleJob -/

@[simp] theorem State.settleJob_now (s : State) (x1) : ((@State.settleJob s x1)).now = s.now :=
  State.settleJob_only s x1 (Within.refl _) (Only.refl _ s) .now (by decide)
@[simp] theorem State.settleJob_fuses (s : State) (x1) : ((@State.settleJob s x1)).fuses = s.fuses :=
  State.settleJob_only s x1 (Within.refl _) (Only.refl _ s) .fuses (by decide)
@[simp] theorem State.settleJob_flash (s : State) (x1) : ((@State.settleJob s x1)).flash = s.flash :=
  State.settleJob_only s x1 (Within.refl _) (Only.refl _ s) .flash (by decide)
@[simp] theorem State.settleJob_power (s : State) (x1) : ((@State.settleJob s x1)).power = s.power :=
  State.settleJob_only s x1 (Within.refl _) (Only.refl _ s) .power (by decide)
@[simp] theorem State.settleJob_codec (s : State) (x1) : ((@State.settleJob s x1)).codec = s.codec :=
  State.settleJob_only s x1 (Within.refl _) (Only.refl _ s) .codec (by decide)
@[simp] theorem State.settleJob_render (s : State) (x1) : ((@State.settleJob s x1)).render = s.render :=
  State.settleJob_only s x1 (Within.refl _) (Only.refl _ s) .render (by decide)
@[simp] theorem State.settleJob_lines (s : State) (x1) : ((@State.settleJob s x1)).lines = s.lines :=
  State.settleJob_only s x1 (Within.refl _) (Only.refl _ s) .lines (by decide)
@[simp] theorem State.settleJob_pos (s : State) (x1) : ((@State.settleJob s x1)).pos = s.pos :=
  State.settleJob_only s x1 (Within.refl _) (Only.refl _ s) .pos (by decide)
@[simp] theorem State.settleJob_heads (s : State) (x1) : ((@State.settleJob s x1)).heads = s.heads :=
  State.settleJob_only s x1 (Within.refl _) (Only.refl _ s) .heads (by decide)
@[simp] theorem State.settleJob_loop (s : State) (x1) : ((@State.settleJob s x1)).loop = s.loop :=
  State.settleJob_only s x1 (Within.refl _) (Only.refl _ s) .loop (by decide)
@[simp] theorem State.settleJob_axes (s : State) (x1) : ((@State.settleJob s x1)).axes = s.axes :=
  State.settleJob_only s x1 (Within.refl _) (Only.refl _ s) .axes (by decide)
@[simp] theorem State.settleJob_axisCycle (s : State) (x1) : ((@State.settleJob s x1)).axisCycle = s.axisCycle :=
  State.settleJob_only s x1 (Within.refl _) (Only.refl _ s) .axisCycle (by decide)
@[simp] theorem State.settleJob_dmc (s : State) (x1) : ((@State.settleJob s x1)).dmc = s.dmc :=
  State.settleJob_only s x1 (Within.refl _) (Only.refl _ s) .dmc (by decide)
@[simp] theorem State.settleJob_flt (s : State) (x1) : ((@State.settleJob s x1)).flt = s.flt :=
  State.settleJob_only s x1 (Within.refl _) (Only.refl _ s) .flt (by decide)
@[simp] theorem State.settleJob_evt (s : State) (x1) : ((@State.settleJob s x1)).evt = s.evt :=
  State.settleJob_only s x1 (Within.refl _) (Only.refl _ s) .evt (by decide)
@[simp] theorem State.settleJob_cal (s : State) (x1) : ((@State.settleJob s x1)).cal = s.cal :=
  State.settleJob_only s x1 (Within.refl _) (Only.refl _ s) .cal (by decide)
@[simp] theorem State.settleJob_hb (s : State) (x1) : ((@State.settleJob s x1)).hb = s.hb :=
  State.settleJob_only s x1 (Within.refl _) (Only.refl _ s) .hb (by decide)
@[simp] theorem State.settleJob_free (s : State) (x1) : ((@State.settleJob s x1)).free = s.free :=
  State.settleJob_only s x1 (Within.refl _) (Only.refl _ s) .free (by decide)
@[simp] theorem State.settleJob_pending (s : State) (x1) : ((@State.settleJob s x1)).pending = s.pending :=
  State.settleJob_only s x1 (Within.refl _) (Only.refl _ s) .pending (by decide)

/-! ### releaseAs -/

@[simp] theorem State.releaseAs_now (s : State) (x1) (x2) (x3) : ((@State.releaseAs s x1 x2 x3)).now = s.now :=
  State.releaseAs_only s x1 x2 x3 (Within.refl _) (Only.refl _ s) .now (by decide)
@[simp] theorem State.releaseAs_fuses (s : State) (x1) (x2) (x3) : ((@State.releaseAs s x1 x2 x3)).fuses = s.fuses :=
  State.releaseAs_only s x1 x2 x3 (Within.refl _) (Only.refl _ s) .fuses (by decide)
@[simp] theorem State.releaseAs_flash (s : State) (x1) (x2) (x3) : ((@State.releaseAs s x1 x2 x3)).flash = s.flash :=
  State.releaseAs_only s x1 x2 x3 (Within.refl _) (Only.refl _ s) .flash (by decide)
@[simp] theorem State.releaseAs_power (s : State) (x1) (x2) (x3) : ((@State.releaseAs s x1 x2 x3)).power = s.power :=
  State.releaseAs_only s x1 x2 x3 (Within.refl _) (Only.refl _ s) .power (by decide)
@[simp] theorem State.releaseAs_codec (s : State) (x1) (x2) (x3) : ((@State.releaseAs s x1 x2 x3)).codec = s.codec :=
  State.releaseAs_only s x1 x2 x3 (Within.refl _) (Only.refl _ s) .codec (by decide)
@[simp] theorem State.releaseAs_lines (s : State) (x1) (x2) (x3) : ((@State.releaseAs s x1 x2 x3)).lines = s.lines :=
  State.releaseAs_only s x1 x2 x3 (Within.refl _) (Only.refl _ s) .lines (by decide)
@[simp] theorem State.releaseAs_pos (s : State) (x1) (x2) (x3) : ((@State.releaseAs s x1 x2 x3)).pos = s.pos :=
  State.releaseAs_only s x1 x2 x3 (Within.refl _) (Only.refl _ s) .pos (by decide)
@[simp] theorem State.releaseAs_heads (s : State) (x1) (x2) (x3) : ((@State.releaseAs s x1 x2 x3)).heads = s.heads :=
  State.releaseAs_only s x1 x2 x3 (Within.refl _) (Only.refl _ s) .heads (by decide)
@[simp] theorem State.releaseAs_loop (s : State) (x1) (x2) (x3) : ((@State.releaseAs s x1 x2 x3)).loop = s.loop :=
  State.releaseAs_only s x1 x2 x3 (Within.refl _) (Only.refl _ s) .loop (by decide)
@[simp] theorem State.releaseAs_axes (s : State) (x1) (x2) (x3) : ((@State.releaseAs s x1 x2 x3)).axes = s.axes :=
  State.releaseAs_only s x1 x2 x3 (Within.refl _) (Only.refl _ s) .axes (by decide)
@[simp] theorem State.releaseAs_axisCycle (s : State) (x1) (x2) (x3) : ((@State.releaseAs s x1 x2 x3)).axisCycle = s.axisCycle :=
  State.releaseAs_only s x1 x2 x3 (Within.refl _) (Only.refl _ s) .axisCycle (by decide)
@[simp] theorem State.releaseAs_dmc (s : State) (x1) (x2) (x3) : ((@State.releaseAs s x1 x2 x3)).dmc = s.dmc :=
  State.releaseAs_only s x1 x2 x3 (Within.refl _) (Only.refl _ s) .dmc (by decide)
@[simp] theorem State.releaseAs_flt (s : State) (x1) (x2) (x3) : ((@State.releaseAs s x1 x2 x3)).flt = s.flt :=
  State.releaseAs_only s x1 x2 x3 (Within.refl _) (Only.refl _ s) .flt (by decide)
@[simp] theorem State.releaseAs_evt (s : State) (x1) (x2) (x3) : ((@State.releaseAs s x1 x2 x3)).evt = s.evt :=
  State.releaseAs_only s x1 x2 x3 (Within.refl _) (Only.refl _ s) .evt (by decide)
@[simp] theorem State.releaseAs_cal (s : State) (x1) (x2) (x3) : ((@State.releaseAs s x1 x2 x3)).cal = s.cal :=
  State.releaseAs_only s x1 x2 x3 (Within.refl _) (Only.refl _ s) .cal (by decide)
@[simp] theorem State.releaseAs_hb (s : State) (x1) (x2) (x3) : ((@State.releaseAs s x1 x2 x3)).hb = s.hb :=
  State.releaseAs_only s x1 x2 x3 (Within.refl _) (Only.refl _ s) .hb (by decide)
@[simp] theorem State.releaseAs_free (s : State) (x1) (x2) (x3) : ((@State.releaseAs s x1 x2 x3)).free = s.free :=
  State.releaseAs_only s x1 x2 x3 (Within.refl _) (Only.refl _ s) .free (by decide)
@[simp] theorem State.releaseAs_pending (s : State) (x1) (x2) (x3) : ((@State.releaseAs s x1 x2 x3)).pending = s.pending :=
  State.releaseAs_only s x1 x2 x3 (Within.refl _) (Only.refl _ s) .pending (by decide)

/-! ### release -/

@[simp] theorem State.release_now (s : State) (x1) : ((@State.release s x1)).now = s.now :=
  State.release_only s x1 (Within.refl _) (Only.refl _ s) .now (by decide)
@[simp] theorem State.release_fuses (s : State) (x1) : ((@State.release s x1)).fuses = s.fuses :=
  State.release_only s x1 (Within.refl _) (Only.refl _ s) .fuses (by decide)
@[simp] theorem State.release_flash (s : State) (x1) : ((@State.release s x1)).flash = s.flash :=
  State.release_only s x1 (Within.refl _) (Only.refl _ s) .flash (by decide)
@[simp] theorem State.release_power (s : State) (x1) : ((@State.release s x1)).power = s.power :=
  State.release_only s x1 (Within.refl _) (Only.refl _ s) .power (by decide)
@[simp] theorem State.release_codec (s : State) (x1) : ((@State.release s x1)).codec = s.codec :=
  State.release_only s x1 (Within.refl _) (Only.refl _ s) .codec (by decide)
@[simp] theorem State.release_lines (s : State) (x1) : ((@State.release s x1)).lines = s.lines :=
  State.release_only s x1 (Within.refl _) (Only.refl _ s) .lines (by decide)
@[simp] theorem State.release_pos (s : State) (x1) : ((@State.release s x1)).pos = s.pos :=
  State.release_only s x1 (Within.refl _) (Only.refl _ s) .pos (by decide)
@[simp] theorem State.release_heads (s : State) (x1) : ((@State.release s x1)).heads = s.heads :=
  State.release_only s x1 (Within.refl _) (Only.refl _ s) .heads (by decide)
@[simp] theorem State.release_loop (s : State) (x1) : ((@State.release s x1)).loop = s.loop :=
  State.release_only s x1 (Within.refl _) (Only.refl _ s) .loop (by decide)
@[simp] theorem State.release_axes (s : State) (x1) : ((@State.release s x1)).axes = s.axes :=
  State.release_only s x1 (Within.refl _) (Only.refl _ s) .axes (by decide)
@[simp] theorem State.release_axisCycle (s : State) (x1) : ((@State.release s x1)).axisCycle = s.axisCycle :=
  State.release_only s x1 (Within.refl _) (Only.refl _ s) .axisCycle (by decide)
@[simp] theorem State.release_dmc (s : State) (x1) : ((@State.release s x1)).dmc = s.dmc :=
  State.release_only s x1 (Within.refl _) (Only.refl _ s) .dmc (by decide)
@[simp] theorem State.release_flt (s : State) (x1) : ((@State.release s x1)).flt = s.flt :=
  State.release_only s x1 (Within.refl _) (Only.refl _ s) .flt (by decide)
@[simp] theorem State.release_evt (s : State) (x1) : ((@State.release s x1)).evt = s.evt :=
  State.release_only s x1 (Within.refl _) (Only.refl _ s) .evt (by decide)
@[simp] theorem State.release_cal (s : State) (x1) : ((@State.release s x1)).cal = s.cal :=
  State.release_only s x1 (Within.refl _) (Only.refl _ s) .cal (by decide)
@[simp] theorem State.release_hb (s : State) (x1) : ((@State.release s x1)).hb = s.hb :=
  State.release_only s x1 (Within.refl _) (Only.refl _ s) .hb (by decide)
@[simp] theorem State.release_free (s : State) (x1) : ((@State.release s x1)).free = s.free :=
  State.release_only s x1 (Within.refl _) (Only.refl _ s) .free (by decide)
@[simp] theorem State.release_pending (s : State) (x1) : ((@State.release s x1)).pending = s.pending :=
  State.release_only s x1 (Within.refl _) (Only.refl _ s) .pending (by decide)

/-! ### sendOn -/

@[simp] theorem State.sendOn_now (s : State) (x1) (x2) : ((@State.sendOn s x1 x2)).now = s.now :=
  State.sendOn_only s x1 x2 (Within.refl _) (Only.refl _ s) .now (by decide)
@[simp] theorem State.sendOn_fuses (s : State) (x1) (x2) : ((@State.sendOn s x1 x2)).fuses = s.fuses :=
  State.sendOn_only s x1 x2 (Within.refl _) (Only.refl _ s) .fuses (by decide)
@[simp] theorem State.sendOn_flash (s : State) (x1) (x2) : ((@State.sendOn s x1 x2)).flash = s.flash :=
  State.sendOn_only s x1 x2 (Within.refl _) (Only.refl _ s) .flash (by decide)
@[simp] theorem State.sendOn_power (s : State) (x1) (x2) : ((@State.sendOn s x1 x2)).power = s.power :=
  State.sendOn_only s x1 x2 (Within.refl _) (Only.refl _ s) .power (by decide)
@[simp] theorem State.sendOn_host (s : State) (x1) (x2) : ((@State.sendOn s x1 x2)).host = s.host :=
  State.sendOn_only s x1 x2 (Within.refl _) (Only.refl _ s) .host (by decide)
@[simp] theorem State.sendOn_journal (s : State) (x1) (x2) : ((@State.sendOn s x1 x2)).journal = s.journal :=
  State.sendOn_only s x1 x2 (Within.refl _) (Only.refl _ s) .journal (by decide)
@[simp] theorem State.sendOn_store (s : State) (x1) (x2) : ((@State.sendOn s x1 x2)).store = s.store :=
  State.sendOn_only s x1 x2 (Within.refl _) (Only.refl _ s) .store (by decide)
@[simp] theorem State.sendOn_codec (s : State) (x1) (x2) : ((@State.sendOn s x1 x2)).codec = s.codec :=
  State.sendOn_only s x1 x2 (Within.refl _) (Only.refl _ s) .codec (by decide)
@[simp] theorem State.sendOn_render (s : State) (x1) (x2) : ((@State.sendOn s x1 x2)).render = s.render :=
  State.sendOn_only s x1 x2 (Within.refl _) (Only.refl _ s) .render (by decide)
@[simp] theorem State.sendOn_lines (s : State) (x1) (x2) : ((@State.sendOn s x1 x2)).lines = s.lines :=
  State.sendOn_only s x1 x2 (Within.refl _) (Only.refl _ s) .lines (by decide)
@[simp] theorem State.sendOn_pos (s : State) (x1) (x2) : ((@State.sendOn s x1 x2)).pos = s.pos :=
  State.sendOn_only s x1 x2 (Within.refl _) (Only.refl _ s) .pos (by decide)
@[simp] theorem State.sendOn_heads (s : State) (x1) (x2) : ((@State.sendOn s x1 x2)).heads = s.heads :=
  State.sendOn_only s x1 x2 (Within.refl _) (Only.refl _ s) .heads (by decide)
@[simp] theorem State.sendOn_loop (s : State) (x1) (x2) : ((@State.sendOn s x1 x2)).loop = s.loop :=
  State.sendOn_only s x1 x2 (Within.refl _) (Only.refl _ s) .loop (by decide)
@[simp] theorem State.sendOn_ring (s : State) (x1) (x2) : ((@State.sendOn s x1 x2)).ring = s.ring :=
  State.sendOn_only s x1 x2 (Within.refl _) (Only.refl _ s) .ring (by decide)
@[simp] theorem State.sendOn_axes (s : State) (x1) (x2) : ((@State.sendOn s x1 x2)).axes = s.axes :=
  State.sendOn_only s x1 x2 (Within.refl _) (Only.refl _ s) .axes (by decide)
@[simp] theorem State.sendOn_axisCycle (s : State) (x1) (x2) : ((@State.sendOn s x1 x2)).axisCycle = s.axisCycle :=
  State.sendOn_only s x1 x2 (Within.refl _) (Only.refl _ s) .axisCycle (by decide)
@[simp] theorem State.sendOn_dmc (s : State) (x1) (x2) : ((@State.sendOn s x1 x2)).dmc = s.dmc :=
  State.sendOn_only s x1 x2 (Within.refl _) (Only.refl _ s) .dmc (by decide)
@[simp] theorem State.sendOn_flt (s : State) (x1) (x2) : ((@State.sendOn s x1 x2)).flt = s.flt :=
  State.sendOn_only s x1 x2 (Within.refl _) (Only.refl _ s) .flt (by decide)
@[simp] theorem State.sendOn_evt (s : State) (x1) (x2) : ((@State.sendOn s x1 x2)).evt = s.evt :=
  State.sendOn_only s x1 x2 (Within.refl _) (Only.refl _ s) .evt (by decide)
@[simp] theorem State.sendOn_cal (s : State) (x1) (x2) : ((@State.sendOn s x1 x2)).cal = s.cal :=
  State.sendOn_only s x1 x2 (Within.refl _) (Only.refl _ s) .cal (by decide)
@[simp] theorem State.sendOn_hb (s : State) (x1) (x2) : ((@State.sendOn s x1 x2)).hb = s.hb :=
  State.sendOn_only s x1 x2 (Within.refl _) (Only.refl _ s) .hb (by decide)
@[simp] theorem State.sendOn_free (s : State) (x1) (x2) : ((@State.sendOn s x1 x2)).free = s.free :=
  State.sendOn_only s x1 x2 (Within.refl _) (Only.refl _ s) .free (by decide)
@[simp] theorem State.sendOn_pending (s : State) (x1) (x2) : ((@State.sendOn s x1 x2)).pending = s.pending :=
  State.sendOn_only s x1 x2 (Within.refl _) (Only.refl _ s) .pending (by decide)

/-! ### sendBoth -/

@[simp] theorem State.sendBoth_now (s : State) (x1) : ((@State.sendBoth s x1)).now = s.now :=
  State.sendBoth_only s x1 (Within.refl _) (Only.refl _ s) .now (by decide)
@[simp] theorem State.sendBoth_fuses (s : State) (x1) : ((@State.sendBoth s x1)).fuses = s.fuses :=
  State.sendBoth_only s x1 (Within.refl _) (Only.refl _ s) .fuses (by decide)
@[simp] theorem State.sendBoth_flash (s : State) (x1) : ((@State.sendBoth s x1)).flash = s.flash :=
  State.sendBoth_only s x1 (Within.refl _) (Only.refl _ s) .flash (by decide)
@[simp] theorem State.sendBoth_power (s : State) (x1) : ((@State.sendBoth s x1)).power = s.power :=
  State.sendBoth_only s x1 (Within.refl _) (Only.refl _ s) .power (by decide)
@[simp] theorem State.sendBoth_host (s : State) (x1) : ((@State.sendBoth s x1)).host = s.host :=
  State.sendBoth_only s x1 (Within.refl _) (Only.refl _ s) .host (by decide)
@[simp] theorem State.sendBoth_journal (s : State) (x1) : ((@State.sendBoth s x1)).journal = s.journal :=
  State.sendBoth_only s x1 (Within.refl _) (Only.refl _ s) .journal (by decide)
@[simp] theorem State.sendBoth_store (s : State) (x1) : ((@State.sendBoth s x1)).store = s.store :=
  State.sendBoth_only s x1 (Within.refl _) (Only.refl _ s) .store (by decide)
@[simp] theorem State.sendBoth_codec (s : State) (x1) : ((@State.sendBoth s x1)).codec = s.codec :=
  State.sendBoth_only s x1 (Within.refl _) (Only.refl _ s) .codec (by decide)
@[simp] theorem State.sendBoth_render (s : State) (x1) : ((@State.sendBoth s x1)).render = s.render :=
  State.sendBoth_only s x1 (Within.refl _) (Only.refl _ s) .render (by decide)
@[simp] theorem State.sendBoth_lines (s : State) (x1) : ((@State.sendBoth s x1)).lines = s.lines :=
  State.sendBoth_only s x1 (Within.refl _) (Only.refl _ s) .lines (by decide)
@[simp] theorem State.sendBoth_pos (s : State) (x1) : ((@State.sendBoth s x1)).pos = s.pos :=
  State.sendBoth_only s x1 (Within.refl _) (Only.refl _ s) .pos (by decide)
@[simp] theorem State.sendBoth_heads (s : State) (x1) : ((@State.sendBoth s x1)).heads = s.heads :=
  State.sendBoth_only s x1 (Within.refl _) (Only.refl _ s) .heads (by decide)
@[simp] theorem State.sendBoth_loop (s : State) (x1) : ((@State.sendBoth s x1)).loop = s.loop :=
  State.sendBoth_only s x1 (Within.refl _) (Only.refl _ s) .loop (by decide)
@[simp] theorem State.sendBoth_ring (s : State) (x1) : ((@State.sendBoth s x1)).ring = s.ring :=
  State.sendBoth_only s x1 (Within.refl _) (Only.refl _ s) .ring (by decide)
@[simp] theorem State.sendBoth_axes (s : State) (x1) : ((@State.sendBoth s x1)).axes = s.axes :=
  State.sendBoth_only s x1 (Within.refl _) (Only.refl _ s) .axes (by decide)
@[simp] theorem State.sendBoth_axisCycle (s : State) (x1) : ((@State.sendBoth s x1)).axisCycle = s.axisCycle :=
  State.sendBoth_only s x1 (Within.refl _) (Only.refl _ s) .axisCycle (by decide)
@[simp] theorem State.sendBoth_dmc (s : State) (x1) : ((@State.sendBoth s x1)).dmc = s.dmc :=
  State.sendBoth_only s x1 (Within.refl _) (Only.refl _ s) .dmc (by decide)
@[simp] theorem State.sendBoth_flt (s : State) (x1) : ((@State.sendBoth s x1)).flt = s.flt :=
  State.sendBoth_only s x1 (Within.refl _) (Only.refl _ s) .flt (by decide)
@[simp] theorem State.sendBoth_evt (s : State) (x1) : ((@State.sendBoth s x1)).evt = s.evt :=
  State.sendBoth_only s x1 (Within.refl _) (Only.refl _ s) .evt (by decide)
@[simp] theorem State.sendBoth_cal (s : State) (x1) : ((@State.sendBoth s x1)).cal = s.cal :=
  State.sendBoth_only s x1 (Within.refl _) (Only.refl _ s) .cal (by decide)
@[simp] theorem State.sendBoth_hb (s : State) (x1) : ((@State.sendBoth s x1)).hb = s.hb :=
  State.sendBoth_only s x1 (Within.refl _) (Only.refl _ s) .hb (by decide)
@[simp] theorem State.sendBoth_free (s : State) (x1) : ((@State.sendBoth s x1)).free = s.free :=
  State.sendBoth_only s x1 (Within.refl _) (Only.refl _ s) .free (by decide)
@[simp] theorem State.sendBoth_pending (s : State) (x1) : ((@State.sendBoth s x1)).pending = s.pending :=
  State.sendBoth_only s x1 (Within.refl _) (Only.refl _ s) .pending (by decide)

/-! ### ringSend -/

@[simp] theorem State.ringSend_now (s : State) (x1) (x2) : ((@State.ringSend s x1 x2)).now = s.now :=
  State.ringSend_only s x1 x2 (Within.refl _) (Only.refl _ s) .now (by decide)
@[simp] theorem State.ringSend_fuses (s : State) (x1) (x2) : ((@State.ringSend s x1 x2)).fuses = s.fuses :=
  State.ringSend_only s x1 x2 (Within.refl _) (Only.refl _ s) .fuses (by decide)
@[simp] theorem State.ringSend_flash (s : State) (x1) (x2) : ((@State.ringSend s x1 x2)).flash = s.flash :=
  State.ringSend_only s x1 x2 (Within.refl _) (Only.refl _ s) .flash (by decide)
@[simp] theorem State.ringSend_power (s : State) (x1) (x2) : ((@State.ringSend s x1 x2)).power = s.power :=
  State.ringSend_only s x1 x2 (Within.refl _) (Only.refl _ s) .power (by decide)
@[simp] theorem State.ringSend_host (s : State) (x1) (x2) : ((@State.ringSend s x1 x2)).host = s.host :=
  State.ringSend_only s x1 x2 (Within.refl _) (Only.refl _ s) .host (by decide)
@[simp] theorem State.ringSend_journal (s : State) (x1) (x2) : ((@State.ringSend s x1 x2)).journal = s.journal :=
  State.ringSend_only s x1 x2 (Within.refl _) (Only.refl _ s) .journal (by decide)
@[simp] theorem State.ringSend_store (s : State) (x1) (x2) : ((@State.ringSend s x1 x2)).store = s.store :=
  State.ringSend_only s x1 x2 (Within.refl _) (Only.refl _ s) .store (by decide)
@[simp] theorem State.ringSend_codec (s : State) (x1) (x2) : ((@State.ringSend s x1 x2)).codec = s.codec :=
  State.ringSend_only s x1 x2 (Within.refl _) (Only.refl _ s) .codec (by decide)
@[simp] theorem State.ringSend_render (s : State) (x1) (x2) : ((@State.ringSend s x1 x2)).render = s.render :=
  State.ringSend_only s x1 x2 (Within.refl _) (Only.refl _ s) .render (by decide)
@[simp] theorem State.ringSend_lines (s : State) (x1) (x2) : ((@State.ringSend s x1 x2)).lines = s.lines :=
  State.ringSend_only s x1 x2 (Within.refl _) (Only.refl _ s) .lines (by decide)
@[simp] theorem State.ringSend_pos (s : State) (x1) (x2) : ((@State.ringSend s x1 x2)).pos = s.pos :=
  State.ringSend_only s x1 x2 (Within.refl _) (Only.refl _ s) .pos (by decide)
@[simp] theorem State.ringSend_heads (s : State) (x1) (x2) : ((@State.ringSend s x1 x2)).heads = s.heads :=
  State.ringSend_only s x1 x2 (Within.refl _) (Only.refl _ s) .heads (by decide)
@[simp] theorem State.ringSend_loop (s : State) (x1) (x2) : ((@State.ringSend s x1 x2)).loop = s.loop :=
  State.ringSend_only s x1 x2 (Within.refl _) (Only.refl _ s) .loop (by decide)
@[simp] theorem State.ringSend_axes (s : State) (x1) (x2) : ((@State.ringSend s x1 x2)).axes = s.axes :=
  State.ringSend_only s x1 x2 (Within.refl _) (Only.refl _ s) .axes (by decide)
@[simp] theorem State.ringSend_axisCycle (s : State) (x1) (x2) : ((@State.ringSend s x1 x2)).axisCycle = s.axisCycle :=
  State.ringSend_only s x1 x2 (Within.refl _) (Only.refl _ s) .axisCycle (by decide)
@[simp] theorem State.ringSend_dmc (s : State) (x1) (x2) : ((@State.ringSend s x1 x2)).dmc = s.dmc :=
  State.ringSend_only s x1 x2 (Within.refl _) (Only.refl _ s) .dmc (by decide)
@[simp] theorem State.ringSend_flt (s : State) (x1) (x2) : ((@State.ringSend s x1 x2)).flt = s.flt :=
  State.ringSend_only s x1 x2 (Within.refl _) (Only.refl _ s) .flt (by decide)
@[simp] theorem State.ringSend_evt (s : State) (x1) (x2) : ((@State.ringSend s x1 x2)).evt = s.evt :=
  State.ringSend_only s x1 x2 (Within.refl _) (Only.refl _ s) .evt (by decide)
@[simp] theorem State.ringSend_cal (s : State) (x1) (x2) : ((@State.ringSend s x1 x2)).cal = s.cal :=
  State.ringSend_only s x1 x2 (Within.refl _) (Only.refl _ s) .cal (by decide)
@[simp] theorem State.ringSend_hb (s : State) (x1) (x2) : ((@State.ringSend s x1 x2)).hb = s.hb :=
  State.ringSend_only s x1 x2 (Within.refl _) (Only.refl _ s) .hb (by decide)
@[simp] theorem State.ringSend_free (s : State) (x1) (x2) : ((@State.ringSend s x1 x2)).free = s.free :=
  State.ringSend_only s x1 x2 (Within.refl _) (Only.refl _ s) .free (by decide)
@[simp] theorem State.ringSend_pending (s : State) (x1) (x2) : ((@State.ringSend s x1 x2)).pending = s.pending :=
  State.ringSend_only s x1 x2 (Within.refl _) (Only.refl _ s) .pending (by decide)

/-! ### stopAxes -/

@[simp] theorem State.stopAxes_now (s : State) (x1) (x2) (x3) : ((@State.stopAxes s x1 x2 x3)).now = s.now :=
  State.stopAxes_only s x1 x2 x3 (Within.refl _) (Only.refl _ s) .now (by decide)
@[simp] theorem State.stopAxes_fuses (s : State) (x1) (x2) (x3) : ((@State.stopAxes s x1 x2 x3)).fuses = s.fuses :=
  State.stopAxes_only s x1 x2 x3 (Within.refl _) (Only.refl _ s) .fuses (by decide)
@[simp] theorem State.stopAxes_flash (s : State) (x1) (x2) (x3) : ((@State.stopAxes s x1 x2 x3)).flash = s.flash :=
  State.stopAxes_only s x1 x2 x3 (Within.refl _) (Only.refl _ s) .flash (by decide)
@[simp] theorem State.stopAxes_power (s : State) (x1) (x2) (x3) : ((@State.stopAxes s x1 x2 x3)).power = s.power :=
  State.stopAxes_only s x1 x2 x3 (Within.refl _) (Only.refl _ s) .power (by decide)
@[simp] theorem State.stopAxes_host (s : State) (x1) (x2) (x3) : ((@State.stopAxes s x1 x2 x3)).host = s.host :=
  State.stopAxes_only s x1 x2 x3 (Within.refl _) (Only.refl _ s) .host (by decide)
@[simp] theorem State.stopAxes_journal (s : State) (x1) (x2) (x3) : ((@State.stopAxes s x1 x2 x3)).journal = s.journal :=
  State.stopAxes_only s x1 x2 x3 (Within.refl _) (Only.refl _ s) .journal (by decide)
@[simp] theorem State.stopAxes_store (s : State) (x1) (x2) (x3) : ((@State.stopAxes s x1 x2 x3)).store = s.store :=
  State.stopAxes_only s x1 x2 x3 (Within.refl _) (Only.refl _ s) .store (by decide)
@[simp] theorem State.stopAxes_codec (s : State) (x1) (x2) (x3) : ((@State.stopAxes s x1 x2 x3)).codec = s.codec :=
  State.stopAxes_only s x1 x2 x3 (Within.refl _) (Only.refl _ s) .codec (by decide)
@[simp] theorem State.stopAxes_render (s : State) (x1) (x2) (x3) : ((@State.stopAxes s x1 x2 x3)).render = s.render :=
  State.stopAxes_only s x1 x2 x3 (Within.refl _) (Only.refl _ s) .render (by decide)
@[simp] theorem State.stopAxes_lines (s : State) (x1) (x2) (x3) : ((@State.stopAxes s x1 x2 x3)).lines = s.lines :=
  State.stopAxes_only s x1 x2 x3 (Within.refl _) (Only.refl _ s) .lines (by decide)
@[simp] theorem State.stopAxes_pos (s : State) (x1) (x2) (x3) : ((@State.stopAxes s x1 x2 x3)).pos = s.pos :=
  State.stopAxes_only s x1 x2 x3 (Within.refl _) (Only.refl _ s) .pos (by decide)
@[simp] theorem State.stopAxes_heads (s : State) (x1) (x2) (x3) : ((@State.stopAxes s x1 x2 x3)).heads = s.heads :=
  State.stopAxes_only s x1 x2 x3 (Within.refl _) (Only.refl _ s) .heads (by decide)
@[simp] theorem State.stopAxes_loop (s : State) (x1) (x2) (x3) : ((@State.stopAxes s x1 x2 x3)).loop = s.loop :=
  State.stopAxes_only s x1 x2 x3 (Within.refl _) (Only.refl _ s) .loop (by decide)
@[simp] theorem State.stopAxes_ring (s : State) (x1) (x2) (x3) : ((@State.stopAxes s x1 x2 x3)).ring = s.ring :=
  State.stopAxes_only s x1 x2 x3 (Within.refl _) (Only.refl _ s) .ring (by decide)
@[simp] theorem State.stopAxes_axisCycle (s : State) (x1) (x2) (x3) : ((@State.stopAxes s x1 x2 x3)).axisCycle = s.axisCycle :=
  State.stopAxes_only s x1 x2 x3 (Within.refl _) (Only.refl _ s) .axisCycle (by decide)
@[simp] theorem State.stopAxes_dmc (s : State) (x1) (x2) (x3) : ((@State.stopAxes s x1 x2 x3)).dmc = s.dmc :=
  State.stopAxes_only s x1 x2 x3 (Within.refl _) (Only.refl _ s) .dmc (by decide)
@[simp] theorem State.stopAxes_flt (s : State) (x1) (x2) (x3) : ((@State.stopAxes s x1 x2 x3)).flt = s.flt :=
  State.stopAxes_only s x1 x2 x3 (Within.refl _) (Only.refl _ s) .flt (by decide)
@[simp] theorem State.stopAxes_evt (s : State) (x1) (x2) (x3) : ((@State.stopAxes s x1 x2 x3)).evt = s.evt :=
  State.stopAxes_only s x1 x2 x3 (Within.refl _) (Only.refl _ s) .evt (by decide)
@[simp] theorem State.stopAxes_cal (s : State) (x1) (x2) (x3) : ((@State.stopAxes s x1 x2 x3)).cal = s.cal :=
  State.stopAxes_only s x1 x2 x3 (Within.refl _) (Only.refl _ s) .cal (by decide)
@[simp] theorem State.stopAxes_hb (s : State) (x1) (x2) (x3) : ((@State.stopAxes s x1 x2 x3)).hb = s.hb :=
  State.stopAxes_only s x1 x2 x3 (Within.refl _) (Only.refl _ s) .hb (by decide)
@[simp] theorem State.stopAxes_out (s : State) (x1) (x2) (x3) : ((@State.stopAxes s x1 x2 x3)).out = s.out :=
  State.stopAxes_only s x1 x2 x3 (Within.refl _) (Only.refl _ s) .out (by decide)
@[simp] theorem State.stopAxes_free (s : State) (x1) (x2) (x3) : ((@State.stopAxes s x1 x2 x3)).free = s.free :=
  State.stopAxes_only s x1 x2 x3 (Within.refl _) (Only.refl _ s) .free (by decide)
@[simp] theorem State.stopAxes_pending (s : State) (x1) (x2) (x3) : ((@State.stopAxes s x1 x2 x3)).pending = s.pending :=
  State.stopAxes_only s x1 x2 x3 (Within.refl _) (Only.refl _ s) .pending (by decide)

/-! ### advance -/

@[simp] theorem State.advance_now (s : State) : ((@State.advance s)).now = s.now :=
  State.advance_only s (Within.refl _) (Only.refl _ s) .now (by decide)
@[simp] theorem State.advance_fuses (s : State) : ((@State.advance s)).fuses = s.fuses :=
  State.advance_only s (Within.refl _) (Only.refl _ s) .fuses (by decide)
@[simp] theorem State.advance_flash (s : State) : ((@State.advance s)).flash = s.flash :=
  State.advance_only s (Within.refl _) (Only.refl _ s) .flash (by decide)
@[simp] theorem State.advance_power (s : State) : ((@State.advance s)).power = s.power :=
  State.advance_only s (Within.refl _) (Only.refl _ s) .power (by decide)
@[simp] theorem State.advance_host (s : State) : ((@State.advance s)).host = s.host :=
  State.advance_only s (Within.refl _) (Only.refl _ s) .host (by decide)
@[simp] theorem State.advance_journal (s : State) : ((@State.advance s)).journal = s.journal :=
  State.advance_only s (Within.refl _) (Only.refl _ s) .journal (by decide)
@[simp] theorem State.advance_store (s : State) : ((@State.advance s)).store = s.store :=
  State.advance_only s (Within.refl _) (Only.refl _ s) .store (by decide)
@[simp] theorem State.advance_codec (s : State) : ((@State.advance s)).codec = s.codec :=
  State.advance_only s (Within.refl _) (Only.refl _ s) .codec (by decide)
@[simp] theorem State.advance_render (s : State) : ((@State.advance s)).render = s.render :=
  State.advance_only s (Within.refl _) (Only.refl _ s) .render (by decide)
@[simp] theorem State.advance_lines (s : State) : ((@State.advance s)).lines = s.lines :=
  State.advance_only s (Within.refl _) (Only.refl _ s) .lines (by decide)
@[simp] theorem State.advance_heads (s : State) : ((@State.advance s)).heads = s.heads :=
  State.advance_only s (Within.refl _) (Only.refl _ s) .heads (by decide)
@[simp] theorem State.advance_loop (s : State) : ((@State.advance s)).loop = s.loop :=
  State.advance_only s (Within.refl _) (Only.refl _ s) .loop (by decide)
@[simp] theorem State.advance_ring (s : State) : ((@State.advance s)).ring = s.ring :=
  State.advance_only s (Within.refl _) (Only.refl _ s) .ring (by decide)
@[simp] theorem State.advance_axes (s : State) : ((@State.advance s)).axes = s.axes :=
  State.advance_only s (Within.refl _) (Only.refl _ s) .axes (by decide)
@[simp] theorem State.advance_axisCycle (s : State) : ((@State.advance s)).axisCycle = s.axisCycle :=
  State.advance_only s (Within.refl _) (Only.refl _ s) .axisCycle (by decide)
@[simp] theorem State.advance_dmc (s : State) : ((@State.advance s)).dmc = s.dmc :=
  State.advance_only s (Within.refl _) (Only.refl _ s) .dmc (by decide)
@[simp] theorem State.advance_flt (s : State) : ((@State.advance s)).flt = s.flt :=
  State.advance_only s (Within.refl _) (Only.refl _ s) .flt (by decide)
@[simp] theorem State.advance_evt (s : State) : ((@State.advance s)).evt = s.evt :=
  State.advance_only s (Within.refl _) (Only.refl _ s) .evt (by decide)
@[simp] theorem State.advance_cal (s : State) : ((@State.advance s)).cal = s.cal :=
  State.advance_only s (Within.refl _) (Only.refl _ s) .cal (by decide)
@[simp] theorem State.advance_hb (s : State) : ((@State.advance s)).hb = s.hb :=
  State.advance_only s (Within.refl _) (Only.refl _ s) .hb (by decide)
@[simp] theorem State.advance_out (s : State) : ((@State.advance s)).out = s.out :=
  State.advance_only s (Within.refl _) (Only.refl _ s) .out (by decide)
@[simp] theorem State.advance_free (s : State) : ((@State.advance s)).free = s.free :=
  State.advance_only s (Within.refl _) (Only.refl _ s) .free (by decide)
@[simp] theorem State.advance_pending (s : State) : ((@State.advance s)).pending = s.pending :=
  State.advance_only s (Within.refl _) (Only.refl _ s) .pending (by decide)

/-! ### settleRetire -/

@[simp] theorem State.settleRetire_now (s : State) : ((@State.settleRetire s)).now = s.now :=
  State.settleRetire_only s (Within.refl _) (Only.refl _ s) .now (by decide)
@[simp] theorem State.settleRetire_fuses (s : State) : ((@State.settleRetire s)).fuses = s.fuses :=
  State.settleRetire_only s (Within.refl _) (Only.refl _ s) .fuses (by decide)
@[simp] theorem State.settleRetire_flash (s : State) : ((@State.settleRetire s)).flash = s.flash :=
  State.settleRetire_only s (Within.refl _) (Only.refl _ s) .flash (by decide)
@[simp] theorem State.settleRetire_power (s : State) : ((@State.settleRetire s)).power = s.power :=
  State.settleRetire_only s (Within.refl _) (Only.refl _ s) .power (by decide)
@[simp] theorem State.settleRetire_store (s : State) : ((@State.settleRetire s)).store = s.store :=
  State.settleRetire_only s (Within.refl _) (Only.refl _ s) .store (by decide)
@[simp] theorem State.settleRetire_codec (s : State) : ((@State.settleRetire s)).codec = s.codec :=
  State.settleRetire_only s (Within.refl _) (Only.refl _ s) .codec (by decide)
@[simp] theorem State.settleRetire_render (s : State) : ((@State.settleRetire s)).render = s.render :=
  State.settleRetire_only s (Within.refl _) (Only.refl _ s) .render (by decide)
@[simp] theorem State.settleRetire_lines (s : State) : ((@State.settleRetire s)).lines = s.lines :=
  State.settleRetire_only s (Within.refl _) (Only.refl _ s) .lines (by decide)
@[simp] theorem State.settleRetire_loop (s : State) : ((@State.settleRetire s)).loop = s.loop :=
  State.settleRetire_only s (Within.refl _) (Only.refl _ s) .loop (by decide)
@[simp] theorem State.settleRetire_ring (s : State) : ((@State.settleRetire s)).ring = s.ring :=
  State.settleRetire_only s (Within.refl _) (Only.refl _ s) .ring (by decide)
@[simp] theorem State.settleRetire_axes (s : State) : ((@State.settleRetire s)).axes = s.axes :=
  State.settleRetire_only s (Within.refl _) (Only.refl _ s) .axes (by decide)
@[simp] theorem State.settleRetire_axisCycle (s : State) : ((@State.settleRetire s)).axisCycle = s.axisCycle :=
  State.settleRetire_only s (Within.refl _) (Only.refl _ s) .axisCycle (by decide)
@[simp] theorem State.settleRetire_dmc (s : State) : ((@State.settleRetire s)).dmc = s.dmc :=
  State.settleRetire_only s (Within.refl _) (Only.refl _ s) .dmc (by decide)
@[simp] theorem State.settleRetire_flt (s : State) : ((@State.settleRetire s)).flt = s.flt :=
  State.settleRetire_only s (Within.refl _) (Only.refl _ s) .flt (by decide)
@[simp] theorem State.settleRetire_evt (s : State) : ((@State.settleRetire s)).evt = s.evt :=
  State.settleRetire_only s (Within.refl _) (Only.refl _ s) .evt (by decide)
@[simp] theorem State.settleRetire_cal (s : State) : ((@State.settleRetire s)).cal = s.cal :=
  State.settleRetire_only s (Within.refl _) (Only.refl _ s) .cal (by decide)
@[simp] theorem State.settleRetire_hb (s : State) : ((@State.settleRetire s)).hb = s.hb :=
  State.settleRetire_only s (Within.refl _) (Only.refl _ s) .hb (by decide)
@[simp] theorem State.settleRetire_free (s : State) : ((@State.settleRetire s)).free = s.free :=
  State.settleRetire_only s (Within.refl _) (Only.refl _ s) .free (by decide)
@[simp] theorem State.settleRetire_pending (s : State) : ((@State.settleRetire s)).pending = s.pending :=
  State.settleRetire_only s (Within.refl _) (Only.refl _ s) .pending (by decide)

/-! ### headDirty -/

@[simp] theorem State.headDirty_now (s : State) (x1) (x2) : ((@State.headDirty s x1 x2)).now = s.now :=
  State.headDirty_only s x1 x2 (Within.refl _) (Only.refl _ s) .now (by decide)
@[simp] theorem State.headDirty_fuses (s : State) (x1) (x2) : ((@State.headDirty s x1 x2)).fuses = s.fuses :=
  State.headDirty_only s x1 x2 (Within.refl _) (Only.refl _ s) .fuses (by decide)
@[simp] theorem State.headDirty_power (s : State) (x1) (x2) : ((@State.headDirty s x1 x2)).power = s.power :=
  State.headDirty_only s x1 x2 (Within.refl _) (Only.refl _ s) .power (by decide)
@[simp] theorem State.headDirty_host (s : State) (x1) (x2) : ((@State.headDirty s x1 x2)).host = s.host :=
  State.headDirty_only s x1 x2 (Within.refl _) (Only.refl _ s) .host (by decide)
@[simp] theorem State.headDirty_journal (s : State) (x1) (x2) : ((@State.headDirty s x1 x2)).journal = s.journal :=
  State.headDirty_only s x1 x2 (Within.refl _) (Only.refl _ s) .journal (by decide)
@[simp] theorem State.headDirty_store (s : State) (x1) (x2) : ((@State.headDirty s x1 x2)).store = s.store :=
  State.headDirty_only s x1 x2 (Within.refl _) (Only.refl _ s) .store (by decide)
@[simp] theorem State.headDirty_codec (s : State) (x1) (x2) : ((@State.headDirty s x1 x2)).codec = s.codec :=
  State.headDirty_only s x1 x2 (Within.refl _) (Only.refl _ s) .codec (by decide)
@[simp] theorem State.headDirty_render (s : State) (x1) (x2) : ((@State.headDirty s x1 x2)).render = s.render :=
  State.headDirty_only s x1 x2 (Within.refl _) (Only.refl _ s) .render (by decide)
@[simp] theorem State.headDirty_lines (s : State) (x1) (x2) : ((@State.headDirty s x1 x2)).lines = s.lines :=
  State.headDirty_only s x1 x2 (Within.refl _) (Only.refl _ s) .lines (by decide)
@[simp] theorem State.headDirty_pos (s : State) (x1) (x2) : ((@State.headDirty s x1 x2)).pos = s.pos :=
  State.headDirty_only s x1 x2 (Within.refl _) (Only.refl _ s) .pos (by decide)
@[simp] theorem State.headDirty_heads (s : State) (x1) (x2) : ((@State.headDirty s x1 x2)).heads = s.heads :=
  State.headDirty_only s x1 x2 (Within.refl _) (Only.refl _ s) .heads (by decide)
@[simp] theorem State.headDirty_loop (s : State) (x1) (x2) : ((@State.headDirty s x1 x2)).loop = s.loop :=
  State.headDirty_only s x1 x2 (Within.refl _) (Only.refl _ s) .loop (by decide)
@[simp] theorem State.headDirty_ring (s : State) (x1) (x2) : ((@State.headDirty s x1 x2)).ring = s.ring :=
  State.headDirty_only s x1 x2 (Within.refl _) (Only.refl _ s) .ring (by decide)
@[simp] theorem State.headDirty_axes (s : State) (x1) (x2) : ((@State.headDirty s x1 x2)).axes = s.axes :=
  State.headDirty_only s x1 x2 (Within.refl _) (Only.refl _ s) .axes (by decide)
@[simp] theorem State.headDirty_axisCycle (s : State) (x1) (x2) : ((@State.headDirty s x1 x2)).axisCycle = s.axisCycle :=
  State.headDirty_only s x1 x2 (Within.refl _) (Only.refl _ s) .axisCycle (by decide)
@[simp] theorem State.headDirty_dmc (s : State) (x1) (x2) : ((@State.headDirty s x1 x2)).dmc = s.dmc :=
  State.headDirty_only s x1 x2 (Within.refl _) (Only.refl _ s) .dmc (by decide)
@[simp] theorem State.headDirty_flt (s : State) (x1) (x2) : ((@State.headDirty s x1 x2)).flt = s.flt :=
  State.headDirty_only s x1 x2 (Within.refl _) (Only.refl _ s) .flt (by decide)
@[simp] theorem State.headDirty_evt (s : State) (x1) (x2) : ((@State.headDirty s x1 x2)).evt = s.evt :=
  State.headDirty_only s x1 x2 (Within.refl _) (Only.refl _ s) .evt (by decide)
@[simp] theorem State.headDirty_cal (s : State) (x1) (x2) : ((@State.headDirty s x1 x2)).cal = s.cal :=
  State.headDirty_only s x1 x2 (Within.refl _) (Only.refl _ s) .cal (by decide)
@[simp] theorem State.headDirty_hb (s : State) (x1) (x2) : ((@State.headDirty s x1 x2)).hb = s.hb :=
  State.headDirty_only s x1 x2 (Within.refl _) (Only.refl _ s) .hb (by decide)
@[simp] theorem State.headDirty_out (s : State) (x1) (x2) : ((@State.headDirty s x1 x2)).out = s.out :=
  State.headDirty_only s x1 x2 (Within.refl _) (Only.refl _ s) .out (by decide)
@[simp] theorem State.headDirty_free (s : State) (x1) (x2) : ((@State.headDirty s x1 x2)).free = s.free :=
  State.headDirty_only s x1 x2 (Within.refl _) (Only.refl _ s) .free (by decide)
@[simp] theorem State.headDirty_pending (s : State) (x1) (x2) : ((@State.headDirty s x1 x2)).pending = s.pending :=
  State.headDirty_only s x1 x2 (Within.refl _) (Only.refl _ s) .pending (by decide)

/-! ### publish -/

@[simp] theorem State.publish_now (s : State) (x1) (x2) : ((@State.publish s x1 x2)).now = s.now :=
  State.publish_only s x1 x2 (Within.refl _) (Only.refl _ s) .now (by decide)
@[simp] theorem State.publish_fuses (s : State) (x1) (x2) : ((@State.publish s x1 x2)).fuses = s.fuses :=
  State.publish_only s x1 x2 (Within.refl _) (Only.refl _ s) .fuses (by decide)
@[simp] theorem State.publish_flash (s : State) (x1) (x2) : ((@State.publish s x1 x2)).flash = s.flash :=
  State.publish_only s x1 x2 (Within.refl _) (Only.refl _ s) .flash (by decide)
@[simp] theorem State.publish_power (s : State) (x1) (x2) : ((@State.publish s x1 x2)).power = s.power :=
  State.publish_only s x1 x2 (Within.refl _) (Only.refl _ s) .power (by decide)
@[simp] theorem State.publish_store (s : State) (x1) (x2) : ((@State.publish s x1 x2)).store = s.store :=
  State.publish_only s x1 x2 (Within.refl _) (Only.refl _ s) .store (by decide)
@[simp] theorem State.publish_codec (s : State) (x1) (x2) : ((@State.publish s x1 x2)).codec = s.codec :=
  State.publish_only s x1 x2 (Within.refl _) (Only.refl _ s) .codec (by decide)
@[simp] theorem State.publish_render (s : State) (x1) (x2) : ((@State.publish s x1 x2)).render = s.render :=
  State.publish_only s x1 x2 (Within.refl _) (Only.refl _ s) .render (by decide)
@[simp] theorem State.publish_lines (s : State) (x1) (x2) : ((@State.publish s x1 x2)).lines = s.lines :=
  State.publish_only s x1 x2 (Within.refl _) (Only.refl _ s) .lines (by decide)
@[simp] theorem State.publish_pos (s : State) (x1) (x2) : ((@State.publish s x1 x2)).pos = s.pos :=
  State.publish_only s x1 x2 (Within.refl _) (Only.refl _ s) .pos (by decide)
@[simp] theorem State.publish_loop (s : State) (x1) (x2) : ((@State.publish s x1 x2)).loop = s.loop :=
  State.publish_only s x1 x2 (Within.refl _) (Only.refl _ s) .loop (by decide)
@[simp] theorem State.publish_axes (s : State) (x1) (x2) : ((@State.publish s x1 x2)).axes = s.axes :=
  State.publish_only s x1 x2 (Within.refl _) (Only.refl _ s) .axes (by decide)
@[simp] theorem State.publish_axisCycle (s : State) (x1) (x2) : ((@State.publish s x1 x2)).axisCycle = s.axisCycle :=
  State.publish_only s x1 x2 (Within.refl _) (Only.refl _ s) .axisCycle (by decide)
@[simp] theorem State.publish_dmc (s : State) (x1) (x2) : ((@State.publish s x1 x2)).dmc = s.dmc :=
  State.publish_only s x1 x2 (Within.refl _) (Only.refl _ s) .dmc (by decide)
@[simp] theorem State.publish_flt (s : State) (x1) (x2) : ((@State.publish s x1 x2)).flt = s.flt :=
  State.publish_only s x1 x2 (Within.refl _) (Only.refl _ s) .flt (by decide)
@[simp] theorem State.publish_evt (s : State) (x1) (x2) : ((@State.publish s x1 x2)).evt = s.evt :=
  State.publish_only s x1 x2 (Within.refl _) (Only.refl _ s) .evt (by decide)
@[simp] theorem State.publish_cal (s : State) (x1) (x2) : ((@State.publish s x1 x2)).cal = s.cal :=
  State.publish_only s x1 x2 (Within.refl _) (Only.refl _ s) .cal (by decide)
@[simp] theorem State.publish_hb (s : State) (x1) (x2) : ((@State.publish s x1 x2)).hb = s.hb :=
  State.publish_only s x1 x2 (Within.refl _) (Only.refl _ s) .hb (by decide)
@[simp] theorem State.publish_free (s : State) (x1) (x2) : ((@State.publish s x1 x2)).free = s.free :=
  State.publish_only s x1 x2 (Within.refl _) (Only.refl _ s) .free (by decide)
@[simp] theorem State.publish_pending (s : State) (x1) (x2) : ((@State.publish s x1 x2)).pending = s.pending :=
  State.publish_only s x1 x2 (Within.refl _) (Only.refl _ s) .pending (by decide)

/-! ### hbErr -/

@[simp] theorem State.hbErr_now (s : State) (x1) : ((@State.hbErr s x1)).now = s.now :=
  State.hbErr_only s x1 (Within.refl _) (Only.refl _ s) .now (by decide)
@[simp] theorem State.hbErr_fuses (s : State) (x1) : ((@State.hbErr s x1)).fuses = s.fuses :=
  State.hbErr_only s x1 (Within.refl _) (Only.refl _ s) .fuses (by decide)
@[simp] theorem State.hbErr_flash (s : State) (x1) : ((@State.hbErr s x1)).flash = s.flash :=
  State.hbErr_only s x1 (Within.refl _) (Only.refl _ s) .flash (by decide)
@[simp] theorem State.hbErr_power (s : State) (x1) : ((@State.hbErr s x1)).power = s.power :=
  State.hbErr_only s x1 (Within.refl _) (Only.refl _ s) .power (by decide)
@[simp] theorem State.hbErr_host (s : State) (x1) : ((@State.hbErr s x1)).host = s.host :=
  State.hbErr_only s x1 (Within.refl _) (Only.refl _ s) .host (by decide)
@[simp] theorem State.hbErr_journal (s : State) (x1) : ((@State.hbErr s x1)).journal = s.journal :=
  State.hbErr_only s x1 (Within.refl _) (Only.refl _ s) .journal (by decide)
@[simp] theorem State.hbErr_store (s : State) (x1) : ((@State.hbErr s x1)).store = s.store :=
  State.hbErr_only s x1 (Within.refl _) (Only.refl _ s) .store (by decide)
@[simp] theorem State.hbErr_codec (s : State) (x1) : ((@State.hbErr s x1)).codec = s.codec :=
  State.hbErr_only s x1 (Within.refl _) (Only.refl _ s) .codec (by decide)
@[simp] theorem State.hbErr_render (s : State) (x1) : ((@State.hbErr s x1)).render = s.render :=
  State.hbErr_only s x1 (Within.refl _) (Only.refl _ s) .render (by decide)
@[simp] theorem State.hbErr_lines (s : State) (x1) : ((@State.hbErr s x1)).lines = s.lines :=
  State.hbErr_only s x1 (Within.refl _) (Only.refl _ s) .lines (by decide)
@[simp] theorem State.hbErr_pos (s : State) (x1) : ((@State.hbErr s x1)).pos = s.pos :=
  State.hbErr_only s x1 (Within.refl _) (Only.refl _ s) .pos (by decide)
@[simp] theorem State.hbErr_heads (s : State) (x1) : ((@State.hbErr s x1)).heads = s.heads :=
  State.hbErr_only s x1 (Within.refl _) (Only.refl _ s) .heads (by decide)
@[simp] theorem State.hbErr_loop (s : State) (x1) : ((@State.hbErr s x1)).loop = s.loop :=
  State.hbErr_only s x1 (Within.refl _) (Only.refl _ s) .loop (by decide)
@[simp] theorem State.hbErr_ring (s : State) (x1) : ((@State.hbErr s x1)).ring = s.ring :=
  State.hbErr_only s x1 (Within.refl _) (Only.refl _ s) .ring (by decide)
@[simp] theorem State.hbErr_axes (s : State) (x1) : ((@State.hbErr s x1)).axes = s.axes :=
  State.hbErr_only s x1 (Within.refl _) (Only.refl _ s) .axes (by decide)
@[simp] theorem State.hbErr_axisCycle (s : State) (x1) : ((@State.hbErr s x1)).axisCycle = s.axisCycle :=
  State.hbErr_only s x1 (Within.refl _) (Only.refl _ s) .axisCycle (by decide)
@[simp] theorem State.hbErr_dmc (s : State) (x1) : ((@State.hbErr s x1)).dmc = s.dmc :=
  State.hbErr_only s x1 (Within.refl _) (Only.refl _ s) .dmc (by decide)
@[simp] theorem State.hbErr_flt (s : State) (x1) : ((@State.hbErr s x1)).flt = s.flt :=
  State.hbErr_only s x1 (Within.refl _) (Only.refl _ s) .flt (by decide)
@[simp] theorem State.hbErr_evt (s : State) (x1) : ((@State.hbErr s x1)).evt = s.evt :=
  State.hbErr_only s x1 (Within.refl _) (Only.refl _ s) .evt (by decide)
@[simp] theorem State.hbErr_cal (s : State) (x1) : ((@State.hbErr s x1)).cal = s.cal :=
  State.hbErr_only s x1 (Within.refl _) (Only.refl _ s) .cal (by decide)
@[simp] theorem State.hbErr_free (s : State) (x1) : ((@State.hbErr s x1)).free = s.free :=
  State.hbErr_only s x1 (Within.refl _) (Only.refl _ s) .free (by decide)
@[simp] theorem State.hbErr_pending (s : State) (x1) : ((@State.hbErr s x1)).pending = s.pending :=
  State.hbErr_only s x1 (Within.refl _) (Only.refl _ s) .pending (by decide)

end Sys2Proof.Machine
end

