-- ==== Sys2Proof/Laws/Ops.lean ====
section
/-!
SUPPORT. Laws/Ops.lean: what single shared operations do, said once.
-/

namespace Sys2Proof.Machine

open Sys2Proof.Safety

/-- A fold whose every step leaves the state as it is. -/
theorem foldl_same {α : Type} {g : State → α → State} {s : State} : ∀ {l : List α}, (∀ x ∈ l, g s x = s) → l.foldl g s = s
  | [], _ => rfl
  | x :: t, h => by
    rw [List.foldl_cons, h x List.mem_cons_self]
    exact foldl_same fun y hy => h y (List.mem_cons_of_mem _ hy)

/-- Where no port waits for its settings, none is retried. -/
theorem State.retryWaiting_none {s : State} (h : (List.range 32).all (fun n => (s.port n).state != .waiting) = true) : s.retryWaiting = s := by
  unfold State.retryWaiting
  refine foldl_same fun n hn => ?_
  have hp := List.all_eq_true.1 h n hn
  have hw : (s.port n).state ≠ PortState.waiting := by simpa using hp
  simp [hw]

end Sys2Proof.Machine
end

