-- ==== Sys2Proof/Laws/Stored.lean ====
section
/-!
SUPPORT. Laws/Stored.lean: a copy in the configuration flash that is written as its layout has it is valid, and reads back as the item that was
written (R425).
-/

namespace Sys2Proof.Machine

variable {α : Type}

/-- A copy as written is valid, where the bytes that its check covers do not hold the check itself. -/
theorem valid_sealAs (body : Stored α → List Byte) (m v l : Nat) (x : α) (h : ∀ (c : Stored α) k, body { c with check := k } = body c) :
    (sealAs body m v l x).valid body m v l = true := by
  simp only [Stored.valid, sealAs, beq_self_eq_true, Bool.and_true, beq_iff_eq]
  exact congrArg crc32c (h { item := x, magic := m, version := v, length := l, check := 0 } _).symm

/-- A copy as written reads back. -/
theorem readCopy_sealAs (body : Stored α → List Byte) (m v l : Nat) (x : α) (h : ∀ (c : Stored α) k, body { c with check := k } = body c) :
    readCopy body m v l (some (sealAs body m v l x)) = some x := by
  simp only [readCopy, Option.filter, valid_sealAs body m v l x h, if_true, Option.map_some]
  rfl

@[simp] theorem readBoot_sealBoot (r : BootRecord) : readBoot (some (sealBoot r)) = some r := readCopy_sealAs _ _ _ _ _ fun _ _ => rfl

@[simp] theorem readCal_sealCal (c : CalSet) : readCal (some (sealCal c)) = some c := readCopy_sealAs _ _ _ _ _ fun _ _ => rfl

@[simp] theorem readHead_sealHead (e : HeadEntry) : readHead (some (sealHead e)) = some e := readCopy_sealAs _ _ _ _ _ fun _ _ => rfl

end Sys2Proof.Machine
end

