-- ==== Sys2Proof/Tests/Slice0Base.lean ====
section
/-!
SUPPORT. Tests/Slice0Base.lean: the small states that the tests start from.
-/

namespace Sys2Proof.Tests.Slice0

open Sys2Proof.Machine Sys2Proof.Safety

/-- A device that runs: firmware serves commands, the host link is up and may send. -/
def running : State :=
  let s : State := State.reset
  { s with
    now := 1000000
    power := { s.power with phase := .running }
    host := { s.host with linkUp := true, busMaster := true, perstLow := false, d3hot := false, ready := true } }

/-- An accepted command of an opcode with its parameters. -/
def entry (op : Nat) (params : List Byte) : JEntry :=
  { seq := 1, tag := 7, opcode := op, flags := 0, queue := 0, state := .accepted, status := 0, detail := 0, acceptTime := 0, stateTime := 0
    timesValid := false, r0 := 0, r1 := 0, r2 := 0, r3 := 0, params := params, waitsSince := none, readableUntil := none }

/-- A state whose journal holds one accepted command. -/
def withCmd (s : State) (op : Nat) (params : List Byte) : State := { s with journal := { s.journal with entries := [entry op params] } }

/-- An accepted command beside what a state holds. -/
def alone (s : State) (e : JEntry) : State := { s with journal := { s.journal with entries := [e] } }

/-- A page of job 9 in a state, placed at line 4,096. -/
def page (st : PageState) : Page :=
  { seq := 2, job := 9, pageId := 5, rows := 64, placement := .atLine 4096, state := st, streamBytes := 70000, blocks := 2, first := some 4096
    late := false }

/-- Job 9. -/
def job : Job := { id := 9, verify := false, reprint := 1, horizon := 128, gap := 0, group := 0 }

/-- A state with job 9 and one page of it. -/
def withPage (s : State) (p : Page) : State := { s with store := { s.store with jobs := [some job], pages := [p], totalBlocks := 8 } }

/-- The header of a PSF frame of one row of 4,096 contone columns (R45). -/
def psfHeader : List Byte := [0x50, 0x59, 0x53, 0x46, 2, 1, 0xFF, 0x0F, 0x00, 0x10, 0, 0, 8, 0, 0, 0]

/-- A contone input format of 4,096 columns. -/
def formatted (s : State) : State := { s with render := { s.render with format := some { kind := 0, wIn := 4096, c0 := 0, upscale := 0, depth := 2 } } }

/-- The print path armed. -/
def armed (s : State) : State := { s with pos := { s.pos with armed := true } }

/-- A bar with one head. -/
def oneHead (s : State) : State := { s with lines := { s.lines with geometry := { set := true, heads := [{ present := true, col0 := 0 }] } } }

/-- A halyard port E in a given condition. -/
def withEast (s : State) (h : Halyard) : State := { s with ring := { s.ring with east := h } }

/-- HB-8 mode with its window open. -/
def hb8 : State :=
  let s : State := running
  { s with power := { s.power with mode := .hb8 }, hb := { s.hb with openBar := true } }

/-- A reaction window open over pennant 3. -/
def shadowing : State := running.openWindow (.pennant 3) 0x0502

end Sys2Proof.Tests.Slice0
end

