-- ==== Sys2Proof/Tests/Slice0.lean ====
section
/-!
SUPPORT. Tests/Slice0.lean: for every statement, states and operands that meet its hypotheses, at the edges of their ranges; the commands that
well-formedness refuses; and single steps with the results that the manual gives.
-/

set_option maxRecDepth 8000

namespace Sys2Proof.Tests.Slice0

open Sys2Proof.Machine Sys2Proof.Safety

/-! ## Host interface -/

/-- A command that waits for Bus Master Enable from 0.5 ms on, with the bit at 0. -/
def waitingDma : State :=
  let s := alone running { entry 0x0A01 [] with waitsSince := some 500000 }
  { s with host := { s.host with busMaster := false } }

theorem witness_BusMasterAndD3hot : (running.hostReaches = true ∧ running.host.busMaster = true ∧ running.host.d3hot = false ∧
      (12 : Nat) < 13 ∧ (Tbl.get {} [({ masked := false } : MsixEntry)] 0).masked = false) ∧
    ((waitingDma.entry? 1).isSome = true ∧ JState.final .accepted = false ∧ waitingDma.host.busMaster = false ∧ 500000 + 100000000 ≤ max waitingDma.now 100500000 ∧
      waitingDma.journal.fences.all (fun f => f.seq != 1) = true ∧ waitingDma.store.pages.all (fun p => !(p.seq == 1 && p.legacy)) = true) ∧
    max waitingDma.now 100499999 < 500000 + 100000000 := by decide

theorem witness_CommandQueueRegisters : running.hostReaches = true ∧ (running.cq 7).enabled = false := by decide

/-- CQ0 and CQ3 with an entry each; and the same with CQ3 alone and acceptance stopped. -/
def doorbells : State := { running with host := { running.host with cq := [{ enabled := true, tail := 1 }, {}, {}, { enabled := true, tail := 15, head := 15, size := 16 }] } }
def queue3 : State := { running with host := { running.host with cq := [{}, {}, {}, { enabled := true, tail := 0, head := 15 }], jnlWait := true } }

theorem witness_CommandAcceptance : ((doorbells.tick 0).servesQueues = true ∧ doorbells.canSend = true ∧ doorbells.nextQueue = some 0 ∧ (doorbells.cq 0).waits = true) ∧
    ((queue3.tick 0).servesQueues = true ∧ queue3.canSend = true ∧ queue3.nextQueue = some 3 ∧ (queue3.tick 0).carryFull = false ∧
      queue3.entry? (queue3.seqOf queue3.journal.next) = none ∧ queue3.journal.fences.all (fun f => f.seq != queue3.seqOf queue3.journal.next) = true) ∧
    queue3.shotAt 0x03 0 = false ∧ queue3.host.jnlWait = true ∧ doorbells.host.jnlWait = false := by decide

/-- A carry area of 393,216 unfinished entries, or more, is full. -/
theorem witness_CommandAcceptance_full (n : Nat) (h : 393216 ≤ n) : ({ running with journal := { running.journal with
    next := 100000, entries := List.replicate n { entry 0x0201 [] with seq := 0 } } } : State).carryFull = true := by
  unfold State.carryFull State.carry
  rw [List.filter_eq_self.2 (fun a ha => by rw [List.eq_of_mem_replicate ha]; simp [State.inRing, State.seqOf, running, entry, JState.final, State.reset]), List.length_replicate]
  exact decide_eq_true h

/-- CC2 enabled with two completions held behind a full ring, one coalesced since 0.9 ms. -/
def ccFull : State := { running with host := { running.host with cc := [{}, {}, { enabled := true, size := 16, tail := 15, head := 0, coalTime := 100, oldest := some 900000, held := [{ tag := 3, seq := 4, queue := 0, status := 0, detail := 0, noInterrupt := false, source := 0 }] }] } }

/-- The bar's limit routed to CC0. -/
def routed : State := { running with heads := { running.heads with governor := { running.heads.governor with
  barRoute := some { cc := 0, tag := 5, seq := 1 }, published := some (100000, 2) } } }

theorem witness_CompletionQueues : (running.hostReaches = true ∧ (Tbl.get {} running.host.cc 7).enabled = false ∧ running.heads.governor.barRoute = none ∧ running.ring.pressRoute = none) ∧
    (routed.hostReaches = true ∧ routed.canSend = true ∧ (Tbl.get {} routed.host.cc 0).enabled = false ∧ 2 ≤ (Tbl.get {} routed.host.cc 0).size.toNat) ∧
    (ccFull.hostReaches = true ∧ ccFull.canSend = true ∧ (Tbl.get {} ccFull.host.cc 2).enabled = true ∧ (Tbl.get {} ccFull.host.cc 2).held.length = 1 ∧
      (Tbl.get {} ccFull.host.cc 2).full = true ∧ ({ (Tbl.get {} ccFull.host.cc 2 : CompQueue) with head := 1 }).full = false) ∧
    ((Tbl.get {} ccFull.host.cc 2).coalTime ≠ 0 ∧ 900000 + (Tbl.get {} ccFull.host.cc 2).coalTime.toNat * 1000 ≤ max ccFull.now 1000000) ∧
    max { ccFull with now := 999999 }.now 0 < 900000 + (Tbl.get {} ccFull.host.cc 2).coalTime.toNat * 1000 := by decide

theorem witness_DebugUnlock : running.hostReaches = true ∧ running.host.dbgState ≠ 3 ∧ { running with host := { running.host with dbgState := 3 } }.host.dbgState = 3 ∧
    ({ running with host := { running.host with dbgState := 1, dbgTries := 2 } }.host.dbgState = 1 ∧
      { running with host := { running.host with dbgState := 1 } }.host.dbgAt + 600000000000 ≤ max running.now 600000000000) := by decide

theorem witness_RegisterAccess : running.hostReaches = true ∧ hb8.hbOpen = true ∧ (12 < 13 ∧ running.canSend = true ∧
      { running with host := { running.host with pending := 0x1000 } }.host.pending.getLsbD 12 = true) ∧
    wideRegister 0x90008 = true ∧ running.host.bar2Open = false ∧ { running with host := { running.host with bar2Open := true } }.host.bar2Open = true := by decide

/-! ## Host commands, device commands -/

/-- A list reference at address 0 with one element, and a list of one buffer of a length. -/
def listRef : List Byte := [0, 0, 0, 0, 0, 0, 0, 0, 1, 0, 0, 0]
def buffer (n : Nat) : HostList := { elems := [⟨n, true, false⟩], data := [] }

/-- A state in the fault state, in HB-8 mode, and after SHUTDOWN_PREPARE, with a command. -/
def faulted (e : JEntry) : State := alone { running with flt := { running.flt with faultState := true } } e
def legacyMode (e : JEntry) : State := alone hb8 e
def shutDown (e : JEntry) : State :=
  let s := alone running e
  { s with journal := { s.journal with shutDown := true } }

theorem witness_HostCommandsRefused : (running.startable 1 0x0101 = none ∧ hostCommand (.identify 1 (buffer 64) 0) = some (1, 0x0101, 0)) ∧
    ((faulted (entry 0x0201 [])).startable 1 0x0201 = some (entry 0x0201 []) ∧ (faulted (entry 0x0201 [])).canSend = true ∧ hostCommand (.jobOpen 1 0) = some (1, 0x0201, 0)) ∧
    ((legacyMode (entry 0x0A01 [])).startable 1 0x0A01 = some (entry 0x0A01 []) ∧ (legacyMode (entry 0x0A01 [])).canSend = true ∧ (legacyMode (entry 0x0A01 [])).power.mode = .hb8) ∧
    ((shutDown (entry 0x0104 [1])).startable 1 0x0104 = some (entry 0x0104 [1]) ∧ (entry 0x0104 [1]).p8 0 ≠ 0 ∧ hostCommand (.resetUnit 1 0) = some (1, 0x0104, 0)) := by decide

theorem witness_IdentifyAndStatus :
    (Runs (alone running (entry 0x0101 listRef)) 0 1 0x0101 true (entry 0x0101 listRef) ∧ Checked (fun _ e => ({ params := listRefOk e 0 ++ listOk 0 (buffer 64) (fun n => decide (64 ≤ n)) } : Checks))
      (alone running (entry 0x0101 listRef)) 0 (entry 0x0101 listRef)) ∧
    Runs (alone running (entry 0x0102 (listRef ++ [0x1F]))) 0 1 0x0102 true (entry 0x0102 (listRef ++ [0x1F])) ∧
    ((((alone running (entry 0x0102 (listRef ++ [0x1F]))).tick 0).start 1 true).statusSection 0).length < 4096 ∧
    Checked (fun _ e => ({ params := listRefOk e 0 ++ [fieldOk 12 (bits (e.p8 12) 0 5 != 0)] ++ listOk 0 (buffer 16) (fun n => decide (16 ≤ n)) } : Checks))
      (alone running (entry 0x0102 (listRef ++ [0x1F]))) 0 (entry 0x0102 (listRef ++ [0x1F])) := by decide

/-- The manager. -/
def manager : State := { running with ring := { running.ring with role := .manager, node := some 0 } }

/-- Offsets of 10,000,000 ns and 10,000,001 ns, and the lowest frequency. -/
def slewCmd : JEntry := entry 0x0103 [1, 0, 0, 0, 0, 0, 0, 0, 0x80, 0x96, 0x98, 0, 0, 0, 0, 0]
def stepCmd : JEntry := entry 0x0103 [1, 0, 0, 0, 0, 0, 0, 0, 0x81, 0x96, 0x98, 0, 0, 0, 0, 0]
def trimCmd : JEntry := entry 0x0103 [2, 0, 0, 0, 0, 0, 0, 0, 0x60, 0x79, 0xFE, 0xFF]

theorem witness_SetTime : (Runs (alone manager (entry 0x0103 [])) 0 1 0x0103 false (entry 0x0103 []) ∧ (alone manager (entry 0x0103 [])).ring.role = .manager ∧ (entry 0x0103 []).p8 0 = 0) ∧
    (Runs (alone manager slewCmd) 0 1 0x0103 false slewCmd ∧ (slewCmd.s64 8).natAbs = 10000000) ∧ (Runs (alone manager stepCmd) 0 1 0x0103 false stepCmd ∧ 10000000 < (stepCmd.s64 8).natAbs) ∧
    (Runs (alone manager trimCmd) 0 1 0x0103 false trimCmd ∧ trimCmd.s32 8 = -100000) := by decide

/-- A FENCE of CQ0 on CQ1, mode completed, 5 ms; an earlier command of CQ1; and both. -/
def fenceCmd : JEntry := { entry 0x0106 [2, 0, 0, 0, 5, 0, 0, 0] with seq := 9 }
def earlier : JEntry := { entry 0x0201 [] with queue := 1 }
def fencing : State := { running with journal := { running.journal with entries := [earlier, fenceCmd] } }
def fenced : State := { running with journal := { running.journal with entries := [earlier, { fenceCmd with state := .running }]
                                                                       fences := [⟨9, false, [1], some 6000000, 1, 1⟩] } }

theorem witness_FenceWaitsForEarlier : (Runs (alone running { fenceCmd with seq := 1 }) 0 1 0x0106 false { fenceCmd with seq := 1 } ∧ fenceCmd.p8 1 ≤ 1) ∧
    (earlier ∈ fencing.journal.entries ∧ Runs fencing 0 9 0x0106 false fenceCmd ∧ earlier.seq < 9 ∧ earlier.queue ≠ fenceCmd.queue ∧ bitOf (fenceCmd.p8 0) earlier.queue = true ∧
      fencing.entry? 1 = some earlier) ∧
    (fenced.journal.fences.find? (fun f => f.seq == 9) = some ⟨9, false, [1], some 6000000, 1, 1⟩ ∧ 6000000 ≤ max fenced.now 6000000 ∧ InProgress fenced 9) ∧
    max fenced.now 5999999 < 6000000 := by decide

/-- An open update of 4,096 bytes, and one whose every byte is written. -/
def updating (e : JEntry) : State :=
  let s := alone running e
  { s with journal := { s.journal with fwLength := some 4096 } }
def updated (e : JEntry) : State := { updating e with journal := { (updating e).journal with fwBytes := [(16, 4080), (0, 16)] } }
def beginUpdate : JEntry := entry 0x0107 [0, 0x10, 0, 0]
def chunkCmd : JEntry := entry 0x0108 (listRef ++ [0xFE, 0x0F, 0, 0])

theorem witness_FirmwareUpdate : (Runs (alone running beginUpdate) 0 1 0x0107 false beginUpdate ∧ beginUpdate.p32 0 = 4096 ∧ (alone running beginUpdate).journal.fwLength = none) ∧
    Runs (updating beginUpdate) 0 1 0x0107 false beginUpdate ∧
    (Runs (updating chunkCmd) 0 1 0x0108 true chunkCmd ∧ (updating chunkCmd).journal.fwLength = some 4096 ∧ chunkCmd.p32 12 + [1, 2].length ≤ 4096 ∧
      Checked (fun _ e => ({ params := listRefOk e 0 ++ listOk 0 { buffer 2 with data := [1, 2] } (fun _ => true) } : Checks)) (updating chunkCmd) 0 chunkCmd) ∧
    (Runs (updated (entry 0x0109 [1])) 0 1 0x0109 false (entry 0x0109 [1]) ∧ (updated (entry 0x0109 [1])).updateWhole = true) := by decide

/-- RESET_UNIT of a scope and index; and a state in which port 4 has a head and pennant 14 is a spare. -/
def resetCmd (scope n : Nat) : JEntry := entry 0x0104 [BitVec.ofNat 8 scope, BitVec.ofNat 8 n]
def headed (p : HeadPort) : State := { running with
  heads := { running.heads with ports := [{}, {}, {}, {}, p] }
  render := { running.render with pennants := assignStripes 14 [] } }
def presentPort : HeadPort := { state := .inService, presLow := true }
def hotPort : HeadPort := { state := .fenced, presLow := true, thermalFence := true, measured := 0x7FFF }

theorem witness_ResetUnitAndShutdown :
    (∀ c ∈ [(0, 0), (1, 3), (2, 4), (3, 1), (4, 3), (5, 3)], Runs (alone (headed presentPort) (resetCmd c.1 c.2)) 0 1 0x0104 false (resetCmd c.1 c.2) ∧
      Checked resetUnitChecks (alone (headed presentPort) (resetCmd c.1 c.2)) 0 (resetCmd c.1 c.2)) ∧
    ((headed presentPort).pennant 3).state ≠ .fenced ∧ ((headed presentPort).unit 3).state ≠ .fenced ∧ ((headed presentPort).port 4).hot = false ∧ (headed presentPort).pos.armed = false ∧
    (((headed hotPort).port 4).hot = true ∧ ((headed hotPort).port 4).resetCmd = none ∧
      Checked resetUnitChecks (alone (headed hotPort) (resetCmd 2 4)) 0 (resetCmd 2 4)) ∧
    (Runs (alone running (entry 0x0105 [1])) 0 1 0x0105 false (entry 0x0105 [1]) ∧ running.power.commitSeq = none ∧ running.journal.shutdownSeq = none) := by decide

/-- LOOPBACK_SET of a target, port and mode; an eye scan of 2 by 1 points; and a self-test of every kind. -/
def loopCmd (target port mode : Nat) : JEntry := entry 0x0E01 [BitVec.ofNat 8 target, BitVec.ofNat 8 port, BitVec.ofNat 8 mode]
def scanCmd : JEntry := entry 0x0E02 (listRef ++ [0, 0, 1, 0, 2, 1])
def testCmd : JEntry := entry 0x0E03 [0x1F]

theorem witness_DiagnosticCommands :
    (∀ c ∈ [(2, 31, 2), (0, 0, 3), (1, 0, 0)], Runs (alone running (loopCmd c.1 c.2.1 c.2.2)) 0 1 0x0E01 false (loopCmd c.1 c.2.1 c.2.2) ∧
      Checked loopbackChecks (alone running (loopCmd c.1 c.2.1 c.2.2)) 0 (loopCmd c.1 c.2.1 c.2.2)) ∧
    (Checked loopbackChecks (withEast (alone running (loopCmd 0 0 0)) { state := .loopback, loop := 3 }) 0 (loopCmd 0 0 0) ∧
      ((withEast running { state := .loopback, loop := 3 }).ring.port (targetSide 0)).state = .loopback) ∧
    (Runs (alone running scanCmd) 0 1 0x0E02 true scanCmd ∧ Checked (eyeScanChecks (buffer 8)) (alone running scanCmd) 0 scanCmd) ∧
    ((alone running { scanCmd with state := .running }).runningCommand 0x0E02 = some { scanCmd with state := .running } ∧ [0, 0].length = scanCmd.p8 16 * scanCmd.p8 17 ∧
      (alone running { scanCmd with state := .running }).entry? 1 = some { scanCmd with state := .running }) ∧
    (let s : State := { alone running { scanCmd with state := .running } with host := { running.host with busMaster := false } }
     s.runningCommand 0x0E02 = some { scanCmd with state := .running } ∧ s.canSend = false ∧ s.firmwareRuns = true ∧ InProgress s 1) ∧
    (Runs (alone running testCmd) 0 1 0x0E03 false testCmd ∧ (alone running testCmd).pos.armed = false) ∧
    (alone running { testCmd with state := .running }).runningCommand 0x0E03 = some { testCmd with state := .running } := by decide

/-- CAL_READ of a selector: every field at 0 but the count of 24, which is 1, and that of 20. -/
def readCmd (sel : Nat) : JEntry := entry 0x0B02 (listRef ++ [BitVec.ofNat 8 sel] ++ List.replicate 7 0 ++ [1, 0, 0, 0, 1, 0, 0, 0])
def emptyPeriod : Period := { k := 0, time := 0, timeValid := false, speed := 0, depth4 := false, delays := [], entries := [] }
def withPeriod (s : State) : State := { s with loop := { s.loop with history := [{ emptyPeriod with k := (readCmd 3).s64 16 }] } }

theorem witness_CalReadSelectors : (∀ sel ∈ [0, 1, 2, 3, 5, 6, 7], Runs (alone running (readCmd sel)) 0 1 0x0B02 true (readCmd sel) ∧
      Checked (calReadChecks (buffer 131072)) (alone running (readCmd sel)) 0 (readCmd sel)) ∧
    running.periodsFrom ((readCmd 3).s64 16) ((readCmd 3).p32 24) = [] ∧ (withPeriod running).periodsFrom ((readCmd 3).s64 16) ((readCmd 3).p32 24) ≠ [] := by decide

/-! ## Faults -/

/-- A fault state entered at 0.9 ms, with its registers set. -/
def inFault : State := { running with now := 2900000, flt := { running.flt with faultState := true, enteredAt := 900000 } }

theorem witness_FaultRegisterWrites : running.hostReaches = true ∧ { running with flt := { running.flt with hold := true } }.flt.hold = true ∧
    State.reset.hostReaches = false ∧ running.flt.recent = none := by decide

theorem witness_FaultDetectLatches : (Detected (running.tick 5) 0x0B01 0 ∧ plainCodes.contains 0x0B01 = true ∧ running.classOf 0x0B01 = 0) ∧
    (Detected (running.tick 5) 0x0301 0 ∧ plainCodes.contains 0x0301 = true ∧ running.classOf 0x0301 = 1) ∧
    (running.flt.taken = 0 ∧ cycleDetections (max running.now 5) (sentinelCycle (max running.now 5)) running.pending = [] ∧ { running with flt := { running.flt with taken := 1 } }.flt.taken ≠ 0) := by decide

theorem witness_FatalFaultEntersFaultState : Detected ((armed running).tick 5) 0x0202 0 ∧ plainCodes.contains 0x0202 = true ∧ (armed running).classOf 0x0202 = 3 ∧
    (armed running).flt.faultState = false ∧ (armed running).flt.taken = 0 ∧ cycleDetections (max (armed running).now 5) (sentinelCycle (max (armed running).now 5)) (armed running).pending = [] ∧
    (let s := { running with flt := { running.flt with faultState := true } }
     Detected (s.tick 5) 0x0203 0 ∧ s.classOf 0x0203 = 3 ∧ s.pending = []) := by decide

theorem witness_FaultStateEnds : (inFault.flt.faultState = true ∧ inFault.flt.hold = false ∧ (inFault.tick 0).axesAtRest = true ∧
      inFault.flt.expireAt.getD (inFault.flt.enteredAt + 2000000) ≤ max inFault.now 0) ∧
    max { inFault with now := 2899999 }.now 0 < inFault.flt.expireAt.getD (inFault.flt.enteredAt + 2000000) ∧
    (inFault.flt.speedZero = false ∧ inFault.firmwareRuns = true ∧ inFault.flt.enteredAt + 50000000 ≤ max inFault.now 50900000) ∧
    { inFault with flt := { inFault.flt with pulseEnd := some 2900000 } }.flt.pulseEnd = some 2900000 ∧
    ((running.setThrottle { code := 0x0B01, unit := 0, records := [], last := 0, suppressed := true, unrecorded := 3 }).throttle 0x0B01 0).suppressed = true := by
  decide

/-- A FAULT_INJECT of two single shots to decompression unit 1, and a FAULT_CLASS_SET of 0x0301 to C2. -/
def injectCmd : JEntry := entry 0x0D01 [0x05, 0x00, 1, 2]
def classCmd : JEntry := entry 0x0D02 [0x01, 0x03, 2]

/-- FLT_INJECT set to the SDRAM checker of region 5, and, while armed, to the lockstep compare. -/
def injectSdram : State := { running with flt := { running.flt with injChecker := 0x10, injUnit := 5 } }
def injectLockstep : State := armed { running with flt := { running.flt with injChecker := 0x02 } }

theorem witness_InjectionAndClassMap :
    (injectSdram.hostReaches = true ∧ injectSdram.injectionDenied 0x10 5 false = false ∧ 5 < checkerUnits 0x10 ∧ (injectSdram.flt.injections.map Injection.checker ++ [0x10]).head?.any continuous = false) ∧
    (let s := { running with flt := { running.flt with injChecker := 0x01 } }
     s.injectionDenied 0x01 0 false = false ∧ 0 < checkerUnits 0x01 ∧ continuous 0x01 = true ∧ s.flt.injections = [] ∧ injectedCode 0x01 0 false = some 0x0201 ∧ Detected (s.tick 0) 0x0201 0 ∧ s.classOf 0x0201 < 3) ∧
    ((alone running injectCmd).flt.injections = [] ∧ continuous 0x05 = false) ∧
    (injectLockstep.hostReaches = true ∧ injectLockstep.injectionDenied 0x02 0 false = true) ∧
    (Runs (alone running injectCmd) 0 1 0x0D01 false injectCmd ∧ Checked faultInjectChecks (alone running injectCmd) 0 injectCmd) ∧
    (Runs (alone running classCmd) 0 1 0x0D02 false classCmd ∧ (defaultClass (classCmd.p16 0)).isSome = true ∧ classCmd.p8 2 ≤ 3 ∧
      (alone running classCmd).lowers (classCmd.p16 0) (classCmd.p8 2) = false) := by decide

/-! ## Event recorder -/

/-- A record of severity 1, and its place in the buffer. -/
def someRecord : Record :=
  { seq := 7, code := 0x0B01, unit := 0, severity := 1, timeValid := false, shadowed := false, episode := false, clockStep := false, wrap := false
    time := 900000, p0 := 0, p1 := 0, p2 := 0 }
def buffered (service episode : Bool) : Buffered := { record := someRecord, toService := service, toEpisode := episode, episode := 7, spilled := true }
def withBuffer (b : Buffered) : State := { running with evt := { running.evt with buffer := [b] } }

theorem witness_EventCommitPlacesOldest : (withBuffer (buffered true false)).power.phase ≠ .powerOnReset ∧
    (withBuffer (buffered true false)).evt.buffer = buffered true false :: [] ∧ (withBuffer (buffered true false)).evt.eraseAt = none ∧
    (withBuffer (buffered true false)).evt.freeze = false ∧ (withBuffer (buffered true false)).evt.service.length + 1 < 196608 ∧
    (withBuffer (buffered false true)).evt.buffer = buffered false true :: [] ∧ running.power.phase ≠ .warmReset ∧ running.power.phase ≠ .retuned ∧ (buffered true false).spilled = true ∧
    (withBuffer (buffered true false)).shotAt 0x12 0 = false ∧ (∀ x ∈ (withBuffer { buffered true false with spilled := false }).evt.buffer, x.spilled = false) := by decide

/-- A service area that is full: the clause of a full area is met by a real state. -/
theorem witness_EventCommitPlacesOldest_full : 196608 ≤ (List.replicate 196608 someRecord).length :=
  Nat.le_of_eq List.length_replicate.symm

/-- A freeze set, and an erase armed, at 1 ms. -/
def frozen : State := { running with evt := { running.evt with freeze := true, cursorAt := 1000000 } }
def eraseArmed : State := { running with evt := { running.evt with eraseArmAt := some 1000000 } }

theorem witness_RecorderControls : frozen.hostReaches = true ∧ frozen.evt.freeze = true ∧ frozen.evt.cursorAt + 10000000000 ≤ max frozen.now 10001000000 ∧
    max frozen.now 10000999999 < frozen.evt.cursorAt + 10000000000 ∧ eraseArmed.evt.eraseAt = none ∧ eraseArmed.evt.eraseArmAt = some 1000000 ∧
    running.evt.eraseArmAt = none := by decide

theorem witness_EraseAndOverflowSave : { running with evt := { running.evt with eraseAt := some 5 } }.evt.eraseAt.isSome = true ∧ running.evt.buffer.length < 2048 ∧ running.cal.writing = false ∧ running.flashQuiet = false ∧
    running.power.phase ≠ .powerOnReset ∧ { running with evt := { running.evt with overflowDirty := some 5 } }.evt.overflowDirty.isSome = true ∧
    readCal running.flash.calA = none ∧ readCal running.flash.calB = none := by decide

/-- An EVT_MARK of code 0x81FF with severity 7, an EPISODE_BEGIN and an EPISODE_END. -/
def markCmd : JEntry := entry 0x0C01 [127, 7, 0, 0, 1, 2, 3, 4]
def beginCmd : JEntry := entry 0x0C02 [9, 0, 0, 0]
def endCmd : JEntry := entry 0x0C03 []
def inEpisode (kinds : List Nat) : State := { running with evt := { running.evt with openers := kinds } }

theorem witness_HostMarksAndEpisodes : (Runs (alone running markCmd) 0 1 0x0C01 false markCmd ∧ markCmd.p8 0 ≤ 127 ∧ markCmd.p8 1 ≤ 7 ∧
      (alone running markCmd).evt.buffer.length < 2048) ∧
    (Runs (alone running beginCmd) 0 1 0x0C02 false beginCmd ∧ (alone running beginCmd).evt.openers = []) ∧
    (Runs (alone (inEpisode [3]) beginCmd) 0 1 0x0C02 false beginCmd ∧ (alone (inEpisode [3]) beginCmd).evt.openers ≠ []) ∧
    (Runs (alone (inEpisode [4]) endCmd) 0 1 0x0C03 false endCmd ∧ (alone (inEpisode [4]) endCmd).evt.openers = [4]) ∧
    (Runs (alone (inEpisode [4, 3]) endCmd) 0 1 0x0C03 false endCmd ∧ (alone (inEpisode [4, 3]) endCmd).evt.openers = [4, 3]) := by decide

/-! ## Calibration -/

/-- Power-up calibration done, with a pass on element 36 or without one. -/
def calDone : State := { running with cal := { running.cal with powerUpDone := true } }
def calPassing : State := { calDone with cal := { calDone.cal with pass := some { groups := 0xF, left := [36], command := none, steps := 0, reselected := 0, startedAt := 0 } } }
/-- Deviations of element 36 in the worked example of chapter 15, in 0.01 %: the closest is that of the present code plus 4. -/
def exampleDevs : List Int := [50, 44, 38, 32, 26, 20, 14, 8, 2]
def calRunCmd : JEntry := entry 0x0B01 [0x0F]
def commitCmd : JEntry := entry 0x0B03 []

theorem witness_CalibrationPasses : (calDone.cal.powerUpDone = true ∧ calDone.cal.pass = none ∧ calDone.power.phase = .running ∧
      calDone.cal.lastStart + 600000000000 ≤ max calDone.now 600000000000) ∧ calPassing.cal.pass.isSome = true ∧
    ((calPassing.element 36).code = (calPassing.element 36).target ∧ closestCode (calPassing.element 36).code exampleDevs = some (516, 2) ∧
      Int.natAbs 2 ≤ elementAccuracy 36 ∧ 516 ≠ (calPassing.element 36).code) ∧
    (closestCode (calPassing.element 36).code (List.replicate 9 201) = some (508, 201) ∧ elementAccuracy 36 < Int.natAbs 201) ∧
    (Runs (alone calDone calRunCmd) 0 1 0x0B01 false calRunCmd ∧ (alone calDone calRunCmd).cal.pass.bind (·.command) = none ∧
      groupElements (BitVec.ofNat 4 (calRunCmd.p8 0)) ≠ []) := by decide

/-- A CAL_COMMIT that runs, and a head entry slot whose change is due. -/
def committing : State := alone { running with cal := { running.cal with writing := true, commitSeq := some 1 } } { commitCmd with state := .running, started := true }
def slotDue : State := { running with flash := { running.flash with heads := [{ claim := 77, dirtyAt := some 1000000, urgent := true }] } }

theorem witness_CalibrationSetWrites : (Runs (alone running commitCmd) 0 1 0x0B03 false commitCmd ∧ (alone running commitCmd).cal.writing = false) ∧
    (committing.calWriteDue = true ∧ committing.cal.commitSeq = some 1 ∧ Running committing 1 ∧ committing.flashQuiet = false ∧ readCal committing.flash.calA = none ∧ readCal committing.flash.calB = none) ∧
    (slotDue.entryDue (Tbl.get {} slotDue.flash.heads 0) = some 1000000 ∧ 1000000 ≤ max slotDue.now 0 ∧ slotDue.firmwareRuns = true ∧ slotDue.flt.faultState = false ∧
      (Tbl.get {} slotDue.flash.heads 0).holder ≠ 0 ∧ readHead (Tbl.get {} slotDue.flash.heads 0).copyA = none ∧ readHead (Tbl.get {} slotDue.flash.heads 0).copyB = none) := by decide

/-! ## Power and resets -/

/-- A state in a phase of its boot or of a warm reset. -/
def inPhase (p : BootPhase) : State := { running with power := { running.power with phase := p } }

/-- A training that works at 5,600 MT/s, and one that works at no rate. -/
def goodTraining : Training := { ok5600 := true, ok4800 := true, alike := true, density := 0, ranks2 := false, codes := [], values := [] }
def badTraining : Training := { goodTraining with ok5600 := false, ok4800 := false }

theorem witness_ColdBoot : State.reset.power.phase = .powerOnReset ∧ running.power.phase ≠ .powerOnReset ∧
    ¬(26215 * 10 < 8 * 32768 ∨ 12 * 32768 < 26215 * 10) ∧ (26214 * 10 < 8 * 32768) ∧ ¬(12 * 32768 < 39321 * 10) ∧ 12 * 32768 < 39322 * 10 ∧
    ((inPhase .booting).power.phase = .booting ∧ Machine.Training.rate4800? goodTraining false = some false ∧
      Machine.Training.rate4800? goodTraining true = some true ∧ Machine.Training.rate4800? badTraining false = none ∧
      (inPhase .booting).dmc.limit4800 = false ∧ 110000 ≤ max (inPhase .booting).now 0 ∧ max State.reset.now 109999 < 110000) ∧
    (inPhase .trained).power.phase = .trained ∧ (running.episodeOpen 0).power.phase = .running ∧ (running.episodeOpen 0).evt.openers = [0] := by decide

theorem witness_SupplyAndClockFaults : running.power.phase ≠ .powerOnReset ∧ Detected (running.tick 0) 0x0C03 7 ∧ Detected (running.tick 0) 0x0C01 9 ∧
    Detected (running.tick 0) 0x0F02 0 ∧ Detected (running.tick 0) 0x0C02 0 ∧ Detected (running.tick 0) 0x0C04 7 ∧ 1680 ≤ (0x0690 : BitVec 16).toInt ∧
    (running.shotAt 0x14 0 = false ∧ ({ running with flt := { running.flt with injections := [{ checker := 0x14, double := false, unit := 0, left := 1 }] } } : State).shotAt 0x14 0 = true) ∧
    ((9 : Fin 10)).val ≠ 0 ∧ (armed running).pos.armed = true := by decide

theorem witness_WarmResetStarts : running.power.phase = .running ∧ running.power.mode ≠ .hb8 ∧ (inPhase .retuned).power.phase = .retuned ∧
    (∀ p ∈ [BootPhase.booting, .trained, .running, .retuned], p ≠ .powerOnReset ∧ p ≠ .warmReset ∧ p ≠ .halted ∧ (inPhase p).power.phase = p) ∧ (inPhase .halted).power.phase = .halted ∧
    running.classOf 0x0F01 ≤ 3 ∧ (∀ n ∈ [0, 1], imageValid running.fuses.firmwareKey (running.flash.image n) = false) := by decide

theorem witness_WarmResetEnds :
    ({ running with host := { running.host with perstLow := true } }.host.perstLow = true ∧ strapMode running.fuses.hb8 false false = running.power.previousMode ∧
      strapMode running.fuses.hb8 true false ≠ running.power.previousMode) ∧
    ((inPhase .warmReset).power.phase = .warmReset ∧ (inPhase .warmReset).power.resetAt + 1000000 ≤ max running.now 1000000 ∧
      { inPhase .warmReset with dmc := { running.dmc with trained := true } }.dmc.trained = true ∧ running.dmc.lost = false ∧ Machine.Training.rate4800? badTraining running.dmc.limit4800 = none) ∧
    ((false && running.dmc.trained && !running.dmc.lost) = false ∧ Machine.Training.rate4800? goodTraining running.dmc.limit4800 = some false) ∧
    max { running with now := 999999 }.now 0 < running.power.resetAt + 1000000 ∧
    ((inPhase .retuned).power.resetAt + 10000000 ≤ max running.now 10000000 ∧ (inPhase .retuned).host.perstLow = false) := by decide

/-- A device in recovery whose image copy stands as its digest was kept. -/
def recovering : State := { inPhase .retuned with power := { (inPhase .retuned).power with digest := Config.sha384 running.dmc.image } }

theorem witness_WarmResetEnds_image : recovering.dmc.fullRetrain = false ∧ Config.sha384 recovering.dmc.image = recovering.power.digest ∧ recovering.flash.boot.slot = recovering.power.slot ∧
    recovering.power.phase = .retuned ∧ recovering.host.perstLow = false := ⟨rfl, rfl, rfl, rfl, rfl⟩

theorem witness_HostLinkResets : running.power.phase ≠ .powerOnReset ∧ running.host.perstLow = false ∧ running.host.linkUp = true ∧ running.power.mode ≠ .hb8 ∧
    running.host.identityLoaded = false ∧ { running with host := { running.host with perstLow := true } }.host.perstLow = true ∧ ({ running with host := { running.host with linkUp := false } } : State).host.linkUp = false := by decide

/-! ## Pages, jobs and the compression engine -/

/-- PAGE_SUBMIT for job 9 of one buffer, placed by follow, at a line and by a compare unit. -/
def submitCmd (kind unit : Nat) : JEntry :=
  { entry 0x0202 (listRef ++ [0, 0, 0, 0, 9, 0, 0, 0, 5, 0, 0, 0, 64, 0, 0, 0, BitVec.ofNat 8 kind, BitVec.ofNat 8 unit, 0, 0]) with free := 64 }
def closeCmd (form : Nat) : JEntry := entry 0x0205 [9, 0, 0, 0, BitVec.ofNat 8 form]
def pageEntry : JEntry := { entry 0x0202 [] with seq := 2, state := .running }

/-- A command beside a page of job 9 and its PAGE_SUBMIT. -/
def besidePage (e : JEntry) (p : Page) : State :=
  let s := withPage running p
  { s with journal := { s.journal with entries := [e, pageEntry] } }
def emptyJob (e : JEntry) : State := { besidePage e (page .stored) with store := { (withPage running (page .stored)).store with pages := [] } }
def pageCmd (op : Nat) : JEntry := entry op [2, 0, 0, 0, 0, 0, 0, 0]
/-- PAGE_QUERY and PAGE_CANCEL of a PAGE_SUBMIT that is accepted and not started. -/
def unstarted (op : Nat := 0x0204) : State :=
  let s := emptyJob (pageCmd op)
  { s with journal := { s.journal with entries := [pageCmd op, { pageEntry with state := .accepted }] } }

theorem witness_JobCommands :
    (Runs (alone (formatted running) (entry 0x0201 (List.replicate 13 0))) 0 1 0x0201 false (entry 0x0201 (List.replicate 13 0)) ∧
      Checked jobOpenChecks (alone (formatted running) (entry 0x0201 (List.replicate 13 0))) 0 (entry 0x0201 (List.replicate 13 0))) ∧
    (Runs (emptyJob (closeCmd 1)) 0 1 0x0205 false (closeCmd 1) ∧ (emptyJob (closeCmd 1)).job? ((closeCmd 1).p32 0) = some job ∧ (closeCmd 1).p8 4 ≤ 1 ∧
      ∀ x ∈ (emptyJob (closeCmd 1)).journal.entries, x.seq < 1 → (emptyJob (closeCmd 1)).submitWaits ((closeCmd 1).p32 0) x = false) ∧
    (∀ f ∈ [0, 1], Runs (besidePage (closeCmd f) (page .stored)) 0 1 0x0205 false (closeCmd f) ∧ (besidePage (closeCmd f) (page .stored)).job? ((closeCmd f).p32 0) = some job ∧
      (closeCmd f).p8 4 = f ∧ page .stored ∈ (besidePage (closeCmd f) (page .stored)).store.pages ∧ (page .stored).job = (closeCmd f).p32 0 ∧ (page .stored).legacy = false) := by decide

theorem witness_PageCommands :
    (∀ c ∈ [(0, 0), (1, 0), (2, 15)], Runs (besidePage (submitCmd c.1 c.2) (page .stored)) 0 1 0x0202 true (submitCmd c.1 c.2) ∧
      Checked (submitChecks (buffer 65536)) (besidePage (submitCmd c.1 c.2) (page .stored)) 0 (submitCmd c.1 c.2)) ∧
    (∀ st ∈ [PageState.printing, PageState.stored], Runs (besidePage (pageCmd 0x0203) (page st)) 0 1 0x0203 false (pageCmd 0x0203) ∧
      (besidePage (pageCmd 0x0203) (page st)).page? ((pageCmd 0x0203).p64 0) = some (page st) ∧ (page st).closed = false ∧ (page st).legacy = false ∧ (pageCmd 0x0203).p64 0 ≠ 1 ∧
      (besidePage (pageCmd 0x0203) (page st)).entry? ((pageCmd 0x0203).p64 0) = some pageEntry ∧ pageEntry.state.final = false) ∧ job.closeSeqs = [] ∧
    (Runs (besidePage (pageCmd 0x0204) (page .fired)) 0 1 0x0204 false (pageCmd 0x0204) ∧
      (besidePage (pageCmd 0x0204) (page .fired)).entry? ((pageCmd 0x0204).p64 0) = some pageEntry ∧ pageEntry.opcode = 0x0202) ∧
    (Runs (emptyJob (pageCmd 0x0204)) 0 1 0x0204 false (pageCmd 0x0204) ∧ (emptyJob (pageCmd 0x0204)).page? ((pageCmd 0x0204).p64 0) = none ∧
      (emptyJob (pageCmd 0x0204)).store.recent = []) := by decide

theorem witness_PageCommands_query : (Runs unstarted 0 1 0x0204 false (pageCmd 0x0204) ∧ unstarted.entry? 2 = some { pageEntry with state := .accepted } ∧ unstarted.page? 2 = none ∧ unstarted.store.recent = []) ∧
    (Runs (unstarted 0x0203) 0 1 0x0203 false (pageCmd 0x0203) ∧ (unstarted 0x0203).awaited 2 = true ∧ (unstarted 0x0203).page? 2 = none ∧
      (unstarted 0x0203).entry? 2 = some { pageEntry with state := .accepted } ∧ (unstarted 0x0203).journal.fences = [] ∧ (unstarted 0x0203).job? ({ pageEntry with state := .accepted }.p32 16) = none) := by decide

/-- A page of job 9 in the formatted device, its PAGE_SUBMIT running, with verification or without. -/
def coursing (v : Bool) (p : Page) : State :=
  let s := formatted (withPage running p)
  { s with journal := { s.journal with entries := [pageEntry] }, store := { s.store with jobs := [some { job with verify := v }] } }
def badHeader : List Byte := 0x51 :: psfHeader.tail

theorem witness_PageCourse :
    (∀ v ∈ [true, false], (coursing v { page .transferring with placement := .follow }).page? 2 = some { page .transferring with placement := .follow } ∧
      Running (coursing v { page .transferring with placement := .follow }) 2 ∧ (coursing v { page .transferring with placement := .follow }).canSend = true ∧
      (coursing v { page .transferring with placement := .follow }).job? 9 = some { job with verify := v } ∧
      (coursing v { page .transferring with placement := .follow }).pos.armed = false ∧ (coursing v { page .transferring with placement := .follow }).flt.injections = [] ∧
      headerError { configured := (coursing v (page .transferring)).render.format.map fun f => (f.wIn, kindBpp f.kind), page := true } psfHeader 0 = none) ∧
    (headerError { configured := (coursing false (page .transferring)).render.format.map fun f => (f.wIn, kindBpp f.kind), page := true } badHeader 0 = some (1, 0)) ∧
    ((coursing true { page .verifying with failure := some (2, 0, 4) }).page? 2 = some { page .verifying with failure := some (2, 0, 4) }) ∧
    ((coursing true { page .verifying with verified := true, placement := .follow }).page? 2 = some { page .verifying with verified := true, placement := .follow }) ∧
    (∀ n ∈ [127, 128], (coursing false { page .fired with horizon := some n }).page? 2 = some { page .fired with horizon := some n }) ∧
    (let p := { page .transferring with blind := true }
     (coursing false p).page? 2 = some p ∧ p.placement = .atLine 4096 ∧ p.cancelled = false ∧ p.failure = none ∧ job.group = 0) ∧
    (let p := { page .printing with cancelled := true }
     ∀ k ∈ [2, 3], let s := { coursing false p with render := { running.render with hoists := [{ k := 64, openedAt := 0, tables := running.tableSet 64, pages := [(k, 4096)] }] } }
     s.page? 2 = some p ∧ (s.render.hoists.all fun h => h.pages.all fun x => x.1 != 2) = (k == 3)) := by decide

/-- The page held for reprint after a loss whose cause has ended. -/
def heldPage : Page := { page .held with losses := [{ row := 64, lo := 4096, hi := 4100, colLo := 0, colHi := 9, block := 3 }] }

theorem witness_ReprintPlace : (armed (withPage running heldPage)).page? 2 = some heldPage ∧ (armed (withPage running heldPage)).job? heldPage.job = some job ∧
    (armed (withPage running heldPage)).pos.armed = true ∧ (armed (withPage running heldPage)).pos.disarming = none ∧ (armed (withPage running heldPage)).reprintReady heldPage = true ∧
    (armed (withPage running heldPage)).store.pages.all (fun x => !(x.job == heldPage.job && decide (x.seq < 2) && (armed (withPage running heldPage)).reprintReady x)) = true := by decide

/-- COMPRESS_JOB of four rows of a byte, in frames of two rows; DECOMPRESS_JOB; and both under way. -/
def packCmd : JEntry := entry 0x0A01 (listRef ++ listRef ++ [8, 0, 0, 0, 1, 0, 4, 0])
def unpackCmd : JEntry := entry 0x0A02 (listRef ++ listRef)
def unpacking (input : List Byte) (limit : Nat) : State :=
  let s := alone running { unpackCmd with state := .running }
  { s with codec := { s.codec with units := [{ work := some { user := .job 1, frame := 0, offset := 0, produced := 0 } }],
                                   jobs := [{ seq := 1, decode := true, input := input, limit := limit }] } }
def packing (total limit : Nat) : State :=
  let s := alone running { packCmd with state := .running }
  { s with codec := { s.codec with lanes := [{ work := some { user := .job 1, frame := 0, last := total == 1, width := 8, bpp := 1, depth := 1, raw := [1, 2, 3, 4] } }],
                                   jobs := [{ seq := 1, decode := false, input := [], limit := limit, total := total, next := 4 }] } }
def isLimit : Except PsfStop PsfFrame → Bool
  | .error (.limit _) => true
  | _ => false
def isBad : Except PsfStop PsfFrame → Bool
  | .error (.bad ..) => true
  | _ => false
def isFrame (last : Bool) : Except PsfStop PsfFrame → Bool
  | .ok f => f.header.last == last
  | _ => false

theorem witness_CodecJobs_commands :
    (Runs (alone running packCmd) 0 1 0x0A01 true packCmd ∧
      Checked (fun _ e => ({ params := compressParams { buffer 4 with data := [1, 2, 3, 4] } (buffer 64) e } : Checks)) (alone running packCmd) 0 packCmd) ∧
    (Runs (alone running unpackCmd) 0 1 0x0A02 true unpackCmd ∧ Checked (fun _ e => ({ params := listRefOk e 0 ++ listRefOk e 12 ++ listOk 0 (buffer 4) (fun _ => true) ++ listOk 12 (buffer 4) (fun _ => true) } : Checks)) (alone running unpackCmd) 0 unpackCmd) := by decide

theorem witness_CodecJobs_frames :
    (isFrame true (decodeFrame {} (storedFrame true 8 1 [1, 2]) 0 2 none) = true ∧ isLimit (decodeFrame {} (storedFrame true 8 1 [1, 2]) 0 1 none) = true ∧
      isBad (decodeFrame {} badHeader 0 2 none) = true) ∧
    (((unpacking badHeader 2).unit 0).work = some { user := .job 1, frame := 0, offset := 0, produced := 0 } ∧ Running (unpacking badHeader 2) 1 ∧ (unpacking badHeader 2).canSend = true ∧ (unpacking badHeader 2).flt.injections = []) ∧
    (Running (packing 1 64) 1 ∧ (packing 1 64).canSend = true ∧ ((packing 2 64).lane 0).work.isSome = true ∧ (packing 1 64).flt.injections = []) := by decide

/-- A frame of four raster bytes takes between 16 and 24 bytes, whatever the lane's code lengths. -/
theorem packed_bounds (l : Bool) (w b d : Nat) (raw : List Byte) :
    16 ≤ (compressFrame l w b d raw).length ∧ (compressFrame l w b d raw).length ≤ raw.length + 20 := by
  have hs : (storedFrame l w b raw).length = raw.length + 20 := by simp [storedFrame, headerBytes, leBytes]
  unfold compressFrame
  simp only
  split
  · omega
  · refine ⟨?_, by omega⟩
    simp [codedFrame, headerBytes, leBytes]

theorem witness_CodecJobs_joined : (({ seq := 1, decode := false, input := [], limit := 24, total := 1, frames := [(0, compressFrame true 8 1 1 [1, 2, 3, 4])] } : StreamJob).joined.length ≤ 24) ∧
    3 < ({ seq := 1, decode := false, input := [], limit := 3, total := 1, frames := [(0, compressFrame true 8 1 1 [1, 2, 3, 4])] } : StreamJob).joined.length := by
  have h := packed_bounds true 8 1 1 [1, 2, 3, 4]
  simp only [List.length_cons, List.length_nil] at h
  simp only [StreamJob.joined, sortBy, insertBy, List.map_cons, List.map_nil, List.flatten_cons, List.flatten_nil, List.append_nil, List.foldl_cons, List.foldl_nil]
  omega

/-- A unit that verifies while a replay frame waits, and the same unit at work on the page. -/
def waitingWork : DecodeWork := { user := .replay 2 63 0, frame := 0, offset := 0, produced := 0 }
def lowWork (u : DecodeUser) : DecodeWork := { user := u, frame := 0, offset := 0, produced := 0 }
def preempted : State := { running with codec := { running.codec with waiting := [waitingWork],
                                                                      units := List.replicate 4 { work := some (lowWork (.verify 2)) } } }
def tinyPage (stream : List Byte) : Page := { page .verifying with rows := 1, stream := stream }
def checking (stream : List Byte) (u : DecodeUser) : State :=
  let s := coursing true (tinyPage stream)
  { s with codec := { s.codec with units := [{ work := some (lowWork u) }] }, render := { s.render with format := some { kind := 0, wIn := 2, c0 := 0, upscale := 0, depth := 2 } } }

theorem witness_PageFrames : (preempted.power.phase = .running ∧ preempted.codec.waiting = [waitingWork] ∧ waitingWork.user.rank = 0 ∧ (preempted.unit 3).state = .inService ∧
      (preempted.unit 3).work = some (lowWork (.verify 2)) ∧ 0 < (lowWork (.verify 2)).user.rank) ∧ running.nextDecode = none ∧
    (∀ u ∈ [DecodeUser.inflow 2, DecodeUser.verify 2], ((checking (storedFrame true 2 8 [1, 2]) u).unit 0).work = some (lowWork u) ∧
      isFrame true ((checking (storedFrame true 2 8 [1, 2]) u).pageFrame (tinyPage (storedFrame true 2 8 [1, 2])) (lowWork u) none) = true ∧
      isBad ((checking badHeader u).pageFrame (tinyPage badHeader) (lowWork u) none) = true ∧ Running (checking badHeader u) 2 ∧ (checking badHeader u).shotAt 0x05 0 = false ∧
      (checking badHeader u).frameShot (lowWork u) = none) := by decide

theorem witness_StoredFrameRoundTrip : (1 ≤ 16 ∧ 2 ∈ [1, 2, 4, 8] ∧ 12 % rowBytes 16 2 = 0) ∧ ((65536 : Nat) ≤ 65536 ∧ 1048576 % rowBytes 65536 8 = 0 ∧ max 16384 (rowBytes 65536 8) ≤ 1048576) := by decide

/-! ## Rendering tables, the bar and the pennants -/

/-- A bar of two heads that overlap by 64 columns. -/
def twoHeads (s : State) : State := { s with lines := { s.lines with geometry := { set := true, heads := [{ present := true, col0 := 0 }, { present := true, col0 := 1984 }] } } }
def formatCmd : JEntry := entry 0x0401 [1, 0, 2, 1, 0, 0, 1, 0, 0xBF, 0x0F, 0, 0, 0x10, 0x32]
def curvesCmd : JEntry := entry 0x0402 (listRef ++ [15, 1])
def toneCmd : JEntry := entry 0x0403 (listRef ++ [0xFF, 0xFF, 0, 0, 1, 0, 0, 0])
def thresholdCmd : JEntry := entry 0x0404 (listRef ++ [2, 0, 1, 0, 1, 0, 0, 0, 0, 0])
def maskCmd : JEntry := entry 0x0405 (listRef ++ [0xFF, 0, 8, 0, 1, 0, 7, 0, 0, 0, 0, 0, 0, 0, 0])
def stitchCmd (z : Nat) : JEntry := entry 0x0406 (List.replicate 12 0 ++ [BitVec.ofNat 8 z, 0, 0, 0, 255, 0])
def tileCmd : JEntry := entry 0x0406 (listRef ++ [0, 1, 1, 0, 0, 0])
def noList : HostList := { elems := [], data := [] }
def policyCmd : JEntry := entry 0x0408 [12, 12, 0xFF, 0]
def leadCmd : JEntry := entry 0x0408 [0, 12, 0xFF, 0xFF]
def windowCmd : JEntry := entry 0x0504 [0, 0, 0, 0, 0, 0, 0, 0, 1, 0, 0, 0, 0, 0, 0, 0, 5, 0, 5, 0]

theorem witness_RenderingTables :
    (Runs (alone (twoHeads running) formatCmd) 0 1 0x0401 false formatCmd ∧ Checked inputFormatChecks (alone (twoHeads running) formatCmd) 0 formatCmd ∧ (alone (twoHeads running) formatCmd).heads.ports = []) := by decide

theorem witness_RenderingTables_loads :
    (Runs (alone running curvesCmd) 0 1 0x0402 true curvesCmd ∧ Checked (toneCurveChecks (buffer 512)) (alone running curvesCmd) 0 curvesCmd) ∧
    (Runs (alone running toneCmd) 0 1 0x0403 true toneCmd ∧ Checked (columnToneChecks (buffer 4)) (alone running toneCmd) 0 toneCmd) ∧
    (Runs (alone running thresholdCmd) 0 1 0x0404 true thresholdCmd ∧ Checked (thresholdChecks { buffer 4 with data := [1, 4, 0x10, 0] }) (alone running thresholdCmd) 0 thresholdCmd) := by decide

theorem witness_RenderingTables_banks :
    (Runs (alone (twoHeads running) maskCmd) 0 1 0x0405 true maskCmd ∧ Checked (rowMaskChecks (buffer 1)) (alone (twoHeads running) maskCmd) 0 maskCmd) ∧
    (∀ z ∈ [0, 0xFF], Runs (alone (twoHeads running) (stitchCmd z)) 0 1 0x0406 false (stitchCmd z) ∧ Checked (stitchChecks noList) (alone (twoHeads running) (stitchCmd z)) 0 (stitchCmd z)) ∧
    (Runs (alone (twoHeads running) tileCmd) 0 1 0x0406 true tileCmd ∧ Checked (stitchChecks (buffer 8)) (alone (twoHeads running) tileCmd) 0 tileCmd) ∧
    (Runs (alone running (entry 0x0407 [128])) 0 1 0x0407 false (entry 0x0407 [128]) ∧ (entry 0x0407 [128]).p8 0 ≤ 128) := by decide

theorem witness_RenderingTables_settings :
    (Runs (alone running policyCmd) 0 1 0x0408 false policyCmd ∧ Checked policyChecks (alone running policyCmd) 0 policyCmd) ∧
    (Runs (alone running windowCmd) 0 1 0x0504 false windowCmd ∧ windowCmd.s64 0 < windowCmd.s64 8 ∧ windowCmd.p16 16 ≤ windowCmd.p16 18) ∧
    (let s := alone (armed running) leadCmd; Runs s 0 1 0x0408 false leadCmd ∧ Checked policyChecks s 0 leadCmd ∧ s.pos.armed = true ∧ s.leadInForce < leadCmd.p8 1) := by decide

/-- The buffer of a geometry with head 0 alone, 1 mm behind the datum line; and of 64 trims of 0. -/
def barBuffer : HostList := { buffer 272 with data := [0x40, 0x42, 0x0F, 0] ++ List.replicate 12 0 ++ [1] ++ List.replicate 255 0 }
def trimBuffer : HostList := { buffer 256 with data := List.replicate 256 0 }
def armedBar : State := { armed (oneHead running) with lines := { (armed (oneHead running)).lines with alloc := [100, 100] } }
def barCmd : JEntry := entry 0x0301 listRef
def trimsCmd (at_ : Nat) : JEntry := entry 0x0302 (listRef ++ [BitVec.ofNat 8 at_, 0, 0, 0, 2])
def shiftCmd : JEntry := entry 0x0303 [1, 0, 0, 0, 0]

theorem witness_BarAndDelays :
    (Runs (alone running barCmd) 0 1 0x0301 true barCmd ∧ Checked (geometryChecks barBuffer) (alone running barCmd) 0 barCmd) ∧
    (Runs (alone (oneHead running) (trimsCmd 0)) 0 1 0x0302 true (trimsCmd 0) ∧ Checked (rowDelayChecks trimBuffer) (alone (oneHead running) (trimsCmd 0)) 0 (trimsCmd 0)) ∧
    (Runs (alone armedBar (trimsCmd 0)) 0 1 0x0302 true (trimsCmd 0) ∧ Checked (rowDelayChecks trimBuffer) (alone armedBar (trimsCmd 0)) 0 (trimsCmd 0)) ∧
    (Runs (alone (oneHead running) shiftCmd) 0 1 0x0303 false shiftCmd ∧ Checked registrationChecks (alone (oneHead running) shiftCmd) 0 shiftCmd) ∧
    (Runs (alone armedBar shiftCmd) 0 1 0x0303 false shiftCmd ∧ Checked registrationChecks (alone armedBar shiftCmd) 0 shiftCmd) := by decide

/-- An armed device whose arm hoist comes with the default lead; and one whose pennant 0 has the first window's stripe 0 to render. -/
def opening : State := { armed running with pos := { (armed running).pos with tick := 0, armHoist := 7 } }
def noTables : TableSet := opening.tableSet 7
def rendering (since : Nat) : State :=
  { opening with render := { opening.render with
      lastOpened := some 7, hoists := [{ k := 7, openedAt := 0, tables := noTables }]
      pennants := opening.render.pennants.set 0 { state := .active, stripe := some 0, work := [{ task := .render, hoist := 7, stripe := 0, since := since }] } } }
def renderWork (since : Nat) : PennantWork := { task := .render, hoist := 7, stripe := 0, since := since }
def openHoist : Hoist := { k := 7, openedAt := 0, tables := noTables }

theorem witness_WindowsAndPennants : (opening.power.phase = .running ∧ opening.windowDue = true ∧ opening.render.resplitAt = none) ∧ running.windowDue = false ∧
    (((rendering 0).pennant 0).work = [renderWork 0] ∧ (renderWork 0).task.due = true ∧ (rendering 0).hoist? 7 = some openHoist ∧ (rendering 0).sliceReady openHoist = true ∧
      ((renderWork 0).decodeAgain && (rendering 0).decodePending 7 0) = false ∧ (rendering 0).render.audits = [] ∧ ((rendering 0).pennant 0).state = .active) ∧
    (((rendering 0).pennant 0).stripe = some 0 ∧ ((rendering 0).pennant 0).extra = [] ∧ (∀ i, i < 14 → ((rendering 0).pennant i).state ≠ .spare) ∧ ((rendering 0).pennant 14).state = .spare ∧
      ((rendering 0).pennant 14).work = [] ∧ (∀ c ∈ [0x0502, 0x0503, 0x0504, 0x0505], Detected (rendering 0) c 0) ∧ (rendering 0).needsPennant 0 = false ∧ (rendering 0).flt.injections = [] ∧
      (rendering 0).pennantShot 0 true = none) ∧
    (let s := { rendering 0 with flt := { running.flt with injections := [{ checker := 0x08, double := false, unit := 0, left := 1 }] } }
     s.pennantShot 0 true = some 0x0503 ∧ Detected s 0x0503 0) ∧
    (running.pennant 0).work = [] ∧ ((rendering 994880).pennant 0).work.find? (fun w => w.task == .render) = some (renderWork 994880) ∧
    8 * max (rendering 994880).now 0 = 8 * (renderWork 994880).since + 10 * (4096 + 16 * (64 * noTables.widths.getD 0 0)) := by decide

theorem witness_WindowsAndPennants_words : crc32c (flipBits [0x55] []) = crc32c [0x55] ∧ crc32c (flipBits [0x55] [7]) ≠ crc32c [0x55] := by decide

/-- Hoist 7 with its stripe 0 committed; units fenced and in shadow. -/
def committedBandHoist : Hoist := { openHoist with stripes := [{ index := 0, owner := 0, word := 0, levels := [] }] }
def committedBand : State := { rendering 0 with render := { (rendering 0).render with hoists := [committedBandHoist] } }
def unitsIn (st : UnitState) (pst : PennantState) (returns : List Nat) (clean : Nat) : State :=
  { running with
    render := { running.render with pennants := running.render.pennants.set 3 { state := pst, fencedCode := 0x0503, returns := returns, clean := clean } }
    codec := { running.codec with units := [{ state := st, fencedCode := 0x0401, returns := returns, clean := clean }], lanes := [{ state := st, fencedCode := 0x0402, returns := returns, clean := clean }] }
    heads := { running.heads with ports := [{ state := .fenced, fencedCode := 0x0801, presLow := true, returns := returns }] } }

/-- Pennant 3 in shadow while printing is armed, with some of its check words matched. -/
def matching (m : Nat) : State :=
  let s := armed (unitsIn .shadow .shadow [] 3)
  { s with render := { s.render with pennants := s.render.pennants.map fun p => { p with matched := m } } }

theorem witness_LineStoreAndReturns : (committedBand.power.phase = .running ∧ Detected committedBand 0x0601 2 ∧ committedBand.shotAt 0x0A 0 = false ∧ (committedBand.hoist? 7).isSome = true ∧
      ((committedBand.hoist? 7).map (·.draining)) = some false ∧ committedBand.classOf 0x0602 < 3 ∧ committedBand.spareFor = some 14 ∧ (committedBand.pennant 14).work = [] ∧ committedBand.classOf 0x0603 < 3) ∧
    (∀ d ∈ [false, true], let h : Hoist := { committedBandHoist with draining := d }
      let s := { committedBand with render := { committedBand.render with hoists := [h] } }
      s.hoist? 7 = some h ∧ s.classOf 0x0602 < 3 ∧ s.classOf 0x0507 < 3 ∧ 0 < h.tables.widths.length ∧ 0 ∉ h.blanked) ∧
    (∀ l ∈ [[], [999999], [999999, 999998], [999999, 999998, 999997]], ((unitsIn .fenced .fenced l 0).pennant 3).state = .fenced ∧ ((unitsIn .fenced .fenced l 0).pennant 3).fencedCode ≠ 0 ∧
      ((unitsIn .fenced .fenced l 0).unit 0).state = .fenced ∧ ((unitsIn .fenced .fenced l 0).lane 0).state = .fenced ∧ ((unitsIn .fenced .fenced l 0).port 0).fencedAt + 10000000 ≤ max running.now 10000000) ∧
    (∀ n ∈ [2, 3], ((unitsIn .shadow .shadow [] n).pennant 3).state = .shadow ∧ ((unitsIn .shadow .shadow [] n).pennant 3).clean = n ∧ (unitsIn .shadow .shadow [] n).pos.armed = false ∧ ((unitsIn .shadow .shadow [] n).unit 0).state = .shadow ∧
      ((unitsIn .shadow .shadow [] n).lane 0).state = .shadow ∧ ∀ x ∈ [(0x0509, 3), (0x0403, 0), (0x0404, 0)], Detected (unitsIn .shadow .shadow [] n) x.1 x.2) ∧
    (∀ m ∈ [1, 2], (matching m).pos.armed = true ∧ ((matching m).pennant 3).state = .shadow ∧ ((matching m).pennant 3).clean = 3 ∧ ((matching m).pennant 3).matched = m) := by decide

/-- The table set of the two-headed bar, column 1,984 lying in its one zone. -/
def twoHeadTables : TableSet := (twoHeads running).tableSet 0

theorem witness_DotHasOneNozzle : twoHeadTables.geometry.covering 1984 = [0, 1] ∧ twoHeadTables.disabled 1984 = false ∧
    ({ twoHeadTables with outHeads := [] } : TableSet).missing 1984 = false ∧ ({ twoHeadTables with outHeads := [1] } : TableSet).nozzleFor 1984 0 1 = some (0, 0, 1984) ∧
    ({} : StitchZone).loaded = false ∧ 63 < 64 := by decide

/-! ## Web position, compare units and firing -/

/-- Channels 0 and 1 with a valid speed and a count; and a device with them. -/
def moving (c : Channel) : Channel := { c with stamps := [900000, 899000, 898000, 897000, 896000], counted := 5, stalled := false, since := 900000, advanced := true }
def withChannels (s : State) (c0 c1 : Channel) : State := { s with pos := { s.pos with channels := [c0, c1] } }
def turning : Channel := moving { count := -1, extreme := 1, a := false, b := false }

theorem witness_PositionChannels_edges :
    (let s := withChannels running turning {}
     -- quadrature: A rising at B low counts forward or back; both levels at once are illegal
     ((s.chan 0).a ≠ true ∧ (s.chan 0).b ≠ true ∧ (s.chan 0).set.mode ≠ 3) ∧ countStep (s.chan 0).set.mode false false true false = 1 ∧ countStep (s.chan 0).set.mode false false false true = -1 ∧
     (s.chan 0).extreme - ((s.chan 0).count + -1) = 3 ∧ (s.chan 0).extreme - ((s.chan 0).count + 1) = 1 ∧ (s.chan 0).set.hysteresis = 2 ∧ countStep 3 false false false true = 0) ∧
    (let s := withChannels running (moving {}) {}
     (s.chan 0).extreme - ((s.chan 0).count + 1) < 0 ∧ (s.chan 0).stalled = false ∧ (s.chan 0).since + (s.chan 0).set.stallMs * 1000000 ≤ max s.now 50900000 ∧
     max s.now 50899999 < (s.chan 0).since + (s.chan 0).set.stallMs * 1000000) := by decide

/-- POS0's H at 0, with two and three illegal transitions behind it. -/
def illegalBehind (n : Nat) : State := { running with pos := { running.pos with illegalAt := List.replicate n 0 } }

theorem witness_PositionChannels_illegal : ∀ n ∈ [2, 3], ((illegalBehind n).pos.illegalAt.filter fun x => decide (((illegalBehind n).tick 0).advance.pos.h ≤ x + 67108864)).length = n ∧
    (illegalBehind n).pos.illegalRaised = false ∧ Detected ((illegalBehind n).tick 0).advance 0x0701 0 := by decide

/-- Tick 16, with POS1 some lines behind; its limits are 1 and 4 lines, and a count is 4 µm. -/
def slipped (counts : Int) : State :=
  let s := withChannels running {} { set := { slipWarn := 16, slipStop := 64, pitchNum := 21166, pitchDen := 1 }, count := counts }
  { s with pos := { s.pos with tick := 16 } }
def slipOf (counts : Int) : Int := ((((slipped counts).chan 1).travel 1200 counts - 16 * 4194304).natAbs : Nat)

theorem witness_PositionChannels_slip : (running.pos.tick = running.pos.slipTick) ∧ ((slipped 1024).pos.tick % 16 = 0 ∧ (slipped 1024).pos.tick ≠ (slipped 1024).pos.slipTick ∧
      ((slipped 1024).chan 1).set.slipWarn ≠ 0 ∧ ((slipped 1024).chan 1).set.slipStop ≠ 0) ∧ slipOf 1024 ≤ 16 * 4096 ∧ (16 * 4096 < slipOf 1026 ∧ slipOf 1026 ≤ 64 * 4096) ∧ 64 * 4096 < slipOf 1100 := by decide

def encoderCmd (n : Nat) : JEntry := entry 0x0501 [BitVec.ofNat 8 n, 2, 0, 2, 2, 0, 1, 0, 0xA0, 0x0F, 0, 0, 50, 0, 0, 0, 0, 0]
def pitchCmd : JEntry := entry 0x0502 [0x58, 2]

theorem witness_PositionChannels_settings :
    (∀ n ∈ [0, 1, 5], Runs (alone running (encoderCmd n)) 0 1 0x0501 false (encoderCmd n) ∧ Checked encoderChecks (alone running (encoderCmd n)) 0 (encoderCmd n)) ∧ running.pos.zeroDue = false ∧ running.pos.armed = false ∧
    Runs (alone running pitchCmd) 0 1 0x0502 false pitchCmd ∧ Checked pitchChecks (alone running pitchCmd) 0 pitchCmd ∧ running.power.mode ≠ .hb8 := by decide

/-- SET_COMPARE of unit 0: mode, catch-up and actions, target 0 or one line, period 1. -/
def compareCmd (mode catchUp actions line : Nat) : JEntry :=
  entry 0x0503 [0, BitVec.ofNat 8 mode, BitVec.ofNat 8 catchUp, BitVec.ofNat 8 actions, 0, 0, 1, 0, 0, BitVec.ofNat 8 line, 0, 0, 0, 0, 0, 0, 1, 0, 0, 0]
def withUnit (s : State) (x : Compare) : State := { s with pos := { s.pos with units := [x] } }
def liveUnit (target : Int) : Compare := { set := { mode := 2, target := target, period := 1, actions := 7, seq := 3 }, live := true, openSeq := some 3 }
def setAtUnit (e : JEntry) (x : Compare) : State := withUnit (alone running e) x
def unmasked (s : State) : State := { s with host := { s.host with msix := List.replicate 16 { masked := false } } }
def unitCommand : JEntry := { entry 0x0503 [] with seq := 3, state := .running }

theorem witness_CompareUnits :
    (∀ c ∈ [(1, 0, 0, 1), (1, 0, 2, 0), (2, 0, 0, 0), (1, 1, 2, 0), (0, 0, 0, 0)], let e := compareCmd c.1 c.2.1 c.2.2.1 c.2.2.2
      Runs (setAtUnit e (liveUnit 256)) 0 1 0x0503 false e ∧ Checked compareChecks (setAtUnit e (liveUnit 256)) 0 e ∧
      ((setAtUnit e (liveUnit 256)).tick 0).advance.commitUnits.firingCommitted 0 = false ∧ ((setAtUnit e (liveUnit 256)).cmp 0).openSeq ≠ some 1) ∧
    ((setAtUnit (compareCmd 1 0 2 1) { liveUnit 256 with committed := some 50000000 }).tick 0).advance.commitUnits.firingCommitted 0 = true ∧
    (let s := withChannels (setAtUnit (compareCmd 1 0 2 1) { liveUnit 256 with instant := some 1000512 }) (moving {}) {}
     (s.cmp 0).live = true ∧ (s.cmp 0).committed = none ∧ (s.cmp 0).instant = some 1000512 ∧ (s.chan 0).valid = true ∧ (1000512 : Rat) ≤ ((max s.now 0 : Nat) : Rat) + 512) ∧
    ((compareOf 1 (compareCmd 1 0 0 1)).target = 256 ∧ (compareOf 1 (compareCmd 1 0 0 0)).target * 256 ≤ ((setAtUnit (compareCmd 1 0 0 0) (liveUnit 256)).tick 0).advance.pos.h) ∧
    (((setAtUnit unitCommand (liveUnit 0)).cmp 0).live = true ∧ ((((setAtUnit unitCommand (liveUnit 0)).tick 0).advance.commitUnits).cmp 0).committed = none ∧ (liveUnit 0).set.target * 256 ≤ ((setAtUnit unitCommand (liveUnit 0)).tick 0).advance.pos.h ∧ (liveUnit 0).next = [] ∧
      Running (setAtUnit unitCommand (liveUnit 0)) 3 ∧ (Tbl.get {} (unmasked running).host.msix 10).masked = false ∧ running.canSend = true ∧ running.power.mode ≠ .hb8) ∧
    (∀ l ∈ [[999999], [1000001]], (Tbl.get ({} : ComparePin) [{ pulses := l }] 0).pulses ≠ []) := by decide +kernel

/-- A device in which ARM_PRINT passes every check: a bar with one head in service, a valid speed, STOP_N high and no axis asked for. -/
def ready : State :=
  let s := oneHead running
  { s with
    pos := { s.pos with channels := [moving {}], stopN := true }
    ring := { s.ring with role := .worker }
    lines := { s.lines with geometry := { s.lines.geometry with leadNm := 1000000 } }
    heads := { s.heads with ports := [{ state := .inService, presLow := true }] }
    axes := [{ configured := true, homed := true, state := .rest, motion := none }] }
def armCmd : JEntry := entry 0x0505 []
def disarmCmd (form : Nat) : JEntry := entry 0x0506 [BitVec.ofNat 8 form]
def printingState (e : JEntry) : State := let s := armed (alone (withPage running (page .printing)) e); { s with pos := { s.pos with armHoist := 0 }, render := { s.render with lastOpened := some 64 } }
def firing (e : JEntry) : State := { armed (alone running e) with pos := { (armed running).pos with committed := [{ row := 0, line := 5, position := 0, f := 50000000, derated := false }] } }

theorem witness_ArmAndStop :
    (running.power.phase = .running ∧ ¬ (running.power.rearm = true) ∧ running.hb.waitArm = false) ∧
    (∀ f ∈ [0, 1], Runs (alone running (disarmCmd f)) 0 1 0x0506 false (disarmCmd f) ∧ (disarmCmd f).p8 0 = f ∧ running.pos.armed = false) ∧
    (Runs (armed (alone running (disarmCmd 1))) 0 1 0x0506 false (disarmCmd 1) ∧ (armed (alone running (disarmCmd 1))).pos.committed = []) ∧
    (Runs (firing (disarmCmd 1)) 0 1 0x0506 false (disarmCmd 1) ∧ (firing (disarmCmd 1)).pos.committed ≠ [] ∧ (firing (disarmCmd 1)).lines.changes = [] ∧ (firing (disarmCmd 1)).pos.lateDisarms = [] ∧ (printingState (disarmCmd 0)).pos.lateDisarms = [] ∧
      running.pos.lateDisarms = []) ∧
    (Runs (printingState (disarmCmd 0)) 0 1 0x0506 false (disarmCmd 0) ∧ (page .printing).first.any (printingState (disarmCmd 0)).windowOpened = true) := by decide

theorem witness_ArmAndStop_arm :
    ((alone ready armCmd).tick 0).advance.startable 1 0x0505 = some armCmd ∧ (alone ready armCmd).pos.disarmSeqs = [] ∧
    ((alone ready armCmd).tick 0).advance.armRefusal = none ∧ ((alone running armCmd).tick 0).advance.armRefusal = some (.denied, ⟨0, 0⟩) := by decide

/-- A row-line that waits for its instant at 1,000,672 ns, with or without the print path armed, and one committed for then. -/
def waitingRow : Pending := { row := 0, line := 5, position := 65536, instant := some 1000512 }
def waitingFire (s : State) : State := { s with pos := { s.pos with pending := [waitingRow], channels := [moving { set := { pitchNum := 21167, pitchDen := 1 } }] } }
def firesAt (f : Int) : State := { running with pos := { running.pos with committed := [{ row := 0, line := 5, position := 0, f := f, derated := false }] } }
def atLine (s : State) (l : Int) (k : Int) (h : Int) : State := { s with pos := { s.pos with line := l, tick := k, h := h } }

theorem witness_TicksAndFireInstants :
    (running.pos.h < (running.pos.line + 1) * 65536) ∧ ((atLine running 0 0 65536).pos.line + 1) * 65536 ≤ ((atLine running 0 0 65536).tick 0).advance.pos.h ∧
    ((0 + 1 : Int) * 4194304 ≤ ((atLine running 63 0 4194304).tick 0).advance.pos.h ∧ 64 * ((atLine running 63 0 4194304).pos.tick + 1) ≤ (atLine running 63 0 4194304).pos.line + 1) ∧
    ((atLine running 63 0 4194304).pos.zeroDue = false ∧ ({ running with pos := { running.pos with zeroDue := true } } : State).pos.zeroDue = true) ∧
    (running.classOf 0x0507 < 3) ∧ (Tbl.get 0 ({ running.lines with q := [256] } : LineStore).q 0).fdiv 256 = 1 ∧
    (max running.now 0 < 1000000 + 213333 ∧ running.pos.tickAt + 213333 ≤ max running.now 0) ∧ (running.firmwareRuns = true ∧ max running.pos.hoistTickAt running.heads.governor.ranAt + 1000000 ≤ max running.now 1000000) ∧
    (∀ f ∈ [50000000, 50008000], (firesAt f).pos.committed.find? (fun c => c.row == 0 && c.line == 5) = some { row := 0, line := 5, position := 0, f := f, derated := false } ∧ f ≤ ((max running.now 0 : Int) + 160) * 50) ∧
    ((50000000 : Int) ≤ (max running.now 0 : Int) * 50 ∧ (max running.now 0 : Int) * 50 < 50008000 ∧ ((firesAt 50008000).port 0).holds 0 5 = false) := by decide

theorem witness_TicksAndFireInstants_commit :
    (waitingFire running).pos.pending.find? (fun x => x.row == 0 && x.line == 5) = some waitingRow ∧ waitingRow.instant = some 1000512 ∧
    (1000512 : Rat) ≤ ((max running.now 0 : Nat) : Rat) + 512 + ((waitingFire running).tick 0).advance.settleMissing.lead 0 ∧
    (((waitingFire running).tick 0).advance.settleMissing.checkOverspeed.checkHeadRate).fireable waitingRow = false := by decide +kernel

/-! ## Heads -/

/-- A device with one head port. -/
def onePort (s : State) (p : HeadPort) : State := { s with heads := { s.heads with ports := [p] } }

/-- A head record of 132 bytes: serial 7, spacing 508,000 nm, 2,048 nozzles a row, 300 kHz, 60 °C; its CRC-32C was computed apart from the model. -/
def headRecord : List Byte := [0x48, 0x52, 0x45, 0x43, 1, 0, 132, 0, 7] ++ List.replicate 33 0 ++ [216, 19, 0, 8, 184, 11, 0, 0, 192, 3, 1, 0, 0, 0, 1] ++ List.replicate 71 0 ++ [16, 200, 90, 10]

theorem witness_HeadBringupSteps_record : recordValid headRecord = true ∧ recordValid [] = false := by decide +kernel

def bringupCmd : JEntry := entry 0x0601 [0, 1]
def recordCmd (src : Nat) : JEntry := entry 0x0603 (listRef ++ [0, BitVec.ofNat 8 src])
def training (step : Nat) : HeadPort := { state := .training, presLow := true, step := step, stepAt := 0, attempts := 1 }
def runningCmd (op : Nat) : JEntry := { entry op [] with state := .running }

theorem witness_HeadBringupSteps_presence :
    running.power.mode ≠ .factory ∧ running.power.standby = false ∧ ({ running with power := { running.power with mode := .factory } } : State).power.mode = .factory ∧
    ((running.port 8).state = .absent ∧ (8 : Nat) ≤ (8 : Fin 32).val ∧ ({ running with power := { running.power with mode := .hb8 } } : State).power.mode = .hb8) ∧
    portsFree running ∧ running.power.phase = .running ∧ (running.port 0).presLow ≠ true ∧ (running.port 0).presLow = false ∧
    (let x := ((onePort running { state := .present, presLow := true }).port 0)
     x.state = .present ∧ x.presLow = true ∧ x.presSince + 10000000 ≤ max running.now 10000000 ∧ ¬ x.presSince + 10000000 ≤ max running.now 9999999) ∧
    (let s := alone (onePort running { state := .training, bringupSeq := some 1 }) (runningCmd 0x0601)
     (s.port 0).presLow = false ∧ (s.port 0).state ≠ .absent ∧ (s.port 0).presSince + 10000000 ≤ max s.now 10000000 ∧ portsFree s ∧ (s.port 0).test = none ∧ (s.port 0).load = none ∧ (s.port 0).retiring = none ∧ Running s 1) := by decide

theorem witness_HeadBringupSteps_commands :
    (let s := alone (onePort running { state := .waiting, presLow := true }) bringupCmd
     Runs s 0 1 0x0601 false bringupCmd ∧ Checked headBringupChecks s 0 bringupCmd) ∧
    (∀ src ∈ [0, 1], let s := alone (onePort running { state := .waiting, presLow := true, record := some headRecord }) (recordCmd src)
     Runs s 0 1 0x0603 true (recordCmd src)) := by decide

theorem witness_HeadBringupSteps_read :
    (let s := alone (onePort running { state := .waiting, presLow := true, record := some headRecord }) (recordCmd 0)
     Checked (readRecordChecks (buffer 132) none) s 0 (recordCmd 0) ∧ s.recordFrom (recordCmd 0) none = some headRecord) := by decide

theorem witness_HeadBringupSteps_steps :
    (∀ step ∈ [0, 2, 3, 4, 5, 6], let s := onePort running (training step)
      portsFree s ∧ (s.port 0).state = .training ∧ (s.port 0).step = step ∧ (s.port 0).legacy = false ∧ (s.port 0).inBandFailed = false ∧ (s.port 0).pings.length < 15 ∧ (s.port 0).attempts < 4) ∧
    (∀ c ∈ [(2, 5000000), (3, 1000000), (4, 5000000), (5, 1000000), (6, 50000000)], stepLimit c.1 = some c.2 ∧ (training c.1).stepAt + c.2 ≤ max running.now c.2 ∧
      ¬ (training c.1).stepAt + (c.2 + 1000000) ≤ max running.now c.2) ∧ stepLimit 0 = none ∧
    (let s := alone (onePort running { training 5 with attempts := 4, bringupSeq := some 1, pings := List.replicate 15 0 }) (runningCmd 0x0601)
     4 ≤ (s.port 0).attempts ∧ Running s 1 ∧ 15 ≤ (s.port 0).pings.length) ∧
    (∀ r ∈ [false, true], let s := onePort running { training 4 with rate6 := r }
      (s.port 0).state = .training ∧ (s.port 0).step = 4 ∧ (s.port 0).rate6 = r ∧ (s.port 0).legacy = false ∧ portsFree s) ∧
    (let x : HeadPort := { training 2 with legacy := true }
     x.stepAt + 1000000 ≤ max running.now 0 ∧ x.legacy = true) ∧
    (∀ c ∈ [(false, false), (true, false), (true, true)], let s := onePort running { state := .record, step := 6, inBandFailed := c.1, legacy := c.2 }
      portsFree s ∧ (s.port 0).state = .record ∧ (s.port 0).step = 6) ∧
    (∀ c ∈ [(true, 2), (true, 1), (false, 0)], let s := { onePort running { state := .shadow, clean := c.2 } with pos := { running.pos with armed := c.1 } }
      (s.port 0).state = .shadow ∧ portsFree s ∧ (s.port 0).joinHoist = none) := by decide

/-- HEAD_RETIRE of port 0 in a form; a LOAD_WAVEFORM of set 0 for any head; SET_THERMAL_LIMITS of all ports; a NOZZLE_TEST of 8 nozzles. -/
def retireCmd (form : Nat) : JEntry := entry 0x0602 [0, BitVec.ofNat 8 form]
def waveCmd : JEntry := entry 0x0604 (listRef ++ [0, 0xFF, 0xFF, 0])
def waveData : HostList := { elems := [⟨16, true, false⟩], data := List.replicate 16 9 }
def limitsCmd : JEntry := entry 0x0605 [0xFF, 0, 0x20, 3, 0x80, 3, 32, 0, 32, 0]
def nozzleCmd : JEntry := entry 0x0606 (listRef ++ [0, 0, 0, 0, 8, 0])
def serving : HeadPort := { state := .inService, presLow := true, record := some headRecord, soft := 880, hard := 960 }

theorem witness_HeadsInService_retire :
    (let s := alone (onePort running { state := .retired }) (retireCmd 0)
     Runs s 0 1 0x0602 false (retireCmd 0) ∧ Checked headRetireChecks s 0 (retireCmd 0) ∧ (s.port 0).state = .retired) ∧
    (let s := alone (onePort running serving) (retireCmd 1)
     Runs s 0 1 0x0602 false (retireCmd 1) ∧ Checked headRetireChecks s 0 (retireCmd 1) ∧ s.portFires 0 = false ∧ (s.port 0).retiring = none ∧ (s.port 0).bringupSeq = none ∧
     (s.port 0).test = none ∧ (s.port 0).load = none) ∧
    (∀ f ∈ [0, 1], let s := armed (alone (onePort running serving) (retireCmd f))
     Runs s 0 1 0x0602 false (retireCmd f) ∧ Checked headRetireChecks s 0 (retireCmd f) ∧ s.portFires 0 = true ∧ (retireCmd f).p8 1 = f ∧ s.pos.committed = []) := by decide

theorem witness_HeadsInService_wave :
    (let s := alone running waveCmd
     Runs s 0 1 0x0604 true waveCmd ∧ Checked (loadWaveformChecks waveData) s 0 waveCmd ∧ (∀ n, n < 32 → (s.port n).runs = false ∧ (s.port n).state ≠ .waiting)) ∧
    (let s := alone (onePort running serving) waveCmd
     let w : Waveform := { model := bytesAt waveCmd.params 16 16, volumeKey := 255, speedKey := 255, curveBase := 0, data := waveData.data }
     Runs s 0 1 0x0604 true waveCmd ∧ Checked (loadWaveformChecks waveData) s 0 waveCmd ∧ (s.port 0).runs = true ∧ (s.port 0).legacy = false ∧
     ({ s with heads := { s.heads with waveforms := Tbl.put none s.heads.waveforms 0 (some w) } } : State).matchingSet 0 = some 0 ∧ (s.port 0).load = none ∧ (s.port 0).state ≠ .waiting) := by decide

theorem witness_HeadsInService_commands :
    (let s := alone (onePort running serving) limitsCmd
     Runs s 0 1 0x0605 false limitsCmd ∧ Checked thermalChecks s 0 limitsCmd ∧ 0 ∈ s.thermalPorts (limitsCmd.p8 0)) ∧
    (∀ st ∈ [PortState.inService, .waiting], let s := alone (onePort running { serving with state := st }) nozzleCmd
     Runs s 0 1 0x0606 true nozzleCmd ∧ Checked (nozzleTestChecks (buffer 2)) s 0 nozzleCmd ∧ (s.port 0).state = st) := by decide

theorem witness_HeadsInService_thermal :
    (∀ c ∈ [63, 64], let m := ((onePort running { serving with derated := true, coolTicks := c }).tick 0).settleMissing
     (m.port 0).derated = true ∧ (m.port 0).coolTicks = c) ∧
    (let s := onePort running serving
     ∀ c ∈ [0x0801, 0x0803, 0x0804, 0x0808], Detected s c 0) ∧
    (let s := { onePort running serving with power := { running.power with phase := .warmReset } }
     s.power.phase ≠ .running ∧ (s.port 0).state = .inService) ∧
    (let s := onePort running serving
     (s.port 0).linkLive = true ∧ (s.port 0).legacy = false ∧ portsFree s ∧ s.power.phase = .running ∧ (s.port 0).runs = true ∧ (s.port 0).watched = true ∧ (0 : BitVec 16).toInt < (s.port 0).soft - (s.port 0).hysteresis ∧
     (0 : BitVec 16).toInt < (s.port 0).hard ∧ (1 : BitVec 8) ≠ BitVec.ofInt 8 s.pos.tick ∧ ((880 : BitVec 16).toInt < (s.port 0).hard ∧ (s.port 0).soft ≤ (880 : BitVec 16).toInt) ∧
     (s.port 0).hard ≤ (960 : BitVec 16).toInt ∧ ((960 : BitVec 16) ≠ 0x8000)) ∧
    (let s := onePort running { state := .fenced, fencedCode := 0x0803, presLow := true }
     (s.port 0).linkLive = true ∧ (s.port 0).runs = false) ∧
    (let s := onePort running { serving with state := .fenced, fencedCode := 0x0801, presLow := true, outLine := some 0 }
     s.justOut 0 = true ∧ (s.port 0).legacy = false ∧ portsFree s ∧ (960 : BitVec 16) ≠ 0x8000 ∧ (s.port 0).hard ≤ (960 : BitVec 16).toInt) := by decide

def sentOnce (nakked : Bool) : HeadPort := { serving with sent := [{ row := 1, line := 5, bytes := [], nakked := nakked }] }

theorem witness_HeadsInService_blocks :
    (let s := onePort running { state := .shadow, echoExpect := some (0, 3) }
     (s.port 0).state = .shadow ∧ (0 : BitVec 8) = BitVec.ofInt 8 s.pos.tick ∧ (s.port 0).echoExpect = some (0, 3) ∧ portsFree s) ∧
    (∀ k ∈ [false, true], let s := onePort running (sentOnce k)
     (s.port 0).runs = true ∧ (s.port 0).legacy = false ∧ portsFree s ∧
     ((s.port 0).sent.find? (fun l => l.row == b2n true && BitVec.ofInt 16 l.line == 5)).map (·.nakked) = some k ∧
     (s.port 0).sent.find? (fun l => l.row == b2n false && BitVec.ofInt 16 l.line == 5) = none ∧ s.pos.committed = [] ∧ s.pos.pending = [] ∧ s.inverts 0 true = false) ∧
    (let s := onePort running { serving with syncCount := some 9, resuming := true }
     portsFree s ∧ (s.port 0).syncCount = some 9 ∧ (s.port 0).state = .inService ∧ (s.port 0).resuming = true ∧ s.power.rearm = false ∧ s.hb.waitArm = false) ∧
    (let w : WaveLoad := { set := 0, bank := 1, sentAt := 0, retried := false }
     let s := onePort running { serving with load := some w }
     s.power.rearm = false ∧ s.hb.waitArm = false ∧ (s.port 0).load = some w ∧ w.acked = false ∧ (s.port 0).runs = true ∧ w.sentAt + 5000000 ≤ max s.now 5000000 ∧ ¬ w.sentAt + 5000000 ≤ max s.now 4999999) ∧
    (let s := onePort running { training 5 with syncCount := some 9 }
     (s.port 0).syncCount = some 9 ∧ (s.port 0).state = .training ∧ (s.port 0).step = 5 ∧ portsFree s) := by decide

theorem witness_HeadsInService_tests :
    (let s := alone (onePort running { serving with test := some { seq := 1, first := 0, count := 2 } }) (runningCmd 0x0606)
     (s.port 0).test.isSome = true ∧ portsFree s ∧ Running s 1 ∧ (s.tick 0).canSend = true ∧ ([0, 1] : List Nat).length = 2 ∧
     (({ s with host := { s.host with busMaster := false } } : State).tick 0).canSend = false) ∧
    (let s := onePort running { serving with presLow := false }
     (s.port 0).runs = true ∧ (s.port 0).presLow = false ∧ (s.port 0).presSince + 10000 ≤ max s.now 0 ∧ ¬ (s.now + 1) + 10000 ≤ max s.now 0) ∧
    (let s := onePort running { serving with legacy := true }
     (s.port 0).legacy = true ∧ (s.port 0).runs = true ∧ portsFree s) := by decide

/-! ## The nozzle health loop -/

/-- A profile buffer for a colour: pitch 16, one sample, line start 0, 128 lines; and INSPECT_PROFILE of it. -/
def profileData (colour id : Nat) : HostList :=
  { elems := [⟨34, true, false⟩], data := [BitVec.ofNat 8 colour, 0, 0, 0, 16, 0, 0, 0, 0, 0, 0, 0, BitVec.ofNat 8 id] ++ List.replicate 11 0 ++ [0x80] ++ List.replicate 9 0 }
def inspectCmd : JEntry := entry 0x0701 listRef
def firedTo (h : Int) (s : State) : State := { s with pos := { s.pos with h := h } }
def inspecting (role : Role) : State := alone (firedTo (2 ^ 30) { running with ring := { running.ring with role := role, node := some 0, roster := [{ node := 3, identity := 8, colour := 5, webOffset := 0, eligible := true, calCheck := false, admitted := true }] }
                                                                               loop := { running.loop with recentIds := [7] } }) inspectCmd

theorem witness_HealthLoop_profiles :
    (Runs (inspecting .manager) 0 1 0x0701 true inspectCmd ∧ Checked (inspectChecks (profileData 5 6)) (inspecting .manager) 0 inspectCmd ∧ (inspecting .manager).forwards (profileData 5 6).data = true) ∧
    (∀ id ∈ [6, 7], Checked (inspectChecks (profileData 0 id)) (inspecting .manager) 0 inspectCmd ∧ (inspecting .manager).forwards (profileData 0 id).data = false ∧
      has (profileOf 1 none (profileData 0 id).data).id (inspecting .manager).loop.recentIds = (id == 7)) := by decide

def waitingProfile : Profile := profileOf 1 none (profileData 0 6).data
def profiled (history : List Period) : State :=
  let s := alone running (runningCmd 0x0701)
  { s with loop := { s.loop with waiting := [waitingProfile], history := history } }

theorem witness_HealthLoop_process : (∀ h ∈ [[], [emptyPeriod]], (profiled h).firmwareRuns = true ∧ (profiled h).loop.waiting = [waitingProfile] ∧ Running (profiled h) 1) ∧
    (profiled []).tooOld waitingProfile = true ∧ (profiled [{ emptyPeriod with k := 0 }]).tooOld waitingProfile = false ∧
    ((profiled [emptyPeriod]).tableSet 0).geometry.width = 0 := by decide

/-- A bar whose nozzle 0 may be flagged, and whose column 0 may be corrected. -/
def seenHead : State :=
  let s := oneHead (onePort running serving)
  { s with loop := { s.loop with seen := [(0, 16)] } }

theorem witness_HealthLoop_flags : (let p := running.loop.policy
    p.thetaW < p.thetaD) ∧ seenHead.loop.policy.actions.getLsbD 0 = true ∧ seenHead.headSeen 0 = true ∧ seenHead.loopMay 0 = true ∧ has 0 seenHead.probeHeld = false ∧
    seenHead.mayCorrect 0 = true ∧ 1 < seenHead.loop.policy.n := by decide

def probed : State := { running with loop := { running.loop with probes := [{ column := 3, toTest := [], phase := some 5, held := [3], startTick := -100000, startProfile := 0 }] } }
def policyOf (m : Nat) : JEntry :=
  entry 0x0702 [7, BitVec.ofNat 8 m, 8, 0, 200, 0, 0x20, 3, 100, 0, 100, 0, 0x20, 3, 0, 4, 8, 0, 0, 4, 16, 0, 10, 0, 0, 32, 0, 64]
def overrideCmd (form : Nat) : JEntry := entry 0x0703 (listRef ++ [BitVec.ofNat 8 form, 0, 0, 0, 4, 0, 0, 0, 2, 0, 0, 0])
def overrideData : HostList := { elems := [⟨4, true, false⟩], data := [9, 0, 0, 0x0A] }

theorem witness_HealthLoop_commands :
    ((probed.probe? 3).isSome = true ∧ (probed.loop.policy.probeTimeout : Int) ≤ probed.pos.tick - (-100000) ∧ probed.firmwareRuns = true) ∧
    (∀ m ∈ [3, 4], Runs (alone running (policyOf m)) 0 1 0x0702 false (policyOf m) ∧ Checked loopPolicyChecks (alone running (policyOf m)) 0 (policyOf m)) ∧
    (∀ f ∈ [0, 1], let e := overrideCmd f
      Runs (alone running e) 0 1 0x0703 (e.p8 12 != 1) e ∧ Checked (overrideChecks overrideData) (alone running e) 0 e ∧ e.p8 12 = f) ∧
    overrideRecords overrideData.data = [(9, 0x0A)] ∧ running.loop.probes = [] := by decide

/-! ## The halyard ring -/

/-- A chip with port E in a condition and port W up; and a manager or a member of a ring. -/
def linked (h : Halyard) : State := { running with ring := { running.ring with east := h, west := { state := .inService } } }
def halyard (st : HalyardState) : Halyard := { state := st }

theorem witness_HalyardLinksAndTime_training :
    (∀ trips ∈ [List.replicate 14 9, List.replicate 15 9], let h : Halyard := { halyard .training with lock := true, trips := trips }
      h.state = .training ∧ h.lock = true ∧ h.confirmSent = false) ∧
    ((halyard .training).lock = false ∧ (halyard .training).trained = true ∧ (halyard .down).trained = false) ∧
    ((halyard .inService).dlyAt + 1000000 ≤ max running.now 0 ∧ max running.now 0 < (1 : Nat) + 1000000) ∧
    (∀ n ∈ [3, 4], let h : Halyard := { halyard .training with attempts := n, resetCmd := some (1, 0) }
      h.shadowNext = false ∧ h.attemptAt + 10000000 ≤ max running.now 10000000 ∧ ¬ h.attemptAt + 10000000 ≤ max running.now 9999999) ∧
    Running (alone (linked (halyard .training)) (runningCmd 0x0104)) 1 ∧
    (running.linksReleased = true ∧ (let h : Halyard := { halyard .down with attempts := 1 }
      h.attempts ≠ 0 ∧ h.attemptAt + 1000000 ≤ max running.now 0) ∧ (halyard .failed).attemptAt + 100000000 ≤ max running.now 100000000) ∧
    (let h : Halyard := { halyard .shadow with clean := 3 }
     h.confirmSent = false ∧ h.shadowBad = false ∧ 3 ≤ h.clean) := by decide

theorem witness_HalyardLinksAndTime_failures :
    (∀ st ∈ [HalyardState.shadow, .inService], let u := (linked (halyard st)).tick 0
      u.linksReleased = true ∧ Detected u 0x0901 (sideIndex .e) ∧ (linked (halyard st)).linkUp (otherSide .e) = true) ∧
    (∀ h ∈ [{ halyard .training with confirmSent := true }, { halyard .loopback with loop := 4 }], Detected (linked h) 0x0901 (sideIndex .e) ∧ h.state ≠ .inService) ∧
    (let h : Halyard := halyard .training
     h.state ≠ .shadow ∧ h.confirmSent = false ∧ h.state ≠ .loopback) ∧
    8 < (((linked { halyard .inService with crcTimes := List.replicate 9 999999 }).tick 0).recentCrc .e).length ∧
    (((linked { halyard .inService with crcTimes := List.replicate 8 999999 }).tick 0).recentCrc .e).length ≤ 8 ∧
    (let h : Halyard := { halyard .loopback with loop := 4 }
     h.state = .loopback ∧ h.loop = 4 ∧ (halyard .inService).trained = true) := by decide

/-- A worker whose calendar is valid, and a TIME block on port E of its own time, 1,000 ns and 1,001 ns on. -/
def timed (valid : Bool) : State :=
  let s := linked (halyard .inService)
  { s with ring := { s.ring with role := .worker, calValid := valid, tai := some 0 } }

theorem witness_HalyardLinksAndTime_time :
    (∀ v ∈ [true, false], let s1 := ((timed v).tick 0).updHalyard .e fun h => { h with hops := some 0 }
      (timed v).linkUp .e = true ∧ (timed v).ring.role ≠ .manager ∧ s1.ring.follows .e = true ∧ s1.wholeTime 1001000 = some 1001000 ∧ s1.wholeTime 1001001 = some 1001001) ∧
    ((1001000 + 0 - (timed true).ring.calAt 1000000).natAbs ≤ 1000 ∧ 1000 < (1001001 + 0 - (timed true).ring.calAt 1000000).natAbs) ∧
    ((timed true).ring.timeSentAt + 1000000 ≤ max (timed true).now 0 ∧ (timed true).ring.timeLost = false ∧ (timed true).ring.timeSeen + 2000000 ≤ max (timed true).now 2000000) := by decide

/-- A ring of node 0 and node 3; a packet to node 0, to all, and to the manager. -/
def ringWith (role : Role) : State :=
  let s := linked (halyard .inService)
  { s with ring := { s.ring with role := role, node := some 0, epoch := 2, manager := some 3, deliveries := [{ src := 3, dst := 0, incarnation := 4, delivered := 6 }], roster := [
    { identity := 8, node := 3, colour := 5, webOffset := 0, eligible := true, calCheck := false, admitted := true },
    { identity := 9, node := 4, colour := 6, webOffset := 0, eligible := true, calCheck := false, admitted := false }] } }
def pkt (dst sq : Nat) : PktHdr := { port := .e, src := 3, dst := dst, hops := 0, role := false, shadow := false, crcOk := true, incarnation := 4, sq := sq }
def beaconOf (epoch : Nat) : BeaconMsg := { epoch := epoch, manager := 3, standby := none, generation := 1, count := 2, taiSeconds := 0 }

theorem witness_RingPackets_unacknowledged :
    (∀ r ∈ [Role.guest, .worker, .standby, .manager], Arrives (ringWith r) (pkt 0xFF 1) ∧ Arrives (ringWith r) (pkt 0 7) ∧ has 1 (SMap.get [] (ringWith r).ring.counts (1 + 16 * 3)) = false) ∧
    ((ringWith .worker).ring.manager.any (· != (beaconOf 2).manager) = false ∧ (ringWith .worker).ring.manager.any (· != 4) = true ∧ (beaconOf 1).epoch < (ringWith .worker).ring.epoch ∧ (ringWith .worker).ring.epoch ≤ (beaconOf 2).epoch ∧ (ringWith .manager).ring.epoch < (beaconOf 3).epoch) ∧
    (let s : State := alone { ringWith .manager with ring := { (ringWith .manager).ring with handoverSeq := some 1 } } (runningCmd 0x0804)
     s.ring.transactions = [] ∧ Running s 1) ∧
    (∀ st ∈ [HalyardState.shadow, .inService, .down, .loopback], packetOf (.probe (pkt 0 7) 0) = some (pkt 0 7, 0) ∧ ((linked (halyard st)).ring.port (pkt 0 7).port).state = st ∧ Detected (linked (halyard st)) 0x0901 (sideIndex (pkt 0 7).port)) ∧
    (let s := { linked (halyard .inService) with flt := { running.flt with injections := [{ checker := 0x0E, double := false, unit := 0, left := 1 }] } }
     s.shotAt 0x0E (sideIndex (pkt 0 7).port) = true ∧ (running.shotAt 0x0E 0) = false) ∧
    ((ringWith .manager).ring.roster.find? (·.identity == 9)).map (·.admitted) = some false ∧ max (ringWith .manager).now 0 ≤ (ringWith .manager).ring.electedAt + 2000000000 ∧
    (8 ≠ (ringWith .worker).fuses.identity ∧ (ringWith .worker).ring.node.isSome = true) := by decide

theorem witness_RingPackets_delivery :
    (∀ r ∈ [Role.worker, .standby], InOrder (ringWith r) (pkt 0 7) { src := 3, dst := 0, incarnation := 4, delivered := 6 } ∧ (pkt 0 7).dst ≠ 0xFD ∧ (pkt 0 6).sq ≤ 6 ∧
      (ringWith r).ring.mirrored = [] ∧ (ringWith r).ring.unacked = [] ∧ (∀ x ∈ (ringWith r).ring.deliveries, x.dst ≠ 0xFD)) ∧
    InOrder (ringWith .guest) (pkt 0 7) { src := 3, dst := 0, incarnation := 4, delivered := 6 } ∧ Arrives (ringWith .guest) (pkt 0xFE 7) (some (ringWith .guest).fuses.identity) ∧
    (∀ st ∈ [PageState.stored, .fired], let s : State := { withPage (ringWith .worker) (page st) with pos := running.pos }
      (s.syncPage? 0 5).isSome = true ∧ s.ring.syncStopped = false ∧ s.pos.armed = false) ∧
    (∀ g ∈ [0, 7], let h : PktHdr := { pkt 0 1 with src := if g = 0 then 3 else 0xFE, guest := g }
      Arrives (ringWith .worker) h (some h.guest) ∧ has h.sq (SMap.get [] (ringWith .worker).ring.counts (4 + 16 * (h.src + 256 * if h.src = 0xFE then h.guest else 0))) = false) ∧
    ((running.chan 0).stalled = true ∧ (running.chan 0).edges = []) := by decide

theorem witness_RingPackets_profile : let s := firedTo (2 ^ 30) (ringWith .worker)
    let d := (profileData 0 6).data
    firstBad ((decide (d.length = 32 + 2 * (leAt d 2 2 + 1)), .length d.length) :: profileConds (s.tick 0) d ++ dataOk 0 [(0, s.ownProfile d)]) = none ∧ s.loop.waiting.length < 8 ∧
    has (leAt d 12 4) s.loop.recentIds = false ∧ d.length < profileChunk ∧ SMap.get [] s.ring.profileIn 7 = [] ∧
    (profileChunk ≤ (List.replicate 2032 (0xFF : Byte)).length) := by decide +kernel

/-- The manager with a packet record to its role, with a standby, and with a transaction that waits. -/
def managing (standby : Option Nat) (trs : List Transaction) : State :=
  let s := alone (ringWith .manager) (runningCmd 0x0803)
  { s with ring := { s.ring with standby := standby, transactions := trs, deliveries := [{ src := 3, dst := 0xFD, incarnation := 4, delivered := 6 }] } }
def waitingTr : Transaction := { mirrorSq := 2, coversSrc := 0, coversSq := 0, packets := [], command := some (1, 0, 0) }
def lateUnacked (b : Payload ⊕ MirrorMsg) : Unacked := { src := 0xFD, dst := 3, sq := 5, sentAt := 0, resentAt := 0, body := b }

/-- A manager whose sync group 1 has nodes 3 and 6. -/
def grouped : State :=
  let s := managing none []
  { s with ring := { s.ring with
    groups := [(1, 3, 0), (1, 6, 0)]
    roster := s.ring.roster ++ [{ identity := 11, node := 6, colour := 7, webOffset := 0, eligible := true, calCheck := false, admitted := true }] } }

/-- A packet whose acknowledgement has not come, and a forwarded profile that its worker has not accepted. -/
def unaccepted : State :=
  let s := managing none []
  { s with ring := { s.ring with forwarded := [{ seq := 1, node := 3, sentAt := 0 }] } }

theorem witness_RingPackets_role :
    (InOrder (managing none []) (pkt 0xFD 7) { src := 3, dst := 0xFD, incarnation := 4, delivered := 6 } ∧ NoStandby (managing none []) ∧ Arrives (managing none []) (pkt 0xFD 7) ∧
      (managing none []).ring.syncPages = [] ∧ grouped.ring.syncPages = [] ∧ Arrives grouped (pkt 0xFD 7) ∧ NoStandby grouped ∧ grouped.ring.role = .manager ∧
      InOrder grouped (pkt 0xFD 7) { src := 3, dst := 0xFD, incarnation := 4, delivered := 6 } ∧ grouped.allReported { group := 1, page := 5, reports := [(3, 64)], since := 1000000 } = false) ∧
    (let s := managing (some 3) [waitingTr]
     Arrives s (pkt 0xFD 0) (some 0) ∧ has 0 (SMap.get [] s.ring.counts (4 + 16 * 3)) = false ∧ s.ring.standby = some 3 ∧ s.ring.transactions = [waitingTr] ∧ Running s 1) ∧
    (let b : Payload ⊕ MirrorMsg := .inl (.speed 1 2)
     (lateUnacked b).resentAt + 200000 ≤ max (1000000 : Nat) 0 ∧ max (1000000 : Nat) 0 < (lateUnacked b).sentAt + 50000000 ∧ (lateUnacked b).sentAt + 50000000 ≤ max 1000000 50000000) ∧
    (unaccepted.ring.unacked.find? (fun x => x.dst == 3 && x.sq == 5 && decide (x.sentAt + 50000000 ≤ 50000000)) = none ∧ unaccepted.ring.unacked = [] ∧ Running unaccepted 1 ∧
      0 + 50000000 ≤ max unaccepted.now 50000000 ∧ max unaccepted.now 49999999 < 0 + 50000000) := by decide

def admitCmd : JEntry := entry 0x0802 (leBytes 16 9)
def expelCmd : JEntry := entry 0x0803 (leBytes 16 8)
def roleCmd (flags : Nat) : JEntry := entry 0x0804 [BitVec.ofNat 8 flags, 4, 0, 0, 100, 0, 0, 0]
def policySpeed : JEntry := entry 0x0805 ([0x7F, 0, 1, 1, 0, 0, 0, 0, 0, 0, 0, 0, 100, 0, 100, 0, 0, 0, 1, 0, 1, 0xFF])
def knowing (e : JEntry) (standby : Option Nat) : State :=
  let s := alone (ringWith .manager) e
  { s with power := { s.power with mgrEn := true }, ring := { s.ring with
    standby := standby, heard := [{ identity := 9, node := none, role := 0, colour := 6, lead := 8, eligible := true, standby := false, heardE := some 1000000, heardW := none }] } }

theorem witness_RingRoles_commands :
    (let e := entry 0x0801 listRef
     Runs (alone running e) 0 1 0x0801 true e ∧ Checked (fun _ e => ({ params := listRefOk e 0 ++ listOk 0 (buffer 512) (fun n => decide (512 ≤ n)) } : Checks)) (alone running e) 0 e) ∧
    (∀ sb ∈ [none, some 3], Runs (knowing admitCmd sb) 0 1 0x0802 false admitCmd ∧ Checked admitChecks (knowing admitCmd sb) 0 admitCmd ∧
      ((knowing admitCmd sb).ring.heard.find? (fun h => h.identity == admitCmd.identity)).isSome = true ∧ (((knowing admitCmd sb).tick 0).admissionEntry 9 6 true).isSome = true) ∧
    (∀ sb ∈ [none, some 4], Runs (knowing expelCmd sb) 0 1 0x0803 false expelCmd ∧ Checked expelChecks (knowing expelCmd sb) 0 expelCmd ∧
      ((knowing expelCmd sb).ring.members.find? (·.identity == expelCmd.identity)).map (·.node) = some 3 ∧ (knowing expelCmd sb).ring.appointing = none) := by decide

theorem witness_RingRoles_settings :
    (Runs (knowing (roleCmd 6) none) 0 1 0x0804 false (roleCmd 6) ∧ Checked roleChecks (knowing (roleCmd 6) none) 0 (roleCmd 6) ∧ bitOf ((roleCmd 6).p8 0) 0 = false ∧ NoStandby (knowing (roleCmd 6) none)) ∧
    (Runs (knowing (roleCmd 1) (some 3)) 0 1 0x0804 false (roleCmd 1) ∧ Checked roleChecks (knowing (roleCmd 1) (some 3)) 0 (roleCmd 1) ∧ bitOf ((roleCmd 1).p8 0) 0 = true ∧
      (knowing (roleCmd 1) (some 3)).ring.transactions = []) ∧
    (Runs (knowing policySpeed none) 0 1 0x0805 false policySpeed ∧ Checked speedChecks (knowing policySpeed none) 0 policySpeed) := by decide

/-- A chip of the ring with an election under way. -/
def electing (role : Role) (e : Election) : State :=
  let s := ringWith role
  { s with power := { s.power with mgrEn := true }, ring := { s.ring with election := e, upAt := some 0, count := 2 } }

theorem witness_RingRoles_election :
    ((electing .standby .idle).ring.role = .standby ∧ ((electing .standby .idle).tick 0).silentFor 1000000 = true ∧ (electing .standby .idle).ring.election = .idle) ∧
    (((electing .worker .idle).tick 20000000).silentFor 20000000 = true ∧ ((electing .worker .idle).tick 19999999).silentFor 20000000 = false ∧ (electing .worker .idle).ring.upAt.isSome = true ∧
      (electing .worker .idle).power.mgrEn = true) ∧
    (∀ r ∈ [Role.worker, .standby], (electing r (.probing 0 [3])).ring.count < 2 * (1 + 1) ∧ 2 * (([] : List Nat).length + 1) ≤ (electing r (.probing 0 [])).ring.count ∧
      (electing r (.probing 0 [])).ring.mirrored = [] ∧ (electing r (.probing 0 [])).ring.unacked = []) ∧
    (running.firmwareRuns = true ∧ running.ring.upAt = none ∧ (linked { everTried := true }).linkUp .w = true ∧ ((linked { everTried := true }).ring.port .e).everTried = true) ∧
    ((electing .guest (.listening 0)).ring.manager.isSome = true ∧ 0 ≤ (electing .guest (.listening 0)).ring.beaconAt ∧ (electing .guest (.listening 5)).ring.beaconAt < 5) ∧
    ((electing .guest (.claimed 5 1)).ring.lowerClaim = false ∧ ¬ 5 ≤ (electing .guest (.claimed 5 1)).ring.beaconAt) := by decide

theorem witness_RingRoles_periods :
    (let s := ringWith .manager
     s.ring.handoverSeq = none ∧ s.flt.faultState = false ∧ s.firmwareRuns = true ∧ s.ring.beaconSent + 100000 ≤ max s.now 0 ∧ s.ring.nodeSentAt + 1000000 ≤ max s.now 0 ∧ s.ring.postedV = none) ∧
    (let s : State := { ringWith .manager with ring := { (ringWith .manager).ring with unreached := [(3, 0)] } }
     s.ring.unreached.find? (fun x => x.1 == 3) = some (3, 0) ∧ 0 + s.ring.holdMs * 1000000 ≤ max s.now 100000000 ∧ ¬ 0 + s.ring.holdMs * 1000000 ≤ max s.now 99999999) ∧
    (let s : State := { ringWith .manager with ring := { (ringWith .manager).ring with standby := some 3 } }
     has 3 (s.tick 0).knownNodes = true ∧ (s.tick 0).reaches 3 = false ∧ s.ring.unreached.any (·.1 == 3) = false) ∧
    (let s : State := { managing none [] with ring := { (managing none []).ring with syncPages := [{ group := 1, page := 5, reports := [(3, 64)], since := 0 }] } }
     NoStandby s ∧ (s.ring.syncPages.find? (fun x => x.group == 1 && x.page == 5)).isSome = true ∧ 0 + s.ring.holdMs * 1000000 ≤ max s.now 100000000 ∧ s.syncPage? 1 5 = none ∧ s.ring.others = [3]) ∧
    (let s : State := { managing none [] with ring := { (managing none []).ring with forwarded := [{ seq := 1, accepted := some 0 }] } }
     s.ring.forwarded.any (fun f => f.seq == 1 && f.accepted.any (fun a => decide (a + 1000000000 ≤ max s.now 1000000000))) = true ∧ Running s 1) ∧
    (∀ r ∈ [Role.manager, .worker, .standby], (ringWith r).ring.offsetTriedAt + 1000000 ≤ max (ringWith r).now 0 ∧ (ringWith r).ring.offset = none ∧ (ringWith r).ring.offsetEdge = none ∧ (running.chan 0).edges = [] ∧ (running.chan 0).stalled = true ∧
      (withChannels running { stalled := false } {}).chan 0 = { stalled := false }) := by decide

/-! ## Motion axes -/

/-- Axis 1 in a condition, and STOP_N released. -/
def withAxis (s : State) (a : Axis) : State := { s with axes := [{}, a] }
def axisLimits : AxisLimits := { start := 1, stop := 1, brk := 2, cruise := 100, a1 := 5, a2 := 5, d2 := 5, d1 := 5, softMin := -1000, softMax := 1000 }
def going : State := { running with pos := { running.pos with stopN := true } }
def restAxis : Axis := { state := .rest, configured := true, limits := some axisLimits, limpLevel := true, limnLevel := true, homeLevel := true }
def someMotion (k : MotionKind) : Motion := { kind := k, seq := some 1, target := 100, cruise := 0, segments := [{ span := 1, pos := 0, speed := 100, accel := 0 }], startTick := 1, endsAt := some 5 }
def movingAxis (k : MotionKind) : Axis := { restAxis with motion := some (someMotion k) }
def axisConfigCmd (n : Nat) : JEntry := entry 0x0901 [BitVec.ofNat 8 n, 2, 0, 0, 0, 0, 0, 0]
def limitsAxisCmd : JEntry := entry 0x0906 ([1, 0, 0, 0] ++ leBytes 4 1 ++ leBytes 4 1 ++ leBytes 4 2 ++ leBytes 4 100 ++ leBytes 4 5 ++ leBytes 4 5 ++ leBytes 4 5 ++ leBytes 4 5 ++ leBytes 4 0 ++ leBytes 4 1000)
def moveAxisCmd (rel : Nat) : JEntry := entry 0x0902 ([1, BitVec.ofNat 8 rel, 0, 0] ++ leBytes 4 100)
def jogAxisCmd (op : Nat) : JEntry := entry op ([1, 0, 0, 0] ++ leBytes 4 50 ++ leBytes 4 7)
def stopAxisCmd : JEntry := entry 0x0904 [1]

theorem witness_MotionAxes_settings :
    (∀ n ∈ [0, 1, 3], Runs (alone running (axisConfigCmd n)) 0 1 0x0901 false (axisConfigCmd n) ∧ Checked axisConfigChecks (alone running (axisConfigCmd n)) 0 (axisConfigCmd n)) ∧
    (Runs (alone running limitsAxisCmd) 0 1 0x0906 false limitsAxisCmd ∧ Checked axisLimitsChecks (alone running limitsAxisCmd) 0 limitsAxisCmd ∧ (running.axis 1).motion = none ∧ (movingAxis .stop).steady = false) ∧
    (let s := alone (withAxis running restAxis) stopAxisCmd
     Runs s 0 1 0x0904 false stopAxisCmd ∧ Checked (fun _ e => ({ params := [fieldOk 0 (decide (e.p8 0 ≤ 3) || e.p8 0 == 0xFF)] } : Checks)) s 0 stopAxisCmd ∧ (∀ k, k < 4 → 1 ∉ (s.axis k).stops) ∧
     (s.axis 1).stops = []) := by decide

theorem witness_MotionAxes_motions :
    (∀ rel ∈ [0, 1], let s := alone (withAxis going restAxis) (moveAxisCmd rel)
      Runs s 0 1 0x0902 false (moveAxisCmd rel) ∧ Checked axisMoveChecks s 0 (moveAxisCmd rel) ∧ (s.axis 1).limits = some axisLimits ∧ (s.axis 1).limitActive true = false ∧ (s.axis 1).stopFirst = none) ∧
    (let a : Axis := { restAxis with motion := some { someMotion .stop with rank := 5 } }
     a.stopFirst.isSome = true) ∧
    (∀ op ∈ [0x0903, 0x0905], let s := alone (withAxis going { restAxis with limpLevel := false }) (jogAxisCmd op)
      Runs s 0 1 op false (jogAxisCmd op) ∧ Checked axisJogChecks s 0 (jogAxisCmd op) ∧ (s.axis 1).limitActive true = true) := by decide +kernel

theorem witness_MotionAxes_cycles :
    (running.axisCycle ≤ max running.now 0 / 31250 ∧ (∀ k, k < 4 → (running.axis k).motion = none ∧ (running.axis k).followLimit = 0 ∧ (running.axis k).staged = none) ∧
      max running.now 0 / 31250 < 33 ∧ ¬ (running.power.phase = .powerOnReset ∨ running.power.phase = .warmReset ∨ running.power.phase = .retuned)) ∧
    (∀ c ∈ [(0, 2), (1, 2)], c.1 % max 1 c.2 = c.1) := by decide

theorem witness_MotionAxes_replies :
    (let a : Axis := { restAxis with replied := false, badRun := 2 }
     let s := withAxis running a
     (s.axis 1).replied = false ∧ (s.axis 1).configured = true ∧ s.shotAt 0x0F 1 = false ∧ Detected (s.tick 0) 0x0A03 1 ∧ Detected (s.tick 0) 0x0A02 1 ∧ s.flt.injections = [] ∧ a.replyOk 1 [] = false) ∧
    (let a : Axis := { restAxis with replied := false }
     let reply := fun (f : Byte) => ([0x51, f, 0] : List Byte) ++ [crc8 [0x51, f, 0]]
     a.replyOk 1 (reply 1) = true ∧ bitOf (leAt (reply 1) 1 1) 1 = false ∧ a.replyOk 1 (reply 2) = true ∧ bitOf (leAt (reply 2) 1 1) 1 = true) := by decide

theorem witness_MotionAxes_inputs :
    (∀ ramp ∈ [false, true], let a : Axis := { movingAxis .move with rampP := ramp, limpLevel := false }
      a.goesUp (someMotion .move) = some true ∧ a.limitActive true = true ∧ (someMotion .move).homing = false ∧ (if true then a.rampP else a.rampN) = ramp ∧ a.stops = []) ∧
    (let a : Axis := { movingAxis .move with limnLevel := false }
     a.goesUp (someMotion .move) = some true ∧ a.limitActive false = true ∧ a.limitActive true = false) ∧
    Running (alone (withAxis running (movingAxis .move)) (runningCmd 0x0902)) 1 ∧
    (let off : Axis := { movingAxis .homeOff with homeLevel := true }
     off.homeActive = false) ∧ (let search : Axis := { movingAxis .homeSearch with homeLevel := false }
     search.homeActive = true ∧ search.limits = some axisLimits) ∧
    ((someMotion .jog).endsAt = some 5 ∧ 5 ≤ max running.now 0 ∧ (movingAxis .jog).motion = some (someMotion .jog)) := by decide +kernel

/-! ## SDRAM -/

/-- A trained SDRAM of 8 GB in two ranks. -/
def sdram : State := { running with dmc := { running.dmc with trained := true, selfRefresh := false, gigabytes := 8, ranks2 := true, powerDownDelay := 1 } }

theorem witness_SdramTasks :
    (sdram.sdramOn = true ∧ { running with dmc := { running.dmc with trained := false } }.sdramOn = false) ∧
    (sdram.dmc.mr4At + 32000000 ≤ max sdram.now 32000000 ∧ ¬ sdram.dmc.mr4At + 32000000 ≤ max sdram.now 31999999) ∧
    (Tbl.get 0 sdram.dmc.zqAt 3 + 128000000 ≤ max sdram.now 128000000 ∧ ¬ Tbl.get 0 sdram.dmc.zqAt 3 + 128000000 ≤ max sdram.now 127999999) ∧
    (sdram.dmc.powerDownDelay ≠ 0 ∧ sdram.dmc.powerDownDelay * 64000 ≤ (max sdram.now 0 - Tbl.get 0 (sdram.tick 0).dmcNow.rankSince 1) * 1400) ∧
    (∀ c ∈ [(0x8000000, 2), (0x9000000, 3), (0x29000000, 4), (0x8FFFFFF, 2), (0x28FFFFFF, 3), (0x1FC000000, 5)], sdram.dmc.region c.1 = c.2) ∧
    (∀ c ∈ [(0x0B01, 4), (0x0B02, 3), (0x0B03, 4)], Detected (sdram.tick 0) c.1 c.2) ∧ sdram.flt.injections = [] ∧
    ((sdram.tick 0).dmcNow.requests = [] ∧ (sdram.tick 0).pagesInLead = []) ∧
    (sdram.dmc.oscAt + 1000000 ≤ max sdram.now 0 ∧ max sdram.now 0 < (1 : Nat) + 1000000) ∧
    (let s := { alone sdram { entry 0x0201 [] with state := .done } with journal := { sdram.journal with next := 2, entries := [{ entry 0x0201 [] with state := .done }] } }
     s.entry? 1 = some { entry 0x0201 [] with state := .done } ∧ JState.final .done = true ∧ s.inRing { entry 0x0201 [] with state := .done } = true ∧ sdram.dmc.region 0x4000040 = 1 ∧
      1 % 65536 = (0x4000040 - 0x4000000) / 64) := by decide

/-- The trained SDRAM, armed, with one page block, which holds a page that the next hoist needs: its rank is the first of its channel. -/
def needing : State :=
  let s := armed (withPage sdram (page .stored))
  { s with store := { s.store with totalBlocks := 1 }, pos := { s.pos with tick := 63 } }

theorem witness_SdramTasks_needed : page .stored ∈ (needing.tick 0).pagesInLead ∧ ∀ i, i < (page .stored).blocks → needing.dmc.rankOf (needing.blockAddress (page .stored).seq i) % 2 = 0 := by
  refine ⟨by decide, fun i _ => ?_⟩
  have h : needing.blockAddress (page .stored).seq i = 0x29000000 := by
    show 0x29000000 + 65536 * (Config.pageBlock _ i % 1) = 0x29000000
    rw [Nat.mod_one]
  rw [h]
  decide

/-! ## HB-8 mode -/

/-- HB-8 mode with the register window in a condition. -/
def window (h : Hb) : State := { hb8 with hb := { h with openBar := true } }

theorem witness_Hb8Window_enable :
    ((window {}).hbOpen = true ∧ running.hbOpen = false) ∧
    (let u1 : State := { (window {}).tick 0 with hb := { (window {}).hb with enable := true, waitArm := true } }
     u1.armVerdict.isSome = true) ∧
    (let s : State := { ready with power := { ready.power with mode := .hb8 }, hb := { openBar := true } }
     let u1 : State := { s.tick 0 with hb := { s.hb with enable := true, waitArm := true } }
     s.hbOpen = true ∧ s.hb.enable = false ∧ u1.armVerdict = none ∧ s.host.ready = true ∧ s.power.phase = .running) ∧
    ((window { enable := true }).hb.enable = true ∧ (window { enable := true }).hbOpen = true) := by decide

theorem witness_Hb8Window_raster :
    ((window {}).hb.dma = false ∧ (window {}).power.phase = .running ∧ (({} : Hb).partialLine ++ List.replicate 8 0).length < ({} : Hb).lineBytes ∧ ({} : Hb).lineBytes = 2048) ∧
    (let s : State := { window {} with power := { (window {}).power with phase := .warmReset } }
     s.hbOpen = true ∧ s.power.phase ≠ .running) ∧
    (∀ l ∈ [(703 : Int), 704], let h : Hb := { nextLine := some l }
      h.lines.length < 1024 ∧ h.openPage.length < 127 ∧ (((window h).tick 0).highWater < 64 * (l.fdiv 64 - 10) * 65536 ↔ l = 704)) ∧
    (({ window {} with store := { running.store with totalBlocks := 1 } } : State).freeBlocks = 1 ∧ legacyBlocks 1 = 1 ∧ ¬ legacyBlocks 1 ≤ (window {}).freeBlocks) := by decide

theorem witness_Hb8Window_full : 1024 ≤ (List.replicate 1024 ({ place := none, bytes := [] } : LegacyLine)).length ∧ (List.replicate 2048 (0 : Byte)).length = ({} : Hb).lineBytes :=
  ⟨Nat.le_of_eq List.length_replicate.symm, List.length_replicate⟩

theorem witness_Hb8Window_ring :
    (let s := window { dma := true, dmaTail := 1 }
     s.hb.dma = true ∧ s.hb.dmaHalted = false ∧ s.hb.dmaHead ≠ s.hb.dmaTail ∧ s.power.phase = .running ∧ (s.tick 0).canSend = true ∧ 2 - s.hb.dmaTaken ≤ 1024 - s.hb.lines.length ∧
     1024 - s.hb.lines.length < 1025 - s.hb.dmaTaken) ∧
    (∀ v ∈ [(0 : BitVec 12), 4095], let s := window { pitch := true }
      let s1 : State := { s.tick 0 with hb := { s.hb with delays := Tbl.put 0 s.hb.delays 7 v, delaysSet := Tbl.put 0 s.hb.delaysSet 7 v } }
      ((s1.legacyQ s.pos.lpi 14).fdiv 256 ≤ 8191 ∧ (s1.legacyQ s.pos.lpi 15).fdiv 256 ≤ 8191 ↔ v = 0) ∧ s.pos.armed = false ∧ s.lines.changes = []) ∧
    ((({ encDiv := 0x80, encCfg := 0x20 } : Hb).encoder 1200).isSome = true ∧ ({ encDiv := 0xF, encCfg := 0x20 } : Hb).encoder 1200 = none) ∧
    (let s : State := { window { openPage := [(0, [])] } with store := { running.store with totalBlocks := 1 } }
     64 * ((0 : Int).fdiv 64 - 10) * 65536 ≤ (s.tick 0).highWater ∧ ceilDiv (s.hb.openPage.length * 4096) 65536 ≤ s.freeBlocks ∧ running.freeBlocks < 1 ∧ s.pos.zeroDue = false ∧
     (∀ y ∈ (([{ place := some 5, bytes := [] }] : List LegacyLine) ++ []), y.place ≠ none) ∧ ({ place := none, bytes := [1] } : LegacyLine).place = none ∧ 1 ≤ s.freeBlocks) := by decide

/-! ## The block as a whole -/

theorem witness_StepRunsFront : State.reset.pending = [] := by decide

theorem witness_StepKeeps : Keeps State.reset.fuses [.mailboxReady 5] { State.reset with
    pending := [.mailboxReady 5], evt := { State.reset.evt with overflow := 0xFFFFFFFF }, flt := { State.reset.flt with count0 := 255, count3 := 255, shadowHits := 255, resets := 255 } } :=
  ⟨rfl, rfl, by unfold recorderFits; decide, by unfold countsStop; decide⟩

theorem witness_SteppingReads :
    (running.hostReaches = true ∧ SMap.find? 4 running.host.latch = none) ∧
    (let s : State := { running with host := { running.host with latch := [(0xB0004, 7)] } }
     s.hostReaches = true ∧ s.host.latch ≠ [] ∧ SMap.find? 4 s.host.latch = none) := by decide

theorem witness_ModeReads : running.power.mode = .native ∧ hb8.power.mode = .hb8 ∧ ({ running.power with mode := .factory } : Power).mode = .factory := by decide

/-! ## Commands that well-formedness refuses, and their neighbours that it admits -/

/-- A header of a packet from a source to a destination. -/
def hdr (src dst hops : Nat) : PktHdr :=
  { port := .e, src := src, dst := dst, hops := hops, role := false, shadow := false, crcOk := true, incarnation := 0, sq := 0 }

theorem test_wf_entry : (Instr.commandAccept (some (List.replicate 63 0)) 0).wf = false ∧ (Instr.commandAccept (some (List.replicate 64 0)) 0).wf = true ∧
    (Instr.commandAccept none 0).wf = true := by decide

theorem test_wf_random : (Instr.dbgReq 1 (List.replicate 31 0) 0).wf = false ∧ (Instr.dbgReq 1 (List.replicate 32 0) 0).wf = true := by decide

theorem test_wf_register : (Instr.registerWrite 0x1114 true 0).wf = false ∧ (Instr.registerWrite 0x1114 false 0).wf = true ∧ (Instr.registerWrite 0x1115 false 0).wf = false := by decide

theorem test_wf_lowHalf : (Instr.lowHalfRead 2).wf = false ∧ (Instr.lowHalfRead 4).wf = true := by decide

theorem test_wf_list : (Instr.identify 1 ⟨[⟨2, true, false⟩], [1, 2, 3]⟩ 0).wf = false ∧ (Instr.identify 1 ⟨[⟨2, true, false⟩], [1, 2]⟩ 0).wf = true ∧
    (Instr.identify 1 ⟨[⟨2 ^ 32, true, false⟩], []⟩ 0).wf = false := by decide

theorem test_wf_twoLists : (Instr.compressJob 1 ⟨[], []⟩ ⟨[⟨2 ^ 32, true, false⟩], []⟩ 0).wf = false ∧ (Instr.decompressJob 1 ⟨[⟨2 ^ 32, true, false⟩], []⟩ ⟨[], []⟩ 0).wf = false ∧
    (Instr.compressJob 1 ⟨[], []⟩ ⟨[], []⟩ 0).wf = true := by decide

theorem test_wf_badWord : (Instr.lineStep [⟨0, 128⟩] 0).wf = false ∧ (Instr.lineStep [⟨0, 127⟩] 0).wf = true := by decide

theorem test_wf_header : (Instr.probe (hdr 16 0 0) 0).wf = false ∧ (Instr.probe (hdr 0xFF 0 0) 0).wf = false ∧ (Instr.probe (hdr 0xFE 0xFF 15) 0).wf = true ∧
    (Instr.probe (hdr 3 0xFC 0) 0).wf = false ∧ (Instr.probe (hdr 3 4 16) 0).wf = false ∧ (Instr.probe { hdr 3 4 0 with incarnation := 2 ^ 32 } 0).wf = false ∧
    (Instr.probe { hdr 3 4 0 with sq := 2 ^ 32 } 0).wf = false := by decide

theorem test_wf_guest : (Instr.probe { hdr 3 4 0 with guest := 5 } 0).wf = false ∧ (Instr.probe { hdr 3 0xFE 0 with guest := 5 } 0).wf = true ∧ (Instr.probe { hdr 0xFE 3 0 with guest := 5 } 0).wf = true ∧
    (Instr.probe { hdr 3 0xFE 0 with guest := 2 ^ 128 } 0).wf = false := by decide

theorem test_wf_identity : (Instr.claim (hdr 0 1 0) (2 ^ 128) 0 0).wf = false ∧ (Instr.claim (hdr 0 1 0) (2 ^ 128 - 1) 0 0).wf = true ∧ (Instr.claim (hdr 0 1 0) 0 (2 ^ 32) 0).wf = false ∧
    (Instr.join (hdr 0 1 0) (2 ^ 128) true 0).wf = false := by decide

theorem test_wf_node : (Instr.node (hdr 0 1 0) { identity := 0, node := some 16, role := 0, colour := 0, lead := 6, eligible := true, warmReset := false, standby := false, bothWays := false } 0).wf = false ∧
    (Instr.node (hdr 0 1 0) { identity := 0, node := some 15, role := 0, colour := 0, lead := 6, eligible := true, warmReset := false, standby := false, bothWays := false } 0).wf = true := by decide

theorem test_wf_counts : (Instr.laneEyeScanDone [2 ^ 32] 0).wf = false ∧ (Instr.laneEyeScanDone [2 ^ 32 - 1] 0).wf = true := by decide

/-! ## Worked examples of the manual -/

/-- The rows of the example of chapter 02: 16 pixels at 2 bits. -/
def exampleRows : List Byte := [0x1B, 0x2D, 0x4E, 0x93, 0x1B, 0x2D, 0x4E, 0x93, 0x1B, 0x2D, 0, 0]

/-- The code-length table of that example, whose seven non-zero bytes the manual lists. -/
def exampleTable : List Byte := (List.range 176).map fun i =>
  match i with | 0 => 0x02 | 13 => 0x30 | 22 => 0x30 | 39 => 0x03 | 73 => 0x30 | 128 => 0x03 | 144 => 0x30 | _ => 0

/-- Its header and token bytes, with a trailer. -/
def exampleFrame : List Byte :=
  [0x50, 0x59, 0x53, 0x46, 0x02, 0x01, 0x0F, 0x00, 0x0C, 0x00, 0x00, 0x00, 0x02, 0x00, 0x00, 0x00] ++ exampleTable ++ [0x72, 0xFA, 0x30] ++ leBytes 4 (crc32c exampleRows).toNat

/-- Chapter 02, worked example: the coded frame decodes to its 12 bytes, 199 bytes long. -/
theorem test_psf_example : (match decodeFrame {} exampleFrame 0 12 none with | .ok f => f.bytes == exampleRows && f.next == 199 | .error _ => false) = true := by decide +kernel

/-- Chapter 04, worked example: q_r and A_r of the four kinds of row. -/
theorem test_row_delays : [1000000, 1508000, 26400000, 26908000].map (rowDelay 1200) = [12094, 18238, 319294, 325438] ∧
    [12094, 18238, 319294, 325438].map (allocation 64) = [111, 135, 1311, 1335] := by decide

/-- Chapter 03, worked example: 745 units over 14 pennants, and where stripe 5 lies. -/
theorem test_split : autoSplit 745 14 = List.replicate 11 53 ++ List.replicate 3 54 ∧ stripeStart (autoSplit 745 14) 5 = 16960 ∧ stripeStart (autoSplit 745 14) 6 = 20352 := by decide

/-- The pixel of the example of chapter 03, moved to column 1 and line 1 of a page of 2 by 2 pixels. -/
def exampleScene : Scene :=
  { ts := { columns := [(1, { gain := 0x8A3D, offset := -3, curve := 2 })], curves := [(670, 602)], k := 0x60 }
    format := { kind := 0, wIn := 2, c0 := 0, upscale := 1, depth := 2 }, lpi := 1200, pages := [] }

/-- Chapter 03, worked example: v = 149, t = 602, and the drop levels of 602 and of 823. -/
theorem test_pixel : (let p : PageView := { seq := 0, first := 0, rows := 2, good := 2, raster := [140, 180, 120, 200] }
    exampleScene.upscaled p 1 1 = 149 ∧ exampleScene.tone p 1 1 = 602) ∧
    (let a : Threshold := { depth := 2, w := 1, h := 1, xOff := 37, yOff := 200, cells := [[310, 640, 905]] }
     a.level 17001 517 823 = 2 ∧ a.level 17001 517 602 = 1) := by decide +kernel

/-- Chapter 04, worked example: the generated stitch bit at j = 30, ℓ = 10,000 is 0, and the default mask takes row A at head column 2,014. -/
theorem test_dot : StitchZone.bit {} 64 30 10000 = false ∧ HeadMask.bit {} {} 2 2014 10000 = false ∧ HeadMask.bit {} {} 2 2015 10000 = true := by decide

/-- Chapter 06, worked example: the FIRE block of row 8, line 10,000. -/
theorem test_fire_block : controlBlock 0x30 (fireFields { record := some (List.replicate 48 0 ++ [0xE2, 0x04]), delta := 310 } 0 10000 8861076332 false) = [0x30, 0x40, 0x55, 0x94, 0x02, 0x10, 0x27, 0x69] := by decide +kernel

/-- Chapter 12, worked example: the bank and the row of 0x2A5C_3F40 under the masks of set 0. -/
theorem test_sdram_address : (let d : Dmc := { gigabytes := 16, density := 1, sets := [[0x111100, 0x222200, 0x444400, 0x888800]], setPage := 0 }
    d.bankOf 0x2A5C3F40 = 4 ∧ d.rowOf 0x2A5C3F40 = 2711 ∧ d.rankOf 0x2A5C3F40 = 0) := by decide +kernel

end Sys2Proof.Tests.Slice0
end

section
/-!
PROOFS. What the identity block reads (chapter 00): the stepping of the silicon (R2) and the mode in force (R5).
-/

namespace Sys2Proof.Machine

/-! ### Reads of the identity block -/

@[simp] theorem State.readWord_idStepping (s : State) : s.readWord 4 = 0xA1 := by
  simp [State.readWord, State.hostReg]

@[simp] theorem State.readWord_idMode (s : State) : s.readWord 8 = s.idMode := by
  simp [State.readWord, State.hostReg]

theorem State.readHalf_of_not_latched {s : State} {off : Nat} (h : SMap.find? off s.host.latch = none) :
    s.readHalf off = s.readWord off := by
  simp [State.readHalf, h]

theorem exec_lowHalfRead (off : Nat) (s : State) : exec (.lowHalfRead off) s = execLowHalfRead off s := rfl

/-- A read that the host interface takes, of a register that is neither wide nor HB_ERR, only returns its word (R280). -/
theorem execLowHalfRead_of_narrow {s : State} {off : Nat} (hreach : s.hostReaches = true) (hwide : wideRegister off = false)
    (herr : off ≠ 0x400000C) :
    execLowHalfRead off s = .next (s.emit (.readData off ((s.readHalf off).zeroExtend 64))) := by
  simp [execLowHalfRead, hreach, hwide, herr]

/-- Settles O59: ID_STEPPING is a constant of the identity block, and a register of one half, so a read returns it at once. -/
theorem steppingReads : Obligations.SteppingReads := by
  intro s
  refine ⟨by simp, by simp, fun hreach hlatch => ?_⟩
  rw [exec_lowHalfRead, execLowHalfRead_of_narrow hreach (by decide) (by decide), State.readHalf_of_not_latched hlatch,
    State.readWord_idStepping]
  rfl

/-! ### The mode field of ID_MODE -/

theorem four_dvd_flag {i : Nat} (b : Bool) (hi : 2 ≤ i) : 4 ∣ flag i b := by
  cases b with
  | false => simp [flag]
  | true => simpa [flag] using Nat.pow_dvd_pow 2 hi

theorem extractLsb'_word_low (l : List Nat) (n : Nat) (hn : n ≤ 32) : (word l).extractLsb' 0 n = BitVec.ofNat n l.sum := by
  rw [word, ← BitVec.setWidth_eq_extractLsb' hn, BitVec.setWidth_ofNat_of_le hn]

/-- The flags of ID_MODE lie above its mode field, so bits 1:0 are the code of the mode in force whatever the straps and fuses are. -/
theorem State.idMode_modeField (s : State) : s.idMode.extractLsb' 0 2 = BitVec.ofNat 2 s.power.mode.code := by
  have hmgr := four_dvd_flag (i := 2) s.power.mgrEn (by decide)
  have hfuse := four_dvd_flag (i := 3) s.fuses.hb8 (by decide)
  have hbar2 := four_dvd_flag (i := 4) s.host.bar2Open (by decide)
  have hjtag := four_dvd_flag (i := 5) s.host.jtagOpen (by decide)
  rw [State.idMode, extractLsb'_word_low _ 2 (by decide)]
  apply BitVec.eq_of_toNat_eq
  simp only [BitVec.toNat_ofNat, List.sum_cons, List.sum_nil]
  omega

theorem Mode.code_ne_zero (m : Mode) : BitVec.ofNat 2 m.code ≠ 0b00#2 := by
  cases m with
  | native => decide
  | hb8 => decide
  | factory => decide

/-- Settles O60: ID_MODE[1:0] is the code of the mode, and no mode has the code 0. -/
theorem modeReads : Obligations.ModeReads := by
  intro s
  rw [State.readWord_idMode, State.idMode_modeField]
  exact ⟨fun hnative => by rw [hnative]; rfl, fun hhb8 => by rw [hhb8]; rfl, fun hfactory => by rw [hfactory]; rfl,
    Mode.code_ne_zero s.power.mode⟩

end Sys2Proof.Machine
end

section
/-!
PROOFS. What a detection leaves of the print path. A fault may disarm printing, which empties the path; apart from that, no detection, spoiled
page or row-line read out moves the tick, the committed instants or the hoists held (R17, R24, R173, R370).
-/

namespace Sys2Proof.Machine

open Sys2Proof.Safety

/-! ### The relation -/

/-- The tick and the committed instants stay, and the hoists held stay too, or go with a disarm. -/
structure PathKept (s t : State) : Prop where
  tick : t.pos.tick = s.pos.tick
  committed : t.pos.committed = s.pos.committed
  hoists : t.render.hoists = s.render.hoists ∨ t.render.hoists = []

/-- What leaves the position domain and the renderer alone keeps the print path. -/
theorem PathKept.of_only {m : List Part} {s t : State} (h : Only m s t) (hpos : Part.pos ∉ m) (hrender : Part.render ∉ m) : PathKept s t := by
  have ep : t.pos = s.pos := h .pos hpos
  have er : t.render = s.render := h .render hrender
  exact ⟨by rw [ep], by rw [ep], .inl (by rw [er])⟩

theorem PathKept.refl (s : State) : PathKept s s := ⟨rfl, rfl, .inl rfl⟩

theorem PathKept.trans {a b c : State} (h : PathKept a b) (k : PathKept b c) : PathKept a c where
  tick := k.tick.trans h.tick
  committed := k.committed.trans h.committed
  hoists := k.hoists.elim (fun e => h.hoists.imp e.trans e.trans) .inr

theorem PathKept.foldl {α : Type} {g : State → α → State} (hg : ∀ s x, PathKept s (g s x)) :
    ∀ (l : List α) (s : State), PathKept s (l.foldl g s)
  | [], s => .refl s
  | x :: l, s => (hg s x).trans (PathKept.foldl hg l (g s x))

theorem PathKept.ite {c : Prop} [Decidable c] {s a b : State} (ha : PathKept s a) (hb : PathKept s b) : PathKept s (if c then a else b) := by
  split
  · exact ha
  · exact hb

/-- What holds of every hoist still does. -/
theorem PathKept.forall_hoists {s t : State} (h : PathKept s t) {P : Hoist → Prop} (hs : ∀ x ∈ s.render.hoists, P x) :
    ∀ x ∈ t.render.hoists, P x := by
  rcases h.hoists with e | e
  · rw [e]; exact hs
  · rw [e]; exact fun x hx => absurd hx List.not_mem_nil

/-! ### Shared operations that leave the print path alone -/

theorem State.finish_path (s : State) (seq : Nat) (st : Status) (d r0 r1 r2 r3 : BitVec 32) : PathKept s (s.finish seq st d r0 r1 r2 r3) :=
  .of_only (State.finish_only s seq st d r0 r1 r2 r3 (Within.refl _) (Only.refl _ s)) (by decide) (by decide)

theorem State.endReset_path (s : State) (cmd : Option (Nat × Nat)) (scope : Nat) (ok : Bool) : PathKept s (s.endReset cmd scope ok) :=
  .of_only (State.endReset_only s cmd scope ok (Within.refl _) (Only.refl _ s)) (by decide) (by decide)

theorem State.info_path (s : State) (code unit : Nat) (p0 p1 p2 : BitVec 32) : PathKept s (s.info code unit p0 p1 p2) :=
  .of_only (State.info_only s code unit p0 p1 p2 (Within.refl _) (Only.refl _ s)) (by decide) (by decide)

theorem State.interrupt_path (s : State) (v : Nat) : PathKept s (s.interrupt v) :=
  .of_only (State.interrupt_only s v (Within.refl _) (Only.refl _ s)) (by decide) (by decide)

theorem State.hbErr_path (s : State) (mask : Nat) : PathKept s (s.hbErr mask) :=
  .of_only (State.hbErr_only s mask (Within.refl _) (Only.refl _ s)) (by decide) (by decide)

theorem State.tellPage_path (s : State) (p : Page) : PathKept s (s.tellPage p) :=
  .of_only (State.tellPage_only s p (Within.refl _) (Only.refl _ s)) (by decide) (by decide)

theorem State.spoilAt_path (s : State) (p : Page) (places : List (Bool × Int)) (l : Loss) (tell : Telling) (ports : List Nat) :
    PathKept s (s.spoilAt p places l tell ports) :=
  .of_only (State.spoilAt_only s p places l tell ports (Within.refl _) (Only.refl _ s)) (by decide) (by decide)

theorem State.spoilLine_path (s : State) (row : Nat) (line : Int) (colLo colHi block : Nat) (tell : Telling) (cause : LossCause) (ports : List Nat) :
    PathKept s (s.spoilLine row line colLo colHi block tell cause ports) :=
  .of_only (State.spoilLine_only s row line colLo colHi block tell cause ports (Within.refl _) (Only.refl _ s)) (by decide) (by decide)

theorem State.blankEntries_path (s : State) (r : Nat) (k : Int) (lo hi : Nat) : PathKept s (s.blankEntries r k lo hi) :=
  .of_only (State.blankEntries_only s r k lo hi (Within.refl _) (Only.refl _ s)) (by decide) (by decide)

theorem State.updPort_path (s : State) (n : Nat) (f : HeadPort → HeadPort) : PathKept s (s.updPort n f) :=
  .of_only (State.updPort_only s n f (Within.refl _) (Only.refl _ s)) (by decide) (by decide)

theorem State.mapPage_path (s : State) (seq : Nat) (f : Page → Page) : PathKept s (s.mapPage seq f) := ⟨rfl, rfl, .inl rfl⟩

theorem State.updPennant_path (s : State) (p : Nat) (f : Pennant → Pennant) : PathKept s (s.updPennant p f) := ⟨rfl, rfl, .inl rfl⟩

/-! ### Disarming and the fault collector -/

theorem State.clearPrinting_path (s : State) : PathKept s s.clearPrinting := by
  unfold State.clearPrinting
  have told := PathKept.foldl State.tellPage_path s.store.pages s
  refine PathKept.trans ?_ (PathKept.foldl (fun s c => s.finish_path _ _ _ _ _ _ _) _ _)
  exact ⟨told.tick, told.committed, .inr rfl⟩

theorem State.disarmNow_path (s : State) (block : Nat) : PathKept s (s.disarmNow block) := by
  unfold State.disarmNow
  have spoiled : PathKept s (s.disarmPages block) :=
    .of_only (State.disarmPages_only s block (Within.refl _) (Only.refl _ s)) (by decide) (by decide)
  have cleared := spoiled.trans (State.clearPrinting_path _)
  exact .ite (.refl s) ⟨cleared.tick, cleared.committed, cleared.hoists⟩

theorem State.enterFaultState_path (s : State) (code : Nat) : PathKept s (s.enterFaultState code) := by
  unfold State.enterFaultState
  refine PathKept.trans ?_ (.of_only (State.stopAxes_only _ 2 7 0 (Within.refl _) (Only.refl _ _)) (by decide) (by decide))
  refine PathKept.trans ?_ (State.disarmNow_path _ _)
  exact ⟨rfl, rfl, .inl rfl⟩

theorem State.haltStaff_path (s : State) (code : Nat) : PathKept s (s.haltStaff code) := ⟨rfl, rfl, .inl rfl⟩

theorem State.classEffects_path (s : State) (d : Detection) (cls : Nat) : PathKept s (s.classEffects d cls) := by
  unfold State.classEffects
  have pulse : PathKept s (State.interrupt { s with flt := { s.flt with pulseEnd := some (s.now + 20000) } } 8) := by
    refine PathKept.trans ?_ (State.interrupt_path _ 8)
    exact ⟨rfl, rfl, .inl rfl⟩
  refine .ite (.refl s) (.ite pulse (.ite ?_ ?_))
  · exact pulse.trans (State.haltStaff_path _ _)
  · exact (pulse.trans (State.enterFaultState_path _ _)).trans (State.haltStaff_path _ _)

theorem State.newFault_path (s : State) (d : Detection) (injected : Bool) : PathKept s (s.newFault d injected) := by
  unfold State.newFault
  refine PathKept.trans ?_ (State.classEffects_path _ _ _)
  refine PathKept.trans ?_ (.of_only (State.latch_only _ _ _ _ _ _ _ (Within.refl _) (Only.refl _ _)) (by decide) (by decide))
  refine PathKept.trans ?_ (.of_only (State.recordFault_only _ _ _ _ _ (Within.refl _) (Only.refl _ _)) (by decide) (by decide))
  exact ⟨rfl, rfl, .inl rfl⟩

/-- A detection keeps the tick and the committed instants; the hoists held go only with a disarm. -/
theorem State.detect_path (s : State) (d : Detection) : PathKept s (s.detect d) := by
  unfold State.detect
  have shot : ∀ (t : State) (b : Bool), PathKept t (if b then t.shotFed d.code else t) := fun t b =>
    .ite (.of_only (State.shotFed_only t d.code (Within.refl _) (Only.refl _ t)) (by decide) (by decide)) (.refl t)
  refine .ite (.refl s) (PathKept.trans ?_ (shot _ _))
  split
  · exact .of_only (State.shadowHit_only _ _ _ _ (Within.refl _) (Only.refl _ s)) (by decide) (by decide)
  · exact s.newFault_path d _

theorem State.unlessShadowed_path (s : State) (d : Detection) {f : State → State} (hf : PathKept s (f s)) : PathKept s (s.unlessShadowed d f) :=
  .ite (s.detect_path d) hf

/-! ### Pennants in shadow, blank stripes and row-lines read out -/

theorem State.pennantMismatch_path (s : State) (p : Nat) : PathKept s (s.pennantMismatch p) := by
  unfold State.pennantMismatch State.pennantMismatchAs
  refine s.unlessShadowed_path _ (PathKept.trans ?_ (State.endReset_path _ _ _ _))
  exact (s.updPennant_path _ _).trans (State.detect_path _ _)

theorem State.judgeWord_path (p : Nat) (s : State) (x : Int × Nat × BitVec 32) : PathKept s (s.judgeWord p x) := by
  unfold State.judgeWord
  refine .ite (.refl s) ?_
  split
  · exact s.updPennant_path _ _
  · split
    · exact .refl s
    · exact .ite ((s.updPennant_path _ _).trans (State.updPennant_path _ _ _)) (s.pennantMismatch_path p)

theorem State.judgeShadows_path (s : State) : PathKept s s.judgeShadows :=
  PathKept.foldl (fun s p => PathKept.foldl (State.judgeWord_path p) (s.pennant p).shadowWords s) _ s

theorem State.spoilBlank_path (s : State) (h : Hoist) (blank : List Nat) (late : Bool) : PathKept s (s.spoilBlank h blank late) := by
  unfold State.spoilBlank
  have spoiled : ∀ (t : State) (f : Page → List (Bool × Int)) (l : Loss), PathKept t (t.store.pages.foldl (fun s p => s.spoilAt p (f p) l .each) t) :=
    fun t f l => PathKept.foldl (fun s p => s.spoilAt_path p (f p) l .each []) _ t
  refine .ite (.refl s) (.ite ?_ ?_)
  · refine (spoiled s _ _).trans (PathKept.foldl (fun s p => ?_) _ _)
    exact PathKept.trans (s.mapPage_path p.seq _) (State.info_path _ _ _ _ _ _)
  · refine PathKept.trans ?_ (spoiled _ _ _)
    exact (PathKept.foldl (fun s i => s.detect_path _) blank s).trans (State.hbErr_path _ 16)

theorem State.rowLineFault_path (s : State) (d : Detection) (r : Nat) (line : Int) : PathKept s (s.rowLineFault d r line) :=
  .ite (s.detect_path d)
    ((((s.blankEntries_path _ _ _ _).trans (State.detect_path _ d)).trans (State.hbErr_path _ 16)).trans (State.spoilLine_path _ _ _ _ _ _ _ _ _))

theorem State.pathShot_path (s : State) (r : Nat) (line : Int) (bytes : List Byte) : PathKept s (s.pathShot r line bytes).1 := by
  unfold State.pathShot
  split
  · exact s.rowLineFault_path _ _ _
  · exact .refl s

theorem State.countDrops_path (s : State) (r : Nat) (line : Int) (bytes : List Byte) : PathKept s (s.countDrops r line bytes) := ⟨rfl, rfl, .inl rfl⟩

theorem State.headDirty_path (s : State) (n : Nat) (urgent : Bool) : PathKept s (s.headDirty n urgent) :=
  .of_only (State.headDirty_only s n urgent (Within.refl _) (Only.refl _ s)) (by decide) (by decide)

theorem State.sendLine_path (s : State) (r : Nat) (line : Int) (bytes : List Byte) : PathKept s (s.sendLine r line bytes) :=
  .of_only (State.sendLine_only s r line bytes (Within.refl _) (Only.refl _ s)) (by decide) (by decide)

theorem State.readOut_path (s : State) (r : Nat) (line : Int) (bytes : List Byte) : PathKept s (s.readOut r line bytes) := by
  have shot := s.pathShot_path r line bytes
  unfold State.readOut
  generalize s.pathShot r line bytes = x at shot ⊢
  obtain ⟨t, b⟩ := x
  refine (shot.trans ?_).trans (State.sendLine_path _ _ _ _)
  exact .ite (.refl t) (.ite (t.countDrops_path _ _ _) ((t.countDrops_path _ _ _).trans (State.headDirty_path _ _ _)))

theorem State.sendReady_path (s : State) : PathKept s s.sendReady := by
  refine PathKept.foldl (fun s x => .ite (.refl s) ?_) _ s
  split
  · exact .ite (s.readOut_path _ _ _) (.refl s)
  · exact .refl s

end Sys2Proof.Machine
end

section
/-!
PROOFS. The hoists at a tick (R17, R19, R23, R24): after the work of tick k no hoist before k is held, and hoist k drains.
-/

namespace Sys2Proof.Machine

open Sys2Proof.Safety

/-! ### The hoist that falls due -/

/-- Whatever is held of hoist k once it has fallen due drains. -/
theorem State.dueHoist_draining (s : State) (k : Int) : ∀ h ∈ (s.dueHoist k).render.hoists, h.k = k → h.draining = true := by
  unfold State.dueHoist
  split
  case h_1 hnone =>
    intro h hh hk
    exact absurd hk (by simpa using List.find?_eq_none.1 hnone h hh)
  case h_2 =>
    refine (State.spoilBlank_path _ _ _ _).forall_hoists fun h hh hk => ?_
    obtain ⟨g, _, rfl⟩ := List.mem_map.1 hh
    by_cases hg : (g.k == k) = true
    · simp [hg]
    · rw [if_neg hg] at hk
      exact absurd hk (by simpa using hg)

theorem State.dueHoist_tick (s : State) (k : Int) : (s.dueHoist k).pos.tick = s.pos.tick := by
  unfold State.dueHoist
  split
  · rfl
  · exact (State.spoilBlank_path _ _ _ _).tick.trans rfl

theorem State.blankHoist_path (s : State) (k : Int) : PathKept s (s.blankHoist k) :=
  .of_only (State.blankHoist_only s k (Within.refl _) (Only.refl _ s)) (by decide) (by decide)

/-! ### The hoists of a tick -/

theorem State.openHoist_tick (s : State) (k : Int) : (s.openHoist k).pos.tick = s.pos.tick :=
  congrArg Position.tick (State.openHoist_only s k (Within.refl _) (Only.refl _ s) .pos (by decide))

/-- The hoists before k, which have drained, are free. -/
def State.freeBefore (s : State) (k : Int) : State :=
  { s with render := { s.render with hoists := s.render.hoists.filter fun h => decide (k ≤ h.k) } }

@[simp] theorem State.freeBefore_pos (s : State) (k : Int) : (s.freeBefore k).pos = s.pos := rfl

theorem State.mem_freeBefore {s : State} {k : Int} {h : Hoist} : h ∈ (s.freeBefore k).render.hoists ↔ h ∈ s.render.hoists ∧ k ≤ h.k := by
  simp [State.freeBefore]

/-- The hoists of a tick while printing is armed, step by step. -/
theorem State.tickHoists_armed {s : State} (harmed : s.pos.armed = true) (k : Int) : s.tickHoists k =
    (((((if s.nextWindow = k then s.openHoist k else s).judgeShadows).dueHoist k).blankHoist k).freeBefore k).sendReady := by
  unfold State.tickHoists
  rw [if_neg (by simp [harmed])]
  rfl

theorem State.tickHoists_disarmed {s : State} (hdisarmed : s.pos.armed = false) (k : Int) : s.tickHoists k = s := by
  unfold State.tickHoists
  rw [if_pos (by simp [hdisarmed])]

theorem State.tickHoists_tick (s : State) (k : Int) : (s.tickHoists k).pos.tick = s.pos.tick := by
  cases harmed : s.pos.armed
  · rw [State.tickHoists_disarmed harmed]
  · rw [State.tickHoists_armed harmed, (State.sendReady_path _).tick, State.freeBefore_pos, (State.blankHoist_path _ k).tick,
      State.dueHoist_tick, (State.judgeShadows_path _).tick]
    split
    · exact s.openHoist_tick k
    · rfl

/-- While printing is armed, the hoists before k are free after tick k, and hoist k drains. -/
theorem State.tickHoists_hoists {s : State} (harmed : s.pos.armed = true) (k : Int) :
    ∀ h ∈ (s.tickHoists k).render.hoists, k ≤ h.k ∧ (h.k = k → h.draining = true) := by
  rw [State.tickHoists_armed harmed]
  refine (State.sendReady_path _).forall_hoists fun h hh => ?_
  obtain ⟨hmem, hle⟩ := State.mem_freeBefore.1 hh
  exact ⟨hle, (State.blankHoist_path _ k).forall_hoists (State.dueHoist_draining _ k) h hmem⟩

/-! ### Units in shadow -/

theorem State.joinPennant_path (s : State) (p : Nat) : PathKept s (s.joinPennant p) :=
  .ite (.refl s) ((s.updPennant_path p _).trans (State.endReset_path _ _ _ _))

theorem State.joinUnit_path (s : State) (u : Nat) : PathKept s (s.joinUnit u) :=
  .of_only (State.joinUnit_only s u (Within.refl _) (Only.refl _ s)) (by decide) (by decide)

theorem State.joinLane_path (s : State) (l : Nat) : PathKept s (s.joinLane l) :=
  .of_only (State.joinLane_only s l (Within.refl _) (Only.refl _ s)) (by decide) (by decide)

theorem State.shadowTick_path (s : State) : PathKept s s.shadowTick := by
  have joined := ((PathKept.foldl State.joinPennant_path (List.range 16) s).trans (PathKept.foldl State.joinUnit_path (List.range 4) _)).trans
    (PathKept.foldl State.joinLane_path (List.range 32) _)
  unfold State.shadowTick
  generalize List.foldl State.joinLane _ _ = t at joined ⊢
  exact ⟨joined.tick, joined.committed, joined.hoists⟩

end Sys2Proof.Machine
end

section
/-!
PROOFS. The delay lines (R129): a row's delay line gives back the line written, and a write leaves every other slot and row as it is.
-/

namespace Sys2Proof.Machine

/-! ### Tables of like things -/

theorem Tbl.get_put {α : Type} (d x : α) : ∀ (t : List α) (i j : Nat), Tbl.get d (Tbl.put d t i x) j = if j = i then x else Tbl.get d t j
  | [], 0, 0 => rfl
  | [], 0, _ + 1 => rfl
  | [], _ + 1, 0 => rfl
  | [], i + 1, j + 1 => by simpa [Tbl.put, Tbl.get] using Tbl.get_put d x [] i j
  | _ :: _, 0, 0 => rfl
  | _ :: _, 0, _ + 1 => rfl
  | _ :: _, _ + 1, 0 => rfl
  | _ :: t, i + 1, j + 1 => by simpa [Tbl.put, Tbl.get] using Tbl.get_put d x t i j

theorem Tbl.get_upd_same {α : Type} (d : α) (t : List α) (i : Nat) (f : α → α) : Tbl.get d (Tbl.upd d t i f) i = f (Tbl.get d t i) := by
  rw [Tbl.upd, Tbl.get_put, if_pos rfl]

theorem Tbl.get_upd_ne {α : Type} (d : α) (t : List α) {i j : Nat} (f : α → α) (h : j ≠ i) : Tbl.get d (Tbl.upd d t i f) j = Tbl.get d t j := by
  rw [Tbl.upd, Tbl.get_put, if_neg h]

/-! ### The delay line of a row -/

/-- With no delay change in progress a row has one integer delay. -/
theorem State.rowDelays_settled {s : State} (hsettled : s.lines.changes = []) (r : Nat) :
    s.rowDelays r = [(Tbl.get 0 s.lines.q r).fdiv 256] := by
  simp [State.rowDelays, hsettled]

theorem State.qOf_settled {s : State} (hsettled : s.lines.changes = []) (r : Nat) (m : Int) : s.qOf r m = Tbl.get 0 s.lines.q r := by
  simp [State.qOf, hsettled]

/-- At the step of line l the line due is the one d - 1 lines before. -/
theorem State.dueLines_settled {s : State} (hsettled : s.lines.changes = []) (r : Nat) (l : Int) :
    s.dueLines r l = [l + 1 - (Tbl.get 0 s.lines.q r).fdiv 256] := by
  have due : ∀ d : Int, (d == l + 1 - (l + 1 - d)) = true := fun d => beq_iff_eq.2 (by omega)
  simp only [State.dueLines, State.rowDelays_settled hsettled, State.qOf_settled hsettled, List.map_cons, List.map_nil,
    List.filter_cons, List.filter_nil, due, if_true]
  rfl

/-- A row that has a delay writes its line into the slot of the line. -/
theorem State.writeDelay_delayed {s : State} {r : Nat} (hdelay : (s.rowDelays r).all (· ≤ 0) = false) (l : Int) :
    s.writeDelay r l = { s with lines := { s.lines with
      delay := Tbl.upd [] s.lines.delay r fun m => SMap.insert (s.slotIn r l)
        { line := l, bytes := (s.hoistAt l).map fun h => h.rowBytes r l } (SMap.erase (s.slotIn r l) m) } } := by
  unfold State.writeDelay
  rw [if_neg (by simp [hdelay])]

section
variable {s : State} {r : Nat} (hdelay : (s.rowDelays r).all (· ≤ 0) = false) (l : Int)
include hdelay

/-- The slot of a row's delay line after a write. -/
theorem State.find?_writeDelay (j : Nat) : SMap.find? j (Tbl.get [] (s.writeDelay r l).lines.delay r) =
    if j = s.slotIn r l then some { line := l, bytes := (s.hoistAt l).map fun h => h.rowBytes r l }
    else SMap.find? j (Tbl.get [] s.lines.delay r) := by
  rw [State.writeDelay_delayed hdelay, Tbl.get_upd_same, SMap.find?_insert _ _ _ _ (by simp [SMap.find?_erase])]
  split
  · rfl
  · rename_i hj; rw [SMap.find?_erase, if_neg hj]

theorem State.slotIn_writeDelay (q : Nat) (m : Int) : (s.writeDelay r l).slotIn q m = s.slotIn q m := by
  rw [State.writeDelay_delayed hdelay]; rfl

/-- The line written reads back. -/
theorem State.readDelay_writeDelay_same : (s.writeDelay r l).readDelay r l = (s.hoistAt l).map fun h => h.rowBytes r l := by
  rw [State.readDelay, State.slotIn_writeDelay hdelay, State.find?_writeDelay hdelay, if_pos rfl]
  exact if_pos rfl

/-- A write leaves the other slots of the row. -/
theorem State.readDelay_writeDelay_slot {m : Int} (hslot : s.slotIn r m ≠ s.slotIn r l) :
    (s.writeDelay r l).readDelay r m = s.readDelay r m := by
  rw [State.readDelay, State.slotIn_writeDelay hdelay, State.find?_writeDelay hdelay, if_neg hslot]
  rfl

/-- A write leaves the other rows. -/
theorem State.readDelay_writeDelay_row {q : Nat} (hrow : q ≠ r) (m : Int) : (s.writeDelay r l).readDelay q m = s.readDelay q m := by
  rw [State.readDelay, State.slotIn_writeDelay hdelay, State.writeDelay_delayed hdelay, Tbl.get_upd_ne _ _ _ hrow]
  rfl

end

end Sys2Proof.Machine
end

section
/-!
PROOFS. Line steps, hoist ticks, timebase ticks and governor periods (R17, R28, R129, R201): none comes before H or the time allows, and each
then does its work.
-/

namespace Sys2Proof.Machine

open Sys2Proof.Safety

/-! ### What the advance of H leaves of the position domain -/

@[simp] theorem State.advance_pos_line (s : State) : s.advance.pos.line = s.pos.line := rfl
@[simp] theorem State.advance_pos_tick (s : State) : s.advance.pos.tick = s.pos.tick := rfl
@[simp] theorem State.advance_pos_armed (s : State) : s.advance.pos.armed = s.pos.armed := rfl
@[simp] theorem State.advance_pos_pending (s : State) : s.advance.pos.pending = s.pos.pending := rfl

@[simp] theorem State.resolveDelays_pos (s : State) : s.resolveDelays.pos = s.pos :=
  State.resolveDelays_only s (Within.refl _) (Only.refl _ s) .pos (by decide)

/-- Resolving the changes in progress leaves the geometry. -/
@[simp] theorem State.resolveDelays_geometry (s : State) : s.resolveDelays.lines.geometry = s.lines.geometry := by
  unfold State.resolveDelays
  split <;> rfl

/-! ### Line steps (R129) -/

theorem exec_lineStep_early {s : State} {t : Nat} (bad : List BadWord)
    (h : (s.tick t).advance.pos.h < (s.pos.line + 1) * 65536 ∨ s.pos.tick < (s.pos.line + 1).fdiv 64) :
    exec (.lineStep bad t) s = .next (s.tick t).advance := by
  show execLineStep bad t s = _
  unfold execLineStep
  refine if_pos ?_
  simpa [hoistOf] using h

theorem exec_lineStep_due {s : State} {t : Nat} (bad : List BadWord) (hreach : (s.pos.line + 1) * 65536 ≤ (s.tick t).advance.pos.h)
    (htick : (s.pos.line + 1).fdiv 64 ≤ s.pos.tick) (hrun : s.power.phase = .running) :
    let u := (s.tick t).advance
    let s2 := ({ u with pos := { u.pos with line := s.pos.line + 1 } } : State).resolveDelays
    let s3 := if s.pos.armed then s.lines.geometry.rows.foldl (fun x r => x.stepRow bad (s.pos.line + 1) r) s2 else s2
    exec (.lineStep bad t) s = .next (((if (s.pos.line + 1) % 64 = 0 then s3.switchSerial else s3).missPassed).passLegacy).settleWeb := by
  intro u s2 s3
  have hearly : ¬ (decide (u.pos.h < (u.pos.line + 1) * 65536) || decide (u.pos.tick < hoistOf (u.pos.line + 1))) = true := by
    simpa [u, hoistOf] using And.intro hreach htick
  have harmed : s2.pos.armed = s.pos.armed := by simp [s2, u]
  have hrows : s2.lines.geometry.rows = s.lines.geometry.rows := by simp [s2, u]
  show execLineStep bad t s = _
  unfold execLineStep
  refine (if_neg hearly).trans ((if_neg (not_not_intro hrun)).trans ?_)
  simp only [s3, ← harmed, ← hrows]
  rfl

/-! ### Hoist ticks (R17, R24, R38) -/

theorem State.zeroTick_none {s : State} (h : s.pos.zeroDue = false) : s.zeroTick = s := if_neg (by simp [h])

theorem State.zeroTick_due {s : State} (h : s.pos.zeroDue = true) :
    s.zeroTick = ({ s with pos := { s.pos with zeroDue := false } } : State).tickWork 0 := if_pos h

theorem exec_hoistTick (s : State) (t : Nat) : exec (.hoistTick t) s =
    let z := (s.tick t).advance.zeroTick.settleMissing
    if z.pos.h < (z.pos.tick + 1) * 4194304 ∨ z.pos.line + 1 < 64 * (z.pos.tick + 1) then .next z else .next (z.tickWork (z.pos.tick + 1)) := by
  show execHoistTick t s = _
  unfold execHoistTick
  simp only [Bool.or_eq_true, decide_eq_true_eq, Int.mul_assoc, show (64 : Int) * 65536 = 4194304 from rfl]

/-- A fired page counts a hoist of its horizon (R38). -/
theorem PageStore.mem_countHorizons {s : PageStore} {p : Page} (hp : p ∈ s.pages) (hfired : p.state = .fired) :
    { p with horizon := p.horizon.map (· + 1) } ∈ s.countHorizons.pages :=
  List.mem_map.2 ⟨p, hp, by simp [hfired]⟩

theorem State.tickWork_running {s : State} (hrun : s.power.phase = .running) (k : Int) :
    let s2 := (((({ s with pos := { s.pos with tick := k }, store := s.store.countHorizons } : State)).resolveDelays).tickHoists k).shadowTick
    let s3 := if k = 0 then s2.openPeriod 0 (s2.outNozzles 0) else (s2.closePeriod (k - 1) (s2.outNozzles (k - 1))).openPeriod k (s2.outNozzles k)
    let s4 := (List.range 32).foldl (fun x n => x.portTick n (some (k - 1))) s3
    let s5 : State := { s4 with pos := { s4.pos with tickAt := s4.now, hoistTickAt := s4.now } }
    s.tickWork k = (if s5.firmwareRuns then s5.govern.settleWeb else s5.settleWeb).settleHeadResets.linksTick := by
  have hrun' : ¬ s.power.phase ≠ .running := not_not_intro hrun
  simp only [State.tickWork, if_neg hrun']

theorem Only.with_pos {m : List Part} {s t : State} (h : Only m s t) (hpos : Part.pos ∈ m) (x : Position) : Only m s { t with pos := x } :=
  fun p hp => by
    cases p with
    | pos => exact absurd hpos hp
    | _ => exact h _ hp

/-- Outside operation the tick is counted, and the period that ends is lost: it reads as unreadable (R213). -/
theorem State.tickWork_halted {s : State} (hhalt : s.power.phase ≠ .running) (k : Int) :
    (s.tickWork k).pos.tick = k ∧ (s.tickWork k).pos.tickAt = s.now ∧
      (k ≠ 0 → (s.tickWork k).loop.history.head?.map (fun p => (p.k, p.unreadable)) = some (k - 1, true)) ∧ Only [.loop, .pos] s (s.tickWork k) := by
  by_cases hk : k = 0
  · rw [State.tickWork, if_pos hhalt, if_pos hk]
    exact ⟨rfl, rfl, fun h => absurd hk h, Only.with_pos (Only.refl _ s) (by decide) _⟩
  · have lost : Only [.loop, .pos] s (s.losePeriod (k - 1)) := State.losePeriod_only s (k - 1) (Within.lit rfl) (Only.refl _ s)
    rw [State.tickWork, if_pos hhalt, if_neg hk]
    exact ⟨rfl, rfl, fun _ => rfl, Only.with_pos lost (by decide) _⟩

/-! ### Ticks of the timebase and of the governor (R28, R201) -/

theorem exec_timebaseTick (s : State) (t : Nat) : exec (.timebaseTick t) s = execTimebaseTick t s := rfl

theorem exec_timebaseTick_early {s : State} {t : Nat} : let z := (s.tick t).advance.zeroTick.settleMissing
    z.now < z.pos.tickAt + 213333 → exec (.timebaseTick t) s = .next z :=
  fun h => if_pos (.inr h)

theorem exec_timebaseTick_due {s z : State} {t : Nat} (hz : (s.tick t).advance.zeroTick.settleMissing = z)
    (hrun : z.power.phase = .running) (hdue : z.pos.tickAt + 213333 ≤ z.now) :
    let s1 := (List.range 32).foldl (fun x n => x.portTick n none) z
    let s2 : State := { s1 with pos := { s1.pos with tickAt := s1.now } }
    exec (.timebaseTick t) s = .next ((if (s2.chan 0).valid then s2 else s2.switchSerial).tryArm).settleHeadResets.linksTick := by
  rw [exec_timebaseTick, execTimebaseTick, hz]
  dsimp only
  rw [if_neg (not_or.2 ⟨not_not_intro hrun, Nat.not_lt.2 hdue⟩)]
  generalize List.foldl _ z (List.range 32) = s1
  unfold State.webStands
  generalize (State.chan _ 0).valid = valid
  cases valid <;> rfl

theorem exec_governorPeriod_early {s : State} {t : Nat} (h : max s.now t < max s.pos.hoistTickAt s.heads.governor.ranAt + 1000000) :
    exec (.governorPeriod t) s = .next (s.tick t) :=
  if_pos (by rw [Bool.or_eq_true]; exact .inr (decide_eq_true h))

theorem exec_governorPeriod_due {s : State} {t : Nat} (hruns : s.firmwareRuns = true)
    (hdue : max s.pos.hoistTickAt s.heads.governor.ranAt + 1000000 ≤ max s.now t) : exec (.governorPeriod t) s =
    .next ({ s.tick t with heads := { s.heads with governor := { s.heads.governor with ranAt := max s.now t } } } : State).govern := by
  refine if_neg ?_
  have hticked : (s.tick t).firmwareRuns = true := hruns
  simp only [hticked, Bool.not_true, Bool.false_or, decide_eq_true_eq]
  exact Nat.not_lt.2 hdue

end Sys2Proof.Machine
end

section
/-!
PROOFS. Counts of the fault collector (R370): a detection that no window shadows counts once in its class.
-/

namespace Sys2Proof.Machine

open Sys2Proof.Safety

theorem countOf_count (f : Flt) : ∀ cls, countOf (f.count cls) cls = min (countOf f cls + 1) 255
  | 0 => rfl
  | 1 => rfl
  | 2 => rfl
  | _ + 3 => rfl

theorem countOf_congr {f g : Flt} (h : (f.count0, f.count1, f.count2, f.count3) = (g.count0, g.count1, g.count2, g.count3)) (c : Nat) :
    countOf f c = countOf g c := by
  simp only [Prod.mk.injEq] at h
  obtain ⟨h0, h1, h2, h3⟩ := h
  rcases c with _ | _ | _ | c
  · exact h0
  · exact h1
  · exact h2
  · exact h3

/-! ### Steps of the collector that count nothing -/

theorem State.recordFault_counts (s : State) (d : Detection) (q : BitVec 32 × BitVec 32 × Nat) (cls : Nat) (injected : Bool) (c : Nat) :
    countOf (s.recordFault d q cls injected).1.flt c = countOf s.flt c := by
  have noted : ∀ (t : State) (n : Note), (t.note n).flt = t.flt := fun t n => State.note_only t n (Within.refl _) (Only.refl _ t) .flt (by decide)
  unfold State.recordFault
  dsimp only
  split
  · exact countOf_congr rfl c
  · exact (congrArg (countOf · c) (noted _ _)).trans (countOf_congr rfl c)

theorem State.disarmNow_flt (s : State) (block : Nat) : (s.disarmNow block).flt = s.flt :=
  State.disarmNow_only s block (Within.refl _) (Only.refl _ s) .flt (by decide)

theorem State.enterFaultState_counts (s : State) (code c : Nat) : countOf (s.enterFaultState code).flt c = countOf s.flt c := by
  unfold State.enterFaultState
  rw [State.stopAxes_flt, State.disarmNow_flt]
  exact countOf_congr rfl c

theorem State.haltStaff_counts (s : State) (code c : Nat) : countOf (s.haltStaff code).flt c = countOf s.flt c := countOf_congr rfl c

theorem State.classEffects_counts (s : State) (d : Detection) (cls c : Nat) : countOf (s.classEffects d cls).flt c = countOf s.flt c := by
  have pulse : countOf (State.interrupt { s with flt := { s.flt with pulseEnd := some (s.now + 20000) } } 8).flt c = countOf s.flt c := by
    rw [State.interrupt_flt]
    exact countOf_congr rfl c
  unfold State.classEffects
  dsimp only
  split
  · rfl
  · split
    · exact pulse
    · split
      · rw [State.haltStaff_counts, pulse]
      · rw [State.haltStaff_counts, State.enterFaultState_counts, pulse]

theorem State.endInjection_flt (s : State) (i : Injection) : (s.endInjection i).flt = s.flt :=
  State.endInjection_only s i (Within.refl _) (Only.refl _ s) .flt (by decide)

theorem State.shotFed_counts (s : State) (code c : Nat) : countOf (s.shotFed code).flt c = countOf s.flt c := by
  unfold State.shotFed
  dsimp only
  split
  · rfl
  · split
    · rw [State.endInjection_flt]
      exact countOf_congr rfl c
    · exact countOf_congr rfl c

/-! ### A detection counts in its class -/

theorem State.latch_counts (s : State) (d : Detection) (q : BitVec 32 × BitVec 32 × Nat) (cls : Nat) (injected made : Bool) (p2 : BitVec 32) :
    countOf (s.latch d q cls injected made p2).flt cls = min (countOf s.flt cls + 1) 255 := by
  rw [← countOf_count]
  unfold State.latch
  dsimp only
  split
  · exact countOf_congr rfl cls
  · exact countOf_congr rfl cls

theorem State.newFault_counts (s : State) {d : Detection} (hfatal : d.fatal = false) (injected : Bool) :
    countOf (s.newFault d injected).flt (s.classOf d.code) = min (countOf s.flt (s.classOf d.code) + 1) 255 := by
  unfold State.newFault
  simp only [hfatal, Bool.false_eq_true, if_false]
  rw [State.classEffects_counts, State.latch_counts, State.recordFault_counts]
  rfl

theorem State.detect_counts {s : State} {d : Detection} (hd : Detected s d.code d.unit) (hfatal : d.fatal = false) :
    countOf (s.detect d).flt (s.classOf d.code) = min (countOf s.flt (s.classOf d.code) + 1) 255 := by
  obtain ⟨_, _, hheld, hshadow⟩ := hd
  have hwindow : s.shadowWindow d.code d.unit = none := by simpa [State.shadowed] using hshadow
  unfold State.detect
  simp only [hheld, Bool.false_eq_true, if_false, hwindow]
  split
  · rw [State.shotFed_counts, s.newFault_counts hfatal]
  · exact s.newFault_counts hfatal _

end Sys2Proof.Machine
end

section
/-!
PROOFS. Fire instants (R154, R156 to R158, R160): how a row-line is committed or never fired, how a committed instant is carried out, and what a
row-line that comes too late leaves at its port.
-/

namespace Sys2Proof.Machine

open Sys2Proof.Safety

@[simp] theorem State.settleMissing_pos (s : State) : s.settleMissing.pos = s.pos :=
  State.settleMissing_only s (Within.refl _) (Only.refl _ s) .pos (by decide)

@[simp] theorem State.settleMissing_now (s : State) : s.settleMissing.now = s.now :=
  State.settleMissing_only s (Within.refl _) (Only.refl _ s) .now (by decide)

@[simp] theorem State.checkOverspeed_now (s : State) : s.checkOverspeed.now = s.now :=
  State.checkOverspeed_only s (Within.refl _) (Only.refl _ s) .now (by decide)

@[simp] theorem State.checkHeadRate_now (s : State) : s.checkHeadRate.now = s.now :=
  State.checkHeadRate_only s (Within.refl _) (Only.refl _ s) .now (by decide)

/-! ### Prediction (R156) -/

/-- A prediction gives instants to the row-lines that wait, and adds none. -/
theorem State.mem_predictAll_pending {s : State} {x : Pending} (hx : x ∈ s.predictAll.pos.pending) :
    ∃ y ∈ s.pos.pending, (x.row, x.line, x.position) = (y.row, y.line, y.position) := by
  obtain ⟨y, hy, rfl⟩ := List.mem_map.1 hx
  refine ⟨y, hy, ?_⟩
  split <;> rfl

/-! ### Commitment (R156, R158) -/

theorem State.sendFire_pos (s : State) (r : Nat) (line f : Int) (derated : Bool) : (s.sendFire r line f derated).pos = s.pos :=
  State.sendFire_only s r line f derated (Within.refl _) (Only.refl _ s) .pos (by decide)

/-- A commit adds one instant, the one predicted or, where that is too near, 160 ns and the lead ahead. -/
theorem State.commit_committed (s : State) (x : Pending) (a : Rat) : ∃ c, (s.commit x a).pos.committed = s.pos.committed ++ [c] ∧
    (c.row, c.line, c.position) = (x.row, x.line, x.position) ∧
    c.f = roundHalfUp ((if a < (s.now : Rat) + 160 + s.lead (x.row / 2) then (s.now : Rat) + 160 + s.lead (x.row / 2) else a) * 50) := by
  unfold State.commit
  rw [State.sendFire_pos]
  exact ⟨_, rfl, rfl, rfl⟩

/-- What waits after the filter of one row-line is another row-line. -/
theorem not_of_mem_filter_pending {l : List Pending} {row : Nat} {line : Int} {y : Pending}
    (hy : y ∈ l.filter fun y => !(y.row == row && y.line == line)) : ¬ (y.row = row ∧ y.line = line) := by
  have hkept := (List.mem_filter.1 hy).2
  rintro ⟨rfl, rfl⟩
  simp at hkept

theorem State.commit_pending (s : State) (x : Pending) (a : Rat) : ∀ y ∈ (s.commit x a).pos.pending, ¬ (y.row = x.row ∧ y.line = x.line) := by
  unfold State.commit
  rw [State.sendFire_pos]
  exact fun y hy => not_of_mem_filter_pending hy

/-! ### Row-lines never fired (R156) -/

/-- To miss a row-line is, for the position domain, to forget it. -/
theorem State.missRow_pos (s : State) (x : Pending) : (s.missRow x).pos = (s.forget x.row x.line).pos := by
  unfold State.missRow
  dsimp only
  split
  · rfl
  · have spoiled : ∀ (t : State) (why : LossCause × Nat) (lo hi : Nat), (t.spoilLine x.row x.line lo hi why.2 .gathered why.1).pos = t.pos :=
      fun t why lo hi => State.spoilLine_only t _ _ _ _ _ _ _ _ (Within.refl _) (Only.refl _ t) .pos (by decide)
    rw [spoiled]
    split
    · exact State.slowEvents_only _ _ _ _ (Within.refl _) (Only.refl _ _) .pos (by decide)
    · rfl

theorem State.missRow_committed (s : State) (x : Pending) : (s.missRow x).pos.committed = s.pos.committed := by
  rw [State.missRow_pos]; rfl

theorem State.missRow_pending (s : State) (x : Pending) : ∀ y ∈ (s.missRow x).pos.pending, ¬ (y.row = x.row ∧ y.line = x.line) := by
  rw [State.missRow_pos]
  exact fun y hy => not_of_mem_filter_pending hy

/-! ### FIRE_COMMIT (R156) -/

/-- FIRE_COMMIT of a row-line that waits with an instant predicted. -/
theorem exec_fireCommit {s m v : State} {t : Nat} {r : Fin 64} {l : Int} {x : Pending} {a : Rat}
    (hx : s.pos.pending.find? (fun x => x.row == r.val && x.line == l) = some x) (ha : x.instant = some a)
    (hm : (s.tick t).advance.settleMissing = m) (hv : m.checkOverspeed.checkHeadRate = v) :
    exec (.fireCommit r l t) s =
      if ((max s.now t : Nat) : Rat) + 512 + m.lead (r.val / 2) < a then .next m
      else if v.fireable x = true then .next (v.commit x a) else .next (v.missRow x) := by
  have hfound : m.pos.pending.find? (fun x => x.row == r.val && x.line == l) = some x := by simpa [← hm] using hx
  have hnow : m.now = max s.now t := by simp [← hm]
  show execFireCommit r l t s = _
  unfold execFireCommit
  simp only [hm, hfound, ha, hnow, hv]

/-! ### FIRE_INSTANT (R157) -/

/-- The moment of a row, as the integer that instants are compared with. -/
theorem State.advance_tick_now (s : State) (t : Nat) : (((s.tick t).advance.now : Nat) : Int) = max (s.now : Int) t := by
  rw [State.advance_now, State.tick_now]
  omega

theorem State.settleRetire_path (s : State) : PathKept s s.settleRetire := by
  refine PathKept.foldl (fun s n => ?_) _ s
  have retired : PathKept s ((s.dropHead n true).retirePort n) := by
    refine PathKept.trans ?_ (.of_only (State.retirePort_only _ n (Within.refl _) (Only.refl _ _)) (by decide) (by decide))
    exact ⟨rfl, rfl, .inl rfl⟩
  split
  · exact .refl s
  · refine .ite (.ite retired (retired.trans ?_)) (.refl s)
    exact .of_only (State.releaseThermal_only _ n (Within.refl _) (Only.refl _ _)) (by decide) (by decide)

theorem State.settleLateDisarms_path (s : State) : PathKept s s.settleLateDisarms := by
  unfold State.settleLateDisarms
  refine PathKept.trans ?_ (PathKept.foldl (fun s (d : LateDisarm) => s.finish_path d.seq .ok 0 (w32 d.held) (w32 d.stored) 0 0) _ _)
  exact ⟨rfl, rfl, .inl rfl⟩

theorem State.endDisarm_path (s : State) : PathKept s s.endDisarm := by
  unfold State.endDisarm
  refine .ite (.refl s) (PathKept.trans ?_ (PathKept.foldl (fun t q => t.finish_path _ _ _ _ _ _ _) _ _))
  have cleared : PathKept s (if s.pos.armed then s.clearPrinting else s) := .ite s.clearPrinting_path (.refl s)
  exact ⟨cleared.tick, cleared.committed, cleared.hoists⟩

/-- What may end once H has moved leaves the committed instants. -/
theorem State.settleWeb_committed (s : State) : s.settleWeb.pos.committed = s.pos.committed := by
  have placed : ∀ t : State, t.placeLines.pos = t.pos := fun t => State.placeLines_only t (Within.refl _) (Only.refl _ t) .pos (by decide)
  have retried : ∀ t : State, t.retryWaiting.pos = t.pos := fun t => State.retryWaiting_only t (Within.refl _) (Only.refl _ t) .pos (by decide)
  have shut : ∀ t : State, t.settleShutdown.pos = t.pos := fun t => State.settleShutdown_only t (Within.refl _) (Only.refl _ t) .pos (by decide)
  have delays : ∀ t : State, t.settleDelays.pos = t.pos := fun t => State.settleDelays_only t (Within.refl _) (Only.refl _ t) .pos (by decide)
  have resets : ∀ t : State, t.startHeadResets.pos = t.pos := fun t => State.startHeadResets_only t (Within.refl _) (Only.refl _ t) .pos (by decide)
  have fired : ∀ t : State, t.settleFired.pos = t.pos := fun t => State.settleFired_only t (Within.refl _) (Only.refl _ t) .pos (by decide)
  have told : ∀ t : State, t.tellEnded.pos = t.pos := fun t => State.tellEnded_only t (Within.refl _) (Only.refl _ t) .pos (by decide)
  unfold State.settleWeb State.settleDisarm
  rw [placed, retried, shut, (State.endDisarm_path _).committed, (State.settleLateDisarms_path _).committed, delays, resets,
    (State.settleRetire_path _).committed, fired, told]

theorem State.forget_path (s : State) (row : Nat) (line : Int) : PathKept s (s.forget row line) := ⟨rfl, rfl, .inl rfl⟩

theorem State.fireRow_path (s : State) (c : Committed) : PathKept s (s.fireRow c) := by
  unfold State.fireRow
  dsimp only
  split
  · exact .refl s
  · refine PathKept.trans ?_ (State.forget_path _ _ _)
    exact .ite ((s.updPort_path _ _).trans (State.detect_path _ _)) (s.updPort_path _ _)

/-- FIRE_INSTANT of a committed row-line. -/
theorem exec_fireInstant {s : State} {t : Nat} {r : Fin 64} {l : Int} {c : Committed}
    (hc : s.pos.committed.find? (fun c => c.row == r.val && c.line == l) = some c) :
    let u := (s.tick t).advance
    exec (.fireInstant r l t) s = if (max s.now t : Int) * 50 < c.f then .next u
      else .next (State.fireRow { u with pos := { u.pos with committed := u.pos.committed.filter fun x => !(x.row == r.val && x.line == l) } } c).settleWeb := by
  have hfound : (s.tick t).advance.pos.committed.find? (fun c => c.row == r.val && c.line == l) = some c := hc
  show execFireInstant r l t s = _
  unfold execFireInstant
  simp only [hfound, State.advance_tick_now]

theorem exec_fireInstant_due {s : State} {t : Nat} {r : Fin 64} {l : Int} {c : Committed}
    (hc : s.pos.committed.find? (fun c => c.row == r.val && c.line == l) = some c) (hdue : c.f ≤ (max s.now t : Int) * 50) :
    ∃ s', exec (.fireInstant r l t) s = .next s' ∧ s'.pos.committed = s.pos.committed.filter fun x => !(x.row == r.val && x.line == l) := by
  refine ⟨_, (exec_fireInstant hc).trans (if_neg (Int.not_lt.2 hdue)), ?_⟩
  rw [State.settleWeb_committed, (State.fireRow_path _ _).committed]
  rfl

/-! ### ROW_LINE_LATE (R160) -/

@[simp] theorem State.port_updPort (s : State) (n : Nat) (f : HeadPort → HeadPort) : (s.updPort n f).port n = f (s.port n) :=
  Tbl.get_upd_same _ _ _ _

theorem State.rowLineFault_heads (s : State) (d : Detection) (r : Nat) (line : Int) : (s.rowLineFault d r line).heads = s.heads :=
  State.rowLineFault_only s d r line (Within.refl _) (Only.refl _ s) .heads (by decide)

/-- A row-line lost on its path counts in the class of its fault. -/
theorem State.rowLineFault_counts {s : State} {d : Detection} (hd : Detected s d.code d.unit) (hfatal : d.fatal = false) (r : Nat) (line : Int) :
    countOf (s.rowLineFault d r line).flt (s.classOf d.code) = min (countOf s.flt (s.classOf d.code) + 1) 255 := by
  unfold State.rowLineFault
  dsimp only
  split
  · exact State.detect_counts hd hfatal
  · have spoiled : ∀ (t : State) (lo hi block : Nat), (t.spoilLine r line lo hi block .each).flt = t.flt :=
      fun t lo hi block => State.spoilLine_only t _ _ _ _ _ _ _ _ (Within.refl _) (Only.refl _ t) .flt (by decide)
    rw [spoiled, State.hbErr_flt]
    exact State.detect_counts (s := s.blankEntries r (s.firePeriod r line) 0 2047) hd hfatal

/-- Level 0 in the place of a row-line that has not come. -/
def State.lateLine (s : State) (r : Fin 64) (l : Int) : SentLine :=
  { row := r.val % 2, line := l, bytes := List.replicate (256 * s.depth) 0, lost := true }

/-- ROW_LINE_LATE of a committed row-line whose data its port does not hold 160 ns before its instant. -/
theorem exec_rowLineLate_due {s : State} {t : Nat} {r : Fin 64} {l : Int} {c : Committed}
    (hc : s.pos.committed.find? (fun c => c.row == r.val && c.line == l) = some c)
    (hmissing : (s.port (r.val / 2)).holds (r.val % 2) l = false) (hdue : c.f ≤ ((max s.now t : Int) + 160) * 50) :
    exec (.rowLineLate r l t) s = .next (((s.tick t).advance.updPort (r.val / 2) fun p => { p with sent := p.sent ++ [s.lateLine r l] }).rowLineFault
      { code := 0x0605, unit := r.val / 2 } r.val l) := by
  have hfound : (s.tick t).advance.pos.committed.find? (fun c => c.row == r.val && c.line == l) = some c := hc
  have hwaits : ¬ (((s.tick t).advance.port (r.val / 2)).holds (r.val % 2) l || decide ((((s.tick t).advance.now : Int) + 160) * 50 < c.f)) = true := by
    have hholds : ((s.tick t).advance.port (r.val / 2)).holds (r.val % 2) l = false := hmissing
    simp only [hholds, State.advance_tick_now, Bool.false_or, decide_eq_true_eq]
    exact Int.not_lt.2 hdue
  show execRowLineLate r l t s = _
  unfold execRowLineLate
  simp only [hfound]
  exact if_neg hwaits

end Sys2Proof.Machine
end

section
/-!
PROOFS. The statement on ticks and fire instants (R17, R28, R38, R129, R154, R156 to R158, R160, R201), put together from the steps.
-/

namespace Sys2Proof.Machine

open Sys2Proof.Safety

/-- A row whose integer delay is above 0 has a delay line. -/
theorem State.rowDelays_not_nonpos {s : State} {r : Nat} (hsettled : s.lines.changes = []) (hdelay : 0 < (Tbl.get 0 s.lines.q r).fdiv 256) :
    (s.rowDelays r).all (· ≤ 0) = false := by
  simpa [State.rowDelays_settled hsettled] using hdelay

/-- The state in which the hoists of a tick have been taken on has the number of the tick. -/
theorem State.tickWork_hoists_tick (s : State) (k : Int) :
    (((({ s with pos := { s.pos with tick := k }, store := s.store.countHorizons } : State).resolveDelays).tickHoists k).shadowTick).pos.tick = k := by
  rw [(State.shadowTick_path _).tick, State.tickHoists_tick, State.resolveDelays_pos]

theorem State.tickWork_hoists_armed {s : State} (harmed : s.pos.armed = true) (k : Int) :
    ∀ h ∈ (((({ s with pos := { s.pos with tick := k }, store := s.store.countHorizons } : State).resolveDelays).tickHoists k).shadowTick).render.hoists,
      k ≤ h.k ∧ (h.k = k → h.draining = true) := by
  refine (State.shadowTick_path _).forall_hoists (State.tickHoists_hoists ?_ k)
  rw [State.resolveDelays_pos]
  exact harmed

/-- Settles O16: each step comes no earlier than H and the time allow and is then its own work; a detection on the way may empty the print path,
and moves neither the tick nor a committed instant. -/
theorem ticksAndFireInstants : Obligations.TicksAndFireInstants := by
  intro s t u y z m
  refine ⟨fun bad h => exec_lineStep_early bad h, fun bad hreach htick hrun => exec_lineStep_due bad hreach htick hrun,
    fun r l _ hsettled hdelay => ?delayLine, fun h => State.zeroTick_none h, fun h => State.zeroTick_due h,
    fun h => (exec_hoistTick s t).trans (if_pos h), fun hreach hline => ?hoistTick, fun k hhalt => State.tickWork_halted hhalt k,
    fun k hrun => ⟨State.tickWork_running hrun k, s.tickWork_hoists_tick k, fun harmed _ => ?hoists⟩,
    fun p hp hfired => PageStore.mem_countHorizons hp hfired, fun h => exec_timebaseTick_early h, ?timebaseTick,
    fun h => exec_governorPeriod_early h, fun hruns hdue => exec_governorPeriod_due hruns hdue, rfl, fun x hx => State.mem_predictAll_pending (s := u) hx, fun r l => ⟨?commit, ?committed⟩⟩
  case delayLine =>
    have hpositive := State.rowDelays_not_nonpos hsettled hdelay
    exact ⟨State.dueLines_settled hsettled r l, State.readDelay_writeDelay_same hpositive l,
      fun _ hslot => State.readDelay_writeDelay_slot hpositive l hslot, fun q m hrow => State.readDelay_writeDelay_row hpositive l hrow m⟩
  case hoistTick => exact (exec_hoistTick s t).trans (if_neg (not_or.2 ⟨Int.not_lt.2 hreach, Int.not_lt.2 hline⟩))
  case timebaseTick => exact fun hrun hdue => exec_timebaseTick_due rfl hrun hdue
  case hoists =>
    have hhoists := State.tickWork_hoists_armed harmed k
    exact ⟨fun h hh => (hhoists h hh).1, fun h hh => (hhoists h hh).2⟩
  case commit =>
    intro x a hx ha v
    have hexec := exec_fireCommit (v := v) hx ha rfl rfl
    have hnow : v.now = max s.now t := by simp [v, m, u]
    refine ⟨fun hearly => hexec.trans (if_pos hearly), fun hdue hfire => ?_, fun hdue hmiss => ?_⟩
    · obtain ⟨c, hcommitted, hplace, hf⟩ := v.commit_committed x a
      rw [hnow] at hf
      exact ⟨_, c, hexec.trans ((if_neg (Rat.not_lt.2 hdue)).trans (if_pos hfire)), hcommitted, hplace, hf, v.commit_pending x a⟩
    · exact ⟨_, hexec.trans ((if_neg (Rat.not_lt.2 hdue)).trans (if_neg (by rw [hmiss]; decide))), v.missRow_committed x, v.missRow_pending x⟩
  case committed =>
    intro c hc
    refine ⟨fun hearly => (exec_fireInstant hc).trans (if_pos hearly), exec_fireInstant_due hc, fun hmissing hdue => ?_⟩
    refine ⟨_, exec_rowLineLate_due hc hmissing hdue, ?_, fun hdetected => ?_⟩
    · rw [State.port, State.rowLineFault_heads, ← State.port, State.port_updPort]
      exact List.mem_append_right _ (List.mem_singleton.2 rfl)
    · exact State.rowLineFault_counts (s := u.updPort (r.val / 2) fun p => { p with sent := p.sent ++ [s.lateLine r l] })
        (d := { code := 0x0605, unit := r.val / 2 }) hdetected rfl r.val l

end Sys2Proof.Machine
end

section
/-!
PROOFS. The choice of a nozzle (R85, R134, R140): a head and a row in service where there is one, and the share that a generated stitch zone gives
its right head.
-/

namespace Sys2Proof.Machine

/-! ### Heads that cover a column -/

theorem TableSet.headFor_mem {ts : TableSet} {c : Nat} {l : Int} {n : Nat} (h : ts.headFor c l = some n) : n ∈ ts.geometry.covering c := by
  unfold TableSet.headFor at h
  split at h
  case h_1 => cases h
  case h_2 m hc => cases h; simp [hc]
  case h_3 a b rest hc =>
    obtain rfl := Option.some.inj h
    rw [hc]
    split <;> split <;> simp

/-- Where a head gives way to the other if both its rows are out, one of the two in service is enough. -/
theorem TableSet.yield_in_service {ts : TableSet} {c n other m : Nat} (hm : m = n ∨ m = other) (hservice : ts.bothOut m c = false) :
    ts.bothOut (if ts.bothOut n c then other else n) c = false := by
  cases hn : ts.bothOut n c with
  | false => exact hn
  | true =>
    rcases hm with rfl | rfl
    · rw [hservice] at hn; cases hn
    · exact hservice

/-- The head of a column with one or two heads can print it, where one of them can. -/
theorem TableSet.headFor_in_service {ts : TableSet} {c m : Nat} (l : Int) (hm : m ∈ ts.geometry.covering c) (hservice : ts.bothOut m c = false)
    (htwo : (ts.geometry.covering c).length ≤ 2) : ∃ n, ts.headFor c l = some n ∧ ts.bothOut n c = false := by
  unfold TableSet.headFor
  split
  case h_1 hc => simp [hc] at hm
  case h_2 n hc =>
    obtain rfl : m = n := by simpa [hc] using hm
    exact ⟨m, rfl, hservice⟩
  case h_3 a b rest hc =>
    obtain rfl : rest = [] := List.eq_nil_of_length_eq_zero (by rw [hc] at htwo; simpa using htwo)
    refine ⟨_, rfl, TableSet.yield_in_service ?_ hservice⟩
    have hm : m = a ∨ m = b := by simpa [hc] using hm
    split
    · exact hm.symm
    · exact hm

/-- A column that a head covers, and that is not missing, has a head in service, unless a head turned off covers it. -/
theorem TableSet.exists_in_service {ts : TableSet} {c : Nat} (hcovered : ts.geometry.covering c ≠ []) (hon : ts.disabled c = false)
    (hprinted : ts.missing c = false) : ∃ m ∈ ts.geometry.covering c, ts.bothOut m c = false := by
  simpa [TableSet.missing, hcovered, hon] using hprinted

/-! ### The row that prints a dot -/

theorem TableSet.rowFor_in_service {ts : TableSet} {n c r : Nat} {l : Int} {level : Nat} (h : ts.rowFor n c l level = some r) :
    r < 2 ∧ ts.out n r (headColumn ts.geometry n c) = false := by
  have hbit : ∀ b, b2n b < 2 := by decide
  unfold TableSet.rowFor at h
  dsimp only at h
  split at h
  case h_1 => cases h
  case h_2 _ h1 => cases h; exact ⟨by decide, h1⟩
  case h_3 h0 _ => cases h; exact ⟨by decide, h0⟩
  case h_4 h0 h1 =>
    have hrow : r < 2 := by
      split at h
      · cases h; decide
      · split at h
        · cases h; decide
        · cases h; exact hbit _
    match r with
    | 0 => exact ⟨hrow, h0⟩
    | 1 => exact ⟨hrow, h1⟩

theorem TableSet.rowFor_isSome {ts : TableSet} {n c : Nat} (l : Int) (level : Nat) (h : ts.bothOut n c = false) :
    (ts.rowFor n c l level).isSome = true := by
  unfold TableSet.rowFor
  dsimp only
  split
  case h_1 h0 h1 => simp [TableSet.bothOut, h0, h1] at h
  case h_2 => rfl
  case h_3 => rfl
  case h_4 =>
    split
    · rfl
    · split <;> rfl

/-! ### The share of the right head (R140) -/

/-- 167 is odd, so its multiples, moved by any number, take every value of 256 once in 256 lines. -/
theorem stitchValues_perm (b : Nat) : ((List.range 256).map fun n => (167 * n + b) % 256).Perm (List.range 256) := by
  refine (List.perm_ext_iff_of_nodup (List.pairwise_map.2 (List.nodup_range.imp_of_mem fun hx hy hne => ?_)) List.nodup_range).2 fun v => ⟨fun hv => ?_, fun hv => ?_⟩
  · have hx := List.mem_range.1 hx
    have hy := List.mem_range.1 hy
    omega
  · obtain ⟨n, _, rfl⟩ := List.mem_map.1 hv
    exact List.mem_range.2 (Nat.mod_lt _ (by decide))
  · -- 23 is the inverse of 167 modulo 256
    have hv := List.mem_range.1 hv
    exact List.mem_map.2 ⟨23 * (v + 255 * b) % 256, List.mem_range.2 (Nat.mod_lt _ (by decide)), by omega⟩

theorem countP_lt_range {t n : Nat} (h : t ≤ n) : (List.range n).countP (fun x => decide (x < t)) = t := by
  obtain ⟨d, rfl⟩ := Nat.exists_eq_add_of_le h
  rw [List.range_add, List.countP_append, List.countP_eq_length.2, List.countP_eq_zero.2]
  · simp
  · simp
  · simp

/-- The mask bit of a generated zone, by the line's distance from a first line. -/
theorem StitchZone.bit_generated {z : StitchZone} (hz : z.loaded = false) (o j : Nat) (l : Int) (n : Nat) :
    z.bit o j (l + n) = decide ((167 * n + (167 * ((l + z.oy) % 256).toNat + 73 * j)) % 256 < (2 * j + 1) * 128 / o) := by
  simp only [StitchZone.bit, hz, Bool.false_eq_true, if_false]
  congr 2
  omega

theorem StitchZone.share_generated {z : StitchZone} {o j : Nat} (hz : z.loaded = false) (hj : j < o) (l : Int) :
    ((List.range 256).filter fun (n : Nat) => z.bit o j (l + (n : Int))).length = (2 * j + 1) * 128 / o := by
  have hshare : (2 * j + 1) * 128 / o ≤ 256 := Nat.div_le_of_le_mul (by omega)
  simp only [StitchZone.bit_generated hz]
  generalize (2 * j + 1) * 128 / o = share at hshare ⊢
  generalize 167 * ((l + z.oy) % 256).toNat + 73 * j = b
  calc ((List.range 256).filter fun n => decide ((167 * n + b) % 256 < share)).length
      = ((List.range 256).map fun n => (167 * n + b) % 256).countP (fun x => decide (x < share)) := by
        rw [List.countP_map, List.countP_eq_length_filter]; rfl
    _ = (List.range 256).countP (fun x => decide (x < share)) := (stitchValues_perm b).countP_eq _
    _ = share := countP_lt_range hshare

/-- Settles O12: the head is one that covers the column and yields to the other where both its rows are out, the row is one that is in service,
and the generated mask compares each value of 256 once with the share. -/
theorem dotHasOneNozzle : Obligations.DotHasOneNozzle := by
  refine ⟨fun ts c l level n r i h => ?_, fun ts c l level hcovered htwo hon hprinted => ?_, fun z o j l hz _ hj => z.share_generated hz hj l⟩
  · unfold TableSet.nozzleFor at h
    split at h
    case h_1 => cases h
    case h_2 m hhead =>
      obtain ⟨row, hrow, hplace⟩ := Option.map_eq_some_iff.1 h
      cases hplace
      obtain ⟨hlt, hin⟩ := TableSet.rowFor_in_service hrow
      exact ⟨TableSet.headFor_mem hhead, hlt, rfl, hin⟩
  · obtain ⟨m, hm, hservice⟩ := TableSet.exists_in_service hcovered hon hprinted
    obtain ⟨n, hhead, hn⟩ := TableSet.headFor_in_service l hm hservice htwo
    simpa [TableSet.nozzleFor, hhead] using TableSet.rowFor_isSome l level hn

end Sys2Proof.Machine
end

section
/-!
PROOFS. The bar and its row delays (R120, R124 to R130, R141).
-/

namespace Sys2Proof.Machine

open Sys2Proof.Safety

/-! ### Lists by rank -/

theorem insertBy_perm {α : Type} (rank : α → Int) (x : α) : ∀ l : List α, (insertBy rank x l).Perm (x :: l)
  | [] => .refl _
  | y :: l => by
    unfold insertBy
    split
    · exact .refl _
    · exact ((insertBy_perm rank x l).cons y).trans (.swap x y l)

theorem sortBy_perm {α : Type} (rank : α → Int) (l : List α) : (sortBy rank l).Perm l := by
  have placed : ∀ (l acc : List α), (l.foldl (fun r x => insertBy rank x r) acc).Perm (l ++ acc) := by
    intro l
    induction l with
    | nil => exact fun acc => .refl acc
    | cons x l ih => exact fun acc => (ih _).trans (((insertBy_perm rank x acc).append_left l).trans List.perm_middle)
  simpa [sortBy] using placed l []

/-! ### Changes in progress (R128, R130) -/

/-- What resolving a change leaves of it. -/
structure DelayChange.Kept (c d : DelayChange) : Prop where
  seq : d.seq = c.seq
  trims : d.trims = c.trims
  registration : d.registration = c.registration
  late : d.late = c.late
  line : c.page = none → d.line = c.line

theorem State.followPage_kept (s : State) (c : DelayChange) : c.Kept (s.followPage c) := by
  unfold State.followPage
  split
  case h_1 => exact ⟨rfl, rfl, rfl, rfl, fun _ => rfl⟩
  case h_2 _ hpage =>
    have absent {l : Option Int} (h : c.page = none) : l = c.line := by rw [hpage] at h; cases h
    split
    · exact ⟨rfl, rfl, rfl, rfl, absent⟩
    · split
      · exact ⟨rfl, rfl, rfl, rfl, absent⟩
      · split <;> exact ⟨rfl, rfl, rfl, rfl, absent⟩

theorem State.chainChanges_length (s : State) : ∀ (before : List Int × Int × List Int) (l : List DelayChange),
    (s.chainChanges before l).length = l.length
  | _, [] => rfl
  | _, _ :: l => congrArg (· + 1) (s.chainChanges_length _ l)

theorem State.mem_chainChanges {s : State} {c : DelayChange} : ∀ {before : List Int × Int × List Int} {l : List DelayChange}, c ∈ l →
    ∃ q, { c with q := q } ∈ s.chainChanges before l
  | _, d :: l, h => by
    rcases List.mem_cons.1 h with rfl | h
    · exact ⟨_, List.mem_cons_self⟩
    · obtain ⟨q, hq⟩ := State.mem_chainChanges h
      exact ⟨q, List.mem_cons_of_mem _ hq⟩

theorem State.resolveDelays_changes_length (s : State) : s.resolveDelays.lines.changes.length = s.lines.changes.length := by
  unfold State.resolveDelays
  split
  · rfl
  · simp only [State.chainChanges_length, (sortBy_perm _ _).length_eq, List.length_map]

/-- Resolving the changes in progress drops none. -/
theorem State.mem_resolveDelays {s : State} {c : DelayChange} (h : c ∈ s.lines.changes) : ∃ d ∈ s.resolveDelays.lines.changes, c.Kept d := by
  unfold State.resolveDelays
  split
  · exact ⟨c, h, rfl, rfl, rfl, rfl, fun _ => rfl⟩
  · have hsorted := (sortBy_perm DelayChange.rank _).mem_iff.2 (List.mem_map_of_mem (f := s.followPage) h)
    obtain ⟨q, hq⟩ := State.mem_chainChanges hsorted
    obtain ⟨hseq, htrims, hreg, hlate, hline⟩ := s.followPage_kept c
    exact ⟨_, hq, hseq, htrims, hreg, hlate, hline⟩

/-- Resolving the changes in progress leaves the settings in force. -/
theorem State.resolveDelays_in_force (s : State) : s.resolveDelays.lines.q = s.lines.q ∧ s.resolveDelays.lines.trims = s.lines.trims ∧
    s.resolveDelays.lines.registration = s.lines.registration := by
  unfold State.resolveDelays
  split <;> exact ⟨rfl, rfl, rfl⟩

/-! ### The row delays in force (R124) -/

/-- The row delays of `s'` are those of its geometry, trims and offset, at the pitch and with the heads of `s`. -/
def State.delaysFollow (s s' : State) : Prop := ∀ r, r < 64 → Tbl.get 0 s'.lines.q r =
  if (s'.lines.geometry.head (r / 2)).present then
    ((s'.lines.geometry.leadNm + (if (s'.lines.geometry.head (r / 2)).trail then (s'.lines.geometry.trailNm : Int) else 0)
      + (if r % 2 = 1 then (s.port (r / 2)).spacing else 0) + Tbl.get 0 s'.lines.trims r + s'.lines.registration) * (512 * s.pos.lpi) + 25400000).fdiv 50800000
  else 0

theorem State.delaysFollow.of_lines {s u v : State} (h : s.delaysFollow u) (hlines : v.lines = u.lines) : s.delaysFollow v := by
  unfold State.delaysFollow
  rw [hlines]
  exact h

theorem State.recomputeDelays_follow {s u : State} (hdisarmed : s.pos.armed = false) (hpos : u.pos = s.pos) (hheads : u.heads = s.heads) :
    s.delaysFollow u.recomputeDelays := by
  intro r hr
  have hq : Tbl.get 0 u.recomputeDelays.lines.q r = if (u.lines.geometry.head (r / 2)).present then u.newQ r else 0 := by
    simp [State.recomputeDelays, Tbl.get, hr]
  have hnew : u.newQ r = rowDelay s.pos.lpi (rowDistance u.lines.geometry u.lines.trims u.lines.registration s.spacing r) := by
    have hspacing : u.spacing = s.spacing := by funext n; simp [State.spacing, State.port, hheads]
    simp [State.newQ, State.distOf, hpos, hdisarmed, hspacing]
  rw [hq, hnew, rowDelay, rowDistance, Int.mul_assoc]
  rfl

theorem State.recomputeDelays_geometry (s : State) : s.recomputeDelays.lines.geometry = s.lines.geometry := rfl
theorem State.recomputeDelays_trims (s : State) : s.recomputeDelays.lines.trims = s.lines.trims := rfl
theorem State.recomputeDelays_registration (s : State) : s.recomputeDelays.lines.registration = s.lines.registration := rfl

/-! ### A change of trims or offset (R127, R128, R130) -/

theorem State.changeDelays_disarmed {s : State} (hdisarmed : s.pos.armed = false) (seq : Nat) (trims : Option (List Int)) (reg : Option Int) (page : Option Nat) :
    s.changeDelays seq trims reg page =
      (State.recomputeDelays { s with lines := { s.lines with trims := trims.getD s.lines.trims, registration := reg.getD s.lines.registration } }).finish seq .ok := by
  unfold State.changeDelays
  rw [if_pos (by simp [hdisarmed])]

/-- While printing is armed a change joins those in progress; one that names no page has the first line of the next hoist. -/
theorem State.changeDelays_armed {s : State} (harmed : s.pos.armed = true) (seq : Nat) (trims : Option (List Int)) (reg : Option Int) (page : Option Nat) :
    ∃ c : DelayChange, c.seq = seq ∧ c.trims = trims ∧ c.registration = reg ∧ c.line = some (64 * (s.pos.tick + 1)) ∧
      (page = none → c.late = false ∧ c.page = none) ∧
      s.changeDelays seq trims reg page = ({ s with lines := { s.lines with changes := s.lines.changes ++ [c] } } : State).resolveDelays := by
  unfold State.changeDelays
  rw [if_neg (by simp [harmed])]
  refine ⟨_, rfl, rfl, rfl, rfl, ?_, rfl⟩
  rintro rfl
  exact ⟨rfl, rfl⟩

end Sys2Proof.Machine

namespace Sys2Proof.Safety

open Sys2Proof.Machine

section
variable {s : State} {t seq op : Nat} {dma : Bool} {e : JEntry} (hruns : Runs s t seq op dma e) (trims : Option (List Int)) (reg : Option Int) (page : Option Nat)
include hruns

/-- A change of trims or offset while printing is disarmed: it is in force, and its command has ended. -/
theorem Runs.changeDelays_disarmed (hdisarmed : s.pos.armed = false) :
    let s' := ((s.tick t).start seq true).changeDelays seq trims reg page
    s'.lines.trims = trims.getD s.lines.trims ∧ s'.lines.registration = reg.getD s.lines.registration ∧ s'.lines.geometry = s.lines.geometry ∧
      s.delaysFollow s' ∧ Ended s' seq .ok ∧ Only [.now, .host, .journal, .lines, .out] s s' := by
  intro s'
  have honly : Only [.now, .host, .journal, .lines, .out] s s' :=
    State.changeDelays_only _ _ _ _ _ (Within.lit rfl) (State.start_only _ _ _ (Within.lit rfl) (State.tick_only s t (Within.lit rfl) (Only.refl _ s)))
  have hstarted : ((s.tick t).start seq true).lines = s.lines := by simp
  have heq := State.changeDelays_disarmed (s := (s.tick t).start seq true) (by simpa using hdisarmed) seq trims reg page
  have hlines : s'.lines = (State.recomputeDelays _).lines := (congrArg State.lines heq).trans (by rw [State.finish_lines])
  refine ⟨?_, ?_, ?_, State.delaysFollow.of_lines (State.recomputeDelays_follow hdisarmed ?_ ?_) hlines, ?_, honly⟩
  · rw [hlines, ← hstarted]; rfl
  · rw [hlines, ← hstarted]; rfl
  · rw [hlines, ← hstarted]; rfl
  · simp
  · simp
  · show Ended s' seq .ok
    rw [show s' = _ from heq]
    exact hruns.ended (r := true) (by simp) .ok 0 0 0 0 0

/-- A change of trims or offset while printing is armed: it waits among the changes in progress, and its command runs on. -/
theorem Runs.changeDelays_armed (harmed : s.pos.armed = true) :
    let s' := ((s.tick t).start seq true).changeDelays seq trims reg page
    InProgress s' seq ∧ s'.lines.q = s.lines.q ∧ s'.lines.trims = s.lines.trims ∧ s'.lines.registration = s.lines.registration ∧
      s'.lines.changes.length = s.lines.changes.length + 1 ∧
      (∃ c ∈ s'.lines.changes, c.seq = seq ∧ c.trims = trims ∧ c.registration = reg ∧ (page = none → c.late = false ∧ c.line = some (64 * (s.pos.tick + 1)))) ∧
      Only [.now, .host, .journal, .lines, .out] s s' := by
  intro s'
  have honly : Only [.now, .host, .journal, .lines, .out] s s' :=
    State.changeDelays_only _ _ _ _ _ (Within.lit rfl) (State.start_only _ _ _ (Within.lit rfl) (State.tick_only s t (Within.lit rfl) (Only.refl _ s)))
  have hstarted : ((s.tick t).start seq true).lines = s.lines := by simp
  have htick : ((s.tick t).start seq true).pos.tick = s.pos.tick := by simp
  obtain ⟨c, hseq, htrims, hreg, hline, hnext, heq⟩ := State.changeDelays_armed (s := (s.tick t).start seq true) (by simpa using harmed) seq trims reg page
  rw [show s' = _ from heq] at honly ⊢
  generalize hu : State.mk .. = u at honly ⊢
  have hul : u.lines = { s.lines with changes := s.lines.changes ++ [c] } := by rw [← hu, ← hstarted]
  have huj : u.resolveDelays.journal = ((s.tick t).start seq true).journal :=
    (State.resolveDelays_only u (Within.refl _) (Only.refl _ u) .journal (by decide)).trans (by rw [← hu])
  obtain ⟨hq, hts, hr⟩ := u.resolveDelays_in_force
  obtain ⟨d, hd, hkept⟩ := State.mem_resolveDelays (s := u) (c := c) (by simp [hul])
  refine ⟨hruns.inProgress huj, by rw [hq, hul], by rw [hts, hul], by rw [hr, hul], ?_, ⟨d, hd, ?_, ?_, ?_, fun hpage => ?_⟩, honly⟩
  · rw [State.resolveDelays_changes_length, hul, List.length_append]; rfl
  · rw [hkept.seq, hseq]
  · rw [hkept.trims, htrims]
  · rw [hkept.registration, hreg]
  · obtain ⟨hlate, hnone⟩ := hnext hpage
    exact ⟨hkept.late.trans hlate, (hkept.line hnone).trans (by rw [hline, htick])⟩

end

end Sys2Proof.Safety

namespace Sys2Proof.Machine

open Sys2Proof.Safety

/-- A change that names no page. -/
theorem applyPoint_next {e : JEntry} {at_ page : Nat} (h : e.p8 at_ = 0) : applyPoint e at_ page = none := by
  simp [applyPoint, h]

theorem exec_setRowDelay {s : State} {seq t : Nat} {e : JEntry} {inp : HostList} (hruns : Runs s t seq 0x0302 true e) (hchecked : Checked (rowDelayChecks inp) s t e) :
    exec (.setRowDelay seq inp t) s = .next (((s.tick t).start seq true).changeDelays seq (some (trimsOf inp.data)) none (applyPoint e 12 16)) :=
  congrArg Host.Outcome.next (hruns.command true _ hchecked)

theorem exec_setRegistration {s : State} {seq t : Nat} {e : JEntry} (hruns : Runs s t seq 0x0303 false e) (hchecked : Checked registrationChecks s t e) :
    exec (.setRegistration seq t) s = .next (((s.tick t).start seq true).changeDelays seq none (some (e.s32 0)) (applyPoint e 4 8)) :=
  congrArg Host.Outcome.next (hruns.command true _ hchecked)

/-! ### The bar geometry (R120, R141) -/

/-- A bar geometry set, with the tiles of zones that have another overlap discarded. -/
def State.setGeometry (s : State) (g : Geometry) : State := { s with
  lines := { s.lines with geometry := g }
  render := { s.render with zones := keepZones g s.render.zones, zonesNext := s.render.zonesNext.map (keepZones g) } }

/-- The heads with a record that a geometry gives a place they had not before (R233). -/
def State.newlyPlaced (s : State) (g : Geometry) : List Nat :=
  (List.range 32).filter fun n => (s.port n).record.isSome && (g.head n).present && !(s.lines.geometry.head n).present

/-- A bar geometry taken: set, the corrections of heads newly placed restored, the delays recomputed, and word given of each tile discarded. -/
def State.takeGeometry (s : State) (g : Geometry) : State :=
  (discardedZones g (s.render.zonesNext.getD s.render.zones)).foldl (fun s z => s.info 0x8601 0 (w32 z))
    ((s.newlyPlaced g).foldl State.restoreColumns (s.setGeometry g)).recomputeDelays

theorem exec_setBarGeometry {s : State} {seq t : Nat} {e : JEntry} {inp : HostList} (hruns : Runs s t seq 0x0301 true e) (hchecked : Checked (geometryChecks inp) s t e) :
    exec (.setBarGeometry seq inp t) s = .next ((((s.tick t).start seq true).takeGeometry (geometryOf inp.data)).finish seq .ok) :=
  congrArg Host.Outcome.next (hruns.commandOk _ _ _ hchecked)

theorem State.setGeometry_only (s : State) (g : Geometry) : Only [.lines, .render] s (s.setGeometry g) := by
  intro p hp
  cases p with
  | lines => exact absurd (by decide) hp
  | render => exact absurd (by decide) hp
  | _ => rfl

theorem foldl_restoreColumns_only (s : State) (l : List Nat) : Only [.loop] s (l.foldl State.restoreColumns s) :=
  Only.foldl (fun w n h => State.restoreColumns_only w n (Within.refl _) h) (Only.refl _ s)

/-- What a geometry leaves: delays recomputed from a state `u` that differs from the one before in the geometry, the zones and the corrections. -/
theorem State.takeGeometry_recomputed (s : State) (g : Geometry) : ∃ u : State, u.lines = { s.lines with geometry := g } ∧
    u.render.zones = keepZones g s.render.zones ∧ Only [.lines, .render, .loop] s u ∧ Only [.host, .evt, .out] u.recomputeDelays (s.takeGeometry g) := by
  have restored := foldl_restoreColumns_only (s.setGeometry g) (s.newlyPlaced g)
  refine ⟨_, restored .lines (by decide), congrArg Render.zones (restored .render (by decide)), ?_, ?_⟩
  · exact Only.trans (Only.wider (s.setGeometry_only g) (Within.lit rfl)) (Only.wider restored (Within.lit rfl))
  · exact Only.foldl (fun w z h => State.info_only w _ _ _ _ _ (Within.refl _) h) (Only.refl _ _)

/-- A command that takes a geometry while printing is disarmed: the delays follow it, and the command has ended. -/
theorem State.takeGeometry_in_force {s : State} {t seq op : Nat} {dma : Bool} {e : JEntry} (hruns : Runs s t seq op dma e) (hdisarmed : s.pos.armed = false) (g : Geometry) :
    let s' := (((s.tick t).start seq true).takeGeometry g).finish seq .ok
    s'.lines.geometry = g ∧ s.delaysFollow s' ∧ s'.lines.trims = s.lines.trims ∧ s'.lines.registration = s.lines.registration ∧
      s'.render.zones = keepZones g s.render.zones ∧ Ended s' seq .ok ∧ Only [.now, .host, .journal, .render, .lines, .loop, .evt, .out] s s' := by
  intro s'
  have started : Only [.now, .host, .journal, .out] s ((s.tick t).start seq true) :=
    State.start_only _ _ _ (Within.lit rfl) (State.tick_only s t (Within.lit rfl) (Only.refl _ s))
  obtain ⟨u, hlines, hzones, hu, htold⟩ := ((s.tick t).start seq true).takeGeometry_recomputed g
  have hsu : Only [.now, .host, .journal, .render, .lines, .loop, .evt, .out] s u :=
    Only.trans (Only.wider started (Within.lit rfl)) (Only.wider hu (Within.lit rfl))
  have hs' : s'.lines = u.recomputeDelays.lines := (State.finish_lines _ _ _ _ _ _ _ _).trans (htold .lines (by decide))
  have hlines : u.lines = { s.lines with geometry := g } := by rw [hlines, started .lines (by decide)]
  refine ⟨?_, (State.recomputeDelays_follow hdisarmed (hsu .pos (by decide)) (hsu .heads (by decide))).of_lines hs', ?_, ?_, ?_, ?_, ?_⟩
  · rw [hs', State.recomputeDelays_geometry, hlines]
  · rw [hs', State.recomputeDelays_trims, hlines]
  · rw [hs', State.recomputeDelays_registration, hlines]
  · rw [State.finish_render, htold .render (by decide), State.recomputeDelays_render, hzones, started .render (by decide)]
  · refine Runs.ended hruns (r := true) ?_ .ok 0 0 0 0 0
    rw [htold .journal (by decide), State.recomputeDelays_journal, hu .journal (by decide)]
  · refine State.finish_only _ _ _ _ _ _ _ _ (Within.lit rfl) (Only.trans (State.recomputeDelays_only u (Within.lit rfl) hsu) ?_)
    exact Only.wider htold (Within.lit rfl)

theorem Checks.not_busy {c : Checks} (h : c.verdict = none) : c.busy = false := by
  cases hbusy : c.busy with
  | false => rfl
  | true =>
    unfold Checks.verdict at h
    split at h
    · cases h
    · split at h
      · cases h
      · split at h
        · cases h
        · simp at h

/-- A geometry that passes its checks comes while printing is disarmed. -/
theorem disarmed_of_geometryChecks {s : State} {t : Nat} {e : JEntry} {inp : HostList} (h : Checked (geometryChecks inp) s t e) : s.pos.armed = false :=
  Checks.not_busy h

/-- Settles O9: a geometry recomputes the delays from the state that has it, and a change of trims or offset is in force at once or joins the
changes in progress. -/
theorem barAndDelays : Obligations.BarAndDelays := by
  intro s seq t e inp delay delays waits
  refine ⟨fun hruns hchecked => ?geometry, fun hruns hchecked => ⟨fun hdisarmed => ?trims, fun harmed => ?trimsLater⟩,
    fun hruns hchecked => ⟨fun hdisarmed => ?offset, fun harmed => ?offsetLater⟩⟩
  case geometry =>
    have hdisarmed := disarmed_of_geometryChecks hchecked
    obtain ⟨hgeometry, hdelays, htrims, hreg, hzones, hended, honly⟩ := State.takeGeometry_in_force hruns hdisarmed (geometryOf inp.data)
    exact ⟨_, exec_setBarGeometry hruns hchecked, hgeometry, hdelays, htrims, hreg, hzones, hended, honly⟩
  case trims =>
    obtain ⟨htrims, hreg, hgeometry, hdelays, hended, honly⟩ := hruns.changeDelays_disarmed (some (trimsOf inp.data)) none (applyPoint e 12 16) hdisarmed
    exact ⟨_, exec_setRowDelay hruns hchecked, htrims, hreg, hgeometry, hdelays, hended, honly⟩
  case trimsLater =>
    obtain ⟨hprogress, hq, htrims, hreg, hlen, ⟨c, hc, hseq, hctrims, hcreg, hnext⟩, honly⟩ :=
      hruns.changeDelays_armed (some (trimsOf inp.data)) none (applyPoint e 12 16) harmed
    exact ⟨_, exec_setRowDelay hruns hchecked, hprogress, hq, htrims, hreg, hlen,
      ⟨c, hc, hseq, hctrims, hcreg, fun h => hnext (applyPoint_next (of_decide_eq_true h))⟩, honly⟩
  case offset =>
    obtain ⟨htrims, hreg, hgeometry, hdelays, hended, honly⟩ := hruns.changeDelays_disarmed none (some (e.s32 0)) (applyPoint e 4 8) hdisarmed
    exact ⟨_, exec_setRegistration hruns hchecked, hreg, htrims, hgeometry, hdelays, hended, honly⟩
  case offsetLater =>
    obtain ⟨hprogress, hq, htrims, hreg, hlen, ⟨c, hc, hseq, hctrims, hcreg, hnext⟩, honly⟩ :=
      hruns.changeDelays_armed none (some (e.s32 0)) (applyPoint e 4 8) harmed
    exact ⟨_, exec_setRegistration hruns hchecked, hprogress, hq, htrims, hreg, hlen,
      ⟨c, hc, hseq, hctrims, hcreg, fun h => hnext (applyPoint_next (of_decide_eq_true h))⟩, honly⟩

end Sys2Proof.Machine
end

section
/-!
PROOFS. What a detection leaves alone (R370 to R373): below class 3 everything but its record and its counts, and of any class the class map and
where the pennants stand.
-/

namespace Sys2Proof.Machine

open Sys2Proof.Safety

/-! ### A detection below class 3 -/

theorem State.classEffects_mild {cls : Nat} (hmild : cls < 3) (s : State) (d : Detection) : Only [.host, .flt, .out] s (s.classEffects d cls) := by
  unfold State.classEffects
  split
  · exact Only.refl _ s
  · refine State.interrupt_only _ _ (Within.lit rfl) fun p hp => ?_
    cases p with
    | flt => exact absurd (by decide) hp
    | _ => rfl

/-- A fault recorded and latched, before its class has its effects. -/
theorem State.latched_only (s : State) (d : Detection) (cls : Nat) (injected : Bool) :
    let q := s.faultParams d
    let r := q.2.recordFault d q.1 cls injected
    Only [.host, .flt, .evt, .out, .free] s (r.1.latch d q.1 cls injected r.2.1 r.2.2) :=
  State.latch_only _ _ _ _ _ _ _ (Within.lit rfl) (State.recordFault_only _ _ _ _ _ (Within.lit rfl) (State.faultParams_only s d (Within.lit rfl) (Only.refl _ s)))

theorem State.newFault_mild {s : State} {d : Detection} (hmild : s.classOf d.code < 3) (hfatal : d.fatal = false) (injected : Bool) :
    Only [.host, .flt, .evt, .out, .free] s (s.newFault d injected) := by
  unfold State.newFault
  simp only [hfatal, Bool.false_eq_true, if_false]
  refine Only.trans ?_ (Only.wider (State.classEffects_mild hmild _ d) (Within.lit rfl))
  exact s.latched_only d _ injected

/-- A detection of a class below 3 that is not raised as fatal leaves the device's work alone: it is recorded, counted and told. -/
theorem State.detect_mild {s : State} {d : Detection} (hmild : s.classOf d.code < 3) (hfatal : d.fatal = false) :
    Only [.host, .journal, .flt, .evt, .out, .free] s (s.detect d) := by
  have fed : ∀ {u : State} (b : Bool), Only [.host, .journal, .flt, .evt, .out, .free] s u →
      Only [.host, .journal, .flt, .evt, .out, .free] s (if b then u.shotFed d.code else u) := fun {u} b h => by
    cases b with
    | false => exact h
    | true => exact State.shotFed_only u d.code (Within.lit rfl) h
  unfold State.detect
  split
  · exact Only.refl _ s
  · refine fed _ ?_
    split
    · exact State.shadowHit_only s _ d _ (Within.lit rfl) (Only.refl _ s)
    · exact Only.wider (State.newFault_mild hmild hfatal _) (Within.lit rfl)

theorem State.fault_mild {s : State} {code : Nat} (hmild : s.classOf code < 3) (unit : Nat) :
    Only [.host, .journal, .flt, .evt, .out, .free] s (s.fault code unit) :=
  State.detect_mild (d := { code := code, unit := unit }) hmild rfl

/-! ### The class map under a detection -/

theorem State.recordFault_classMap (s : State) (d : Detection) (q : BitVec 32 × BitVec 32 × Nat) (cls : Nat) (injected : Bool) :
    (s.recordFault d q cls injected).1.flt.classMap = s.flt.classMap := by
  unfold State.recordFault
  dsimp only
  split
  · rfl
  · rw [State.note_flt]; rfl

theorem State.latch_classMap (s : State) (d : Detection) (q : BitVec 32 × BitVec 32 × Nat) (cls : Nat) (injected made : Bool) (p2 : BitVec 32) :
    (s.latch d q cls injected made p2).flt.classMap = s.flt.classMap := by
  have counted : (s.flt.count cls).classMap = s.flt.classMap := by
    unfold Flt.count
    split <;> rfl
  unfold State.latch
  dsimp only
  split <;> exact counted

theorem State.classEffects_classMap (s : State) (d : Detection) (cls : Nat) : (s.classEffects d cls).flt.classMap = s.flt.classMap := by
  have pulse : (State.interrupt { s with flt := { s.flt with pulseEnd := some (s.now + 20000) } } 8).flt.classMap = s.flt.classMap := by
    rw [State.interrupt_flt]
  have entered : ∀ u : State, (u.enterFaultState d.code).flt.classMap = u.flt.classMap := fun u => by
    unfold State.enterFaultState
    rw [State.stopAxes_flt, State.disarmNow_flt]
  unfold State.classEffects
  dsimp only
  split
  · rfl
  · split
    · exact pulse
    · split
      · exact pulse
      · exact (entered _).trans pulse

theorem State.shotFed_classMap (s : State) (code : Nat) : (s.shotFed code).flt.classMap = s.flt.classMap := by
  unfold State.shotFed
  dsimp only
  split
  · rfl
  · split
    · rw [State.endInjection_flt]
    · rfl

/-- A detection leaves the class map. -/
theorem State.detect_classMap (s : State) (d : Detection) : (s.detect d).flt.classMap = s.flt.classMap := by
  have fed : ∀ (u : State) (b : Bool), (if b then u.shotFed d.code else u).flt.classMap = u.flt.classMap := fun u b => by
    cases b with
    | false => rfl
    | true => exact u.shotFed_classMap d.code
  unfold State.detect
  split
  · rfl
  · refine (fed _ _).trans ?_
    split
    · unfold State.shadowHit
      dsimp only
      rw [State.note_flt]
    · unfold State.newFault
      rw [State.classEffects_classMap, State.latch_classMap, State.recordFault_classMap]
      rfl

/-- The class of a code after a detection. -/
theorem State.classOf_detect (s : State) (d : Detection) (code : Nat) : (s.detect d).classOf code = s.classOf code := by
  simp only [State.classOf, State.detect_classMap]

/-! ### Pennants under a detection of any class -/

/-- Where a pennant stands: its state and the code that fenced it. -/
def State.fenceOf (s : State) (i : Nat) : PennantState × Nat := ((s.pennant i).state, (s.pennant i).fencedCode)

theorem State.fenceOf_of_only {m : List Part} {s t : State} (h : Only m s t) (hrender : Part.render ∉ m) (i : Nat) : t.fenceOf i = s.fenceOf i := by
  have hr : t.render = s.render := h .render hrender
  simp only [State.fenceOf, State.pennant, hr]

theorem Tbl.get_map {α : Type} {d : α} {f : α → α} (hf : f d = d) (t : List α) (i : Nat) : Tbl.get d (t.map f) i = f (Tbl.get d t i) := by
  simp only [Tbl.get, List.getD_eq_getElem?_getD, List.getElem?_map]
  cases t[i]? with
  | none => exact hf.symm
  | some x => rfl

theorem State.clearPrinting_fenceOf (s : State) (i : Nat) : s.clearPrinting.fenceOf i = s.fenceOf i := by
  have told : ∀ (l : List Page), Only [.host, .store, .evt, .out] s (l.foldl State.tellPage s) := fun l =>
    Only.foldl (fun u p h => State.tellPage_only u p (Within.refl _) h) (Only.refl _ s)
  have ended : ∀ (l : List DelayChange) (u : State), Only [.host, .journal, .out] u (l.foldl (fun s c => s.finish c.seq .ok (w32 (b2n c.late))) u) := fun l u =>
    Only.foldl (fun u c h => State.finish_only u _ _ _ _ _ _ _ (Within.refl _) h) (Only.refl _ u)
  unfold State.clearPrinting
  refine (State.fenceOf_of_only (ended _ _) (by decide) i).trans ?_
  refine Eq.trans ?_ (State.fenceOf_of_only (told s.store.pages) (by decide) i)
  simp only [State.fenceOf, State.pennant]
  rw [Tbl.get_map rfl]

theorem State.disarmNow_fenceOf (s : State) (block i : Nat) : (s.disarmNow block).fenceOf i = s.fenceOf i := by
  have spoiled := State.disarmPages_only s block (Within.refl _) (Only.refl _ s)
  unfold State.disarmNow
  split
  · rfl
  · exact (State.clearPrinting_fenceOf _ i).trans (State.fenceOf_of_only spoiled (by decide) i)

theorem State.enterFaultState_fenceOf (s : State) (code i : Nat) : (s.enterFaultState code).fenceOf i = s.fenceOf i := by
  unfold State.enterFaultState
  refine (State.fenceOf_of_only (State.stopAxes_only _ 2 7 0 (Within.refl _) (Only.refl _ _)) (by decide) i).trans ?_
  exact State.disarmNow_fenceOf _ _ i

theorem State.haltStaff_fenceOf (s : State) (code i : Nat) : (s.haltStaff code).fenceOf i = s.fenceOf i := rfl

theorem State.classEffects_fenceOf (s : State) (d : Detection) (cls i : Nat) : (s.classEffects d cls).fenceOf i = s.fenceOf i := by
  have pulse : (State.interrupt { s with flt := { s.flt with pulseEnd := some (s.now + 20000) } } 8).fenceOf i = s.fenceOf i :=
    State.fenceOf_of_only (State.interrupt_only _ 8 (Within.refl _) (Only.refl _ _)) (by decide) i
  unfold State.classEffects
  dsimp only
  split
  · rfl
  · split
    · exact pulse
    · split
      · rw [State.haltStaff_fenceOf, pulse]
      · rw [State.haltStaff_fenceOf, State.enterFaultState_fenceOf, pulse]

theorem State.newFault_fenceOf (s : State) (d : Detection) (injected : Bool) (i : Nat) : (s.newFault d injected).fenceOf i = s.fenceOf i := by
  have latched := s.latched_only d (if d.fatal then 3 else s.classOf d.code) injected
  unfold State.newFault
  dsimp only at latched ⊢
  rw [State.classEffects_fenceOf]
  exact State.fenceOf_of_only latched (by decide) i

/-- A detection fences no pennant by itself, and returns none. -/
theorem State.detect_fenceOf (s : State) (d : Detection) (i : Nat) : (s.detect d).fenceOf i = s.fenceOf i := by
  have fed : ∀ (u : State) (b : Bool), (if b then u.shotFed d.code else u).fenceOf i = u.fenceOf i := fun u b => by
    cases b with
    | false => rfl
    | true => exact State.fenceOf_of_only (State.shotFed_only u d.code (Within.refl _) (Only.refl _ u)) (by decide) i
  unfold State.detect
  split
  · rfl
  · refine (fed _ _).trans ?_
    split
    · exact State.fenceOf_of_only (State.shadowHit_only s _ d _ (Within.refl _) (Only.refl _ s)) (by decide) i
    · exact s.newFault_fenceOf d _ i

/-- A fault that is detected and that no window shadows brings about what it does. -/
theorem State.unlessShadowed_detected {s : State} {d : Detection} (h : Detected s d.code d.unit) (f : State → State) : s.unlessShadowed d f = f s := by
  obtain ⟨_, _, hheld, hshadow⟩ := h
  unfold State.unlessShadowed
  rw [hheld, hshadow]
  rfl

end Sys2Proof.Machine
end

section
/-!
PROOFS. Line-store errors (R116 to R118): the stripe-hoist that a spare computes again, the one that is blank, and the word that is blank.
-/

namespace Sys2Proof.Machine

open Sys2Proof.Safety

/-! ### Hoists and pennants -/

theorem State.hoist?_k {s : State} {k : Int} {h : Hoist} (hk : s.hoist? k = some h) : h.k = k := by
  simpa using List.find?_some hk

theorem State.hoist?_updHoist (s : State) (k : Int) {f : Hoist → Hoist} (hf : ∀ h, (f h).k = h.k) :
    (s.updHoist k f).hoist? k = (s.hoist? k).map f := by
  have same : ((fun h : Hoist => h.k == k) ∘ fun h => if h.k == k then f h else h) = fun h => h.k == k := by
    funext h
    simp only [Function.comp]
    split
    · rw [hf]
    · rfl
  simp only [State.updHoist, State.hoist?, List.find?_map, same]
  cases hfind : s.render.hoists.find? fun h => h.k == k with
  | none => rfl
  | some h => simp [State.hoist?_k hfind]

@[simp] theorem State.pennant_updPennant (s : State) (p : Nat) (f : Pennant → Pennant) : (s.updPennant p f).pennant p = f (s.pennant p) :=
  Tbl.get_upd_same _ _ _ _

theorem State.pennant_updPennant_ne (s : State) {p i : Nat} (f : Pennant → Pennant) (h : i ≠ p) : (s.updPennant p f).pennant i = s.pennant i :=
  Tbl.get_upd_ne _ _ _ h

@[simp] theorem State.pennant_updHoist (s : State) (k : Int) (f : Hoist → Hoist) (i : Nat) : (s.updHoist k f).pennant i = s.pennant i := rfl

theorem State.hoist?_congr {s t : State} (h : t.render = s.render) (k : Int) : t.hoist? k = s.hoist? k := by
  simp only [State.hoist?, h]

theorem State.pennant_congr {s t : State} (h : t.render = s.render) (i : Nat) : t.pennant i = s.pennant i := by
  simp only [State.pennant, h]

/-- An owner of a stripe is known by the states and stripes of the pennants. -/
theorem State.ownerOf_congr {s t : State} (h : ∀ i, (t.pennant i).state = (s.pennant i).state ∧ (t.pennant i).stripe = (s.pennant i).stripe) (st : Nat) :
    t.ownerOf st = s.ownerOf st := by
  have same : ∀ i, ((t.pennant i).state == .active && (t.pennant i).stripe == some st) = ((s.pennant i).state == .active && (s.pennant i).stripe == some st) := fun i => by
    rw [(h i).1, (h i).2]
  simp only [State.ownerOf, same]

theorem State.spareFor_congr {s t : State} (h : ∀ i, t.pennant i = s.pennant i) : t.spareFor = s.spareFor := by
  simp only [State.spareFor, h]

theorem State.spareFor_spare {s : State} {q : Nat} (h : s.spareFor = some q) : (s.pennant q).state = .spare := by
  unfold State.spareFor at h
  split at h
  case h_1 hidle =>
    obtain rfl := Option.some.inj h
    have := List.find?_some hidle
    simp only [Bool.and_eq_true, beq_iff_eq] at this
    exact this.1
  case h_2 =>
    have := List.find?_some h
    simp only [Bool.and_eq_true, beq_iff_eq] at this
    exact this.1

/-! ### A stripe-hoist given to an idle spare (R118) -/

/-- A hoist with a stripe out of its slot. -/
def Hoist.without (st : Nat) (h : Hoist) : Hoist := { h with stripes := h.stripes.filter fun x => x.index != st }

/-- The work of a replay that a pennant is given now. -/
def State.replayWork (s : State) (q : Nat) (h : Hoist) (st : Nat) : PennantWork :=
  { task := .replay, hoist := h.k, stripe := st, since := s.now, decodeAgain := (s.sliceSource q h st).2, reserve := (s.sliceSource q h st).1 }

theorem State.queueFrames_render (s : State) (h : Hoist) (st : Nat) (again : Bool) : (s.queueFrames h st again).render = s.render :=
  State.queueFrames_only s h st again (Within.refl _) (Only.refl _ s) .render (by decide)

/-- A replay given to a pennant without work is its only work, and changes nothing else of the pennants and hoists. -/
theorem State.giveReplay_render {s : State} {q : Nat} (hidle : (s.pennant q).work = []) (h : Hoist) (st : Nat) :
    (s.giveReplay q h st).render = (s.updPennant q fun p => { p with work := p.work ++ [s.replayWork q h st] }).render := by
  have hfree : s.freePennant q = s := by simp [State.freePennant, hidle]
  unfold State.giveReplay State.giveWork
  rw [hfree, State.queueFrames_render]
  rfl

/-- The stripe-hoist leaves its slot, and the spare computes it without taking the stripe. -/
theorem State.replayBand_spare {s : State} {k : Int} {h : Hoist} {q : Nat} (hk : s.hoist? k = some h) (hspare : s.spareFor = some q)
    (hidle : (s.pennant q).work = []) (st : Nat) : ∃ w, ((s.replayBand k st).pennant q).state = .spare ∧ ((s.replayBand k st).pennant q).work = [w] ∧
      (w.task, w.hoist, w.stripe) = (.replay, k, st) ∧ (s.replayBand k st).ownerOf st = s.ownerOf st ∧
      ∀ h', (s.replayBand k st).hoist? k = some h' → ∀ x ∈ h'.stripes, x.index ≠ st := by
  have hgiven : s.replayBand k st = (s.updHoist k (Hoist.without st)).giveReplay q h st := by
    unfold State.replayBand
    rw [hk]
    dsimp only
    rw [State.spareFor_congr (s.pennant_updHoist k _), hspare]
    rfl
  rw [hgiven]
  generalize hu : (s.updHoist k (Hoist.without st)) = u
  have hpennant : ∀ i, u.pennant i = s.pennant i := fun i => by rw [← hu, State.pennant_updHoist]
  have hrender := State.giveReplay_render (s := u) (q := q) (by rw [hpennant, hidle]) h st
  have hq : (u.giveReplay q h st).pennant q = { s.pennant q with work := [u.replayWork q h st] } := by
    rw [State.pennant_congr hrender, State.pennant_updPennant, hpennant, hidle]
    rfl
  refine ⟨u.replayWork q h st, ?_, by rw [hq], ?_, State.ownerOf_congr (fun i => ?_) st, fun h' hh' x hx => ?_⟩
  · rw [hq]; exact State.spareFor_spare hspare
  · rw [State.replayWork, State.hoist?_k hk]
  · by_cases hi : i = q
    · subst hi; rw [hq]; exact ⟨rfl, rfl⟩
    · rw [State.pennant_congr hrender, State.pennant_updPennant_ne _ _ hi, hpennant]; exact ⟨rfl, rfl⟩
  · have hfiltered : (s.hoist? k).map (Hoist.without st) = some h' := by
      rw [← State.hoist?_updHoist s k (f := Hoist.without st) (fun _ => rfl), hu, ← hh']
      exact (State.hoist?_congr hrender k).symm
    rw [hk] at hfiltered
    obtain rfl := Option.some.inj hfiltered
    simpa using (List.mem_filter.1 hx).2

/-! ### A stripe-hoist whose row selection read a bad word (R24, R118) -/

/-- A hoist with a stripe blank and out of its slot. -/
def Hoist.blankAt (st : Nat) (h : Hoist) : Hoist :=
  { h with blanked := h.blanked ++ [st], stripes := h.stripes.filter fun y => y.index != st }

/-- An unready stripe that fires level 0 leaves the hoists, where its fault is below class 3. -/
theorem State.spoilBlank_one_hoist? {s : State} (hmild : s.classOf 0x0507 < 3) (h : Hoist) (st : Nat) (k : Int) :
    (s.spoilBlank h [st] false).hoist? k = s.hoist? k := by
  have told := State.detect_mild (d := { code := 0x0507, unit := (s.ownerOf st).getD 0, p0 := some (w32 st), p1 := some (w32i h.k) }) hmild rfl
  have only : Only [.host, .journal, .store, .ring, .flt, .evt, .hb, .out, .free] s (s.spoilBlank h [st] false) := by
    unfold State.spoilBlank
    exact Only.foldl (fun u p hu => State.spoilAt_only u p _ _ _ _ (Within.lit rfl) hu)
      (State.hbErr_only _ _ (Within.lit rfl) (Only.wider told (Within.lit rfl)))
  exact State.hoist?_congr (only .render (by decide)) k

theorem State.selectAgain_waiting {s : State} {k : Int} {h : Hoist} (hk : s.hoist? k = some h) (hwaits : h.draining = false) (st : Nat) :
    s.selectAgain (k, st) = s := by
  simp [State.selectAgain, hk, hwaits]

/-- A stripe-hoist that drains, and is not blank yet, is blank and out of its slot. -/
theorem State.selectAgain_draining {s : State} {k : Int} {h : Hoist} {st : Nat} (hk : s.hoist? k = some h) (hdrains : h.draining = true)
    (hmild : s.classOf 0x0507 < 3) (hst : st < h.tables.widths.length) (hblank : st ∉ h.blanked) :
    (s.selectAgain (k, st)).hoist? k = some (h.blankAt st) := by
  have hnew : has st h.blanked = false := by simpa [has] using fun x hx (e : x = st) => hblank (e ▸ hx)
  have heq : s.selectAgain (k, st) = State.blankStripe h.tables.widths k
      ((s.updHoist k (Hoist.blankAt st)).spoilBlank h [st] false) st := by
    simp only [State.selectAgain, hk, Option.some_or, hdrains, hnew, Nat.not_le.2 hst, Bool.not_true, decide_false, Bool.or_self, Bool.false_eq_true, if_false]
    rfl
  have blanked := State.blankStripe_only h.tables.widths k
    ((s.updHoist k (Hoist.blankAt st)).spoilBlank h [st] false) st
    (Within.refl _) (Only.refl _ _)
  rw [heq, State.hoist?_congr (blanked .render (by decide)), State.spoilBlank_one_hoist? (s := s.updHoist k _) hmild, State.hoist?_updHoist s k (f := Hoist.blankAt st) (fun _ => rfl), hk]
  rfl

/-! ### A bad word of a draining slot or of the delay region (R118) -/

theorem State.badWord_blanked {s : State} (hmild : s.classOf 0x0603 < 3) (row : Nat) (line : Int) (word : Nat) :
    (s.badWord row line word).lines.blanked = s.lines.blanked ++ [(row, line, word)] := by
  generalize hu : ({ s with lines := { s.lines with blanked := s.lines.blanked ++ [(row, line, word)] } } : State) = u
  have told : Only [.host, .journal, .flt, .evt, .out, .free] u (u.fault 0x0603 2) := State.fault_mild (by rw [← hu]; exact hmild) 2
  have only : Only [.host, .journal, .store, .loop, .ring, .flt, .evt, .hb, .out, .free] u (s.badWord row line word) := by
    unfold State.badWord
    rw [hu]
    exact State.spoilLine_only _ _ _ _ _ _ _ _ _ (Within.lit rfl) (State.blankEntries_only _ _ _ _ _ (Within.lit rfl)
      (State.hbErr_only _ _ (Within.lit rfl) (Only.wider told (Within.lit rfl))))
  rw [only .lines (by decide), ← hu]

/-! ### LINE_STORE_SCRUB (R116 to R118) -/

theorem State.storeShot_none {s : State} {unit : Nat} (h : s.shotAt 0x0A unit = false) (place : LineStorePlace) : s.storeShot unit place = s := by
  have hnone : s.shot? 0x0A unit = none := by simpa [State.shotAt] using h
  simp [State.storeShot, hnone]

theorem exec_lineStoreScrub_none {s : State} {t : Nat} (h : s.shotAt 0x0A 0 = false) : exec (.lineStoreScrub none t) s = .next (s.tick t) := by
  show execLineStoreScrub none t s = _
  unfold execLineStoreScrub
  dsimp only
  rw [State.storeShot_none (s := s.tick t) h, ite_self]

theorem exec_lineStoreScrub_error {s : State} (hpower : s.power.phase ≠ .powerOnReset) (hwarm : s.power.phase ≠ .warmReset) (err : LineStoreError) (t : Nat) :
    exec (.lineStoreScrub (some err) t) s = .next ((s.tick t).lineStoreError err) :=
  if_neg (not_or.2 ⟨hpower, hwarm⟩)

/-- The region of a place, as the unit of its fault counts it. -/
def regionOf : LineStorePlace → Nat
  | .table _ => 0
  | .band .. => 1
  | .drainingOrDelay .. => 2

/-- An error that is corrected is a detection of 0x0601 in its region; in a band slot, where the slot holds a hoist. -/
theorem State.lineStoreError_corrected {s : State} {place : LineStorePlace} (hheld : ∀ k st, place = .band k st → (s.hoist? k).isSome = true) :
    s.lineStoreError ⟨place, false⟩ = s.fault 0x0601 (regionOf place) := by
  cases place with
  | table l => rfl
  | band k st =>
    obtain ⟨h, hk⟩ := Option.isSome_iff_exists.1 (hheld k st rfl)
    simp [State.lineStoreError, hk, regionOf]
  | drainingOrDelay row line word => rfl

theorem State.lineStoreError_band {s : State} {k : Int} {h : Hoist} {st : Nat} (hk : s.hoist? k = some h) (hwaits : h.draining = false)
    (hcommitted : (h.stripes.any fun x => x.index == st) = true) : s.lineStoreError ⟨.band k st, true⟩ = (s.fault 0x0602 1).replayBand k st := by
  simp only [State.lineStoreError, hk, hwaits, hcommitted, Bool.not_true, Bool.false_eq_true, if_false, if_true]

end Sys2Proof.Machine
end

section
/-!
PROOFS. Fenced units (R391): what UNIT_AUTO_RETURN resets or leaves fenced, and how UNIT_SHADOW_END ends a shadow.
-/

namespace Sys2Proof.Machine

open Sys2Proof.Safety

/-! ### Units and lanes -/

@[simp] theorem State.unit_updUnit (s : State) (u : Nat) (f : Decompressor → Decompressor) : (s.updUnit u f).unit u = f (s.unit u) := Tbl.get_upd_same _ _ _ _

@[simp] theorem State.lane_updLane (s : State) (l : Nat) (f : Lane → Lane) : (s.updLane l f).lane l = f (s.lane l) := Tbl.get_upd_same _ _ _ _

theorem State.unit_congr {s t : State} (h : t.codec = s.codec) (u : Nat) : t.unit u = s.unit u := by simp only [State.unit, h]

theorem State.lane_congr {s t : State} (h : t.codec = s.codec) (l : Nat) : t.lane l = s.lane l := by simp only [State.lane, h]

theorem State.port_congr {s t : State} (h : t.heads = s.heads) (n : Nat) : t.port n = s.port n := by simp only [State.port, h]

/-! ### A block reset (R380, R384) -/

theorem State.dropInjections_flt (s : State) (p : Injection → Bool) :
    (s.dropInjections p).flt = { s.flt with injections := s.flt.injections.filter fun i => !p i } := by
  have ended : ∀ (l : List Injection) (u : State), (l.foldl State.endInjection u).flt = u.flt := fun l u =>
    Only.foldl (fun v i h => State.endInjection_only v i (Within.refl _) h) (Only.refl _ u) .flt (by decide)
  exact ended _ _

/-- The last window opened is that of the block reset, with its parent. -/
def State.windowOf (s : State) (b : ResetBlock) (parent : Nat) : Prop := s.flt.windows.head?.map (·.block) = some b ∧ s.flt.shadowParent = parent

theorem State.issueReset_window (s : State) (b : ResetBlock) (parent : Nat) (checkers : List Nat) (unit : Nat) :
    (s.issueReset b parent checkers unit).windowOf b parent := by
  unfold State.windowOf State.issueReset
  rw [State.dropInjections_flt]
  exact ⟨rfl, rfl⟩

/-! ### UNIT_AUTO_RETURN (R391) -/

/-- A row with a first case that does not hold goes to one of two states. -/
theorem next_of_ite {stays used : Prop} [Decidable stays] [Decidable used] {a b c : State} (h : ¬ stays) :
    (if stays then (.next a : Host.Outcome State Fault Refusal) else if used then .next b else .next c) = .next (if used then b else c) :=
  (if_neg h).trans (apply_ite Host.Outcome.next used b c).symm

/-- What keeps a fenced unit from its return: nothing, where no reset is under way and its fence has a code. -/
theorem fenced_returns {α : Type} [BEq α] [LawfulBEq α] {state fenced : α} {due : Bool} {code : Nat} (hstate : state = fenced) (hdue : due = false) (hcode : code ≠ 0) :
    ¬ ((state != fenced || due || code == 0) = true) := by
  simp [hstate, hdue, hcode]

theorem exec_unitAutoReturn_pennant {s : State} (hrun : s.power.phase = .running) {p : Fin 16} (hstate : (s.pennant p).state = .fenced)
    (hdue : (s.pennant p).resetDue = false) (hcode : (s.pennant p).fencedCode ≠ 0) (t : Nat) : exec (.unitAutoReturn (.pennant p) t) s =
    .next (if 2 ≤ recentReturns (max s.now t) day (s.pennant p).returns then
      ((s.tick t).updPennant p fun x => { x with fencedCode := 0 }).info 0x8204 p (w32 (s.pennant p).fencedCode)
    else ((s.tick t).updPennant p fun x => { x with returns := max s.now t :: x.returns }).resetPennant p (s.pennant p).fencedCode) :=
  (if_neg (not_not_intro hrun)).trans (next_of_ite (fenced_returns hstate hdue hcode))

theorem exec_unitAutoReturn_decompressor {s : State} (hrun : s.power.phase = .running) {u : Fin 4} (hstate : (s.unit u).state = .fenced)
    (hdue : (s.unit u).resetDue = false) (hcode : (s.unit u).fencedCode ≠ 0) (t : Nat) : exec (.unitAutoReturn (.decompressor u) t) s =
    .next (if 2 ≤ recentReturns (max s.now t) day (s.unit u).returns then
      ((s.tick t).updUnit u fun x => { x with fencedCode := 0 }).info 0x8204 u (w32 (s.unit u).fencedCode)
    else ((s.tick t).updUnit u fun x => { x with returns := max s.now t :: x.returns }).resetDecompressor u (s.unit u).fencedCode) :=
  (if_neg (not_not_intro hrun)).trans (next_of_ite (fenced_returns hstate hdue hcode))

theorem exec_unitAutoReturn_lane {s : State} (hrun : s.power.phase = .running) {n : Fin 32} (hstate : (s.lane n).state = .fenced)
    (hdue : (s.lane n).resetDue = false) (hcode : (s.lane n).fencedCode ≠ 0) (t : Nat) : exec (.unitAutoReturn (.lane n) t) s =
    .next (if 2 ≤ recentReturns (max s.now t) day (s.lane n).returns then
      ((s.tick t).updLane n fun x => { x with fencedCode := 0 }).info 0x8204 n (w32 (s.lane n).fencedCode)
    else ((s.tick t).updLane n fun x => { x with returns := max s.now t :: x.returns }).resetLane n (s.lane n).fencedCode) :=
  (if_neg (not_not_intro hrun)).trans (next_of_ite (fenced_returns hstate hdue hcode))

/-- A head port's return: its reset is issued and its bring-up starts. -/
def State.returnPort (s : State) (n : Nat) : State :=
  ((s.updPort n fun p => { p with returns := s.now :: p.returns, attempts := 1, limitRate := false }).issueReset (.headPort n) 0x0801 [0x0D] n).startBringup n
    (s.port n).legacy true

theorem exec_unitAutoReturn_headPort {s : State} (hrun : s.power.phase = .running) {n : Fin 32} {t : Nat} (hstate : (s.port n).state = .fenced)
    (hcode : (s.port n).fencedCode = 0x0801) (hpres : (s.port n).presLow = true) (hwait : (s.port n).fencedAt + 10000000 ≤ max s.now t) :
    exec (.unitAutoReturn (.headPort n) t) s = .next (if 3 ≤ recentReturns (max s.now t) hour (s.port n).returns then
      ((s.tick t).updPort n fun p => { p with fencedCode := 0 }).info 0x8204 n (w32 0x0801)
    else (s.tick t).returnPort n) := by
  have hreturns : ¬ (((s.port n).state != .fenced || (s.port n).fencedCode != 0x0801 || !(s.port n).presLow || decide (max s.now t < (s.port n).fencedAt + 10000000)) = true) := by
    simp only [hstate, hcode, hpres, Nat.not_lt.2 hwait, bne_self_eq_false, Bool.not_true, Bool.or_self, decide_false, Bool.false_eq_true, not_false_eq_true]
  exact (if_neg (not_not_intro hrun)).trans (next_of_ite hreturns)

/-! ### What a return leaves of its unit -/

theorem State.resetPennant_pennant (s : State) (p parent : Nat) : (s.resetPennant p parent).pennant p =
    { s.pennant p with resetDue := true, clean := 0, work := [], matched := 0, shadowWords := [], joins := false } := by
  have issued := State.issueReset_only (s.updPennant p fun x => { x with resetDue := true, clean := 0, work := [], matched := 0, shadowWords := [], joins := false })
    (.pennant p) parent [0x07, 0x08, 0x09] p (Within.refl _) (Only.refl _ _)
  exact (State.pennant_congr (issued .render (by decide)) p).trans (s.pennant_updPennant p _)

theorem State.resetDecompressor_unit (s : State) (u parent : Nat) : (s.resetDecompressor u parent).unit u =
    { s.unit u with resetDue := true, clean := 0, joins := false, work := none } := by
  have issued := State.issueReset_only (s.updUnit u fun x => { x with resetDue := true, clean := 0, joins := false, work := none })
    (.decompressor u) parent [0x05] u (Within.refl _) (Only.refl _ _)
  exact (State.unit_congr (issued .codec (by decide)) u).trans (s.unit_updUnit u _)

theorem State.resetLane_lane (s : State) (l parent : Nat) : (s.resetLane l parent).lane l =
    { s.lane l with resetDue := true, clean := 0, joins := false, work := none } := by
  have issued := State.issueReset_only (s.updLane l fun x => { x with resetDue := true, clean := 0, joins := false, work := none })
    (.lane l) parent [0x06] l (Within.refl _) (Only.refl _ _)
  exact (State.lane_congr (issued .codec (by decide)) l).trans (s.lane_updLane l _)

theorem State.startBringup_port (s : State) (n : Nat) (legacy through : Bool) :
    ((s.startBringup n legacy through).port n).state = .training ∧ ((s.startBringup n legacy through).port n).returns = (s.port n).returns := by
  have trained : ∀ u : State, (if legacy then u else u.sendTraining n).heads = u.heads := fun u => by
    cases legacy with
    | false => exact State.sendTraining_only u n (Within.refl _) (Only.refl _ u) .heads (by decide)
    | true => rfl
  unfold State.startBringup
  dsimp only
  rw [State.port_congr (trained _), State.port_updPort]
  exact ⟨rfl, rfl⟩

theorem State.returnPort_port (s : State) (n : Nat) : ((s.returnPort n).port n).state = .training ∧ ((s.returnPort n).port n).returns = s.now :: (s.port n).returns := by
  have issued := State.issueReset_only (s.updPort n fun p => { p with returns := s.now :: p.returns, attempts := 1, limitRate := false }) (.headPort n) 0x0801 [0x0D] n
    (Within.refl _) (Only.refl _ _)
  obtain ⟨hstate, hreturns⟩ := State.startBringup_port
    ((s.updPort n fun p => { p with returns := s.now :: p.returns, attempts := 1, limitRate := false }).issueReset (.headPort n) 0x0801 [0x0D] n) n (s.port n).legacy true
  refine ⟨hstate, hreturns.trans ?_⟩
  rw [State.port_congr (issued .heads (by decide)), State.port_updPort]

theorem State.returnPort_window (s : State) (n : Nat) : (s.returnPort n).windowOf (.headPort n) 0x0801 := by
  have started := State.startBringup_only
    ((s.updPort n fun p => { p with returns := s.now :: p.returns, attempts := 1, limitRate := false }).issueReset (.headPort n) 0x0801 [0x0D] n) n (s.port n).legacy true
    (Within.refl _) (Only.refl _ _)
  have window := State.issueReset_window (s.updPort n fun p => { p with returns := s.now :: p.returns, attempts := 1, limitRate := false }) (.headPort n) 0x0801 [0x0D] n
  unfold State.windowOf at window ⊢
  rw [State.returnPort, started .flt (by decide)]
  exact window

/-! ### UNIT_SHADOW_END (R111, R391) -/

/-- A unit in shadow is not kept from the end of its shadow. -/
theorem shadow_ends {α : Type} [BEq α] [LawfulBEq α] {state shadow : α} (h : state = shadow) : ¬ ((state != shadow) = true) := by
  simp [h]

section
variable {s : State} (t : Nat)

theorem exec_unitShadowEnd_pennant_mismatch {p : Fin 16} (hstate : (s.pennant p).state = .shadow) :
    exec (.unitShadowEnd (.pennant p) false t) s = .next ((s.tick t).pennantMismatch p) :=
  if_neg (shadow_ends hstate)

theorem exec_unitShadowEnd_pennant_agreed {p : Fin 16} (hstate : (s.pennant p).state = .shadow) : exec (.unitShadowEnd (.pennant p) true t) s =
    if (s.pennant p).clean < 3 || (s.pos.armed && decide ((s.pennant p).matched < 2)) then .next (s.tick t)
    else .next ((s.tick t).updPennant p fun y => { y with joins := true }) :=
  if_neg (shadow_ends hstate)

theorem exec_unitShadowEnd_decompressor_mismatch {u : Fin 4} (hstate : (s.unit u).state = .shadow) :
    exec (.unitShadowEnd (.decompressor u) false t) s = .next ((s.tick t).unitMismatchAs { code := 0x0403, unit := u }) :=
  if_neg (shadow_ends hstate)

theorem exec_unitShadowEnd_decompressor_agreed {u : Fin 4} (hstate : (s.unit u).state = .shadow) (hclean : 3 ≤ (s.unit u).clean) :
    exec (.unitShadowEnd (.decompressor u) true t) s = .next ((s.tick t).updUnit u fun y => { y with joins := true }) :=
  (if_neg (shadow_ends hstate)).trans (if_neg (Nat.not_lt.2 hclean))

theorem exec_unitShadowEnd_lane_mismatch {n : Fin 32} (hstate : (s.lane n).state = .shadow) :
    exec (.unitShadowEnd (.lane n) false t) s = .next ((s.tick t).laneMismatchAs { code := 0x0404, unit := n }) :=
  if_neg (shadow_ends hstate)

theorem exec_unitShadowEnd_lane_agreed {n : Fin 32} (hstate : (s.lane n).state = .shadow) (hclean : 3 ≤ (s.lane n).clean) :
    exec (.unitShadowEnd (.lane n) true t) s = .next ((s.tick t).updLane n fun y => { y with joins := true }) :=
  (if_neg (shadow_ends hstate)).trans (if_neg (Nat.not_lt.2 hclean))

end

/-- A pennant that disagreed is fenced with 0x0509, whatever the class of the fault does. -/
theorem State.pennantMismatch_fenced {s : State} {p : Nat} (h : Detected s 0x0509 p) : (s.pennantMismatch p).fenceOf p = (.fenced, 0x0509) := by
  unfold State.pennantMismatch State.pennantMismatchAs
  dsimp only
  rw [State.unlessShadowed_detected (d := { code := 0x0509, unit := p }) h,
    State.fenceOf_of_only (State.endReset_only _ _ _ _ (Within.refl _) (Only.refl _ _)) (by decide), State.detect_fenceOf, State.fenceOf, State.pennant_updPennant]

theorem State.detect_codec (s : State) (d : Detection) : (s.detect d).codec = s.codec :=
  State.detect_only s d (Within.refl _) (Only.refl _ s) .codec (by decide)

theorem State.endReset_codec (s : State) (cmd : Option (Nat × Nat)) (scope : Nat) (ok : Bool) : (s.endReset cmd scope ok).codec = s.codec :=
  State.endReset_only s cmd scope ok (Within.refl _) (Only.refl _ s) .codec (by decide)

theorem State.unitMismatch_fenced {s : State} {u : Nat} (h : Detected s 0x0403 u) :
    ((s.unitMismatchAs { code := 0x0403, unit := u }).unit u).state = .fenced ∧ ((s.unitMismatchAs { code := 0x0403, unit := u }).unit u).fencedCode = 0x0403 := by
  unfold State.unitMismatchAs
  dsimp only
  rw [State.unlessShadowed_detected (d := { code := 0x0403, unit := u }) h, State.unit_congr (State.endReset_codec _ _ _ _), State.unit_congr (State.detect_codec _ _),
    State.unit_updUnit]
  exact ⟨rfl, rfl⟩

theorem State.laneMismatch_fenced {s : State} {l : Nat} (h : Detected s 0x0404 l) :
    ((s.laneMismatchAs { code := 0x0404, unit := l }).lane l).state = .fenced ∧ ((s.laneMismatchAs { code := 0x0404, unit := l }).lane l).fencedCode = 0x0404 := by
  unfold State.laneMismatchAs
  dsimp only
  rw [State.unlessShadowed_detected (d := { code := 0x0404, unit := l }) h, State.lane_congr (State.detect_codec _ _), State.lane_updLane]
  exact ⟨rfl, rfl⟩

end Sys2Proof.Machine
end

section
/-!
PROOFS. Line-store errors and returns to service on a device that runs (R111, R116 to R118, R391).
-/

namespace Sys2Proof.Machine

open Sys2Proof.Safety

/-! ### LINE_STORE_SCRUB on a device that runs -/

section
variable {s : State} (hpower : s.power.phase ≠ .powerOnReset) (hwarm : s.power.phase ≠ .warmReset) (t : Nat)
include hpower hwarm

/-- A corrected error counts in the class of 0x0601. -/
theorem exec_lineStoreScrub_corrected {place : LineStorePlace} (hheld : ∀ k st, place = .band k st → (s.hoist? k).isSome = true) :
    ∃ s', exec (.lineStoreScrub (some ⟨place, false⟩) t) s = .next s' ∧
      (Detected (s.tick t) 0x0601 (regionOf place) → countOf s'.flt (s.classOf 0x0601) = min (countOf s.flt (s.classOf 0x0601) + 1) 255) := by
  refine ⟨_, exec_lineStoreScrub_error hpower hwarm _ t, fun hdetected => ?_⟩
  rw [State.lineStoreError_corrected (s := s.tick t) hheld]
  exact State.detect_counts (s := s.tick t) (d := { code := 0x0601, unit := regionOf place }) hdetected rfl

/-- An uncorrectable error in a committed stripe-hoist not yet draining gives it to an idle spare. -/
theorem exec_lineStoreScrub_band {k : Int} {st q : Nat} {h : Hoist} (hk : s.hoist? k = some h) (hwaits : h.draining = false)
    (hcommitted : (h.stripes.any fun x => x.index == st) = true) (hmild : s.classOf 0x0602 < 3) (hspare : s.spareFor = some q) (hidle : (s.pennant q).work = []) :
    ∃ s' w, exec (.lineStoreScrub (some ⟨.band k st, true⟩) t) s = .next s' ∧ (s'.pennant q).state = .spare ∧ (s'.pennant q).work = [w] ∧
      (w.task, w.hoist, w.stripe) = (.replay, k, st) ∧ s'.ownerOf st = s.ownerOf st ∧ ∀ h', s'.hoist? k = some h' → ∀ x ∈ h'.stripes, x.index ≠ st := by
  have hrender : ((s.tick t).fault 0x0602 1).render = s.render := State.fault_mild (s := s.tick t) hmild 1 .render (by decide)
  have hpennant := State.pennant_congr hrender
  obtain ⟨w, hstate, hwork, hw, howner, hgone⟩ := State.replayBand_spare (s := (s.tick t).fault 0x0602 1) ((State.hoist?_congr hrender k).trans hk)
    ((State.spareFor_congr hpennant).trans hspare) ((congrArg Pennant.work (hpennant q)).trans hidle) st
  refine ⟨_, w, (exec_lineStoreScrub_error hpower hwarm _ t).trans (congrArg _ (State.lineStoreError_band (s := s.tick t) hk hwaits hcommitted)), hstate, hwork, hw,
    howner.trans (State.ownerOf_congr (fun i => ?_) st), hgone⟩
  rw [hpennant]
  exact ⟨rfl, rfl⟩

/-- An uncorrectable error in the table region leaves the hoists not yet due, and blanks what read the word and drains. -/
theorem exec_lineStoreScrub_table {k : Int} {st : Nat} {h : Hoist} (hk : s.hoist? k = some h) (hmild : s.classOf 0x0602 < 3) (hunready : s.classOf 0x0507 < 3)
    (hst : st < h.tables.widths.length) (hblank : st ∉ h.blanked) : ∃ s' h', exec (.lineStoreScrub (some ⟨.table [(k, st)], true⟩) t) s = .next s' ∧
      s'.hoist? k = some h' ∧ (h.draining = false → h' = h) ∧ (h.draining = true → st ∈ h'.blanked ∧ ∀ x, x ∈ h'.stripes ↔ x ∈ h.stripes ∧ x.index ≠ st) := by
  have hrender : ((s.tick t).fault 0x0602 0).render = s.render := State.fault_mild (s := s.tick t) hmild 0 .render (by decide)
  have hfault := (State.hoist?_congr hrender k).trans hk
  have hexec := exec_lineStoreScrub_error hpower hwarm ⟨.table [(k, st)], true⟩ t
  cases hdrains : h.draining with
  | false => exact ⟨_, h, hexec, (congrArg (·.hoist? k) (State.selectAgain_waiting hfault hdrains st)).trans hfault, fun _ => rfl, nofun⟩
  | true =>
    have hclass : ((s.tick t).fault 0x0602 0).classOf 0x0507 < 3 := by
      rw [State.fault, State.classOf_detect]
      exact hunready
    refine ⟨_, _, hexec, State.selectAgain_draining hfault hdrains hclass hst hblank, nofun, fun _ => ⟨?_, fun x => ?_⟩⟩
    · simp [Hoist.blankAt]
    · simp [Hoist.blankAt]

/-- An uncorrectable error of a draining slot or of the delay region blanks its word. -/
theorem exec_lineStoreScrub_word (row : Fin 64) (line : Int) (word : Nat) (hmild : s.classOf 0x0603 < 3) :
    ∃ s', exec (.lineStoreScrub (some ⟨.drainingOrDelay row line word, true⟩) t) s = .next s' ∧ s'.lines.blanked = s.lines.blanked ++ [(row.val, line, word)] :=
  ⟨_, exec_lineStoreScrub_error hpower hwarm _ t, State.badWord_blanked (s := s.tick t) hmild row line word⟩

end

/-! ### UNIT_AUTO_RETURN within and past its limit -/

theorem State.info_frame (s : State) (code unit : Nat) (p0 : BitVec 32) : Only [.host, .evt, .out] s (s.info code unit p0) :=
  State.info_only s code unit p0 0 0 (Within.refl _) (Only.refl _ s)

section
variable {s : State} (hrun : s.power.phase = .running) (t : Nat)
include hrun

theorem exec_unitAutoReturn_pennant_outcome {p : Fin 16} (hstate : (s.pennant p).state = .fenced) (hdue : (s.pennant p).resetDue = false)
    (hcode : (s.pennant p).fencedCode ≠ 0) : ∃ s', exec (.unitAutoReturn (.pennant p) t) s = .next s' ∧ (s'.pennant p).state = .fenced ∧
      if 2 ≤ recentReturns (max s.now t) day (s.pennant p).returns then (s'.pennant p).fencedCode = 0 ∧ s'.flt = s.flt
      else (s'.pennant p).resetDue = true ∧ (s'.pennant p).returns = max s.now t :: (s.pennant p).returns ∧ s'.flt.windows.head?.map (·.block) = some (.pennant p) ∧
        s'.flt.shadowParent = (s.pennant p).fencedCode := by
  refine ⟨_, exec_unitAutoReturn_pennant hrun hstate hdue hcode t, ?_⟩
  by_cases hused : 2 ≤ recentReturns (max s.now t) day (s.pennant p).returns
  · simp only [if_pos hused]
    have told := ((s.tick t).updPennant p fun x => { x with fencedCode := 0 }).info_frame 0x8204 p (w32 (s.pennant p).fencedCode)
    rw [State.pennant_congr (told .render (by decide)), State.pennant_updPennant]
    exact ⟨hstate, rfl, told .flt (by decide)⟩
  · simp only [if_neg hused]
    rw [State.resetPennant_pennant, State.pennant_updPennant]
    obtain ⟨hwindow, hparent⟩ := State.issueReset_window _ (.pennant p) (s.pennant p).fencedCode _ _
    exact ⟨hstate, rfl, rfl, hwindow, hparent⟩

theorem exec_unitAutoReturn_decompressor_outcome {u : Fin 4} (hstate : (s.unit u).state = .fenced) (hdue : (s.unit u).resetDue = false)
    (hcode : (s.unit u).fencedCode ≠ 0) : ∃ s', exec (.unitAutoReturn (.decompressor u) t) s = .next s' ∧
      if 2 ≤ recentReturns (max s.now t) day (s.unit u).returns then (s'.unit u).fencedCode = 0 ∧ s'.flt = s.flt
      else (s'.unit u).resetDue = true ∧ s'.flt.windows.head?.map (·.block) = some (.decompressor u) := by
  refine ⟨_, exec_unitAutoReturn_decompressor hrun hstate hdue hcode t, ?_⟩
  by_cases hused : 2 ≤ recentReturns (max s.now t) day (s.unit u).returns
  · simp only [if_pos hused]
    have told := ((s.tick t).updUnit u fun x => { x with fencedCode := 0 }).info_frame 0x8204 u (w32 (s.unit u).fencedCode)
    rw [State.unit_congr (told .codec (by decide)), State.unit_updUnit]
    exact ⟨rfl, told .flt (by decide)⟩
  · simp only [if_neg hused]
    rw [State.resetDecompressor_unit]
    exact ⟨rfl, (State.issueReset_window _ (.decompressor u) _ _ _).1⟩

theorem exec_unitAutoReturn_lane_outcome {n : Fin 32} (hstate : (s.lane n).state = .fenced) (hdue : (s.lane n).resetDue = false)
    (hcode : (s.lane n).fencedCode ≠ 0) : ∃ s', exec (.unitAutoReturn (.lane n) t) s = .next s' ∧
      if 2 ≤ recentReturns (max s.now t) day (s.lane n).returns then (s'.lane n).fencedCode = 0 ∧ s'.flt = s.flt
      else (s'.lane n).resetDue = true ∧ s'.flt.windows.head?.map (·.block) = some (.lane n) := by
  refine ⟨_, exec_unitAutoReturn_lane hrun hstate hdue hcode t, ?_⟩
  by_cases hused : 2 ≤ recentReturns (max s.now t) day (s.lane n).returns
  · simp only [if_pos hused]
    have told := ((s.tick t).updLane n fun x => { x with fencedCode := 0 }).info_frame 0x8204 n (w32 (s.lane n).fencedCode)
    rw [State.lane_congr (told .codec (by decide)), State.lane_updLane]
    exact ⟨rfl, told .flt (by decide)⟩
  · simp only [if_neg hused]
    rw [State.resetLane_lane]
    exact ⟨rfl, (State.issueReset_window _ (.lane n) _ _ _).1⟩

theorem exec_unitAutoReturn_headPort_outcome {n : Fin 32} (hstate : (s.port n).state = .fenced) (hcode : (s.port n).fencedCode = 0x0801)
    (hpres : (s.port n).presLow = true) (hwait : (s.port n).fencedAt + 10000000 ≤ max s.now t) : ∃ s', exec (.unitAutoReturn (.headPort n) t) s = .next s' ∧
      if 3 ≤ recentReturns (max s.now t) hour (s.port n).returns then (s'.port n).state = .fenced ∧ (s'.port n).fencedCode = 0
      else (s'.port n).state = .training ∧ (s'.port n).returns = max s.now t :: (s.port n).returns ∧ s'.flt.windows.head?.map (·.block) = some (.headPort n) := by
  refine ⟨_, exec_unitAutoReturn_headPort hrun hstate hcode hpres hwait, ?_⟩
  by_cases hused : 3 ≤ recentReturns (max s.now t) hour (s.port n).returns
  · simp only [if_pos hused]
    have told := ((s.tick t).updPort n fun p => { p with fencedCode := 0 }).info_frame 0x8204 n (w32 0x0801)
    rw [State.port_congr (told .heads (by decide)), State.port_updPort]
    exact ⟨hstate, rfl⟩
  · simp only [if_neg hused]
    obtain ⟨htraining, hreturns⟩ := (s.tick t).returnPort_port n
    exact ⟨htraining, hreturns, ((s.tick t).returnPort_window n).1⟩

end

/-- Settles O11: faults of a line-store error leave the hoists, and its reaction does the rest; a return resets its unit or stays within the limit;
a shadow ends with a fence or with the mark to join. -/
theorem lineStoreAndReturns : Obligations.LineStoreAndReturns := by
  intro s t
  refine ⟨exec_lineStoreScrub_none, fun hpower hwarm => ⟨fun place hheld => ?corrected, fun k st h q hk hwaits hcommitted hmild hspare hidle =>
      exec_lineStoreScrub_band hpower hwarm t hk hwaits hcommitted hmild hspare hidle, fun k st h hk hmild hunready hst hblank =>
      exec_lineStoreScrub_table hpower hwarm t hk hmild hunready hst hblank, fun row line word hmild => exec_lineStoreScrub_word hpower hwarm t row line word hmild⟩,
    fun hrun => ⟨fun p hstate hdue hcode => exec_unitAutoReturn_pennant_outcome hrun t hstate hdue hcode,
      fun u hstate hdue hcode => exec_unitAutoReturn_decompressor_outcome hrun t hstate hdue hcode,
      fun n hstate hdue hcode => exec_unitAutoReturn_lane_outcome hrun t hstate hdue hcode,
      fun n hstate hcode hpres hwait => exec_unitAutoReturn_headPort_outcome hrun t hstate hcode hpres hwait⟩,
    fun p hstate => ⟨fun hdetected => ?pennantMismatch, fun hclean hmatched => ?pennantJoins, fun hwaits => ?pennantWaits⟩,
    fun u hstate => ⟨fun hdetected => ?unitMismatch, fun hclean => ?unitJoins⟩, fun n hstate => ⟨fun hdetected => ?laneMismatch, fun hclean => ?laneJoins⟩⟩
  case corrected =>
    cases place with
    | table l => exact exec_lineStoreScrub_corrected hpower hwarm t (place := .table l) fun _ _ e => nomatch e
    | band k st => exact exec_lineStoreScrub_corrected hpower hwarm t (place := .band k st) fun _ _ e => by cases e; exact hheld
    | drainingOrDelay row line word => exact exec_lineStoreScrub_corrected hpower hwarm t (place := .drainingOrDelay row line word) fun _ _ e => nomatch e
  case pennantMismatch =>
    have hfence := State.pennantMismatch_fenced hdetected
    exact ⟨_, exec_unitShadowEnd_pennant_mismatch t hstate, congrArg Prod.fst hfence, congrArg Prod.snd hfence⟩
  case pennantJoins =>
    have hjoins : ¬ (((s.pennant p).clean < 3 || (s.pos.armed && decide ((s.pennant p).matched < 2))) = true) := by
      simp only [Bool.or_eq_true, Bool.and_eq_true, decide_eq_true_eq, not_or, not_and]
      exact ⟨Nat.not_lt.2 hclean, fun harmed => Nat.not_lt.2 (hmatched harmed)⟩
    exact ⟨_, (exec_unitShadowEnd_pennant_agreed t hstate).trans (if_neg hjoins), (s.tick t).pennant_updPennant p _, fun i hi => State.pennant_updPennant_ne _ _ hi,
      State.updPennant_only _ _ _ (Within.lit rfl) (State.tick_only s t (Within.lit rfl) (Only.refl _ s))⟩
  case pennantWaits => exact (exec_unitShadowEnd_pennant_agreed t hstate).trans (if_pos (by simpa using hwaits))
  case unitMismatch =>
    obtain ⟨hfenced, hcode⟩ := State.unitMismatch_fenced hdetected
    exact ⟨_, exec_unitShadowEnd_decompressor_mismatch t hstate, hfenced, hcode⟩
  case unitJoins =>
    exact ⟨_, exec_unitShadowEnd_decompressor_agreed t hstate hclean, (s.tick t).unit_updUnit u _,
      State.updUnit_only _ _ _ (Within.lit rfl) (State.tick_only s t (Within.lit rfl) (Only.refl _ s))⟩
  case laneMismatch =>
    obtain ⟨hfenced, hcode⟩ := State.laneMismatch_fenced hdetected
    exact ⟨_, exec_unitShadowEnd_lane_mismatch t hstate, hfenced, hcode⟩
  case laneJoins =>
    exact ⟨_, exec_unitShadowEnd_lane_agreed t hstate hclean, (s.tick t).lane_updLane n _,
      State.updLane_only _ _ _ (Within.lit rfl) (State.tick_only s t (Within.lit rfl) (Only.refl _ s))⟩

end Sys2Proof.Machine
end

section
/-!
PROOFS. What the operations of the nozzle health loop do (R222 to R227, R229): marks, flags, the ends of probes, column corrections.
-/

namespace Sys2Proof.Machine

open Sys2Proof.Safety

/-! ### Sparse tables and lists of numbers -/

theorem SMap.get_erase {α : Type} (d : α) (k j : Nat) (m : List (Nat × α)) :
    SMap.get d (SMap.erase k m) j = if j = k then d else SMap.get d m j := by
  unfold SMap.get
  rw [SMap.find?_erase]
  split <;> rfl

theorem SMap.get_set {α : Type} [DecidableEq α] (d : α) (m : List (Nat × α)) (k j : Nat) (v : α) :
    SMap.get d (SMap.set d m k v) j = if j = k then v else SMap.get d m j := by
  split
  · next h => rw [h, SMap.get_set_self]
  · next h => exact SMap.get_set_ne m v h

theorem has_iff_mem {n : Nat} {l : List Nat} : has n l = true ↔ n ∈ l := by
  simp [has]

theorem has_addNew_self (n : Nat) (l : List Nat) : has n (addNew n l) = true := by
  unfold addNew
  split
  · assumption
  · simp [has]

/-! ### Frames -/

theorem Only.with_loop {m : List Part} {s t : State} (h : Only m s t) (hloop : Part.loop ∈ m) (l : Loop) : Only m s { t with loop := l } :=
  fun p hp => by
    cases p with
    | loop => exact absurd hloop hp
    | _ => exact h _ hp

@[simp] theorem State.columnDirty_loop (s : State) (c : Nat) : (s.columnDirty c).loop = s.loop :=
  State.columnDirty_only s c (Within.refl _) (Only.refl _ s) .loop (by decide)

/-! ### Nozzle states (R133) -/

theorem State.nozzle_congr {s t : State} (h : t.lines = s.lines) (i : Nat) : t.nozzle i = s.nozzle i := by
  simp only [State.nozzle, h]

theorem State.nozzle_setNozzle (s : State) (i j : Nat) (v : Byte) : (s.setNozzle i v).nozzle j = if j = i then v else s.nozzle j := by
  split
  · next h => rw [h]; exact Memory.read_write_self _ _ _
  · next h => exact Memory.read_write_ne _ _ h

theorem State.nozzle_setOut_false (s : State) (i j : Nat) : (s.setOut i false).nozzle j = if j = i then s.nozzle i &&& 0xF7#8 else s.nozzle j :=
  State.nozzle_setNozzle s i j _

/-- Out bits cleared over a list, a nozzle listed twice included: clearing a clear bit does nothing. -/
theorem State.nozzle_foldl_setOut_false (l : List Nat) (s : State) (j : Nat) :
    (l.foldl (fun s i => s.setOut i false) s).nozzle j = if j ∈ l then s.nozzle j &&& 0xF7#8 else s.nozzle j := by
  induction l generalizing s with
  | nil => simp
  | cons i l ih =>
    have htwice : (s.nozzle i &&& 0xF7#8) &&& 0xF7#8 = s.nozzle i &&& 0xF7#8 := by rw [BitVec.and_assoc, BitVec.and_self]
    rw [List.foldl_cons, ih, State.nozzle_setOut_false]
    by_cases hj : j = i
    · subst hj; simp [htwice]
    · simp [hj]

/-! ### Marks (R222) -/

/-- The first of the four cases that applies: above the weak bound a candidate passes, and below it a surplus beside it comes first. -/
theorem LoopPolicy.mark_eq {q : LoopPolicy} (hbounds : q.thetaW < q.thetaD) (p : Profile) (c : Nat) (delta : Int) (share : Nat) :
    q.mark p c delta share = if -(q.thetaW : Int) < normalised delta share then .pass
      else if p.surplus c (q.thetaM * delta.natAbs / 1024) = true then .misdirected
      else if normalised delta share ≤ -(q.thetaD : Int) then .dead else .weak := by
  unfold LoopPolicy.mark
  by_cases hpass : -(q.thetaW : Int) < normalised delta share
  · have hweak : ¬ normalised delta share ≤ -(q.thetaW : Int) := by omega
    have hdead : ¬ normalised delta share ≤ -(q.thetaD : Int) := by omega
    simp [hpass, hweak, hdead]
  · have hweak : normalised delta share ≤ -(q.thetaW : Int) := by omega
    simp [hpass, hweak]

/-! ### Flags (R223 to R226) -/

theorem Mark.condition_lt (m : Mark) : m.condition < 4 := by
  cases m <;> decide

/-- Whether a flagged nozzle goes out, no probe holding it (R225): not where it is weak and alone, or the policy keeps it. -/
def State.flaggedOut (s : State) (i : Nat) (m : Mark) : Bool :=
  (s.nozzle i).getLsbD 3 || m != .weak || (s.hasPartner i && s.loop.policy.actions.getLsbD 3)

section
variable {s : State} {i : Nat} (hflags : s.loop.policy.actions.getLsbD 0 = true) (hseen : s.headSeen (i / 4096) = true)
  (hmay : s.loopMay i = true) (hfree : has i s.probeHeld = false)
include hflags hseen hmay hfree

/-- A nozzle that may be flagged and that no probe holds gets its condition and its out bit, and its window goes. -/
theorem State.flagNozzle_eq (m : Mark) : ∃ probes, s.flagNozzle i m =
    ({ s.setNozzle i (BitVec.ofNat 8 (m.condition + 8 * b2n (s.flaggedOut i m))) with
      loop := { s.loop with windows := SMap.erase i s.loop.windows, probes := probes } }).headDirty (i / 4096) true := by
  refine ⟨s.loop.probes.map fun p => if s.flaggedOut i m = true then { p with held := without i p.held } else p, ?_⟩
  simp only [State.flagNozzle, hflags, hseen, hmay, hfree, Bool.not_true, Bool.or_self, Bool.false_eq_true, if_false, Bool.not_false, Bool.and_true,
    Bool.or_false]
  rfl

theorem State.nozzle_flagNozzle (m : Mark) (j : Nat) :
    (s.flagNozzle i m).nozzle j = if j = i then BitVec.ofNat 8 (m.condition + 8 * b2n (s.flaggedOut i m)) else s.nozzle j := by
  obtain ⟨probes, heq⟩ := State.flagNozzle_eq hflags hseen hmay hfree m
  rw [heq, State.nozzle_congr (State.headDirty_lines _ _ _), ← State.nozzle_setNozzle]
  rfl

theorem State.windows_flagNozzle (m : Mark) (j : Nat) :
    SMap.get [] (s.flagNozzle i m).loop.windows j = if j = i then [] else SMap.get [] s.loop.windows j := by
  obtain ⟨probes, heq⟩ := State.flagNozzle_eq hflags hseen hmay hfree m
  rw [heq, State.headDirty_loop]
  exact SMap.get_erase _ _ _ _

theorem State.flagNozzle_outcome (m : Mark) :
    ((s.flagNozzle i m).nozzle i).toNat = m.condition + (if s.flaggedOut i m = true then 8 else 0) ∧ SMap.get [] (s.flagNozzle i m).loop.windows i = [] ∧
      ∀ j, j ≠ i → (s.flagNozzle i m).nozzle j = s.nozzle j ∧ SMap.get [] (s.flagNozzle i m).loop.windows j = SMap.get [] s.loop.windows j := by
  simp only [State.nozzle_flagNozzle hflags hseen hmay hfree, State.windows_flagNozzle hflags hseen hmay hfree]
  refine ⟨?_, if_pos trivial, fun j hj => ⟨if_neg hj, if_neg hj⟩⟩
  have hlt := m.condition_lt
  rw [if_pos trivial, BitVec.toNat_ofNat]
  cases s.flaggedOut i m <;> simp [b2n] <;> omega

end

/-! ### Column corrections (R229) -/

section
variable (s : State) (c : Nat)

/-- Whether a full window with this mean moves its column: the mean reaches the dead band, and the loop may correct the column. -/
def State.corrects (mean : Int) : Bool := !(mean.natAbs < s.loop.policy.epsilon || !s.mayCorrect c)

theorem State.corrects_iff (mean : Int) : s.corrects c mean = true ↔ s.loop.policy.epsilon ≤ mean.natAbs ∧ s.mayCorrect c = true := by
  simp [State.corrects]

theorem State.gainEntry_collects {delta : Int} (hshort : (delta :: SMap.get [] s.loop.gainWindow c).length < s.loop.policy.n) :
    (s.gainEntry c delta).loop = { s.loop with gainWindow := SMap.set [] s.loop.gainWindow c (delta :: SMap.get [] s.loop.gainWindow c) } := by
  simp only [State.gainEntry, if_pos hshort]

/-- The gain that a full window with this mean gives a column (R229). -/
def State.gainAfter (mean : Int) : Int :=
  let k : Int := ((SMap.get 16384 s.loop.kappa c : Nat) : Int)
  clamp (k - ((s.loop.policy.lambda : Int) * mean * k + 131072).fdiv 262144) s.loop.policy.kappaMin s.loop.policy.kappaMax

/-- The offset that a full window with this mean gives a column (R229). -/
def State.offsetAfter (mean : Int) : Int :=
  clamp (SMap.get 0 s.loop.offsets c - ((s.loop.policy.lambda : Int) * mean + 131072).fdiv 262144) (-64) 63

/-- A full gain window is cleared, and its mean corrects the column's gain. -/
theorem State.gainEntry_full {delta : Int} (hfull : s.loop.policy.n ≤ (delta :: SMap.get [] s.loop.gainWindow c).length) :
    let mean := windowMean (delta :: SMap.get [] s.loop.gainWindow c)
    (s.gainEntry c delta).loop = { s.loop with
      gainWindow := SMap.erase c s.loop.gainWindow
      kappa := if s.corrects c mean = true then SMap.set 16384 s.loop.kappa c (s.gainAfter c mean).toNat else s.loop.kappa } := by
  simp only [State.gainEntry, if_neg (Nat.not_lt.2 hfull), State.corrects, Bool.not_eq_true']
  split
  · next h => simp [h]
  · next h => simp only [State.columnDirty_loop, h]; rfl

/-- A full offset window is cleared, and its mean corrects the column's offset. -/
theorem State.offsetEntry_full {product : Int} (hfull : s.loop.policy.n ≤ (product :: SMap.get [] s.loop.offsetWindow c).length) :
    let mean := windowMean (product :: SMap.get [] s.loop.offsetWindow c)
    (s.offsetEntry c product).loop = { s.loop with
      offsetWindow := SMap.erase c s.loop.offsetWindow
      offsets := if s.corrects c mean = true then SMap.set 0 s.loop.offsets c (s.offsetAfter c mean) else s.loop.offsets } := by
  simp only [State.offsetEntry, if_neg (Nat.not_lt.2 hfull), State.corrects, Bool.not_eq_true']
  split
  · next h => simp [h]
  · next h => simp only [State.columnDirty_loop, h]; rfl

end

/-- A table whose column takes a new value where the correction applies. -/
theorem SMap.get_corrected {α : Type} [DecidableEq α] (d : α) (m : List (Nat × α)) (c x : Nat) (v : α) (s : State) (mean : Int) :
    SMap.get d (if s.corrects c mean = true then SMap.set d m c v else m) x =
      if x = c ∧ s.loop.policy.epsilon ≤ mean.natAbs ∧ s.mayCorrect c = true then v else SMap.get d m x := by
  simp only [← State.corrects_iff]
  by_cases hcorrects : s.corrects c mean = true
  · simp only [hcorrects, if_true, and_true]
    exact SMap.get_set d m c x v
  · simp [hcorrects]

/-! ### The end of a probe (R226, R227) -/

theorem State.endProbe_of_none {s : State} {c : Nat} (h : s.probe? c = none) : s.endProbe c = s := by
  simp only [State.endProbe, h]

/-- The loop is left without the probes on the column, and otherwise as it was. -/
theorem State.endProbe_loop (s : State) (c : Nat) : (s.endProbe c).loop = { s.loop with probes := s.loop.probes.filter fun x => x.column != c } := by
  cases h : s.probe? c with
  | none =>
    have hnone : ∀ x ∈ s.loop.probes, (x.column != c) = true := by
      simpa [State.probe?, List.find?_eq_none, bne_iff_ne] using h
    rw [State.endProbe_of_none h, List.filter_eq_self.2 hnone]
  | some p =>
    have hheld : ((p.held.filter s.loopMay).foldl (fun s i => s.setOut i false) s).loop = s.loop :=
      Only.foldl (fun u i hu => State.setOut_only u i false (Within.refl _) hu) (Only.refl [.lines] s) .loop (by decide)
    simp only [State.endProbe, h, hheld]

theorem State.endProbe_probe? (s : State) (c : Nat) : (s.endProbe c).probe? c = none := by
  simp [State.probe?, State.endProbe_loop, List.find?_eq_none]

/-- The holds released are those that the loop may change. -/
theorem State.nozzle_endProbe {s : State} {c : Nat} {p : Probe} (h : s.probe? c = some p) (i : Nat) :
    (s.endProbe c).nozzle i = if has i p.held = true ∧ s.loopMay i = true then s.nozzle i &&& 0xF7#8 else s.nozzle i := by
  have hheld := State.nozzle_foldl_setOut_false (p.held.filter s.loopMay) s i
  simp only [List.mem_filter, ← has_iff_mem] at hheld
  simp only [State.endProbe, h]
  exact hheld

/-! ### PROBE_TIMEOUT (R227) -/

theorem exec_probeTimeout_due {s : State} {col t : Nat} {p : Probe} (hprobe : s.probe? col = some p)
    (hdue : (s.loop.policy.probeTimeout : Int) ≤ s.pos.tick - p.startTick) (hruns : s.firmwareRuns = true) :
    exec (.probeTimeout col t) s = .next ((s.tick t).endProbe col) := by
  have hprobe' : (s.tick t).probe? col = some p := hprobe
  have hguard : (decide (((s.tick t).loop.policy.probeTimeout : Int) ≤ (s.tick t).pos.tick - p.startTick) && (s.tick t).firmwareRuns) = true := by
    simpa using ⟨hdue, hruns⟩
  show execProbeTimeout col t s = _
  simp only [execProbeTimeout, hprobe', hguard, if_true]

theorem exec_probeTimeout_early {s : State} {col : Nat} (t : Nat)
    (hearly : ∀ p, s.probe? col = some p → s.pos.tick - p.startTick < (s.loop.policy.probeTimeout : Int) ∨ s.firmwareRuns = false) :
    exec (.probeTimeout col t) s = .next (s.tick t) := by
  show execProbeTimeout col t s = _
  unfold execProbeTimeout
  dsimp only
  split
  · next p hprobe =>
    split
    · next hguard =>
      obtain ⟨hdue, hruns⟩ := Bool.and_eq_true_iff.1 hguard
      have hdue' : (s.loop.policy.probeTimeout : Int) ≤ s.pos.tick - p.startTick := by simpa using hdue
      rcases hearly p hprobe with hlt | hstopped
      · omega
      · exact absurd (hstopped.symm.trans hruns) (by decide)
    · rfl
  · rfl

/-- A probe past its timeout ends, and the nozzles it held that the loop may change return. -/
theorem exec_probeTimeout_outcome {s : State} {col : Nat} (t : Nat) {p : Probe} (hprobe : s.probe? col = some p)
    (hdue : (s.loop.policy.probeTimeout : Int) ≤ s.pos.tick - p.startTick) (hruns : s.firmwareRuns = true) :
    ∃ s', exec (.probeTimeout col t) s = .next s' ∧ s'.probe? col = none ∧
      (∀ i, s'.nozzle i = if has i p.held = true ∧ s.loopMay i = true then s.nozzle i &&& 0xF7#8 else s.nozzle i) ∧ Only [.now, .lines, .loop] s s' :=
  ⟨_, exec_probeTimeout_due hprobe hdue hruns, State.endProbe_probe? _ _, State.nozzle_endProbe (s := s.tick t) hprobe,
    State.endProbe_only _ _ (Within.lit rfl) (State.tick_only s t (Within.lit rfl) (Only.refl _ s))⟩

end Sys2Proof.Machine
end

section
/-!
PROOFS. Inspection profiles (R217 to R219): PROFILE_PROCESS and INSPECT_PROFILE.
-/

namespace Sys2Proof.Safety

open Sys2Proof.Machine

/-! ### Commands that run on and end later (R308, R309) -/

theorem Running.ended {s u : State} {seq : Nat} (h : Running s seq) (hu : u.journal = s.journal) (st : Status) (d r0 r1 r2 r3 : BitVec 32) :
    Ended (u.finish seq st d r0 r1 r2 r3) seq st d r0 r1 r2 r3 := by
  obtain ⟨e, he, hstate⟩ := Option.map_eq_some_iff.1 h.1
  refine State.finish_ended (e := e) ((State.entry?_congr hu seq).trans he) (by rw [hstate]; rfl) ?_ st d r0 r1 r2 r3
  rw [State.noFence, hu]
  exact h.2

/-- A command that R309 lets enter the running state later, once it enters it. -/
theorem Runs.setRunning_running {s u : State} {t seq op : Nat} {dma r : Bool} {e : JEntry} (h : Runs s t seq op dma e)
    (hu : u.journal = ((s.tick t).start seq r).journal) : Running (u.setRunning seq) seq := by
  obtain ⟨e', he, _, hfence, _⟩ := h.started r
  have hfence' : u.noFence seq := by rw [State.noFence, hu]; exact hfence
  obtain ⟨hentry, hkept⟩ := State.setRunning_entry? ((State.entry?_congr hu seq).trans he) hfence'
  exact ⟨by rw [InProgress, hentry]; rfl, hkept⟩

end Sys2Proof.Safety

namespace Sys2Proof.Machine

open Sys2Proof.Safety

/-! ### The end of a profile (R217, R218, R272) -/

theorem State.endProfile_ended {s u : State} {p : Profile} (h : Running s p.seq) (hu : u.journal = s.journal) (d : BitVec 32) (f : Findings) :
    Ended (u.endProfile p d f) p.seq .ok d (w32 f.columns) (w32 f.marks) (w32 f.flagged) (w32 f.probes) := by
  have hended := h.ended hu .ok d (w32 f.columns) (w32 f.marks) (w32 f.flagged) (w32 f.probes)
  unfold State.endProfile
  dsimp only
  split
  · rw [Ended, State.entry?_congr (State.ringSend_journal _ _ _)]
    exact hended
  · exact hended

@[simp] theorem State.endProfile_loop (s : State) (p : Profile) (d : BitVec 32) (f : Findings) : (s.endProfile p d f).loop = s.loop :=
  State.endProfile_only s p d f (Within.refl _) (Only.refl _ s) .loop (by decide)

/-! ### PROFILE_PROCESS (R219) -/

/-- Heads with one more profile with evidence each (R224). -/
def seenMore (heads : List Nat) (seen : List (Nat × Nat)) : List (Nat × Nat) :=
  heads.foldl (fun m n => SMap.insert n (SMap.get 0 m n + 1) (SMap.erase n m)) seen

/-- The oldest profile taken from those that wait, and numbered. -/
def State.dequeueProfile (s : State) (rest : List Profile) : State :=
  { s with loop := { s.loop with waiting := rest, processed := s.loop.processed + 1 } }

/-- What the columns of a profile come to, judged with the tables of the next render window. -/
def State.judged (s : State) (p : Profile) : State × Findings := s.judgeColumns (s.tableSet s.nextWindow) p

/-- The state after a profile: its columns judged, and its heads seen once more. -/
def State.afterProfile (s : State) (p : Profile) : State :=
  { (s.judged p).1 with loop := { (s.judged p).1.loop with seen := seenMore (s.judged p).2.heads (s.judged p).1.loop.seen } }

theorem exec_profileProcess_idle {s : State} (t : Nat) (h : s.firmwareRuns = false ∨ s.loop.waiting = []) :
    exec (.profileProcess t) s = .next (s.tick t) := by
  show execProfileProcess t s = _
  have htick : (s.tick t).firmwareRuns = s.firmwareRuns := rfl
  unfold execProfileProcess
  rcases h with hstopped | hnone
  · simp only [htick, hstopped, Bool.not_false, if_true]
  · simp only [State.tick_loop, hnone, ite_self]

section
variable {s : State} (t : Nat) {p : Profile} {rest : List Profile} (hruns : s.firmwareRuns = true) (hwaits : s.loop.waiting = p :: rest)
include hruns hwaits

theorem exec_profileProcess_tooOld (hold : s.tooOld p = true) :
    exec (.profileProcess t) s = .next (((s.tick t).dequeueProfile rest).endProfile p 1 {}) := by
  have hruns' : (s.tick t).firmwareRuns = true := hruns
  have hold' : ((s.tick t).dequeueProfile rest).tooOld p = true := hold
  show execProfileProcess t s = _
  unfold execProfileProcess
  simp only [hruns', State.tick_loop, hwaits, Bool.not_true, Bool.false_eq_true, if_false]
  exact if_pos hold'

theorem exec_profileProcess_judged (hold : s.tooOld p = false) :
    exec (.profileProcess t) s =
      .next ((((s.tick t).dequeueProfile rest).afterProfile p).endProfile p 0 (((s.tick t).dequeueProfile rest).judged p).2) := by
  have hruns' : (s.tick t).firmwareRuns = true := hruns
  have hold' : ¬ ((s.tick t).dequeueProfile rest).tooOld p = true := (Bool.eq_false_iff.1 hold : ¬ s.tooOld p = true)
  show execProfileProcess t s = _
  unfold execProfileProcess
  simp only [hruns', State.tick_loop, hwaits, Bool.not_true, Bool.false_eq_true, if_false]
  exact if_neg hold'

end

/-- A profile that gives no column evidence judges none. -/
theorem State.judgeColumns_of_no_evidence {s : State} {ts : TableSet} {p : Profile} (h : ∀ c, c < ts.geometry.width → s.evidence ts p c = none) :
    s.judgeColumns ts p = (s, {}) := by
  unfold State.judgeColumns
  refine List.foldlRecOn (motive := fun r => r = ((s, {}) : State × Findings)) _ _ rfl fun r hr c hc => ?_
  rw [h c (List.mem_range.1 hc)]
  exact hr

theorem State.afterProfile_only (s : State) (p : Profile) : Only [.flash, .lines, .loop] s (s.afterProfile p) :=
  Only.with_loop (State.judgeColumns_only s _ p (Within.refl _) (Only.refl _ s)) (by decide) _

theorem State.afterProfile_of_no_evidence {s : State} {p : Profile}
    (h : ∀ c, c < (s.tableSet s.nextWindow).geometry.width → s.evidence (s.tableSet s.nextWindow) p c = none) :
    s.judged p = (s, {}) ∧ s.afterProfile p = s := by
  have hjudged : s.judged p = (s, {}) := State.judgeColumns_of_no_evidence h
  refine ⟨hjudged, ?_⟩
  rw [State.afterProfile, hjudged]
  rfl

section
variable {s : State} {t : Nat} {p : Profile} (rest : List Profile)

theorem State.dequeueProfile_only : Only [.now, .loop] s ((s.tick t).dequeueProfile rest) :=
  Only.with_loop (State.tick_only s t (Within.lit rfl) (Only.refl _ s)) (by decide) _

/-- A profile taken that finds nothing ends, and the loop is as it was when it was taken. -/
theorem State.endProfile_nothing (hrunning : Running s p.seq) (d : BitVec 32) :
    let s' := ((s.tick t).dequeueProfile rest).endProfile p d {}
    Ended s' p.seq .ok d ∧ s'.loop = ((s.tick t).dequeueProfile rest).loop ∧ Only [.now, .host, .journal, .loop, .ring, .out] s s' :=
  ⟨State.endProfile_ended hrunning ((State.dequeueProfile_only rest) .journal (by decide)) d {}, State.endProfile_loop _ _ _ _,
    State.endProfile_only _ _ _ _ (Within.lit rfl) (Only.wider (State.dequeueProfile_only rest) (Within.lit rfl))⟩

/-- A profile taken and judged ends with what it found. -/
theorem State.endProfile_judged (hrunning : Running s p.seq) :
    let s1 := (s.tick t).dequeueProfile rest
    let f := (s1.judged p).2
    let s' := (s1.afterProfile p).endProfile p 0 f
    Ended s' p.seq .ok 0 (w32 f.columns) (w32 f.marks) (w32 f.flagged) (w32 f.probes) ∧
      Only [.now, .flash, .host, .journal, .lines, .loop, .ring, .out] s s' := by
  intro s1 f s'
  have htaken : Only [.now, .loop] s s1 := State.dequeueProfile_only rest
  have hjudged := s1.afterProfile_only p
  have hjournal : (s1.afterProfile p).journal = s.journal := (hjudged .journal (by decide)).trans (htaken .journal (by decide))
  exact ⟨State.endProfile_ended hrunning hjournal 0 f,
    State.endProfile_only _ _ _ _ (Within.lit rfl) (Only.trans (Only.wider htaken (Within.lit rfl)) (Only.wider hjudged (Within.lit rfl)))⟩

end

/-- A profile that gives no column evidence ends with nothing found. -/
theorem exec_profileProcess_without_evidence {s : State} (t : Nat) {p : Profile} {rest : List Profile} (hruns : s.firmwareRuns = true)
    (hwaits : s.loop.waiting = p :: rest) (hold : s.tooOld p = false)
    (hnone : let s1 := (s.tick t).dequeueProfile rest
      ∀ c, c < (s1.tableSet s1.nextWindow).geometry.width → s1.evidence (s1.tableSet s1.nextWindow) p c = none) :
    exec (.profileProcess t) s = .next (((s.tick t).dequeueProfile rest).endProfile p 0 {}) := by
  obtain ⟨hjudged, hafter⟩ := State.afterProfile_of_no_evidence hnone
  rw [exec_profileProcess_judged t hruns hwaits hold, hjudged, hafter]

/-! ### INSPECT_PROFILE (R217, R218) -/

theorem Checks.has_resource {c : Checks} (h : c.verdict = none) : c.noResource = false := by
  cases hnone : c.noResource with
  | false => rfl
  | true =>
    have hbusy := Checks.not_busy h
    unfold Checks.verdict at h
    simp only [hbusy, hnone, if_true, Bool.false_eq_true, if_false] at h
    split at h
    · cases h
    · split at h
      · cases h
      · split at h <;> cases h

theorem State.tick_start_only (s : State) (t seq : Nat) (running : Bool) : Only [.now, .host, .journal, .out] s ((s.tick t).start seq running) :=
  State.start_only _ _ _ (Within.lit rfl) (State.tick_only s t (Within.lit rfl) (Only.refl _ s))

theorem Only.with_ring {m : List Part} {s t : State} (h : Only m s t) (hring : Part.ring ∈ m) (r : Ring) : Only m s { t with ring := r } :=
  fun p hp => by
    cases p with
    | ring => exact absurd hring hp
    | _ => exact h _ hp

/-- A packet put on the ports leaves the profiles forwarded as they are. -/
theorem State.sendNumbered_forwarded (s : State) (src dst sq : Nat) (b : Payload ⊕ MirrorMsg) :
    (s.sendNumbered src dst sq b).ring.forwarded = s.ring.forwarded := by
  simp only [State.sendNumbered, State.emitPacket, State.sendBoth_ring]

/-- A profile cut into packets of the ring, which changes no more than the ring's own state. -/
theorem State.forwardProfile_forwarded {s : State} {seq : Nat} {d : List Byte} (h : (s.colourNode (leAt d 0 1)).isSome = true) :
    ∃ u f, s.forwardProfile seq d = u.setRunning seq ∧ u.ring.forwarded = s.ring.forwarded ++ [f] ∧ f.seq = seq ∧ Only [.ring, .out] s u := by
  obtain ⟨n, hn⟩ := Option.isSome_iff_exists.1 h
  simp only [State.forwardProfile, hn]
  refine ⟨_, _, rfl, congrArg (· ++ [_]) ?_, rfl, ?_⟩
  · refine List.foldlRecOn (motive := fun u : State => u.ring.forwarded = s.ring.forwarded) _ _ rfl fun u hu c _ => ?_
    exact (State.sendNumbered_forwarded _ _ _ _ _).trans hu
  · exact Only.with_ring (Only.foldl (fun u c hu => State.sendNumbered_only _ _ _ _ _ (Within.lit rfl) (State.takeSq_only _ _ _ (Within.lit rfl) hu))
      (Only.refl _ s)) (by decide) _

theorem State.forwards_congr {s u : State} (h : u.ring = s.ring) (d : List Byte) : u.forwards d = s.forwards d := by
  simp only [State.forwards, State.ownProfile, h]

theorem State.colourNode_congr {s u : State} (h : u.ring = s.ring) (colour : Nat) : u.colourNode colour = s.colourNode colour := by
  simp only [State.colourNode, h]

/-- A profile that the manager forwards has a bar to go to: without one it fails its checks. -/
theorem colourNode_of_inspectChecks {s : State} {t : Nat} {inp : HostList} {e : JEntry} (hchecked : Checked (inspectChecks inp) s t e)
    (hforwards : s.forwards inp.data = true) : (s.colourNode (leAt inp.data 0 1)).isSome = true := by
  have hres := Checks.has_resource hchecked
  simp only [inspectChecks, State.forwards_congr (State.tick_ring s t), hforwards, if_true, State.colourNode_congr (State.tick_ring s t)] at hres
  exact Option.isNone_eq_false_iff.1 hres

section
variable {s : State} {t seq : Nat} {inp : HostList} {e : JEntry} (hruns : Runs s t seq 0x0701 true e) (hchecked : Checked (inspectChecks inp) s t e)
include hruns hchecked

theorem exec_inspectProfile :
    exec (.inspectProfile seq inp t) s = .next (if s.forwards inp.data then ((s.tick t).start seq false).forwardProfile seq inp.data
      else (((s.tick t).start seq false).setRunning seq).acceptProfile (profileOf seq none inp.data)) := by
  rw [← State.forwards_congr (u := (s.tick t).start seq false) (by simp)]
  exact congrArg Host.Outcome.next (hruns.command false _ hchecked)

/-- The manager forwards a profile of another colour. -/
theorem exec_inspectProfile_forwarded (hforwards : s.forwards inp.data = true) :
    ∃ s', exec (.inspectProfile seq inp t) s = .next s' ∧ InProgress s' seq ∧ (∃ f, s'.ring.forwarded = s.ring.forwarded ++ [f] ∧ f.seq = seq) ∧
      Only [.now, .host, .journal, .ring, .out] s s' := by
  have hexec := exec_inspectProfile hruns hchecked
  rw [if_pos hforwards] at hexec
  have hnode : (((s.tick t).start seq false).colourNode (leAt inp.data 0 1)).isSome = true := by
    rw [State.colourNode_congr (s := s) (by simp)]
    exact colourNode_of_inspectChecks hchecked hforwards
  obtain ⟨u, f, heq, hring, hseq, honly⟩ := State.forwardProfile_forwarded (seq := seq) hnode
  refine ⟨_, hexec, ?_, ⟨f, ?_, hseq⟩, State.forwardProfile_only _ _ _ (Within.lit rfl)
    (Only.wider (s.tick_start_only t seq false) (Within.lit rfl))⟩
  · rw [heq]
    exact (hruns.setRunning_running (honly .journal (by decide))).1
  · rw [heq, State.setRunning_ring, hring]
    rfl

variable (hown : s.forwards inp.data = false)
include hown

/-- A profile of this bar, not met before, waits. -/
theorem exec_inspectProfile_waits (hnew : has (profileOf seq none inp.data).id s.loop.recentIds = false) :
    ∃ s', exec (.inspectProfile seq inp t) s = .next s' ∧ InProgress s' seq ∧
      s'.loop = { s.loop with
        waiting := s.loop.waiting ++ [profileOf seq none inp.data], recentIds := ((profileOf seq none inp.data).id :: s.loop.recentIds).take 64 } ∧
      Only [.now, .host, .journal, .loop, .out] s s' := by
  have hexec := exec_inspectProfile hruns hchecked
  have hloop : (((s.tick t).start seq false).setRunning seq).loop = s.loop := by simp
  simp only [hown, Bool.false_eq_true, if_false, State.acceptProfile, hloop, hnew] at hexec
  refine ⟨_, hexec, (hruns.setRunning_running (r := false) rfl).1, rfl, Only.with_loop ?_ (by decide) _⟩
  exact State.setRunning_only _ _ (Within.lit rfl) (Only.wider (s.tick_start_only t seq false) (Within.lit rfl))

/-- A duplicate of one of the last 64 ends with detail bit 2. -/
theorem exec_inspectProfile_duplicate (hmet : has (profileOf seq none inp.data).id s.loop.recentIds = true) :
    ∃ s', exec (.inspectProfile seq inp t) s = .next s' ∧ Ended s' seq .ok 4 ∧ Only [.now, .host, .journal, .out] s s' := by
  have hexec := exec_inspectProfile hruns hchecked
  have hloop : (((s.tick t).start seq false).setRunning seq).loop = s.loop := by simp
  simp only [hown, Bool.false_eq_true, if_false, State.acceptProfile, hloop, hmet, if_true] at hexec
  have hfinish : Only [.now, .host, .journal, .out] s ((((s.tick t).start seq false).setRunning seq).finish seq .ok 4) :=
    State.finish_only _ _ _ _ _ _ _ _ (Within.lit rfl) (State.setRunning_only _ _ (Within.lit rfl) (s.tick_start_only t seq false))
  exact ⟨_, hexec, State.endProfile_ended (p := profileOf seq none inp.data) (hruns.setRunning_running (r := false) rfl) rfl 4 {}, hfinish⟩

end

end Sys2Proof.Machine
end

section
/-!
PROOFS. SET_LOOP_POLICY (R231) and NOZZLE_OVERRIDE (R226, R230, R324), and the obligation on the nozzle health loop.
-/

namespace Sys2Proof.Machine

open Sys2Proof.Safety

/-! ### SET_LOOP_POLICY (R231) -/

/-- The settings whose change clears windows and exonerations and ends probes: M, N, θ_w, θ_d, θ_m and s_min. -/
def LoopPolicy.sameWindows (q o : LoopPolicy) : Prop :=
  q.m = o.m ∧ q.n = o.n ∧ q.thetaW = o.thetaW ∧ q.thetaD = o.thetaD ∧ q.thetaM = o.thetaM ∧ q.sMin = o.sMin

theorem State.takePolicy_of_same {s : State} {q : LoopPolicy} (h : q.sameWindows s.loop.policy) :
    s.takePolicy q = { s with loop := { s.loop with policy := q } } := if_pos h

/-- Ends of probes take probes away, and leave the rest of the loop as it was. -/
theorem State.foldl_endProbe_loop (l : List Probe) (s : State) :
    (l.foldl (fun s p => s.endProbe p.column) s).loop = { s.loop with probes := s.loop.probes.filter fun x => l.all fun p => x.column != p.column } := by
  induction l generalizing s with
  | nil =>
    have hall : s.loop.probes.filter (fun x => ([] : List Probe).all fun p => x.column != p.column) = s.loop.probes := List.filter_eq_self.2 fun _ _ => rfl
    rw [List.foldl_nil, hall]
  | cons p l ih =>
    simp only [List.foldl_cons, ih, State.endProbe_loop, List.filter_filter, List.all_cons, Bool.and_comm]

theorem State.takePolicy_loop_of_changed {s : State} {q : LoopPolicy} (h : ¬ q.sameWindows s.loop.policy) :
    (s.takePolicy q).loop = { s.loop with policy := q, windows := [], exonerated := [], gainWindow := [], offsetWindow := [], probes := [] } := by
  have hnone : s.loop.probes.filter (fun x => s.loop.probes.all fun p => x.column != p.column) = [] :=
    List.filter_eq_nil_iff.2 fun x hx hall => by simpa using List.all_eq_true.1 hall x hx
  have hprobes := State.foldl_endProbe_loop s.loop.probes s
  rw [hnone] at hprobes
  have htake : s.takePolicy q = _ := if_neg h
  rw [htake]
  simp only [hprobes]

theorem exec_setLoopPolicy {s : State} {t seq : Nat} {e : JEntry} (hruns : Runs s t seq 0x0702 false e) (hchecked : Checked loopPolicyChecks s t e) :
    exec (.setLoopPolicy seq t) s = .next ((((s.tick t).start seq true).takePolicy e.policy).finish seq .ok) :=
  congrArg Host.Outcome.next (hruns.commandOk _ _ _ hchecked)

theorem exec_setLoopPolicy_outcome {s : State} {t seq : Nat} {e : JEntry} (hruns : Runs s t seq 0x0702 false e) (hchecked : Checked loopPolicyChecks s t e) :
    ∃ s', exec (.setLoopPolicy seq t) s = .next s' ∧ Ended s' seq .ok ∧ s'.loop.policy = e.policy ∧
      (e.policy.sameWindows s.loop.policy → s'.loop = { s.loop with policy := e.policy } ∧ s'.lines = s.lines) ∧
      (¬ e.policy.sameWindows s.loop.policy → s'.loop =
        { s.loop with policy := e.policy, windows := [], exonerated := [], gainWindow := [], offsetWindow := [], probes := [] }) ∧
      Only [.now, .host, .journal, .lines, .loop, .out] s s' := by
  have hloop : ((s.tick t).start seq true).loop = s.loop := by simp
  have htaken := State.takePolicy_only ((s.tick t).start seq true) e.policy (Within.refl _) (Only.refl _ _)
  have hsame : e.policy.sameWindows s.loop.policy → (((s.tick t).start seq true).takePolicy e.policy).loop = { s.loop with policy := e.policy } ∧
      (((s.tick t).start seq true).takePolicy e.policy).lines = s.lines := fun h => by
    rw [State.takePolicy_of_same (by rwa [hloop]), hloop]
    exact ⟨rfl, State.start_lines _ _ _⟩
  have hchanged : ¬ e.policy.sameWindows s.loop.policy → (((s.tick t).start seq true).takePolicy e.policy).loop =
      { s.loop with policy := e.policy, windows := [], exonerated := [], gainWindow := [], offsetWindow := [], probes := [] } := fun h => by
    rw [State.takePolicy_loop_of_changed (by rwa [hloop]), hloop]
  refine ⟨_, exec_setLoopPolicy hruns hchecked, hruns.ended (htaken .journal (by decide)) .ok 0 0 0 0 0, ?_, ?_, ?_,
    State.finish_only _ _ _ _ _ _ _ _ (Within.lit rfl) (Only.trans (Only.wider (s.tick_start_only t seq true) (Within.lit rfl)) (Only.wider htaken (Within.lit rfl)))⟩
  · rw [State.finish_loop]
    by_cases h : e.policy.sameWindows s.loop.policy
    · rw [(hsame h).1]
    · rw [hchanged h]
  · rw [State.finish_loop, State.finish_lines]
    exact hsame
  · rw [State.finish_loop]
    exact hchanged

/-! ### NOZZLE_OVERRIDE, the column form (R230, R324) -/

theorem State.resetColumn_loop (s : State) (c : Nat) :
    (s.resetColumn c).loop = { s.loop with kappa := SMap.erase c s.loop.kappa, offsets := SMap.erase c s.loop.offsets } :=
  State.columnDirty_loop _ c

theorem State.foldl_resetColumn_corrections (l : List Nat) (s : State) (c : Nat) :
    SMap.get 16384 (l.foldl State.resetColumn s).loop.kappa c = (if c ∈ l then 16384 else SMap.get 16384 s.loop.kappa c) ∧
      SMap.get 0 (l.foldl State.resetColumn s).loop.offsets c = if c ∈ l then 0 else SMap.get 0 s.loop.offsets c := by
  induction l generalizing s with
  | nil => simp
  | cons x l ih =>
    obtain ⟨hkappa, hoffset⟩ := ih (s.resetColumn x)
    rw [List.foldl_cons, hkappa, hoffset, State.resetColumn_loop]
    simp only [SMap.get_erase, List.mem_cons]
    by_cases hx : c = x
    · simp [hx]
    · simp [hx]

/-- The columns of a range. -/
def columnRange (first count : Nat) : List Nat := (List.range count).map (first + ·)

theorem mem_columnRange {first count c : Nat} : c ∈ columnRange first count ↔ first ≤ c ∧ c < first + count := by
  simp only [columnRange, List.mem_map, List.mem_range]
  constructor
  · rintro ⟨i, hi, rfl⟩
    omega
  · rintro ⟨hlow, hhigh⟩
    exact ⟨c - first, by omega, by omega⟩

/-! ### NOZZLE_OVERRIDE, the record form (R226, R324) -/

/-- The state byte that a record writes. -/
def recordByte (v : Nat) : Byte := BitVec.ofNat 8 (v % 64)

theorem State.columnOf_congr {s u : State} (h : u.lines = s.lines) (i : Nat) : u.columnOf i = s.columnOf i := by
  simp only [State.columnOf, h]

theorem State.override_loop (s : State) (i v : Nat) :
    (s.override i v).loop = { (s.endProbe (s.columnOf i)).loop with overridden := addNew i (s.endProbe (s.columnOf i)).loop.overridden } := by
  simp only [State.override, State.headDirty_loop]
  rfl

theorem State.nozzle_override (s : State) (i v j : Nat) :
    (s.override i v).nozzle j = if j = i then recordByte v else (s.endProbe (s.columnOf i)).nozzle j := by
  have hlines : (s.override i v).lines = ((s.endProbe (s.columnOf i)).setNozzle i (recordByte v)).lines := State.headDirty_lines _ _ _
  rw [State.nozzle_congr hlines, State.nozzle_setNozzle]

theorem State.override_probe? (s : State) (i v : Nat) : (s.override i v).probe? (s.columnOf i) = none := by
  have hprobes : (s.override i v).loop.probes = (s.endProbe (s.columnOf i)).loop.probes := by rw [State.override_loop]
  rw [State.probe?, hprobes]
  exact State.endProbe_probe? s (s.columnOf i)

theorem State.has_overridden (s : State) (i v : Nat) : has i (s.override i v).loop.overridden = true := by
  rw [State.override_loop]
  exact has_addNew_self i _

/-- With no column under probe, each nozzle has the byte of its last record, and one without a record keeps its own. -/
theorem State.nozzle_foldl_override (l : List (Nat × Nat)) {s : State} (hprobes : s.loop.probes = []) (i : Nat) :
    (l.foldl (fun s x => s.override x.1 x.2) s).nozzle i =
      (((l.filter fun r => r.1 == i).getLast?).map fun r => recordByte r.2).getD (s.nozzle i) := by
  induction l generalizing s with
  | nil => rfl
  | cons x l ih =>
    have hnone : s.probe? (s.columnOf x.1) = none := by simp [State.probe?, hprobes]
    have hleft : (s.override x.1 x.2).loop.probes = [] := by rw [State.override_loop, State.endProbe_of_none hnone]; exact hprobes
    rw [List.foldl_cons, ih hleft, State.nozzle_override, State.endProbe_of_none hnone]
    by_cases hx : x.1 = i
    · cases hlast : (l.filter fun r => r.1 == i).getLast? <;> simp [hx, List.getLast?_cons, hlast]
    · simp [hx, Ne.symm hx]

section
variable {s : State} {t seq : Nat} {inp : HostList} {e : JEntry} (hruns : Runs s t seq 0x0703 (e.p8 12 != 1) e) (hchecked : Checked (overrideChecks inp) s t e)
include hruns hchecked

theorem exec_nozzleOverride :
    exec (.nozzleOverride seq inp t) s = .next (
      (if e.p8 12 = 1 then (columnRange (e.p32 16) (e.p32 20)).foldl State.resetColumn ((s.tick t).start seq true)
        else (overrideRecords inp.data).foldl (fun s x => s.override x.1 x.2) ((s.tick t).start seq true)).finish seq .ok 0
      (w32 (if e.p8 12 = 1 then e.p32 20 else (dedupe ((overrideRecords inp.data).map (·.1))).length))) := by
  have hentry : s.entry? seq = some e := (State.startable_some hruns.1).1
  show execNozzleOverride seq inp t s = _
  simp only [execNozzleOverride, hentry, Option.any_some]
  exact congrArg Host.Outcome.next (hruns.commandOk _ _ _ hchecked)

/-- The column form: loop gain 1.0 and loop offset 0 over the range. -/
theorem exec_nozzleOverride_columns (hform : e.p8 12 = 1) :
    ∃ s', exec (.nozzleOverride seq inp t) s = .next s' ∧ Ended s' seq .ok 0 (w32 (e.p32 20)) ∧
      (∀ c, SMap.get 16384 s'.loop.kappa c = (if e.p32 16 ≤ c ∧ c < e.p32 16 + e.p32 20 then 16384 else SMap.get 16384 s.loop.kappa c) ∧
        SMap.get 0 s'.loop.offsets c = if e.p32 16 ≤ c ∧ c < e.p32 16 + e.p32 20 then 0 else SMap.get 0 s.loop.offsets c) ∧
      Only [.now, .flash, .host, .journal, .loop, .out] s s' := by
  have hexec := exec_nozzleOverride hruns hchecked
  simp only [if_pos hform] at hexec
  have hreset : Only [.flash, .loop] ((s.tick t).start seq true) ((columnRange (e.p32 16) (e.p32 20)).foldl State.resetColumn ((s.tick t).start seq true)) :=
    Only.foldl (fun u c hu => State.resetColumn_only u c (Within.refl _) hu) (Only.refl _ _)
  refine ⟨_, hexec, hruns.ended (hreset .journal (by decide)) .ok 0 _ 0 0 0, fun c => ?_,
    State.finish_only _ _ _ _ _ _ _ _ (Within.lit rfl) (Only.trans (Only.wider (s.tick_start_only t seq true) (Within.lit rfl)) (Only.wider hreset (Within.lit rfl)))⟩
  have hcorrections := State.foldl_resetColumn_corrections (columnRange (e.p32 16) (e.p32 20)) ((s.tick t).start seq true) c
  simpa only [State.finish_loop, mem_columnRange, State.start_loop, State.tick_loop] using hcorrections

/-- The record form: what it writes where no column is under probe, and where it is a single record. -/
theorem exec_nozzleOverride_records (hform : e.p8 12 = 0) :
    ∃ s', exec (.nozzleOverride seq inp t) s = .next s' ∧ Ended s' seq .ok 0 (w32 (dedupe ((overrideRecords inp.data).map (·.1))).length) ∧
      Only [.now, .flash, .host, .journal, .lines, .loop, .out] s s' ∧
      (s.loop.probes = [] → ∀ i, s'.nozzle i =
        ((((overrideRecords inp.data).filter fun r => r.1 == i).getLast?).map fun r => recordByte r.2).getD (s.nozzle i)) ∧
      ∀ i v, overrideRecords inp.data = [(i, v)] → s'.probe? (s.columnOf i) = none ∧ s'.nozzle i = recordByte v ∧ has i s'.loop.overridden = true := by
  have hrecords : ¬ e.p8 12 = 1 := by omega
  have hexec := exec_nozzleOverride hruns hchecked
  simp only [if_neg hrecords] at hexec
  have hlines : ((s.tick t).start seq true).lines = s.lines := by simp
  have hloop : ((s.tick t).start seq true).loop = s.loop := by simp
  have hwritten : Only [.flash, .lines, .loop] ((s.tick t).start seq true)
      ((overrideRecords inp.data).foldl (fun s x => s.override x.1 x.2) ((s.tick t).start seq true)) :=
    Only.foldl (fun u x hu => State.override_only u x.1 x.2 (Within.refl _) hu) (Only.refl _ _)
  refine ⟨_, hexec, hruns.ended (hwritten .journal (by decide)) .ok 0 _ 0 0 0,
    State.finish_only _ _ _ _ _ _ _ _ (Within.lit rfl) (Only.trans (Only.wider (s.tick_start_only t seq true) (Within.lit rfl)) (Only.wider hwritten (Within.lit rfl))),
    fun hprobes i => ?_, fun i v hone => ?_⟩
  · rw [State.nozzle_congr (State.finish_lines _ _ _ _ _ _ _ _), State.nozzle_foldl_override _ (by rwa [hloop]), State.nozzle_congr hlines]
  · rw [hone, List.foldl_cons, List.foldl_nil, ← State.columnOf_congr hlines, State.nozzle_congr (State.finish_lines _ _ _ _ _ _ _ _),
      State.nozzle_override, if_pos rfl, State.finish_loop, State.probe?, State.finish_loop]
    exact ⟨State.override_probe? _ i v, rfl, State.has_overridden _ i v⟩

end

/-- Settles O19: a profile is forwarded, waits or is a duplicate, and the oldest is judged unless its periods are gone; marks, flags, corrections and
the end of a probe follow the loop's own operations; a policy and an override are what these leave of the state that their command has started. -/
theorem healthLoop : Obligations.HealthLoop := by
  intro s t
  refine ⟨fun seq inp e hruns hchecked => ⟨exec_inspectProfile_forwarded hruns hchecked, exec_inspectProfile_waits hruns hchecked,
      exec_inspectProfile_duplicate hruns hchecked⟩, exec_profileProcess_idle t, fun p rest hfirmware hwaits hrunning => ?process,
    fun q p c share delta hbounds => LoopPolicy.mark_eq hbounds p c delta share,
    fun i m hflags hseen hmay hfree _ => State.flagNozzle_outcome hflags hseen hmay hfree m, fun c delta => ?gain, fun c product => ?offset,
    fun col p hprobe hdue hfirmware => exec_probeTimeout_outcome t hprobe hdue hfirmware, fun col hearly => exec_probeTimeout_early t hearly,
    fun seq e hruns hchecked => ?policy, fun seq inp e hruns hchecked => ⟨exec_nozzleOverride_columns hruns hchecked, fun hform => ?records⟩⟩
  case process =>
    exact ⟨fun hold => ⟨_, exec_profileProcess_tooOld t hfirmware hwaits hold, State.endProfile_nothing rest hrunning 1⟩,
      fun hold hnone => ⟨_, exec_profileProcess_without_evidence t hfirmware hwaits hold hnone, State.endProfile_nothing rest hrunning 0⟩,
      fun hold => ⟨_, exec_profileProcess_judged t hfirmware hwaits hold, State.endProfile_judged rest hrunning⟩⟩
  case gain =>
    refine ⟨fun hshort => ?_, fun hfull => ?_⟩
    · rw [State.gainEntry_collects s c hshort]
      exact ⟨by rw [SMap.get_set_self], rfl⟩
    · rw [State.gainEntry_full s c hfull]
      exact ⟨(SMap.get_erase _ _ _ _).trans (if_pos rfl), fun x => SMap.get_corrected _ _ _ _ _ s _⟩
  case offset =>
    intro q w hfull
    rw [State.offsetEntry_full s c hfull]
    exact ⟨(SMap.get_erase _ _ _ _).trans (if_pos rfl), fun x => SMap.get_corrected _ _ _ _ _ s _⟩
  case policy =>
    obtain ⟨s', hexec, hended, hpolicy, hsame, hchanged, honly⟩ := exec_setLoopPolicy_outcome hruns hchecked
    refine ⟨s', hexec, hended, hpolicy, hsame, fun h => ?_, honly⟩
    rw [hchanged h]
    exact ⟨rfl, rfl, rfl, rfl, rfl, rfl, rfl⟩
  case records =>
    obtain ⟨s', hexec, hended, honly, hlast, hone⟩ := exec_nozzleOverride_records hruns hchecked hform
    refine ⟨s', hexec, hended, honly, fun hprobes i => ?_, hone⟩
    rw [hlast hprobes i]
    cases ((overrideRecords inp.data).filter fun r => r.1 == i).getLast? with
    | none => rfl
    | some r => rfl

end Sys2Proof.Machine
end
